-- ==== Sys2Proof/Word.lean ====
section
/-! DEFINITION. The word types of the machine and their plainest bit operations (R4, R15, R21). -/

namespace Sys2Proof

/-- A byte of memory. -/
abbrev Byte := BitVec 8

/-- An instruction word: 16 bits (R15). -/
abbrev Half := BitVec 16

/-- A general register, a predicate register, a k-register: 32 bits (R21). -/
abbrev Word := BitVec 32

/-- An address register: 64 bits (R21). -/
abbrev DWord := BitVec 64

/-- A vector register: 32 lanes of 32 bits, lane 0 lowest (R174). -/
abbrev VWord := BitVec 1024

/-- `bits(v, hi, lo)` of the manual's pseudocode (R8). -/
abbrev bits {n : Nat} (v : BitVec n) (hi lo : Nat) : BitVec (hi - lo + 1) := v.extractLsb hi lo

/-- A Boolean as the word 0 or 1 (R90, R114). -/
def boolWord (b : Bool) : Word := if b then 1 else 0

/-- The field of width `w` at bit `lo` of a number: `(n / 2^lo) mod 2^w`. -/
def natField (n lo w : Nat) : Nat := n / 2 ^ lo % 2 ^ w

end Sys2Proof
end

