-- ==== Sys2Proof/Config.lean ====
section
/-! DEFINITION. What the spec leaves open: constants without a body, one for each free value. Nothing can evaluate them, so
a proved statement holds whatever they are. -/

namespace Sys2Proof.Config

/-- Which of the FP32 values within the error bound of R82 a special function returns, by the function's number and the
input's bits: one fixed choice per function and input (log 5). -/
opaque specialPick : Nat → Nat → Nat

/-- The FP32 value that an integer element has for a MOMENT or LSE2 summary whose image names an integer key type (log 28). -/
opaque summaryValue : BitVec 32 → BitVec 32

/-- Extra cycles of the k-th counted step: stalls, waits and transfers, beyond the one cycle of a group (log 6). -/
opaque stall : Nat → Nat

/-- Which of the values that the matrix unit has read of a piece serves a chunk of a cell, by the command's number, the piece, the
cell and the chunk (log 19). -/
opaque pieceChoice : Nat → Nat → Nat → Nat → Nat

/-- How far a physical tile is from its field's PLL (log 7). -/
opaque pllDistance : Nat → Nat

/-- How a boot orders the neighbours of a physical tile that are equally near its field's root, by the boot, the tile and the direction
(log 7). -/
opaque clockOrder : Nat → Nat → Nat → Nat

/-- What a cluster's sensor reads, and its value by the heat model, by layer (0 logic, 1 fly), cluster and refresh, in sixteenths of a
degree (log 7). -/
opaque sensor : Nat → Nat → Nat → BitVec 16
opaque heatModel : Nat → Nat → Nat → BitVec 16

/-- The native estimate of a temperature, by layer, physical tile and refresh, in sixteenths of a degree (log 7). -/
opaque estimate : Nat → Nat → Nat → BitVec 16

/-- The logical column and row of the tile whose edge router serves a Speosh port (log 30). -/
opaque speoshEdge : Nat → Nat × Nat

/-- The k-th word of memory that an abandoned operation leaves undefined (log 8). -/
opaque abandonedWord : Nat → BitVec 32

/-- The k-th byte of a backing that the spec calls undefined (log 8). -/
opaque abandonedByte : Nat → BitVec 8

/-- SHA-256, which the spec names and does not define (log 9). -/
opaque sha256 : List (BitVec 8) → List (BitVec 8)

/-- The module's identity public key (log 9). -/
opaque identityKey : List (BitVec 8)

/-- The firmware of the service processor and of the field managers (log 9). -/
opaque serviceFirmware : List (BitVec 8)
opaque managerFirmware : List (BitVec 8)

/-- The SLH-DSA signature over a message with the identity key (log 9). -/
opaque signature : List (BitVec 8) → List (BitVec 8)

end Sys2Proof.Config
end

