-- ==== Sys2Proof/Syntax.lean ====
section
/-! DEFINITION. The instructions of the machine, as data: register names, types, scopes and the one inductive `Instr`
with a constructor for every row of spec/opcode_table.json. -/

namespace Sys2Proof

/-- g0 to g63 (R21). -/
abbrev GReg := BitVec 6
/-- v0 to v31 (R174). -/
abbrev VReg := BitVec 5
/-- a0 to a7 (R21). -/
abbrev AReg := BitVec 3
/-- p0 to p7 (R21). -/
abbrev PReg := BitVec 3
/-- h0 to h3, the summary registers (R224). -/
abbrev HReg := BitVec 2
/-- z0 to z3, the accumulators (R197). -/
abbrev ZReg := BitVec 2
/-- q0 to q7, the input queues of a core (R130). -/
abbrev QReg := BitVec 3
/-- o0 to o7, the output ports of a core (R130). -/
abbrev OReg := BitVec 3
/-- b0 to b7, the barriers of a tile (R119). -/
abbrev BReg := BitVec 3
/-- sem0 to sem31, the semaphores of a tile (R118). -/
abbrev SemReg := BitVec 5
/-- A k-register number (R23). -/
abbrev KReg := BitVec 10

/-- Element types, in the order of their codes (R39). -/
inductive EType where
  | f32 | bf16 | i32 | i16 | i8 | e4m3 | e5m2 | u32
  deriving DecidableEq, Repr

/-- The type of a code (R39). -/
def EType.ofCode (c : BitVec 3) : EType :=
  match c.toNat with
  | 0 => .f32 | 1 => .bf16 | 2 => .i32 | 3 => .i16 | 4 => .i8 | 5 => .e4m3 | 6 => .e5m2 | _ => .u32

/-- The code of a type (R39). -/
def EType.code : EType → Nat
  | .f32 => 0 | .bf16 => 1 | .i32 => 2 | .i16 => 3 | .i8 => 4 | .e4m3 => 5 | .e5m2 => 6 | .u32 => 7

/-- Coherence scopes, narrowest first, in the order of their codes (R41). -/
inductive Scope where
  | lane | core | tile | cluster | field | wafer | system
  deriving DecidableEq, Repr

/-- The scope of a code; code 7 is illegal (R41). -/
def Scope.ofCode (c : BitVec 3) : Option Scope :=
  match c.toNat with
  | 0 => some .lane | 1 => some .core | 2 => some .tile | 3 => some .cluster | 4 => some .field
  | 5 => some .wafer | 6 => some .system | _ => none

/-- The code of a scope (R41). -/
def Scope.code : Scope → Nat
  | .lane => 0 | .core => 1 | .tile => 2 | .cluster => 3 | .field => 4 | .wafer => 5 | .system => 6

/-- The store kinds of MST (R49, R218). -/
inductive MstKind where
  | f32 | bf16 | bf16sr | e4m3 | e5m2 | i32 | i8
  deriving DecidableEq, Repr

/-- The NM kind code of an MST kind (R49). -/
def MstKind.code : MstKind → Nat
  | .f32 => 0 | .bf16 => 1 | .bf16sr => 2 | .e4m3 => 3 | .e5m2 => 4 | .i32 => 5 | .i8 => 6

/-- The load kinds of MLD (R49, R220). -/
inductive MldKind where
  | f32 | bf16
  deriving DecidableEq, Repr

/-- The NM kind code of an MLD kind (R49). -/
def MldKind.code : MldKind → Nat
  | .f32 => 0 | .bf16 => 1

/-- The three contexts of a tile, in the order of the CORE register: S core, C core, message thread (R13, R23). -/
inductive CtxId where
  | s | c | m
  deriving DecidableEq, Repr

/-- The two cores of a tile, which own handlers, queues and ports (R124, R130). -/
inductive CoreId where
  | s | c
  deriving DecidableEq, Repr

/-! ## What events carry: images, records, messages and packets -/

/-- One entry of a core's handler table (R122). -/
structure Slot where
  start : Half := 0
  inmask : Byte := 0
  valid : Bool := false
  prio : BitVec 2 := 0
  chk : Bool := false
  aovr : Bool := false
  filt : BitVec 2 := 0
  fval : Byte := 0
  fmask : Byte := 0
  need : Word := 0
  aoval : BitVec 7 := 0
  wdexp : BitVec 5 := 0
  deriving DecidableEq, Repr

/-- One valid entry of a node's user message table (R326). -/
structure UserKind where
  kind : Nat
  start : Half
  rpl : Bool
  wdexp : BitVec 5
  deriving DecidableEq, Repr

/-- A ring that the image declares: the scratch offset of its descriptor, and its fields (R322). -/
structure RingDecl where
  place : Nat
  base : Nat
  slot : Nat
  count : Nat
  free : SemReg
  filled : SemReg
  deriving DecidableEq, Repr

/-- What the image holds for one core of a node (R121); `slots` are the 16-byte entries of its handler table, byte 0 lowest (R122). -/
structure CoreImage where
  code : List (Nat × Byte) := []
  slots : List (BitVec 128) := []
  amode : BitVec 7 := 0
  tvec : Half := 0
  srseed : Word := 1
  deriving DecidableEq, Repr

/-- A node of a pitch image (R121, R155). `x`, `y` are its place in the pitch; `pages` are the 64 KiB pages of its
translation list. -/
structure NodeImage where
  x : Nat
  y : Nat
  s : CoreImage := {}
  c : CoreImage := {}
  scratch : List (Nat × Byte) := []
  rings : List RingDecl := []
  kinds : List UserKind := []
  cache : Nat := 0
  shared : Nat := 0
  lease : Half := 0
  power : BitVec 3 := 0
  pages : List Nat := []
  deriving DecidableEq, Repr

/-- Where a channel starts: a port of a node, or an ingress stream (R132, R133). -/
inductive Source where
  | port (node : Nat) (core : CoreId) (o : OReg)
  | ingress (k : Nat)
  deriving DecidableEq, Repr

/-- Where a channel ends: a queue of a node, or an egress stream (R132, R133). -/
inductive Dest where
  | queue (node : Nat) (core : CoreId) (q : QReg)
  | egress (k : Nat)
  deriving DecidableEq, Repr

/-- A channel of a pitch: `slots` for each destination queue, `stage` at its port, `vc` on every link (R131, R132). -/
structure Channel where
  src : Source
  dests : List Dest
  slots : Nat := 0
  stage : Nat := 2
  vc : Nat := 0
  deriving DecidableEq, Repr

/-- A published buffer: the global addresses of its two backings and its size (R261). -/
structure Buffer where
  va0 : Nat
  va1 : Nat
  size : Nat
  deriving DecidableEq, Repr

/-- A pitch image (R121, R155): `depth` is the replay depth of a stateless pitch; `homes` is the home table (R265). -/
structure Image where
  cfg : Nat
  wc : Nat
  hc : Nat
  nodes : List NodeImage := []
  channels : List Channel := []
  buffers : List Buffer := []
  depth : Option Nat := none
  root : Nat := 0
  homes : List Word := []
  deriving DecidableEq, Repr

/-- What the orders of a module carry (R276, R278, R284): the logical time, and which numbered events happen before: removals of
retained tokens (R382) and engine commands that write published buffers (R288), by their numbers, rising. -/
structure Time where
  time : DWord := 0
  known : List Nat := []
  deriving DecidableEq, Repr

/-- A word on a channel (R130), with what its sender carries (R278, R284). `serial` tells the token of an ingress stream that it
is, so that its removal can be told (R382): the model's own, 0 for every other word. -/
structure Token where
  payload : DWord
  tag : Byte
  mark : BitVec 2
  pts : Time := {}
  serial : Nat := 0
  deriving DecidableEq, Repr

/-- A launch instance: PITCH.CFG and PITCH.INST (R152). -/
structure PitchId where
  cfg : Nat
  inst : Nat
  deriving DecidableEq, Repr

/-- Who sent a message: the module, the tile and the context, and its pitch instance (R326, R348). -/
structure Sender where
  mod : Nat
  rank : Nat
  ctx : CtxId
  pitch : PitchId
  deriving DecidableEq, Repr

/-- A user message (R326, R346): `target` is a[x] of its AMSG, `answer` says that the sender waits. -/
structure UserMsg where
  kind : Nat
  args : List Word
  src : Sender
  target : DWord
  answer : Bool
  pts : Time := {}
  tag : Nat := 0
  deriving DecidableEq, Repr

/-- A collective plan, named by its handle and by participant 0: plans of different issuers may share a handle, and then share no
participant (R330, R353). -/
structure PlanKey where
  handle : Half
  lead : Nat × Nat
  deriving DecidableEq, Repr

/-- A COLSET request, named by the instance, tile and context that issued it, and by a number of its own. -/
structure ColsetId where
  inst : Nat
  rank : Nat
  ctx : CtxId
  round : Nat
  deriving DecidableEq, Repr

/-- What the handle homes of the modules of a plan tell one another (R331, R334 to R337, R353, R354; log 30): the set-up of a plan,
module by module; a participant's TRIG and what became of its firing; the plan's release; the end of a pitch. `firing` counts the
plan's firings, `round` the tries of a TRIG or a COLFR; `failure` is 0, or the failure of R353 that a home finds. -/
inductive PlanMsg where
  | ask (q : ColsetId) (desc : BitVec 512) (ranks : List Nat)
  | answer (q : ColsetId) (failures : List Nat) (ranks : List Nat) (free : List Nat)
  | setup (q : ColsetId) (plan : Option PlanKey) (desc : BitVec 512) (scope : Scope) (parts : List (Nat × Nat))
  | ready (q : ColsetId) (failure : Nat)
  | activate (plan : PlanKey)
  | active (plan : PlanKey)
  | release (q : ColsetId)
  | trig (plan : PlanKey) (firing part round : Nat)
  | trigHeard (plan : PlanKey) (firing part round : Nat)
  | untrig (plan : PlanKey) (firing part : Nat)
  | delivered (plan : PlanKey) (firing : Nat)
  | complete (plan : PlanKey) (firing : Nat)
  | failed (plan : PlanKey) (cause : BitVec 3)
  | idleAsk (plan : PlanKey) (round : Nat)
  | idle (plan : PlanKey) (round : Nat)
  | notIdle (plan : PlanKey) (round : Nat)
  | unlock (plan : PlanKey) (round : Nat)
  | free (plan : PlanKey)
  | freed (plan : PlanKey)
  | killed
  deriving DecidableEq, Repr

/-- What a Speosh packet carries, by kind (R443). A plan belongs to the pitch of its configuration id (R450); a partial names its tree
node's first participant and the participants it covers; `total` is the length of what it and its like bring together. -/
inductive PacketBody where
  | message (m : UserMsg) (rank : Nat)
  | reply (rank : Nat) (ctx : CtxId) (answer : Bool) (tag : Nat) (value : Word) (target : DWord) (pts : Time)
  | nack (m : UserMsg) (detail : Byte)
  | partialSum (cfg : Nat) (plan : PlanKey) (firing node span total : Nat) (data : List Byte) (pts : Time)
  | delivery (cfg : Nat) (plan : PlanKey) (firing total : Nat) (data : List Byte) (pts : Time)
  | planNack (cfg : Nat) (plan : PlanKey) (cause : BitVec 3)
  | plan (cfg : Nat) (m : PlanMsg)
  | homeNack (cfg to' : Nat) (m : PlanMsg)
  | beacon (tick : DWord) (port : Nat)
  deriving DecidableEq, Repr

/-- The virtual channel of a packet (R324, R338, R350, R443): collectives and messages travel on VC 14, replies and nacks on VC 13, what
homes tell one another on VC 12, beacons on VC 15 (the last two DEDUCED, log 31). -/
def PacketBody.vc : PacketBody → Nat
  | .message _ _ | .partialSum _ _ _ _ _ _ _ _ | .delivery _ _ _ _ _ _ => 14
  | .reply _ _ _ _ _ _ _ | .nack _ _ | .planNack _ _ _ | .homeNack _ _ _ => 13
  | .plan _ _ => 12
  | .beacon _ _ => 15

/-- The kind of a packet (R443); what homes tell one another is a message (log 31). -/
def PacketBody.kind : PacketBody → Nat
  | .message _ _ | .plan _ _ => 0
  | .reply _ _ _ _ _ _ _ => 1
  | .nack _ _ | .planNack _ _ _ | .homeNack _ _ _ => 2
  | .partialSum _ _ _ _ _ _ _ _ => 3
  | .delivery _ _ _ _ _ _ => 4
  | .beacon _ _ => 5

/-- LEN of a packet: its data flits of 32 bytes, at most 8 (R443). What homes tell one another is counted as a header alone (log 31). -/
def PacketBody.len : PacketBody → Nat
  | .message m _ => min 8 ((4 * m.args.length + 31) / 32)
  | .partialSum _ _ _ _ _ _ d _ => min 8 ((d.length + 31) / 32)
  | .delivery _ _ _ _ d _ => min 8 ((d.length + 31) / 32)
  | _ => 0

/-- A Speosh packet (R443): its header's VER, DST and SRC; VC, KIND and LEN follow from the body. -/
structure Packet where
  ver : Half
  dst : Nat
  src : Nat
  body : PacketBody
  deriving DecidableEq, Repr

/-- A flit on a link (R443): its sequence number, the number of the next flit that its sender expects, whether its CRC is good, the packet
that it belongs to and its place in it, 0 for the header. -/
structure Flit where
  seq : BitVec 10
  ack : BitVec 10
  good : Bool := true
  pkt : Packet
  part : Nat := 0
  deriving DecidableEq, Repr

/-- Where a word waits to enter the queues of its channel: a port, or an ingress stream at the edge (R133, R134). -/
inductive Staged where
  | port (rank : Nat) (core : CoreId) (o : OReg)
  | ingress (id : PitchId) (k : Nat)
  deriving DecidableEq, Repr

/-- What a granule transfer meets at the pole (R371): how often it is retried, whether the third retry fails too, and the failing
groups with the lanes that a walking pattern finds in each; `pattern` says that a group has needed 16 retries within 2^20 beats, so
that the pattern starts at this transfer. -/
structure PoleTrouble where
  write : Bool
  pattern : Bool
  retries : Nat
  fails : Bool
  groups : List (Nat × List Nat)
  deriving DecidableEq, Repr

/-- What happens at a pole beside the accesses that cross it (R371): a transfer with a passing trouble, or a lane that sticks at a
value from now on. -/
inductive PoleEvent where
  | trouble (t : PoleTrouble)
  | sticks (lane : Nat) (high : Bool)
  deriving DecidableEq, Repr

/-- What happens to a word of the array (R369): the bank's idle slot comes, at which a corrected word is written back; or a cell
flips, of a data or a check bit. -/
inductive CellEvent where
  | writeback
  | flip (bit : BitVec 7)
  deriving DecidableEq, Repr

/-- Where an uncorrectable error or a parity error of a tile stands (R368): an SRAM word by its key; a word of a cached line; a word
of a summary register; a register file, queue, port, semaphore or barrier. -/
inductive BadPlace where
  | sram (r key : Nat)
  | line (r key word : Nat)
  | summary (r word : Nat)
  | parity (r : Nat)
  deriving DecidableEq, Repr

/-- Where a late transition shows (R358): in a stage of a context's group; in chunk `n` of the matrix command that executes; in
internal step `n` of the summary unit's instruction. -/
inductive LatePlace where
  | group
  | matrix (chunk : Nat)
  | summary (step : Nat)
  deriving DecidableEq, Repr

/-- An access of the host to BAR0 (R433): its offset and its bytes. -/
structure BarAccess where
  off : Nat
  size : Nat
  deriving DecidableEq, Repr

/-- A register that a step of its own writes (R12): a k-register of the context that the step names, or bytes of BAR0, which the host
writes (R433). -/
inductive RegPlace where
  | kreg (n : KReg)
  | bar0 (a : BarAccess)
  deriving DecidableEq, Repr

/-- A write to an ingress queue's window (R434): its offset in the window and its bytes. -/
structure WindowWrite where
  off : Nat
  bytes : List Byte
  deriving DecidableEq, Repr

/-- What a boot finds: the fields whose firmware is bad (R448), and the capacities of the second tier's devices by port (R442). -/
structure BootFindings where
  badFirmware : List Nat
  devices : List Nat
  deriving DecidableEq, Repr

/-- The instructions and events of spec/opcode_table.json, one constructor per row, in the table's order.
The first 303 rows have an encoding (R46 to R51); the last 110 are events: steps that other agents of the
machine take, without an encoding; each carries what the event names. -/
inductive Instr where
  /-- MOV (R89). -/
  | mov (d : GReg) (x : GReg)
  /-- NOT (R89). -/
  | not (d : GReg) (x : GReg)
  /-- NEG (R89). -/
  | neg (d : GReg) (x : GReg)
  /-- ABS (R89). -/
  | abs (d : GReg) (x : GReg)
  /-- CLZ (R89). -/
  | clz (d : GReg) (x : GReg)
  /-- CTZ (R89). -/
  | ctz (d : GReg) (x : GReg)
  /-- POPC (R89). -/
  | popc (d : GReg) (x : GReg)
  /-- BREV (R89). -/
  | brev (d : GReg) (x : GReg)
  /-- SEXB (R89). -/
  | sexb (d : GReg) (x : GReg)
  /-- SEXH (R89). -/
  | sexh (d : GReg) (x : GReg)
  /-- ZEXB (R89). -/
  | zexb (d : GReg) (x : GReg)
  /-- ZEXH (R89). -/
  | zexh (d : GReg) (x : GReg)
  /-- GLO (R89). -/
  | glo (d : GReg) (x : AReg)
  /-- GHI (R89). -/
  | ghi (d : GReg) (x : AReg)
  /-- ALO (R89). -/
  | alo (d : AReg) (x : GReg)
  /-- AHI (R89). -/
  | ahi (d : AReg) (x : GReg)
  /-- ADD (R90). -/
  | add (d : GReg) (x : GReg) (y : GReg)
  /-- SUB (R90). -/
  | sub (d : GReg) (x : GReg) (y : GReg)
  /-- AND (R90). -/
  | and (d : GReg) (x : GReg) (y : GReg)
  /-- OR (R90). -/
  | or (d : GReg) (x : GReg) (y : GReg)
  /-- XOR (R90). -/
  | xor (d : GReg) (x : GReg) (y : GReg)
  /-- SLL (R90). -/
  | sll (d : GReg) (x : GReg) (y : GReg)
  /-- SRL (R90). -/
  | srl (d : GReg) (x : GReg) (y : GReg)
  /-- SRA (R90). -/
  | sra (d : GReg) (x : GReg) (y : GReg)
  /-- MUL (R90). -/
  | mul (d : GReg) (x : GReg) (y : GReg)
  /-- MULH (R90). -/
  | mulh (d : GReg) (x : GReg) (y : GReg)
  /-- MULHU (R90). -/
  | mulhu (d : GReg) (x : GReg) (y : GReg)
  /-- ROR (R90). -/
  | ror (d : GReg) (x : GReg) (y : GReg)
  /-- DIV (R91). -/
  | div (d : GReg) (x : GReg) (y : GReg)
  /-- DIVU (R91). -/
  | divu (d : GReg) (x : GReg) (y : GReg)
  /-- REM (R91). -/
  | rem (d : GReg) (x : GReg) (y : GReg)
  /-- REMU (R91). -/
  | remu (d : GReg) (x : GReg) (y : GReg)
  /-- SLT (R90). -/
  | slt (d : GReg) (x : GReg) (y : GReg)
  /-- SLTU (R90). -/
  | sltu (d : GReg) (x : GReg) (y : GReg)
  /-- SEQ (R90). -/
  | seq (d : GReg) (x : GReg) (y : GReg)
  /-- SNE (R90). -/
  | sne (d : GReg) (x : GReg) (y : GReg)
  /-- MIN (R90). -/
  | min (d : GReg) (x : GReg) (y : GReg)
  /-- MAX (R90). -/
  | max (d : GReg) (x : GReg) (y : GReg)
  /-- MINU (R90). -/
  | minu (d : GReg) (x : GReg) (y : GReg)
  /-- MAXU (R90). -/
  | maxu (d : GReg) (x : GReg) (y : GReg)
  /-- ADDI (R92). -/
  | addi (d : GReg) (imm : BitVec 64)
  /-- LI (R92). -/
  | li (d : GReg) (imm : BitVec 64)
  /-- ANDI (R92). -/
  | andi (d : GReg) (imm : BitVec 64)
  /-- ORI (R92). -/
  | ori (d : GReg) (imm : BitVec 64)
  /-- XORI (R92). -/
  | xori (d : GReg) (imm : BitVec 64)
  /-- SLLI (R93). -/
  | slli (d : GReg) (amount : BitVec 5)
  /-- SRLI (R93). -/
  | srli (d : GReg) (amount : BitVec 5)
  /-- SRAI (R93). -/
  | srai (d : GReg) (amount : BitVec 5)
  /-- RORI (R93). -/
  | rori (d : GReg) (amount : BitVec 5)
  /-- BEQZ (R94). -/
  | beqz (x : GReg) (imm : BitVec 64)
  /-- BNEZ (R94). -/
  | bnez (x : GReg) (imm : BitVec 64)
  /-- BLTZ (R94). -/
  | bltz (x : GReg) (imm : BitVec 64)
  /-- BGEZ (R94). -/
  | bgez (x : GReg) (imm : BitVec 64)
  /-- BGTZ (R94). -/
  | bgtz (x : GReg) (imm : BitVec 64)
  /-- BLEZ (R94). -/
  | blez (x : GReg) (imm : BitVec 64)
  /-- BEQ (R95). -/
  | beq (x : GReg) (y : GReg) (imm : BitVec 64)
  /-- BNE (R95). -/
  | bne (x : GReg) (y : GReg) (imm : BitVec 64)
  /-- BLT (R95). -/
  | blt (x : GReg) (y : GReg) (imm : BitVec 64)
  /-- BGE (R95). -/
  | bge (x : GReg) (y : GReg) (imm : BitVec 64)
  /-- BLTU (R95). -/
  | bltu (x : GReg) (y : GReg) (imm : BitVec 64)
  /-- BGEU (R95). -/
  | bgeu (x : GReg) (y : GReg) (imm : BitVec 64)
  /-- J (R96). -/
  | j (imm : BitVec 64)
  /-- JAL (R96). -/
  | jal (imm : BitVec 64)
  /-- JR (R97). -/
  | jr (x : GReg)
  /-- JALR (R97). -/
  | jalr (d : GReg) (x : GReg)
  /-- RET (R97). -/
  | ret
  /-- HEND (R98). -/
  | hend
  /-- HALT (R99). -/
  | halt
  /-- NOP (R97). -/
  | nop
  /-- BRK (R97). -/
  | brk
  /-- LOOP (R100). -/
  | loop (d : GReg) (len : BitVec 8)
  /-- LDB (R102). -/
  | ldb (d : GReg) (x : AReg) (imm : BitVec 64)
  /-- LDBU (R102). -/
  | ldbu (d : GReg) (x : AReg) (imm : BitVec 64)
  /-- LDH (R102). -/
  | ldh (d : GReg) (x : AReg) (imm : BitVec 64)
  /-- LDHU (R102). -/
  | ldhu (d : GReg) (x : AReg) (imm : BitVec 64)
  /-- LDW (R102). -/
  | ldw (d : GReg) (x : AReg) (imm : BitVec 64)
  /-- LDA (R102). -/
  | lda (d : AReg) (x : AReg) (imm : BitVec 64)
  /-- STB (R102). -/
  | stb (d : GReg) (x : AReg) (imm : BitVec 64)
  /-- STH (R102). -/
  | sth (d : GReg) (x : AReg) (imm : BitVec 64)
  /-- STW (R102). -/
  | stw (d : GReg) (x : AReg) (imm : BitVec 64)
  /-- STA (R102). -/
  | sta (d : AReg) (x : AReg) (imm : BitVec 64)
  /-- AADD (R106). -/
  | aadd (d : AReg) (x : AReg) (y : GReg)
  /-- AADDS (R106). -/
  | aadds (d : AReg) (x : AReg) (y : GReg)
  /-- ASUB (R106). -/
  | asub (d : GReg) (x : AReg) (y : AReg)
  /-- AEQ (R106). -/
  | aeq (d : GReg) (x : AReg) (y : AReg)
  /-- AADDI (R107). -/
  | aaddi (d : AReg) (imm : BitVec 64)
  /-- SPT (R109). -/
  | spt (d : GReg) (x : AReg)
  /-- SPCG (R110). -/
  | spcg (d : AReg) (x : AReg)
  /-- SPCB (R110). -/
  | spcb (d : AReg) (x : AReg)
  /-- SPCC (R110). -/
  | spcc (d : AReg) (x : AReg)
  /-- SPCS (R110). -/
  | spcs (d : AReg) (x : AReg)
  /-- SPCL (R110). -/
  | spcl (d : AReg) (x : AReg)
  /-- MKS (R111). -/
  | mks (d : AReg) (x : GReg)
  /-- MKC (R111). -/
  | mkc (d : AReg) (x : GReg)
  /-- MKL (R111). -/
  | mkl (d : AReg) (x : GReg)
  /-- AMOV (R108). -/
  | amov (d : AReg) (x : AReg)
  /-- AZERO (R108). -/
  | azero (d : AReg)
  /-- FADD (R113). -/
  | fadd (d : GReg) (x : GReg) (y : GReg)
  /-- FSUB (R113). -/
  | fsub (d : GReg) (x : GReg) (y : GReg)
  /-- FMUL (R113). -/
  | fmul (d : GReg) (x : GReg) (y : GReg)
  /-- FFMA (R113). -/
  | ffma (d : GReg) (x : GReg) (y : GReg)
  /-- FMIN (R114). -/
  | fmin (d : GReg) (x : GReg) (y : GReg)
  /-- FMAX (R114). -/
  | fmax (d : GReg) (x : GReg) (y : GReg)
  /-- FDIV (R114). -/
  | fdiv (d : GReg) (x : GReg) (y : GReg)
  /-- FEQ (R114). -/
  | feq (d : GReg) (x : GReg) (y : GReg)
  /-- FLT (R114). -/
  | flt (d : GReg) (x : GReg) (y : GReg)
  /-- FLE (R114). -/
  | fle (d : GReg) (x : GReg) (y : GReg)
  /-- FUN (R114). -/
  | fun (d : GReg) (x : GReg) (y : GReg)
  /-- FSGN (R114). -/
  | fsgn (d : GReg) (x : GReg) (y : GReg)
  /-- FSQRT (R115). -/
  | fsqrt (d : GReg) (x : GReg)
  /-- FABS (R115). -/
  | fabs (d : GReg) (x : GReg)
  /-- FNEG (R115). -/
  | fneg (d : GReg) (x : GReg)
  /-- FCLASS (R116). -/
  | fclass (d : GReg) (x : GReg)
  /-- FCVTWS (R115). -/
  | fcvtws (d : GReg) (x : GReg)
  /-- FCVTUS (R115). -/
  | fcvtus (d : GReg) (x : GReg)
  /-- FCVTSW (R115). -/
  | fcvtsw (d : GReg) (x : GReg)
  /-- FCVTSU (R115). -/
  | fcvtsu (d : GReg) (x : GReg)
  /-- FCVTBS (R115). -/
  | fcvtbs (d : GReg) (x : GReg)
  /-- FCVTSB (R115). -/
  | fcvtsb (d : GReg) (x : GReg)
  /-- FEXP2 (R82). -/
  | fexp2 (d : GReg) (x : GReg)
  /-- FLOG2 (R82). -/
  | flog2 (d : GReg) (x : GReg)
  /-- FRCP (R82). -/
  | frcp (d : GReg) (x : GReg)
  /-- FRSQ (R82). -/
  | frsq (d : GReg) (x : GReg)
  /-- VADD (R179). -/
  | vadd (t : EType) (p : PReg) (d : VReg) (x : VReg) (y : VReg)
  /-- VSUB (R179). -/
  | vsub (t : EType) (p : PReg) (d : VReg) (x : VReg) (y : VReg)
  /-- VMUL (R179). -/
  | vmul (t : EType) (p : PReg) (d : VReg) (x : VReg) (y : VReg)
  /-- VFMA (R179). -/
  | vfma (t : EType) (p : PReg) (d : VReg) (x : VReg) (y : VReg)
  /-- VMIN (R179). -/
  | vmin (t : EType) (p : PReg) (d : VReg) (x : VReg) (y : VReg)
  /-- VMAX (R179). -/
  | vmax (t : EType) (p : PReg) (d : VReg) (x : VReg) (y : VReg)
  /-- VDIV (R179). -/
  | vdiv (t : EType) (p : PReg) (d : VReg) (x : VReg) (y : VReg)
  /-- VABD (R179). -/
  | vabd (t : EType) (p : PReg) (d : VReg) (x : VReg) (y : VReg)
  /-- VAND (R180). -/
  | vand (p : PReg) (d : VReg) (x : VReg) (y : VReg)
  /-- VOR (R180). -/
  | vor (p : PReg) (d : VReg) (x : VReg) (y : VReg)
  /-- VXOR (R180). -/
  | vxor (p : PReg) (d : VReg) (x : VReg) (y : VReg)
  /-- VANDN (R180). -/
  | vandn (p : PReg) (d : VReg) (x : VReg) (y : VReg)
  /-- VSHL (R180). -/
  | vshl (t : EType) (p : PReg) (d : VReg) (x : VReg) (y : VReg)
  /-- VSHR (R180). -/
  | vshr (t : EType) (p : PReg) (d : VReg) (x : VReg) (y : VReg)
  /-- VSRA (R180). -/
  | vsra (t : EType) (p : PReg) (d : VReg) (x : VReg) (y : VReg)
  /-- VMULH (R180). -/
  | vmulh (t : EType) (p : PReg) (d : VReg) (x : VReg) (y : VReg)
  /-- VCEQ (R181). -/
  | vceq (t : EType) (p : PReg) (d : PReg) (x : VReg) (y : VReg)
  /-- VCLT (R181). -/
  | vclt (t : EType) (p : PReg) (d : PReg) (x : VReg) (y : VReg)
  /-- VCLE (R181). -/
  | vcle (t : EType) (p : PReg) (d : PReg) (x : VReg) (y : VReg)
  /-- VCNE (R181). -/
  | vcne (t : EType) (p : PReg) (d : PReg) (x : VReg) (y : VReg)
  /-- VSEL (R182). -/
  | vsel (p : PReg) (d : VReg) (x : VReg) (y : VReg)
  /-- VPERM (R182). -/
  | vperm (p : PReg) (d : VReg) (x : VReg) (y : VReg)
  /-- VSEG (R183). -/
  | vseg (t : EType) (p : PReg) (d : VReg) (x : VReg) (n : BitVec 3)
  /-- VROT (R182). -/
  | vrot (p : PReg) (d : VReg) (x : VReg) (y : GReg)
  /-- VMOV (R184). -/
  | vmov (p : PReg) (d : VReg) (x : VReg)
  /-- VNEG (R184). -/
  | vneg (t : EType) (p : PReg) (d : VReg) (x : VReg)
  /-- VABS (R184). -/
  | vabs (t : EType) (p : PReg) (d : VReg) (x : VReg)
  /-- VRCP (R184). -/
  | vrcp (t : EType) (p : PReg) (d : VReg) (x : VReg)
  /-- VRSQ (R184). -/
  | vrsq (t : EType) (p : PReg) (d : VReg) (x : VReg)
  /-- VSQRT (R184). -/
  | vsqrt (t : EType) (p : PReg) (d : VReg) (x : VReg)
  /-- VEXP2 (R184). -/
  | vexp2 (t : EType) (p : PReg) (d : VReg) (x : VReg)
  /-- VLOG2 (R184). -/
  | vlog2 (t : EType) (p : PReg) (d : VReg) (x : VReg)
  /-- VEXP (R184). -/
  | vexp (t : EType) (p : PReg) (d : VReg) (x : VReg)
  /-- VLOG (R184). -/
  | vlog (t : EType) (p : PReg) (d : VReg) (x : VReg)
  /-- VTANH (R184). -/
  | vtanh (t : EType) (p : PReg) (d : VReg) (x : VReg)
  /-- VSIG (R184). -/
  | vsig (t : EType) (p : PReg) (d : VReg) (x : VReg)
  /-- VSIN (R184). -/
  | vsin (t : EType) (p : PReg) (d : VReg) (x : VReg)
  /-- VCOS (R184). -/
  | vcos (t : EType) (p : PReg) (d : VReg) (x : VReg)
  /-- VFLR (R184). -/
  | vflr (t : EType) (p : PReg) (d : VReg) (x : VReg)
  /-- VRND (R184). -/
  | vrnd (t : EType) (p : PReg) (d : VReg) (x : VReg)
  /-- VCVT (R185). -/
  | vcvt (s : EType) (t : EType) (p : PReg) (d : VReg) (x : VReg)
  /-- VPK4 (R188). -/
  | vpk4 (t : EType) (d : VReg) (x : VReg)
  /-- VUP4 (R188). -/
  | vup4 (t : EType) (d : VReg) (x : VReg)
  /-- VPKM (R188). -/
  | vpkm (t : EType) (d : VReg) (x : VReg)
  /-- VUPM (R188). -/
  | vupm (t : EType) (d : VReg) (x : VReg)
  /-- VSRB (R186). -/
  | vsrb (p : PReg) (d : VReg) (x : VReg)
  /-- VBC (R189). -/
  | vbc (t : EType) (p : PReg) (d : VReg) (x : GReg)
  /-- VINS (R189). -/
  | vins (p : PReg) (d : VReg) (x : GReg) (lane : BitVec 5)
  /-- VEXT (R189). -/
  | vext (d : GReg) (x : VReg) (lane : BitVec 5)
  /-- VIOTA (R189). -/
  | viota (t : EType) (p : PReg) (d : VReg)
  /-- VZIP (R189). -/
  | vzip (t : EType) (p : PReg) (d : VReg) (x : VReg)
  /-- VUZP (R189). -/
  | vuzp (t : EType) (p : PReg) (d : VReg) (x : VReg)
  /-- VLD (R192). -/
  | vld (p : PReg) (d : VReg) (x : AReg) (imm : BitVec 64)
  /-- VLDH (R192). -/
  | vldh (p : PReg) (d : VReg) (x : AReg) (imm : BitVec 64)
  /-- VLDS (R192). -/
  | vlds (t : EType) (p : PReg) (d : VReg) (x : AReg) (imm : BitVec 64)
  /-- VGAT (R192). -/
  | vgat (t : EType) (p : PReg) (d : VReg) (x : AReg) (imm : BitVec 64)
  /-- VLDL (R192). -/
  | vldl (t : EType) (p : PReg) (d : VReg) (x : AReg) (imm : BitVec 64)
  /-- VLDB (R192). -/
  | vldb (t : EType) (p : PReg) (d : VReg) (x : AReg) (imm : BitVec 64)
  /-- VST (R192). -/
  | vst (p : PReg) (d : VReg) (x : AReg) (imm : BitVec 64)
  /-- VSTH (R192). -/
  | vsth (p : PReg) (d : VReg) (x : AReg) (imm : BitVec 64)
  /-- VSTS (R192). -/
  | vsts (t : EType) (p : PReg) (d : VReg) (x : AReg) (imm : BitVec 64)
  /-- VSCT (R192). -/
  | vsct (t : EType) (p : PReg) (d : VReg) (x : AReg) (imm : BitVec 64)
  /-- VSTL (R192). -/
  | vstl (t : EType) (p : PReg) (d : VReg) (x : AReg) (imm : BitVec 64)
  /-- PAND (R191). -/
  | pand (d : PReg) (x : PReg)
  /-- POR (R191). -/
  | por (d : PReg) (x : PReg)
  /-- PXOR (R191). -/
  | pxor (d : PReg) (x : PReg)
  /-- PNOT (R191). -/
  | pnot (d : PReg) (x : PReg)
  /-- PCNT (R191). -/
  | pcnt (d : GReg) (x : PReg)
  /-- PFST (R191). -/
  | pfst (d : GReg) (x : PReg)
  /-- PLT (R191). -/
  | plt (d : PReg) (x : GReg)
  /-- PMOV (R191). -/
  | pmov (d : PReg) (x : PReg)
  /-- VLI (R190). -/
  | vli (t : EType) (p : PReg) (d : VReg) (imm : BitVec 64)
  /-- MMA (R206). -/
  | mma (z : ZReg) (x : AReg) (y : AReg) (acc : Bool) (bsrc : Bool) (chk : Bool)
  /-- MMAG (R210). -/
  | mmag (z : ZReg) (x : AReg) (y : AReg) (acc : Bool) (bsrc : Bool) (chk : Bool)
  /-- MSH (R214). -/
  | msh (d : GReg) (x : GReg)
  /-- MFMT (R214). -/
  | mfmt (d : GReg) (x : GReg)
  /-- MZERO (R215). -/
  | mzero (x : GReg)
  /-- MWAIT (R216). -/
  | mwait (x : GReg)
  /-- MSTAT (R216). -/
  | mstat (d : GReg)
  /-- MTOV (R217). -/
  | mtov (p : PReg) (d : VReg) (x : GReg)
  /-- VTOM (R217). -/
  | vtom (p : PReg) (d : VReg) (x : GReg)
  /-- MST (R218). -/
  | mst (k : MstKind) (d : GReg) (x : AReg) (imm : BitVec 64)
  /-- MLD (R220). -/
  | mld (k : MldKind) (d : GReg) (x : AReg) (imm : BitVec 64)
  /-- SKINIT (R244). -/
  | skinit (t : EType) (d : HReg) (x : GReg)
  /-- SKSEED (R244). -/
  | skseed (d : HReg) (x : AReg)
  /-- SKCLR (R244). -/
  | skclr (d : HReg)
  /-- SKCPY (R244). -/
  | skcpy (d : HReg) (x : HReg)
  /-- SKMRG (R244). -/
  | skmrg (d : HReg) (x : HReg)
  /-- SKADD (R245). -/
  | skadd (t : EType) (p : PReg) (d : HReg) (x : VReg)
  /-- SKQ (R235). -/
  | skq (t : EType) (d : GReg) (x : HReg) (y : GReg)
  /-- SKR (R235). -/
  | skr (t : EType) (d : GReg) (x : HReg) (y : GReg)
  /-- SKHH (R246). -/
  | skhh (t : EType) (d : GReg) (x : HReg) (y : GReg)
  /-- SKHC (R246). -/
  | skhc (d : GReg) (x : HReg) (y : GReg)
  /-- SKCNT (R246). -/
  | skcnt (d : GReg) (x : HReg)
  /-- SKCNH (R246). -/
  | skcnh (d : GReg) (x : HReg)
  /-- SKDC (R239). -/
  | skdc (t : EType) (d : GReg) (x : HReg)
  /-- SKMIN (R246). -/
  | skmin (t : EType) (d : GReg) (x : HReg)
  /-- SKMAX (R246). -/
  | skmax (t : EType) (d : GReg) (x : HReg)
  /-- SKMEAN (R246). -/
  | skmean (t : EType) (d : GReg) (x : HReg)
  /-- SKVAR (R246). -/
  | skvar (t : EType) (d : GReg) (x : HReg)
  /-- SKSUM (R246). -/
  | sksum (t : EType) (d : GReg) (x : HReg)
  /-- SKLSE (R246). -/
  | sklse (t : EType) (d : GReg) (x : HReg)
  /-- SKNAN (R246). -/
  | sknan (d : GReg) (x : HReg)
  /-- SKLD (R248). -/
  | skld (d : HReg) (x : AReg) (imm : BitVec 64)
  /-- SKST (R248). -/
  | skst (d : HReg) (x : AReg) (imm : BitVec 64)
  /-- SKLDH (R248). -/
  | skldh (d : HReg) (x : AReg) (imm : BitVec 64)
  /-- RECV (R158). -/
  | recv (d : GReg) (x : QReg)
  /-- PEEK (R158). -/
  | peek (d : GReg) (x : QReg)
  /-- QCNT (R157). -/
  | qcnt (d : GReg) (x : QReg)
  /-- QFREE (R157). -/
  | qfree (d : GReg) (x : OReg)
  /-- QTAG (R158). -/
  | qtag (d : GReg) (x : QReg)
  /-- QMARK (R158). -/
  | qmark (d : GReg) (x : QReg)
  /-- DROP (R158). -/
  | drop (x : QReg)
  /-- VRECV (R158). -/
  | vrecv (d : VReg) (x : QReg)
  /-- RECVA (R158). -/
  | recva (d : AReg) (x : QReg)
  /-- SEND (R162). -/
  | send (d : OReg) (x : GReg) (tag : BitVec 8)
  /-- SENDA (R162). -/
  | senda (d : OReg) (x : AReg)
  /-- VSEND (R162). -/
  | vsend (d : OReg) (x : VReg)
  /-- SENDM (R162). -/
  | sendm (d : OReg) (x : GReg)
  /-- SEMW (R164). -/
  | semw (n : BitVec 3) (sem : SemReg)
  /-- SEMS (R164). -/
  | sems (n : BitVec 3) (sem : SemReg)
  /-- SEMT (R164). -/
  | semt (d : GReg) (sem : SemReg)
  /-- BARA (R167). -/
  | bara (d : BReg) (x : GReg)
  /-- BARW (R169). -/
  | barw (d : GReg) (x : BReg)
  /-- BARS (R166). -/
  | bars (s : Scope) (d : BReg) (x : GReg)
  /-- BARQ (R170). -/
  | barq (d : GReg) (x : BReg)
  /-- FENCE (R293). -/
  | fence (s : Scope)
  /-- PUB (R295). -/
  | pub (s : Scope) (d : GReg) (x : GReg)
  /-- PUBW (R296). -/
  | pubw (s : Scope) (d : GReg) (x : GReg)
  /-- TRIG (R297). -/
  | trig (d : AReg) (x : GReg)
  /-- CINV (R298). -/
  | cinv (x : AReg)
  /-- CCLN (R298). -/
  | ccln (x : AReg)
  /-- CFLS (R298). -/
  | cfls
  /-- TLBP (R299). -/
  | tlbp (d : GReg) (x : AReg)
  /-- AMOADD (R302). -/
  | amoadd (s : Scope) (d : GReg) (x : AReg) (y : GReg)
  /-- AMOAND (R302). -/
  | amoand (s : Scope) (d : GReg) (x : AReg) (y : GReg)
  /-- AMOOR (R302). -/
  | amoor (s : Scope) (d : GReg) (x : AReg) (y : GReg)
  /-- AMOXOR (R302). -/
  | amoxor (s : Scope) (d : GReg) (x : AReg) (y : GReg)
  /-- AMOMIN (R302). -/
  | amomin (s : Scope) (d : GReg) (x : AReg) (y : GReg)
  /-- AMOMAX (R302). -/
  | amomax (s : Scope) (d : GReg) (x : AReg) (y : GReg)
  /-- AMOMINU (R302). -/
  | amominu (s : Scope) (d : GReg) (x : AReg) (y : GReg)
  /-- AMOMAXU (R302). -/
  | amomaxu (s : Scope) (d : GReg) (x : AReg) (y : GReg)
  /-- AMOSWP (R302). -/
  | amoswp (s : Scope) (d : GReg) (x : AReg) (y : GReg)
  /-- AMOCAS (R302). -/
  | amocas (s : Scope) (d : GReg) (x : AReg) (y : GReg)
  /-- AMOFADD (R302). -/
  | amofadd (s : Scope) (d : GReg) (x : AReg) (y : GReg)
  /-- AMOFMAX (R302). -/
  | amofmax (s : Scope) (d : GReg) (x : AReg) (y : GReg)
  /-- CPY (R340). -/
  | cpy (d : AReg) (x : AReg) (y : GReg)
  /-- CPYR (R340). -/
  | cpyr (d : GReg) (x : AReg) (y : GReg)
  /-- CPYW (R341). -/
  | cpyw (x : GReg)
  /-- CPYS (R342). -/
  | cpys (d : GReg) (x : GReg)
  /-- CPYX_RESUME (R343). -/
  | cpyxResume (x : GReg)
  /-- CPYX_CANCEL (R343). -/
  | cpyxCancel (x : GReg)
  /-- CPYX_FLUSH (R343). -/
  | cpyxFlush (x : GReg)
  /-- RINGB (R344). -/
  | ringb (d : GReg) (x : GReg)
  /-- RINGQ (R344). -/
  | ringq (d : GReg) (x : GReg)
  /-- AMSG (R347). -/
  | amsg (d : GReg) (x : AReg) (y : GReg)
  /-- MRPL (R349). -/
  | mrpl (x : GReg)
  /-- MHEND (R350). -/
  | mhend (x : GReg)
  /-- COLSET (R353). -/
  | colset (s : Scope) (d : GReg) (x : GReg)
  /-- COLFR (R354). -/
  | colfr (x : GReg)
  /-- COLW (R355). -/
  | colw (d : GReg) (x : GReg)
  /-- COLS (R355). -/
  | cols (d : GReg) (x : GReg)
  /-- TICK (R171). -/
  | tick (d : AReg)
  /-- CYC (R171). -/
  | cyc (d : AReg)
  /-- WAITT (R172). -/
  | waitt (x : AReg)
  /-- WAITC (R171). -/
  | waitc (x : AReg)
  /-- TRAP (R390). -/
  | trap (d : GReg) (detail : BitVec 8)
  /-- MFK (R391). -/
  | mfk (d : GReg) (kreg : BitVec 10)
  /-- MTK (R391). -/
  | mtk (d : GReg) (kreg : BitVec 10)
  /-- ERET (R28). -/
  | eret
  /-- IDLE (R393). -/
  | idle (d : GReg)
  /-- TLBI (R394). -/
  | tlbi (x : AReg)
  /-- TLBA (R394). -/
  | tlba
  /-- CTXS (R400). -/
  | ctxs
  /-- CTXL (R400). -/
  | ctxl
  /-- TQP (R396). -/
  | tqp (x : GReg)
  /-- LTRC_READ (R401). -/
  | ltrcRead (d : GReg) (x : GReg)
  /-- LTRC_CLEAR_WINDOW (R401). -/
  | ltrcClearWindow (d : GReg) (x : GReg)
  /-- LTRC_CLEAR_SUSPECT (R401). -/
  | ltrcClearSuspect (d : GReg) (x : GReg)
  /-- STRK (R397). -/
  | strk (x : GReg)
  /-- ILLEGAL_INSTRUCTION (R53), an event. -/
  | illegalInstruction (code : Byte) (detail : Byte) (value : DWord) (len : Nat)
  /-- WAIT_AT_K_RESUME (R156), an event. -/
  | waitAtKResume (r : Nat) (c : CtxId)
  /-- AMODE_WRITE (R70), an event. -/
  | amodeWrite (r : Nat) (c : CtxId) (w : Word)
  /-- SRSEED_WRITE (R77), an event. -/
  | srseedWrite (r : Nat) (c : CtxId) (w : Word)
  /-- COUNTER_CLEAR (R403), an event. -/
  | counterClear (r : Nat) (n : KReg) (inc : Bool) (w : Word)
  /-- LTRLIM_LTRWIN_WRITE (R404), an event. -/
  | ltrlimLtrwinWrite (r : Nat) (n : KReg) (w : Word)
  /-- MARGIN_WRITE (R402), an event. -/
  | marginWrite (r : Nat) (w : Word)
  /-- LOG_STATUS_READ (R405), an event. -/
  | logStatusRead (r : Nat) (c : CtxId) (n : KReg) (d : GReg)
  /-- REGISTER_WRITE (R12), an event. -/
  | registerWrite (r : Nat) (c : CtxId) (place : RegPlace) (w : DWord)
  /-- LATE_TRANSITION (R358), an event. -/
  | lateTransition (r : Nat) (c : CtxId) (place : LatePlace)
  /-- ESCALATION_WINDOW_END (R360), an event. -/
  | escalationWindowEnd (r : Nat)
  /-- MARGIN_STEP_SETTLE (R357), an event. -/
  | marginStepSettle (r : Nat)
  /-- HANDLER_WATCHDOG (R129), an event. -/
  | handlerWatchdog (r : Nat) (c : CtxId)
  /-- HANDLER_DISPATCH (R127), an event. -/
  | handlerDispatch (r : Nat) (k : CoreId)
  /-- CHANNEL_WORD_TRANSFER (R134), an event. -/
  | channelWordTransfer (w : Staged)
  /-- MEMORY_RESPONSE (R282), an event. -/
  | memoryResponse (r : Nat) (c : CtxId) (n : Nat)
  /-- READ (R325), an event. -/
  | read (r : Nat) (n : Nat)
  /-- WRITE (R325), an event. -/
  | write (r : Nat) (n : Nat)
  /-- AMO (R325), an event. -/
  | amo (r : Nat) (n : Nat)
  /-- AMO8 (R325), an event. -/
  | amo8 (r : Nat) (n : Nat)
  /-- CAS8 (R325), an event. -/
  | cas8 (r : Nat) (n : Nat)
  /-- LINE (R284), an event. -/
  | line (r : Nat) (n : Nat)
  /-- RENEW (R325), an event. -/
  | renew (r : Nat) (n : Nat)
  /-- CREAD (R258), an event. -/
  | cread (r : Nat) (n : Nat)
  /-- CWRITE (R258), an event. -/
  | cwrite (r : Nat) (n : Nat)
  /-- CAMO (R258), an event. -/
  | camo (r : Nat) (n : Nat)
  /-- BARR (R168), an event. -/
  | barr (r : Nat) (n : Nat)
  /-- COMB (R333), an event. -/
  | comb (r : Nat) (k : Nat) (span : Nat)
  /-- ROUTER_COMBINE (R333), an event. -/
  | routerCombine (r : Nat) (k : Nat) (span : Nat)
  /-- CDONE (R335), an event. -/
  | cdone (r : Nat) (k : Nat)
  /-- AUTOMATIC_PUB (R335), an event. -/
  | automaticPub (id : PitchId) (handle : Half)
  /-- COLSET_REQUEST (R353), an event. -/
  | colsetRequest (id : PitchId)
  /-- PLAN_KILL_NOTICE (R337), an event. -/
  | planKillNotice (mod : Nat) (cfg : Nat)
  /-- USER_MESSAGE_START (R326), an event. -/
  | userMessageStart (r : Nat) (n : Nat)
  /-- MESSAGE_REPLY (R349), an event. -/
  | messageReply (r : Nat) (c : CtxId)
  /-- MESSAGE_NACK (R348), an event. -/
  | messageNack (r : Nat) (n : Nat)
  /-- MATRIX_COMMAND_COMPLETE (R208), an event. -/
  | matrixCommandComplete (r : Nat)
  /-- COPY_ELEMENT (R316), an event. -/
  | copyElement (r : Nat)
  /-- COPY_COMMAND_COMPLETE (R316), an event. -/
  | copyCommandComplete (r : Nat)
  /-- CPYR_SLOT_TAKE (R323), an event. -/
  | cpyrSlotTake (r : Nat)
  /-- COPY_FAULT_TRAP (R320), an event. -/
  | copyFaultTrap (r : Nat)
  /-- LIGHTS_OUT_SWEEP (R144), an event. -/
  | lightsOutSweep (id : PitchId)
  /-- LAUNCH (R435), an event. -/
  | launch (q : Nat) (record : BitVec 512)
  /-- JOIN (R436), an event. -/
  | join (q : Nat) (record : BitVec 512)
  /-- SPLICE_INHERIT (R141), an event. -/
  | spliceInherit (q : Nat) (record : BitVec 512)
  /-- SPLICE_NO_INHERIT (R141), an event. -/
  | spliceNoInherit (q : Nat) (record : BitVec 512)
  /-- INGRESS_TOKEN (R434), an event. -/
  | ingressToken (q : Nat) (write : WindowWrite)
  /-- INGRESS_QUEUE_ERR_CLEAR (R437), an event. -/
  | ingressQueueErrClear (q : Nat) (w : Word)
  /-- PLACEMENT (R138), an event. -/
  | placement
  /-- LOAD_ACKNOWLEDGE (R137), an event. -/
  | loadAcknowledge (id : PitchId)
  /-- PITCH_START (R137), an event. -/
  | pitchStart (id : PitchId)
  /-- TRANSLATION_PRELOAD_TIMEOUT (R273), an event. -/
  | translationPreloadTimeout (id : PitchId)
  /-- HOST_KILL_REQUEST (R140), an event. -/
  | hostKillRequest (id : PitchId)
  /-- PREEMPT_DISPATCH_STOP (R386), an event. -/
  | preemptDispatchStop (id : PitchId)
  /-- PREEMPT_FIRING_TIMEOUT (R386), an event. -/
  | preemptFiringTimeout (r : Nat) (c : CtxId)
  /-- PREEMPT_RESUME (R388), an event. -/
  | preemptResume (id : PitchId)
  /-- SPLICE_SWITCH (R141), an event. -/
  | spliceSwitch (r : Nat)
  /-- SPLICE_SUCCESSOR_START (R141), an event. -/
  | spliceSuccessorStart (r : Nat)
  /-- EGRESS_RING_WRITE (R440), an event. -/
  | egressRingWrite (id : PitchId) (k : Nat)
  /-- EGRESS_ATOMICOP (R440), an event. -/
  | egressAtomicop (id : PitchId) (k : Nat)
  /-- ATOMICOP_COMPLETION (R440), an event. -/
  | atomicopCompletion (id : PitchId) (k : Nat) (old : DWord) (error : Bool)
  /-- TSET_WRITE (R444), an event. -/
  | tsetWrite (w : DWord)
  /-- TOPO_WRITE (R446), an event. -/
  | topoWrite (w : DWord)
  /-- TOPOLOGY_SWITCH (R446), an event. -/
  | topologySwitch
  /-- STALE_COUNTER_READ (R433), an event. -/
  | staleCounterRead (access : BarAccess)
  /-- ATTESTATION_REQUEST (R449), an event. -/
  | attestationRequest (nonce : BitVec 256)
  /-- ATTESTATION_REPORT_READY (R449), an event. -/
  | attestationReportReady
  /-- SPEOSH_PACKET_RECEIVE (R447), an event. -/
  | speoshPacketReceive (port : Nat) (flit : Flit)
  /-- SPEOSH_BEACON (R443), an event. -/
  | speoshBeacon (port : Nat)
  /-- LIGHT_DETECTED (R444), an event. -/
  | lightDetected (port : Nat)
  /-- TRAIN_LOCK (R444), an event. -/
  | trainLock (port : Nat)
  /-- TRAIN_TIMEOUT (R444), an event. -/
  | trainTimeout (port : Nat)
  /-- CALIBRATION (R444), an event. -/
  | calibration (port : Nat) (trip : Nat) (peerTick : Option DWord)
  /-- CRC_FAILURE_BURST (R444), an event. -/
  | crcFailureBurst (port : Nat)
  /-- RETRAIN_LOCK (R444), an event. -/
  | retrainLock (port : Nat)
  /-- RETRAIN_TIMEOUT (R444), an event. -/
  | retrainTimeout (port : Nat)
  /-- FLIT_REPLAY (R443), an event. -/
  | flitReplay (port : Nat)
  /-- MESH_BEACON (R379), an event. -/
  | meshBeacon (r : Nat) (dir : BitVec 2)
  /-- MESH_LINK_TIMEOUT (R379), an event. -/
  | meshLinkTimeout (r : Nat) (dir : BitVec 2)
  /-- ROUTER_TIMEOUT (R379), an event. -/
  | routerTimeout (r : Nat)
  /-- FIELD_MANAGER_TIMEOUT (R379), an event. -/
  | fieldManagerTimeout (f : Nat)
  /-- SPEOSH_LINK_TIMEOUT (R379), an event. -/
  | speoshLinkTimeout (port : Nat)
  /-- MODULE_TIMEOUT (R379), an event. -/
  | moduleTimeout (mod : Nat)
  /-- POD_MEMBER_TIMEOUT (R379), an event. -/
  | podMemberTimeout (mod : Nat)
  /-- CLOCK_SOURCE_LOSS (R416), an event. -/
  | clockSourceLoss (r : Nat)
  /-- CLOCK_REALIGNED (R416), an event. -/
  | clockRealigned (r : Nat)
  /-- TICK_EDGE (R417), an event. -/
  | tickEdge (missed : List Nat)
  /-- TEMPERATURE_REFRESH (R429), an event. -/
  | temperatureRefresh
  /-- THROTTLE_WINDOW_END (R427), an event. -/
  | throttleWindowEnd (r : Nat) (above : Bool)
  /-- SCRUB (R368), an event. -/
  | scrub (place : BadPlace) (bad : Bool)
  /-- POLE_GRANULE_TRANSFER (R371), an event. -/
  | poleGranuleTransfer (r : Nat) (e : Option PoleEvent)
  /-- ECC_WRITEBACK (R369), an event. -/
  | eccWriteback (r : Nat) (offset : BitVec 25) (e : CellEvent)
  /-- ROW_REMAP (R370), an event. -/
  | rowRemap (r : Nat) (bank : BitVec 4) (row : BitVec 10)
  /-- ROW_REMAP_DONE (R370), an event. -/
  | rowRemapDone (r : Nat) (bank : BitVec 4)
  /-- SECOND_TIER_TIMEOUT (R442), an event. -/
  | secondTierTimeout (r : Nat) (n : Nat)
  /-- TRANSLATION_WALK (R269), an event. -/
  | translationWalk (r : Nat) (va : BitVec 54)
  /-- TQP_ANSWER (R393), an event. -/
  | tqpAnswer (r : Nat) (c : CtxId) (final : Bool)
  /-- TRAP_QUEUE_POST (R374), an event. -/
  | trapQueuePost (f : Nat)
  /-- TRAP_QUEUE_REMOVE (R376), an event. -/
  | trapQueueRemove (f : Nat)
  /-- STRIKE_TILE (R377), an event. -/
  | strikeTile (r : Nat)
  /-- FIELD_DERATE (R414), an event. -/
  | fieldDerate (f : Nat) (code : BitVec 4)
  /-- MODULE_RESET (R448), an event. -/
  | moduleReset (dead : List Nat) (bands : List (BitVec 4)) (found : BootFindings)
  /-- SERVICE_PROCESSOR_FAILOVER (R448), an event. -/
  | serviceProcessorFailover
  /-- IMAGE_FETCHED (R137), an event. -/
  | imageFetched (q : Nat) (image : Image)
  /-- RESOLUTION_ANSWER (R273), an event. -/
  | resolutionAnswer (id : PitchId) (ok : Bool)
  /-- POWER_DOWN (R280), an event. -/
  | powerDown
  /-- SECOND_TIER_LINK_DOWN (R442), an event. -/
  | secondTierLinkDown (port : Nat)
  /-- OUT_OF_TIME (R417), an event. -/
  | outOfTime (r : Nat)
  /-- HOLD_ASSERTED (R416), an event. -/
  | holdAsserted (r : Nat)
  /-- ROUTE_BANK_WRITE (R445), an event. -/
  | routeBankWrite (bank : Bool) (dst : BitVec 8) (w : BitVec 16)
  deriving DecidableEq, Repr

end Sys2Proof
end

