-- ==== Sys2Proof/Machine/State.lean ====
section
/-! DEFINITION. The state of one DW9 module: its tiles with their three contexts, its fields, its loader, its host edge
and its Speosh edge (log 2). Everything is plain data. -/

namespace Sys2Proof.Machine

/-- Why a step stops the machine. -/
inductive Fault where
  /-- Raised by `step` alone: the move names a rank that no live position of the module has (R420), so there is no
  context to run. Safe: the hardware has no such tile. -/
  | noSuchTile (rank : Nat)
  deriving DecidableEq, Repr

/-- Why a step has no meaning. -/
inductive Refusal where
  /-- Raised by an arm of `exec` whose instruction has no meaning in the model. Safe: nothing is claimed of it. -/
  | notModelled (mnemonic : String)
  deriving DecidableEq, Repr

/-- What comes next: a context runs its next group; it does so and the group's second firing disagrees `times` times (R366,
log 13); a chunk of a tile's matrix command in check mode disagrees `times` times (R367); a tile's matrix unit reads piece `n` of
its head command's operands, or writes the next piece of its destination (R209, R219); or an event takes place. -/
inductive Move where
  | group (rank : Nat) (ctx : CtxId)
  | mismatch (rank : Nat) (ctx : CtxId) (times : Nat)
  | chunk (rank : Nat) (times : Nat)
  | piece (rank : Nat) (n : Nat)
  | event (i : Instr)
  deriving DecidableEq, Repr

/-- Memory, and every other store of bytes: the listed bytes, addresses strictly rising (log 3). -/
abbrev Mem := List Host.Cell

/-! ## Contexts -/

/-- What a context does (R126, R99): it is stopped and fetches nothing (R26), waits in dispatch, runs a firing or a
message, or has halted. -/
inductive Run where
  | stopped | dispatch | running | halted
  deriving DecidableEq, Repr

/-- One entry of the loop stack (R100): the body is the bytes from `start` up to `stop`, `count` passes are left. -/
structure LoopEntry where
  start : Nat
  stop : Nat
  count : Word
  deriving DecidableEq, Repr

/-- What a request asks of the tile that performs it: the built-in kinds 0 to 10 (R325), named by `Instr`'s events. -/
inductive ReqKind where
  | read | write | amo (op : Nat) | amo8 (op : Nat) | cas8 | line | renew | cread | cwrite | camo (op : Nat) | barr
  deriving DecidableEq, Repr

/-- A built-in message (R325): the key of the bytes it names, how many, its operands, who waits for it, and the logical
time it carries (R284). `posted` says that nobody waits for a result. For `barr`, `key` is the barrier number and `data`
the arrival word. A read through a buffer window names its handle and which backing its key is of (R261, R288). -/
structure Req where
  kind : ReqKind
  key : Nat
  size : Nat
  data : BitVec 128 := 0
  cmp : DWord := 0
  src : Sender
  posted : Bool := false
  pts : Time := {}
  tag : Nat := 0
  window : Option (Nat × Bool) := none
  deriving DecidableEq, Repr

/-- A message in a tile's inbound queue, or on its way there (R324). -/
inductive Msg where
  | builtin (r : Req)
  | user (m : UserMsg)
  deriving DecidableEq, Repr

/-- A response on its way back to a context (R282, R303): the bytes read or the old value, or the code of the uncorrectable
or poisoned data met; what it answers; the line's lease (R284); what happens before the accesses whose values it brings, of a line for
each of its bytes (R278). `again` says that the handle's other backing is current by now, so that nothing was read; `met` is what the
handle's last PUB carried (R261, R288). -/
structure Resp where
  ctx : CtxId
  kind : ReqKind
  key : Nat
  data : BitVec 512 := 0
  bad : Option Byte := none
  posted : Bool := false
  wts : DWord := 0
  rts : DWord := 0
  known : List Nat := []
  marks : List (Nat × List Nat) := []
  again : Bool := false
  met : Time := {}
  tag : Nat := 0
  deriving DecidableEq, Repr

/-- A nack on its way back to a tile (R168, R348): of a user message with its DETAIL, or of a remote barrier arrival. -/
inductive Nack where
  | user (m : UserMsg) (detail : Byte)
  | barr (ctx : CtxId) (word : Word)
  deriving DecidableEq, Repr

/-- A reply, or the end of a message without one, on its way to the context that waits (R349, R350). -/
structure ReplyMsg where
  ctx : CtxId
  tag : Nat
  word : Word
  pts : Time := {}
  deriving DecidableEq, Repr

/-- A piece of an access: its key, its size, its home, `none` when this tile performs it itself, and the handle through whose window it
is read (R261). -/
structure Piece where
  key : Nat
  size : Nat
  home : Option Nat
  window : Option Nat := none
  deriving DecidableEq, Repr

/-- A piece to be stored by a committed group whose earlier pieces are still on their way (R282). -/
structure StorePiece where
  piece : Piece
  data : BitVec 128
  /-- the bytes that are written -/
  mask : Nat := 0xFFFF
  tag : Nat := 0
  deriving DecidableEq, Repr

/-- The remote reads or the returning atomic of the group at K or X2 (R105, R282): the pieces still to do (the first is on
its way when `sent`), and the results so far, in order. `effect` says that it is an atomic. -/
structure Xact where
  todo : List Piece
  sent : Bool := false
  tag : Nat := 0
  effect : Bool := false
  done : List (BitVec 128) := []
  bad : Option Byte := none
  deriving DecidableEq, Repr

/-- The reply a returning AMSG waits for (R347, R348), or the answer of the handle home to a COLSET (R353). -/
inductive Reply where
  | none
  | waiting
  | value (w : Word)
  | nack (detail : Byte)
  deriving DecidableEq, Repr

/-- The answer to a record with ANSWER (R393, R396). -/
inductive Answer where
  | none
  | due
  | came (w : Word)
  deriving DecidableEq, Repr

/-- A trap to be taken before the context's next group commits (R361). -/
structure PendingTrap where
  code : Byte
  detail : Byte
  value : DWord
  deriving DecidableEq, Repr

/-- The message that the message thread runs (R326). -/
structure CurrentMsg where
  msg : UserMsg
  rpl : Bool
  answered : Bool
  wdexp : BitVec 5
  deriving DecidableEq, Repr

/-- One hardware context (R13, R21 to R33). The k-registers hold their 32 bits; TSTAT.PRV is `sup`. -/
structure Ctx where
  run : Run := .stopped
  sup : Bool := false
  pc : Half := 0
  /-- the PC has run past 0xFFFE, where no group can be fetched (R16) -/
  past : Bool := false
  g : Vector Word 64 := Vector.replicate 64 0
  gSup : Vector Word 8 := Vector.replicate 8 0
  a : Vector DWord 8 := Vector.replicate 8 0
  a3Sup : DWord := 0
  p : Vector Word 8 := Vector.replicate 8 0
  v : Vector VWord 32 := Vector.replicate 32 0
  loops : List LoopEntry := []
  trapLoops : List LoopEntry := []
  /-- the state that a trap with TSTAT.IDL left, to which ERET returns (R28, R320) -/
  left : Run := .dispatch
  hcur : Word := 0
  tagin : Word := 0
  tagout : Word := 0
  amode : Word := 0
  fflags : Word := 0
  srseed : Word := 1
  fmt : Word := 0
  mshape : Word := 0
  gang : Word := 0
  vstride : Word := 0
  tvec : Word := 0
  tcause : Word := 0
  tepc : Word := 0
  tval : Word := 0
  tvalh : Word := 0
  tstat : Word := 0
  /-- the SEEN bit of each barrier (R169) -/
  seen : Byte := 0
  /-- the handler watchdog's count of the firing or message (R129) -/
  wd : Nat := 0
  /-- the watchdog has trapped in this firing (log 15) -/
  wdFired : Bool := false
  /-- a group is held at K or X2 (R156) -/
  waiting : Bool := false
  /-- the logical time of the context, and what happens before its next group (R278, R284) -/
  pts : Time := {}
  xact : Option Xact := none
  /-- stores committed and not yet performed, in order; the first is on its way (R282) -/
  storing : List StorePiece := []
  /-- the 8-byte locations of posted atomics not yet performed, with their homes (R303) -/
  posted : List (Nat × Nat) := []
  /-- posted user messages not yet performed, by the module and rank they went to (R293, R347) -/
  postedMsgs : List (Nat × Nat) := []
  reply : Reply := .none
  /-- the number of the message whose reply is awaited: the model's own -/
  replyTag : Nat := 0
  colset : Reply := .none
  answer : Answer := .none
  due : Option PendingTrap := none
  /-- the group whose stretch made that trap due has not committed yet (R361) -/
  dueHeld : Bool := false
  /-- replays of the group so far (R358); 8 once it runs stretched, which no LTRLIM reaches -/
  replays : Nat := 0
  /-- the summary unit's internal step of the group that took the last late transition, and its replays so far (R358) -/
  hstep : Nat := 0
  hreplays : Nat := 0
  /-- what a pre-emption stopped the context in (R386), to which the resumption returns -/
  resume : Option Run := none
  deriving DecidableEq, Repr

/-! ## Cores: handlers, queues and ports -/

/-- The state of a handler slot (R126): READY holds its ready time and PASS. -/
inductive SlotState where
  | idle
  | ready (since : Nat) (pass : Nat)
  | running
  deriving DecidableEq, Repr

/-- An input queue (R131): whether a channel feeds it, its declared slots, its words, oldest first. -/
structure Queue where
  fed : Bool := false
  slots : Nat := 0
  words : List Token := []
  /-- a stream-end word has arrived since the load (R141) -/
  ended : Bool := false
  deriving DecidableEq, Repr

/-- A destination of a channel with its tile's rank, or an egress stream of the pitch (R132, R133). -/
inductive End where
  | queue (rank : Nat) (core : CoreId) (q : QReg)
  | egress (k : Nat)
  deriving DecidableEq, Repr

/-- An output port (R131): its staging slots, its channel's destinations (none: it carries no channel), its staged words. -/
structure Port where
  stage : Nat := 0
  dests : List End := []
  words : List Token := []
  deriving DecidableEq, Repr

/-- A core's handler table, slot states, queues and ports (R117, R122). -/
structure Core where
  slots : Vector Slot 32 := Vector.replicate 32 {}
  states : Vector SlotState 32 := Vector.replicate 32 .idle
  queues : Vector Queue 8 := Vector.replicate 8 {}
  ports : Vector Port 8 := Vector.replicate 8 {}
  /-- the node AMODE of the core (R72) -/
  amode : BitVec 7 := 0
  deriving DecidableEq, Repr

/-- A semaphore (R118) with what its releases carried (R278, R284). -/
structure Sem where
  count : Half := 0
  pts : Time := {}
  deriving DecidableEq, Repr

/-- A barrier (R119, R168, R170): `pts` is what the arrivals of the generation in progress carried, `last` what those of the
completed one did (R169, R278). -/
structure Barrier where
  configured : Bool := false
  scope : Scope := .tile
  members : Nat := 0
  arrived : Nat := 0
  arrset : Word := 0
  flt : Word := 0
  lastflt : Word := 0
  gen : Bool := false
  err : Bool := false
  pts : Time := {}
  last : Time := {}
  deriving DecidableEq, Repr

/-! ## Engines -/

/-- The commands of the matrix unit (R208). -/
inductive MatOp where
  | mma | mzero | mst (k : MstKind) | mld (k : MldKind)
  deriving DecidableEq, Repr

/-- An operand or destination of a matrix command: SRAM of this tile named by its key; its fly by a global address, with the
physical address of each 64 KiB page, translated at issue; a published buffer (handle and offset); or a refused one with the
cause its check gave (R203, R204, R210). -/
inductive MatPlace where
  | none
  | at (key : Nat)
  | fly (va : Nat) (pages : List (Nat × Nat))
  | buffer (handle offset : Nat)
  | bad (cause : Byte)
  deriving DecidableEq, Repr

/-- A queued matrix command with what it captured at issue (R199, R205, R210, R218). `member` and `gang` are this tile's
number and the ranks of a gang, leader first; `tag` tells the entries of one gang command; `bdata` is the B that the leader
has multicast, `lost` the cause with which the leader's part ended before it had (R210, R211). `reads` are the pieces read so far,
newest first, as key and bytes, `stored` how many pieces of the destination are written (R209, R219); `known` is what happens
before its issue, `born` the number of an MST to a buffer (R288). -/
structure MatCmd where
  op : MatOp
  fmt : Word
  mshape : Word
  amode : Word
  seed : Word := 0
  origin : BitVec 2
  acc : Bool := false
  bsrc : Bool := false
  chk : Bool := false
  a : MatPlace := .none
  b : MatPlace := .none
  stride : Nat := 0
  member : Nat := 0
  gang : List Nat := []
  bar : BReg := 0
  tag : Nat := 0
  bdata : Option (List (List Byte)) := none
  lost : Option Byte := none
  /-- the SRAM bytes it reads or writes, as key and length (R209) -/
  ranges : List (Nat × Nat) := []
  reads : List (Nat × List Byte) := []
  stored : Nat := 0
  known : List Nat := []
  born : Nat := 0
  deriving DecidableEq, Repr

/-- The matrix unit of a C core (R208, R216). -/
structure Matrix where
  queue : List MatCmd := []
  done : Byte := 0
  cause : Byte := 0
  abort : Bool := false
  /-- the chunk of the head command that took the last late transition, and its replays so far, 8 once it runs stretched (R358) -/
  chunk : Nat := 0
  replays : Nat := 0
  /-- the logical time that its reads and writes have reached (R284) -/
  pts : DWord := 0
  deriving DecidableEq, Repr

/-- The nest descriptor's bytes and the ring a CPYR captured (R315, R322). -/
structure RingRef where
  place : Nat
  base : Nat
  slot : Nat
  count : Nat
  free : SemReg
  filled : SemReg
  deriving DecidableEq, Repr

/-- A queued copy command (R314, R340), with the counters of its next element (R319). `taken` is the ring slot's scratch
pointer once taken, `known` what happens before its issue, `born` its number (R288). -/
structure CopyCmd where
  ctx : CtxId
  desc : BitVec 512
  src : DWord
  dst : DWord
  ring : Option RingRef := none
  taken : Option DWord := none
  /-- the ring's WIX has moved on and only the signal is left (R321, R323) -/
  signalDue : Bool := false
  i0 : Nat := 0
  i1 : Nat := 0
  i2 : Nat := 0
  i3 : Nat := 0
  known : List Nat := []
  born : Nat := 0
  deriving DecidableEq, Repr

/-- The copy engine (R314, R320, R342). `stop` holds the failing address of the stopped head; `report` the stops whose trap
has not been taken yet, with their underlying code. -/
structure CopyEngine where
  queue : List CopyCmd := []
  stop : Option DWord := none
  report : List (Byte × DWord) := []
  done : Byte := 0
  cause : Byte := 0
  /-- the logical time that its reads and writes have reached (R284) -/
  pts : DWord := 0
  deriving DecidableEq, Repr

/-! ## Memory system and physical state of a tile -/

/-- A cached translation (R271): the root and page it maps, with what the leaf gives. -/
structure TlbEntry where
  root : Nat
  page : Nat
  big : Bool
  pa : Nat
  scope : Scope
  ro : Bool
  /-- the home table entry of a second-tier or host page (R265); 0 for a fly page -/
  home : Word := 0
  locked : Bool := false
  deriving DecidableEq, Repr

/-- A line of the cache portion (R274, R284), with what happens before the writes that its bytes' values come from, by their keys (R278);
`bad` are the 8-byte words of it that the SRAM can no longer correct (R368). -/
structure CacheLine where
  key : Nat
  data : BitVec 512
  wts : DWord
  rts : DWord
  marks : List (Nat × List Nat) := []
  bad : List Nat := []
  deriving DecidableEq, Repr

/-- What a home keeps of a line it has leased (R284). -/
structure Lease where
  key : Nat
  wts : DWord
  rts : DWord
  deriving DecidableEq, Repr

/-- The clock of a tile (R416). -/
inductive Clock where
  | good | hold | realigning | out
  deriving DecidableEq, Repr

/-- A fly log (R405): its counting fields and its entries, oldest first. -/
structure FlyLog where
  count : Half := 0
  lost : BitVec 4 := 0
  entries : List Word := []
  deriving DecidableEq, Repr

/-- The pole and the array of a tile's fly (R369 to R372). `held` are the banks that a remap holds, `fixes` the corrections
per bank and row since reset, `remapped` the remapped rows, `kept` the rows that found no spare. -/
structure Fly where
  spares : BitVec 4 := 0
  swapped : List (Nat × Nat) := []
  abandoned : BitVec 4 := 0
  pole : FlyLog := {}
  array : FlyLog := {}
  held : List (Nat × Nat) := []
  fixes : List ((Nat × Nat) × Nat) := []
  remapped : List (Nat × Nat) := []
  kept : List (Nat × Nat) := []
  /-- lanes that are stuck, with the value that they carry (R371) -/
  stuck : List (Nat × Bool) := []
  /-- flipped cells, as the offset of their word and their bit, and the corrected words to be written back (R369) -/
  weak : List (Nat × Nat) := []
  fixing : List Nat := []
  deriving DecidableEq, Repr

/-- The saved image of a node (R387, R400), as plain data: CTXS writes it, CTXL alone reads it. -/
structure SavedNode where
  s : Ctx
  c : Ctx
  m : Ctx
  scores : Core
  ccores : Core
  sems : Vector Sem 32
  bars : Vector Barrier 8
  z : Mem
  h : Mem
  /-- DONE, CAUSE and ABORT, which count from the pitch's load (R146, R216) -/
  matrix : Matrix := {}
  copy : CopyEngine
  current : Option CurrentMsg
  msgs : List Msg
  scratch : Mem
  shared : Mem
  lane : Mem
  deriving DecidableEq, Repr

/-- Status and latest argument of one participant of a plan (R355); `born` is the number of its latest TRIG (R288). While a TRIG waits
at K, `trigger` is its context, once the other modules are told of it, `round` counts such tries, and `heard` are the modules that know of
it (R334, R354, R451). -/
structure PartStatus where
  rank : Nat
  born : Nat := 0
  trigger : Option CtxId := none
  round : Nat := 0
  heard : List Nat := []
  trigd : Bool := false
  done : Bool := false
  fcnt : Byte := 0
  arg : Half := 0
  deriving DecidableEq, Repr

/-- What a tile counts for a pitch (R144, R327): words sent and received, messages sent and completed. -/
structure Counts where
  sent : BitVec 48 := 0
  recvd : BitVec 48 := 0
  msgSent : BitVec 48 := 0
  msgDone : BitVec 48 := 0
  deriving DecidableEq, Repr

/-- One tile (R117): contexts, cores, shared state, engines, and the registers and physical state of its own. -/
structure Tile where
  pitch : Option PitchId := none
  pitchReg : Word := 0
  node : Word := 0
  s : Ctx := {}
  c : Ctx := {}
  m : Ctx := {}
  coreS : Core := {}
  coreC : Core := {}
  kinds : List UserKind := []
  sems : Vector Sem 32 := Vector.replicate 32 {}
  bars : Vector Barrier 8 := Vector.replicate 8 {}
  z : Mem := []
  h : Mem := []
  matrix : Matrix := {}
  copy : CopyEngine := {}
  /-- the inbound queue, at most 64 messages, in arrival order, and those that its router holds in the buffers of VC 12 and
  VC 14 while it is full (R324) -/
  inbox : List Msg := []
  router : List Msg := []
  current : Option CurrentMsg := none
  /-- responses and nacks on their way to this tile's contexts -/
  resps : List Resp := []
  replies : List ReplyMsg := []
  nacks : List Nack := []
  cache : BitVec 3 := 0
  shared : BitVec 4 := 0
  sharedOf : Vector (BitVec 4) 16 := Vector.replicate 16 0
  lease : Half := 0
  tlb : List TlbEntry := []
  lines : List CacheLine := []
  leases : List Lease := []
  /-- words and messages sent and received or completed for the pitch (R144, R327) -/
  sent : BitVec 48 := 0
  recvd : BitVec 48 := 0
  msgSent : BitVec 48 := 0
  msgDone : BitVec 48 := 0
  /-- the same for pitches whose node a splice has replaced here (R141, R144) -/
  prior : List (PitchId × Counts) := []
  /-- words of the summary registers that the SRAM can no longer correct (R368) -/
  hbad : List Nat := []
  cyc : DWord := 0
  /-- dispatch is stopped, at the cycle count `heldAt` (R386) -/
  held : Bool := false
  heldAt : DWord := 0
  /-- the loader's save mode (R400) -/
  saveMode : Bool := false
  /-- the save area (R263, R387), by the pitch that was saved (log 20) -/
  saved : List (PitchId × SavedNode) := []
  /-- SWITCH of R141 -/
  switching : Bool := false
  -- margin, counters, logs (R357 to R361, R402 to R406)
  step : BitVec 4 := 0
  auto : Bool := true
  tgt : BitVec 4 := 0
  susp : Bool := false
  mev : Byte := 0
  /-- the step that the supply now runs at, behind `step` while a change settles (R357) -/
  supply : BitVec 4 := 0
  ltrcnt : Word := 0
  ltrlim : BitVec 3 := 3
  ltrwin : Byte := 16
  chkcnt : Word := 0
  chkskip : Word := 0
  /-- the escalation window's number, its stretch count, its replays, whether it had a stretch, whether it reported -/
  window : Nat := 0
  stretches : Nat := 0
  winReplays : Nat := 0
  winStretched : Bool := false
  winPosted : Bool := false
  fly : Fly := {}
  -- clock, temperature, power (R415, R428, R429)
  clock : Clock := .good
  clkEvt : Byte := 0
  /-- the source taken at the last failover (R416); before it, PREF0 -/
  clkCur : Option (BitVec 2) := none
  /-- the number of the current-estimate window, whether it is throttled, and whether the last one was (R427, R428) -/
  thrWindow : Nat := 0
  throttled : Bool := false
  thr : Bool := false
  ballast : BitVec 3 := 0
  pclass : BitVec 3 := 0
  gridB : Bool := false
  -- striking (R375, R377)
  struck : Bool := false
  strikeDue : Option Byte := none
  fatal20 : Nat := 0
  fatal22 : Nat := 0
  /-- the tile's next access at its own second-tier port does not complete in time (R442) -/
  late : Bool := false
  /-- mesh directions that are down, and beacons sent (R379) -/
  meshDown : BitVec 4 := 0
  beacons : Vector Nat 4 := Vector.replicate 4 0
  deriving DecidableEq, Repr

/-! ## Fields: the trap queue and translations -/

/-- A trap record (R395). -/
structure Record where
  cause : Byte
  detail : Byte
  flags : Byte
  hslot : Byte := 0
  rank : Nat
  pitch : Word := 0
  epc : Half := 0
  stat : Half := 0
  value : DWord := 0
  tick : DWord := 0
  payload : BitVec 256 := 0
  deriving DecidableEq, Repr

/-- A record on its way to a trap queue (R374), with the pitch instance it concerns. `held` says that the queue has refused it, so
that it waits in arrival order; `group` names the context whose TQP or STRK waits to post it (R376). -/
structure Post where
  record : Record
  pitch : Option PitchId
  held : Bool := false
  group : Option (Nat × CtxId) := none
  deriving DecidableEq, Repr

/-- A lock of a pitch on a translation (R273, R394): the root, and the page in units of its size. -/
structure Lock where
  pitch : PitchId
  root : Nat
  page : Nat
  big : Bool
  deriving DecidableEq, Repr

/-- A field (R2, R272, R273, R376): its trap queue, the posts on their way to it, its translation cache and the locks on it, its
manager. -/
structure Field where
  queue : List Record := []
  overflow : Nat := 0
  posts : List Post := []
  cache : List TlbEntry := []
  locks : List Lock := []
  band : BitVec 4 := 6
  manager : Bool := true
  deriving DecidableEq, Repr

/-! ## The loader -/

/-- The state of a pitch at the loader (R140). -/
inductive PitchState where
  | queued | loading | armed (tick : DWord) | running | preempting | killed | struck
  deriving DecidableEq, Repr

/-- The state of a published-buffer handle (R287, R294): `cur` is the current backing; GEN. -/
structure Handle where
  buffer : Buffer
  cur : Bool := false
  gen : Word := 0
  /-- the logical time of the last engine write or PUB (R284, R294), and what happens before the PUBs (R278) -/
  pts : Time := {}
  deriving DecidableEq, Repr

/-- A token that a stateless pitch retains, with the numbers of its removals from the queues that it entered (R382). -/
structure Kept where
  word : Token
  removed : List Nat := []
  deriving DecidableEq, Repr

/-- A partial of a firing (R333): the tree node's first participant, how many participants it covers, the bytes. -/
structure Partial where
  node : Nat
  span : Nat
  data : List Byte
  deriving DecidableEq, Repr

/-- A collective plan on this module (R329, R330, R352) and its firing in progress. `parts` are all participants in
order, as module and rank; `status` holds this module's. -/
structure Plan where
  handle : Half
  op : Nat
  reduce : Bool
  barrier : Bool
  target : BitVec 5
  member : Nat
  count : Nat
  src : Nat
  dst : Nat
  buffer : Option Nat
  hoff : Option Nat
  parts : List (Nat × Nat)
  scope : Scope
  /-- the tree nodes (i, s) that a router of this module performs (R331, R333) -/
  routed : List (Nat × Nat) := []
  /-- the number of the firing in progress, or of the next one: the model's own -/
  firing : Nat := 0
  status : List PartStatus := []
  /-- the participants of other modules that have triggered the firing in progress -/
  remoteTrigd : List Nat := []
  partials : List Partial := []
  /-- bytes of partials, by their node, and of a delivery that have come from other modules so far (R443) -/
  arriving : List (Option Nat × List Byte) := []
  /-- the result, once it is complete, and the participants of this module still to be delivered -/
  result : Option (List Byte) := none
  writesDue : List Nat := []
  signalsDue : List Nat := []
  pubDue : Bool := false
  /-- the deliveries of this module are performed and its lead knows; at the lead, the modules whose deliveries are (R334) -/
  told : Bool := false
  delivered : List Nat := []
  failed : Bool := false
  fcause : BitVec 3 := 0
  pts : Time := {}
  /-- the handle names a live plan; one that was released under waiting participants stays for them (R337) -/
  live : Bool := true
  /-- a COLSET in progress has reserved the plan, and has not completed it (R331, R353) -/
  pending : Bool := false
  /-- the contexts here that wait in a COLFR; whether the other modules have been asked for an end of its firings, in which round, and those
  that have none in progress; the modules for which no firing may begin here, with the rounds in which they asked; whether the other modules have been told to free the plan, and those that have (R354) -/
  freers : List (Nat × CtxId) := []
  idleAsked : Bool := false
  idleRound : Nat := 0
  idleHeard : List Nat := []
  lockedFor : List (Nat × Nat) := []
  freeing : Bool := false
  freedHeard : List Nat := []
  deriving DecidableEq, Repr

/-- An ingress stream of a pitch (R133, R382, R436): whether a channel carries it or a queue was ever bound to it, the queues
bound to it, the words in the edge buffer, each with the queue whose credit it holds (a queue whose stream end was accepted is bound no more), the retained tokens. -/
structure Ingress where
  dests : List End := []
  used : Bool := false
  bound : List Nat := []
  words : List (Option Nat × Token) := []
  retained : List Kept := []
  ended : Bool := false
  broken : Bool := false
  sent : Nat := 0
  deriving DecidableEq, Repr

/-- An AtomicOp request to the host that has not completed (R440): the tag of its word, OP, its bus address, its operands. -/
structure AtomReq where
  tag : Byte
  op : Nat
  addr : Nat
  v : DWord
  cmp : DWord := 0
  deriving DecidableEq, Repr

/-- An egress stream of a pitch (R133, R383): words that reached the edge, the count written, E and its CRC, and what a
replay suppresses. -/
structure Egress where
  fed : Bool := false
  words : List Token := []
  written : Nat := 0
  emitted : Nat := 0
  crc : Word := 0xFFFFFFFF
  suppress : Nat := 0
  goal : Word := 0
  recheck : Word := 0xFFFFFFFF
  firstHalf : Option Token := none
  /-- the compare word that stood alone at the last commit, with which a replay begins -/
  baseHalf : Option Token := none
  pending : List AtomReq := []
  received : Nat := 0
  closed : Bool := false
  deriving DecidableEq, Repr

/-- What the handle home of another module answers about a plan: the failures it finds, the participants' ranks there, the
slot numbers free in all of them (R353). -/
structure PlanAnswer where
  mod : Nat
  failures : List Nat
  ranks : List Nat
  free : List Nat
  deriving DecidableEq, Repr

/-- How far a COLSET with participants on other modules has come (R353, log 30): it takes the handle homes one by one; the plan is
reserved everywhere; it is set up everywhere. -/
inductive ColsetPhase where
  | taking | reserving | setting
  deriving DecidableEq, Repr

/-- A COLSET request at the handle home (R353): `answers` are those of the homes taken, `asked` the home that is asked, `plan` the plan
that is reserved, `ready` the failure that each home finds in it, or 0. -/
structure ColsetReq where
  rank : Nat
  ctx : CtxId
  desc : BitVec 512
  list : List (Nat × Nat)
  scope : Scope
  phase : ColsetPhase := .taking
  asked : Option Nat := none
  answers : List PlanAnswer := []
  plan : Option PlanKey := none
  ready : List (Nat × Nat) := []
  /-- the number of this request: the model's own -/
  round : Nat := 0
  deriving DecidableEq, Repr

/-- A question of another module's handle home about a plan to be set up, while this home serves another request (R353). -/
structure PlanAsk where
  mod : Nat
  req : ColsetId
  desc : BitVec 512
  ranks : List Nat
  deriving DecidableEq, Repr

/-- The sums of one lights-out sweep (R144, R327). -/
structure Sweep where
  quiet : Bool
  sent : Nat
  recvd : Nat
  msgSent : Nat
  msgDone : Nat
  deriving DecidableEq, Repr

/-- A pitch instance at the loader (R137 to R146, R380 to R388). -/
structure Pitch where
  id : PitchId
  image : Image
  cls : Nat
  state : PitchState := .queued
  x0 : Nat := 0
  y0 : Nat := 0
  age : Nat := 0
  handles : List Handle := []
  plans : List Plan := []
  serial : BitVec 12 := 0
  colsets : List ColsetReq := []
  /-- the module whose request the handle home serves, and the request, of another module by its name; the questions that wait (R353) -/
  setup : Option (Nat × Option ColsetId) := none
  asks : List PlanAsk := []
  ingress : Vector Ingress 16 := Vector.replicate 16 {}
  egress : Vector Egress 16 := Vector.replicate 16 {}
  portal : Nat := 0
  sweep : Option Sweep := none
  /-- kills since the last performed PUB of handle 0 (R384) -/
  kills : Nat := 0
  /-- waiting for a resolvable listed page during LOADING (R273) -/
  resolving : Bool := false
  /-- a host kill request during LOADING or ARMED (R140) -/
  stopping : Bool := false
  /-- the first tick at which a pre-emption may stop dispatch (R386) -/
  preemptAt : DWord := 0
  /-- saved by a pre-emption (R388) -/
  saved : Bool := false
  /-- the successor behind this pitch, and whether it inherits (R141) -/
  successor : Option (PitchId × Bool) := none
  behind : Option PitchId := none
  deriving DecidableEq, Repr

/-! ## The host edge and the Speosh edge -/

/-- The state of an ingress queue (R437). -/
inductive QueueState where
  | idle | bound | closed | refused
  deriving DecidableEq, Repr

/-- An ingress queue's control word and binding (R437); `record` is a launch waiting for its image (R137). -/
structure HostQueue where
  state : QueueState := .idle
  err : Byte := 0
  credit : Nat := 256
  stream : Option (PitchId × Nat) := none
  record : Option (BitVec 512) := none
  /-- tokens that came while the image was being fetched -/
  early : List Token := []
  deriving DecidableEq, Repr

/-- A directory entry (R435). -/
structure DirEntry where
  pa : DWord := 0
  length : Word := 0
  portal : Half := 0
  valid : Bool := false
  deriving DecidableEq, Repr

/-- A portal entry (R439). -/
structure Portal where
  haddr : DWord := 0
  mode : Byte := 0
  op : Byte := 0
  rq : Half := 0
  ring : Word := 0
  deriving DecidableEq, Repr

/-- The state of a Speosh link (R444). -/
inductive LinkState where
  | down | train | cal | up | retrain
  deriving DecidableEq, Repr

/-- A Speosh port (R443, R444, R447): its link, the number of the next flit to send and of the next one expected, the flits
unacknowledged, those that wait for room as packet and place, all that it has transmitted, the version of the last beacon received, the
stale counter, the round trip in nanoseconds. -/
structure Link where
  state : LinkState := .down
  next : BitVec 10 := 0
  expect : BitVec 10 := 0
  unacked : List Flit := []
  waiting : List (Packet × Nat) := []
  wire : List Flit := []
  peerVer : Half := 0
  stale : Word := 0
  trip : Nat := 0
  deriving DecidableEq, Repr

/-- The attestation mailbox (R449); an empty report is none. -/
structure Mailbox where
  nonce : BitVec 256 := 0
  control : Word := 0
  report : List Byte := []
  deriving DecidableEq, Repr

/-- The move in progress: the tile and context whose group runs, the group's length in words and its base word, and how many of
its second firings disagree (R366), which is 0 between moves. -/
structure Focus where
  rank : Nat := 0
  ctx : CtxId := .c
  len : Nat := 1
  base : Half := 0
  times : Nat := 0
  deriving DecidableEq, Repr

/-- The machine: one module. -/
structure State where
  tiles : List (Nat × Tile) := []
  mem : Mem := []
  /-- the 8-byte words marked poisoned, as key / 8, rising (R373) -/
  poison : List Nat := []
  /-- what happens before the store that each listed byte's value comes from (R278), keys rising; nothing for every other byte -/
  marks : List (Nat × List Nat) := []
  fields : List (Nat × Field) := []
  pitches : List Pitch := []
  /-- moves that come next; when it is empty the focused context runs on (log 2) -/
  agenda : List Move := []
  focus : Focus := {}
  /-- the number of the next free value (log 6 to log 9): the model's own -/
  free : Nat := 0
  /-- the number of the next remote request: the model's own, to match responses with requests -/
  reqs : Nat := 0
  /-- the number of the last numbered event (R278): the model's own -/
  events : Nat := 0
  tick : DWord := 0
  tickSet : Bool := false
  tset : Option DWord := none
  /-- physical tiles out of use, as 384 × column + row (R419), rising; those struck since the reset; the signed record -/
  dead : List Nat := []
  struckTiles : List Nat := []
  retired : List Nat := []
  /-- logical positions without a tile, as 320 × y + x, rising; those of struck tiles whose pitch is gone (R377) -/
  vacant : List Nat := []
  vacated : List Nat := []
  /-- the shipped band codes and ranked count (R421, R422) -/
  shipped : List (BitVec 4) := List.replicate 48 6
  shippedRanked : Nat := 115200
  standby : Bool := false
  attestKeyLoads : Nat := 0
  /-- configuration cache, directory and launch counters (R137, R152, R435) -/
  images : List (Nat × Image) := []
  directory : List (Nat × DirEntry) := []
  launches : List (Nat × Nat) := []
  /-- the loader's class queues, highest class last (R137), the rotating origin (R138), the next pitch's age -/
  classes : Vector (List PitchId) 4 := Vector.replicate 4 []
  rotor : Nat := 0
  born : Nat := 0
  queues : List (Nat × HostQueue) := []
  portals : List (Nat × Portal) := []
  atomcap : BitVec 6 := 0
  modidx : Byte := 0
  /-- failure records and error tokens to the host, and its interrupt vectors raised (R137, R140, R437) -/
  hostRecords : List (PitchId × Byte) := []
  msix : List Nat := []
  /-- the last value a host read returned (R433) -/
  hostData : DWord := 0
  topo : DWord := 0
  swtick : DWord := 0
  bankA : Vector Half 256 := Vector.replicate 256 0
  bankB : Vector Half 256 := Vector.replicate 256 0
  links : List (Nat × Link) := []
  /-- some Speosh port has left DOWN, and some has left CAL, since the reset (R433, R444) -/
  linkUsed : Bool := false
  linkTrained : Bool := false
  mailbox : Mailbox := {}
  /-- temperature refreshes since the module was made, those at the last module reset, and the 1,024-tick span of the last one
  (R429) -/
  refreshes : Nat := 0
  refreshBase : Nat := 0
  refreshSpan : Nat := 0
  /-- the second tier's attached ranges as base and size, by interleave set, with the ports of each (R442) -/
  tier2 : List (Nat × Nat × List Nat) := []
  tier2Down : List Nat := []
  /-- user messages to other modules that nothing has answered yet (R348) -/
  abroad : List UserMsg := []
  /-- modules whose silence has been named (R379) -/
  silentModules : List Nat := []
  jobFailed : Bool := false
  deriving DecidableEq, Repr

/-- The machine right after module reset (R26): every context of every tile is stopped, no pitch is loaded, every counter
and log is clear, TICK is 0 and unset; the part is whole (log 4). -/
def State.reset : State := {}

end Sys2Proof.Machine
end

