-- ==== Sys2Proof/Machine/Mem.lean ====
section
/-! DEFINITION. Stores of bytes, and the one key space of the module's memory (R14, R252, R262, R263). -/

namespace Sys2Proof.Machine

/-- What a byte that is not listed reads as: 0xFF in instruction memory, which the loader fills so (R15), and 0 elsewhere,
as scratch, shared and lane-private memory are at load (R255, R256); for flies, second tier and host memory, whose
contents the spec leaves open, 0 is the model's choice (log 3). -/
def fillByte (k : Nat) : Byte := if 2 ^ 61 ≤ k then 0xFF else 0

/-- The byte at a key. -/
def Mem.get : Mem → Nat → Byte
  | [], k => fillByte k
  | (a, b) :: m, k => if a = k then b else Mem.get m k

/-- The memory with nothing listed at a key. -/
def Mem.unlist (m : Mem) (k : Nat) : Mem := m.filter fun c => c.1 != k

/-- Write one byte, keeping the canonical form. -/
def Mem.put : Mem → Nat → Byte → Mem
  | [], k, b => if b = fillByte k then [] else [(k, b)]
  | (a, c) :: m, k, b =>
    if k < a then (if b = fillByte k then Mem.unlist ((a, c) :: m) k else (k, b) :: (a, c) :: m)
    else if k = a then (if b = fillByte k then Mem.unlist m k else (k, b) :: m)
    else (a, c) :: Mem.put m k b

/-- The canonical form: keys strictly rising, no entry equal to what an unlisted key reads as. -/
def Mem.wf : Mem → Bool
  | [] => true
  | [(k, b)] => b != fillByte k
  | (k, b) :: (k', b') :: m => b != fillByte k && decide (k < k') && Mem.wf ((k', b') :: m)

/-- The `n` bytes from a key, little-endian. -/
def Mem.readNat (m : Mem) (k : Nat) : Nat → Nat
  | 0 => 0
  | n + 1 => (m.get k).toNat + 256 * Mem.readNat m (k + 1) n

/-- The `n` bytes from a key as a word of `w` bits. -/
def Mem.read (m : Mem) (w : Nat) (k n : Nat) : BitVec w := BitVec.ofNat w (m.readNat k n)

/-- Write the low `n` bytes of `v` at a key, little-endian, lowest address first. -/
def Mem.writeNat (m : Mem) (k : Nat) : Nat → Nat → Mem
  | 0, _ => m
  | n + 1, v => Mem.writeNat (m.put k (BitVec.ofNat 8 v)) (k + 1) n (v / 256)

/-- Write a word's low `n` bytes. -/
def Mem.write {w : Nat} (m : Mem) (k n : Nat) (v : BitVec w) : Mem := m.writeNat k n v.toNat

/-- Write the bytes of `v` whose bit of `mask` is set (R325). -/
def Mem.writeMasked (m : Mem) (k : Nat) : Nat → Nat → Nat → Mem
  | 0, _, _ => m
  | n + 1, v, mask =>
    Mem.writeMasked (if mask % 2 = 1 then m.put k (BitVec.ofNat 8 v) else m) (k + 1) n (v / 256) (mask / 2)

/-- Return the keys from `lo` up to `hi` to what an unlisted byte reads as. -/
def Mem.clear (m : Mem) (lo hi : Nat) : Mem := m.filter fun c => c.1 < lo || hi ≤ c.1

/-- The listed bytes from `lo` up to `hi`, with keys counted from `lo`. -/
def Mem.slice (m : Mem) (lo hi : Nat) : Mem :=
  (m.filter fun c => lo ≤ c.1 && c.1 < hi).map fun c => (c.1 - lo, c.2)

/-- Write listed bytes at an offset. -/
def Mem.fillFrom (m : Mem) (base : Nat) (cells : List (Nat × Byte)) : Mem :=
  cells.foldl (fun m c => m.put (base + c.1) c.2) m

/-- The `n` bytes from a key as a list. -/
def Mem.bytes (m : Mem) (k n : Nat) : List Byte := (List.range n).map fun i => m.get (k + i)

/-- Write a list of bytes. -/
def Mem.putBytes (m : Mem) (k : Nat) : List Byte → Mem
  | [] => m
  | b :: bs => Mem.putBytes (m.put k b) (k + 1) bs

/-- Bytes as a number, little-endian. -/
def natOfBytes : List Byte → Nat
  | [] => 0
  | b :: bs => b.toNat + 256 * natOfBytes bs

/-- A number as `n` bytes, little-endian. -/
def bytesOfNat : Nat → Nat → List Byte
  | 0, _ => []
  | n + 1, v => BitVec.ofNat 8 v :: bytesOfNat n (v / 256)

/-! ## Keys

Physical addresses are their own keys (R262). The SRAM of a tile and its instruction memories, which no physical address
names, have keys above them (log 3). -/

/-- The three addressed portions of a tile's SRAM (R252, R256). -/
inductive Region where
  | scratch | shared | lane
  deriving DecidableEq, Repr

/-- Where a portion starts. -/
def Region.base : Region → Nat
  | .scratch => 0 | .shared => 2 ^ 20 | .lane => 2 * 2 ^ 20

/-- The key of a byte of a tile's SRAM. -/
def sramKey (rank : Nat) (g : Region) (off : Nat) : Nat := 2 ^ 60 + rank * 2 ^ 22 + g.base + off

/-- The key of a byte of a core's instruction memory. -/
def imemKey (rank : Nat) (k : CoreId) (addr : Nat) : Nat :=
  2 ^ 61 + rank * 2 ^ 18 + (match k with | .s => 0 | .c => 2 ^ 16) + addr

end Sys2Proof.Machine

namespace Sys2Proof

/-- The core whose instruction memory a context fetches from (R14). -/
def CtxId.core : CtxId → CoreId
  | .s => .s | .c => .c | .m => .s

end Sys2Proof

namespace Sys2Proof.Machine

/-- The first host address (R262). -/
def hostBase : Nat := 2 ^ 50

/-- The first second-tier address (R262). -/
def tier2Base : Nat := 2 ^ 46

/-- The first address beyond the fly slots (R262). -/
def flyEnd : Nat := 2 ^ 42

/-- The physical address of a byte of a tile's fly (R262). -/
def flyKey (rank off : Nat) : Nat := rank * 2 ^ 25 + off

/-- The code of consumed bad data: 0x21 for global memory, 0x20 for SRAM (R104, R373). -/
def badCode (key : Nat) : Byte := if key < 2 ^ 52 then 0x21 else 0x20

/-! ## Association lists: the first entry of a key counts; keys are kept rising -/

/-- The entry of a key, or a default. -/
def assocGet {α : Type} (d : α) : List (Nat × α) → Nat → α
  | [], _ => d
  | (k, a) :: l, n => if k = n then a else assocGet d l n

/-- The entry of a key, if there is one. -/
def assocFind {α : Type} : List (Nat × α) → Nat → Option α
  | [], _ => none
  | (k, a) :: l, n => if k = n then some a else assocFind l n

/-- Put an entry. -/
def assocPut {α : Type} : List (Nat × α) → Nat → α → List (Nat × α)
  | [], n, a => [(n, a)]
  | (k, b) :: l, n, a =>
    if n < k then (n, a) :: (k, b) :: l
    else if n = k then (n, a) :: l
    else (k, b) :: assocPut l n a

/-- Change one element of a vector; an index beyond it changes nothing. -/
def vecMod {α : Type} {n : Nat} (v : Vector α n) (i : Nat) (f : α → α) : Vector α n :=
  match v[i]? with
  | some a => v.setIfInBounds i (f a)
  | none => v

/-- Insert a number into a rising list, once. -/
def insertNat : List Nat → Nat → List Nat
  | [], n => [n]
  | k :: l, n => if n < k then n :: k :: l else if n = k then k :: l else k :: insertNat l n

/-- The numbers of two rising lists, once each. -/
def unionNat (a b : List Nat) : List Nat := b.foldl insertNat a

end Sys2Proof.Machine
end

