-- ==== Sys2Proof/Machine/Place.lean ====
section
/-! DEFINITION. Where tiles are: logical positions, ranks, clusters, fields, detour tables (R120, R147 to R150, R258,
R418 to R420). -/

namespace Sys2Proof.Machine

/-- Logical columns and rows of the wafer (R149). -/
def waferX : Nat := 320
def waferY : Nat := 360

/-- The logical position, as 320 × y + x, that holds a rank: every vacancy before it shifts it by one (R420). -/
def unrank (vacant : List Nat) (r : Nat) : Nat := vacant.foldl (fun i v => if v ≤ i then i + 1 else i) r

/-- The rank of a logical position (R420); a vacancy has none. -/
def rankOf (vacant : List Nat) (i : Nat) : Option Nat :=
  if vacant.contains i then none else some (i - (vacant.filter (· < i)).length)

/-- The ranked count (R420). -/
def State.ranked (s : State) : Nat := waferX * waferY - s.vacant.length

/-- The logical column of a rank. -/
def State.xOf (s : State) (r : Nat) : Nat := unrank s.vacant r % waferX

/-- The logical row of a rank. -/
def State.yOf (s : State) (r : Nat) : Nat := unrank s.vacant r / waferX

/-- The rank at a logical position. -/
def State.rankAt (s : State) (x y : Nat) : Option Nat :=
  if x < waferX && y < waferY then rankOf s.vacant (y * waferX + x) else none

/-- The field of a logical position: 8 × FROW + FCOL (R414). -/
def fieldAt (x y : Nat) : Nat := 8 * (y / 60) + x / 40

/-- The field of a rank. -/
def State.fieldOf (s : State) (r : Nat) : Nat := fieldAt (s.xOf r) (s.yOf r)

/-- The cluster of a logical position, in logical row-major order of clusters (R258, R265). -/
def clusterAt (x y : Nat) : Nat := (y / 4) * 80 + x / 4

/-- The cluster of a rank. -/
def State.clusterOf (s : State) (r : Nat) : Nat := clusterAt (s.xOf r) (s.yOf r)

/-- The member number of a rank in its cluster (R258). -/
def State.memberOf (s : State) (r : Nat) : Nat := 4 * (s.yOf r % 4) + s.xOf r % 4

/-- The rank of a member of a cluster (R258). -/
def State.memberRank (s : State) (cluster member : Nat) : Option Nat :=
  s.rankAt ((cluster % 80) * 4 + member % 4) ((cluster / 80) * 4 + member / 4)

/-- Rank `t` lies in scope `sc` around rank `r` (R168, R266, R285). -/
def State.within (s : State) (sc : Scope) (r t : Nat) : Bool :=
  match sc with
  | .lane | .core => false
  | .tile => r == t
  | .cluster => s.clusterOf r == s.clusterOf t
  | .field => s.fieldOf r == s.fieldOf t
  | .wafer | .system => true

/-! ## Detour tables -/

/-- The entries of one field column, by R419: `p` physical rows from the first, `l` logical rows given, `sk` tiles
skipped. -/
def detourColumn (frow : Nat) (dead : Nat → Bool) : Nat → Nat → Nat → Nat → List (BitVec 2 × Nat)
  | 0, _, _, _ => []
  | n + 1, p, l, sk =>
    if l = 60 then (1, 0x1FF) :: detourColumn frow dead n (p + 1) l sk
    else if dead p && decide (sk < 4) then (2, 0x1FF) :: detourColumn frow dead n (p + 1) l (sk + 1)
    else if dead p then (2, 60 * frow + l) :: detourColumn frow dead n (p + 1) (l + 1) sk
    else (0, 60 * frow + l) :: detourColumn frow dead n (p + 1) (l + 1) sk

/-- The entries of a field column of the wafer: 64 of them; `col` is FCOL × 40 + PCOL (R418, R419). -/
def buildColumn (dead : List Nat) (col frow : Nat) : List (BitVec 2 × Nat) :=
  detourColumn frow (fun p => dead.contains (col * 384 + frow * 64 + p)) 64 0 0 0

/-- The logical positions that a set of dead tiles leaves vacant (R419), rising. -/
def vacanciesOf (dead : List Nat) : List Nat :=
  dead.foldl (fun acc d =>
    let col := d / 384
    let frow := d % 384 / 64
    match (buildColumn dead col frow)[d % 64]? with
    | some e => if e.1 = 2 ∧ e.2 < waferY then insertNat acc (e.2 * waferX + col) else acc
    | none => acc) []

/-- The physical row, within its field, of a logical position (R418, R150). -/
def State.physRow (s : State) (x y : Nat) : Nat :=
  ((buildColumn s.dead x (y / 60)).findIdx? fun e => e.2 == y).getD 0

/-- The physical tile of a rank, as 384 × column + row (R418). -/
def State.physOf (s : State) (r : Nat) : Nat :=
  let x := s.xOf r
  let y := s.yOf r
  x * 384 + (y / 60) * 64 + s.physRow x y

/-- The exported entry of a physical tile (R418): a struck tile shows STATE 3 until the next reset. -/
def State.detourEntry (s : State) (col row : Nat) : Half :=
  match (buildColumn s.dead col (row / 64))[row % 64]? with
  | some (st, logical) =>
    let st' : BitVec 2 := if s.struckTiles.contains (col * 384 + row) then 3 else st
    0#5 ++ st' ++ BitVec.ofNat 9 logical
  | none => 0x03FF

end Sys2Proof.Machine
end

