-- ==== Sys2Proof/Machine/Ops.lean ====
section
/-! DEFINITION. The named operations: registers, contexts and tiles, the passing of cycles, taking a trap and returning
from one, and the frame in which every group runs (R13, R17 to R33, R54, R88, R101). -/

namespace Sys2Proof.Machine

/-! ## Registers of a context -/

/-- Read g (R21, R25): g0 is 0; at supervisor level g24 to g31 name the supervisor bank. -/
def Ctx.getG (c : Ctx) (i : GReg) : Word :=
  if i = 0 then 0
  else if c.sup ∧ 24 ≤ i.toNat ∧ i.toNat < 32 then (c.gSup[i.toNat - 24]?).getD 0
  else c.g[i.toNat]'i.isLt

/-- Write g (R21, R25): a write to g0 is discarded. -/
def Ctx.setG (c : Ctx) (i : GReg) (w : Word) : Ctx :=
  if i = 0 then c
  else if c.sup ∧ 24 ≤ i.toNat ∧ i.toNat < 32 then { c with gSup := c.gSup.setIfInBounds (i.toNat - 24) w }
  else { c with g := c.g.set i.toNat w i.isLt }

/-- Read a (R21, R25): at supervisor level a3 names the supervisor bank. -/
def Ctx.getA (c : Ctx) (i : AReg) : DWord :=
  if c.sup ∧ i = 3 then c.a3Sup else c.a[i.toNat]'i.isLt

/-- Write a (R21, R25). -/
def Ctx.setA (c : Ctx) (i : AReg) (w : DWord) : Ctx :=
  if c.sup ∧ i = 3 then { c with a3Sup := w } else { c with a := c.a.set i.toNat w i.isLt }

/-- Read p (R21): p0 is all ones. -/
def Ctx.getP (c : Ctx) (i : PReg) : Word := if i = 0 then 0xFFFFFFFF else c.p[i.toNat]'i.isLt

/-- Write p (R21): a write to p0 is discarded. -/
def Ctx.setP (c : Ctx) (i : PReg) (w : Word) : Ctx :=
  if i = 0 then c else { c with p := c.p.set i.toNat w i.isLt }

/-- Read v (R174). -/
def Ctx.getV (c : Ctx) (i : VReg) : VWord := c.v[i.toNat]'i.isLt

/-- Write v (R174). -/
def Ctx.setV (c : Ctx) (i : VReg) (w : VWord) : Ctx := { c with v := c.v.set i.toNat w i.isLt }

/-! ## Tiles and contexts of the state -/

/-- A context of a tile. -/
def Tile.ctx (t : Tile) : CtxId → Ctx
  | .s => t.s | .c => t.c | .m => t.m

/-- Replace a context of a tile. -/
def Tile.setCtx (t : Tile) (i : CtxId) (c : Ctx) : Tile :=
  match i with
  | .s => { t with s := c } | .c => { t with c := c } | .m => { t with m := c }

/-- A core of a tile. -/
def Tile.core (t : Tile) : CoreId → Core
  | .s => t.coreS | .c => t.coreC

/-- Replace a core of a tile. -/
def Tile.setCore (t : Tile) (i : CoreId) (k : Core) : Tile :=
  match i with
  | .s => { t with coreS := k } | .c => { t with coreC := k }

end Sys2Proof.Machine

namespace Sys2Proof

/-- The context of a core (R13). -/
def CoreId.ctx : CoreId → CtxId
  | .s => .s | .c => .c

end Sys2Proof

namespace Sys2Proof.Machine

/-- The tile of a rank; a tile that is not listed is as module reset leaves it. -/
def State.tile (s : State) (r : Nat) : Tile := assocGet {} s.tiles r

/-- Replace the tile of a rank. -/
def State.setTile (s : State) (r : Nat) (t : Tile) : State := { s with tiles := assocPut s.tiles r t }

/-- Change the tile of a rank. -/
def State.modTile (s : State) (r : Nat) (f : Tile → Tile) : State := s.setTile r (f (s.tile r))

/-- Change one context. -/
def State.modCtx (s : State) (r : Nat) (i : CtxId) (f : Ctx → Ctx) : State :=
  s.modTile r fun t => t.setCtx i (f (t.ctx i))

/-- The tile whose group runs. -/
def State.here (s : State) : Tile := s.tile s.focus.rank

/-- Change the tile whose group runs. -/
def State.modHere (s : State) (f : Tile → Tile) : State := s.modTile s.focus.rank f

/-- The context whose group runs. -/
def State.cur (s : State) : Ctx := s.here.ctx s.focus.ctx

/-- Change the context whose group runs. -/
def State.modCur (s : State) (f : Ctx → Ctx) : State := s.modCtx s.focus.rank s.focus.ctx f

/-- Replace the context whose group runs. -/
def State.setCur (s : State) (c : Ctx) : State := s.modCur fun _ => c

/-- A field's state; a field that is not listed is as module reset leaves it. -/
def State.field (s : State) (f : Nat) : Field := assocGet {} s.fields f

/-- Change a field. -/
def State.modField (s : State) (f : Nat) (g : Field → Field) : State :=
  { s with fields := assocPut s.fields f (g (s.field f)) }

/-- The pitch of an id. -/
def State.pitch? (s : State) (id : PitchId) : Option Pitch := s.pitches.find? (·.id = id)

/-- Change the pitch of an id. -/
def State.modPitch (s : State) (id : PitchId) (f : Pitch → Pitch) : State :=
  { s with pitches := s.pitches.map fun p => if p.id = id then f p else p }

/-- The pitch whose node the running tile carries. -/
def State.pitchHere (s : State) : Option Pitch := s.here.pitch.bind s.pitch?

/-- The number of the next event that must be told apart (R278): the model's own, unlike those of every other module. -/
def State.newEvent (s : State) : Nat := 256 * (s.events + 1) + s.modidx.toNat

/-- Put moves before every other. -/
def State.next (s : State) (ms : List Move) : State := { s with agenda := ms ++ s.agenda }

/-! ## Cycles

A counted step takes one cycle and a free number of stall cycles (log 6). The cycles count in CYC, and in the handler
watchdog while a firing or message is at user level (R19, R129, R171). -/

/-- The watchdog's count after `n` cycles: only a firing or message at user level counts (R129). -/
def Ctx.countWd (c : Ctx) (n : Nat) : Ctx :=
  match c.run, c.sup with
  | .running, false => { c with wd := c.wd + n }
  | _, _ => c

/-- The cycles of one counted step of a context; `wd` says that the watchdog counts them. -/
def State.elapse (s : State) (r : Nat) (i : CtxId) (wd : Bool := true) : State :=
  let n := 1 + Config.stall s.free
  { s with free := s.free + 1 }.modTile r fun t =>
    { t.setCtx i (if wd then (t.ctx i).countWd n else t.ctx i) with cyc := t.cyc + BitVec.ofNat 64 n }

/-! ## Records (R374, R395, R398) -/

/-- The CTX code of a record: a context, or 3 for an engine, unit, home or port. -/
def ctxCode : Option CtxId → Byte
  | some .s => 0 | some .c => 1 | some .m => 2 | none => 3

/-- FLAGS of a record (R395). -/
def recordFlags (fatal answer hw dbl : Bool) (i : Option CtxId) : Byte :=
  BitVec.ofNat 8 (fatal.toNat + 2 * answer.toNat + 4 * hw.toNat + 8 * dbl.toNat) ||| (ctxCode i <<< 4)

/-- TSTAT as a read gives it: PRV is the current privilege (R33). -/
def Ctx.tstatNow (c : Ctx) : Word := (c.tstat &&& 0xF7E) ||| boolWord c.sup

/-- The PITCH register's value (R152). -/
def pitchWord (id : PitchId) : Word := BitVec.ofNat 32 (id.cfg % 65536 * 65536 + id.inst % 65536)

/-- A record that hardware makes for a tile (R395); HSLOT, EPC and STAT are 0 when no context posts it. -/
def State.hwRecord (s : State) (r : Nat) (i : Option CtxId) (cause detail : Byte) (value : DWord) (fatal dbl : Bool)
    (payload : BitVec 256) : Record :=
  let t := s.tile r
  let c := i.map t.ctx
  { cause := cause, detail := detail, flags := recordFlags fatal false true dbl i
    hslot := (c.map fun c => c.hcur.setWidth 8).getD 0, rank := r, pitch := t.pitchReg
    epc := (c.map fun c => c.tepc.setWidth 16).getD 0
    stat := (c.map fun c => c.tstatNow.setWidth 16).getD 0
    value := value, tick := s.tick, payload := payload }

/-- Hand a record to the trap queue of a tile's field; TRAP_QUEUE_POST posts it (R374, log 10). -/
def State.post (s : State) (r : Nat) (record : Record) : State :=
  s.modField (s.fieldOf r) fun f => { f with posts := f.posts ++ [{ record := record, pitch := (s.tile r).pitch }] }

/-- Two payload words (R398). -/
def payload2 (a b : Word) : BitVec 256 := (b ++ a).setWidth 256

/-- The MARGIN register (R402). -/
def Tile.margin (t : Tile) : Word :=
  t.mev ++ 0#7 ++ BitVec.ofBool t.susp ++ 0#4 ++ t.tgt ++ 0#3 ++ BitVec.ofBool t.auto ++ t.step

/-! ## Traps -/

/-- A trap cause whose entry makes hardware post a fatal record (R374, R399). -/
def fatalCause (code : Byte) : Bool := code == 0x20 || code == 0x21 || code == 0x22

/-- Trap entry at user level (R27); `idl` marks one taken from dispatch or halt (R320). R16 lets TEPC hold the first word of a
group that could not be fetched and gives TEPC no bit for address 0x1_0000, which a group that falls past 0xFFFE reaches: it
shows the 16 bits of the PC then, 0x0000 (DEDUCED, log 24). -/
def Ctx.enterTrap (c : Ctx) (code detail : Byte) (value : DWord) (len : Nat) (idl : Bool) : Ctx :=
  { c with
    tepc := if idl then 0 else c.pc.setWidth 32
    tcause := (detail ++ code).setWidth 32
    tval := value.setWidth 32
    tvalh := (value >>> 32).setWidth 32
    tstat := BitVec.ofNat 32 (len % 8 * 256 + idl.toNat * 64 + c.loops.length % 4 * 16)
    trapLoops := c.loops
    loops := []
    left := if idl then c.run else c.left
    sup := true
    pc := c.tvec.setWidth 16 &&& 0xFFFE
    past := false
    run := .running
    waiting := false
    xact := none
    reply := .none
    colset := .none
    replays := 0, hstep := 0, hreplays := 0, dueHeld := false }

/-- A trap at supervisor level (R29): the first trap's registers stay, DBL is set, the context stops. -/
def Ctx.doubleTrap (c : Ctx) : Ctx :=
  { c with tstat := c.tstat ||| 0x800, run := .stopped, waiting := false, xact := none }

/-- A context takes a trap (R27, R29), and the record that hardware posts for it: of a double trap the first trap's
fields, with FATAL, HW and DBL; of a cause 0x20, 0x21 or 0x22 a fatal record; of margin exhaustion an ordinary one (R361). -/
def State.trap (s : State) (r : Nat) (i : CtxId) (code detail : Byte) (value : DWord) (len : Nat) (idl : Bool) : State :=
  let c := (s.tile r).ctx i
  if c.sup then
    let s := s.modCtx r i Ctx.doubleTrap
    s.post r (s.hwRecord r (some i) (c.tcause.setWidth 8) ((c.tcause >>> 8).setWidth 8) (c.tvalh ++ c.tval) true true 0)
  else
    let s := s.modCtx r i fun c => c.enterTrap code detail value len idl
    if fatalCause code then
      let t := s.tile r
      s.post r (s.hwRecord r (some i) code detail value true false
        (if code = 0x22 then payload2 t.chkcnt t.chkskip else 0))
    else if code = 0x23 then
      let t := s.tile r
      s.post r (s.hwRecord r (some i) code detail value false false (payload2 t.ltrcnt t.margin))
    else s

/-! ## Returning from a trap (R28) -/

/-- The restored loop stack fitted to an address: the address to continue at and the entries kept, innermost first. -/
def fitLoops : List LoopEntry → Nat → Nat × List LoopEntry
  | [], t => (t, [])
  | e :: l, t =>
    if e.start ≤ t ∧ t < e.stop then (t, e :: l)
    else if t = e.stop then
      (if e.count - 1 = 0 then fitLoops l t else (e.start, { e with count := e.count - 1 } :: l))
    else fitLoops l t

/-- ERET's change of its context: to the address the fitting yields, or, with IDL, back to the state it was in. Where a supervisor
has set IDL itself, no trap left a state to return to, and R28 names none: the context returns to the one that its last trap with
IDL left, or to dispatch where there was none (DEDUCED, log 24). -/
def Ctx.eret (c : Ctx) : Ctx :=
  if c.tstat &&& 0x40 ≠ 0 then
    { c with sup := false, tstat := c.tstat &&& 0xFFFFFFBF, loops := [], run := c.left }
  else
    let f := fitLoops c.trapLoops c.tepc.toNat
    { c with sup := false, loops := f.2, pc := BitVec.ofNat 16 f.1, past := decide (65536 ≤ f.1) }

/-! ## The frame of a group -/

/-- How a group that does not commit ends: it traps; it waits at K or X2 with the bookkeeping of the wait done; or it
waits without counting for the watchdog, as HALT does (R99). A group that traps has no effect but what its reads have met at a fly,
which stands in the state that `trapIn` carries (R27, R369, R371). -/
inductive Exit where
  | trap (code detail : Byte) (value : DWord)
  | trapIn (s : State) (code detail : Byte) (value : DWord)
  | wait (s : State)
  | idle (s : State)

/-- How a group that commits goes on: at the address after it, or after `stop` (a skipped loop body); at a target; or
nowhere, when it has set the context's state itself. -/
inductive Flow where
  | on (s : State)
  | skip (s : State) (stop : Nat)
  | jump (s : State) (target : Half)
  | leave (s : State)

/-- What a group does: from the state before it, in which it reads all its sources. -/
abbrev Body := State → Except Exit Flow

/-- The contexts that may execute an instruction (R52). -/
inductive Tie where
  | all | compute | stage | message
  deriving DecidableEq, Repr

/-- The context may execute the instruction. -/
def Tie.allows : Tie → CtxId → Bool
  | .all, _ => true
  | .compute, i => i == .c
  | .stage, i => i != .c
  | .message, i => i == .m

/-- The trap value that names the base word and its index in the group (R54, R88). -/
def State.baseValue (s : State) : DWord :=
  (BitVec.ofNat 48 (s.focus.len - 1) ++ s.focus.base)

/-- A refused case: illegal instruction with DETAIL 0x0F (R88, R156). -/
def State.refuse (s : State) : Exit := .trap 0x01 0x0F s.baseValue

/-- The address after the group's last word. -/
def State.after (s : State) : Nat := s.cur.pc.toNat + 2 * s.focus.len

/-- The loop stack after a group that ends at `t` without a transfer, and where execution goes on (R101). -/
def loopFall : List LoopEntry → Nat → Nat × List LoopEntry
  | [], t => (t, [])
  | e :: l, t =>
    if t = e.stop then
      (if e.count - 1 = 0 then loopFall l t else (e.start, { e with count := e.count - 1 } :: l))
    else (t, e :: l)

/-- The loop stack after a transfer to `t`: the innermost bodies that do not hold `t` are left (R101). -/
def loopJump (l : List LoopEntry) (t : Nat) : List LoopEntry :=
  l.dropWhile fun e => t < e.start || e.stop ≤ t

/-- The group starts inside the innermost body and ends beyond it (R101). -/
def Ctx.straddles (c : Ctx) (stop : Nat) : Bool :=
  match c.loops with
  | [] => false
  | e :: _ => decide (e.start ≤ c.pc.toNat) && decide (c.pc.toNat < e.stop) && decide (e.stop < stop)

/-- Go on at an address by R101; past 0xFFFE the PC keeps 16 bits, and `past` says that nothing can be fetched (R16, log 24). -/
def Ctx.fall (c : Ctx) (stop : Nat) : Ctx :=
  let f := loopFall c.loops stop
  { c with pc := BitVec.ofNat 16 f.1, past := decide (65536 ≤ f.1), loops := f.2, waiting := false, replays := 0, hstep := 0, hreplays := 0, dueHeld := false }

/-- Go on at a transfer's target by R101. -/
def Ctx.jumpTo (c : Ctx) (t : Half) : Ctx :=
  { c with pc := t, past := false, loops := loopJump c.loops t.toNat, waiting := false, replays := 0, hstep := 0, hreplays := 0, dueHeld := false }

/-- The defects that the instruction alone does not show, in order: privilege and core tie (R54), then a group across the
end of a loop body (R88, R101). -/
def State.groupDefect (s : State) (tie : Tie) (priv : Bool) : Option Exit :=
  if priv && !s.cur.sup then some (.trap 0x01 0x0D s.baseValue)
  else if !tie.allows s.focus.ctx then some (.trap 0x02 0 s.baseValue)
  else if s.cur.straddles s.after then some s.refuse
  else none

/-- The state after a group that does not commit: a trap leaves no other effect (R27); a wait keeps its bookkeeping. -/
def State.leaveGroup (s : State) : Exit → State
  | .trap code detail value =>
    (s.elapse s.focus.rank s.focus.ctx).trap s.focus.rank s.focus.ctx code detail value s.focus.len false
  | .trapIn s' code detail value =>
    (s'.elapse s.focus.rank s.focus.ctx).trap s.focus.rank s.focus.ctx code detail value s.focus.len false
  | .wait s' => (s'.modCur fun c => { c with waiting := true }).elapse s.focus.rank s.focus.ctx
  | .idle s' => (s'.modCur fun c => { c with waiting := true }).elapse s.focus.rank s.focus.ctx false

/-- The state after a group that commits; `stop` is the address after it. `wd` says that its cycles are user cycles: those of an
ERET, which leaves the supervisor level, are not (R25, R129). -/
def commitGroup (rank : Nat) (ctx : CtxId) (stop : Nat) (wd : Bool) : Flow → State
  | .on s => (s.modCtx rank ctx fun c => c.fall stop).elapse rank ctx wd
  | .skip s t => (s.modCtx rank ctx fun c => c.fall t).elapse rank ctx wd
  | .jump s t => (s.modCtx rank ctx fun c => c.jumpTo t).elapse rank ctx wd
  | .leave s => (s.modCtx rank ctx fun c => { c with waiting := false, replays := 0, hstep := 0, hreplays := 0, dueHeld := false }).elapse rank ctx wd

/-- The state before the flow's own commit. -/
def Flow.state : Flow → State
  | .on s => s
  | .skip s _ => s
  | .jump s _ => s
  | .leave s => s

/-- The focused tile's CHKCNT counts disagreements (R366). -/
def State.mismatched (s : State) (n : Nat) : State := s.modHere fun t => { t with chkcnt := t.chkcnt + BitVec.ofNat 32 n }

/-- The group's check is skipped in every lane it has: a disagreement cannot show (R365). -/
def State.unchecked (s : State) (all : Bool) : State :=
  if all && s.focus.times != 0 then { s with focus := { s.focus with times := 0 } } else s

/-- A group that would commit and whose second firing disagrees: where some check is made, once, it is issued again and commits;
twice, it traps with the address of its first word. CHKCNT counts each time (R365, R366). -/
def State.recheck (s : State) (f : Flow) : State :=
  match f.state.focus.times with
  | 0 => commitGroup s.focus.rank s.focus.ctx s.after (!s.cur.sup) f
  | 1 => (commitGroup s.focus.rank s.focus.ctx s.after (!s.cur.sup) f).mismatched 1
  | _ => (s.mismatched 2).leaveGroup (.trap 0x22 0 (s.cur.pc.setWidth 64))

/-- What a step answers. -/
abbrev Out := Host.Outcome State Fault Refusal

/-- Run a group of the focused context: its defects, then its body, then the check of its second firing and its commit (R17, R27,
R54, R101, R366). -/
def runGroup (tie : Tie) (priv : Bool) (body : Body) (s : State) : Out :=
  match s.groupDefect tie priv with
  | some e => .next (s.leaveGroup e)
  | none =>
    match body s with
    | .error e => .next (s.leaveGroup e)
    | .ok f => .next (if s.focus.times = 0 then commitGroup s.focus.rank s.focus.ctx s.after (!s.cur.sup) f else s.recheck f)

/-- A body that changes its context's registers alone and cannot fail. -/
def onCtx (f : Ctx → Ctx) : Body := fun s => .ok (.on (s.modCur f))

/-- A group that every context may run, which changes its context's registers alone. -/
def plain (f : Ctx → Ctx) (s : State) : Out := runGroup .all false (onCtx f) s

/-- An event that changes the state when its condition holds, and does nothing otherwise (log 2). -/
def event (s : State) (guard : Bool) (f : State → State) : Out :=
  .next (if guard then f s else s)

end Sys2Proof.Machine
end

