-- ==== Sys2Proof/Machine/Links.lean ====
section
/-! DEFINITION. The sending side of Speosh links: routes, flits, the replay buffer (R443 to R445). -/

namespace Sys2Proof.Machine

/-- VER of TOPO (R446). -/
def topoVer (t : DWord) : Half := (t >>> 32).setWidth 16

/-- The port that the active bank routes a module's packets to (R445). -/
def State.routeTo (s : State) (dst : Nat) : Option Nat :=
  let bank := if s.topo.getLsbD 0 then s.bankB else s.bankA
  match bank[dst]? with
  | none => none
  | some e => if e.getLsbD 15 then some (natField e.toNat 0 7) else none

/-- The link of a Speosh port. -/
def State.portLink (s : State) (port : Nat) : Link := assocGet {} s.links port

/-- Change a link. -/
def State.modLink (s : State) (port : Nat) (f : Link → Link) : State := { s with links := assocPut s.links port (f (s.portLink port)) }

/-- The flits of a packet, as packet and place. -/
def flitsOf (p : Packet) : List (Packet × Nat) := (List.range (p.body.len + 1)).map fun j => (p, j)

/-- Transmit a flit: it takes the next number, stands in the replay buffer, and carries the number of the next flit expected (R443). -/
def Link.transmit (l : Link) (e : Packet × Nat) : Link :=
  let f : Flit := { seq := l.next, ack := l.expect, pkt := e.1, part := e.2 }
  { l with next := l.next + 1, unacked := l.unacked ++ [f], wire := l.wire ++ [f] }

/-- A link transmits what waits, as far as its replay buffer of 512 flits has room (R443). -/
def Link.flush (l : Link) : Nat → Link
  | 0 => l
  | n + 1 =>
    match l.waiting with
    | [] => l
    | e :: es => if l.unacked.length < 512 then ({ l with waiting := es }.transmit e).flush n else l

/-- The same for all that waits, when the link is up. -/
def Link.go (l : Link) : Link := if l.state = .up then l.flush l.waiting.length else l

/-- A packet for a link: its flits leave behind those that wait; when the link is down they are lost (R443, R444). -/
def Link.push (l : Link) (p : Packet) : Link :=
  match l.state with
  | .down => l
  | _ => { l with waiting := l.waiting ++ flitsOf p }.go

/-- The link goes DOWN: what it holds is lost, and its numbers start anew (R444; log 31). -/
def Link.fallen (l : Link) : Link := { l with state := .down, waiting := [], unacked := [], next := 0, expect := 0 }

/-- What has not been acknowledged is sent again (R443). -/
def Link.resend (l : Link) : Link := { l with wire := l.wire ++ l.unacked.map fun f => { f with ack := l.expect } }

/-- The peer expects flit `ack` next: the flits before it leave the replay buffer, and waiting ones are sent (R443). -/
def Link.acknowledged (l : Link) (ack : BitVec 10) : Link :=
  match l.unacked with
  | [] => l
  | f :: _ =>
    let n := (ack - f.seq).toNat
    if n ≤ l.unacked.length then { l with unacked := l.unacked.drop n }.go else l

/-- Send a packet to another module: it joins the queue of the port that the active bank routes to (R443, R445). -/
def State.sendPacket (s : State) (dst : Nat) (body : PacketBody) : State :=
  match s.routeTo dst with
  | none => s
  | some port => s.modLink port fun l => l.push { ver := topoVer s.topo, dst := dst, src := s.modidx.toNat, body := body }

/-- A route leads to a module, and its link is up or retrains (R348, R444). -/
def State.linked (s : State) (dst : Nat) : Bool :=
  match s.routeTo dst with
  | none => false
  | some port =>
    match (s.portLink port).state with
    | .up | .retrain => true
    | _ => false

/-- The link to a module is not down, and its last beacon carries this module's topology version (R353, R447). -/
def State.linkGood (s : State) (m : Nat) : Bool :=
  s.linked m && (match s.routeTo m with
    | none => false
    | some port => (s.portLink port).peerVer == topoVer s.topo)

end Sys2Proof.Machine
end

