-- ==== Sys2Proof/Machine/Plans.lean ====
section
/-! DEFINITION. Collective plans as the module keeps them: lookup, failure, the groups that wait in one (R329, R330, R334, R336, R337,
R353, R354, R451). Where other modules take part, log 30 says what the handle homes tell one another. -/

namespace Sys2Proof.Machine

/-- The slot number of a plan (R330). -/
def Plan.slot (p : Plan) : Nat := p.handle.toNat % 16

/-- The name of a plan among modules. -/
def Plan.key (p : Plan) : PlanKey := ⟨p.handle, p.parts.headD (0, 0)⟩

/-- The plan is live, or reserved by a COLSET in progress. -/
def Plan.present (p : Plan) : Bool := p.live || p.pending

/-- The participants' ranks on a module (R329). -/
def Plan.ranksOn (p : Plan) (mod : Nat) : List Nat := (p.parts.filter (·.1 = mod)).map (·.2)

/-- The other modules that hold participants. -/
def Plan.others (p : Plan) (own : Nat) : List Nat := ((p.parts.map (·.1)).eraseDups).filter (· ≠ own)

/-- The participant number of a module's rank (R329). -/
def Plan.number (p : Plan) (mod rank : Nat) : Option Nat := p.parts.findIdx? fun e => e == (mod, rank)

/-- The module of a participant. -/
def Plan.modOf (p : Plan) (i : Nat) : Nat := ((p.parts[i]?).map (·.1)).getD 0

/-- A participant's status; one that has never triggered has none set (R355). -/
def Plan.statusOf (p : Plan) (rank : Nat) : PartStatus := (p.status.find? (·.rank = rank)).getD { rank := rank }

/-- Change a participant's status. -/
def Plan.modStatus (p : Plan) (rank : Nat) (f : PartStatus → PartStatus) : Plan :=
  { p with status := f (p.statusOf rank) :: p.status.filter (·.rank ≠ rank) }

/-- The firing of a plan fails: nothing more of it is combined, delivered, published or signalled (R336). -/
def Plan.fail (p : Plan) (cause : BitVec 3) : Plan :=
  if p.failed then p
  else { p with failed := true, fcause := cause, remoteTrigd := [], partials := [], arriving := [], result := none, writesDue := []
                signalsDue := [], pubDue := false }

/-- Some participant has triggered a firing that is incomplete and not failed: one of this module, one of another that has told so, or
one whose partial has come (R354, R451). A TRIG that waits, after the other modules were told of it, counts. -/
def Plan.busy (p : Plan) : Bool :=
  !p.failed && (p.status.any (fun e => e.trigd || e.trigger.isSome) || !p.remoteTrigd.isEmpty || !p.partials.isEmpty)

/-- Every participant has triggered the firing in progress (R334). -/
def Plan.allTrigd (p : Plan) (own : Nat) : Bool :=
  p.parts.zipIdx.all fun e => if e.1.1 = own then (p.statusOf e.1.2).trigd else p.remoteTrigd.contains e.2

/-- A released plan: those of its participants that still wait on a firing that failed keep it, no longer live, to learn of the failure
(R336, R337). -/
def Plan.retired (p : Plan) : Option Plan :=
  if p.failed && p.status.any (·.trigd) then some { p with live := false, pending := false } else none

/-- The live plan of a pitch in slot `k` of a tile. -/
def State.planAt (s : State) (p : Pitch) (rank k : Nat) : Option Plan :=
  p.plans.find? fun q => q.live && q.slot == k && (q.ranksOn s.modidx.toNat).contains rank

/-- The live plan of a handle in which a tile takes part. -/
def State.planOf (s : State) (p : Pitch) (rank : Nat) (h : Word) : Option Plan :=
  p.plans.find? fun q => q.live && q.handle.setWidth 32 == h && (q.ranksOn s.modidx.toNat).contains rank

/-- Change a plan. -/
def State.modPlan (s : State) (id : PitchId) (k : PlanKey) (f : Plan → Plan) : State :=
  s.modPitch id fun p => { p with plans := p.plans.map fun q => if q.key = k then f q else q }

/-- A pitch has the plan. -/
def Pitch.plan? (p : Pitch) (k : PlanKey) : Option Plan := p.plans.find? fun q => q.present && q.key == k

/-- The plan of a configuration on this module, whatever state its pitch is in (R337, R450). -/
def State.remotePlan (s : State) (cfg : Nat) (k : PlanKey) : Option (PitchId × Plan) :=
  (s.pitches.filter fun p => p.id.cfg == cfg).findSome? fun p => (p.plan? k).map fun q => (p.id, q)

/-- Tell another module's handle home. -/
def State.tell (s : State) (m cfg : Nat) (msg : PlanMsg) : State := s.sendPacket m (.plan cfg msg)

/-- Tell every other module of a plan. -/
def State.tellOthers (s : State) (id : PitchId) (q : Plan) (msg : PlanMsg) : State :=
  (q.others s.modidx.toNat).foldl (fun s m => s.tell m id.cfg msg) s

/-- A plan of a pitch fails here, and the other modules that take part are told (R336, R443). -/
def State.failPlan (s : State) (id : PitchId) (q : Plan) (cause : BitVec 3) : State :=
  if q.failed then s
  else (s.modPlan id q.key fun q => q.fail cause).tellOthers id q (.failed q.key cause)

/-- Every plan of a pitch that a condition picks fails. -/
def State.failPlans (s : State) (id : PitchId) (pick : Plan → Bool) (cause : BitVec 3) : State :=
  match s.pitch? id with
  | none => s
  | some p => (p.plans.filter pick).foldl (fun s q => s.failPlan id q cause) s

/-- Every plan in which a tile takes part fails (R336, R377). -/
def State.failPlansOf (s : State) (rank : Nat) (cause : BitVec 3) : State :=
  match (s.tile rank).pitch with
  | none => s
  | some id => s.failPlans id (fun q => (q.ranksOn s.modidx.toNat).contains rank) cause

/-- A tile takes part in a plan of which some participant, of any module, has triggered a firing that has neither completed nor failed
(R451). -/
def State.firing (s : State) (rank : Nat) : Bool :=
  match (s.tile rank).pitch.bind s.pitch? with
  | none => false
  | some p => p.plans.any fun q => q.present && q.busy && (q.ranksOn s.modidx.toNat).contains rank

/-! ## Groups that wait in a TRIG, a COLFR or a COLSET (R27, R156, R339) -/

/-- The context's waiting group has had an effect elsewhere: its COLFR is freeing the plan on other modules, its COLSET has set the plan
up. Such a group commits before anything stops it. -/
def State.boundPlan (s : State) (r : Nat) (i : CtxId) : Bool :=
  match (s.tile r).pitch.bind s.pitch? with
  | none => false
  | some p =>
    (p.plans.any fun q => q.freeing && q.freers.contains (r, i)) ||
    (match ((s.tile r).ctx i).colset with
     | .value w => !w.getLsbD 31
     | .waiting => p.colsets.any fun q => q.rank == r && q.ctx == i && q.phase == .setting
     | _ => false)

/-- The other modules are asked no more for an end of their firings: firings may begin again (R354). -/
def State.unask (s : State) (id : PitchId) (q : Plan) : State :=
  (s.modPlan id q.key fun q => { q with
    idleAsked := false, idleHeard := [], lockedFor := q.lockedFor.erase (s.modidx.toNat, q.idleRound) }).tellOthers id q (.unlock q.key q.idleRound)

/-- A COLFR of a context waits no more; with the last one, firings may begin again everywhere (R354). -/
def State.leaveColfr (s : State) (id : PitchId) (q : Plan) (who : Nat × CtxId) : State :=
  if !q.freers.contains who || q.freeing then s
  else
    let rest := q.freers.erase who
    let s := s.modPlan id q.key fun q => { q with freers := rest }
    if rest.isEmpty && q.idleAsked then s.unask id q else s

/-- A TRIG of a context waits no more; the other modules are told (R334). -/
def State.leaveTrig (s : State) (id : PitchId) (q : Plan) (r : Nat) (i : CtxId) : State :=
  if (q.statusOf r).trigger = some i then
    (s.modPlan id q.key fun q => q.modStatus r fun e => { e with trigger := none, heard := [] }).tellOthers id q
      (.untrig q.key q.firing ((q.number s.modidx.toNat r).getD 0))
  else s

/-- The name of a request. -/
def ColsetReq.id (q : ColsetReq) (inst : Nat) : ColsetId := ⟨inst, q.rank, q.ctx, q.round⟩

/-- A COLSET's request ends: the homes that it has taken are free again, and what it has reserved is dropped (R353). -/
def State.closeColset (s : State) (id : PitchId) (q : ColsetReq) : State :=
  let own := s.modidx.toNat
  let taken := (q.answers.map (·.mod) ++ q.asked.toList).filter (· ≠ own)
  taken.foldl (fun s m => s.tell m id.cfg (.release (q.id id.inst))) (s.modPitch id fun p => { p with
    colsets := p.colsets.filter fun o => !(o.rank == q.rank && o.ctx == q.ctx)
    setup := if p.setup = some (own, none) ∧ q.answers.any (fun a => a.mod == own) then none else p.setup
    plans := p.plans.filter fun o => !(o.pending && some o.key == q.plan) })

/-- What a group that waits and is to have no effect has told others is taken back. -/
def State.withdrawPlan (s : State) (r : Nat) (i : CtxId) : State :=
  match (s.tile r).pitch.bind s.pitch? with
  | none => s
  | some p =>
    let s := p.plans.foldl (fun s q => (s.leaveTrig p.id q r i).leaveColfr p.id q (r, i)) s
    (p.colsets.filter fun q => q.rank == r && q.ctx == i).foldl (fun s q => s.closeColset p.id q) s

end Sys2Proof.Machine
end

