-- ==== Sys2Proof/Machine/Pole.lean ====
section
/-! DEFINITION. What an access meets between a tile and its fly: the array's cells and corrections, the lanes of the pole, the two
logs (R369 to R372, R405, R406). -/

namespace Sys2Proof.Machine

/-! ## Logs (R405, R406) -/

/-- An entry joins a log; with 15 held it counts as lost. -/
def FlyLog.add (l : FlyLog) (w : Word) : FlyLog :=
  if l.entries.length < 15 then { l with entries := l.entries ++ [w] } else { l with lost := if l.lost = 15 then 15 else l.lost + 1 }

/-- A log's count goes up by `n`, and saturates. -/
def FlyLog.countUp (l : FlyLog) (n : Nat) : FlyLog := { l with count := BitVec.ofNat 16 (min 65535 (l.count.toNat + n)) }

/-- A pole entry. -/
def poleEntry (ev spare : Nat) (write : Bool) (group lane retry : Nat) : Word :=
  BitVec.ofNat 32 (ev * 2 ^ 29 + spare * 2 ^ 27 + write.toNat * 2 ^ 26 + group * 2 ^ 24 + lane * 2 ^ 16 + retry * 2 ^ 12)

/-- An array entry of a fly offset (R263). -/
def arrayEntry (ev off bit : Nat) : Word :=
  BitVec.ofNat 32 (ev * 2 ^ 29 + natField off 11 4 * 2 ^ 25 + natField off 15 10 * 2 ^ 15 + natField off 6 5 * 2 ^ 10 +
    natField off 3 3 * 2 ^ 7 + bit)

/-! ## The pole (R371, R372) -/

/-- The free spare lanes, ascending. -/
def Fly.freeSpares (f : Fly) : List Nat := (List.range 4).filter fun i => !f.spares.getLsbD i

/-- Swap a lane to a spare. -/
def Fly.swap (f : Fly) (write : Bool) (group retry : Nat) (e : Nat × Nat) : Fly :=
  { f with spares := f.spares ||| (1 <<< e.2), swapped := f.swapped ++ [e], pole := f.pole.add (poleEntry 1 e.2 write group e.1 retry) }

/-- Abandon a parity group: EV 2, or EV 3 with the last one. -/
def Fly.abandon (f : Fly) (write : Bool) (group retry : Nat) : Fly :=
  let mask := f.abandoned ||| (1 <<< group)
  { f with abandoned := mask, pole := f.pole.add (poleEntry (if mask = 15 then 3 else 2) 0 write group 0 retry) }

/-- The walking pattern on a group: the lanes that it finds are swapped to the lowest free spares, or the group is abandoned. -/
def Fly.repair (f : Fly) (write : Bool) (retry : Nat) (g : Nat × List Nat) : Fly :=
  if g.2 = [] ∨ f.freeSpares.length < g.2.length then f.abandon write g.1 retry
  else (g.2.zip f.freeSpares).foldl (fun f e => f.swap write g.1 retry e) f

/-- The pole after a granule's transfer with trouble: its retries count once; where the third fails, or a group has needed 16, each of
its groups is tested by the pattern (R371). -/
def Fly.transfer (f : Fly) (t : PoleTrouble) : Fly :=
  let f := { f with pole := f.pole.countUp t.retries }
  if t.pattern ∨ (t.retries = 3 ∧ t.fails) then t.groups.foldl (fun f g => f.repair t.write t.retries g) f else f

/-- A lane of a parity group: four groups of 32 data lanes and a parity lane each (R371). -/
def groupLane (group lane : Nat) : Bool := lane / 32 == group && decide (lane < 128) || lane == 128 + group

/-- The trouble is one that a pole can meet: groups still in use, ascending, at most 3 retries, lanes of each group ascending. -/
def troubleOk (f : Fly) (t : PoleTrouble) : Bool :=
  decide (t.retries ≤ 3) && !t.groups.isEmpty && decide ((t.groups.map (·.1)).Pairwise (· < ·)) &&
  t.groups.all fun g => decide (g.1 < 4) && !f.abandoned.getLsbD g.1 && g.2.all (groupLane g.1) && decide (g.2.Pairwise (· < ·))

/-- The stuck lanes that still carry bits of a group. -/
def Fly.stuckIn (f : Fly) (g : Nat) : List (Nat × Bool) :=
  if f.abandoned.getLsbD g then []
  else f.stuck.filter fun e => groupLane g e.1 && !(f.swapped.any fun w => w.1 == e.1)

/-- The bit that a lane carries of a beat of 16 bytes: bit `l % 8` of byte `l / 8`, or a group's even parity (R371). -/
def laneBit (beat : List Byte) (l : Nat) : Bool :=
  let bit (l : Nat) : Bool := (beat.getD (l / 8) 0).getLsbD (l % 8)
  if l < 128 then bit l else (List.range 32).foldl (fun p j => p ^^ bit (32 * (l - 128) + j)) false

/-- The stuck lanes of a group that carry a wrong bit of a beat. -/
def Fly.wrong (f : Fly) (beat : List Byte) (g : Nat) : List Nat :=
  ((f.stuckIn g).filter fun e => laneBit beat e.1 != e.2).map (·.1)

/-- The group's parity fails on a beat: an odd number of its lanes is wrong. Once a group is abandoned, its bits travel on the others in
a way that no rule gives, and a stuck lane shows at each transfer (DEDUCED, log 37). -/
def Fly.fails (f : Fly) (beats : List (List Byte)) (g : Nat) : Bool :=
  if f.abandoned = 0 then beats.any fun b => (f.wrong b g).length % 2 == 1 else !(f.stuckIn g).isEmpty

/-- A beat as it arrives over lanes that are stuck. -/
def Fly.arrives (f : Fly) (beat : List Byte) : List Byte :=
  let bad := ((List.range 4).flatMap fun g => f.wrong beat g).filter (· < 128)
  beat.zipIdx.map fun e => bad.foldl (fun (b : Byte) l => if l / 8 = e.2 then b ^^^ (1 <<< (l % 8)) else b) e.1

/-- The four beats of a granule. -/
def beatsOf (bytes : List Byte) : List (List Byte) := (List.range 4).map fun j => (bytes.drop (16 * j)).take 16

/-- A granule crosses the pole: groups that fail are repaired after three retries, and the transfer is sent again (R371). The bytes are
those that arrive. -/
def Fly.cross (f : Fly) (write : Bool) (bytes : List Byte) : Fly × List Byte :=
  let beats := beatsOf bytes
  let gs := (List.range 4).filter (f.fails beats)
  let f := if gs.isEmpty then f
    else f.transfer { write := write, pattern := false, retries := 3, fails := true
                      groups := gs.map fun g => (g, ((f.stuckIn g).map (·.1)).foldl insertNat []) }
  (f, beats.flatMap f.arrives)

/-! ## The array (R369) -/

/-- One more correction in a row. -/
def countRow : List ((Nat × Nat) × Nat) → Nat × Nat → List ((Nat × Nat) × Nat)
  | [], k => [(k, 1)]
  | e :: l, k => if e.1 = k then (k, e.2 + 1) :: l else e :: countRow l k

/-- A corrected word: its log entry, the count of its row, and the write-back that is due (R369, R370). -/
def Fly.correct (f : Fly) (off bit : Nat) : Fly :=
  { f with array := (f.array.countUp 1).add (arrayEntry 1 off bit), fixing := insertNat f.fixing off
           fixes := countRow f.fixes (natField off 11 4, natField off 15 10) }

/-- The flipped bits of a word. -/
def Fly.flips (f : Fly) (off : Nat) : List Nat := (f.weak.filter fun e => e.1 == off).map (·.2)

/-- The words of a granule that the array can no longer correct. -/
def Fly.lostWords (f : Fly) (granule : Nat) : List Nat :=
  ((List.range 8).map fun j => granule + 8 * j).filter fun off => decide (2 ≤ (f.flips off).length)

/-- A read of a granule from the array: a word with one flipped bit is corrected, one with more is poisoned, each with its entry
(R369). -/
def Fly.readArray (f : Fly) (granule : Nat) : Fly :=
  ((List.range 8).map fun j => granule + 8 * j).foldl (fun f off =>
    match f.flips off with
    | [] => f
    | [b] => f.correct off b
    | _ => { f with array := f.array.add (arrayEntry 2 off 0), weak := f.weak.filter fun e => e.1 != off
                    fixing := f.fixing.filter (· != off) }) f

/-- A word of the array has been written whole: its cells hold what was written (R280). -/
def Fly.renewed (f : Fly) (off n : Nat) : Fly :=
  let whole (w : Nat) : Bool := decide (off ≤ w) && decide (w + 8 ≤ off + n)
  { f with weak := f.weak.filter fun e => !whole e.1, fixing := f.fixing.filter fun w => !whole w }

/-- Nothing is wrong with the cells and the lanes. -/
def Fly.sound (f : Fly) : Bool := f.stuck.isEmpty && f.weak.isEmpty

/-! ## An access (R369, R371) -/

/-- The granules that bytes touch, by their offsets. -/
def granulesOf (off n : Nat) : List Nat := (List.range ((off + n - 1) / 64 - off / 64 + 1)).map fun j => (off / 64 + j) * 64

/-- One granule of a fly is read or written: the state, and the memory as the access sees it. -/
def State.meetGranule (s : State) (r : Nat) (write : Bool) (m : Mem) (g : Nat) : State × Mem :=
  let f := (s.tile r).fly
  let lost := if write then [] else f.lostWords g
  let f := if write then f else f.readArray g
  let key := r * 2 ^ 25 + g
  let c := f.cross write (m.bytes key 64)
  ({ s.modTile r fun t => { t with
      fly := c.1
      strikeDue := if c.1.abandoned = 15 ∧ !t.struck ∧ t.strikeDue.isNone then some 0x34 else t.strikeDue } with
     poison := lost.foldl (fun p off => insertNat p ((r * 2 ^ 25 + off) / 8)) s.poison }, m.putBytes key c.2)

/-- An access to `n` bytes from a key meets their fly's array and pole: the state, and the memory as the access sees it. -/
def State.meetFly (s : State) (key n : Nat) (write : Bool) : State × Mem :=
  let r := key / 2 ^ 25
  if flyEnd ≤ key ∨ (s.tile r).fly.sound then (s, s.mem)
  else (granulesOf (key % 2 ^ 25) n).foldl (fun e g => e.1.meetGranule r write e.2 g) (s, s.mem)

/-- A read of bytes from a key meets the fly. -/
def State.readSeen (s : State) (key n : Nat) : State × Mem := s.meetFly key n false

/-- A write of bytes to a key meets the fly: what arrives is stored. -/
def State.writeSeen (s : State) (key n : Nat) : State :=
  if flyEnd ≤ key ∨ (s.tile (key / 2 ^ 25)).fly.sound then s
  else
    let e := s.meetFly key n true
    { e.1.modTile (key / 2 ^ 25) fun t => { t with fly := t.fly.renewed (key % 2 ^ 25) n } with mem := e.2 }

end Sys2Proof.Machine
end

