-- ==== Sys2Proof/Machine/Access.lean ====
section
/-! DEFINITION. Pointers, translation, the checks of an access, homes, and how reads and writes are performed here or sent
to their home (R103 to R105, R109, R252 to R284). -/

namespace Sys2Proof.Machine

/-! ## Windows (R109) -/

/-- What a canonical pointer names. -/
inductive Space where
  | global (va : Nat)
  | buffer (handle offset : Nat)
  | cluster (offset : Nat)
  | scratch (owner offset : Nat)
  | lane (index : Nat)
  deriving DecidableEq, Repr

/-- Decode a pointer; a noncanonical one names nothing (R109). -/
def spaceOf (p : DWord) : Option Space :=
  let n := p.toNat
  match n / 2 ^ 54 with
  | 0x000 => some (.global (n % 2 ^ 54))
  | 0x3FB => if natField n 48 6 = 0 then some (.buffer (natField n 32 16) (natField n 0 32)) else none
  | 0x3FC => if natField n 22 32 = 0 then some (.cluster (natField n 0 22)) else none
  | 0x3FD => if natField n 53 1 = 0 ∧ natField n 20 16 = 0 then some (.scratch (natField n 36 17) (natField n 0 20)) else none
  | 0x3FE => if natField n 15 39 = 0 then some (.lane (natField n 0 15)) else none
  | _ => none

/-- The code that SPT gives (R109). -/
def spaceCode (p : DWord) : Nat :=
  match spaceOf p with
  | some (.global _) => 0 | some (.buffer _ _) => 1 | some (.cluster _) => 2 | some (.scratch _ _) => 3
  | some (.lane _) => 4 | none => 7

/-- The scratch pointer of an offset (R111). -/
def scratchPtr (rank off : Nat) : DWord := BitVec.ofNat 64 (0x3FD * 2 ^ 54 + rank * 2 ^ 36 + off)

/-- Bytes of the scratch portion (R255). -/
def Tile.scratchSize (t : Tile) : Nat := 655360 - 65536 * t.cache.toNat - 32768 * t.shared.toNat

/-! ## Translation (R262 to R273) -/

/-- The port of a second-tier address (R442): 4 KiB interleave over the ways of its set. -/
def State.tier2Port (s : State) (pa : Nat) : Option Nat :=
  match s.tier2.find? fun e => e.1 ≤ pa && pa < e.1 + e.2.1 with
  | some e => e.2.2[(pa - e.1) / 4096 % e.2.2.length]?
  | none => none

/-- The address is mapped (R262, R442). -/
def State.mapped (s : State) (pa : Nat) : Bool :=
  if pa < flyEnd then decide (pa / 2 ^ 25 < s.ranked)
  else if pa < tier2Base then false
  else if pa < hostBase then
    match s.tier2Port pa with
    | some p => !s.tier2Down.contains p
    | none => false
  else decide (pa < 2 ^ 52)

/-- The member numbers that a mask selects, ascending. -/
def maskMembers (m : Nat) : List Nat := (List.range 16).filter fun i => m.testBit i

/-- The home of a line of a second-tier or host page, by its home table entry (R265). -/
def State.tableHome (s : State) (e : Word) (pa : Nat) : Option Nat :=
  if e.getLsbD 31 then
    let ms := maskMembers (e.toNat % 65536)
    let h := natField pa 6 20 ^^^ natField pa 26 20
    match ms[h % ms.length]? with
    | some m => s.memberRank (natField e.toNat 16 13) m
    | none => none
  else
    let r := natField e.toNat 0 17
    if r < s.ranked then some r else none

/-- A rank's tile has become vacant since the reset: it was struck, and its pitch is gone (R377). -/
def State.vacantRank (s : State) (r : Nat) : Bool := s.vacated.contains (s.yOf r * waferX + s.xOf r)

/-- A rank that is not vacant. -/
def State.liveRank (s : State) (r : Nat) : Bool := decide (r < s.ranked) && !s.vacantRank r

/-- The home table entry is well formed: a live rank, or members of one cluster that are all live (R265). -/
def State.homeEntryOk (s : State) (e : Word) : Bool :=
  natField e.toNat 29 2 == 0 &&
  (if e.getLsbD 31 then
    decide (natField e.toNat 16 13 < 7200) && e.toNat % 65536 != 0 &&
      (maskMembers (e.toNat % 65536)).all fun m => ((s.memberRank (natField e.toNat 16 13) m).map s.liveRank).getD false
   else natField e.toNat 17 12 == 0 && s.liveRank (natField e.toNat 0 17))

/-- The home of a line (R264). -/
def State.homeOf (s : State) (home : Word) (pa : Nat) : Option Nat :=
  if pa < flyEnd then some (pa / 2 ^ 25) else s.tableHome home pa

/-- What a walk finds (R269, R299): a leaf; an absent page that the runtime resolves on demand; one that it does not; a
malformed entry; an entry that is bad data (R373). -/
inductive Walk where
  | leaf (e : TlbEntry)
  | resolvable
  | final
  | malformed
  | bad
  deriving DecidableEq, Repr

/-- Some 8-byte word of the bytes is poisoned, their pole is dead, or their second-tier port is down (R372, R373, R442). -/
def State.poisoned (s : State) (key n : Nat) : Bool :=
  (s.poison.any fun w => key / 8 ≤ w && w ≤ (key + n - 1) / 8) ||
  (key < flyEnd && (s.tile (key / 2 ^ 25)).fly.abandoned == 0xF) ||
  (tier2Base ≤ key && key < hostBase && ((s.tier2Port key).map s.tier2Down.contains).getD true)

/-- The bank of a fly address (R263). -/
def bankOf (key : Nat) : Nat := natField key 11 4

/-- A remap holds the bank of the bytes (R370). -/
def State.bankHeld (s : State) (key : Nat) : Bool :=
  key < flyEnd && (s.tile (key / 2 ^ 25)).fly.held.any fun e => e.1 == bankOf key

/-- The entry is malformed at its level (R268, R269). -/
def State.entryBad (s : State) (homes : List Word) (e lev : Nat) : Bool :=
  let leaf := e.testBit 1
  let pa := natField e 12 40 * 4096
  natField e 52 4 != 0 || natField e 8 4 != 0 || e.testBit 6 ||
  (leaf && decide (lev < 2)) || (!leaf && lev == 3) || !s.mapped pa ||
  (if leaf then
    let scope := natField e 3 3
    let home := natField e 56 8
    scope == 0 || scope == 1 || scope == 7 ||
    (if lev = 2 then natField e 12 13 != 0 else natField e 12 4 != 0) ||
    (if pa < flyEnd then home != 0 || (lev == 3 && decide (0x1F00000 ≤ pa % 2 ^ 25))
     else match homes[home]? with
       | some w => !s.homeEntryOk w || (scope == 2 && w.getLsbD 31)
       | none => true)
   else natField e 3 3 != 0 || e.testBit 2 || natField e 56 8 != 0)

/-- The entry maps the address from the root. -/
def TlbEntry.maps (e : TlbEntry) (root va : Nat) : Bool :=
  e.root == root && e.page == (if e.big then va / 2 ^ 25 else va / 2 ^ 16)

/-- The physical address under a leaf. -/
def TlbEntry.paOf (e : TlbEntry) (va : Nat) : Nat := e.pa + va % (if e.big then 2 ^ 25 else 2 ^ 16)

/-- A leaf found for an address: one in the reserved MiB of a fly is not present (R269). -/
def TlbEntry.found (e : TlbEntry) (va : Nat) : Walk :=
  if e.paOf va < flyEnd ∧ 0x1F00000 ≤ e.paOf va % 2 ^ 25 then .final else .leaf e

/-- The levels of the walk: level, index shift, entries (R267, R269). -/
def walkLevels : List (Nat × Nat × Nat) := [(0, 43, 2048), (1, 34, 512), (2, 25, 512), (3, 16, 512)]

/-- The place of a table's entry for an address. -/
def entryPlace (va sh n table : Nat) : Nat := table + 8 * (va / 2 ^ sh % n)

/-- A table entry as a walk reads it, and whether it is bad data: it comes from a fly's array over the pole (R369, R371, R373). -/
def State.entryAt (s : State) (k : Nat) : Nat × Bool :=
  let e := s.readSeen k 8
  (e.2.readNat k 8, e.1.poisoned k 8)

/-- One level of the walk after another (R269). Reading a bad entry is consumption (R373). -/
def State.walkFrom (s : State) (root : Nat) (homes : List Word) (va : Nat) : List (Nat × Nat × Nat) → Nat → Walk
  | [], _ => .malformed
  | (lev, sh, n) :: rest, table =>
    let k := entryPlace va sh n table
    let e := (s.entryAt k).1
    if (s.entryAt k).2 then .bad
    else if !e.testBit 0 then (if e.testBit 7 then .resolvable else .final)
    else if s.entryBad homes e lev then .malformed
    else if e.testBit 1 then
      TlbEntry.found { root := root, page := va / 2 ^ sh, big := lev == 2, pa := natField e 12 40 * 4096
                       scope := (Scope.ofCode (BitVec.ofNat 3 (natField e 3 3))).getD .wafer, ro := e.testBit 2
                       home := (homes[natField e 56 8]?).getD 0 } va
    else s.walkFrom root homes va rest (natField e 12 40 * 4096)

/-- The walk of R269. -/
def State.walk (s : State) (root : Nat) (homes : List Word) (va : Nat) : Walk := s.walkFrom root homes va walkLevels root

/-- The entries that the walk reads, by their places. -/
def State.walkKeys (s : State) (homes : List Word) (va : Nat) : List (Nat × Nat × Nat) → Nat → List Nat
  | [], _ => []
  | (lev, sh, n) :: rest, table =>
    let k := entryPlace va sh n table
    let e := (s.entryAt k).1
    k :: (if !(s.entryAt k).2 && e.testBit 0 && !s.entryBad homes e lev && !e.testBit 1 then
      s.walkKeys homes va rest (natField e 12 40 * 4096) else [])

/-- The walk reads an entry in a bank that a remap holds (R370). -/
def State.walkHeldFrom (s : State) (homes : List Word) (va : Nat) (levels : List (Nat × Nat × Nat)) (table : Nat) : Bool :=
  (s.walkKeys homes va levels table).any s.bankHeld

/-- The cached translation of an address: in the tile's TLB, else in its field's cache (R271, R272). -/
def State.cached (s : State) (r root va : Nat) : Option TlbEntry :=
  match (s.tile r).tlb.find? (fun e => TlbEntry.maps e root va) with
  | some e => some e
  | none => (s.field (s.fieldOf r)).cache.find? (fun e => TlbEntry.maps e root va)

/-- A translation from a tile: its TLB, its field's cache, a walk (R270 to R272; log 11). -/
def State.translate (s : State) (r root : Nat) (homes : List Word) (va : Nat) : Walk :=
  match s.cached r root va with
  | some e => e.found va
  | none => s.walk root homes va

/-- The entries map the same page from the same root. -/
def TlbEntry.same (c e : TlbEntry) : Bool := c.root == e.root && c.page == e.page && c.big == e.big

/-- The lock that a pitch has on an entry (R273). -/
def TlbEntry.lock (e : TlbEntry) (id : PitchId) : Lock := { pitch := id, root := e.root, page := e.page, big := e.big }

/-- The lock holds the entry. -/
def Lock.holds (k : Lock) (e : TlbEntry) : Bool := k.root == e.root && k.page == e.page && k.big == e.big

/-- An entry joins a cache that keeps at most `ways` entries of those that `same` puts beside it; the oldest unlocked one leaves. -/
def fillCache (ways : Nat) (same : TlbEntry → Bool) (e : TlbEntry) (l : List TlbEntry) : List TlbEntry :=
  let rest := l.filter fun c => !c.same e
  let peers := rest.filter same
  if peers.length < ways then e :: rest
  else
    match (peers.filter fun c => !c.locked).getLast? with
    | some old => e :: rest.erase old
    | none => l

/-- The walk has found a leaf. -/
def Walk.isLeaf : Walk → Bool
  | .leaf _ => true
  | _ => false

/-- A walk reads an entry in a fly with a wrong cell or lane (R369, R371). -/
def State.walkUnsound (s : State) (root : Nat) (homes : List Word) (va : Nat) : Bool :=
  (s.walkKeys homes va walkLevels root).any fun k => decide (k < flyEnd) && !(s.tile (k / 2 ^ 25)).fly.sound

/-- The address has no cached translation, and its walk is such a one. -/
def State.walkMeets (s : State) (r root : Nat) (homes : List Word) (va : Nat) : Bool :=
  (s.cached r root va).isNone && s.walkUnsound root homes va

/-- The state after a walk's reads of its entries (R369, R371). -/
def State.walkRead (s : State) (root : Nat) (homes : List Word) (va : Nat) : State :=
  if s.walkUnsound root homes va then (s.walkKeys homes va walkLevels root).foldl (fun s k => (s.readSeen k 8).1) s else s

/-- The fatal record of a walk that has consumed a bad entry and ends in no trap of its own (R373; DEDUCED, log 11). -/
def State.postBadEntry (s : State) (r : Nat) (id : Option PitchId) (va : Nat) : State :=
  let record : Record := { s.hwRecord r none 0x21 0 (BitVec.ofNat 64 va) true false 0 with
    pitch := (id.map pitchWord).getD (s.tile r).pitchReg }
  s.modField (s.fieldOf r) fun f => { f with posts := f.posts ++ [{ record := record, pitch := id }] }

/-- A translation is not there yet: its walk would read a held bank (R370); or it finds a leaf, but meets a wrong cell or lane on its way,
or the page is locked and its entry has been invalidated (R394). Then TRANSLATION_WALK brings it before it is used. A walk that fails
fills nothing, and is made by the access itself (R270). -/
def State.walkDue (s : State) (r root : Nat) (homes : List Word) (va : Nat) : Bool :=
  (s.cached r root va).isNone &&
  (s.walkHeldFrom homes va walkLevels root ||
    ((s.walk root homes va).isLeaf &&
      (s.walkMeets r root homes va ||
        (s.field (s.fieldOf r)).locks.any fun k => k.root == root && k.page == (if k.big then va / 2 ^ 25 else va / 2 ^ 16))))

/-! ## The checks of an access (R104) -/

/-- Who accesses, and how: a load, store or atomic of a context; an engine that reads, or that writes a buffer or its own
scratch (R318). -/
inductive Purpose where
  | load | store | atomic | engineRead | engineWrite
  deriving DecidableEq, Repr

/-- The purpose writes. -/
def Purpose.writes : Purpose → Bool
  | .load | .engineRead => false
  | _ => true

/-- The engines refuse some windows as holes (R317, R318). -/
def Purpose.refuses (u : Purpose) (isC : Bool) : Space → Bool
  | .lane _ =>
    match u with
    | .load | .store => !isC
    | _ => true
  | .cluster _ | .global _ =>
    match u with
    | .engineWrite => true
    | _ => false
  | _ => false

/-- The bytes an access reaches: their key, the tile that performs it when that is another one, their page's scope and RO, the handle
through whose window it goes, the home table entry of its page. -/
structure Target where
  key : Nat
  home : Option Nat
  scope : Scope := .system
  ro : Bool := false
  window : Option Nat := none
  table : Word := 0
  deriving DecidableEq, Repr

/-- A home seen from a tile: nothing when it is the tile itself. -/
def farHome (r h : Nat) : Option Nat := if r = h then none else some h

/-- Steps 7 to 9 of R104 for a global address. -/
def State.globalTarget (s : State) (r : Nat) (writes : Bool) (va : Nat) : Except Byte Target :=
  match (s.tile r).pitch.bind s.pitch? with
  | none => .error 0x09
  | some p =>
    match s.translate r p.image.root p.image.homes va with
    | .leaf e =>
      match s.homeOf e.home (e.paOf va) with
      | none => .error 0x09
      | some h =>
        if !s.within e.scope h r then .error 0x08
        else if writes && e.ro then .error 0x0A
        else .ok { key := e.paOf va, home := farHome r h, scope := e.scope, ro := e.ro, table := e.home }
    | .bad => .error 0x21
    | _ => .error 0x09

/-- The global address of a byte of a handle's backing: the current one, or the shadow (R261, R287). -/
def Handle.va (h : Handle) (shadow : Bool) (off : Nat) : Nat :=
  (if h.cur != shadow then h.buffer.va1 else h.buffer.va0) + off

/-- The global address that an access at a pointer translates, if it translates one: a store through the window is refused before that
(R104). -/
def State.vaOf (s : State) (p : Pitch) (u : Purpose) (ea : DWord) : Option Nat :=
  match spaceOf ea, u with
  | some (.global va), _ => some va
  | some (.buffer _ _), .store | some (.buffer _ _), .atomic => none
  | some (.buffer h off), _ => (p.handles[h]?).map fun d => d.va (u = .engineWrite) off
  | _, _ => none

/-- What a condition says of the translation that an access at a pointer needs, if it needs one. -/
def State.atWalk (s : State) (r : Nat) (u : Purpose) (ea : DWord) (f : Nat → Nat → List Word → Nat → Bool) : Bool :=
  match (s.tile r).pitch.bind s.pitch? with
  | none => false
  | some p => ((s.vaOf p u ea).map (f r p.image.root p.image.homes)).getD false

/-- The translation that an access at a pointer needs is not there yet. -/
def State.targetDue (s : State) (r : Nat) (u : Purpose) (ea : DWord) : Bool := s.atWalk r u ea s.walkDue

/-- The walk that an access at a pointer makes itself meets a wrong cell or lane. -/
def State.targetMeets (s : State) (r : Nat) (u : Purpose) (ea : DWord) : Bool := s.atWalk r u ea s.walkMeets

/-- The state after that walk (R369, R371). -/
def State.targetRead (s : State) (r : Nat) (u : Purpose) (ea : DWord) : State :=
  match (s.tile r).pitch.bind s.pitch? with
  | none => s
  | some p => ((s.vaOf p u ea).map (s.walkRead p.image.root p.image.homes)).getD s

/-- The target of a canonical pointer whose alignment and window have passed (steps 6 to 9 of R104). -/
def State.spaceTarget (s : State) (r : Nat) (u : Purpose) (size : Nat) : Space → Except Byte Target
  | .global va => s.globalTarget r u.writes va
  | .buffer h off =>
    match ((s.tile r).pitch.bind s.pitch?).bind fun p => p.handles[h]? with
    | none => .error 0x06
    | some hd =>
      if off + size ≤ hd.buffer.size then
        (s.globalTarget r u.writes (hd.va (u = .engineWrite) off)).map fun t => { t with window := some h }
      else .error 0x06
  | .cluster f =>
    let m := natField f 8 4
    let loc := natField f 12 10 * 256 + f % 256
    match (s.tile r).sharedOf[m]?, s.memberRank (s.clusterOf r) m with
    | some sh, some q =>
      if loc + size ≤ 32768 * sh.toNat then .ok { key := sramKey q .shared loc, home := farHome r q } else .error 0x06
    | _, _ => .error 0x06
  | .scratch _ off =>
    if off + size ≤ (s.tile r).scratchSize then .ok { key := sramKey r .scratch off, home := none } else .error 0x06
  | .lane i => .ok { key := sramKey r .lane i, home := none }

/-- Steps 1 to 9 of R104 for an access by a tile; the error is the trap code. `isC` says that the C core accesses. -/
def State.checkAccess (s : State) (r : Nat) (isC : Bool) (u : Purpose) (ea : DWord) (size : Nat) : Except Byte Target :=
  match spaceOf ea with
  | none => .error 0x05
  | some sp =>
    if ea.toNat % size ≠ 0 then .error 0x04
    else if u.refuses isC sp then .error 0x06
    else
      match sp with
      | .scratch owner _ => if owner = r then s.spaceTarget r u size sp else .error 0x07
      | .buffer _ _ =>
        match u with
        | .store | .atomic => .error 0x0A
        | _ => s.spaceTarget r u size sp
      | _ => s.spaceTarget r u size sp

/-! ## Bad data -/

/-- Mark the word of a key poisoned (R373). -/
def State.poisonWord (s : State) (key : Nat) : State := { s with poison := insertNat s.poison (key / 8) }

/-- The marks of `n` bytes from a key. -/
def marksOf (m : List (Nat × List Nat)) (key n : Nat) : List (Nat × List Nat) :=
  m.filter fun e => decide (key ≤ e.1) && decide (e.1 < key + n)

/-- What happens before any of some marked bytes. -/
def knownOf (m : List (Nat × List Nat)) : List Nat := m.foldl (fun l e => unionNat l e.2) []

/-- What happens before the stores that the bytes' values come from (R278). -/
def State.knownAt (s : State) (key n : Nat) : List Nat := knownOf (marksOf s.marks key n)

/-- The marks after a store of the bytes that a mask selects, before which `known` happens (R278). -/
def putMarks (m : List (Nat × List Nat)) (key n mask : Nat) (known : List Nat) : List (Nat × List Nat) :=
  let rest := m.filter fun e => !(decide (key ≤ e.1) && decide (e.1 < key + n) && mask.testBit (e.1 - key))
  if known.isEmpty then rest
  else ((List.range n).filter mask.testBit).foldl (fun m j => assocPut m (key + j) known) rest

/-- Write bytes and clear the poison of every word written whole (R373). -/
def State.store {w : Nat} (s : State) (key n : Nat) (v : BitVec w) (known : List Nat := []) : State :=
  { s with
    mem := s.mem.write key n v
    marks := putMarks s.marks key n (2 ^ n - 1) known
    poison := s.poison.filter fun p => !(decide (key ≤ p * 8) && decide (p * 8 + 8 ≤ key + n)) }

/-- The same for the bytes that a mask selects (R325, R373). -/
def State.storeMasked {w : Nat} (s : State) (key n : Nat) (v : BitVec w) (mask : Nat) (known : List Nat := []) : State :=
  if mask % 2 ^ n = 2 ^ n - 1 then s.store key n v known
  else { s with
    mem := s.mem.writeMasked key n v.toNat mask
    marks := putMarks s.marks key n mask known
    poison := s.poison.filter fun p =>
      !(decide (key ≤ p * 8) && decide (p * 8 + 8 ≤ key + n) && natField mask (p * 8 - key) 8 == 255) }

/-! ## Logical time (R284)

A line of which nothing is recorded has been read and written at time 0 only (log 12). -/

/-- The line of a key. -/
def lineOf (key : Nat) : Nat := key / 64 * 64

/-- What the home records of a line. -/
def Tile.leaseOf (t : Tile) (line : Nat) : Option Lease := t.leases.find? (·.key = line)

/-- Record a line's times. -/
def Tile.setLease (t : Tile) (l : Lease) : Tile := { t with leases := l :: t.leases.filter (·.key ≠ l.key) }

/-- The greater of two times. -/
def maxTime (a b : DWord) : DWord := if a < b then b else a

/-- A read at the home at logical time `pts`, with a lease of `len`: the state, and the line's times afterwards. -/
def State.stampRead (s : State) (home key : Nat) (pts len : DWord) : State × DWord × DWord :=
  match (s.tile home).leaseOf (lineOf key) with
  | none =>
    if pts = 0 ∧ len = 0 then (s, 0, 0)
    else (s.modTile home fun t => t.setLease ⟨lineOf key, 0, pts + len⟩, 0, pts + len)
  | some l =>
    let rts := maxTime l.rts (maxTime l.wts (pts + len))
    (s.modTile home fun t => t.setLease { l with rts := rts }, l.wts, rts)

/-- A write at the home at logical time `pts`: the state, and the time of the write. -/
def State.stampWrite (s : State) (home key : Nat) (pts : DWord) : State × DWord :=
  match (s.tile home).leaseOf (lineOf key) with
  | none =>
    if pts = 0 then (s, 0) else (s.modTile home fun t => t.setLease ⟨lineOf key, pts, pts⟩, pts)
  | some l =>
    let w := maxTime pts (l.rts + 1)
    (s.modTile home fun t => t.setLease ⟨lineOf key, w, w⟩, w)

/-- The later of two times, and what happens before either (R278, R284). -/
def Time.join (a b : Time) : Time := ⟨maxTime a.time b.time, unionNat a.known b.known⟩

/-- The context after what another carried has reached it along an order (R278, R284). -/
def Ctx.meet (c : Ctx) (t : Time) : Ctx := { c with pts := Time.join c.pts t }

/-- The context after it has met a logical time alone (R284). -/
def Ctx.meetTime (c : Ctx) (t : DWord) : Ctx := { c with pts := { c.pts with time := maxTime c.pts.time t } }

/-! ## Messages to homes -/

/-- Who sends from a context (R326). -/
def State.sender (s : State) (r : Nat) (i : CtxId) : Sender :=
  { mod := s.modidx.toNat, rank := r, ctx := i, pitch := ((s.tile r).pitch).getD ⟨0, 0⟩ }

/-- A pitch that is running. -/
def Pitch.runs (p : Pitch) : Bool :=
  match p.state with
  | .running => true
  | _ => false

/-- The youngest running instance of a configuration (R450). -/
def State.youngest (s : State) (cfg : Nat) : Option Pitch :=
  (s.pitches.filter fun p => p.id.cfg == cfg && p.runs).foldl
    (fun b p => match b with
      | some q => if q.age ≤ p.age then some p else b
      | none => some p) none

/-- The tile carries a node of the sender's pitch instance (R348); for a sender on another module, of the youngest running
instance of its configuration (R450). -/
def State.carries (s : State) (r : Nat) (src : Sender) : Bool :=
  let p := (s.tile r).pitch
  if src.mod = s.modidx.toNat then p == some src.pitch
  else p.isSome && p == (s.youngest src.pitch.cfg).map (·.id)

/-- A message counts as completed for its pitch (R327). The sweeps see only the sums of a pitch, so the sender's tile keeps
the count, and the receiver's for a sender on another module. -/
def State.countDone (s : State) (r : Nat) (src : Sender) : State :=
  let k := if src.mod = s.modidx.toNat then src.rank else r
  if s.carries k src then s.modTile k fun t => { t with msgDone := t.msgDone + 1 }
  else s.modTile k fun t => { t with prior := t.prior.map fun e =>
    if e.1 = src.pitch then (e.1, { e.2 with msgDone := e.2.msgDone + 1 }) else e }

/-- A message reaches a tile: it enters the inbound queue of 64 entries, or the router's buffers hold it while the queue is full
(R324). -/
def Tile.arrive (t : Tile) (m : Msg) : Tile :=
  if t.router.isEmpty ∧ t.inbox.length < 64 then { t with inbox := t.inbox ++ [m] } else { t with router := t.router ++ [m] }

/-- The messages at a tile, in arrival order: the inbound queue, and what its router holds (R324). -/
def Tile.messages (t : Tile) : List Msg := t.inbox ++ t.router

/-- Messages leave a tile, and those that the router holds move up (R324). -/
def Tile.keepMessages (t : Tile) (keep : Msg → Bool) : Tile :=
  let l := t.messages.filter keep
  { t with inbox := l.take 64, router := l.drop 64 }

/-- Send a built-in message: it stands at the receiver and counts as sent (R324, R327). -/
def State.sendReq (s : State) (home : Nat) (q : Req) : State :=
  ({ s with reqs := s.reqs + 1 }.modTile home fun t => t.arrive (Msg.builtin q)).modTile q.src.rank
    fun t => { t with msgSent := t.msgSent + 1 }

/-- The message is the request that a context waits for, by its number. -/
def Msg.isReq (r : Nat) (i : CtxId) (tag : Nat) : Msg → Bool
  | .builtin q => q.src.rank == r && q.src.ctx == i && q.tag == tag
  | .user _ => false

/-- The request has not been performed: it stands at its home, in the inbound queue or before it. -/
def State.unperformed (s : State) (home r : Nat) (i : CtxId) (tag : Nat) : Bool :=
  (s.tile home).inbox.any (Msg.isReq r i tag) || (s.tile home).router.any (Msg.isReq r i tag)

/-- The home and the number of the returning atomic whose result a context waits for, while it is on its way. -/
def Ctx.atomicSent (c : Ctx) : Option (Nat × Nat) :=
  match c.xact with
  | some x => if x.effect && x.sent then ((x.todo.head?).bind fun p => p.home).map fun h => (h, x.tag) else none
  | none => none

/-- The message is the user message whose reply a context waits for, by its number. -/
def Msg.awaits (src : Sender) (tag : Nat) : Msg → Bool
  | .builtin _ => false
  | .user m => m.src.mod == src.mod && m.src.rank == src.rank && m.src.ctx == src.ctx && m.tag == tag

/-- The tile of this module at which the message of a context's returning AMSG waits to be run. -/
def State.messageAt (s : State) (r : Nat) (i : CtxId) : Option Nat :=
  let c := (s.tile r).ctx i
  match c.reply with
  | .waiting => (s.tiles.find? fun e => e.2.messages.any (Msg.awaits (s.sender r i) c.replyTag)).map (·.1)
  | _ => none

/-- The context's waiting group has had an effect elsewhere: a returning atomic that its home has performed; a user message that has
been taken from its queue or has left the module (DEDUCED, log 29); what a plan's groups have done on other modules. Such a group
commits before anything stops it (R27, R291, R303, R339). -/
def State.bound (s : State) (r : Nat) (i : CtxId) : Bool :=
  let c := (s.tile r).ctx i
  s.boundPlan r i || (c.reply != .none && (s.messageAt r i).isNone) ||
  match c.atomicSent with
  | some e => !s.unperformed e.1 r i e.2
  | none => (c.xact.map fun x => x.effect && x.bad.isNone).getD false

/-- A message of a context that still waits at a tile is taken back, and counts as sent no more (R324, R327). -/
def State.takeBack (s : State) (home r : Nat) (mine : Msg → Bool) : State :=
  (s.modTile home fun t => t.keepMessages fun m => !mine m).modTile r fun t => { t with msgSent := t.msgSent - 1 }

/-- The user message of a waiting AMSG that no thread has begun is taken back (R339). -/
def State.withdrawMessage (s : State) (r : Nat) (i : CtxId) : State :=
  match s.messageAt r i with
  | some home => (s.takeBack home r (Msg.awaits (s.sender r i) ((s.tile r).ctx i).replyTag)).modCtx r i fun c => { c with reply := .none }
  | none => s

/-- A group that waits and is to have no effect takes its returning atomic or its message back from where it waits, and what it has told
other modules of a plan (R27, R291, R339). -/
def State.withdraw (s : State) (r : Nat) (i : CtxId) : State :=
  let s := (s.withdrawPlan r i).withdrawMessage r i
  match ((s.tile r).ctx i).atomicSent with
  | some e =>
    if s.unperformed e.1 r i e.2 then
      (s.takeBack e.1 r (Msg.isReq r i e.2)).modCtx r i fun c => { c with xact := none }
    else s
  | none => s

/-- The request kind of a read, write or atomic at another tile: the cluster-assist kinds for its shared portion, the
memory kinds for global lines (R258, R325). -/
def readKind (key : Nat) : ReqKind := if key < 2 ^ 52 then .read else .cread
def writeKind (key : Nat) : ReqKind := if key < 2 ^ 52 then .write else .cwrite
def amoKind (key op : Nat) : ReqKind := if key < 2 ^ 52 then .amo op else .camo op

/-- A line of the tile's cache portion that a context may read under its lease; with LEASE.LEN 0 none is reused (R274, R283,
R284). -/
def Tile.leasedLine (t : Tile) (pts : DWord) (key : Nat) : Option CacheLine :=
  t.lines.find? fun l => t.lease != 0 && l.key == lineOf key && decide (pts ≤ l.rts)

/-- The tile's stages, queues and ports move: its clock runs, or it is struck and its access port alone works (R259, R416). -/
def Tile.clocked (t : Tile) : Bool := t.clock == .good || t.struck

/-- The tile may hold lines of other homes: CACHE and LEASE.LEN are not 0 (R274, R283). -/
def Tile.caches (t : Tile) : Bool := t.cache != 0 && t.lease != 0

/-! ## The second tier (R442) -/

/-- The second-tier port of the bytes is down (R442). -/
def State.portDown (s : State) (key : Nat) : Bool :=
  tier2Base ≤ key && key < hostBase && ((s.tier2Port key).map s.tier2Down.contains).getD true

/-- The fatal record of an access that failed at its home's port: it names the requester (R398, R442). -/
def State.postPort (s : State) (r key : Nat) (who : Nat × Option CtxId) : State :=
  let record : Record := s.hwRecord r none 0x21 0 (BitVec.ofNat 64 key) true false
    ((BitVec.ofNat 64 key ++ (ctxCode who.2).setWidth 32 ++ BitVec.ofNat 32 who.1).setWidth 256)
  s.modField (s.fieldOf r) fun f => { f with posts := f.posts ++ [{ record := record, pitch := (s.tile who.1).pitch }] }

/-- An access at a home fails at its second-tier port: the link is down, or it does not complete in 1 ms (R442). -/
def State.portFails (s : State) (home key : Nat) : Bool :=
  s.portDown key || (tier2Base ≤ key && key < hostBase && (s.tile home).late)

/-- What an access that fails at its port leaves: the home's record, and the time out has taken place (R442). -/
def State.failPort (s : State) (home key : Nat) (who : Nat × Option CtxId) : State :=
  (s.modTile home fun t => { t with late := false }).postPort home key who

/-! ## Reading (R105, R282) -/

/-- A handle of the pitch whose node a tile carries. -/
def State.handleAt (s : State) (r h : Nat) : Option Handle := ((s.tile r).pitch.bind s.pitch?).bind fun p => p.handles[h]?

/-- What the last PUB of a window's handle carried: it happens before a load that reads the generation that it made current (R278,
R284, R294). -/
def State.published (s : State) (r : Nat) (w : Option Nat) : Time := ((w.bind (s.handleAt r)).map (·.pts)).getD {}

/-- Do the pieces of an access in order: those of this tile, and those under a lease, at once, up to the first that must
travel to its home. -/
def State.advanceRead (s : State) (r : Nat) (i : CtxId) (x : Xact) : List Piece → State × Xact
  | [] => (s, { x with todo := [], sent := false })
  | p :: ps =>
    match p.home with
    | none =>
      if s.bankHeld p.key then (s, { x with todo := p :: ps, sent := false })
      else
        let e := s.readSeen p.key p.size
        if s.portFails r p.key then (s.failPort r p.key (r, some i), { x with todo := [], bad := some 0x21 })
        else if e.1.poisoned p.key p.size then (e.1, { x with todo := [], bad := some (badCode p.key) })
        else
          let st := e.1.stampRead r p.key ((s.tile r).ctx i).pts.time 0
          (st.1.modCtx r i (·.meet (Time.join (s.published r p.window) ⟨st.2.1, s.knownAt p.key p.size⟩))).advanceRead r i
            { x with done := x.done ++ [e.2.read 128 p.key p.size] } ps
    | some h =>
      let t := s.tile r
      match t.leasedLine (t.ctx i).pts.time p.key with
      | some l =>
        if l.bad.any fun w => p.key % 64 / 8 ≤ w && w ≤ (p.key % 64 + p.size - 1) / 8 then (s, { x with todo := [], bad := some 0x20 })
        else (s.modCtx r i (·.meet (Time.join (s.published r p.window) ⟨l.wts, knownOf (marksOf l.marks p.key p.size)⟩))).advanceRead r i
          { x with done := x.done ++ [((l.data >>> (8 * (p.key % 64))).setWidth (8 * p.size)).setWidth 128] } ps
      | none =>
        let kind := if p.key < 2 ^ 52 ∧ t.caches then
            (if t.lines.any (·.key = lineOf p.key) then .renew else .line) else readKind p.key
        (s.sendReq h { kind := kind, key := p.key, size := p.size, src := s.sender r i, pts := (t.ctx i).pts, tag := s.reqs
                       window := p.window.bind fun h => (s.handleAt r h).map fun d => (h, d.cur) },
         { x with todo := p :: ps, sent := true, tag := s.reqs })

/-- The bytes of a command in the C core's matrix queue meet the piece's (R209). -/
def Matrix.touches (m : Matrix) (key size : Nat) : Bool :=
  m.queue.any fun c => c.ranges.any fun g => decide (g.1 < key + size) && decide (key < g.1 + g.2)

/-- An access may begin: the context's earlier stores are performed (R282), no posted atomic to the same location is on
its way (R303), and no incomplete matrix command of this core holds the bytes (R209). -/
def State.mayAccess (s : State) (keys : List (Nat × Nat)) : Bool :=
  s.cur.storing.isEmpty &&
  keys.all fun k => !(s.cur.posted.any fun p => k.1 / 8 ≤ p.1 && p.1 ≤ (k.1 + k.2 - 1) / 8) && !(s.focus.ctx == .c && s.here.matrix.touches k.1 k.2)

/-- The state before a group, with what its reads have met at the tile's fly and its second-tier port (R369, R371, R442). -/
def State.flyMet (s met : State) (r : Nat) : State :=
  { s.modTile r fun t => { t with fly := (met.tile r).fly, strikeDue := (met.tile r).strikeDue, late := (met.tile r).late } with
    poison := met.poison, fields := met.fields }

/-- Pieces of a tile meet nothing but their data: no cell or lane of its fly is wrong, no port fails (R369, R371, R442). -/
def State.meetsNothing (s : State) (r : Nat) (ps : List Piece) : Bool :=
  (s.tile r).fly.sound && ps.all fun p => p.home.isSome || !s.portFails r p.key

/-- Read pieces as the group at K or X2: the values once all are there; otherwise the group waits, or ends as `blame` says of
the piece that met bad data and the code. A piece of a published buffer not yet on its way is where its handle's current backing
is now (R261). -/
def State.readEach (s : State) (blame : Nat → Byte → Exit) (ps : List Piece) : Except Exit (State × List (BitVec 128)) :=
  let r := s.focus.rank
  let i := s.focus.ctx
  let x0 := match s.cur.xact with
    | none => { todo := ps }
    | some x =>
      if x.sent || x.bad.isSome || ps.all (fun p => p.window.isNone) then x else { x with todo := ps.drop x.done.length }
  if s.cur.xact.isNone && !s.mayAccess (ps.map fun p => (p.key, p.size)) then .error (.wait s)
  else
    let y := if x0.sent then (s, x0) else s.advanceRead r i x0 x0.todo
    match y.2.bad with
    | some code =>
      (match blame y.2.done.length code with
       | .trap c d v => if s.meetsNothing r ps then .error (.trap c d v) else .error (.trapIn (s.flyMet y.1 r) c d v)
       | e => .error e)
    | none =>
      if y.2.todo.isEmpty then .ok (y.1.modCtx r i fun c => { c with xact := none }, y.2.done)
      else .error (.wait (y.1.modCtx r i fun c => { c with xact := some y.2 }))

/-- Read the pieces of an access at a pointer: bad data traps with the pointer. -/
def State.readPieces (s : State) (ea : DWord) (ps : List Piece) : Except Exit (State × List (BitVec 128)) :=
  s.readEach (fun _ code => .trap code 0 ea) ps

/-! ## Writing (R105, R282) -/

/-- The pole of the fly that holds the bytes is dead (R372). -/
def State.deadPole (s : State) (key : Nat) : Bool :=
  key < flyEnd && (s.tile (key / 2 ^ 25)).fly.abandoned == 0xF

/-- The fatal record of a write that a dead pole answered with a failure (R372, R398). -/
def State.postDeadPole (s : State) (r : Nat) : State :=
  s.post r (s.hwRecord r none 0x34 0 0 true false ((s.tile r).fly.abandoned.setWidth 256))

/-- A store performed by the tile that owns the bytes, with what its requester carries: the state and the time of the write. `who`
is the requester: its rank, and its context or engine (R398). At a dead pole
(R372) and at a port that is down (R442) nothing is written and a record is posted. -/
def State.performWrite (s : State) (home key size : Nat) (data : BitVec 128) (pts : Time) (who : Nat × Option CtxId)
    (mask : Nat := 0xFFFF) : State × DWord :=
  if s.deadPole key then (s.postDeadPole home, pts.time)
  else if s.portFails home key then (s.failPort home key who, pts.time)
  else
    let w := (s.stampWrite home key pts.time).map (fun s => (s.storeMasked key size data mask pts.known).writeSeen key size) id
    if w.1.deadPole key then ({ w.1 with mem := s.mem, marks := s.marks, poison := s.poison }.postDeadPole home, pts.time) else w

/-- Perform the pieces of a committed store in order, up to the first that must travel, which is sent and stays first, or that finds
its bank held, which stays first until the remap is done (R370). -/
def State.advanceStore (s : State) (r : Nat) (i : CtxId) : List StorePiece → State
  | [] => s.modCtx r i fun c => { c with storing := [] }
  | p :: ps =>
    match p.piece.home with
    | none =>
      if s.bankHeld p.piece.key then s.modCtx r i fun c => { c with storing := p :: ps }
      else
        let w := s.performWrite r p.piece.key p.piece.size p.data ((s.tile r).ctx i).pts (r, some i) p.mask
        (w.1.modCtx r i (·.meetTime w.2)).advanceStore r i ps
    | some h =>
      (s.sendReq h { kind := writeKind p.piece.key, key := p.piece.key, size := p.piece.size, data := p.data
                     cmp := BitVec.ofNat 64 p.mask, src := s.sender r i, pts := ((s.tile r).ctx i).pts, tag := s.reqs }).modCtx r i
        fun c => { c with storing := { p with tag := s.reqs } :: ps }

/-- Write pieces at K. -/
def State.writePieces (s : State) (ps : List StorePiece) : Except Exit State :=
  if !s.mayAccess (ps.map fun p => (p.piece.key, p.piece.size)) ||
      ps.any (fun p => p.piece.home.isNone && s.bankHeld p.piece.key) then .error (.wait s)
  else .ok (s.advanceStore s.focus.rank s.focus.ctx ps)

/-- A group that releases waits until every earlier access of its context is performed (R162, R164, R295). -/
def State.released (s : State) : Bool := s.cur.storing.isEmpty

/-- The fault is one of steps 7 to 9 of R104, or bad data, which an access meets behind its translation. -/
def ofPage (code : Byte) : Bool := code == 0x08 || code == 0x09 || code == 0x0A || code == 0x21

/-- One checked access of the running context at `at'`, part of an access at `ea`, which a trap names; it waits for a translation
that is not there yet. -/
def State.targetAt (s : State) (u : Purpose) (ea at' : DWord) (size : Nat) : Except Exit Target :=
  match s.checkAccess s.focus.rank (s.focus.ctx == .c) u at' size with
  | .ok t => if s.targetDue s.focus.rank u at' then .error (.wait s) else .ok t
  | .error code =>
    if ofPage code && s.targetDue s.focus.rank u at' then .error (.wait s)
    else if ofPage code && s.targetMeets s.focus.rank u at' then .error (.trapIn (s.targetRead s.focus.rank u at') code 0 ea)
    else .error (.trap code 0 ea)

/-- One checked access of the running context. -/
def State.target (s : State) (u : Purpose) (ea : DWord) (size : Nat) : Except Exit Target := s.targetAt u ea ea size

/-- A target as one piece. -/
def Target.piece (t : Target) (size : Nat) : Piece := ⟨t.key, size, t.home, t.window⟩

/-- The tile that performs the access to a target's byte at an offset, when that is another one: each line has its own home (R264, R265). -/
def State.homeAt (s : State) (r : Nat) (t : Target) (off : Nat) : Option Nat :=
  if t.key < 2 ^ 52 ∧ lineOf (t.key + off) ≠ lineOf t.key then farHome r ((s.homeOf t.table (t.key + off)).getD r) else t.home

/-- `size` bytes of a target from an offset, as one piece. -/
def State.pieceAt (s : State) (r : Nat) (t : Target) (off size : Nat) : Piece := ⟨t.key + off, size, s.homeAt r t off, t.window⟩

/-- The tile that holds a target. -/
def Target.homeFrom (t : Target) (r : Nat) : Nat := t.home.getD r

/-- A scalar load (R102 to R105): the state after its bookkeeping, and the bytes. -/
def State.load (s : State) (ea : DWord) (size : Nat) : Except Exit (State × BitVec 128) := do
  let t ← s.target .load ea size
  let r ← s.readPieces ea [t.piece size]
  return (r.1, r.2.headD 0)

/-- A scalar store (R102 to R105). -/
def State.storeTo (s : State) (ea : DWord) (size : Nat) (data : BitVec 128) : Except Exit State := do
  let t ← s.target .store ea size
  s.writePieces [{ piece := t.piece size, data := data }]

/-! ## The tile's own scratch by offset (R339) -/

/-- Check a scratch offset's alignment and extent, and that the bytes are good (R339, R373, R396). -/
def State.scratchOffset (s : State) (o align extent : Nat) : Except Exit Unit :=
  if o % align ≠ 0 then .error (.trap 0x04 0 (BitVec.ofNat 64 o))
  else if s.here.scratchSize < o + extent then .error (.trap 0x06 0 (BitVec.ofNat 64 o))
  else if s.poisoned (sramKey s.focus.rank .scratch o) extent then .error (.trap 0x20 0 (BitVec.ofNat 64 o))
  else .ok ()

/-- Bytes of the running tile's scratch, as a word. -/
def State.scratchRead (s : State) (w off n : Nat) : BitVec w := s.mem.read w (sramKey s.focus.rank .scratch off) n

end Sys2Proof.Machine
end

