-- ==== Sys2Proof/Machine/Operands.lean ====
section
/-! DEFINITION. The operand forms: immediates, memory offsets, branch and register targets, lanes and governing
predicates (R43, R45, R97, R102, R103, R174 to R177). -/

namespace Sys2Proof.Machine

/-- An immediate as a 32-bit operand: bits(imm, 31, 0) (R92). -/
def imm32 (imm : BitVec 64) : Word := imm.setWidth 32

/-- The effective pointer of an NM operand: a[x] plus the offset, which counts units of `unit` bytes (R43, R103). -/
def Ctx.ea (c : Ctx) (x : AReg) (imm : BitVec 64) (unit : Nat) : DWord := c.getA x + imm * BitVec.ofNat 64 unit

/-- The target of a PC-relative transfer as a signed value, formed without wrap (R45). -/
def Ctx.target (c : Ctx) (imm : BitVec 64) : Int := (c.pc.toNat : Int) + 2 * imm.toInt

/-- A taken PC-relative transfer: fetch fault outside 0x0000 to 0xFFFE (R45). -/
def takeTarget (t : Int) (s : State) : Except Exit Flow :=
  if t < 0 ∨ 0xFFFE < t then .error (.trap 0x03 0 (BitVec.ofInt 64 t))
  else .ok (.jump s (BitVec.ofInt 16 t))

/-- A transfer to a register's value: fetch fault when it is odd or above 0xFFFE; nothing else is written then (R97). -/
def registerTarget (t : Word) (s : State) : Except Exit Flow :=
  if t.getLsbD 0 ∨ 0xFFFE < t.toNat then .error (.trap 0x03 0 (t.setWidth 64))
  else .ok (.jump s (t.setWidth 16))

/-- The address that a call saves: after the group's last word, zero-extended (R96, R97). -/
def State.link (s : State) : Word := BitVec.ofNat 32 s.after

/-! ## Lanes (R174, R176) -/

/-- Lane `j` of a vector. -/
def lane (v : VWord) (j : Nat) : Word := v.extractLsb' (32 * j) 32

/-- A vector from its lanes, lane 0 first. -/
def ofLanes (f : Nat → Word) : VWord :=
  (List.range 32).foldr (fun j acc => acc <<< 32 ||| (f j).setWidth 1024) 0

/-- The lanes that a predicate makes active, ascending. -/
def activeLanes (p : Word) : List Nat := (List.range 32).filter fun j => p.getLsbD j

/-- A vector whose active lanes take `f` and whose other lanes keep `old` (R176). -/
def merge (p : Word) (old : VWord) (f : Nat → Word) : VWord :=
  ofLanes fun j => if p.getLsbD j then f j else lane old j

/-- A predicate from one bit per lane. -/
def ofBits (f : Nat → Bool) : Word :=
  (List.range 32).foldr (fun j (acc : Word) => acc <<< 1 ||| boolWord (f j)) 0

end Sys2Proof.Machine
end

