-- ==== Sys2Proof/Machine/Num.lean ====
section
/-! DEFINITION. Floating-point and integer number formats, exact values and the one rounding of the device (R66 to R86). -/

namespace Sys2Proof.Machine

/-! ## Exact values -/

/-- An exact real number: (−1)^neg × num / den × 2^exp, `den` positive. Zero keeps its sign. -/
structure Ex where
  neg : Bool
  num : Nat
  den : Nat := 1
  exp : Int := 0
  deriving DecidableEq, Repr

/-- A value of a floating-point format (R66). A NaN keeps its sign, its mantissa aligned to 23 bits, and whether it is
signalling (R74). -/
inductive FVal where
  | nan (neg : Bool) (frac : Nat) (signalling : Bool)
  | inf (neg : Bool)
  | fin (v : Ex)
  deriving DecidableEq, Repr

/-- FFLAGS bits NV, DZ, OF, UF, NX (R79). -/
abbrev FlagSet := BitVec 5

def fNV : FlagSet := 16
def fDZ : FlagSet := 8
def fOF : FlagSet := 4
def fUF : FlagSet := 2
def fNX : FlagSet := 1

/-- 2^k for an integer k, as a fraction's numerator and denominator. -/
def scaleUp (k : Int) : Nat := 2 ^ k.toNat
/-- The denominator side of 2^k. -/
def scaleDown (k : Int) : Nat := 2 ^ (-k).toNat

def Ex.isZero (v : Ex) : Bool := v.num == 0
def Ex.zero (neg : Bool) : Ex := ⟨neg, 0, 1, 0⟩
def Ex.ofNat (n : Nat) : Ex := ⟨false, n, 1, 0⟩
def Ex.ofInt (i : Int) : Ex := ⟨i < 0, i.natAbs, 1, 0⟩
def Ex.negate (v : Ex) : Ex := { v with neg := !v.neg }
def Ex.abs (v : Ex) : Ex := { v with neg := false }

/-- Exact product. -/
def Ex.mul (a b : Ex) : Ex := ⟨a.neg != b.neg, a.num * b.num, a.den * b.den, a.exp + b.exp⟩

/-- Exact quotient; the divisor is not zero. -/
def Ex.div (a b : Ex) : Ex := ⟨a.neg != b.neg, a.num * b.den, a.den * b.num, a.exp - b.exp⟩

/-- The numerator of a value over the common denominator `den` and the common scale `e`. -/
def Ex.signedAt (v : Ex) (e : Int) : Int :=
  let n : Int := v.num * 2 ^ (v.exp - e).toNat
  if v.neg then -n else n

/-- Exact sum. A zero sum of values of opposite sign takes the sign `zneg` (R74). -/
def Ex.add (zneg : Bool) (a b : Ex) : Ex :=
  let e := min a.exp b.exp
  let s := a.signedAt e * b.den + b.signedAt e * a.den
  let neg := if a.neg == b.neg then a.neg else if s = 0 then zneg else s < 0
  ⟨neg, s.natAbs, a.den * b.den, e⟩

/-- |a| < |b|, |a| compared exactly. -/
def Ex.absLt (a b : Ex) : Bool :=
  let e := min a.exp b.exp
  a.num * 2 ^ (a.exp - e).toNat * b.den < b.num * 2 ^ (b.exp - e).toNat * a.den

/-- a < b as numbers: the two zeros are equal. -/
def Ex.lt (a b : Ex) : Bool :=
  let e := min a.exp b.exp
  a.signedAt e * b.den < b.signedAt e * a.den

/-- a = b as numbers. -/
def Ex.eqv (a b : Ex) : Bool :=
  let e := min a.exp b.exp
  a.signedAt e * b.den == b.signedAt e * a.den

/-- floor(log2 |v|) of a nonzero value. -/
def Ex.log2 (v : Ex) : Int :=
  let l : Int := (Nat.log2 v.num : Int) - Nat.log2 v.den
  let l' := if v.den * scaleUp l ≤ v.num * scaleDown l then l else l - 1
  l' + v.exp

/-! ## Formats -/

/-- The floating-point element formats (R66). -/
inductive FFmt where
  | f32 | bf16 | e4m3 | e5m2 | e2m1
  deriving DecidableEq, Repr

/-- The precision P(F) (R76). -/
def FFmt.prec : FFmt → Nat
  | .f32 => 24 | .bf16 => 8 | .e4m3 => 4 | .e5m2 => 3 | .e2m1 => 2

/-- The exponent bias (R66). -/
def FFmt.bias : FFmt → Nat
  | .f32 | .bf16 => 127 | .e4m3 => 7 | .e5m2 => 15 | .e2m1 => 1

/-- The exponent of the smallest normal, Emin(F) (R66). -/
def FFmt.emin : FFmt → Int
  | .f32 | .bf16 => -126 | .e4m3 => -6 | .e5m2 => -14 | .e2m1 => 0

/-- The exponent of the largest finite value (R66). -/
def FFmt.emax : FFmt → Int
  | .f32 | .bf16 => 127 | .e4m3 => 8 | .e5m2 => 15 | .e2m1 => 2

/-- The significand of the largest finite value, an integer of P(F) bits (R66). -/
def FFmt.maxSig : FFmt → Nat
  | .f32 => 2 ^ 24 - 1 | .bf16 => 255 | .e4m3 => 14 | .e5m2 => 7 | .e2m1 => 3

/-- The format has infinities (R66). -/
def FFmt.hasInf : FFmt → Bool
  | .f32 | .bf16 | .e5m2 => true
  | .e4m3 | .e2m1 => false

/-- The width of an element in bits (R66). -/
def FFmt.width : FFmt → Nat
  | .f32 => 32 | .bf16 => 16 | .e4m3 | .e5m2 => 8 | .e2m1 => 4

/-- The canonical NaN; E2M1 has none and takes +0 (R66, R81). -/
def FFmt.canonNaN : FFmt → Nat
  | .f32 => 0x7FC00000 | .bf16 => 0x7FC0 | .e4m3 => 0x7F | .e5m2 => 0x7E | .e2m1 => 0

/-- The sign bit of a format, as a number. -/
def FFmt.signBit (f : FFmt) (neg : Bool) : Nat := if neg then 2 ^ (f.width - 1) else 0

/-- The infinity of a format, or the largest magnitude where it has none. -/
def FFmt.infBits (f : FFmt) (neg : Bool) : Nat :=
  f.signBit neg + (match f with
    | .f32 => 0x7F800000 | .bf16 => 0x7F80 | .e5m2 => 0x7C | .e4m3 => 0x7E | .e2m1 => 7)

/-- The largest finite value of a sign. -/
def FFmt.maxBits (f : FFmt) (neg : Bool) : Nat :=
  f.signBit neg + (match f with
    | .f32 => 0x7F7FFFFF | .bf16 => 0x7F7F | .e4m3 => 0x7E | .e5m2 => 0x7B | .e2m1 => 7)

/-- The value of a bit pattern (R66). -/
def FFmt.decode (f : FFmt) (b : Nat) : FVal :=
  let m := f.prec - 1
  let man := b % 2 ^ m
  let neg := b / 2 ^ (f.width - 1) % 2 == 1
  let ew := f.width - 1 - m
  let e := b / 2 ^ m % 2 ^ ew
  let top := 2 ^ ew - 1
  let finite : FVal :=
    if e = 0 then .fin ⟨neg, man, 1, f.emin - m⟩
    else .fin ⟨neg, man + 2 ^ m, 1, (e : Int) - f.bias - m⟩
  match f with
  | .e2m1 => finite
  | .e4m3 => if e = top ∧ man = 7 then .nan neg 0x700000 false else finite
  | .e5m2 => if e = top then (if man = 0 then .inf neg else .nan neg (man * 2 ^ 21) false) else finite
  | .f32 | .bf16 =>
    if e = top then
      if man = 0 then .inf neg else .nan neg (man * 2 ^ (23 - m)) (man < 2 ^ (m - 1))
    else finite

/-- The bits of significand `sig` × 2^q, where `sig` has at most P(F) bits and q is its last place. -/
def FFmt.encodeFin (f : FFmt) (neg : Bool) (sig : Nat) (q : Int) : Nat :=
  let m := f.prec - 1
  f.signBit neg + (if sig < 2 ^ m then sig else ((q + m + f.bias).toNat) * 2 ^ m + (sig - 2 ^ m))

/-! ## Rounding -/

/-- Rounding modes; stochastic rounding carries the 16 bits r that it compares with (R70, R76). -/
inductive RMode where
  | rne | rtz | rup | rdn
  | sr (r : Nat)
  deriving DecidableEq, Repr

/-- The fields of AMODE that arithmetic reads (R70). -/
structure ArithMode where
  rm : RMode := .rne
  daz : Bool := false
  ftz : Bool := false
  nanm : Bool := false
  nsat : Bool := false
  deriving DecidableEq, Repr

/-- Whether to round up, from the discarded fraction rem/den and the parity of the kept significand (R76). -/
def RMode.up (m : RMode) (neg : Bool) (kept rem den : Nat) : Bool :=
  match m with
  | .rne => den < 2 * rem || (2 * rem == den && kept % 2 == 1)
  | .rtz => false
  | .rup => 0 < rem && !neg
  | .rdn => 0 < rem && neg
  | .sr r => 2 ^ 16 ≤ rem * 2 ^ 16 / den + r

/-- The significand of |v| in units of 2^q, rounded, and whether anything was discarded. -/
def Ex.roundAt (v : Ex) (mode : RMode) (q : Int) : Nat × Bool :=
  let n := v.num * scaleUp (v.exp - q)
  let d := v.den * scaleDown (v.exp - q)
  let kept := n / d
  let rem := n % d
  (if mode.up v.neg kept rem d then kept + 1 else kept, rem != 0)

/-- A bit pattern and the flags its computation sets. -/
structure FRes where
  bits : Nat
  flags : FlagSet := 0
  deriving DecidableEq, Repr

/-- Overflow(F, s, mode): sets OF and NX (R76). -/
def FFmt.overflow (f : FFmt) (neg : Bool) (mode : RMode) (nsat : Bool) : FRes :=
  let toMax : Bool :=
    match f, mode with
    | .e2m1, _ => true
    | _, .rtz => true
    | _, .rup => neg
    | _, .rdn => !neg
    | _, _ => false
  let sat := nsat && f != .f32
  let b :=
    if sat || toMax then f.maxBits neg
    else if f.hasInf then f.infBits neg else f.canonNaN
  ⟨b, fOF ||| fNX⟩

/-- |v| rounded to P(F) bits with an unbounded exponent is below the smallest normal (R76). -/
def Ex.tinyAfter (v : Ex) (f : FFmt) (mode : RMode) : Bool :=
  let e := v.log2
  if f.emin ≤ e then false
  else
    let sig := (v.roundAt mode (e - f.prec + 1)).1
    e + 1 < f.emin || sig < 2 ^ f.prec

/-- RoundTo for a finite value (R76), without FTZ. -/
def FFmt.roundFin (f : FFmt) (v : Ex) (mode : RMode) (nsat : Bool) : FRes :=
  if v.isZero then ⟨f.signBit v.neg, 0⟩
  else
    let e := max v.log2 f.emin
    let q := e - f.prec + 1
    let (sig, inexact) := v.roundAt mode q
    let (sig, q) := if sig = 2 ^ f.prec then (2 ^ (f.prec - 1), q + 1) else (sig, q)
    let ee := q + f.prec - 1
    if 2 ^ (f.prec - 1) ≤ sig ∧ (f.emax < ee ∨ (ee = f.emax ∧ f.maxSig < sig)) then f.overflow v.neg mode nsat
    else
      let nx := if inexact then fNX else 0
      let uf := if inexact && v.tinyAfter f mode then fUF else 0
      ⟨f.encodeFin v.neg sig q, nx ||| uf⟩

/-- Special(F, ±∞) (R76). -/
def FFmt.special (f : FFmt) (neg : Bool) (nsat : Bool) : FRes :=
  match f with
  | .f32 | .bf16 | .e5m2 => ⟨f.infBits neg, 0⟩
  | .e4m3 => if nsat then ⟨f.maxBits neg, 0⟩ else ⟨f.canonNaN, fNV⟩
  | .e2m1 => ⟨f.maxBits neg, fNV⟩

/-- The bits are a nonzero subnormal of the format. -/
def FFmt.isSubnormal (f : FFmt) (b : Nat) : Bool :=
  let mag := b % 2 ^ (f.width - 1)
  mag != 0 && mag < 2 ^ (f.prec - 1)

/-- FTZ: a nonzero subnormal FP32 or BF16 result becomes a zero of its sign, with UF and NX (R73, R75). -/
def FFmt.flush (f : FFmt) (ftz : Bool) (r : FRes) : FRes :=
  if ftz && (f == .f32 || f == .bf16) && f.isSubnormal r.bits then
    ⟨r.bits - r.bits % 2 ^ (f.width - 1), r.flags ||| fUF ||| fNX⟩
  else r

/-- DAZ: a subnormal FP32 or BF16 input becomes a zero of its sign, without a flag (R73, R75). -/
def FFmt.input (f : FFmt) (daz : Bool) (b : Nat) : FVal :=
  if daz && (f == .f32 || f == .bf16) && f.isSubnormal b then f.decode (b - b % 2 ^ (f.width - 1)) else f.decode b

/-- A NaN result made from a NaN operand: canonical, or its quieted payload under NANM (R74). Narrow NaN results and E2M1
are canonical. -/
def FFmt.nanFrom (f : FFmt) (nanm : Bool) (neg : Bool) (frac : Nat) : Nat :=
  if !nanm then f.canonNaN
  else
    match f with
    | .f32 => f.infBits neg + (frac ||| 0x400000)
    | .bf16 => f.infBits neg + ((frac ||| 0x400000) / 2 ^ 16)
    | _ => f.canonNaN

/-- The first NaN of the operands, in operand order, as a result (R74). -/
def FFmt.firstNaN (f : FFmt) (nanm : Bool) : List FVal → Option Nat
  | [] => none
  | .nan neg frac _ :: _ => some (f.nanFrom nanm neg frac)
  | _ :: vs => f.firstNaN nanm vs

def FVal.isSignalling : FVal → Bool
  | .nan _ _ s => s
  | _ => false

def FVal.isNaN : FVal → Bool
  | .nan _ _ _ => true
  | _ => false

/-- NV when an operand is a signalling NaN (R74). -/
def signalFlag (vs : List FVal) : FlagSet := if vs.any FVal.isSignalling then fNV else 0

/-- The rounding mode of arithmetic: stochastic acts as RNE (R71). -/
def RMode.plain : RMode → RMode
  | .sr _ => .rne
  | m => m

/-- What an operation on non-NaN operands gives before rounding: an exact value, an infinity with flags, or an invalid
operation. -/
inductive Pre where
  | exact (v : Ex)
  | inf (neg : Bool) (flags : FlagSet)
  | invalid
  deriving DecidableEq, Repr

/-- Finishes an arithmetic operation of format `f`: NaN operands, invalid operations, rounding and FTZ (R74 to R76).
`extra` is a flag raised before the NaN rule (∞ × 0 in a fused multiply-add). Arithmetic does not read NSAT (R73). -/
def FFmt.finish (f : FFmt) (am : ArithMode) (ops : List FVal) (extra : FlagSet) (p : Pre) : FRes :=
  match f.firstNaN am.nanm ops with
  | some b => ⟨b, signalFlag ops ||| extra⟩
  | none =>
    match p with
    | .invalid => ⟨f.canonNaN, fNV⟩
    | .inf neg fl => ⟨f.infBits neg, fl⟩
    | .exact v => f.flush am.ftz (f.roundFin v am.rm.plain false)

/-- Exact sum of two values (R74). -/
def addPre (rm : RMode) (x y : FVal) : Pre :=
  match x, y with
  | .inf a, .inf b => if a = b then .inf a 0 else .invalid
  | .inf a, _ => .inf a 0
  | _, .inf b => .inf b 0
  | .fin a, .fin b => .exact (Ex.add (rm == .rdn) a b)
  | _, _ => .invalid

/-- Exact product of two values (R74). -/
def mulPre (x y : FVal) : Pre :=
  match x, y with
  | .inf a, .inf b => .inf (a != b) 0
  | .inf a, .fin v => if v.isZero then .invalid else .inf (a != v.neg) 0
  | .fin v, .inf b => if v.isZero then .invalid else .inf (v.neg != b) 0
  | .fin a, .fin b => .exact (a.mul b)
  | _, _ => .invalid

/-- Exact quotient of two values: a finite nonzero value over zero is an infinity with DZ (R114). -/
def divPre (x y : FVal) : Pre :=
  match x, y with
  | .inf _, .inf _ => .invalid
  | .inf a, .fin v => .inf (a != v.neg) 0
  | .fin v, .inf b => .exact (Ex.zero (v.neg != b))
  | .fin a, .fin b =>
    if b.isZero then (if a.isZero then .invalid else .inf (a.neg != b.neg) fDZ)
    else .exact (a.div b)
  | _, _ => .invalid

def FVal.negate : FVal → FVal
  | .nan n fr s => .nan n fr s
  | .inf n => .inf (!n)
  | .fin v => .fin v.negate

/-- x + y in format `f` (R113, R179). -/
def FFmt.add (f : FFmt) (am : ArithMode) (x y : Nat) : FRes :=
  let a := f.input am.daz x
  let b := f.input am.daz y
  f.finish am [a, b] 0 (addPre am.rm a b)

/-- x − y in format `f` (R113, R179). -/
def FFmt.sub (f : FFmt) (am : ArithMode) (x y : Nat) : FRes :=
  let a := f.input am.daz x
  let b := f.input am.daz y
  f.finish am [a, b] 0 (addPre am.rm a b.negate)

/-- x × y in format `f` (R113, R179). -/
def FFmt.mul (f : FFmt) (am : ArithMode) (x y : Nat) : FRes :=
  let a := f.input am.daz x
  let b := f.input am.daz y
  f.finish am [a, b] 0 (mulPre a b)

/-- x / y in format `f` (R114, R179). -/
def FFmt.div (f : FFmt) (am : ArithMode) (x y : Nat) : FRes :=
  let a := f.input am.daz x
  let b := f.input am.daz y
  f.finish am [a, b] 0 (divPre a b)

/-- x × y + z with one rounding (R83, R113). An infinity times zero sets NV also when the addend is a NaN (R74). -/
def FFmt.fma (f : FFmt) (am : ArithMode) (x y z : Nat) : FRes :=
  let a := f.input am.daz x
  let b := f.input am.daz y
  let c := f.input am.daz z
  let p := mulPre a b
  let bothNum := !a.isNaN && !b.isNaN
  let extra := if bothNum && p == .invalid then fNV else 0
  let r : Pre :=
    match p with
    | .invalid => .invalid
    | .inf n _ => addPre am.rm (.inf n) c
    | .exact v => addPre am.rm (.fin v) c
  f.finish am [a, b, c] extra r

/-- |x − y| in format `f`; the result is positive, a NaN excepted (R179). -/
def FFmt.absDiff (f : FFmt) (am : ArithMode) (x y : Nat) : FRes :=
  let a := f.input am.daz x
  let b := f.input am.daz y
  let p : Pre :=
    match addPre am.rm a b.negate with
    | .exact v => .exact v.abs
    | .inf _ fl => .inf false fl
    | .invalid => .invalid
  f.finish am [a, b] 0 p

/-- x < y as numbers, no operand a NaN. -/
def FVal.lt (x y : FVal) : Bool :=
  match x, y with
  | .inf a, .inf b => a && !b
  | .inf a, _ => a
  | _, .inf b => !b
  | .fin a, .fin b => a.lt b
  | _, _ => false

/-- x = y as numbers, no operand a NaN. -/
def FVal.eqv (x y : FVal) : Bool :=
  match x, y with
  | .inf a, .inf b => a == b
  | .fin a, .fin b => a.eqv b
  | _, _ => false

def FVal.isNeg : FVal → Bool
  | .nan n _ _ => n
  | .inf n => n
  | .fin v => v.neg

/-- The bits of an operand after DAZ. -/
def FFmt.dazBits (f : FFmt) (daz : Bool) (b : Nat) : Nat :=
  if daz && (f == .f32 || f == .bf16) && f.isSubnormal b then b - b % 2 ^ (f.width - 1) else b

/-- FMIN (`greater` false) and FMAX (`greater` true): an operand after DAZ; −0 below +0; one NaN gives the other operand;
two NaNs a NaN (R114). -/
def FFmt.minMax (f : FFmt) (greater : Bool) (am : ArithMode) (x y : Nat) : FRes :=
  let xb := f.dazBits am.daz x
  let yb := f.dazBits am.daz y
  let a := f.decode xb
  let b := f.decode yb
  let fl := signalFlag [a, b]
  match a.isNaN, b.isNaN with
  | true, true => ⟨(f.firstNaN am.nanm [a, b]).getD f.canonNaN, fl⟩
  | true, false => ⟨yb, fl⟩
  | false, true => ⟨xb, fl⟩
  | false, false =>
    let xLess := a.lt b || (a.eqv b && a.isNeg && !b.isNeg)
    ⟨if xLess == greater then yb else xb, fl⟩

/-- The comparisons of R114 and R181. -/
inductive FCmp where
  | eq | lt | le | un | ne
  deriving DecidableEq, Repr

/-- A comparison and its flags: equality and FUN set NV for a signalling NaN, the orderings for any NaN (R114, R181). -/
def FFmt.compare (f : FFmt) (c : FCmp) (daz : Bool) (x y : Nat) : Bool × FlagSet :=
  let a := f.input daz x
  let b := f.input daz y
  let nan := a.isNaN || b.isNaN
  let sig := signalFlag [a, b]
  let anyNaN := if nan then fNV else 0
  match c with
  | .eq => (!nan && a.eqv b, sig)
  | .ne => (nan || !a.eqv b, sig)
  | .un => (nan, sig)
  | .lt => (!nan && a.lt b, anyNaN)
  | .le => (!nan && (a.lt b || a.eqv b), anyNaN)

/-! ## Square root -/

/-- The integer square root by bits, from bit `k` − 1 down. -/
def isqrtFrom : Nat → Nat → Nat → Nat
  | 0, _, r => r
  | k + 1, n, r => isqrtFrom k n (if (r + 2 ^ k) * (r + 2 ^ k) ≤ n then r + 2 ^ k else r)

/-- floor(√n). -/
def isqrt (n : Nat) : Nat := isqrtFrom (n.log2 / 2 + 1) n 0

/-- The square root with a sticky last bit: √(num × den × 2^256 [× 2]) / den, scaled; more than a hundred significant bits,
so that rounding it is rounding the true root (R82). -/
def Ex.sqrt (v : Ex) : Ex :=
  let odd := v.exp % 2 ≠ 0
  let n := v.num * v.den * (if odd then 2 else 1) * 2 ^ 256
  let r := isqrt n
  let e := (if odd then v.exp - 1 else v.exp) / 2
  let sig := if r * r = n then 2 * r else 2 * r + 1
  ⟨false, sig, v.den, e - 129⟩

/-- √x in format `f` with the cases of R82 and R115. -/
def FFmt.sqrt (f : FFmt) (am : ArithMode) (x : Nat) : FRes :=
  let a := f.input am.daz x
  let p : Pre :=
    match a with
    | .fin v => if v.isZero then .exact v else if v.neg then .invalid else .exact v.sqrt
    | .inf n => if n then .invalid else .inf false 0
    | .nan _ _ _ => .invalid
  f.finish am [a] 0 p

/-! ## Integral values -/

/-- Rounds to an integer by a mode, and whether the value changed (R81, R184). -/
def Ex.toInt (v : Ex) (mode : RMode) : Int × Bool :=
  let (n, nx) := v.roundAt mode 0
  (if v.neg then -(n : Int) else n, nx)

/-- Rounds to an integral value in the same format (VFLR and VRND, R184). `flagNX` says whether a change sets NX. -/
def FFmt.integral (f : FFmt) (am : ArithMode) (mode : RMode) (flagNX : Bool) (x : Nat) : FRes :=
  let a := f.input am.daz x
  match a with
  | .nan n fr s => ⟨f.nanFrom am.nanm n fr, if s then fNV else 0⟩
  | .inf n => ⟨f.infBits n, 0⟩
  | .fin v =>
    let (i, nx) := v.toInt mode
    let r := f.roundFin ⟨v.neg, i.natAbs, 1, 0⟩ mode.plain false
    ⟨r.bits, if nx && flagNX then fNX else 0⟩

/-! ## Conversions -/

/-- The range of an integer element type (R69, R81). -/
def intRange (width : Nat) (signed : Bool) : Int × Int :=
  if signed then (-(2 ^ (width - 1)), 2 ^ (width - 1) - 1) else (0, 2 ^ width - 1)

/-- An integer's two's complement bits. -/
def intBits (width : Nat) (i : Int) : Nat := (i % (2 ^ width : Int)).toNat

/-- Clamps to a range. -/
def clampInt (lo hi i : Int) : Int := if i < lo then lo else if hi < i then hi else i

/-- A floating value to an integer: rounded by the mode, saturated with NV, NX when inexact (R81). -/
def floatToInt (width : Nat) (signed : Bool) (mode : RMode) (v : FVal) : FRes :=
  let (lo, hi) := intRange width signed
  match v with
  | .nan _ _ _ => ⟨0, fNV⟩
  | .inf neg => ⟨intBits width (if neg then lo else hi), fNV⟩
  | .fin x =>
    let (i, nx) := x.toInt mode.plain
    if i < lo || hi < i then ⟨intBits width (clampInt lo hi i), fNV⟩
    else ⟨intBits width i, if nx then fNX else 0⟩

/-- A stochastic mode acts only on roundings to BF16, E4M3 and E5M2 (R71). -/
def FFmt.srMode (f : FFmt) (m : RMode) : RMode :=
  match f with
  | .bf16 | .e4m3 | .e5m2 => m
  | .f32 | .e2m1 => m.plain

/-- A value rounded into a floating format by a conversion, with NSAT and FTZ (R76, R81). -/
def FFmt.convertTo (f : FFmt) (am : ArithMode) (v : FVal) : FRes :=
  match v with
  | .nan n fr s => if f == .e2m1 then ⟨0, fNV⟩ else ⟨f.nanFrom am.nanm n fr, if s then fNV else 0⟩
  | .inf n => f.special n am.nsat
  | .fin x => f.flush am.ftz (f.roundFin x (f.srMode am.rm) am.nsat)

/-- The conversion takes bits of the stochastic generator: a finite nonzero value rounded to BF16, E4M3 or E5M2 (R71, R76). -/
def FFmt.takesBits (f : FFmt) (v : FVal) : Bool :=
  match v with
  | .fin x => !x.isZero && (f == .bf16 || f == .e4m3 || f == .e5m2)
  | _ => false

/-! ## Scales and block elements -/

/-- The value of an E8M0 scale; 0xFF is a NaN (R67). -/
def e8m0 (b : Nat) : Option Ex := if b = 255 then none else some ⟨false, 1, 1, (b : Int) - 127⟩

/-- The value of an E3M5 scale (R67). -/
def e3m5 (b : Nat) : Ex :=
  let e := b / 32
  let m := b % 32
  if e = 0 then ⟨false, m, 1, -7⟩ else ⟨false, 32 + m, 1, (e : Int) - 3 - 5⟩

/-- The exact value of an E2M1 nibble (R66). -/
def e2m1 (b : Nat) : Ex :=
  match FFmt.e2m1.decode b with
  | .fin v => v
  | _ => Ex.zero false

/-! ## The stochastic generator -/

/-- One step of the LFSR (R78). -/
def lfsrStep (s : Word) : Word :=
  if s.getLsbD 0 then (s >>> 1) ^^^ 0x80200003#32 else s >>> 1

/-- `n` steps of the LFSR (R78). -/
def lfsrSteps : Nat → Word → Word
  | 0, s => s
  | n + 1, s => lfsrSteps n (lfsrStep s)

/-- The bits a stochastic rounding compares with: [15:0] of the state (R76, R78). -/
def lfsrBits (s : Word) : Nat := s.toNat % 65536

/-! ## Order-preserving keys -/

/-- Key(x) of an FP32 value that is not a NaN (R86). -/
def key32 (b : Word) : Word :=
  let b := if b = 0x80000000#32 then 0 else b
  if b.getLsbD 31 then ~~~b else b ^^^ 0x80000000#32

/-- Unkey(k) for FP32 (R86). -/
def unkey32 (k : Word) : Word := if k.getLsbD 31 then k ^^^ 0x80000000#32 else ~~~k

/-- Key(x) for I32, and its inverse (R86). -/
def keyI32 (b : Word) : Word := b ^^^ 0x80000000#32

end Sys2Proof.Machine
end

