-- ==== Sys2Proof/Machine/Special.lean ====
section
/-! DEFINITION. The special functions (R82): their exact cases, special inputs and flags, and outside the exact cases a free
value within the error bound. The bound is applied to a rational approximation far finer than one ulp. -/

namespace Sys2Proof.Machine

/-- The special functions (R82); the square root is `FFmt.sqrt`. -/
inductive SpecialFn where
  | rcp | rsq | exp2 | log2 | exp | log | tanh | sig | sin | cos
  deriving DecidableEq, Repr

/-- The number of a function, for the free value. -/
def SpecialFn.code : SpecialFn → Nat
  | .rcp => 0 | .rsq => 1 | .exp2 => 2 | .log2 => 3 | .exp => 4 | .log => 5 | .tanh => 6 | .sig => 7 | .sin => 8 | .cos => 9

/-- The error bound in ulp (R82). -/
def SpecialFn.bound : SpecialFn → Nat
  | .rcp | .rsq | .exp2 | .log2 => 1
  | .exp | .log | .tanh | .sig | .sin | .cos => 2

/-! ## Fixed point with 512 fraction bits -/

/-- Fraction bits of the approximations. -/
def fxBits : Nat := 512
/-- The number one. -/
def fxOne : Int := 2 ^ fxBits

/-- x − x³/3 + x⁵/5 − …, or with plus signs throughout (`alt` false): `fuel` terms from the k-th; `p` is x^(2k+1). -/
def fxArcSeries (alt : Bool) (x2 : Int) : Nat → Nat → Int → Int
  | 0, _, _ => 0
  | fuel + 1, k, p =>
    let t := p / (2 * (k : Int) + 1)
    (if alt && k % 2 == 1 then -t else t) + fxArcSeries alt x2 fuel (k + 1) (p * x2 / fxOne)

/-- ln 2 = 2 artanh(1/3). -/
def fxLn2 : Int := 2 * fxArcSeries false (fxOne / 9) 180 0 (fxOne / 3)

/-- π with `extra` more fraction bits, by Machin's formula. -/
def piTerms (one : Int) (d : Int) : Nat → Nat → Int → Int
  | 0, _, _ => 0
  | fuel + 1, k, p =>
    let t := p / (2 * (k : Int) + 1)
    (if k % 2 == 1 then -t else t) + piTerms one d fuel (k + 1) (p / (d * d))

/-- π with 768 fraction bits. -/
def fxPi768 : Int :=
  let one : Int := 2 ^ 768
  4 * (4 * piTerms one 5 340 0 (one / 5) - piTerms one 239 100 0 (one / 239))

/-- Terms x^k/k! of the exponential series from the k-th. -/
def fxExpSeries (x : Int) : Nat → Nat → Int → Int
  | 0, _, _ => 0
  | fuel + 1, k, t => t + fxExpSeries x fuel (k + 1) (t * x / (fxOne * (k + 1)))

/-- e^x of a fixed-point value as a fixed-point mantissa and a power of two: x = n ln 2 + r. -/
def fxExp (x : Int) : Int × Int :=
  let n := x / fxLn2
  (fxExpSeries (x - n * fxLn2) 110 0 fxOne, n)

/-- ln of num/den × 2^e with 1 ≤ num/den < 2, in fixed point: e ln 2 + 2 artanh((m − 1)/(m + 1)). -/
def fxLn (num den : Nat) (e : Int) : Int :=
  let z : Int := ((num : Int) - den) * fxOne / ((num : Int) + den)
  e * fxLn2 + 2 * fxArcSeries false (z * z / fxOne) 180 0 z

/-- Terms of the sine (`k` = 1, first term x) and cosine (`k` = 0, first term 1) series. -/
def fxTrigSeries (x2 : Int) : Nat → Nat → Int → Int
  | 0, _, _ => 0
  | fuel + 1, k, t => t - fxTrigSeries x2 fuel (k + 2) (t * x2 / (fxOne * ((k + 1) * (k + 2))))

/-- A value as a signed fixed-point number. -/
def Ex.toFx (v : Ex) : Int :=
  let n : Int := v.num * scaleUp (v.exp + fxBits) / (v.den * scaleDown (v.exp + fxBits))
  if v.neg then -n else n

/-- A fixed-point number times 2^e as an exact value. -/
def Ex.ofFx (i : Int) (e : Int) : Ex := ⟨i < 0, i.natAbs, 1, e - fxBits⟩

/-- The quadrant of x and its remainder after full-range reduction by π/2 (R82). -/
def trigReduce (v : Ex) : Int × Int :=
  let n : Int := v.num * scaleUp (v.exp + 768) / (v.den * scaleDown (v.exp + 768))
  let n := if v.neg then -n else n
  let h := fxPi768 / 2
  let q := (n + h / 2) / h
  (q % 4, (n - q * h) / 2 ^ 256)

/-- A value just below one. -/
def belowOne : Ex := ⟨false, 2 ^ 180 - 1, 2 ^ 180, 0⟩

/-- The function's value to far more than FP32 precision, for a finite nonzero input outside the exact cases. -/
def SpecialFn.approx (f : SpecialFn) (v : Ex) : Ex :=
  match f with
  | .rcp => Ex.div ⟨false, 1, 1, 0⟩ v
  | .rsq => Ex.div ⟨false, 1, 1, 0⟩ v.sqrt
  | .exp2 =>
    let x := v.toFx
    let n := x / fxOne
    let r := (x - n * fxOne) * fxLn2 / fxOne
    .ofFx (fxExpSeries r 110 0 fxOne) n
  | .exp =>
    let (m, n) := fxExp v.toFx
    .ofFx m n
  | .log =>
    let l := v.log2
    .ofFx (fxLn (v.num * scaleDown (l - v.exp)) (v.den * scaleUp (l - v.exp)) l) 0
  | .log2 =>
    let l := v.log2
    let y := fxLn (v.num * scaleDown (l - v.exp)) (v.den * scaleUp (l - v.exp)) l
    .ofFx (y * fxOne / fxLn2) 0
  | .tanh =>
    -- beyond 64 the value is below one by less than 2^-180
    if 6 ≤ v.log2 then { belowOne with neg := v.neg }
    else
      let (m, n) := fxExp (2 * v.abs.toFx)
      let e : Int := m * scaleUp n
      ⟨v.neg, (e - fxOne).toNat, (e + fxOne).toNat, 0⟩
  | .sig =>
    -- from 256 on the value is below one by less than 2^-180
    if !v.neg && 8 ≤ v.log2 then belowOne
    else
    let (m, n) := fxExp (if v.neg then v.toFx else -v.toFx)
    -- e = e^(−|x|); sig(|x|) = 1/(1+e), sig(−|x|) = e/(1+e)
    let e : Int := m / scaleDown n
    if v.neg then ⟨false, m.toNat, (e + fxOne).toNat, n⟩ else ⟨false, fxOne.toNat, (e + fxOne).toNat, 0⟩
  | .sin =>
    let (q, r) := trigReduce v
    let r2 := r * r / fxOne
    let s := fxTrigSeries r2 60 1 r
    let c := fxTrigSeries r2 60 0 fxOne
    .ofFx (if q = 0 then s else if q = 1 then c else if q = 2 then -s else -c) 0
  | .cos =>
    let (q, r) := trigReduce v
    let r2 := r * r / fxOne
    let s := fxTrigSeries r2 60 1 r
    let c := fxTrigSeries r2 60 0 fxOne
    .ofFx (if q = 0 then c else if q = 1 then -s else if q = 2 then -c else s) 0

/-- The exact result, where the table of R82 names one, for a finite input. -/
def SpecialFn.exactCase (f : SpecialFn) (v : Ex) : Option Ex :=
  let l := v.log2
  let pow2 := !v.isZero && v.num * scaleDown (l - v.exp) == v.den * scaleUp (l - v.exp)
  let (i, frac) := v.toInt .rtz
  match f with
  | .rcp => if pow2 && -126 ≤ -l && -l ≤ 127 then some ⟨v.neg, 1, 1, -l⟩ else none
  | .rsq => if pow2 && !v.neg && l % 2 == 0 then some ⟨false, 1, 1, -(l / 2)⟩ else none
  | .exp2 => if !frac && -149 ≤ i && i ≤ 127 then some ⟨false, 1, 1, i⟩ else none
  | .log2 => if pow2 && !v.neg then some (Ex.ofInt l) else none
  | .log => if pow2 && !v.neg && l == 0 then some (Ex.zero false) else none
  | .exp | .cos => if v.isZero then some ⟨false, 1, 1, 0⟩ else none
  | .sig => if v.isZero then some ⟨false, 1, 1, -1⟩ else none
  | .tanh | .sin => if v.isZero then some v else none

/-- A significand in some unit of FP32 has at most 24 bits. -/
def fits24 (c : Nat) : Bool := decide (Nat.log2 c ≤ 23) || c % 2 ^ (Nat.log2 c - 23) == 0

/-- The FP32 values, as sign and units of 2^(q−k), whose distance from a positive value is at most `bound` units of 2^q; those beyond zero,
and both zeros, are among them. With `k` = 1 they include those below a power of two that the value is near, which stand half as far
apart (R82). The value is known to far more bits than separate it from the bound (log 5). -/
def withinUlp (a : Ex) (bound : Nat) (q : Int) (k : Nat) : List (Bool × Nat) :=
  let h := q - k
  let n := 2 ^ k * bound + 1
  let mid := (a.roundAt .rtz h).1
  (List.range (2 * n + 1)).flatMap fun j =>
    let c : Int := mid + j - n
    let diff := (Ex.add false ⟨c < 0, c.natAbs, 1, h⟩ { a with neg := true }).abs
    if (Ex.absLt ⟨false, bound, 1, q⟩ diff) || !fits24 c.natAbs then []
    else if c = 0 then [(false, 0), (true, 0)] else [(decide (c < 0), c.natAbs)]

/-- A result outside the exact cases: one of the FP32 values within the bound, chosen by the free value (R82, log 5). Beyond
FP32 it is an infinity with OF and NX; what EXP2 and EXP round to zero is zero, with UF and NX; SIG has no such case in R82, and every
value within its bound may result; zero and subnormals set UF and NX. -/
def SpecialFn.rounded (f : SpecialFn) (x : Nat) (v : Ex) : FRes :=
  let far := 10 ≤ v.log2 && (f == .exp2 || f == .exp || f == .sig)
  let a := if far then (if v.neg then ⟨false, 1, 1, -2000⟩ else if f == .sig then belowOne else ⟨false, 1, 1, 2000⟩)
    else f.approx v
  let lost := (f == .exp2 || f == .exp) && (FFmt.f32.roundFin a .rne false).bits == 0
  if 128 ≤ a.log2 then ⟨FFmt.f32.infBits a.neg, fOF ||| fNX⟩
  else if lost then ⟨0, fUF ||| fNX⟩
  else
    let q := max a.log2 (-126) - 23
    let k := if q = -149 then 0 else 1
    let cs := withinUlp a.abs f.bound q k
    let c := (cs[Config.specialPick f.code x % cs.length]?).getD (false, 0)
    let r := FFmt.f32.roundFin ⟨a.neg != c.1, c.2, 1, q - k⟩ .rne false
    let tiny := FFmt.f32.isSubnormal r.bits || c.2 = 0
    ⟨r.bits, r.flags ||| fNX ||| (if tiny then fUF else 0)⟩

/-- What a special function gives for an infinity: a value, or none for an invalid operation (R82). -/
def SpecialFn.atInf (f : SpecialFn) (neg : Bool) : Option FVal :=
  match f, neg with
  | .exp2, false | .exp, false | .log2, false | .log, false => some (.inf false)
  | .rcp, n => some (.fin (Ex.zero n))
  | .rsq, false => some (.fin (Ex.zero false))
  | .tanh, n => some (.fin ⟨n, 1, 1, 0⟩)
  | .sig, false => some (.fin ⟨false, 1, 1, 0⟩)
  | .exp2, true | .exp, true | .sig, true => some (.fin (Ex.zero false))
  | _, _ => none

/-- The FP32 result for an FP32 or widened BF16 input value, before FTZ; `x` its bits (R82). -/
def SpecialFn.result32 (f : SpecialFn) (x : Nat) (v : FVal) : FRes :=
  match v with
  | .nan _ _ _ => ⟨FFmt.f32.canonNaN, 0⟩
  | .inf n =>
    match f.atInf n with
    | some (.inf m) => ⟨FFmt.f32.infBits m, 0⟩
    | some (.fin w) => FFmt.f32.roundFin w .rne false
    | _ => ⟨FFmt.f32.canonNaN, fNV⟩
  | .fin w =>
    let pole := w.isZero && (f == .rcp || f == .rsq || f == .log2 || f == .log)
    if pole then ⟨FFmt.f32.infBits (if f == .log2 || f == .log then true else w.neg), fDZ⟩
    else if w.neg && !w.isZero && (f == .rsq || f == .log2 || f == .log) then ⟨FFmt.f32.canonNaN, fNV⟩
    else
      match f.exactCase w with
      | some e => FFmt.f32.roundFin e .rne false
      | none => f.rounded x w

/-- A special function on an element of format F32 or BF16: DAZ, NANM and FTZ apply, RM does not (R73, R82). The BF16 form
rounds the FP32 result once more, RNE, to BF16. -/
def FFmt.special1 (fmt : FFmt) (am : ArithMode) (f : SpecialFn) (x : Nat) : FRes :=
  let a := fmt.input am.daz x
  match a with
  | .nan n fr s => ⟨fmt.nanFrom am.nanm n fr, if s then fNV else 0⟩
  | _ =>
    let wide := if fmt == .bf16 then fmt.dazBits am.daz x * 65536 else fmt.dazBits am.daz x
    let r := f.result32 wide a
    match fmt with
    | .bf16 =>
      match FFmt.f32.decode r.bits with
      | .nan _ _ _ => ⟨FFmt.bf16.canonNaN, r.flags⟩
      | .inf n => ⟨FFmt.bf16.infBits n, r.flags⟩
      | .fin v =>
        let r2 := FFmt.bf16.flush am.ftz (FFmt.bf16.roundFin v .rne false)
        ⟨r2.bits, r.flags ||| r2.flags⟩
    | _ => fmt.flush am.ftz r

end Sys2Proof.Machine
end

