-- ==== Sys2Proof/Machine/Flags.lean ====
section
/-! DEFINITION. AMODE, FFLAGS and SRSEED, and the skipped checks that CHKSKIP counts (R70 to R80, R363 to R365). -/

namespace Sys2Proof.Machine

/-- The rounding mode that AMODE.RM names; `seed` is the generator's state for stochastic rounding (R70, R78). -/
def rmOf (amode seed : Word) : RMode :=
  match (amode.setWidth 3).toNat with
  | 1 => .rtz | 2 => .rup | 3 => .rdn | 4 => .sr (lfsrBits seed) | _ => .rne

/-- The fields of AMODE (R70). -/
def arithMode (amode seed : Word) : ArithMode :=
  { rm := rmOf amode seed, daz := amode.getLsbD 3, ftz := amode.getLsbD 4, nanm := amode.getLsbD 5
    nsat := amode.getLsbD 6 }

/-- The mode of a context's arithmetic. -/
def Ctx.mode (c : Ctx) : ArithMode := arithMode c.amode c.srseed

/-- The same with a stochastic mode acting as RNE (R71). -/
def Ctx.plainMode (c : Ctx) : ArithMode := { c.mode with rm := c.mode.rm.plain }

/-- AMODE.RM selects stochastic rounding. -/
def Ctx.stochastic (c : Ctx) : Bool := c.amode.setWidth 3 == 4#3

/-- What a write of AMODE stores: the seven fields, with RM codes 5 to 7 stored as 0 (R70). -/
def amodeStored (w : Word) : Word :=
  if 5 ≤ w.toNat % 8 then w &&& 0x78 else w &&& 0x7F

/-- What a write of SRSEED stores: 1 in place of 0 (R77). -/
def srseedStored (w : Word) : Word := if w = 0 then 1 else w

/-- Set flags; they stay until MTK clears them (R79). -/
def Ctx.raise (c : Ctx) (f : FlagSet) : Ctx := { c with fflags := c.fflags ||| f.setWidth 32 }

/-! ## Skipped checks (R364, R365)

The second firing agrees with the first in every run of the model but those whose move says otherwise (log 13); what a
program can see of it is CHKSKIP. -/

/-- The check of a floating lane of the sum or product class is skipped: its result overflows, underflows (log 21), is
subnormal or is a flushed subnormal, or an input is subnormal under DAZ. -/
def skipsCheck (f : FFmt) (daz : Bool) (inputs : List Nat) (r : FRes) : Bool :=
  (r.flags &&& (fOF ||| fUF) != 0) || f.isSubnormal r.bits || (daz && inputs.any f.isSubnormal)

/-- The check of a floating compare is skipped: an input is subnormal under DAZ. -/
def skipsCompare (f : FFmt) (daz : Bool) (inputs : List Nat) : Bool := daz && inputs.any f.isSubnormal

/-- Count a skipped check, once for the group (R365). -/
def State.countSkip (s : State) (skip : Bool) : State :=
  if skip then s.modHere fun t => { t with chkskip := t.chkskip + 1 } else s

end Sys2Proof.Machine

namespace Sys2Proof

/-- A floating-point element: its format. -/
def EType.float? : EType → Option Machine.FFmt
  | .f32 => some .f32 | .bf16 => some .bf16 | .e4m3 => some .e4m3 | .e5m2 => some .e5m2 | _ => none

/-- An integer element: its width and whether it is signed (R69). -/
def EType.int? : EType → Option (Nat × Bool)
  | .i32 => some (32, true) | .i16 => some (16, true) | .i8 => some (8, true) | .u32 => some (32, false) | _ => none

end Sys2Proof
end

