-- ==== Sys2Proof/Machine/Atomic.lean ====
section
/-! DEFINITION. Atomics (R300 to R303) and the built-in memory messages that homes perform (R258, R282, R284, R325). -/

namespace Sys2Proof.Machine

/-! ## The operations (R302, R325) -/

/-- The integer operations and the swap, by their place in R300 and R325. -/
def amoInt {n : Nat} (op : Nat) (old v : BitVec n) : BitVec n :=
  match op with
  | 0 => old + v
  | 1 => old &&& v
  | 2 => old ||| v
  | 3 => old ^^^ v
  | 4 => if old.slt v then old else v
  | 5 => if old.slt v then v else old
  | 6 => if old.ult v then old else v
  | 7 => if old.ult v then v else old
  | _ => v

/-- A 4-byte atomic's new value; a compare and swap that does not match writes nothing (R302). The floating ones read no
AMODE. -/
def amoNew (op : Nat) (old v cmp : Word) : Option Word :=
  match op with
  | 9 => if old = cmp then some v else none
  | 10 => some (BitVec.ofNat 32 (FFmt.f32.add {} old.toNat v.toNat).bits)
  | 11 => some (BitVec.ofNat 32 (FFmt.f32.minMax true {} old.toNat v.toNat).bits)
  | _ => some (amoInt op old v)

/-- The old value and the new one, if the operation writes, of an atomic of a request kind. -/
def ReqKind.apply (k : ReqKind) (old : DWord) (v cmp : DWord) : Option DWord :=
  match k with
  | .amo op | .camo op => (amoNew op (old.setWidth 32) (v.setWidth 32) (cmp.setWidth 32)).map (·.setWidth 64)
  | .amo8 op => some (amoInt op old v)
  | .cas8 => if old = cmp then some v else none
  | _ => none

/-- The atomic is performed where its bytes are: the state, the old value or the code of bad data met, and what the access met. An
operation that writes nothing is a read (R276, R302). -/
def State.performAtomic (s : State) (home key size : Nat) (k : ReqKind) (v cmp : DWord) (pts : Time) (who : Nat × Option CtxId) :
    State × Except Byte DWord × Time :=
  let e := s.readSeen key size
  if s.portFails home key then (s.failPort home key who, .error 0x21, {})
  else
  let s := e.1
  if s.poisoned key size then (s, .error (badCode key), {})
  else
    let old : DWord := e.2.read 64 key size
    let known := s.knownAt key size
    match k.apply old v cmp with
    | some new =>
      let w := s.performWrite home key size (new.setWidth 128) { pts with known := unionNat pts.known known } who
      (w.1, .ok old, ⟨w.2, known⟩)
    | none =>
      let st := s.stampRead home key pts.time 0
      (st.1, .ok old, ⟨st.2.1, known⟩)

/-- The physical address that a record of a home shows (R398): an SRAM byte shows its offset. -/
def recordAddress (key : Nat) : Nat := if key < 2 ^ 52 then key else key % 2 ^ 22

/-- The record that a home posts for a posted access that met bad data (R303, R374, R398): it concerns the requester's
pitch. -/
def State.postFromHome (s : State) (home : Nat) (code : Byte) (src : Sender) (key : Nat) : State :=
  let record : Record := s.hwRecord home none code 0 (BitVec.ofNat 64 (recordAddress key)) true false
    ((BitVec.ofNat 64 (recordAddress key) ++ (ctxCode (some src.ctx)).setWidth 32 ++ BitVec.ofNat 32 src.rank).setWidth 256)
  s.modField (s.fieldOf home) fun f => { f with posts := f.posts ++ [{ record := record, pitch := some src.pitch }] }

/-- A returning atomic that has been issued, at its group: it waits for its result, traps with the bad data met, or commits (R303).
Its checks were made when it was issued, and are not made again: it takes effect once (R291). `put` writes the old value. -/
def atomicResult (ea : DWord) (put : Ctx → DWord → Ctx) (x : Xact) (s : State) : Except Exit Flow :=
  match x.bad, x.todo with
  | some code, _ => .error (.trap code 0 ea)
  | none, _ :: _ => .error (.wait s)
  | none, [] => .ok (.on (s.modCur fun c => put { c with xact := none } ((x.done.headD 0).setWidth 64)))

/-- An atomic of the running context on a checked target is issued (R303). A posted one commits then; a returning one
waits for its result. -/
def atomicIssue (ea : DWord) (t : Target) (size : Nat) (k : ReqKind) (v cmp : DWord) (posted : Bool) (put : Ctx → DWord → Ctx)
    (s : State) : Except Exit Flow :=
  let r := s.focus.rank
  let i := s.focus.ctx
  if !s.mayAccess [(t.key, size)] || (t.home.isNone && s.bankHeld t.key) || (posted && decide (16 ≤ s.cur.posted.length)) then
    .error (.wait s)
  else
    match t.home with
    | none =>
      let a := s.performAtomic r t.key size k v cmp s.cur.pts (r, some i)
      match a.2.1 with
      | .error code =>
        if posted then .ok (.on (if s.portFails r t.key then a.1 else a.1.postFromHome r code (s.sender r i) t.key))
        else if s.meetsNothing r [t.piece size] then .error (.trap code 0 ea) else .error (.trapIn (s.flyMet a.1 r) code 0 ea)
      | .ok old => .ok (.on (a.1.modCur fun c => put (c.meet a.2.2) old))
    | some h =>
      let s' := s.sendReq h { kind := k, key := t.key, size := size, data := v.setWidth 128, cmp := cmp
                              src := s.sender r i, posted := posted, pts := s.cur.pts, tag := s.reqs }
      if posted then .ok (.on (s'.modCur fun c => { c with posted := c.posted ++ [(t.key / 8, h)] }))
      else .error (.wait (s'.modCur fun c =>
        { c with xact := some { todo := [t.piece size], sent := true, tag := s.reqs, effect := true } }))

/-- An atomic of the running context on `size` bytes at `ea` (R301, R303): checked as a store, then by scope, unless it has been issued. -/
def atomicOn (sc : Scope) (ea : DWord) (size : Nat) (kind : Nat → ReqKind) (v cmp : DWord) (posted : Bool) (put : Ctx → DWord → Ctx)
    (s : State) : Except Exit Flow :=
  match s.cur.xact with
  | some x => atomicResult ea put x s
  | none => do
    let t ← s.target .atomic ea size
    if !s.within sc s.focus.rank (t.homeFrom s.focus.rank) then throw (.trap 0x08 0x01 ea)
    atomicIssue ea t size (kind t.key) v cmp posted put s

/-- An atomic instruction (R300 to R303); posted when d is g0. -/
def amo (op : Nat) (sc : Scope) (d : GReg) (x : AReg) (y : GReg) : State → Out :=
  runGroup .all false fun s =>
    atomicOn sc (s.cur.getA x) 4 (fun key => amoKind key op) ((s.cur.getG y).setWidth 64) ((s.cur.getG d).setWidth 64) (d == 0)
      (fun c old => c.setG d (old.setWidth 32)) s

/-- AMOADD (R302). -/
def execAmoadd (s : Scope) (d : GReg) (x : AReg) (y : GReg) (st : State) : Out := amo 0 s d x y st
/-- AMOAND (R302). -/
def execAmoand (s : Scope) (d : GReg) (x : AReg) (y : GReg) (st : State) : Out := amo 1 s d x y st
/-- AMOOR (R302). -/
def execAmoor (s : Scope) (d : GReg) (x : AReg) (y : GReg) (st : State) : Out := amo 2 s d x y st
/-- AMOXOR (R302). -/
def execAmoxor (s : Scope) (d : GReg) (x : AReg) (y : GReg) (st : State) : Out := amo 3 s d x y st
/-- AMOMIN (R302). -/
def execAmomin (s : Scope) (d : GReg) (x : AReg) (y : GReg) (st : State) : Out := amo 4 s d x y st
/-- AMOMAX (R302). -/
def execAmomax (s : Scope) (d : GReg) (x : AReg) (y : GReg) (st : State) : Out := amo 5 s d x y st
/-- AMOMINU (R302). -/
def execAmominu (s : Scope) (d : GReg) (x : AReg) (y : GReg) (st : State) : Out := amo 6 s d x y st
/-- AMOMAXU (R302). -/
def execAmomaxu (s : Scope) (d : GReg) (x : AReg) (y : GReg) (st : State) : Out := amo 7 s d x y st
/-- AMOSWP (R302). -/
def execAmoswp (s : Scope) (d : GReg) (x : AReg) (y : GReg) (st : State) : Out := amo 8 s d x y st
/-- AMOCAS: the compare value is g[d] (R302). -/
def execAmocas (s : Scope) (d : GReg) (x : AReg) (y : GReg) (st : State) : Out := amo 9 s d x y st
/-- AMOFADD: one RNE rounding, AMODE unread (R302). -/
def execAmofadd (s : Scope) (d : GReg) (x : AReg) (y : GReg) (st : State) : Out := amo 10 s d x y st
/-- AMOFMAX (R302). -/
def execAmofmax (s : Scope) (d : GReg) (x : AReg) (y : GReg) (st : State) : Out := amo 11 s d x y st

/-! ## Homes (R324, R325) -/

/-- Who sent a message. -/
def Msg.src : Msg → Sender
  | .builtin q => q.src
  | .user m => m.src

/-- The message travels on virtual channel 14 (R324, R325). -/
def Msg.onVc14 : Msg → Bool
  | .builtin q => q.kind == .barr
  | .user _ => true

/-- The ordinary lane may take message `n` of a tile's queue: its thread runs no message (R324), and no earlier message of
the same sender, which is one context, on the same virtual channel waits before it. Messages of different senders arrive in any order
(R168; DEDUCED, log 16). -/
def Tile.mayTake (t : Tile) (n : Nat) : Option Msg :=
  match t.inbox[n]? with
  | none => none
  | some m =>
    if (t.current.isNone || t.struck) && t.clocked && (t.inbox.take n).all fun e => e.src != m.src || e.onVc14 != m.onVc14 then
      some m
    else none

/-- Message `n` leaves a tile's inbound queue, and the oldest one that the router holds enters it (R324). -/
def Tile.leaveInbox (t : Tile) (n : Nat) : Tile :=
  let t := { t with inbox := t.inbox.eraseIdx n }
  match t.router with
  | m :: ms => if t.inbox.length < 64 then { t with inbox := t.inbox ++ [m], router := ms } else t
  | [] => t

/-- Take message `n` of a sender away; it counts as completed (R327). -/
def State.takeMsg (s : State) (r n : Nat) (src : Sender) : State := (s.modTile r fun t => t.leaveInbox n).countDone r src

/-- Send a response to a request's context (R282). -/
def State.respond (s : State) (q : Req) (p : Resp) : State :=
  s.modTile q.src.rank fun t => { t with resps := t.resps ++ [p] }

/-- A plain response to a request. -/
def Req.resp (q : Req) : Resp := { ctx := q.src.ctx, kind := q.kind, key := q.key, posted := q.posted, tag := q.tag }

/-- The request changes nothing that its sender waits to read: a write, or a posted atomic. -/
def Req.silent (q : Req) : Bool :=
  q.posted || (match q.kind with
    | .write | .cwrite => true
    | _ => false)

/-- A request fails at its second-tier port: it completes as poisoned data, and its home posts a fatal record (R442). -/
def State.failAtPort (s : State) (r : Nat) (q : Req) : State :=
  ((s.modTile r fun t => { t with late := false }).postFromHome r 0x21 q.src q.key).respond q (if q.silent then q.resp else { q.resp with bad := some 0x21 })

/-- The handle whose window a read goes through, at the sender's pitch. -/
def State.windowOf (s : State) (q : Req) : Option (Handle × Bool) :=
  q.window.bind fun w => ((s.pitch? q.src.pitch).bind fun p => p.handles[w.1]?).map fun d => (d, w.2)

/-- The key of a read is of the backing that is current now (R261, R288): a PUB may have taken its place in T since the read was sent. -/
def State.resolved (s : State) (q : Req) : Bool := ((s.windowOf q).map fun w => w.1.cur == w.2).getD true

/-- What a read through a window meets of the handle's last PUB. -/
def State.metAt (s : State) (q : Req) : Time := ((s.windowOf q).map fun w => w.1.pts).getD {}

/-- Perform message `n` of a tile when it is a built-in one of a kind that `accept` takes and its bank is free (R370). -/
def serve (r n : Nat) (accept : ReqKind → Bool) (f : State → Req → State) (s : State) : Out :=
  match (s.tile r).mayTake n with
  | some (.builtin q) => event s (accept q.kind && (q.kind == .barr || !s.bankHeld q.key)) fun s =>
      let s' := s.takeMsg r n q.src
      if !s.resolved q then s'.respond q { q.resp with again := true }
      else if q.kind != .barr && s.portFails r q.key then s'.failAtPort r q
      else f s' q
  | _ => .next s

/-- A read of up to 16 bytes (R325). -/
def serveRead (r : Nat) (s : State) (q : Req) : State :=
  let e := s.readSeen q.key q.size
  let s := e.1
  if s.poisoned q.key q.size then s.respond q { q.resp with bad := some (badCode q.key) }
  else
    let st := s.stampRead r q.key q.pts.time 0
    st.1.respond q { q.resp with
      data := e.2.read 512 q.key q.size, wts := st.2.1, rts := st.2.2, known := s.knownAt q.key q.size, met := s.metAt q }

/-- A masked write of up to 16 bytes (R325); at a dead pole nothing is written and a record is posted (R372). -/
def serveWrite (r : Nat) (s : State) (q : Req) : State :=
  let w := s.performWrite r q.key q.size q.data q.pts (q.src.rank, some q.src.ctx) q.cmp.toNat
  w.1.respond q { q.resp with wts := w.2 }

/-- An atomic at its home; bad data met by a posted one is recorded here (R303). -/
def serveAtomic (r : Nat) (s : State) (q : Req) : State :=
  let a := s.performAtomic r q.key q.size q.kind (q.data.setWidth 64) q.cmp q.pts (q.src.rank, some q.src.ctx)
  match a.2.1 with
  | .ok old => a.1.respond q { q.resp with data := old.setWidth 512, wts := a.2.2.time, known := if q.posted then [] else a.2.2.known }
  | .error code =>
    if q.posted then (a.1.postFromHome r code q.src q.key).respond q q.resp
    else a.1.respond q { q.resp with bad := some code }

/-- A line read or renewal: the line's 64 bytes with its times and a lease of the requester's LEN (R284). A line with a
poisoned word is not held in a cache portion: its bytes are answered as a plain read (R373). -/
def serveLine (r : Nat) (s : State) (q : Req) : State :=
  let e := s.readSeen (lineOf q.key) 64
  let s := e.1
  if s.poisoned (lineOf q.key) 64 then
    serveRead r s { q with kind := .read }
  else
    let st := s.stampRead r q.key q.pts.time ((s.tile q.src.rank).lease.setWidth 64)
    st.1.respond q { q.resp with
      data := e.2.read 512 (lineOf q.key) 64, wts := st.2.1, rts := st.2.2, marks := marksOf s.marks (lineOf q.key) 64, met := s.metAt q }

/-- READ (R325). -/
def execRead (r n : Nat) (s : State) : Out := serve r n (fun k => k == .read) (serveRead r) s
/-- WRITE (R325). -/
def execWrite (r n : Nat) (s : State) : Out := serve r n (fun k => k == .write) (serveWrite r) s
/-- AMO (R325). -/
def execAmo (r n : Nat) (s : State) : Out :=
  serve r n (fun k => match k with | .amo _ => true | _ => false) (serveAtomic r) s
/-- AMO8 (R325). -/
def execAmo8 (r n : Nat) (s : State) : Out :=
  serve r n (fun k => match k with | .amo8 _ => true | _ => false) (serveAtomic r) s
/-- CAS8 (R325). -/
def execCas8 (r n : Nat) (s : State) : Out := serve r n (fun k => k == .cas8) (serveAtomic r) s
/-- LINE (R284, R325). -/
def execLine (r n : Nat) (s : State) : Out := serve r n (fun k => k == .line) (serveLine r) s
/-- RENEW (R284, R325). -/
def execRenew (r n : Nat) (s : State) : Out := serve r n (fun k => k == .renew) (serveLine r) s
/-- CREAD (R258, R325). -/
def execCread (r n : Nat) (s : State) : Out := serve r n (fun k => k == .cread) (serveRead r) s
/-- CWRITE (R258, R325). -/
def execCwrite (r n : Nat) (s : State) : Out := serve r n (fun k => k == .cwrite) (serveWrite r) s
/-- CAMO (R258, R325). -/
def execCamo (r n : Nat) (s : State) : Out :=
  serve r n (fun k => match k with | .camo _ => true | _ => false) (serveAtomic r) s

/-! ## Responses (R282) -/

/-- A read's or returning atomic's response at its context: the result joins those there are; a line enters the cache
portion (R274). A read that found its handle published meanwhile is to be sent anew. -/
def Tile.takeResult (t : Tile) (p : Resp) : Tile :=
  let c := t.ctx p.ctx
  match c.xact with
  | none => t
  | some x =>
    if !x.sent || x.tag != p.tag then t
    else
      if p.again then t.setCtx p.ctx { c with xact := some { x with sent := false } }
      else
      match p.bad with
      | some code => t.setCtx p.ctx { c with xact := some { x with todo := [], sent := false, bad := some code } }
      | none =>
        let isLine := match p.kind with
          | .line | .renew => true
          | _ => false
        let key := (x.todo.head?.map (·.key)).getD p.key
        let size := (x.todo.head?.map (·.size)).getD 0
        let data := if isLine then ((p.data >>> (8 * (key % 64))).setWidth (8 * size)).setWidth 128 else p.data.setWidth 128
        let met : Time := Time.join p.met ⟨p.wts, unionNat p.known (knownOf (marksOf p.marks key size))⟩
        let t := t.setCtx p.ctx { c.meet met with
          xact := some { x with todo := x.todo.tail, sent := false, done := x.done ++ [data] } }
        if isLine then
          let line : CacheLine := { key := lineOf key, data := p.data, wts := p.wts, rts := p.rts, marks := p.marks }
          { t with lines := (line :: t.lines.filter fun l => l.key != lineOf key).take (1024 * t.cache.toNat) }
        else t

/-- MEMORY_RESPONSE: response `n` of a tile, when it is for the context, arrives; a store's lets the next piece go, a posted
atomic's ends its tracking, a read's lets the stalled group proceed (R282, R303). -/
def execMemoryResponse (r : Nat) (c : CtxId) (n : Nat) (s : State) : Out :=
  match (s.tile r).resps[n]? with
  | none => .next s
  | some p =>
    event s (p.ctx == c && (s.tile r).clocked) fun s =>
      let s := s.modTile r fun t => { t with resps := t.resps.eraseIdx n }
      let x := (s.tile r).ctx c
      if p.posted then
        s.modCtx r c fun x => { x.meetTime p.wts with posted := x.posted.eraseP fun e => e.1 == p.key / 8 }
      else
        match x.storing with
        | st :: rest =>
          if st.piece.home.isSome ∧ st.tag = p.tag then (s.modCtx r c fun x => x.meetTime p.wts).advanceStore r c rest
          else s.modTile r fun t => t.takeResult p
        | [] =>
          let s := s.modTile r fun t => t.takeResult p
          if ((s.tile r).ctx c).waiting then s.next [.group r c] else s

end Sys2Proof.Machine
end

