-- ==== Sys2Proof/WellFormed.lean ====
section
/-! DEFINITION. When an instruction has words: the operand values that the encodings of R34 to R52 and R178 admit. -/

namespace Sys2Proof

/-- EXT words that fit beside the other prefixes of a group: four prefixes in all (R42), of which `pageWords` go to PAGE
and one to REGX when some register number needs its high bits (R38). -/
def extRoom (pageWords : Nat) (regs : List Nat) : Nat :=
  4 - pageWords - (if regs.any (fun r => 8 ≤ r) then 1 else 0)

/-- `imm` is the sign extension of its low `w` bits. -/
def fitsSigned (w : Nat) (imm : BitVec 64) : Bool :=
  (imm.setWidth w).signExtend 64 == imm

/-- A signed immediate with `hb` base bits fits some number of EXT words from `lo` to `hi` (R43, R44). -/
def immFits (hb lo hi : Nat) (imm : BitVec 64) : Bool :=
  (List.range (hi + 1)).any fun n => lo ≤ n && fitsSigned (hb + 11 * n) imm

/-- An NM offset fits: zero-extended in the two base bits, or sign-extended with at least one EXT word (R43). -/
def offsetFits (room : Nat) (imm : BitVec 64) : Bool :=
  imm.toNat < 4 || immFits 2 1 room imm

/-- The instruction has an encoding. An event (an action of another agent) has none. -/
def Instr.wf : Instr → Bool

  | .mov _ _ => true
  | .not _ _ => true
  | .neg _ _ => true
  | .abs _ _ => true
  | .clz _ _ => true
  | .ctz _ _ => true
  | .popc _ _ => true
  | .brev _ _ => true
  | .sexb _ _ => true
  | .sexh _ _ => true
  | .zexb _ _ => true
  | .zexh _ _ => true
  | .glo _ _ => true
  | .ghi _ _ => true
  | .alo _ _ => true
  | .ahi _ _ => true
  | .add _ _ _ => true
  | .sub _ _ _ => true
  | .and _ _ _ => true
  | .or _ _ _ => true
  | .xor _ _ _ => true
  | .sll _ _ _ => true
  | .srl _ _ _ => true
  | .sra _ _ _ => true
  | .mul _ _ _ => true
  | .mulh _ _ _ => true
  | .mulhu _ _ _ => true
  | .ror _ _ _ => true
  | .div _ _ _ => true
  | .divu _ _ _ => true
  | .rem _ _ _ => true
  | .remu _ _ _ => true
  | .slt _ _ _ => true
  | .sltu _ _ _ => true
  | .seq _ _ _ => true
  | .sne _ _ _ => true
  | .min _ _ _ => true
  | .max _ _ _ => true
  | .minu _ _ _ => true
  | .maxu _ _ _ => true
  | .addi d imm => immFits 8 0 (extRoom 0 [d.toNat]) imm
  | .li d imm => immFits 8 0 (extRoom 0 [d.toNat]) imm
  | .andi d imm => immFits 8 0 (extRoom 0 [d.toNat]) imm
  | .ori d imm => immFits 8 0 (extRoom 0 [d.toNat]) imm
  | .xori d imm => immFits 8 0 (extRoom 0 [d.toNat]) imm
  | .slli _ _ => true
  | .srli _ _ => true
  | .srai _ _ => true
  | .rori _ _ => true
  | .beqz x imm => immFits 5 0 (extRoom 0 [x.toNat]) imm
  | .bnez x imm => immFits 5 0 (extRoom 0 [x.toNat]) imm
  | .bltz x imm => immFits 5 0 (extRoom 0 [x.toNat]) imm
  | .bgez x imm => immFits 5 0 (extRoom 0 [x.toNat]) imm
  | .bgtz x imm => immFits 5 0 (extRoom 0 [x.toNat]) imm
  | .blez x imm => immFits 5 0 (extRoom 0 [x.toNat]) imm
  | .beq x y imm => immFits 0 1 (extRoom 0 [x.toNat, y.toNat]) imm
  | .bne x y imm => immFits 0 1 (extRoom 0 [x.toNat, y.toNat]) imm
  | .blt x y imm => immFits 0 1 (extRoom 0 [x.toNat, y.toNat]) imm
  | .bge x y imm => immFits 0 1 (extRoom 0 [x.toNat, y.toNat]) imm
  | .bltu x y imm => immFits 0 1 (extRoom 0 [x.toNat, y.toNat]) imm
  | .bgeu x y imm => immFits 0 1 (extRoom 0 [x.toNat, y.toNat]) imm
  | .j imm => immFits 11 0 (extRoom 0 []) imm
  | .jal imm => immFits 11 0 (extRoom 0 []) imm
  | .jr _ => true
  | .jalr _ _ => true
  | .ret => true
  | .hend => true
  | .halt => true
  | .nop => true
  | .brk => true
  | .loop _ len => len != 0
  | .ldb d _ imm => offsetFits (extRoom 0 [d.toNat]) imm
  | .ldbu d _ imm => offsetFits (extRoom 0 [d.toNat]) imm
  | .ldh d _ imm => offsetFits (extRoom 0 [d.toNat]) imm
  | .ldhu d _ imm => offsetFits (extRoom 0 [d.toNat]) imm
  | .ldw d _ imm => offsetFits (extRoom 0 [d.toNat]) imm
  | .lda _ _ imm => offsetFits (extRoom 0 []) imm
  | .stb d _ imm => offsetFits (extRoom 0 [d.toNat]) imm
  | .sth d _ imm => offsetFits (extRoom 0 [d.toNat]) imm
  | .stw d _ imm => offsetFits (extRoom 0 [d.toNat]) imm
  | .sta _ _ imm => offsetFits (extRoom 0 []) imm
  | .aadd _ _ _ => true
  | .aadds _ _ _ => true
  | .asub _ _ _ => true
  | .aeq _ _ _ => true
  | .aaddi _ imm => immFits 8 0 (extRoom 0 []) imm
  | .spt _ _ => true
  | .spcg _ _ => true
  | .spcb _ _ => true
  | .spcc _ _ => true
  | .spcs _ _ => true
  | .spcl _ _ => true
  | .mks _ _ => true
  | .mkc _ _ => true
  | .mkl _ _ => true
  | .amov _ _ => true
  | .azero _ => true
  | .fadd _ _ _ => true
  | .fsub _ _ _ => true
  | .fmul _ _ _ => true
  | .ffma _ _ _ => true
  | .fmin _ _ _ => true
  | .fmax _ _ _ => true
  | .fdiv _ _ _ => true
  | .feq _ _ _ => true
  | .flt _ _ _ => true
  | .fle _ _ _ => true
  | .fun _ _ _ => true
  | .fsgn _ _ _ => true
  | .fsqrt _ _ => true
  | .fabs _ _ => true
  | .fneg _ _ => true
  | .fclass _ _ => true
  | .fcvtws _ _ => true
  | .fcvtus _ _ => true
  | .fcvtsw _ _ => true
  | .fcvtsu _ _ => true
  | .fcvtbs _ _ => true
  | .fcvtsb _ _ => true
  | .fexp2 _ _ => true
  | .flog2 _ _ => true
  | .frcp _ _ => true
  | .frsq _ _ => true
  | .vadd t _ _ _ _ => [.f32, .bf16, .i32, .i16, .i8, .u32].contains t
  | .vsub t _ _ _ _ => [.f32, .bf16, .i32, .i16, .i8, .u32].contains t
  | .vmul t _ _ _ _ => [.f32, .bf16, .i32, .i16, .i8, .u32].contains t
  | .vfma t _ _ _ _ => [.f32, .bf16, .i32, .i16, .i8, .u32].contains t
  | .vmin t _ _ _ _ => [.f32, .bf16, .i32, .i16, .i8, .u32].contains t
  | .vmax t _ _ _ _ => [.f32, .bf16, .i32, .i16, .i8, .u32].contains t
  | .vdiv t _ _ _ _ => [.f32, .bf16].contains t
  | .vabd t _ _ _ _ => [.f32, .bf16, .i32, .i16, .i8, .u32].contains t
  | .vand _ _ _ _ => true
  | .vor _ _ _ _ => true
  | .vxor _ _ _ _ => true
  | .vandn _ _ _ _ => true
  | .vshl t _ _ _ _ => [.i32, .i16, .i8, .u32].contains t
  | .vshr t _ _ _ _ => [.i32, .i16, .i8, .u32].contains t
  | .vsra t _ _ _ _ => [.i32, .i16, .i8].contains t
  | .vmulh t _ _ _ _ => [.i32, .i16, .i8, .u32].contains t
  | .vceq t _ _ _ _ => [.f32, .i32, .u32].contains t
  | .vclt t _ _ _ _ => [.f32, .i32, .u32].contains t
  | .vcle t _ _ _ _ => [.f32, .i32, .u32].contains t
  | .vcne t _ _ _ _ => [.f32, .i32, .u32].contains t
  | .vsel _ _ _ _ => true
  | .vperm _ _ _ _ => true
  | .vseg t _ _ _ n => [.f32, .bf16, .i32, .i16, .i8, .u32].contains t && n.toNat ≤ 4
  | .vrot _ _ _ _ => true
  | .vmov _ _ _ => true
  | .vneg t _ _ _ => [.f32, .bf16, .i32, .i16, .i8].contains t
  | .vabs t _ _ _ => [.f32, .bf16, .i32, .i16, .i8].contains t
  | .vrcp t _ _ _ => [.f32, .bf16].contains t
  | .vrsq t _ _ _ => [.f32, .bf16].contains t
  | .vsqrt t _ _ _ => [.f32, .bf16].contains t
  | .vexp2 t _ _ _ => [.f32, .bf16].contains t
  | .vlog2 t _ _ _ => [.f32, .bf16].contains t
  | .vexp t _ _ _ => [.f32, .bf16].contains t
  | .vlog t _ _ _ => [.f32, .bf16].contains t
  | .vtanh t _ _ _ => [.f32, .bf16].contains t
  | .vsig t _ _ _ => [.f32, .bf16].contains t
  | .vsin t _ _ _ => [.f32, .bf16].contains t
  | .vcos t _ _ _ => [.f32, .bf16].contains t
  | .vflr t _ _ _ => [.f32, .bf16].contains t
  | .vrnd t _ _ _ => [.f32, .bf16].contains t
  | .vcvt s t _ _ _ => s != t
  | .vpk4 t _ _ => [.f32, .bf16].contains t
  | .vup4 t _ _ => [.f32, .bf16].contains t
  | .vpkm t _ _ => [.f32, .bf16].contains t
  | .vupm t _ _ => [.f32, .bf16].contains t
  | .vsrb _ _ _ => true
  | .vbc _ _ _ _ => true
  | .vins _ _ _ _ => true
  | .vext _ _ _ => true
  | .viota t _ _ => [.i32, .i16, .i8, .u32].contains t
  | .vzip _ _ _ _ => true
  | .vuzp _ _ _ _ => true
  | .vld _ d _ imm => offsetFits (extRoom 1 [d.toNat]) imm
  | .vldh _ d _ imm => offsetFits (extRoom 1 [d.toNat]) imm
  | .vlds _ _ d _ imm => offsetFits (extRoom 1 [d.toNat]) imm
  | .vgat t _ d _ imm => [.f32, .i32, .u32].contains t && offsetFits (extRoom 1 [d.toNat]) imm
  | .vldl t _ d _ imm => [.f32, .i32, .u32].contains t && offsetFits (extRoom 1 [d.toNat]) imm
  | .vldb _ _ d _ imm => offsetFits (extRoom 1 [d.toNat]) imm
  | .vst _ d _ imm => offsetFits (extRoom 1 [d.toNat]) imm
  | .vsth _ d _ imm => offsetFits (extRoom 1 [d.toNat]) imm
  | .vsts _ _ d _ imm => offsetFits (extRoom 1 [d.toNat]) imm
  | .vsct t _ d _ imm => [.f32, .i32, .u32].contains t && d != 31 && offsetFits (extRoom 1 [d.toNat]) imm
  | .vstl t _ d _ imm => [.f32, .i32, .u32].contains t && offsetFits (extRoom 1 [d.toNat]) imm
  | .pand _ _ => true
  | .por _ _ => true
  | .pxor _ _ => true
  | .pnot _ _ => true
  | .pcnt _ _ => true
  | .pfst _ _ => true
  | .plt _ _ => true
  | .pmov _ _ => true
  | .vli _ _ d imm => immFits 8 0 (extRoom 1 [d.toNat]) imm
  | .mma _ _ _ _ _ _ => true
  | .mmag _ _ _ _ _ _ => true
  | .msh _ _ => true
  | .mfmt _ _ => true
  | .mzero _ => true
  | .mwait _ => true
  | .mstat _ => true
  | .mtov _ _ _ => true
  | .vtom _ _ _ => true
  | .mst _ d _ imm => offsetFits (extRoom 1 [d.toNat]) imm
  | .mld _ d _ imm => offsetFits (extRoom 1 [d.toNat]) imm
  | .skinit _ _ _ => true
  | .skseed _ _ => true
  | .skclr _ => true
  | .skcpy _ _ => true
  | .skmrg _ _ => true
  | .skadd _ _ _ _ => true
  | .skq _ _ _ _ => true
  | .skr _ _ _ _ => true
  | .skhh _ _ _ _ => true
  | .skhc _ _ _ => true
  | .skcnt _ _ => true
  | .skcnh _ _ => true
  | .skdc t _ _ => [.f32, .u32].contains t
  | .skmin _ _ _ => true
  | .skmax _ _ _ => true
  | .skmean t _ _ => [.f32, .bf16].contains t
  | .skvar t _ _ => [.f32, .bf16].contains t
  | .sksum t _ _ => [.f32, .bf16].contains t
  | .sklse t _ _ => [.f32, .bf16].contains t
  | .sknan _ _ => true
  | .skld _ _ imm => offsetFits (extRoom 1 []) imm
  | .skst _ _ imm => offsetFits (extRoom 1 []) imm
  | .skldh _ _ imm => offsetFits (extRoom 1 []) imm
  | .recv _ _ => true
  | .peek _ _ => true
  | .qcnt _ _ => true
  | .qfree _ _ => true
  | .qtag _ _ => true
  | .qmark _ _ => true
  | .drop _ => true
  | .vrecv _ _ => true
  | .recva _ _ => true
  | .send _ _ _ => true
  | .senda _ _ => true
  | .vsend _ _ => true
  | .sendm _ _ => true
  | .semw _ _ => true
  | .sems _ _ => true
  | .semt _ _ => true
  | .bara _ _ => true
  | .barw _ _ => true
  | .bars _ _ _ => true
  | .barq _ _ => true
  | .fence _ => true
  | .pub _ _ _ => true
  | .pubw _ _ _ => true
  | .trig _ _ => true
  | .cinv _ => true
  | .ccln _ => true
  | .cfls => true
  | .tlbp _ _ => true
  | .amoadd _ _ _ _ => true
  | .amoand _ _ _ _ => true
  | .amoor _ _ _ _ => true
  | .amoxor _ _ _ _ => true
  | .amomin _ _ _ _ => true
  | .amomax _ _ _ _ => true
  | .amominu _ _ _ _ => true
  | .amomaxu _ _ _ _ => true
  | .amoswp _ _ _ _ => true
  | .amocas _ _ _ _ => true
  | .amofadd _ _ _ _ => true
  | .amofmax _ _ _ _ => true
  | .cpy _ _ _ => true
  | .cpyr _ _ _ => true
  | .cpyw _ => true
  | .cpys _ _ => true
  | .cpyxResume _ => true
  | .cpyxCancel _ => true
  | .cpyxFlush _ => true
  | .ringb _ _ => true
  | .ringq _ _ => true
  | .amsg _ _ _ => true
  | .mrpl _ => true
  | .mhend _ => true
  | .colset _ _ _ => true
  | .colfr _ => true
  | .colw _ _ => true
  | .cols _ _ => true
  | .tick _ => true
  | .cyc _ => true
  | .waitt _ => true
  | .waitc _ => true
  | .trap _ _ => true
  | .mfk _ _ => true
  | .mtk _ _ => true
  | .eret => true
  | .idle _ => true
  | .tlbi _ => true
  | .tlba => true
  | .ctxs => true
  | .ctxl => true
  | .tqp _ => true
  | .ltrcRead _ _ => true
  | .ltrcClearWindow _ _ => true
  | .ltrcClearSuspect _ _ => true
  | .strk _ => true
  | .illegalInstruction _ _ _ _ => false
  | .waitAtKResume _ _ => false
  | .amodeWrite _ _ _ => false
  | .srseedWrite _ _ _ => false
  | .counterClear _ _ _ _ => false
  | .ltrlimLtrwinWrite _ _ _ => false
  | .marginWrite _ _ => false
  | .logStatusRead _ _ _ _ => false
  | .registerWrite _ _ _ _ => false
  | .lateTransition _ _ _ => false
  | .escalationWindowEnd _ => false
  | .marginStepSettle _ => false
  | .handlerWatchdog _ _ => false
  | .handlerDispatch _ _ => false
  | .channelWordTransfer _ => false
  | .memoryResponse _ _ _ => false
  | .read _ _ => false
  | .write _ _ => false
  | .amo _ _ => false
  | .amo8 _ _ => false
  | .cas8 _ _ => false
  | .line _ _ => false
  | .renew _ _ => false
  | .cread _ _ => false
  | .cwrite _ _ => false
  | .camo _ _ => false
  | .barr _ _ => false
  | .comb _ _ _ => false
  | .routerCombine _ _ _ => false
  | .cdone _ _ => false
  | .automaticPub _ _ => false
  | .colsetRequest _ => false
  | .planKillNotice _ _ => false
  | .userMessageStart _ _ => false
  | .messageReply _ _ => false
  | .messageNack _ _ => false
  | .matrixCommandComplete _ => false
  | .copyElement _ => false
  | .copyCommandComplete _ => false
  | .cpyrSlotTake _ => false
  | .copyFaultTrap _ => false
  | .lightsOutSweep _ => false
  | .launch _ _ => false
  | .join _ _ => false
  | .spliceInherit _ _ => false
  | .spliceNoInherit _ _ => false
  | .ingressToken _ _ => false
  | .ingressQueueErrClear _ _ => false
  | .placement => false
  | .loadAcknowledge _ => false
  | .pitchStart _ => false
  | .translationPreloadTimeout _ => false
  | .hostKillRequest _ => false
  | .preemptDispatchStop _ => false
  | .preemptFiringTimeout _ _ => false
  | .preemptResume _ => false
  | .spliceSwitch _ => false
  | .spliceSuccessorStart _ => false
  | .egressRingWrite _ _ => false
  | .egressAtomicop _ _ => false
  | .atomicopCompletion _ _ _ _ => false
  | .tsetWrite _ => false
  | .topoWrite _ => false
  | .topologySwitch => false
  | .staleCounterRead _ => false
  | .attestationRequest _ => false
  | .attestationReportReady => false
  | .speoshPacketReceive _ _ => false
  | .speoshBeacon _ => false
  | .lightDetected _ => false
  | .trainLock _ => false
  | .trainTimeout _ => false
  | .calibration _ _ _ => false
  | .crcFailureBurst _ => false
  | .retrainLock _ => false
  | .retrainTimeout _ => false
  | .flitReplay _ => false
  | .meshBeacon _ _ => false
  | .meshLinkTimeout _ _ => false
  | .routerTimeout _ => false
  | .fieldManagerTimeout _ => false
  | .speoshLinkTimeout _ => false
  | .moduleTimeout _ => false
  | .podMemberTimeout _ => false
  | .clockSourceLoss _ => false
  | .clockRealigned _ => false
  | .tickEdge _ => false
  | .temperatureRefresh => false
  | .throttleWindowEnd _ _ => false
  | .scrub _ _ => false
  | .poleGranuleTransfer _ _ => false
  | .eccWriteback _ _ _ => false
  | .rowRemap _ _ _ => false
  | .rowRemapDone _ _ => false
  | .secondTierTimeout _ _ => false
  | .translationWalk _ _ => false
  | .tqpAnswer _ _ _ => false
  | .trapQueuePost _ => false
  | .trapQueueRemove _ => false
  | .strikeTile _ => false
  | .fieldDerate _ _ => false
  | .moduleReset _ _ _ => false
  | .serviceProcessorFailover => false
  | .imageFetched _ _ => false
  | .resolutionAnswer _ _ => false
  | .powerDown => false
  | .secondTierLinkDown _ => false
  | .outOfTime _ => false
  | .holdAsserted _ => false
  | .routeBankWrite _ _ _ => false

end Sys2Proof
end

