-- ==== Sys2Proof/Decode.lean ====
section
/-! DEFINITION. The decoder: the words of a group to an instruction or a named defect (R17, R34 to R54), and after it the
encoder, written from the same rows. -/

namespace Sys2Proof

/-- The base-word formats (R34). `nis`, `nim` and `nl` are the NI forms of the shift immediates (a kind in [7:5]), of the
semaphores ([7:5] zero) and of LOOP (length not 0) (R35). -/
inductive Fmt where
  | n2 | n3 | ni | nis | nim | nl | nj | nb | nc | nm | nq | nx
  deriving DecidableEq, Repr

/-- What a d, x or y field of an instruction names (R34, R35). `absent`: nothing, so it is zero; `small`: a plain 3-bit
value; `segCode`: the group-size code of VSEG, at most 4 (R183); `vPair`: a v-register with a successor (VSCT, R192). -/
inductive FieldKind where
  | absent | g | v | vPair | a | p | h | q | o | b | small | segCode
  deriving DecidableEq, Repr

/-- The field takes the high bits of a REGX prefix (R38). -/
def FieldKind.extends : FieldKind → Bool
  | .g | .v | .vPair => true
  | _ => false

/-- What an instruction does with EXT words (R44): none; 0 to 4, signed, after `hb` base bits; an NM offset; the 1 to 4
words of an NC target; the one lane word of VINS and VEXT; the number of a k-register; the tag of SEND. -/
inductive ExtRule where
  | never | signed (hb : Nat) | offset | target | lane | kreg | tag
  deriving DecidableEq, Repr

/-- The most EXT words the rule admits (R44). -/
def ExtRule.most : ExtRule → Nat
  | .never => 0
  | .signed _ | .offset | .target => 4
  | .lane | .kreg | .tag => 1

/-- The fewest EXT words the rule demands (R44). -/
def ExtRule.fewest : ExtRule → Nat
  | .target | .lane => 1
  | _ => 0

/-- The values an EXT word may carry under the rule: below this bound (R44). -/
def ExtRule.bound : ExtRule → Nat
  | .lane => 32
  | .kreg => 4
  | .tag => 8
  | _ => 2048

/-- Immediate bits in the base word (R43, R44). -/
def ExtRule.baseBits : ExtRule → Nat
  | .signed hb => hb
  | .offset => 2
  | .kreg => 8
  | .tag => 5
  | .never | .target | .lane => 0

/-- The operand fields of a group after prefix assembly. -/
structure Opnds where
  d : BitVec 6 := 0
  x : BitVec 6 := 0
  y : BitVec 6 := 0
  imm : BitVec 64 := 0
  ty : EType := .f32
  pr : PReg := 0
  sc : Scope := .lane
  z : ZReg := 0
  acc : Bool := false
  bsrc : Bool := false
  chk : Bool := false
  deriving DecidableEq, Repr

/-- One row of the opcode map (R46 to R51): where it sits, its format, what its fields name, which prefixes it consumes,
the element types it accepts (empty: type-free) and whether it reads a governing predicate. -/
structure Row where
  page : Nat
  major : Nat
  minor : Nat
  fmt : Fmt
  d : FieldKind
  x : FieldKind
  y : FieldKind
  ext : ExtRule
  scope : Option Scope
  types : List EType
  pred : Bool
  deriving DecidableEq, Repr

/-- The place of a row in the opcode map. -/
structure RowKey where
  page : Nat
  major : Nat
  minor : Nat
  deriving DecidableEq, Repr

/-- The row sits at the place. -/
def Row.isAt (r : Row) (k : RowKey) : Bool :=
  r.page == k.page && r.major == k.major && r.minor == k.minor


/-- Page 0, major 0. -/
def rowsP0M0 : List Row := [
  ⟨0, 0, 0, .n2, .g, .g, .absent, .never, none, [], false⟩,
  ⟨0, 0, 1, .n2, .g, .g, .absent, .never, none, [], false⟩,
  ⟨0, 0, 2, .n2, .g, .g, .absent, .never, none, [], false⟩,
  ⟨0, 0, 3, .n2, .g, .g, .absent, .never, none, [], false⟩,
  ⟨0, 0, 4, .n2, .g, .g, .absent, .never, none, [], false⟩,
  ⟨0, 0, 5, .n2, .g, .g, .absent, .never, none, [], false⟩,
  ⟨0, 0, 6, .n2, .g, .g, .absent, .never, none, [], false⟩,
  ⟨0, 0, 7, .n2, .g, .g, .absent, .never, none, [], false⟩,
  ⟨0, 0, 8, .n2, .g, .g, .absent, .never, none, [], false⟩,
  ⟨0, 0, 9, .n2, .g, .g, .absent, .never, none, [], false⟩,
  ⟨0, 0, 10, .n2, .g, .g, .absent, .never, none, [], false⟩,
  ⟨0, 0, 11, .n2, .g, .g, .absent, .never, none, [], false⟩,
  ⟨0, 0, 12, .n2, .g, .a, .absent, .never, none, [], false⟩,
  ⟨0, 0, 13, .n2, .g, .a, .absent, .never, none, [], false⟩,
  ⟨0, 0, 14, .n2, .a, .g, .absent, .never, none, [], false⟩,
  ⟨0, 0, 15, .n2, .a, .g, .absent, .never, none, [], false⟩]

/-- Page 0, major 1. -/
def rowsP0M1 : List Row := [
  ⟨0, 1, 0, .n3, .g, .g, .g, .never, none, [], false⟩,
  ⟨0, 1, 1, .n3, .g, .g, .g, .never, none, [], false⟩,
  ⟨0, 1, 2, .n3, .g, .g, .g, .never, none, [], false⟩,
  ⟨0, 1, 3, .n3, .g, .g, .g, .never, none, [], false⟩]

/-- Page 0, major 2. -/
def rowsP0M2 : List Row := [
  ⟨0, 2, 0, .n3, .g, .g, .g, .never, none, [], false⟩,
  ⟨0, 2, 1, .n3, .g, .g, .g, .never, none, [], false⟩,
  ⟨0, 2, 2, .n3, .g, .g, .g, .never, none, [], false⟩,
  ⟨0, 2, 3, .n3, .g, .g, .g, .never, none, [], false⟩]

/-- Page 0, major 3. -/
def rowsP0M3 : List Row := [
  ⟨0, 3, 0, .n3, .g, .g, .g, .never, none, [], false⟩,
  ⟨0, 3, 1, .n3, .g, .g, .g, .never, none, [], false⟩,
  ⟨0, 3, 2, .n3, .g, .g, .g, .never, none, [], false⟩,
  ⟨0, 3, 3, .n3, .g, .g, .g, .never, none, [], false⟩]

/-- Page 0, major 4. -/
def rowsP0M4 : List Row := [
  ⟨0, 4, 0, .n3, .g, .g, .g, .never, none, [], false⟩,
  ⟨0, 4, 1, .n3, .g, .g, .g, .never, none, [], false⟩,
  ⟨0, 4, 2, .n3, .g, .g, .g, .never, none, [], false⟩,
  ⟨0, 4, 3, .n3, .g, .g, .g, .never, none, [], false⟩]

/-- Page 0, major 5. -/
def rowsP0M5 : List Row := [
  ⟨0, 5, 0, .n3, .g, .g, .g, .never, none, [], false⟩,
  ⟨0, 5, 1, .n3, .g, .g, .g, .never, none, [], false⟩,
  ⟨0, 5, 2, .n3, .g, .g, .g, .never, none, [], false⟩,
  ⟨0, 5, 3, .n3, .g, .g, .g, .never, none, [], false⟩]

/-- Page 0, major 6. -/
def rowsP0M6 : List Row := [
  ⟨0, 6, 0, .n3, .g, .g, .g, .never, none, [], false⟩,
  ⟨0, 6, 1, .n3, .g, .g, .g, .never, none, [], false⟩,
  ⟨0, 6, 2, .n3, .g, .g, .g, .never, none, [], false⟩,
  ⟨0, 6, 3, .n3, .g, .g, .g, .never, none, [], false⟩]

/-- Page 0, major 7. -/
def rowsP0M7 : List Row := [
  ⟨0, 7, 0, .ni, .g, .absent, .absent, .signed 8, none, [], false⟩]

/-- Page 0, major 8. -/
def rowsP0M8 : List Row := [
  ⟨0, 8, 0, .ni, .g, .absent, .absent, .signed 8, none, [], false⟩]

/-- Page 0, major 9. -/
def rowsP0M9 : List Row := [
  ⟨0, 9, 0, .ni, .g, .absent, .absent, .signed 8, none, [], false⟩]

/-- Page 0, major 10. -/
def rowsP0M10 : List Row := [
  ⟨0, 10, 0, .ni, .g, .absent, .absent, .signed 8, none, [], false⟩]

/-- Page 0, major 11. -/
def rowsP0M11 : List Row := [
  ⟨0, 11, 0, .ni, .g, .absent, .absent, .signed 8, none, [], false⟩]

/-- Page 0, major 12. -/
def rowsP0M12 : List Row := [
  ⟨0, 12, 0, .nis, .g, .absent, .absent, .never, none, [], false⟩,
  ⟨0, 12, 1, .nis, .g, .absent, .absent, .never, none, [], false⟩,
  ⟨0, 12, 2, .nis, .g, .absent, .absent, .never, none, [], false⟩,
  ⟨0, 12, 3, .nis, .g, .absent, .absent, .never, none, [], false⟩]

/-- Page 0, major 13. -/
def rowsP0M13 : List Row := [
  ⟨0, 13, 0, .nb, .absent, .g, .absent, .signed 5, none, [], false⟩,
  ⟨0, 13, 1, .nb, .absent, .g, .absent, .signed 5, none, [], false⟩,
  ⟨0, 13, 2, .nb, .absent, .g, .absent, .signed 5, none, [], false⟩,
  ⟨0, 13, 3, .nb, .absent, .g, .absent, .signed 5, none, [], false⟩,
  ⟨0, 13, 4, .nb, .absent, .g, .absent, .signed 5, none, [], false⟩,
  ⟨0, 13, 5, .nb, .absent, .g, .absent, .signed 5, none, [], false⟩]

/-- Page 0, major 14. -/
def rowsP0M14 : List Row := [
  ⟨0, 14, 0, .nc, .absent, .g, .g, .target, none, [], false⟩,
  ⟨0, 14, 1, .nc, .absent, .g, .g, .target, none, [], false⟩,
  ⟨0, 14, 2, .nc, .absent, .g, .g, .target, none, [], false⟩,
  ⟨0, 14, 3, .nc, .absent, .g, .g, .target, none, [], false⟩,
  ⟨0, 14, 4, .nc, .absent, .g, .g, .target, none, [], false⟩,
  ⟨0, 14, 5, .nc, .absent, .g, .g, .target, none, [], false⟩]

/-- Page 0, major 15. -/
def rowsP0M15 : List Row := [
  ⟨0, 15, 0, .nj, .absent, .absent, .absent, .signed 11, none, [], false⟩]

/-- Page 0, major 16. -/
def rowsP0M16 : List Row := [
  ⟨0, 16, 0, .nj, .absent, .absent, .absent, .signed 11, none, [], false⟩]

/-- Page 0, major 17. -/
def rowsP0M17 : List Row := [
  ⟨0, 17, 0, .n2, .absent, .g, .absent, .never, none, [], false⟩,
  ⟨0, 17, 1, .n2, .g, .g, .absent, .never, none, [], false⟩,
  ⟨0, 17, 2, .n2, .absent, .absent, .absent, .never, none, [], false⟩,
  ⟨0, 17, 3, .n2, .absent, .absent, .absent, .never, none, [], false⟩,
  ⟨0, 17, 4, .n2, .absent, .absent, .absent, .never, none, [], false⟩,
  ⟨0, 17, 5, .n2, .absent, .absent, .absent, .never, none, [], false⟩,
  ⟨0, 17, 6, .n2, .absent, .absent, .absent, .never, none, [], false⟩]

/-- Page 0, major 18. -/
def rowsP0M18 : List Row := [
  ⟨0, 18, 0, .nl, .g, .absent, .absent, .never, none, [], false⟩]

/-- Page 0, major 19. -/
def rowsP0M19 : List Row := [
  ⟨0, 19, 0, .nm, .g, .a, .absent, .offset, none, [], false⟩,
  ⟨0, 19, 1, .nm, .g, .a, .absent, .offset, none, [], false⟩,
  ⟨0, 19, 2, .nm, .g, .a, .absent, .offset, none, [], false⟩,
  ⟨0, 19, 3, .nm, .g, .a, .absent, .offset, none, [], false⟩,
  ⟨0, 19, 4, .nm, .g, .a, .absent, .offset, none, [], false⟩,
  ⟨0, 19, 5, .nm, .a, .a, .absent, .offset, none, [], false⟩]

/-- Page 0, major 20. -/
def rowsP0M20 : List Row := [
  ⟨0, 20, 0, .nm, .g, .a, .absent, .offset, none, [], false⟩,
  ⟨0, 20, 1, .nm, .g, .a, .absent, .offset, none, [], false⟩,
  ⟨0, 20, 2, .nm, .g, .a, .absent, .offset, none, [], false⟩,
  ⟨0, 20, 3, .nm, .a, .a, .absent, .offset, none, [], false⟩]

/-- Page 0, major 21. -/
def rowsP0M21 : List Row := [
  ⟨0, 21, 0, .n3, .a, .a, .g, .never, none, [], false⟩,
  ⟨0, 21, 1, .n3, .a, .a, .g, .never, none, [], false⟩,
  ⟨0, 21, 2, .n3, .g, .a, .a, .never, none, [], false⟩,
  ⟨0, 21, 3, .n3, .g, .a, .a, .never, none, [], false⟩]

/-- Page 0, major 22. -/
def rowsP0M22 : List Row := [
  ⟨0, 22, 0, .ni, .a, .absent, .absent, .signed 8, none, [], false⟩]

/-- Page 0, major 23. -/
def rowsP0M23 : List Row := [
  ⟨0, 23, 0, .n2, .g, .a, .absent, .never, none, [], false⟩,
  ⟨0, 23, 1, .n2, .a, .a, .absent, .never, none, [], false⟩,
  ⟨0, 23, 2, .n2, .a, .a, .absent, .never, none, [], false⟩,
  ⟨0, 23, 3, .n2, .a, .a, .absent, .never, none, [], false⟩,
  ⟨0, 23, 4, .n2, .a, .a, .absent, .never, none, [], false⟩,
  ⟨0, 23, 5, .n2, .a, .a, .absent, .never, none, [], false⟩,
  ⟨0, 23, 6, .n2, .a, .g, .absent, .never, none, [], false⟩,
  ⟨0, 23, 7, .n2, .a, .g, .absent, .never, none, [], false⟩,
  ⟨0, 23, 8, .n2, .a, .g, .absent, .never, none, [], false⟩,
  ⟨0, 23, 9, .n2, .a, .a, .absent, .never, none, [], false⟩,
  ⟨0, 23, 10, .n2, .a, .absent, .absent, .never, none, [], false⟩]

/-- Page 0, major 24. -/
def rowsP0M24 : List Row := [
  ⟨0, 24, 0, .n3, .g, .g, .g, .never, none, [], false⟩,
  ⟨0, 24, 1, .n3, .g, .g, .g, .never, none, [], false⟩,
  ⟨0, 24, 2, .n3, .g, .g, .g, .never, none, [], false⟩,
  ⟨0, 24, 3, .n3, .g, .g, .g, .never, none, [], false⟩]

/-- Page 0, major 25. -/
def rowsP0M25 : List Row := [
  ⟨0, 25, 0, .n3, .g, .g, .g, .never, none, [], false⟩,
  ⟨0, 25, 1, .n3, .g, .g, .g, .never, none, [], false⟩,
  ⟨0, 25, 2, .n3, .g, .g, .g, .never, none, [], false⟩,
  ⟨0, 25, 3, .n3, .g, .g, .g, .never, none, [], false⟩]

/-- Page 0, major 26. -/
def rowsP0M26 : List Row := [
  ⟨0, 26, 0, .n3, .g, .g, .g, .never, none, [], false⟩,
  ⟨0, 26, 1, .n3, .g, .g, .g, .never, none, [], false⟩,
  ⟨0, 26, 2, .n3, .g, .g, .g, .never, none, [], false⟩,
  ⟨0, 26, 3, .n3, .g, .g, .g, .never, none, [], false⟩]

/-- Page 0, major 27. -/
def rowsP0M27 : List Row := [
  ⟨0, 27, 0, .n2, .g, .g, .absent, .never, none, [], false⟩,
  ⟨0, 27, 1, .n2, .g, .g, .absent, .never, none, [], false⟩,
  ⟨0, 27, 2, .n2, .g, .g, .absent, .never, none, [], false⟩,
  ⟨0, 27, 3, .n2, .g, .g, .absent, .never, none, [], false⟩,
  ⟨0, 27, 4, .n2, .g, .g, .absent, .never, none, [], false⟩,
  ⟨0, 27, 5, .n2, .g, .g, .absent, .never, none, [], false⟩,
  ⟨0, 27, 6, .n2, .g, .g, .absent, .never, none, [], false⟩,
  ⟨0, 27, 7, .n2, .g, .g, .absent, .never, none, [], false⟩,
  ⟨0, 27, 8, .n2, .g, .g, .absent, .never, none, [], false⟩,
  ⟨0, 27, 9, .n2, .g, .g, .absent, .never, none, [], false⟩,
  ⟨0, 27, 10, .n2, .g, .g, .absent, .never, none, [], false⟩,
  ⟨0, 27, 11, .n2, .g, .g, .absent, .never, none, [], false⟩,
  ⟨0, 27, 12, .n2, .g, .g, .absent, .never, none, [], false⟩,
  ⟨0, 27, 13, .n2, .g, .g, .absent, .never, none, [], false⟩]

/-- Page 1, major 0. -/
def rowsP1M0 : List Row := [
  ⟨1, 0, 0, .n3, .v, .v, .v, .never, none, [.f32, .bf16, .i32, .i16, .i8, .u32], true⟩,
  ⟨1, 0, 1, .n3, .v, .v, .v, .never, none, [.f32, .bf16, .i32, .i16, .i8, .u32], true⟩,
  ⟨1, 0, 2, .n3, .v, .v, .v, .never, none, [.f32, .bf16, .i32, .i16, .i8, .u32], true⟩,
  ⟨1, 0, 3, .n3, .v, .v, .v, .never, none, [.f32, .bf16, .i32, .i16, .i8, .u32], true⟩]

/-- Page 1, major 1. -/
def rowsP1M1 : List Row := [
  ⟨1, 1, 0, .n3, .v, .v, .v, .never, none, [.f32, .bf16, .i32, .i16, .i8, .u32], true⟩,
  ⟨1, 1, 1, .n3, .v, .v, .v, .never, none, [.f32, .bf16, .i32, .i16, .i8, .u32], true⟩,
  ⟨1, 1, 2, .n3, .v, .v, .v, .never, none, [.f32, .bf16], true⟩,
  ⟨1, 1, 3, .n3, .v, .v, .v, .never, none, [.f32, .bf16, .i32, .i16, .i8, .u32], true⟩]

/-- Page 1, major 2. -/
def rowsP1M2 : List Row := [
  ⟨1, 2, 0, .n3, .v, .v, .v, .never, none, [], true⟩,
  ⟨1, 2, 1, .n3, .v, .v, .v, .never, none, [], true⟩,
  ⟨1, 2, 2, .n3, .v, .v, .v, .never, none, [], true⟩,
  ⟨1, 2, 3, .n3, .v, .v, .v, .never, none, [], true⟩]

/-- Page 1, major 3. -/
def rowsP1M3 : List Row := [
  ⟨1, 3, 0, .n3, .v, .v, .v, .never, none, [.i32, .i16, .i8, .u32], true⟩,
  ⟨1, 3, 1, .n3, .v, .v, .v, .never, none, [.i32, .i16, .i8, .u32], true⟩,
  ⟨1, 3, 2, .n3, .v, .v, .v, .never, none, [.i32, .i16, .i8], true⟩,
  ⟨1, 3, 3, .n3, .v, .v, .v, .never, none, [.i32, .i16, .i8, .u32], true⟩]

/-- Page 1, major 4. -/
def rowsP1M4 : List Row := [
  ⟨1, 4, 0, .n3, .p, .v, .v, .never, none, [.f32, .i32, .u32], true⟩,
  ⟨1, 4, 1, .n3, .p, .v, .v, .never, none, [.f32, .i32, .u32], true⟩,
  ⟨1, 4, 2, .n3, .p, .v, .v, .never, none, [.f32, .i32, .u32], true⟩,
  ⟨1, 4, 3, .n3, .p, .v, .v, .never, none, [.f32, .i32, .u32], true⟩]

/-- Page 1, major 5. -/
def rowsP1M5 : List Row := [
  ⟨1, 5, 0, .n3, .v, .v, .v, .never, none, [], true⟩,
  ⟨1, 5, 1, .n3, .v, .v, .v, .never, none, [], true⟩,
  ⟨1, 5, 2, .n3, .v, .v, .segCode, .never, none, [.f32, .bf16, .i32, .i16, .i8, .u32], true⟩,
  ⟨1, 5, 3, .n3, .v, .v, .g, .never, none, [], true⟩]

/-- Page 1, major 6. -/
def rowsP1M6 : List Row := [
  ⟨1, 6, 0, .n2, .v, .v, .absent, .never, none, [], true⟩,
  ⟨1, 6, 1, .n2, .v, .v, .absent, .never, none, [.f32, .bf16, .i32, .i16, .i8], true⟩,
  ⟨1, 6, 2, .n2, .v, .v, .absent, .never, none, [.f32, .bf16, .i32, .i16, .i8], true⟩,
  ⟨1, 6, 3, .n2, .v, .v, .absent, .never, none, [.f32, .bf16], true⟩,
  ⟨1, 6, 4, .n2, .v, .v, .absent, .never, none, [.f32, .bf16], true⟩,
  ⟨1, 6, 5, .n2, .v, .v, .absent, .never, none, [.f32, .bf16], true⟩,
  ⟨1, 6, 6, .n2, .v, .v, .absent, .never, none, [.f32, .bf16], true⟩,
  ⟨1, 6, 7, .n2, .v, .v, .absent, .never, none, [.f32, .bf16], true⟩,
  ⟨1, 6, 8, .n2, .v, .v, .absent, .never, none, [.f32, .bf16], true⟩,
  ⟨1, 6, 9, .n2, .v, .v, .absent, .never, none, [.f32, .bf16], true⟩,
  ⟨1, 6, 10, .n2, .v, .v, .absent, .never, none, [.f32, .bf16], true⟩,
  ⟨1, 6, 11, .n2, .v, .v, .absent, .never, none, [.f32, .bf16], true⟩,
  ⟨1, 6, 12, .n2, .v, .v, .absent, .never, none, [.f32, .bf16], true⟩,
  ⟨1, 6, 13, .n2, .v, .v, .absent, .never, none, [.f32, .bf16], true⟩,
  ⟨1, 6, 14, .n2, .v, .v, .absent, .never, none, [.f32, .bf16], true⟩,
  ⟨1, 6, 15, .n2, .v, .v, .absent, .never, none, [.f32, .bf16], true⟩]

/-- Page 1, major 7. -/
def rowsP1M7 : List Row := [
  ⟨1, 7, 0, .n2, .v, .v, .absent, .never, none, [.bf16, .i32, .i16, .i8, .e4m3, .e5m2, .u32], true⟩,
  ⟨1, 7, 1, .n2, .v, .v, .absent, .never, none, [.f32, .i32, .i16, .i8, .e4m3, .e5m2, .u32], true⟩,
  ⟨1, 7, 2, .n2, .v, .v, .absent, .never, none, [.f32, .bf16, .i16, .i8, .e4m3, .e5m2, .u32], true⟩,
  ⟨1, 7, 3, .n2, .v, .v, .absent, .never, none, [.f32, .bf16, .i32, .i8, .e4m3, .e5m2, .u32], true⟩,
  ⟨1, 7, 4, .n2, .v, .v, .absent, .never, none, [.f32, .bf16, .i32, .i16, .e4m3, .e5m2, .u32], true⟩,
  ⟨1, 7, 5, .n2, .v, .v, .absent, .never, none, [.f32, .bf16, .i32, .i16, .i8, .e5m2, .u32], true⟩,
  ⟨1, 7, 6, .n2, .v, .v, .absent, .never, none, [.f32, .bf16, .i32, .i16, .i8, .e4m3, .u32], true⟩,
  ⟨1, 7, 7, .n2, .v, .v, .absent, .never, none, [.f32, .bf16, .i32, .i16, .i8, .e4m3, .e5m2], true⟩,
  ⟨1, 7, 8, .n2, .v, .v, .absent, .never, none, [.f32, .bf16], false⟩,
  ⟨1, 7, 9, .n2, .v, .v, .absent, .never, none, [.f32, .bf16], false⟩,
  ⟨1, 7, 10, .n2, .v, .v, .absent, .never, none, [.f32, .bf16], false⟩,
  ⟨1, 7, 11, .n2, .v, .v, .absent, .never, none, [.f32, .bf16], false⟩,
  ⟨1, 7, 12, .n2, .v, .v, .absent, .never, none, [], true⟩]

/-- Page 1, major 8. -/
def rowsP1M8 : List Row := [
  ⟨1, 8, 0, .n2, .v, .g, .absent, .never, none, [.f32, .bf16, .i32, .i16, .i8, .e4m3, .e5m2, .u32], true⟩,
  ⟨1, 8, 1, .n2, .v, .g, .absent, .lane, none, [], true⟩,
  ⟨1, 8, 2, .n2, .g, .v, .absent, .lane, none, [], false⟩,
  ⟨1, 8, 3, .n2, .v, .absent, .absent, .never, none, [.i32, .i16, .i8, .u32], true⟩,
  ⟨1, 8, 4, .n2, .v, .v, .absent, .never, none, [.f32, .bf16, .i32, .i16, .i8, .e4m3, .e5m2, .u32], true⟩,
  ⟨1, 8, 5, .n2, .v, .v, .absent, .never, none, [.f32, .bf16, .i32, .i16, .i8, .e4m3, .e5m2, .u32], true⟩]

/-- Page 1, major 9. -/
def rowsP1M9 : List Row := [
  ⟨1, 9, 0, .nm, .v, .a, .absent, .offset, none, [], true⟩,
  ⟨1, 9, 1, .nm, .v, .a, .absent, .offset, none, [], true⟩,
  ⟨1, 9, 2, .nm, .v, .a, .absent, .offset, none, [.f32, .bf16, .i32, .i16, .i8, .e4m3, .e5m2, .u32], true⟩,
  ⟨1, 9, 3, .nm, .v, .a, .absent, .offset, none, [.f32, .i32, .u32], true⟩,
  ⟨1, 9, 4, .nm, .v, .a, .absent, .offset, none, [.f32, .i32, .u32], true⟩,
  ⟨1, 9, 5, .nm, .v, .a, .absent, .offset, none, [.f32, .bf16, .i32, .i16, .i8, .e4m3, .e5m2, .u32], true⟩]

/-- Page 1, major 10. -/
def rowsP1M10 : List Row := [
  ⟨1, 10, 0, .nm, .v, .a, .absent, .offset, none, [], true⟩,
  ⟨1, 10, 1, .nm, .v, .a, .absent, .offset, none, [], true⟩,
  ⟨1, 10, 2, .nm, .v, .a, .absent, .offset, none, [.f32, .bf16, .i32, .i16, .i8, .e4m3, .e5m2, .u32], true⟩,
  ⟨1, 10, 3, .nm, .vPair, .a, .absent, .offset, none, [.f32, .i32, .u32], true⟩,
  ⟨1, 10, 4, .nm, .v, .a, .absent, .offset, none, [.f32, .i32, .u32], true⟩]

/-- Page 1, major 11. -/
def rowsP1M11 : List Row := [
  ⟨1, 11, 0, .n2, .p, .p, .absent, .never, none, [], false⟩,
  ⟨1, 11, 1, .n2, .p, .p, .absent, .never, none, [], false⟩,
  ⟨1, 11, 2, .n2, .p, .p, .absent, .never, none, [], false⟩,
  ⟨1, 11, 3, .n2, .p, .p, .absent, .never, none, [], false⟩,
  ⟨1, 11, 4, .n2, .g, .p, .absent, .never, none, [], false⟩,
  ⟨1, 11, 5, .n2, .g, .p, .absent, .never, none, [], false⟩,
  ⟨1, 11, 6, .n2, .p, .g, .absent, .never, none, [], false⟩,
  ⟨1, 11, 7, .n2, .p, .p, .absent, .never, none, [], false⟩]

/-- Page 1, major 12. -/
def rowsP1M12 : List Row := [
  ⟨1, 12, 0, .ni, .v, .absent, .absent, .signed 8, none, [.f32, .bf16, .i32, .i16, .i8, .e4m3, .e5m2, .u32], true⟩]

/-- Page 2, major 0. -/
def rowsP2M0 : List Row := [
  ⟨2, 0, 0, .nx, .absent, .a, .a, .never, none, [], false⟩]

/-- Page 2, major 1. -/
def rowsP2M1 : List Row := [
  ⟨2, 1, 0, .nx, .absent, .a, .a, .never, none, [], false⟩]

/-- Page 2, major 2. -/
def rowsP2M2 : List Row := [
  ⟨2, 2, 0, .n2, .g, .g, .absent, .never, none, [], false⟩,
  ⟨2, 2, 1, .n2, .g, .g, .absent, .never, none, [], false⟩,
  ⟨2, 2, 2, .n2, .absent, .g, .absent, .never, none, [], false⟩,
  ⟨2, 2, 3, .n2, .absent, .g, .absent, .never, none, [], false⟩,
  ⟨2, 2, 4, .n2, .g, .absent, .absent, .never, none, [], false⟩,
  ⟨2, 2, 5, .n2, .v, .g, .absent, .never, none, [], true⟩,
  ⟨2, 2, 6, .n2, .v, .g, .absent, .never, none, [], true⟩]

/-- Page 2, major 3. -/
def rowsP2M3 : List Row := [
  ⟨2, 3, 0, .nm, .g, .a, .absent, .offset, none, [], false⟩,
  ⟨2, 3, 1, .nm, .g, .a, .absent, .offset, none, [], false⟩,
  ⟨2, 3, 2, .nm, .g, .a, .absent, .offset, none, [], false⟩,
  ⟨2, 3, 3, .nm, .g, .a, .absent, .offset, none, [], false⟩,
  ⟨2, 3, 4, .nm, .g, .a, .absent, .offset, none, [], false⟩,
  ⟨2, 3, 5, .nm, .g, .a, .absent, .offset, none, [], false⟩,
  ⟨2, 3, 6, .nm, .g, .a, .absent, .offset, none, [], false⟩]

/-- Page 2, major 4. -/
def rowsP2M4 : List Row := [
  ⟨2, 4, 0, .nm, .g, .a, .absent, .offset, none, [], false⟩,
  ⟨2, 4, 1, .nm, .g, .a, .absent, .offset, none, [], false⟩]

/-- Page 2, major 8. -/
def rowsP2M8 : List Row := [
  ⟨2, 8, 0, .n2, .h, .g, .absent, .never, none, [.f32, .bf16, .i32, .i16, .i8, .e4m3, .e5m2, .u32], false⟩,
  ⟨2, 8, 1, .n2, .h, .a, .absent, .never, none, [], false⟩,
  ⟨2, 8, 2, .n2, .h, .absent, .absent, .never, none, [], false⟩,
  ⟨2, 8, 3, .n2, .h, .h, .absent, .never, none, [], false⟩,
  ⟨2, 8, 4, .n2, .h, .h, .absent, .never, none, [], false⟩]

/-- Page 2, major 9. -/
def rowsP2M9 : List Row := [
  ⟨2, 9, 0, .n2, .h, .v, .absent, .never, none, [.f32, .bf16, .i32, .i16, .i8, .e4m3, .e5m2, .u32], true⟩]

/-- Page 2, major 10. -/
def rowsP2M10 : List Row := [
  ⟨2, 10, 0, .n3, .g, .h, .g, .never, none, [.f32, .bf16, .i32, .i16, .i8, .e4m3, .e5m2, .u32], false⟩,
  ⟨2, 10, 1, .n3, .g, .h, .g, .never, none, [.f32, .bf16, .i32, .i16, .i8, .e4m3, .e5m2, .u32], false⟩,
  ⟨2, 10, 2, .n3, .g, .h, .g, .never, none, [.f32, .bf16, .i32, .i16, .i8, .e4m3, .e5m2, .u32], false⟩,
  ⟨2, 10, 3, .n3, .g, .h, .g, .never, none, [], false⟩]

/-- Page 2, major 11. -/
def rowsP2M11 : List Row := [
  ⟨2, 11, 0, .n2, .g, .h, .absent, .never, none, [], false⟩,
  ⟨2, 11, 1, .n2, .g, .h, .absent, .never, none, [], false⟩,
  ⟨2, 11, 2, .n2, .g, .h, .absent, .never, none, [.f32, .u32], false⟩,
  ⟨2, 11, 3, .n2, .g, .h, .absent, .never, none, [.f32, .bf16, .i32, .i16, .i8, .e4m3, .e5m2, .u32], false⟩,
  ⟨2, 11, 4, .n2, .g, .h, .absent, .never, none, [.f32, .bf16, .i32, .i16, .i8, .e4m3, .e5m2, .u32], false⟩,
  ⟨2, 11, 5, .n2, .g, .h, .absent, .never, none, [.f32, .bf16], false⟩,
  ⟨2, 11, 6, .n2, .g, .h, .absent, .never, none, [.f32, .bf16], false⟩,
  ⟨2, 11, 7, .n2, .g, .h, .absent, .never, none, [.f32, .bf16], false⟩,
  ⟨2, 11, 8, .n2, .g, .h, .absent, .never, none, [.f32, .bf16], false⟩,
  ⟨2, 11, 9, .n2, .g, .h, .absent, .never, none, [], false⟩]

/-- Page 2, major 12. -/
def rowsP2M12 : List Row := [
  ⟨2, 12, 0, .nm, .h, .a, .absent, .offset, none, [], false⟩,
  ⟨2, 12, 1, .nm, .h, .a, .absent, .offset, none, [], false⟩,
  ⟨2, 12, 2, .nm, .h, .a, .absent, .offset, none, [], false⟩]

/-- Page 3, major 0. -/
def rowsP3M0 : List Row := [
  ⟨3, 0, 0, .n2, .g, .q, .absent, .never, none, [], false⟩,
  ⟨3, 0, 1, .n2, .g, .q, .absent, .never, none, [], false⟩,
  ⟨3, 0, 2, .n2, .g, .q, .absent, .never, none, [], false⟩,
  ⟨3, 0, 3, .n2, .g, .o, .absent, .never, none, [], false⟩,
  ⟨3, 0, 4, .n2, .g, .q, .absent, .never, none, [], false⟩,
  ⟨3, 0, 5, .n2, .g, .q, .absent, .never, none, [], false⟩,
  ⟨3, 0, 6, .n2, .absent, .q, .absent, .never, none, [], false⟩,
  ⟨3, 0, 7, .n2, .v, .q, .absent, .never, none, [], false⟩,
  ⟨3, 0, 8, .n2, .a, .q, .absent, .never, none, [], false⟩]

/-- Page 3, major 1. -/
def rowsP3M1 : List Row := [
  ⟨3, 1, 0, .nq, .o, .g, .absent, .tag, none, [], false⟩]

/-- Page 3, major 2. -/
def rowsP3M2 : List Row := [
  ⟨3, 2, 0, .n2, .o, .a, .absent, .never, none, [], false⟩,
  ⟨3, 2, 1, .n2, .o, .v, .absent, .never, none, [], false⟩,
  ⟨3, 2, 2, .n2, .o, .g, .absent, .never, none, [], false⟩]

/-- Page 3, major 3. -/
def rowsP3M3 : List Row := [
  ⟨3, 3, 0, .nim, .small, .absent, .absent, .never, none, [], false⟩]

/-- Page 3, major 4. -/
def rowsP3M4 : List Row := [
  ⟨3, 4, 0, .nim, .small, .absent, .absent, .never, none, [], false⟩]

/-- Page 3, major 5. -/
def rowsP3M5 : List Row := [
  ⟨3, 5, 0, .nim, .g, .absent, .absent, .never, none, [], false⟩]

/-- Page 3, major 6. -/
def rowsP3M6 : List Row := [
  ⟨3, 6, 0, .n2, .b, .g, .absent, .never, none, [], false⟩,
  ⟨3, 6, 1, .n2, .g, .b, .absent, .never, none, [], false⟩,
  ⟨3, 6, 2, .n2, .b, .g, .absent, .never, (some .tile), [], false⟩,
  ⟨3, 6, 3, .n2, .g, .b, .absent, .never, none, [], false⟩]

/-- Page 3, major 7. -/
def rowsP3M7 : List Row := [
  ⟨3, 7, 0, .n2, .absent, .absent, .absent, .never, (some .wafer), [], false⟩,
  ⟨3, 7, 1, .n2, .g, .g, .absent, .never, (some .wafer), [], false⟩,
  ⟨3, 7, 2, .n2, .g, .g, .absent, .never, (some .wafer), [], false⟩,
  ⟨3, 7, 3, .n2, .a, .g, .absent, .never, none, [], false⟩,
  ⟨3, 7, 4, .n2, .absent, .a, .absent, .never, none, [], false⟩,
  ⟨3, 7, 5, .n2, .absent, .a, .absent, .never, none, [], false⟩,
  ⟨3, 7, 6, .n2, .absent, .absent, .absent, .never, none, [], false⟩,
  ⟨3, 7, 7, .n2, .g, .a, .absent, .never, none, [], false⟩]

/-- Page 3, major 8. -/
def rowsP3M8 : List Row := [
  ⟨3, 8, 0, .n3, .g, .a, .g, .never, (some .wafer), [], false⟩,
  ⟨3, 8, 1, .n3, .g, .a, .g, .never, (some .wafer), [], false⟩,
  ⟨3, 8, 2, .n3, .g, .a, .g, .never, (some .wafer), [], false⟩,
  ⟨3, 8, 3, .n3, .g, .a, .g, .never, (some .wafer), [], false⟩]

/-- Page 3, major 9. -/
def rowsP3M9 : List Row := [
  ⟨3, 9, 0, .n3, .g, .a, .g, .never, (some .wafer), [], false⟩,
  ⟨3, 9, 1, .n3, .g, .a, .g, .never, (some .wafer), [], false⟩,
  ⟨3, 9, 2, .n3, .g, .a, .g, .never, (some .wafer), [], false⟩,
  ⟨3, 9, 3, .n3, .g, .a, .g, .never, (some .wafer), [], false⟩]

/-- Page 3, major 10. -/
def rowsP3M10 : List Row := [
  ⟨3, 10, 0, .n3, .g, .a, .g, .never, (some .wafer), [], false⟩,
  ⟨3, 10, 1, .n3, .g, .a, .g, .never, (some .wafer), [], false⟩,
  ⟨3, 10, 2, .n3, .g, .a, .g, .never, (some .wafer), [], false⟩,
  ⟨3, 10, 3, .n3, .g, .a, .g, .never, (some .wafer), [], false⟩]

/-- Page 3, major 11. -/
def rowsP3M11 : List Row := [
  ⟨3, 11, 0, .n3, .a, .a, .g, .never, none, [], false⟩,
  ⟨3, 11, 1, .n3, .g, .a, .g, .never, none, [], false⟩]

/-- Page 3, major 12. -/
def rowsP3M12 : List Row := [
  ⟨3, 12, 0, .n2, .absent, .g, .absent, .never, none, [], false⟩,
  ⟨3, 12, 1, .n2, .g, .g, .absent, .never, none, [], false⟩,
  ⟨3, 12, 2, .n2, .absent, .g, .absent, .never, none, [], false⟩,
  ⟨3, 12, 3, .n2, .g, .g, .absent, .never, none, [], false⟩,
  ⟨3, 12, 4, .n2, .g, .g, .absent, .never, none, [], false⟩]

/-- Page 3, major 13. -/
def rowsP3M13 : List Row := [
  ⟨3, 13, 0, .n3, .g, .a, .g, .never, none, [], false⟩,
  ⟨3, 13, 1, .n3, .absent, .g, .absent, .never, none, [], false⟩,
  ⟨3, 13, 2, .n3, .absent, .g, .absent, .never, none, [], false⟩]

/-- Page 3, major 14. -/
def rowsP3M14 : List Row := [
  ⟨3, 14, 0, .n2, .g, .g, .absent, .never, (some .wafer), [], false⟩,
  ⟨3, 14, 1, .n2, .absent, .g, .absent, .never, none, [], false⟩,
  ⟨3, 14, 2, .n2, .g, .g, .absent, .never, none, [], false⟩,
  ⟨3, 14, 3, .n2, .g, .g, .absent, .never, none, [], false⟩]

/-- Page 3, major 15. -/
def rowsP3M15 : List Row := [
  ⟨3, 15, 0, .n2, .a, .absent, .absent, .never, none, [], false⟩,
  ⟨3, 15, 1, .n2, .a, .absent, .absent, .never, none, [], false⟩,
  ⟨3, 15, 2, .n2, .absent, .a, .absent, .never, none, [], false⟩,
  ⟨3, 15, 3, .n2, .absent, .a, .absent, .never, none, [], false⟩]

/-- Page 4, major 0. -/
def rowsP4M0 : List Row := [
  ⟨4, 0, 0, .ni, .g, .absent, .absent, .never, none, [], false⟩]

/-- Page 4, major 2. -/
def rowsP4M2 : List Row := [
  ⟨4, 2, 0, .ni, .g, .absent, .absent, .kreg, none, [], false⟩]

/-- Page 4, major 3. -/
def rowsP4M3 : List Row := [
  ⟨4, 3, 0, .ni, .g, .absent, .absent, .kreg, none, [], false⟩]

/-- Page 4, major 4. -/
def rowsP4M4 : List Row := [
  ⟨4, 4, 0, .n2, .absent, .absent, .absent, .never, none, [], false⟩,
  ⟨4, 4, 1, .n2, .g, .absent, .absent, .never, none, [], false⟩,
  ⟨4, 4, 2, .n2, .absent, .a, .absent, .never, none, [], false⟩,
  ⟨4, 4, 3, .n2, .absent, .absent, .absent, .never, none, [], false⟩,
  ⟨4, 4, 4, .n2, .absent, .absent, .absent, .never, none, [], false⟩,
  ⟨4, 4, 5, .n2, .absent, .absent, .absent, .never, none, [], false⟩,
  ⟨4, 4, 6, .n2, .absent, .g, .absent, .never, none, [], false⟩,
  ⟨4, 4, 7, .n2, .g, .g, .absent, .never, none, [], false⟩,
  ⟨4, 4, 8, .n2, .absent, .g, .absent, .never, none, [], false⟩]

/-- The rows of page 0 (R47). -/
def rowsPage0 : List Row :=
  rowsP0M0 ++ rowsP0M1 ++ rowsP0M2 ++ rowsP0M3 ++ rowsP0M4 ++ rowsP0M5 ++
  rowsP0M6 ++ rowsP0M7 ++ rowsP0M8 ++ rowsP0M9 ++ rowsP0M10 ++ rowsP0M11 ++
  rowsP0M12 ++ rowsP0M13 ++ rowsP0M14 ++ rowsP0M15 ++ rowsP0M16 ++ rowsP0M17 ++
  rowsP0M18 ++ rowsP0M19 ++ rowsP0M20 ++ rowsP0M21 ++ rowsP0M22 ++ rowsP0M23 ++
  rowsP0M24 ++ rowsP0M25 ++ rowsP0M26 ++ rowsP0M27

/-- The rows of page 1 (R48). -/
def rowsPage1 : List Row :=
  rowsP1M0 ++ rowsP1M1 ++ rowsP1M2 ++ rowsP1M3 ++ rowsP1M4 ++ rowsP1M5 ++
  rowsP1M6 ++ rowsP1M7 ++ rowsP1M8 ++ rowsP1M9 ++ rowsP1M10 ++ rowsP1M11 ++
  rowsP1M12

/-- The rows of page 2 (R49). -/
def rowsPage2 : List Row :=
  rowsP2M0 ++ rowsP2M1 ++ rowsP2M2 ++ rowsP2M3 ++ rowsP2M4 ++ rowsP2M8 ++
  rowsP2M9 ++ rowsP2M10 ++ rowsP2M11 ++ rowsP2M12

/-- The rows of page 3 (R50). -/
def rowsPage3 : List Row :=
  rowsP3M0 ++ rowsP3M1 ++ rowsP3M2 ++ rowsP3M3 ++ rowsP3M4 ++ rowsP3M5 ++
  rowsP3M6 ++ rowsP3M7 ++ rowsP3M8 ++ rowsP3M9 ++ rowsP3M10 ++ rowsP3M11 ++
  rowsP3M12 ++ rowsP3M13 ++ rowsP3M14 ++ rowsP3M15

/-- The rows of page 4 (R51). -/
def rowsPage4 : List Row :=
  rowsP4M0 ++ rowsP4M2 ++ rowsP4M3 ++ rowsP4M4

/-- Every row of the opcode map. -/
def rows : List Row := rowsPage0 ++ rowsPage1 ++ rowsPage2 ++ rowsPage3 ++ rowsPage4

/-- The row at a place of the map. -/
def rowAt (k : RowKey) : Option Row := rows.find? (·.isAt k)

/-! ## Fields of a base word -/

/-- The major opcode: bits [15:11] of any word (R34). -/
def majorOf (w : Half) : Nat := w.toNat / 2048

/-- A word is a prefix when its major is 30 or 31 (R36, R37). -/
def isPrefix (w : Half) : Bool := 30 ≤ majorOf w

/-- Bits [10:8]. -/
def bitsHi (w : Half) : BitVec 3 := w.extractLsb' 8 3
/-- Bits [7:5]. -/
def bitsMid (w : Half) : BitVec 3 := w.extractLsb' 5 3
/-- Bits [4:2]. -/
def bitsLow (w : Half) : BitVec 3 := w.extractLsb' 2 3

/-- The d field in the base word (R34). -/
def Fmt.lowD (f : Fmt) (w : Half) : BitVec 3 :=
  match f with
  | .n2 | .n3 | .ni | .nis | .nim | .nl | .nm | .nq => bitsHi w
  | .nj | .nb | .nc | .nx => 0

/-- The x field in the base word (R34). -/
def Fmt.lowX (f : Fmt) (w : Half) : BitVec 3 :=
  match f with
  | .n2 | .n3 | .nm | .nq | .nb => bitsMid w
  | .nc => bitsHi w
  | .nx => w.extractLsb' 6 3
  | .ni | .nis | .nim | .nl | .nj => 0

/-- The y field in the base word (R34). -/
def Fmt.lowY (f : Fmt) (w : Half) : BitVec 3 :=
  match f with
  | .n3 => bitsLow w
  | .nc => bitsMid w
  | .nx => w.extractLsb' 3 3
  | _ => 0

/-- The minor, kind or condition (R34). -/
def Fmt.minor (f : Fmt) (w : Half) : Nat :=
  match f with
  | .n2 => (w.extractLsb' 0 5).toNat
  | .n3 => (w.extractLsb' 0 2).toNat
  | .nis => (bitsMid w).toNat
  | .nb => (bitsHi w).toNat
  | .nc | .nm => (bitsLow w).toNat
  | .ni | .nim | .nl | .nj | .nq | .nx => 0

/-- The immediate bits of the base word (R34). -/
def Fmt.immBase (f : Fmt) (w : Half) : Nat :=
  match f with
  | .ni | .nl => (w.extractLsb' 0 8).toNat
  | .nis | .nim | .nb | .nq => (w.extractLsb' 0 5).toNat
  | .nj => (w.extractLsb' 0 11).toNat
  | .nm => (w.extractLsb' 0 2).toNat
  | .n2 | .n3 | .nc | .nx => 0

/-- Reserved bits of the format that are not zero, or the illegal LOOP length 0 (R34, R35). -/
def Fmt.reservedBad (f : Fmt) (w : Half) : Bool :=
  match f with
  | .nc => w.extractLsb' 0 2 != 0
  | .nim => bitsMid w != 0
  | .nl => w.extractLsb' 0 8 == 0
  | _ => false

/-! ## The prefixes of a group -/

/-- Why a group is no instruction: the defects of R54 that decoding finds, in the order of their DETAIL codes. -/
inductive Defect where
  | tooLong | reservedPrefix | duplicatePrefix | illegalPage | prefixBits | noMajor | noMinor | illegalField
  | badRegister | surplusPrefix | missingExt | badModifier
  deriving DecidableEq, Repr

/-- TCAUSE.DETAIL of a defect (R54). -/
def Defect.detail : Defect → Nat
  | .tooLong => 1 | .reservedPrefix => 2 | .duplicatePrefix => 3 | .illegalPage => 4 | .prefixBits => 5
  | .noMajor => 6 | .noMinor => 7 | .illegalField => 8 | .badRegister => 9 | .surplusPrefix => 10
  | .missingExt => 11 | .badModifier => 12

/-- What decoding finds at an address: the words end before the group does; a group that is no instruction, with the index
and value of the word reported and the group's length; or an instruction with its length and its base word. -/
inductive Decoded where
  | short
  | bad (why : Defect) (index : Nat) (word : Half) (len : Nat)
  | ok (i : Instr) (len : Nat) (base : Half)
  deriving DecidableEq, Repr

/-- What the checks of R54 find, before the instruction is built: the place in the opcode map and the operand fields. -/
inductive RawDecoded where
  | short
  | bad (why : Defect) (index : Nat) (word : Half) (len : Nat)
  | ok (k : RowKey) (o : Opnds) (len : Nat) (base : Half)
  deriving DecidableEq, Repr

/-- The prefix words seen so far: each with its index in the group; EXT words nearest the base word first. -/
structure Prefixes where
  regx : Option (Nat × Half) := none
  page : Option (Nat × Half) := none
  scp : Option (Nat × Half) := none
  exts : List (BitVec 11) := []
  deriving DecidableEq, Repr

/-- Defects that one PAGE word shows by itself: the page, and a modifier on a page that has none (R39, R54). -/
def pageWordDefect (w : Half) : Option Defect :=
  if 5 ≤ (w.extractLsb' 6 3).toNat then some .illegalPage
  else if w.extractLsb' 0 6 != 0 && !([1, 2].contains (w.extractLsb' 6 3).toNat) then some .prefixBits
  else none

/-- Step 2 of R54: reads the prefix words in address order and stops at the first defect. -/
def scanPrefixes : List Half → Nat → Prefixes → Except (Defect × Nat × Half) Prefixes
  | [], _, p => .ok p
  | w :: ws, k, p =>
    if majorOf w == 30 then scanPrefixes ws (k + 1) { p with exts := w.extractLsb' 0 11 :: p.exts }
    else
      match (w.extractLsb' 9 2).toNat with
      | 0 =>
        match p.regx with
        | some _ => .error (.duplicatePrefix, k, w)
        | none => scanPrefixes ws (k + 1) { p with regx := some (k, w) }
      | 1 =>
        match pageWordDefect w, p.page with
        | some why, _ => .error (why, k, w)
        | none, some _ => .error (.duplicatePrefix, k, w)
        | none, none => scanPrefixes ws (k + 1) { p with page := some (k, w) }
      | 2 =>
        if w.extractLsb' 6 3 == 7 || w.extractLsb' 0 6 != 0 then .error (.prefixBits, k, w)
        else
          match p.scp with
          | some _ => .error (.duplicatePrefix, k, w)
          | none => scanPrefixes ws (k + 1) { p with scp := some (k, w) }
      | _ => .error (.reservedPrefix, k, w)

/-- The page number a group is decoded on (R39). -/
def Prefixes.pageNumber (p : Prefixes) : Nat :=
  match p.page with
  | none => 0
  | some (_, w) => (w.extractLsb' 6 3).toNat

/-- The modifier of the PAGE word: type code and predicate (R39). -/
def Prefixes.modifier (p : Prefixes) : BitVec 3 × BitVec 3 :=
  match p.page with
  | none => (0, 0)
  | some (_, w) => (w.extractLsb' 3 3, w.extractLsb' 0 3)

/-- The high register bits DH, XH and YH (R37). -/
def Prefixes.high (p : Prefixes) : BitVec 3 × BitVec 3 × BitVec 3 :=
  match p.regx with
  | none => (0, 0, 0)
  | some (_, w) => (w.extractLsb' 6 3, w.extractLsb' 3 3, w.extractLsb' 0 3)

/-! ## The checks of a base word, in the order of R54 -/

/-- A field value that its kind makes illegal: a nonzero absent field, a group-size code above 4 (R35, R183). -/
def FieldKind.illegal (k : FieldKind) (low : BitVec 3) : Bool :=
  match k with
  | .absent => low != 0
  | .segCode => 4 < low.toNat
  | _ => false

/-- A REGX sub-field that is nonzero on a field that takes none (R38). -/
def FieldKind.misused (k : FieldKind) (high : BitVec 3) : Bool := !k.extends && high != 0

/-- The 6-bit register number of a field, or whether the REGX word (`true`) or the base word supplied a number beyond the
file (R38, R54). -/
def FieldKind.number (k : FieldKind) (low high : BitVec 3) : Except Bool (BitVec 6) :=
  match k with
  | .g => .ok (high ++ low)
  | .v => if 32 ≤ (high ++ low : BitVec 6).toNat then .error true else .ok (high ++ low)
  | .vPair =>
    if 31 ≤ (high ++ low : BitVec 6).toNat then .error (high != 0) else .ok (high ++ low)
  | .h => if 4 ≤ low.toNat then .error false else .ok (0#3 ++ low)
  | _ => .ok (0#3 ++ low)

/-- Step 4 of R54 for the prefixes in address order: an EXT word beyond the rule's number or bits, a REGX word that no
field takes, an SCP word that the instruction does not consume. `seen` counts the EXT words before this one. -/
def unconsumed (r : Row) : List Half → Nat → Nat → Option (Nat × Half)
  | [], _, _ => none
  | w :: ws, k, seen =>
    if majorOf w == 30 then
      if r.ext.most ≤ seen || r.ext.bound ≤ (w.extractLsb' 0 11).toNat then some (k, w)
      else unconsumed r ws (k + 1) (seen + 1)
    else if w.extractLsb' 9 2 == 0#2 && !(r.d.extends || r.x.extends || r.y.extends) then some (k, w)
    else if w.extractLsb' 9 2 == 2#2 && r.scope.isNone then some (k, w)
    else unconsumed r ws (k + 1) seen

/-- The EXT words above the base bits: word j stands at bit 11 × j (R43). -/
def extValue : List (BitVec 11) → Nat
  | [] => 0
  | x :: xs => x.toNat + 2048 * extValue xs

/-- The immediate of R43, extended to 64 bits by the rule's signedness; an NM offset without EXT is zero-extended. -/
def ExtRule.immediate (e : ExtRule) (base : Nat) (exts : List (BitVec 11)) : BitVec 64 :=
  let n := base + 2 ^ e.baseBits * extValue exts
  let w := e.baseBits + 11 * exts.length
  match e with
  | .never | .lane | .kreg | .tag => BitVec.ofNat 64 n
  | .signed _ | .target => (BitVec.ofNat w n).signExtend 64
  | .offset => if exts.isEmpty then BitVec.ofNat 64 n else (BitVec.ofNat w n).signExtend 64

/-- The scope a group names, or the default of its instruction (R41). -/
def Prefixes.scopeOr (p : Prefixes) (dflt : Option Scope) : Scope :=
  match p.scp with
  | none => dflt.getD .lane
  | some (_, w) => (Scope.ofCode (w.extractLsb' 6 3)).getD .lane

/-- Steps 3 to 5 of R54 for a row, and the operand fields. R54 does not order two register-number defects of one group: a REGX sub-field on a
field that names no g- or v-register is reported first, then d, x and y in this order (DESIGN CHOICE, log 25). -/
def decodeRow (r : Row) (pre : List Half) (p : Prefixes) (base : Half) : RawDecoded :=
  let n := pre.length
  let bad (why : Defect) (at_ : Nat × Half) : RawDecoded := .bad why at_.1 at_.2 (n + 1)
  let atBase := (n, base)
  let atRegx := p.regx.getD atBase
  let pick (regx : Bool) := if regx then atRegx else atBase
  let (dh, xh, yh) := p.high
  let ld := r.fmt.lowD base
  let lx := r.fmt.lowX base
  let ly := r.fmt.lowY base
  if r.fmt.reservedBad base || r.d.illegal ld || r.x.illegal lx || r.y.illegal ly then bad .illegalField atBase
  else if r.d.misused dh || r.x.misused xh || r.y.misused yh then bad .badRegister atRegx
  else
    match r.d.number ld dh, r.x.number lx xh, r.y.number ly yh with
    | .error e, _, _ => bad .badRegister (pick e)
    | _, .error e, _ => bad .badRegister (pick e)
    | _, _, .error e => bad .badRegister (pick e)
    | .ok d, .ok x, .ok y =>
      match unconsumed r pre 0 0 with
      | some bad_ => bad .surplusPrefix bad_
      | none =>
        if p.exts.length < r.ext.fewest then bad .missingExt atBase
        else
          let (tc, pc) := p.modifier
          let o : Opnds :=
            { d := d, x := x, y := y, imm := r.ext.immediate (r.fmt.immBase base) p.exts, ty := EType.ofCode tc,
              pr := pc, sc := p.scopeOr r.scope, z := base.extractLsb' 9 2, acc := base.getLsbD 2,
              bsrc := base.getLsbD 1, chk := base.getLsbD 0 }
          let typeOk := if r.types.isEmpty then tc == 0 else r.types.contains (EType.ofCode tc)
          let predOk := r.pred || pc == 0
          if typeOk && predOk then .ok ⟨r.page, r.major, r.minor⟩ o (n + 1) base
          else bad .badModifier (p.page.getD atBase)

/-- The base word: steps 2 to 5 of R54. A major is assigned on a page when some row has it, and its rows share a format. -/
def decodeBase (pre : List Half) (base : Half) : RawDecoded :=
  match scanPrefixes pre 0 {} with
  | .error (why, k, w) => .bad why k w (pre.length + 1)
  | .ok p =>
    match rows.find? (fun r => r.page == p.pageNumber && r.major == majorOf base) with
    | none => .bad .noMajor pre.length base (pre.length + 1)
    | some r0 =>
      match rowAt ⟨p.pageNumber, majorOf base, r0.fmt.minor base⟩ with
      | none => .bad .noMinor pre.length base (pre.length + 1)
      | some r => decodeRow r pre p base

/-- Step 1 of R54: up to four prefix words and then a base word; a fifth prefix word is a defect (R42). `pre` holds the
prefix words read, the latest first. -/
def decodeFrom : Nat → List Half → List Half → RawDecoded
  | _, _, [] => .short
  | fuel, pre, w :: ws =>
    if isPrefix w then
      match fuel with
      | 0 => .bad .tooLong pre.length w (pre.length + 1)
      | k + 1 => decodeFrom k (w :: pre) ws
    else decodeBase pre.reverse w

/-- The checks of R54, from the words at a program counter onward. -/
def decodeRaw (ws : List Half) : RawDecoded := decodeFrom 4 [] ws

/-! ## The instruction of a place in the map

The constructors of `Instr` outnumber what compiled code can tell apart, so the definitions that build one are marked
noncomputable; Lean's kernel evaluates them. -/


/-- The instructions of page 0, major 0, by minor. -/
def buildP0M0 (o : Opnds) : Nat → Option Instr
  | 0 => some (.mov o.d o.x)
  | 1 => some (.not o.d o.x)
  | 2 => some (.neg o.d o.x)
  | 3 => some (.abs o.d o.x)
  | 4 => some (.clz o.d o.x)
  | 5 => some (.ctz o.d o.x)
  | 6 => some (.popc o.d o.x)
  | 7 => some (.brev o.d o.x)
  | 8 => some (.sexb o.d o.x)
  | 9 => some (.sexh o.d o.x)
  | 10 => some (.zexb o.d o.x)
  | 11 => some (.zexh o.d o.x)
  | 12 => some (.glo o.d (o.x.setWidth 3))
  | 13 => some (.ghi o.d (o.x.setWidth 3))
  | 14 => some (.alo (o.d.setWidth 3) o.x)
  | 15 => some (.ahi (o.d.setWidth 3) o.x)
  | _ => none

/-- The instructions of page 0, major 1, by minor. -/
def buildP0M1 (o : Opnds) : Nat → Option Instr
  | 0 => some (.add o.d o.x o.y)
  | 1 => some (.sub o.d o.x o.y)
  | 2 => some (.and o.d o.x o.y)
  | 3 => some (.or o.d o.x o.y)
  | _ => none

/-- The instructions of page 0, major 2, by minor. -/
def buildP0M2 (o : Opnds) : Nat → Option Instr
  | 0 => some (.xor o.d o.x o.y)
  | 1 => some (.sll o.d o.x o.y)
  | 2 => some (.srl o.d o.x o.y)
  | 3 => some (.sra o.d o.x o.y)
  | _ => none

/-- The instructions of page 0, major 3, by minor. -/
def buildP0M3 (o : Opnds) : Nat → Option Instr
  | 0 => some (.mul o.d o.x o.y)
  | 1 => some (.mulh o.d o.x o.y)
  | 2 => some (.mulhu o.d o.x o.y)
  | 3 => some (.ror o.d o.x o.y)
  | _ => none

/-- The instructions of page 0, major 4, by minor. -/
def buildP0M4 (o : Opnds) : Nat → Option Instr
  | 0 => some (.div o.d o.x o.y)
  | 1 => some (.divu o.d o.x o.y)
  | 2 => some (.rem o.d o.x o.y)
  | 3 => some (.remu o.d o.x o.y)
  | _ => none

/-- The instructions of page 0, major 5, by minor. -/
def buildP0M5 (o : Opnds) : Nat → Option Instr
  | 0 => some (.slt o.d o.x o.y)
  | 1 => some (.sltu o.d o.x o.y)
  | 2 => some (.seq o.d o.x o.y)
  | 3 => some (.sne o.d o.x o.y)
  | _ => none

/-- The instructions of page 0, major 6, by minor. -/
def buildP0M6 (o : Opnds) : Nat → Option Instr
  | 0 => some (.min o.d o.x o.y)
  | 1 => some (.max o.d o.x o.y)
  | 2 => some (.minu o.d o.x o.y)
  | 3 => some (.maxu o.d o.x o.y)
  | _ => none

/-- The instructions of page 0, major 7, by minor. -/
def buildP0M7 (o : Opnds) : Nat → Option Instr
  | 0 => some (.addi o.d o.imm)
  | _ => none

/-- The instructions of page 0, major 8, by minor. -/
def buildP0M8 (o : Opnds) : Nat → Option Instr
  | 0 => some (.li o.d o.imm)
  | _ => none

/-- The instructions of page 0, major 9, by minor. -/
def buildP0M9 (o : Opnds) : Nat → Option Instr
  | 0 => some (.andi o.d o.imm)
  | _ => none

/-- The instructions of page 0, major 10, by minor. -/
def buildP0M10 (o : Opnds) : Nat → Option Instr
  | 0 => some (.ori o.d o.imm)
  | _ => none

/-- The instructions of page 0, major 11, by minor. -/
def buildP0M11 (o : Opnds) : Nat → Option Instr
  | 0 => some (.xori o.d o.imm)
  | _ => none

/-- The instructions of page 0, major 12, by minor. -/
def buildP0M12 (o : Opnds) : Nat → Option Instr
  | 0 => some (.slli o.d (o.imm.setWidth 5))
  | 1 => some (.srli o.d (o.imm.setWidth 5))
  | 2 => some (.srai o.d (o.imm.setWidth 5))
  | 3 => some (.rori o.d (o.imm.setWidth 5))
  | _ => none

/-- The instructions of page 0, major 13, by minor. -/
def buildP0M13 (o : Opnds) : Nat → Option Instr
  | 0 => some (.beqz o.x o.imm)
  | 1 => some (.bnez o.x o.imm)
  | 2 => some (.bltz o.x o.imm)
  | 3 => some (.bgez o.x o.imm)
  | 4 => some (.bgtz o.x o.imm)
  | 5 => some (.blez o.x o.imm)
  | _ => none

/-- The instructions of page 0, major 14, by minor. -/
def buildP0M14 (o : Opnds) : Nat → Option Instr
  | 0 => some (.beq o.x o.y o.imm)
  | 1 => some (.bne o.x o.y o.imm)
  | 2 => some (.blt o.x o.y o.imm)
  | 3 => some (.bge o.x o.y o.imm)
  | 4 => some (.bltu o.x o.y o.imm)
  | 5 => some (.bgeu o.x o.y o.imm)
  | _ => none

/-- The instructions of page 0, major 15, by minor. -/
def buildP0M15 (o : Opnds) : Nat → Option Instr
  | 0 => some (.j o.imm)
  | _ => none

/-- The instructions of page 0, major 16, by minor. -/
def buildP0M16 (o : Opnds) : Nat → Option Instr
  | 0 => some (.jal o.imm)
  | _ => none

/-- The instructions of page 0, major 17, by minor. -/
def buildP0M17 (o : Opnds) : Nat → Option Instr
  | 0 => some (.jr o.x)
  | 1 => some (.jalr o.d o.x)
  | 2 => some (.ret)
  | 3 => some (.hend)
  | 4 => some (.halt)
  | 5 => some (.nop)
  | 6 => some (.brk)
  | _ => none

/-- The instructions of page 0, major 18, by minor. -/
def buildP0M18 (o : Opnds) : Nat → Option Instr
  | 0 => some (.loop o.d (o.imm.setWidth 8))
  | _ => none

/-- The instructions of page 0, major 19, by minor. -/
def buildP0M19 (o : Opnds) : Nat → Option Instr
  | 0 => some (.ldb o.d (o.x.setWidth 3) o.imm)
  | 1 => some (.ldbu o.d (o.x.setWidth 3) o.imm)
  | 2 => some (.ldh o.d (o.x.setWidth 3) o.imm)
  | 3 => some (.ldhu o.d (o.x.setWidth 3) o.imm)
  | 4 => some (.ldw o.d (o.x.setWidth 3) o.imm)
  | 5 => some (.lda (o.d.setWidth 3) (o.x.setWidth 3) o.imm)
  | _ => none

/-- The instructions of page 0, major 20, by minor. -/
def buildP0M20 (o : Opnds) : Nat → Option Instr
  | 0 => some (.stb o.d (o.x.setWidth 3) o.imm)
  | 1 => some (.sth o.d (o.x.setWidth 3) o.imm)
  | 2 => some (.stw o.d (o.x.setWidth 3) o.imm)
  | 3 => some (.sta (o.d.setWidth 3) (o.x.setWidth 3) o.imm)
  | _ => none

/-- The instructions of page 0, major 21, by minor. -/
def buildP0M21 (o : Opnds) : Nat → Option Instr
  | 0 => some (.aadd (o.d.setWidth 3) (o.x.setWidth 3) o.y)
  | 1 => some (.aadds (o.d.setWidth 3) (o.x.setWidth 3) o.y)
  | 2 => some (.asub o.d (o.x.setWidth 3) (o.y.setWidth 3))
  | 3 => some (.aeq o.d (o.x.setWidth 3) (o.y.setWidth 3))
  | _ => none

/-- The instructions of page 0, major 22, by minor. -/
def buildP0M22 (o : Opnds) : Nat → Option Instr
  | 0 => some (.aaddi (o.d.setWidth 3) o.imm)
  | _ => none

/-- The instructions of page 0, major 23, by minor. -/
def buildP0M23 (o : Opnds) : Nat → Option Instr
  | 0 => some (.spt o.d (o.x.setWidth 3))
  | 1 => some (.spcg (o.d.setWidth 3) (o.x.setWidth 3))
  | 2 => some (.spcb (o.d.setWidth 3) (o.x.setWidth 3))
  | 3 => some (.spcc (o.d.setWidth 3) (o.x.setWidth 3))
  | 4 => some (.spcs (o.d.setWidth 3) (o.x.setWidth 3))
  | 5 => some (.spcl (o.d.setWidth 3) (o.x.setWidth 3))
  | 6 => some (.mks (o.d.setWidth 3) o.x)
  | 7 => some (.mkc (o.d.setWidth 3) o.x)
  | 8 => some (.mkl (o.d.setWidth 3) o.x)
  | 9 => some (.amov (o.d.setWidth 3) (o.x.setWidth 3))
  | 10 => some (.azero (o.d.setWidth 3))
  | _ => none

/-- The instructions of page 0, major 24, by minor. -/
def buildP0M24 (o : Opnds) : Nat → Option Instr
  | 0 => some (.fadd o.d o.x o.y)
  | 1 => some (.fsub o.d o.x o.y)
  | 2 => some (.fmul o.d o.x o.y)
  | 3 => some (.ffma o.d o.x o.y)
  | _ => none

/-- The instructions of page 0, major 25, by minor. -/
def buildP0M25 (o : Opnds) : Nat → Option Instr
  | 0 => some (.fmin o.d o.x o.y)
  | 1 => some (.fmax o.d o.x o.y)
  | 2 => some (.fdiv o.d o.x o.y)
  | 3 => some (.feq o.d o.x o.y)
  | _ => none

/-- The instructions of page 0, major 26, by minor. -/
def buildP0M26 (o : Opnds) : Nat → Option Instr
  | 0 => some (.flt o.d o.x o.y)
  | 1 => some (.fle o.d o.x o.y)
  | 2 => some (.fun o.d o.x o.y)
  | 3 => some (.fsgn o.d o.x o.y)
  | _ => none

/-- The instructions of page 0, major 27, by minor. -/
def buildP0M27 (o : Opnds) : Nat → Option Instr
  | 0 => some (.fsqrt o.d o.x)
  | 1 => some (.fabs o.d o.x)
  | 2 => some (.fneg o.d o.x)
  | 3 => some (.fclass o.d o.x)
  | 4 => some (.fcvtws o.d o.x)
  | 5 => some (.fcvtus o.d o.x)
  | 6 => some (.fcvtsw o.d o.x)
  | 7 => some (.fcvtsu o.d o.x)
  | 8 => some (.fcvtbs o.d o.x)
  | 9 => some (.fcvtsb o.d o.x)
  | 10 => some (.fexp2 o.d o.x)
  | 11 => some (.flog2 o.d o.x)
  | 12 => some (.frcp o.d o.x)
  | 13 => some (.frsq o.d o.x)
  | _ => none

/-- The instructions of page 1, major 0, by minor. -/
def buildP1M0 (o : Opnds) : Nat → Option Instr
  | 0 => some (.vadd o.ty o.pr (o.d.setWidth 5) (o.x.setWidth 5) (o.y.setWidth 5))
  | 1 => some (.vsub o.ty o.pr (o.d.setWidth 5) (o.x.setWidth 5) (o.y.setWidth 5))
  | 2 => some (.vmul o.ty o.pr (o.d.setWidth 5) (o.x.setWidth 5) (o.y.setWidth 5))
  | 3 => some (.vfma o.ty o.pr (o.d.setWidth 5) (o.x.setWidth 5) (o.y.setWidth 5))
  | _ => none

/-- The instructions of page 1, major 1, by minor. -/
def buildP1M1 (o : Opnds) : Nat → Option Instr
  | 0 => some (.vmin o.ty o.pr (o.d.setWidth 5) (o.x.setWidth 5) (o.y.setWidth 5))
  | 1 => some (.vmax o.ty o.pr (o.d.setWidth 5) (o.x.setWidth 5) (o.y.setWidth 5))
  | 2 => some (.vdiv o.ty o.pr (o.d.setWidth 5) (o.x.setWidth 5) (o.y.setWidth 5))
  | 3 => some (.vabd o.ty o.pr (o.d.setWidth 5) (o.x.setWidth 5) (o.y.setWidth 5))
  | _ => none

/-- The instructions of page 1, major 2, by minor. -/
def buildP1M2 (o : Opnds) : Nat → Option Instr
  | 0 => some (.vand o.pr (o.d.setWidth 5) (o.x.setWidth 5) (o.y.setWidth 5))
  | 1 => some (.vor o.pr (o.d.setWidth 5) (o.x.setWidth 5) (o.y.setWidth 5))
  | 2 => some (.vxor o.pr (o.d.setWidth 5) (o.x.setWidth 5) (o.y.setWidth 5))
  | 3 => some (.vandn o.pr (o.d.setWidth 5) (o.x.setWidth 5) (o.y.setWidth 5))
  | _ => none

/-- The instructions of page 1, major 3, by minor. -/
def buildP1M3 (o : Opnds) : Nat → Option Instr
  | 0 => some (.vshl o.ty o.pr (o.d.setWidth 5) (o.x.setWidth 5) (o.y.setWidth 5))
  | 1 => some (.vshr o.ty o.pr (o.d.setWidth 5) (o.x.setWidth 5) (o.y.setWidth 5))
  | 2 => some (.vsra o.ty o.pr (o.d.setWidth 5) (o.x.setWidth 5) (o.y.setWidth 5))
  | 3 => some (.vmulh o.ty o.pr (o.d.setWidth 5) (o.x.setWidth 5) (o.y.setWidth 5))
  | _ => none

/-- The instructions of page 1, major 4, by minor. -/
def buildP1M4 (o : Opnds) : Nat → Option Instr
  | 0 => some (.vceq o.ty o.pr (o.d.setWidth 3) (o.x.setWidth 5) (o.y.setWidth 5))
  | 1 => some (.vclt o.ty o.pr (o.d.setWidth 3) (o.x.setWidth 5) (o.y.setWidth 5))
  | 2 => some (.vcle o.ty o.pr (o.d.setWidth 3) (o.x.setWidth 5) (o.y.setWidth 5))
  | 3 => some (.vcne o.ty o.pr (o.d.setWidth 3) (o.x.setWidth 5) (o.y.setWidth 5))
  | _ => none

/-- The instructions of page 1, major 5, by minor. -/
def buildP1M5 (o : Opnds) : Nat → Option Instr
  | 0 => some (.vsel o.pr (o.d.setWidth 5) (o.x.setWidth 5) (o.y.setWidth 5))
  | 1 => some (.vperm o.pr (o.d.setWidth 5) (o.x.setWidth 5) (o.y.setWidth 5))
  | 2 => some (.vseg o.ty o.pr (o.d.setWidth 5) (o.x.setWidth 5) (o.y.setWidth 3))
  | 3 => some (.vrot o.pr (o.d.setWidth 5) (o.x.setWidth 5) o.y)
  | _ => none

/-- The instructions of page 1, major 6, by minor. -/
def buildP1M6 (o : Opnds) : Nat → Option Instr
  | 0 => some (.vmov o.pr (o.d.setWidth 5) (o.x.setWidth 5))
  | 1 => some (.vneg o.ty o.pr (o.d.setWidth 5) (o.x.setWidth 5))
  | 2 => some (.vabs o.ty o.pr (o.d.setWidth 5) (o.x.setWidth 5))
  | 3 => some (.vrcp o.ty o.pr (o.d.setWidth 5) (o.x.setWidth 5))
  | 4 => some (.vrsq o.ty o.pr (o.d.setWidth 5) (o.x.setWidth 5))
  | 5 => some (.vsqrt o.ty o.pr (o.d.setWidth 5) (o.x.setWidth 5))
  | 6 => some (.vexp2 o.ty o.pr (o.d.setWidth 5) (o.x.setWidth 5))
  | 7 => some (.vlog2 o.ty o.pr (o.d.setWidth 5) (o.x.setWidth 5))
  | 8 => some (.vexp o.ty o.pr (o.d.setWidth 5) (o.x.setWidth 5))
  | 9 => some (.vlog o.ty o.pr (o.d.setWidth 5) (o.x.setWidth 5))
  | 10 => some (.vtanh o.ty o.pr (o.d.setWidth 5) (o.x.setWidth 5))
  | 11 => some (.vsig o.ty o.pr (o.d.setWidth 5) (o.x.setWidth 5))
  | 12 => some (.vsin o.ty o.pr (o.d.setWidth 5) (o.x.setWidth 5))
  | 13 => some (.vcos o.ty o.pr (o.d.setWidth 5) (o.x.setWidth 5))
  | 14 => some (.vflr o.ty o.pr (o.d.setWidth 5) (o.x.setWidth 5))
  | 15 => some (.vrnd o.ty o.pr (o.d.setWidth 5) (o.x.setWidth 5))
  | _ => none

/-- The instructions of page 1, major 7, by minor. -/
def buildP1M7 (o : Opnds) : Nat → Option Instr
  | 0 => some (.vcvt o.ty .f32 o.pr (o.d.setWidth 5) (o.x.setWidth 5))
  | 1 => some (.vcvt o.ty .bf16 o.pr (o.d.setWidth 5) (o.x.setWidth 5))
  | 2 => some (.vcvt o.ty .i32 o.pr (o.d.setWidth 5) (o.x.setWidth 5))
  | 3 => some (.vcvt o.ty .i16 o.pr (o.d.setWidth 5) (o.x.setWidth 5))
  | 4 => some (.vcvt o.ty .i8 o.pr (o.d.setWidth 5) (o.x.setWidth 5))
  | 5 => some (.vcvt o.ty .e4m3 o.pr (o.d.setWidth 5) (o.x.setWidth 5))
  | 6 => some (.vcvt o.ty .e5m2 o.pr (o.d.setWidth 5) (o.x.setWidth 5))
  | 7 => some (.vcvt o.ty .u32 o.pr (o.d.setWidth 5) (o.x.setWidth 5))
  | 8 => some (.vpk4 o.ty (o.d.setWidth 5) (o.x.setWidth 5))
  | 9 => some (.vup4 o.ty (o.d.setWidth 5) (o.x.setWidth 5))
  | 10 => some (.vpkm o.ty (o.d.setWidth 5) (o.x.setWidth 5))
  | 11 => some (.vupm o.ty (o.d.setWidth 5) (o.x.setWidth 5))
  | 12 => some (.vsrb o.pr (o.d.setWidth 5) (o.x.setWidth 5))
  | _ => none

/-- The instructions of page 1, major 8, by minor. -/
def buildP1M8 (o : Opnds) : Nat → Option Instr
  | 0 => some (.vbc o.ty o.pr (o.d.setWidth 5) o.x)
  | 1 => some (.vins o.pr (o.d.setWidth 5) o.x (o.imm.setWidth 5))
  | 2 => some (.vext o.d (o.x.setWidth 5) (o.imm.setWidth 5))
  | 3 => some (.viota o.ty o.pr (o.d.setWidth 5))
  | 4 => some (.vzip o.ty o.pr (o.d.setWidth 5) (o.x.setWidth 5))
  | 5 => some (.vuzp o.ty o.pr (o.d.setWidth 5) (o.x.setWidth 5))
  | _ => none

/-- The instructions of page 1, major 9, by minor. -/
def buildP1M9 (o : Opnds) : Nat → Option Instr
  | 0 => some (.vld o.pr (o.d.setWidth 5) (o.x.setWidth 3) o.imm)
  | 1 => some (.vldh o.pr (o.d.setWidth 5) (o.x.setWidth 3) o.imm)
  | 2 => some (.vlds o.ty o.pr (o.d.setWidth 5) (o.x.setWidth 3) o.imm)
  | 3 => some (.vgat o.ty o.pr (o.d.setWidth 5) (o.x.setWidth 3) o.imm)
  | 4 => some (.vldl o.ty o.pr (o.d.setWidth 5) (o.x.setWidth 3) o.imm)
  | 5 => some (.vldb o.ty o.pr (o.d.setWidth 5) (o.x.setWidth 3) o.imm)
  | _ => none

/-- The instructions of page 1, major 10, by minor. -/
def buildP1M10 (o : Opnds) : Nat → Option Instr
  | 0 => some (.vst o.pr (o.d.setWidth 5) (o.x.setWidth 3) o.imm)
  | 1 => some (.vsth o.pr (o.d.setWidth 5) (o.x.setWidth 3) o.imm)
  | 2 => some (.vsts o.ty o.pr (o.d.setWidth 5) (o.x.setWidth 3) o.imm)
  | 3 => some (.vsct o.ty o.pr (o.d.setWidth 5) (o.x.setWidth 3) o.imm)
  | 4 => some (.vstl o.ty o.pr (o.d.setWidth 5) (o.x.setWidth 3) o.imm)
  | _ => none

/-- The instructions of page 1, major 11, by minor. -/
def buildP1M11 (o : Opnds) : Nat → Option Instr
  | 0 => some (.pand (o.d.setWidth 3) (o.x.setWidth 3))
  | 1 => some (.por (o.d.setWidth 3) (o.x.setWidth 3))
  | 2 => some (.pxor (o.d.setWidth 3) (o.x.setWidth 3))
  | 3 => some (.pnot (o.d.setWidth 3) (o.x.setWidth 3))
  | 4 => some (.pcnt o.d (o.x.setWidth 3))
  | 5 => some (.pfst o.d (o.x.setWidth 3))
  | 6 => some (.plt (o.d.setWidth 3) o.x)
  | 7 => some (.pmov (o.d.setWidth 3) (o.x.setWidth 3))
  | _ => none

/-- The instructions of page 1, major 12, by minor. -/
def buildP1M12 (o : Opnds) : Nat → Option Instr
  | 0 => some (.vli o.ty o.pr (o.d.setWidth 5) o.imm)
  | _ => none

/-- The instructions of page 2, major 0, by minor. -/
noncomputable def buildP2M0 (o : Opnds) : Nat → Option Instr
  | 0 => some (.mma o.z (o.x.setWidth 3) (o.y.setWidth 3) o.acc o.bsrc o.chk)
  | _ => none

/-- The instructions of page 2, major 1, by minor. -/
noncomputable def buildP2M1 (o : Opnds) : Nat → Option Instr
  | 0 => some (.mmag o.z (o.x.setWidth 3) (o.y.setWidth 3) o.acc o.bsrc o.chk)
  | _ => none

/-- The instructions of page 2, major 2, by minor. -/
noncomputable def buildP2M2 (o : Opnds) : Nat → Option Instr
  | 0 => some (.msh o.d o.x)
  | 1 => some (.mfmt o.d o.x)
  | 2 => some (.mzero o.x)
  | 3 => some (.mwait o.x)
  | 4 => some (.mstat o.d)
  | 5 => some (.mtov o.pr (o.d.setWidth 5) o.x)
  | 6 => some (.vtom o.pr (o.d.setWidth 5) o.x)
  | _ => none

/-- The instructions of page 2, major 3, by minor. -/
noncomputable def buildP2M3 (o : Opnds) : Nat → Option Instr
  | 0 => some (.mst .f32 o.d (o.x.setWidth 3) o.imm)
  | 1 => some (.mst .bf16 o.d (o.x.setWidth 3) o.imm)
  | 2 => some (.mst .bf16sr o.d (o.x.setWidth 3) o.imm)
  | 3 => some (.mst .e4m3 o.d (o.x.setWidth 3) o.imm)
  | 4 => some (.mst .e5m2 o.d (o.x.setWidth 3) o.imm)
  | 5 => some (.mst .i32 o.d (o.x.setWidth 3) o.imm)
  | 6 => some (.mst .i8 o.d (o.x.setWidth 3) o.imm)
  | _ => none

/-- The instructions of page 2, major 4, by minor. -/
noncomputable def buildP2M4 (o : Opnds) : Nat → Option Instr
  | 0 => some (.mld .f32 o.d (o.x.setWidth 3) o.imm)
  | 1 => some (.mld .bf16 o.d (o.x.setWidth 3) o.imm)
  | _ => none

/-- The instructions of page 2, major 8, by minor. -/
noncomputable def buildP2M8 (o : Opnds) : Nat → Option Instr
  | 0 => some (.skinit o.ty (o.d.setWidth 2) o.x)
  | 1 => some (.skseed (o.d.setWidth 2) (o.x.setWidth 3))
  | 2 => some (.skclr (o.d.setWidth 2))
  | 3 => some (.skcpy (o.d.setWidth 2) (o.x.setWidth 2))
  | 4 => some (.skmrg (o.d.setWidth 2) (o.x.setWidth 2))
  | _ => none

/-- The instructions of page 2, major 9, by minor. -/
noncomputable def buildP2M9 (o : Opnds) : Nat → Option Instr
  | 0 => some (.skadd o.ty o.pr (o.d.setWidth 2) (o.x.setWidth 5))
  | _ => none

/-- The instructions of page 2, major 10, by minor. -/
noncomputable def buildP2M10 (o : Opnds) : Nat → Option Instr
  | 0 => some (.skq o.ty o.d (o.x.setWidth 2) o.y)
  | 1 => some (.skr o.ty o.d (o.x.setWidth 2) o.y)
  | 2 => some (.skhh o.ty o.d (o.x.setWidth 2) o.y)
  | 3 => some (.skhc o.d (o.x.setWidth 2) o.y)
  | _ => none

/-- The instructions of page 2, major 11, by minor. -/
noncomputable def buildP2M11 (o : Opnds) : Nat → Option Instr
  | 0 => some (.skcnt o.d (o.x.setWidth 2))
  | 1 => some (.skcnh o.d (o.x.setWidth 2))
  | 2 => some (.skdc o.ty o.d (o.x.setWidth 2))
  | 3 => some (.skmin o.ty o.d (o.x.setWidth 2))
  | 4 => some (.skmax o.ty o.d (o.x.setWidth 2))
  | 5 => some (.skmean o.ty o.d (o.x.setWidth 2))
  | 6 => some (.skvar o.ty o.d (o.x.setWidth 2))
  | 7 => some (.sksum o.ty o.d (o.x.setWidth 2))
  | 8 => some (.sklse o.ty o.d (o.x.setWidth 2))
  | 9 => some (.sknan o.d (o.x.setWidth 2))
  | _ => none

/-- The instructions of page 2, major 12, by minor. -/
noncomputable def buildP2M12 (o : Opnds) : Nat → Option Instr
  | 0 => some (.skld (o.d.setWidth 2) (o.x.setWidth 3) o.imm)
  | 1 => some (.skst (o.d.setWidth 2) (o.x.setWidth 3) o.imm)
  | 2 => some (.skldh (o.d.setWidth 2) (o.x.setWidth 3) o.imm)
  | _ => none

/-- The instructions of page 3, major 0, by minor. -/
noncomputable def buildP3M0 (o : Opnds) : Nat → Option Instr
  | 0 => some (.recv o.d (o.x.setWidth 3))
  | 1 => some (.peek o.d (o.x.setWidth 3))
  | 2 => some (.qcnt o.d (o.x.setWidth 3))
  | 3 => some (.qfree o.d (o.x.setWidth 3))
  | 4 => some (.qtag o.d (o.x.setWidth 3))
  | 5 => some (.qmark o.d (o.x.setWidth 3))
  | 6 => some (.drop (o.x.setWidth 3))
  | 7 => some (.vrecv (o.d.setWidth 5) (o.x.setWidth 3))
  | 8 => some (.recva (o.d.setWidth 3) (o.x.setWidth 3))
  | _ => none

/-- The instructions of page 3, major 1, by minor. -/
noncomputable def buildP3M1 (o : Opnds) : Nat → Option Instr
  | 0 => some (.send (o.d.setWidth 3) o.x (o.imm.setWidth 8))
  | _ => none

/-- The instructions of page 3, major 2, by minor. -/
noncomputable def buildP3M2 (o : Opnds) : Nat → Option Instr
  | 0 => some (.senda (o.d.setWidth 3) (o.x.setWidth 3))
  | 1 => some (.vsend (o.d.setWidth 3) (o.x.setWidth 5))
  | 2 => some (.sendm (o.d.setWidth 3) o.x)
  | _ => none

/-- The instructions of page 3, major 3, by minor. -/
noncomputable def buildP3M3 (o : Opnds) : Nat → Option Instr
  | 0 => some (.semw (o.d.setWidth 3) (o.imm.setWidth 5))
  | _ => none

/-- The instructions of page 3, major 4, by minor. -/
noncomputable def buildP3M4 (o : Opnds) : Nat → Option Instr
  | 0 => some (.sems (o.d.setWidth 3) (o.imm.setWidth 5))
  | _ => none

/-- The instructions of page 3, major 5, by minor. -/
noncomputable def buildP3M5 (o : Opnds) : Nat → Option Instr
  | 0 => some (.semt o.d (o.imm.setWidth 5))
  | _ => none

/-- The instructions of page 3, major 6, by minor. -/
noncomputable def buildP3M6 (o : Opnds) : Nat → Option Instr
  | 0 => some (.bara (o.d.setWidth 3) o.x)
  | 1 => some (.barw o.d (o.x.setWidth 3))
  | 2 => some (.bars o.sc (o.d.setWidth 3) o.x)
  | 3 => some (.barq o.d (o.x.setWidth 3))
  | _ => none

/-- The instructions of page 3, major 7, by minor. -/
noncomputable def buildP3M7 (o : Opnds) : Nat → Option Instr
  | 0 => some (.fence o.sc)
  | 1 => some (.pub o.sc o.d o.x)
  | 2 => some (.pubw o.sc o.d o.x)
  | 3 => some (.trig (o.d.setWidth 3) o.x)
  | 4 => some (.cinv (o.x.setWidth 3))
  | 5 => some (.ccln (o.x.setWidth 3))
  | 6 => some (.cfls)
  | 7 => some (.tlbp o.d (o.x.setWidth 3))
  | _ => none

/-- The instructions of page 3, major 8, by minor. -/
noncomputable def buildP3M8 (o : Opnds) : Nat → Option Instr
  | 0 => some (.amoadd o.sc o.d (o.x.setWidth 3) o.y)
  | 1 => some (.amoand o.sc o.d (o.x.setWidth 3) o.y)
  | 2 => some (.amoor o.sc o.d (o.x.setWidth 3) o.y)
  | 3 => some (.amoxor o.sc o.d (o.x.setWidth 3) o.y)
  | _ => none

/-- The instructions of page 3, major 9, by minor. -/
noncomputable def buildP3M9 (o : Opnds) : Nat → Option Instr
  | 0 => some (.amomin o.sc o.d (o.x.setWidth 3) o.y)
  | 1 => some (.amomax o.sc o.d (o.x.setWidth 3) o.y)
  | 2 => some (.amominu o.sc o.d (o.x.setWidth 3) o.y)
  | 3 => some (.amomaxu o.sc o.d (o.x.setWidth 3) o.y)
  | _ => none

/-- The instructions of page 3, major 10, by minor. -/
noncomputable def buildP3M10 (o : Opnds) : Nat → Option Instr
  | 0 => some (.amoswp o.sc o.d (o.x.setWidth 3) o.y)
  | 1 => some (.amocas o.sc o.d (o.x.setWidth 3) o.y)
  | 2 => some (.amofadd o.sc o.d (o.x.setWidth 3) o.y)
  | 3 => some (.amofmax o.sc o.d (o.x.setWidth 3) o.y)
  | _ => none

/-- The instructions of page 3, major 11, by minor. -/
noncomputable def buildP3M11 (o : Opnds) : Nat → Option Instr
  | 0 => some (.cpy (o.d.setWidth 3) (o.x.setWidth 3) o.y)
  | 1 => some (.cpyr o.d (o.x.setWidth 3) o.y)
  | _ => none

/-- The instructions of page 3, major 12, by minor. -/
noncomputable def buildP3M12 (o : Opnds) : Nat → Option Instr
  | 0 => some (.cpyw o.x)
  | 1 => some (.cpys o.d o.x)
  | 2 => some (.cpyxResume o.x)
  | 3 => some (.ringb o.d o.x)
  | 4 => some (.ringq o.d o.x)
  | _ => none

/-- The instructions of page 3, major 13, by minor. -/
noncomputable def buildP3M13 (o : Opnds) : Nat → Option Instr
  | 0 => some (.amsg o.d (o.x.setWidth 3) o.y)
  | 1 => some (.mrpl o.x)
  | 2 => some (.mhend o.x)
  | _ => none

/-- The instructions of page 3, major 14, by minor. -/
noncomputable def buildP3M14 (o : Opnds) : Nat → Option Instr
  | 0 => some (.colset o.sc o.d o.x)
  | 1 => some (.colfr o.x)
  | 2 => some (.colw o.d o.x)
  | 3 => some (.cols o.d o.x)
  | _ => none

/-- The instructions of page 3, major 15, by minor. -/
noncomputable def buildP3M15 (o : Opnds) : Nat → Option Instr
  | 0 => some (.tick (o.d.setWidth 3))
  | 1 => some (.cyc (o.d.setWidth 3))
  | 2 => some (.waitt (o.x.setWidth 3))
  | 3 => some (.waitc (o.x.setWidth 3))
  | _ => none

/-- The instructions of page 4, major 0, by minor. -/
noncomputable def buildP4M0 (o : Opnds) : Nat → Option Instr
  | 0 => some (.trap o.d (o.imm.setWidth 8))
  | _ => none

/-- The instructions of page 4, major 2, by minor. -/
noncomputable def buildP4M2 (o : Opnds) : Nat → Option Instr
  | 0 => some (.mfk o.d (o.imm.setWidth 10))
  | _ => none

/-- The instructions of page 4, major 3, by minor. -/
noncomputable def buildP4M3 (o : Opnds) : Nat → Option Instr
  | 0 => some (.mtk o.d (o.imm.setWidth 10))
  | _ => none

/-- The instructions of page 4, major 4, by minor. -/
noncomputable def buildP4M4 (o : Opnds) : Nat → Option Instr
  | 0 => some (.eret)
  | 1 => some (.idle o.d)
  | 2 => some (.tlbi (o.x.setWidth 3))
  | 3 => some (.tlba)
  | 4 => some (.ctxs)
  | 5 => some (.ctxl)
  | 6 => some (.tqp o.x)
  | 7 => some (.ltrcRead o.d o.x)
  | 8 => some (.strk o.x)
  | _ => none

/-- The instructions of page 0, by major. -/
def buildPage0 (o : Opnds) (minor : Nat) : Nat → Option Instr
  | 0 => buildP0M0 o minor
  | 1 => buildP0M1 o minor
  | 2 => buildP0M2 o minor
  | 3 => buildP0M3 o minor
  | 4 => buildP0M4 o minor
  | 5 => buildP0M5 o minor
  | 6 => buildP0M6 o minor
  | 7 => buildP0M7 o minor
  | 8 => buildP0M8 o minor
  | 9 => buildP0M9 o minor
  | 10 => buildP0M10 o minor
  | 11 => buildP0M11 o minor
  | 12 => buildP0M12 o minor
  | 13 => buildP0M13 o minor
  | 14 => buildP0M14 o minor
  | 15 => buildP0M15 o minor
  | 16 => buildP0M16 o minor
  | 17 => buildP0M17 o minor
  | 18 => buildP0M18 o minor
  | 19 => buildP0M19 o minor
  | 20 => buildP0M20 o minor
  | 21 => buildP0M21 o minor
  | 22 => buildP0M22 o minor
  | 23 => buildP0M23 o minor
  | 24 => buildP0M24 o minor
  | 25 => buildP0M25 o minor
  | 26 => buildP0M26 o minor
  | 27 => buildP0M27 o minor
  | _ => none

/-- The instructions of page 1, by major. -/
def buildPage1 (o : Opnds) (minor : Nat) : Nat → Option Instr
  | 0 => buildP1M0 o minor
  | 1 => buildP1M1 o minor
  | 2 => buildP1M2 o minor
  | 3 => buildP1M3 o minor
  | 4 => buildP1M4 o minor
  | 5 => buildP1M5 o minor
  | 6 => buildP1M6 o minor
  | 7 => buildP1M7 o minor
  | 8 => buildP1M8 o minor
  | 9 => buildP1M9 o minor
  | 10 => buildP1M10 o minor
  | 11 => buildP1M11 o minor
  | 12 => buildP1M12 o minor
  | _ => none

/-- The instructions of page 2, by major. -/
noncomputable def buildPage2 (o : Opnds) (minor : Nat) : Nat → Option Instr
  | 0 => buildP2M0 o minor
  | 1 => buildP2M1 o minor
  | 2 => buildP2M2 o minor
  | 3 => buildP2M3 o minor
  | 4 => buildP2M4 o minor
  | 8 => buildP2M8 o minor
  | 9 => buildP2M9 o minor
  | 10 => buildP2M10 o minor
  | 11 => buildP2M11 o minor
  | 12 => buildP2M12 o minor
  | _ => none

/-- The instructions of page 3, by major. -/
noncomputable def buildPage3 (o : Opnds) (minor : Nat) : Nat → Option Instr
  | 0 => buildP3M0 o minor
  | 1 => buildP3M1 o minor
  | 2 => buildP3M2 o minor
  | 3 => buildP3M3 o minor
  | 4 => buildP3M4 o minor
  | 5 => buildP3M5 o minor
  | 6 => buildP3M6 o minor
  | 7 => buildP3M7 o minor
  | 8 => buildP3M8 o minor
  | 9 => buildP3M9 o minor
  | 10 => buildP3M10 o minor
  | 11 => buildP3M11 o minor
  | 12 => buildP3M12 o minor
  | 13 => buildP3M13 o minor
  | 14 => buildP3M14 o minor
  | 15 => buildP3M15 o minor
  | _ => none

/-- The instructions of page 4, by major. -/
noncomputable def buildPage4 (o : Opnds) (minor : Nat) : Nat → Option Instr
  | 0 => buildP4M0 o minor
  | 2 => buildP4M2 o minor
  | 3 => buildP4M3 o minor
  | 4 => buildP4M4 o minor
  | _ => none

/-- The instruction at a place of the map with its operand fields. -/
noncomputable def Instr.build (k : RowKey) (o : Opnds) : Option Instr :=
  match k.page with
  | 0 => buildPage0 o k.minor k.major
  | 1 => buildPage1 o k.minor k.major
  | 2 => buildPage2 o k.minor k.major
  | 3 => buildPage3 o k.minor k.major
  | 4 => buildPage4 o k.minor k.major
  | _ => none

/-- The decoder: the words from a program counter onward. -/
noncomputable def decode (ws : List Half) : Decoded :=
  match decodeRaw ws with
  | .short => .short
  | .bad why k w len => .bad why k w len
  | .ok k o len base =>
    match Instr.build k o with
    | some i => .ok i len base
    | none => .bad .noMinor (len - 1) base len

/-- Words from bytes, little-endian (R15); a byte without its partner is no word. -/
def halves : List Byte → List Half
  | lo :: hi :: bs => (hi ++ lo) :: halves bs
  | _ => []

/-- The decoder on bytes. -/
noncomputable def decodeBytes (bs : List Byte) : Decoded := decode (halves bs)

/-- The instruction of a row of spec/opcode_table.json given by its bits. The table writes a two-word row with its first
word, a prefix, in the high half; the first word is the half that is a prefix (log 1). -/
def tableHalves (nbits w : Nat) : List Half :=
  if nbits ≤ 16 then [BitVec.ofNat 16 w]
  else if isPrefix (BitVec.ofNat 16 (w / 65536)) then [BitVec.ofNat 16 (w / 65536), BitVec.ofNat 16 w]
  else [BitVec.ofNat 16 w, BitVec.ofNat 16 (w / 65536)]

/-- The instruction the decoder reads from the words of a table row. -/
noncomputable def decodeTableWord (nbits w : Nat) : Option Instr :=
  match decode (tableHalves nbits w) with
  | .ok i _ _ => some i
  | _ => none

/-! ## The encoder -/

/-- The row and the operand fields of an instruction: the inverse of `Instr.build`; an event has none.
The four instructions that share their words with another (R343, R401) give that other's row. -/
def Instr.enc : Instr → Option (RowKey × Opnds)
  | .mov d x => some (⟨0, 0, 0⟩, { d := d, x := x })
  | .not d x => some (⟨0, 0, 1⟩, { d := d, x := x })
  | .neg d x => some (⟨0, 0, 2⟩, { d := d, x := x })
  | .abs d x => some (⟨0, 0, 3⟩, { d := d, x := x })
  | .clz d x => some (⟨0, 0, 4⟩, { d := d, x := x })
  | .ctz d x => some (⟨0, 0, 5⟩, { d := d, x := x })
  | .popc d x => some (⟨0, 0, 6⟩, { d := d, x := x })
  | .brev d x => some (⟨0, 0, 7⟩, { d := d, x := x })
  | .sexb d x => some (⟨0, 0, 8⟩, { d := d, x := x })
  | .sexh d x => some (⟨0, 0, 9⟩, { d := d, x := x })
  | .zexb d x => some (⟨0, 0, 10⟩, { d := d, x := x })
  | .zexh d x => some (⟨0, 0, 11⟩, { d := d, x := x })
  | .glo d x => some (⟨0, 0, 12⟩, { d := d, x := x.setWidth 6 })
  | .ghi d x => some (⟨0, 0, 13⟩, { d := d, x := x.setWidth 6 })
  | .alo d x => some (⟨0, 0, 14⟩, { d := d.setWidth 6, x := x })
  | .ahi d x => some (⟨0, 0, 15⟩, { d := d.setWidth 6, x := x })
  | .add d x y => some (⟨0, 1, 0⟩, { d := d, x := x, y := y })
  | .sub d x y => some (⟨0, 1, 1⟩, { d := d, x := x, y := y })
  | .and d x y => some (⟨0, 1, 2⟩, { d := d, x := x, y := y })
  | .or d x y => some (⟨0, 1, 3⟩, { d := d, x := x, y := y })
  | .xor d x y => some (⟨0, 2, 0⟩, { d := d, x := x, y := y })
  | .sll d x y => some (⟨0, 2, 1⟩, { d := d, x := x, y := y })
  | .srl d x y => some (⟨0, 2, 2⟩, { d := d, x := x, y := y })
  | .sra d x y => some (⟨0, 2, 3⟩, { d := d, x := x, y := y })
  | .mul d x y => some (⟨0, 3, 0⟩, { d := d, x := x, y := y })
  | .mulh d x y => some (⟨0, 3, 1⟩, { d := d, x := x, y := y })
  | .mulhu d x y => some (⟨0, 3, 2⟩, { d := d, x := x, y := y })
  | .ror d x y => some (⟨0, 3, 3⟩, { d := d, x := x, y := y })
  | .div d x y => some (⟨0, 4, 0⟩, { d := d, x := x, y := y })
  | .divu d x y => some (⟨0, 4, 1⟩, { d := d, x := x, y := y })
  | .rem d x y => some (⟨0, 4, 2⟩, { d := d, x := x, y := y })
  | .remu d x y => some (⟨0, 4, 3⟩, { d := d, x := x, y := y })
  | .slt d x y => some (⟨0, 5, 0⟩, { d := d, x := x, y := y })
  | .sltu d x y => some (⟨0, 5, 1⟩, { d := d, x := x, y := y })
  | .seq d x y => some (⟨0, 5, 2⟩, { d := d, x := x, y := y })
  | .sne d x y => some (⟨0, 5, 3⟩, { d := d, x := x, y := y })
  | .min d x y => some (⟨0, 6, 0⟩, { d := d, x := x, y := y })
  | .max d x y => some (⟨0, 6, 1⟩, { d := d, x := x, y := y })
  | .minu d x y => some (⟨0, 6, 2⟩, { d := d, x := x, y := y })
  | .maxu d x y => some (⟨0, 6, 3⟩, { d := d, x := x, y := y })
  | .addi d imm => some (⟨0, 7, 0⟩, { d := d, imm := imm })
  | .li d imm => some (⟨0, 8, 0⟩, { d := d, imm := imm })
  | .andi d imm => some (⟨0, 9, 0⟩, { d := d, imm := imm })
  | .ori d imm => some (⟨0, 10, 0⟩, { d := d, imm := imm })
  | .xori d imm => some (⟨0, 11, 0⟩, { d := d, imm := imm })
  | .slli d amount => some (⟨0, 12, 0⟩, { d := d, imm := amount.setWidth 64 })
  | .srli d amount => some (⟨0, 12, 1⟩, { d := d, imm := amount.setWidth 64 })
  | .srai d amount => some (⟨0, 12, 2⟩, { d := d, imm := amount.setWidth 64 })
  | .rori d amount => some (⟨0, 12, 3⟩, { d := d, imm := amount.setWidth 64 })
  | .beqz x imm => some (⟨0, 13, 0⟩, { x := x, imm := imm })
  | .bnez x imm => some (⟨0, 13, 1⟩, { x := x, imm := imm })
  | .bltz x imm => some (⟨0, 13, 2⟩, { x := x, imm := imm })
  | .bgez x imm => some (⟨0, 13, 3⟩, { x := x, imm := imm })
  | .bgtz x imm => some (⟨0, 13, 4⟩, { x := x, imm := imm })
  | .blez x imm => some (⟨0, 13, 5⟩, { x := x, imm := imm })
  | .beq x y imm => some (⟨0, 14, 0⟩, { x := x, y := y, imm := imm })
  | .bne x y imm => some (⟨0, 14, 1⟩, { x := x, y := y, imm := imm })
  | .blt x y imm => some (⟨0, 14, 2⟩, { x := x, y := y, imm := imm })
  | .bge x y imm => some (⟨0, 14, 3⟩, { x := x, y := y, imm := imm })
  | .bltu x y imm => some (⟨0, 14, 4⟩, { x := x, y := y, imm := imm })
  | .bgeu x y imm => some (⟨0, 14, 5⟩, { x := x, y := y, imm := imm })
  | .j imm => some (⟨0, 15, 0⟩, { imm := imm })
  | .jal imm => some (⟨0, 16, 0⟩, { imm := imm })
  | .jr x => some (⟨0, 17, 0⟩, { x := x })
  | .jalr d x => some (⟨0, 17, 1⟩, { d := d, x := x })
  | .ret => some (⟨0, 17, 2⟩, { })
  | .hend => some (⟨0, 17, 3⟩, { })
  | .halt => some (⟨0, 17, 4⟩, { })
  | .nop => some (⟨0, 17, 5⟩, { })
  | .brk => some (⟨0, 17, 6⟩, { })
  | .loop d len => some (⟨0, 18, 0⟩, { d := d, imm := len.setWidth 64 })
  | .ldb d x imm => some (⟨0, 19, 0⟩, { d := d, x := x.setWidth 6, imm := imm })
  | .ldbu d x imm => some (⟨0, 19, 1⟩, { d := d, x := x.setWidth 6, imm := imm })
  | .ldh d x imm => some (⟨0, 19, 2⟩, { d := d, x := x.setWidth 6, imm := imm })
  | .ldhu d x imm => some (⟨0, 19, 3⟩, { d := d, x := x.setWidth 6, imm := imm })
  | .ldw d x imm => some (⟨0, 19, 4⟩, { d := d, x := x.setWidth 6, imm := imm })
  | .lda d x imm => some (⟨0, 19, 5⟩, { d := d.setWidth 6, x := x.setWidth 6, imm := imm })
  | .stb d x imm => some (⟨0, 20, 0⟩, { d := d, x := x.setWidth 6, imm := imm })
  | .sth d x imm => some (⟨0, 20, 1⟩, { d := d, x := x.setWidth 6, imm := imm })
  | .stw d x imm => some (⟨0, 20, 2⟩, { d := d, x := x.setWidth 6, imm := imm })
  | .sta d x imm => some (⟨0, 20, 3⟩, { d := d.setWidth 6, x := x.setWidth 6, imm := imm })
  | .aadd d x y => some (⟨0, 21, 0⟩, { d := d.setWidth 6, x := x.setWidth 6, y := y })
  | .aadds d x y => some (⟨0, 21, 1⟩, { d := d.setWidth 6, x := x.setWidth 6, y := y })
  | .asub d x y => some (⟨0, 21, 2⟩, { d := d, x := x.setWidth 6, y := y.setWidth 6 })
  | .aeq d x y => some (⟨0, 21, 3⟩, { d := d, x := x.setWidth 6, y := y.setWidth 6 })
  | .aaddi d imm => some (⟨0, 22, 0⟩, { d := d.setWidth 6, imm := imm })
  | .spt d x => some (⟨0, 23, 0⟩, { d := d, x := x.setWidth 6 })
  | .spcg d x => some (⟨0, 23, 1⟩, { d := d.setWidth 6, x := x.setWidth 6 })
  | .spcb d x => some (⟨0, 23, 2⟩, { d := d.setWidth 6, x := x.setWidth 6 })
  | .spcc d x => some (⟨0, 23, 3⟩, { d := d.setWidth 6, x := x.setWidth 6 })
  | .spcs d x => some (⟨0, 23, 4⟩, { d := d.setWidth 6, x := x.setWidth 6 })
  | .spcl d x => some (⟨0, 23, 5⟩, { d := d.setWidth 6, x := x.setWidth 6 })
  | .mks d x => some (⟨0, 23, 6⟩, { d := d.setWidth 6, x := x })
  | .mkc d x => some (⟨0, 23, 7⟩, { d := d.setWidth 6, x := x })
  | .mkl d x => some (⟨0, 23, 8⟩, { d := d.setWidth 6, x := x })
  | .amov d x => some (⟨0, 23, 9⟩, { d := d.setWidth 6, x := x.setWidth 6 })
  | .azero d => some (⟨0, 23, 10⟩, { d := d.setWidth 6 })
  | .fadd d x y => some (⟨0, 24, 0⟩, { d := d, x := x, y := y })
  | .fsub d x y => some (⟨0, 24, 1⟩, { d := d, x := x, y := y })
  | .fmul d x y => some (⟨0, 24, 2⟩, { d := d, x := x, y := y })
  | .ffma d x y => some (⟨0, 24, 3⟩, { d := d, x := x, y := y })
  | .fmin d x y => some (⟨0, 25, 0⟩, { d := d, x := x, y := y })
  | .fmax d x y => some (⟨0, 25, 1⟩, { d := d, x := x, y := y })
  | .fdiv d x y => some (⟨0, 25, 2⟩, { d := d, x := x, y := y })
  | .feq d x y => some (⟨0, 25, 3⟩, { d := d, x := x, y := y })
  | .flt d x y => some (⟨0, 26, 0⟩, { d := d, x := x, y := y })
  | .fle d x y => some (⟨0, 26, 1⟩, { d := d, x := x, y := y })
  | .fun d x y => some (⟨0, 26, 2⟩, { d := d, x := x, y := y })
  | .fsgn d x y => some (⟨0, 26, 3⟩, { d := d, x := x, y := y })
  | .fsqrt d x => some (⟨0, 27, 0⟩, { d := d, x := x })
  | .fabs d x => some (⟨0, 27, 1⟩, { d := d, x := x })
  | .fneg d x => some (⟨0, 27, 2⟩, { d := d, x := x })
  | .fclass d x => some (⟨0, 27, 3⟩, { d := d, x := x })
  | .fcvtws d x => some (⟨0, 27, 4⟩, { d := d, x := x })
  | .fcvtus d x => some (⟨0, 27, 5⟩, { d := d, x := x })
  | .fcvtsw d x => some (⟨0, 27, 6⟩, { d := d, x := x })
  | .fcvtsu d x => some (⟨0, 27, 7⟩, { d := d, x := x })
  | .fcvtbs d x => some (⟨0, 27, 8⟩, { d := d, x := x })
  | .fcvtsb d x => some (⟨0, 27, 9⟩, { d := d, x := x })
  | .fexp2 d x => some (⟨0, 27, 10⟩, { d := d, x := x })
  | .flog2 d x => some (⟨0, 27, 11⟩, { d := d, x := x })
  | .frcp d x => some (⟨0, 27, 12⟩, { d := d, x := x })
  | .frsq d x => some (⟨0, 27, 13⟩, { d := d, x := x })
  | .vadd t p d x y => some (⟨1, 0, 0⟩, { ty := t, pr := p, d := d.setWidth 6, x := x.setWidth 6, y := y.setWidth 6 })
  | .vsub t p d x y => some (⟨1, 0, 1⟩, { ty := t, pr := p, d := d.setWidth 6, x := x.setWidth 6, y := y.setWidth 6 })
  | .vmul t p d x y => some (⟨1, 0, 2⟩, { ty := t, pr := p, d := d.setWidth 6, x := x.setWidth 6, y := y.setWidth 6 })
  | .vfma t p d x y => some (⟨1, 0, 3⟩, { ty := t, pr := p, d := d.setWidth 6, x := x.setWidth 6, y := y.setWidth 6 })
  | .vmin t p d x y => some (⟨1, 1, 0⟩, { ty := t, pr := p, d := d.setWidth 6, x := x.setWidth 6, y := y.setWidth 6 })
  | .vmax t p d x y => some (⟨1, 1, 1⟩, { ty := t, pr := p, d := d.setWidth 6, x := x.setWidth 6, y := y.setWidth 6 })
  | .vdiv t p d x y => some (⟨1, 1, 2⟩, { ty := t, pr := p, d := d.setWidth 6, x := x.setWidth 6, y := y.setWidth 6 })
  | .vabd t p d x y => some (⟨1, 1, 3⟩, { ty := t, pr := p, d := d.setWidth 6, x := x.setWidth 6, y := y.setWidth 6 })
  | .vand p d x y => some (⟨1, 2, 0⟩, { pr := p, d := d.setWidth 6, x := x.setWidth 6, y := y.setWidth 6 })
  | .vor p d x y => some (⟨1, 2, 1⟩, { pr := p, d := d.setWidth 6, x := x.setWidth 6, y := y.setWidth 6 })
  | .vxor p d x y => some (⟨1, 2, 2⟩, { pr := p, d := d.setWidth 6, x := x.setWidth 6, y := y.setWidth 6 })
  | .vandn p d x y => some (⟨1, 2, 3⟩, { pr := p, d := d.setWidth 6, x := x.setWidth 6, y := y.setWidth 6 })
  | .vshl t p d x y => some (⟨1, 3, 0⟩, { ty := t, pr := p, d := d.setWidth 6, x := x.setWidth 6, y := y.setWidth 6 })
  | .vshr t p d x y => some (⟨1, 3, 1⟩, { ty := t, pr := p, d := d.setWidth 6, x := x.setWidth 6, y := y.setWidth 6 })
  | .vsra t p d x y => some (⟨1, 3, 2⟩, { ty := t, pr := p, d := d.setWidth 6, x := x.setWidth 6, y := y.setWidth 6 })
  | .vmulh t p d x y => some (⟨1, 3, 3⟩, { ty := t, pr := p, d := d.setWidth 6, x := x.setWidth 6, y := y.setWidth 6 })
  | .vceq t p d x y => some (⟨1, 4, 0⟩, { ty := t, pr := p, d := d.setWidth 6, x := x.setWidth 6, y := y.setWidth 6 })
  | .vclt t p d x y => some (⟨1, 4, 1⟩, { ty := t, pr := p, d := d.setWidth 6, x := x.setWidth 6, y := y.setWidth 6 })
  | .vcle t p d x y => some (⟨1, 4, 2⟩, { ty := t, pr := p, d := d.setWidth 6, x := x.setWidth 6, y := y.setWidth 6 })
  | .vcne t p d x y => some (⟨1, 4, 3⟩, { ty := t, pr := p, d := d.setWidth 6, x := x.setWidth 6, y := y.setWidth 6 })
  | .vsel p d x y => some (⟨1, 5, 0⟩, { pr := p, d := d.setWidth 6, x := x.setWidth 6, y := y.setWidth 6 })
  | .vperm p d x y => some (⟨1, 5, 1⟩, { pr := p, d := d.setWidth 6, x := x.setWidth 6, y := y.setWidth 6 })
  | .vseg t p d x n => some (⟨1, 5, 2⟩, { ty := t, pr := p, d := d.setWidth 6, x := x.setWidth 6, y := n.setWidth 6 })
  | .vrot p d x y => some (⟨1, 5, 3⟩, { pr := p, d := d.setWidth 6, x := x.setWidth 6, y := y })
  | .vmov p d x => some (⟨1, 6, 0⟩, { pr := p, d := d.setWidth 6, x := x.setWidth 6 })
  | .vneg t p d x => some (⟨1, 6, 1⟩, { ty := t, pr := p, d := d.setWidth 6, x := x.setWidth 6 })
  | .vabs t p d x => some (⟨1, 6, 2⟩, { ty := t, pr := p, d := d.setWidth 6, x := x.setWidth 6 })
  | .vrcp t p d x => some (⟨1, 6, 3⟩, { ty := t, pr := p, d := d.setWidth 6, x := x.setWidth 6 })
  | .vrsq t p d x => some (⟨1, 6, 4⟩, { ty := t, pr := p, d := d.setWidth 6, x := x.setWidth 6 })
  | .vsqrt t p d x => some (⟨1, 6, 5⟩, { ty := t, pr := p, d := d.setWidth 6, x := x.setWidth 6 })
  | .vexp2 t p d x => some (⟨1, 6, 6⟩, { ty := t, pr := p, d := d.setWidth 6, x := x.setWidth 6 })
  | .vlog2 t p d x => some (⟨1, 6, 7⟩, { ty := t, pr := p, d := d.setWidth 6, x := x.setWidth 6 })
  | .vexp t p d x => some (⟨1, 6, 8⟩, { ty := t, pr := p, d := d.setWidth 6, x := x.setWidth 6 })
  | .vlog t p d x => some (⟨1, 6, 9⟩, { ty := t, pr := p, d := d.setWidth 6, x := x.setWidth 6 })
  | .vtanh t p d x => some (⟨1, 6, 10⟩, { ty := t, pr := p, d := d.setWidth 6, x := x.setWidth 6 })
  | .vsig t p d x => some (⟨1, 6, 11⟩, { ty := t, pr := p, d := d.setWidth 6, x := x.setWidth 6 })
  | .vsin t p d x => some (⟨1, 6, 12⟩, { ty := t, pr := p, d := d.setWidth 6, x := x.setWidth 6 })
  | .vcos t p d x => some (⟨1, 6, 13⟩, { ty := t, pr := p, d := d.setWidth 6, x := x.setWidth 6 })
  | .vflr t p d x => some (⟨1, 6, 14⟩, { ty := t, pr := p, d := d.setWidth 6, x := x.setWidth 6 })
  | .vrnd t p d x => some (⟨1, 6, 15⟩, { ty := t, pr := p, d := d.setWidth 6, x := x.setWidth 6 })
  | .vcvt s t p d x => some (⟨1, 7, t.code⟩, { ty := s, pr := p, d := d.setWidth 6, x := x.setWidth 6 })
  | .vpk4 t d x => some (⟨1, 7, 8⟩, { ty := t, d := d.setWidth 6, x := x.setWidth 6 })
  | .vup4 t d x => some (⟨1, 7, 9⟩, { ty := t, d := d.setWidth 6, x := x.setWidth 6 })
  | .vpkm t d x => some (⟨1, 7, 10⟩, { ty := t, d := d.setWidth 6, x := x.setWidth 6 })
  | .vupm t d x => some (⟨1, 7, 11⟩, { ty := t, d := d.setWidth 6, x := x.setWidth 6 })
  | .vsrb p d x => some (⟨1, 7, 12⟩, { pr := p, d := d.setWidth 6, x := x.setWidth 6 })
  | .vbc t p d x => some (⟨1, 8, 0⟩, { ty := t, pr := p, d := d.setWidth 6, x := x })
  | .vins p d x lane => some (⟨1, 8, 1⟩, { pr := p, d := d.setWidth 6, x := x, imm := lane.setWidth 64 })
  | .vext d x lane => some (⟨1, 8, 2⟩, { d := d, x := x.setWidth 6, imm := lane.setWidth 64 })
  | .viota t p d => some (⟨1, 8, 3⟩, { ty := t, pr := p, d := d.setWidth 6 })
  | .vzip t p d x => some (⟨1, 8, 4⟩, { ty := t, pr := p, d := d.setWidth 6, x := x.setWidth 6 })
  | .vuzp t p d x => some (⟨1, 8, 5⟩, { ty := t, pr := p, d := d.setWidth 6, x := x.setWidth 6 })
  | .vld p d x imm => some (⟨1, 9, 0⟩, { pr := p, d := d.setWidth 6, x := x.setWidth 6, imm := imm })
  | .vldh p d x imm => some (⟨1, 9, 1⟩, { pr := p, d := d.setWidth 6, x := x.setWidth 6, imm := imm })
  | .vlds t p d x imm => some (⟨1, 9, 2⟩, { ty := t, pr := p, d := d.setWidth 6, x := x.setWidth 6, imm := imm })
  | .vgat t p d x imm => some (⟨1, 9, 3⟩, { ty := t, pr := p, d := d.setWidth 6, x := x.setWidth 6, imm := imm })
  | .vldl t p d x imm => some (⟨1, 9, 4⟩, { ty := t, pr := p, d := d.setWidth 6, x := x.setWidth 6, imm := imm })
  | .vldb t p d x imm => some (⟨1, 9, 5⟩, { ty := t, pr := p, d := d.setWidth 6, x := x.setWidth 6, imm := imm })
  | .vst p d x imm => some (⟨1, 10, 0⟩, { pr := p, d := d.setWidth 6, x := x.setWidth 6, imm := imm })
  | .vsth p d x imm => some (⟨1, 10, 1⟩, { pr := p, d := d.setWidth 6, x := x.setWidth 6, imm := imm })
  | .vsts t p d x imm => some (⟨1, 10, 2⟩, { ty := t, pr := p, d := d.setWidth 6, x := x.setWidth 6, imm := imm })
  | .vsct t p d x imm => some (⟨1, 10, 3⟩, { ty := t, pr := p, d := d.setWidth 6, x := x.setWidth 6, imm := imm })
  | .vstl t p d x imm => some (⟨1, 10, 4⟩, { ty := t, pr := p, d := d.setWidth 6, x := x.setWidth 6, imm := imm })
  | .pand d x => some (⟨1, 11, 0⟩, { d := d.setWidth 6, x := x.setWidth 6 })
  | .por d x => some (⟨1, 11, 1⟩, { d := d.setWidth 6, x := x.setWidth 6 })
  | .pxor d x => some (⟨1, 11, 2⟩, { d := d.setWidth 6, x := x.setWidth 6 })
  | .pnot d x => some (⟨1, 11, 3⟩, { d := d.setWidth 6, x := x.setWidth 6 })
  | .pcnt d x => some (⟨1, 11, 4⟩, { d := d, x := x.setWidth 6 })
  | .pfst d x => some (⟨1, 11, 5⟩, { d := d, x := x.setWidth 6 })
  | .plt d x => some (⟨1, 11, 6⟩, { d := d.setWidth 6, x := x })
  | .pmov d x => some (⟨1, 11, 7⟩, { d := d.setWidth 6, x := x.setWidth 6 })
  | .vli t p d imm => some (⟨1, 12, 0⟩, { ty := t, pr := p, d := d.setWidth 6, imm := imm })
  | .mma z x y acc bsrc chk => some (⟨2, 0, 0⟩, { z := z, x := x.setWidth 6, y := y.setWidth 6, acc := acc, bsrc := bsrc, chk := chk })
  | .mmag z x y acc bsrc chk => some (⟨2, 1, 0⟩, { z := z, x := x.setWidth 6, y := y.setWidth 6, acc := acc, bsrc := bsrc, chk := chk })
  | .msh d x => some (⟨2, 2, 0⟩, { d := d, x := x })
  | .mfmt d x => some (⟨2, 2, 1⟩, { d := d, x := x })
  | .mzero x => some (⟨2, 2, 2⟩, { x := x })
  | .mwait x => some (⟨2, 2, 3⟩, { x := x })
  | .mstat d => some (⟨2, 2, 4⟩, { d := d })
  | .mtov p d x => some (⟨2, 2, 5⟩, { pr := p, d := d.setWidth 6, x := x })
  | .vtom p d x => some (⟨2, 2, 6⟩, { pr := p, d := d.setWidth 6, x := x })
  | .mst k d x imm => some (⟨2, 3, k.code⟩, { d := d, x := x.setWidth 6, imm := imm })
  | .mld k d x imm => some (⟨2, 4, k.code⟩, { d := d, x := x.setWidth 6, imm := imm })
  | .skinit t d x => some (⟨2, 8, 0⟩, { ty := t, d := d.setWidth 6, x := x })
  | .skseed d x => some (⟨2, 8, 1⟩, { d := d.setWidth 6, x := x.setWidth 6 })
  | .skclr d => some (⟨2, 8, 2⟩, { d := d.setWidth 6 })
  | .skcpy d x => some (⟨2, 8, 3⟩, { d := d.setWidth 6, x := x.setWidth 6 })
  | .skmrg d x => some (⟨2, 8, 4⟩, { d := d.setWidth 6, x := x.setWidth 6 })
  | .skadd t p d x => some (⟨2, 9, 0⟩, { ty := t, pr := p, d := d.setWidth 6, x := x.setWidth 6 })
  | .skq t d x y => some (⟨2, 10, 0⟩, { ty := t, d := d, x := x.setWidth 6, y := y })
  | .skr t d x y => some (⟨2, 10, 1⟩, { ty := t, d := d, x := x.setWidth 6, y := y })
  | .skhh t d x y => some (⟨2, 10, 2⟩, { ty := t, d := d, x := x.setWidth 6, y := y })
  | .skhc d x y => some (⟨2, 10, 3⟩, { d := d, x := x.setWidth 6, y := y })
  | .skcnt d x => some (⟨2, 11, 0⟩, { d := d, x := x.setWidth 6 })
  | .skcnh d x => some (⟨2, 11, 1⟩, { d := d, x := x.setWidth 6 })
  | .skdc t d x => some (⟨2, 11, 2⟩, { ty := t, d := d, x := x.setWidth 6 })
  | .skmin t d x => some (⟨2, 11, 3⟩, { ty := t, d := d, x := x.setWidth 6 })
  | .skmax t d x => some (⟨2, 11, 4⟩, { ty := t, d := d, x := x.setWidth 6 })
  | .skmean t d x => some (⟨2, 11, 5⟩, { ty := t, d := d, x := x.setWidth 6 })
  | .skvar t d x => some (⟨2, 11, 6⟩, { ty := t, d := d, x := x.setWidth 6 })
  | .sksum t d x => some (⟨2, 11, 7⟩, { ty := t, d := d, x := x.setWidth 6 })
  | .sklse t d x => some (⟨2, 11, 8⟩, { ty := t, d := d, x := x.setWidth 6 })
  | .sknan d x => some (⟨2, 11, 9⟩, { d := d, x := x.setWidth 6 })
  | .skld d x imm => some (⟨2, 12, 0⟩, { d := d.setWidth 6, x := x.setWidth 6, imm := imm })
  | .skst d x imm => some (⟨2, 12, 1⟩, { d := d.setWidth 6, x := x.setWidth 6, imm := imm })
  | .skldh d x imm => some (⟨2, 12, 2⟩, { d := d.setWidth 6, x := x.setWidth 6, imm := imm })
  | .recv d x => some (⟨3, 0, 0⟩, { d := d, x := x.setWidth 6 })
  | .peek d x => some (⟨3, 0, 1⟩, { d := d, x := x.setWidth 6 })
  | .qcnt d x => some (⟨3, 0, 2⟩, { d := d, x := x.setWidth 6 })
  | .qfree d x => some (⟨3, 0, 3⟩, { d := d, x := x.setWidth 6 })
  | .qtag d x => some (⟨3, 0, 4⟩, { d := d, x := x.setWidth 6 })
  | .qmark d x => some (⟨3, 0, 5⟩, { d := d, x := x.setWidth 6 })
  | .drop x => some (⟨3, 0, 6⟩, { x := x.setWidth 6 })
  | .vrecv d x => some (⟨3, 0, 7⟩, { d := d.setWidth 6, x := x.setWidth 6 })
  | .recva d x => some (⟨3, 0, 8⟩, { d := d.setWidth 6, x := x.setWidth 6 })
  | .send d x tag => some (⟨3, 1, 0⟩, { d := d.setWidth 6, x := x, imm := tag.setWidth 64 })
  | .senda d x => some (⟨3, 2, 0⟩, { d := d.setWidth 6, x := x.setWidth 6 })
  | .vsend d x => some (⟨3, 2, 1⟩, { d := d.setWidth 6, x := x.setWidth 6 })
  | .sendm d x => some (⟨3, 2, 2⟩, { d := d.setWidth 6, x := x })
  | .semw n sem => some (⟨3, 3, 0⟩, { d := n.setWidth 6, imm := sem.setWidth 64 })
  | .sems n sem => some (⟨3, 4, 0⟩, { d := n.setWidth 6, imm := sem.setWidth 64 })
  | .semt d sem => some (⟨3, 5, 0⟩, { d := d, imm := sem.setWidth 64 })
  | .bara d x => some (⟨3, 6, 0⟩, { d := d.setWidth 6, x := x })
  | .barw d x => some (⟨3, 6, 1⟩, { d := d, x := x.setWidth 6 })
  | .bars s d x => some (⟨3, 6, 2⟩, { sc := s, d := d.setWidth 6, x := x })
  | .barq d x => some (⟨3, 6, 3⟩, { d := d, x := x.setWidth 6 })
  | .fence s => some (⟨3, 7, 0⟩, { sc := s })
  | .pub s d x => some (⟨3, 7, 1⟩, { sc := s, d := d, x := x })
  | .pubw s d x => some (⟨3, 7, 2⟩, { sc := s, d := d, x := x })
  | .trig d x => some (⟨3, 7, 3⟩, { d := d.setWidth 6, x := x })
  | .cinv x => some (⟨3, 7, 4⟩, { x := x.setWidth 6 })
  | .ccln x => some (⟨3, 7, 5⟩, { x := x.setWidth 6 })
  | .cfls => some (⟨3, 7, 6⟩, { })
  | .tlbp d x => some (⟨3, 7, 7⟩, { d := d, x := x.setWidth 6 })
  | .amoadd s d x y => some (⟨3, 8, 0⟩, { sc := s, d := d, x := x.setWidth 6, y := y })
  | .amoand s d x y => some (⟨3, 8, 1⟩, { sc := s, d := d, x := x.setWidth 6, y := y })
  | .amoor s d x y => some (⟨3, 8, 2⟩, { sc := s, d := d, x := x.setWidth 6, y := y })
  | .amoxor s d x y => some (⟨3, 8, 3⟩, { sc := s, d := d, x := x.setWidth 6, y := y })
  | .amomin s d x y => some (⟨3, 9, 0⟩, { sc := s, d := d, x := x.setWidth 6, y := y })
  | .amomax s d x y => some (⟨3, 9, 1⟩, { sc := s, d := d, x := x.setWidth 6, y := y })
  | .amominu s d x y => some (⟨3, 9, 2⟩, { sc := s, d := d, x := x.setWidth 6, y := y })
  | .amomaxu s d x y => some (⟨3, 9, 3⟩, { sc := s, d := d, x := x.setWidth 6, y := y })
  | .amoswp s d x y => some (⟨3, 10, 0⟩, { sc := s, d := d, x := x.setWidth 6, y := y })
  | .amocas s d x y => some (⟨3, 10, 1⟩, { sc := s, d := d, x := x.setWidth 6, y := y })
  | .amofadd s d x y => some (⟨3, 10, 2⟩, { sc := s, d := d, x := x.setWidth 6, y := y })
  | .amofmax s d x y => some (⟨3, 10, 3⟩, { sc := s, d := d, x := x.setWidth 6, y := y })
  | .cpy d x y => some (⟨3, 11, 0⟩, { d := d.setWidth 6, x := x.setWidth 6, y := y })
  | .cpyr d x y => some (⟨3, 11, 1⟩, { d := d, x := x.setWidth 6, y := y })
  | .cpyw x => some (⟨3, 12, 0⟩, { x := x })
  | .cpys d x => some (⟨3, 12, 1⟩, { d := d, x := x })
  | .cpyxResume x => some (⟨3, 12, 2⟩, { x := x })
  | .cpyxCancel x => some (⟨3, 12, 2⟩, { x := x })
  | .cpyxFlush x => some (⟨3, 12, 2⟩, { x := x })
  | .ringb d x => some (⟨3, 12, 3⟩, { d := d, x := x })
  | .ringq d x => some (⟨3, 12, 4⟩, { d := d, x := x })
  | .amsg d x y => some (⟨3, 13, 0⟩, { d := d, x := x.setWidth 6, y := y })
  | .mrpl x => some (⟨3, 13, 1⟩, { x := x })
  | .mhend x => some (⟨3, 13, 2⟩, { x := x })
  | .colset s d x => some (⟨3, 14, 0⟩, { sc := s, d := d, x := x })
  | .colfr x => some (⟨3, 14, 1⟩, { x := x })
  | .colw d x => some (⟨3, 14, 2⟩, { d := d, x := x })
  | .cols d x => some (⟨3, 14, 3⟩, { d := d, x := x })
  | .tick d => some (⟨3, 15, 0⟩, { d := d.setWidth 6 })
  | .cyc d => some (⟨3, 15, 1⟩, { d := d.setWidth 6 })
  | .waitt x => some (⟨3, 15, 2⟩, { x := x.setWidth 6 })
  | .waitc x => some (⟨3, 15, 3⟩, { x := x.setWidth 6 })
  | .trap d detail => some (⟨4, 0, 0⟩, { d := d, imm := detail.setWidth 64 })
  | .mfk d kreg => some (⟨4, 2, 0⟩, { d := d, imm := kreg.setWidth 64 })
  | .mtk d kreg => some (⟨4, 3, 0⟩, { d := d, imm := kreg.setWidth 64 })
  | .eret => some (⟨4, 4, 0⟩, { })
  | .idle d => some (⟨4, 4, 1⟩, { d := d })
  | .tlbi x => some (⟨4, 4, 2⟩, { x := x.setWidth 6 })
  | .tlba => some (⟨4, 4, 3⟩, { })
  | .ctxs => some (⟨4, 4, 4⟩, { })
  | .ctxl => some (⟨4, 4, 5⟩, { })
  | .tqp x => some (⟨4, 4, 6⟩, { x := x })
  | .ltrcRead d x => some (⟨4, 4, 7⟩, { d := d, x := x })
  | .ltrcClearWindow d x => some (⟨4, 4, 7⟩, { d := d, x := x })
  | .ltrcClearSuspect d x => some (⟨4, 4, 7⟩, { d := d, x := x })
  | .strk x => some (⟨4, 4, 8⟩, { x := x })
  | .illegalInstruction _ _ _ _ => none
  | .waitAtKResume _ _ => none
  | .amodeWrite _ _ _ => none
  | .srseedWrite _ _ _ => none
  | .counterClear _ _ _ _ => none
  | .ltrlimLtrwinWrite _ _ _ => none
  | .marginWrite _ _ => none
  | .logStatusRead _ _ _ _ => none
  | .registerWrite _ _ _ _ => none
  | .lateTransition _ _ _ => none
  | .escalationWindowEnd _ => none
  | .marginStepSettle _ => none
  | .handlerWatchdog _ _ => none
  | .handlerDispatch _ _ => none
  | .channelWordTransfer _ => none
  | .memoryResponse _ _ _ => none
  | .read _ _ => none
  | .write _ _ => none
  | .amo _ _ => none
  | .amo8 _ _ => none
  | .cas8 _ _ => none
  | .line _ _ => none
  | .renew _ _ => none
  | .cread _ _ => none
  | .cwrite _ _ => none
  | .camo _ _ => none
  | .barr _ _ => none
  | .comb _ _ _ => none
  | .routerCombine _ _ _ => none
  | .cdone _ _ => none
  | .automaticPub _ _ => none
  | .colsetRequest _ => none
  | .planKillNotice _ _ => none
  | .userMessageStart _ _ => none
  | .messageReply _ _ => none
  | .messageNack _ _ => none
  | .matrixCommandComplete _ => none
  | .copyElement _ => none
  | .copyCommandComplete _ => none
  | .cpyrSlotTake _ => none
  | .copyFaultTrap _ => none
  | .lightsOutSweep _ => none
  | .launch _ _ => none
  | .join _ _ => none
  | .spliceInherit _ _ => none
  | .spliceNoInherit _ _ => none
  | .ingressToken _ _ => none
  | .ingressQueueErrClear _ _ => none
  | .placement => none
  | .loadAcknowledge _ => none
  | .pitchStart _ => none
  | .translationPreloadTimeout _ => none
  | .hostKillRequest _ => none
  | .preemptDispatchStop _ => none
  | .preemptFiringTimeout _ _ => none
  | .preemptResume _ => none
  | .spliceSwitch _ => none
  | .spliceSuccessorStart _ => none
  | .egressRingWrite _ _ => none
  | .egressAtomicop _ _ => none
  | .atomicopCompletion _ _ _ _ => none
  | .tsetWrite _ => none
  | .topoWrite _ => none
  | .topologySwitch => none
  | .staleCounterRead _ => none
  | .attestationRequest _ => none
  | .attestationReportReady => none
  | .speoshPacketReceive _ _ => none
  | .speoshBeacon _ => none
  | .lightDetected _ => none
  | .trainLock _ => none
  | .trainTimeout _ => none
  | .calibration _ _ _ => none
  | .crcFailureBurst _ => none
  | .retrainLock _ => none
  | .retrainTimeout _ => none
  | .flitReplay _ => none
  | .meshBeacon _ _ => none
  | .meshLinkTimeout _ _ => none
  | .routerTimeout _ => none
  | .fieldManagerTimeout _ => none
  | .speoshLinkTimeout _ => none
  | .moduleTimeout _ => none
  | .podMemberTimeout _ => none
  | .clockSourceLoss _ => none
  | .clockRealigned _ => none
  | .tickEdge _ => none
  | .temperatureRefresh => none
  | .throttleWindowEnd _ _ => none
  | .scrub _ _ => none
  | .poleGranuleTransfer _ _ => none
  | .eccWriteback _ _ _ => none
  | .rowRemap _ _ _ => none
  | .rowRemapDone _ _ => none
  | .secondTierTimeout _ _ => none
  | .translationWalk _ _ => none
  | .tqpAnswer _ _ _ => none
  | .trapQueuePost _ => none
  | .trapQueueRemove _ => none
  | .strikeTile _ => none
  | .fieldDerate _ _ => none
  | .moduleReset _ _ _ => none
  | .serviceProcessorFailover => none
  | .imageFetched _ _ => none
  | .resolutionAnswer _ _ => none
  | .powerDown => none
  | .secondTierLinkDown _ => none
  | .outOfTime _ => none
  | .holdAsserted _ => none
  | .routeBankWrite _ _ _ => none

/-- A PAGE word (R37). -/
def pageWord (page : Nat) (ty pr : BitVec 3) : Half := 0b11111#5 ++ 0b01#2 ++ BitVec.ofNat 3 page ++ ty ++ pr

/-- An SCP word (R37). -/
def scpWord (s : Scope) : Half := 0b11111#5 ++ 0b10#2 ++ BitVec.ofNat 3 s.code ++ 0#6

/-- A REGX word (R37). -/
def regxWord (dh xh yh : BitVec 3) : Half := 0b11111#5 ++ 0b00#2 ++ dh ++ xh ++ yh

/-- An EXT word (R36). -/
def extWord (x : BitVec 11) : Half := 0b11110#5 ++ x

/-- `n` EXT words of a value above its base bits, the one farthest from the base word first (R42, R43). -/
def extWords : Nat → Nat → List Half
  | 0, _ => []
  | n + 1, v => extWords n (v / 2048) ++ [extWord (BitVec.ofNat 11 v)]

/-- The number of EXT words the encoder writes: the least that holds the value (R63). -/
def ExtRule.count (e : ExtRule) (imm : BitVec 64) : Nat :=
  match e with
  | .never => 0
  | .lane => 1
  | .kreg => if imm.toNat < 256 then 0 else 1
  | .tag => if imm.toNat < 32 then 0 else 1
  | .signed hb => ((List.range 5).find? fun n => fitsSigned (hb + 11 * n) imm).getD 4
  | .target => ([1, 2, 3, 4].find? fun n => fitsSigned (11 * n) imm).getD 4
  | .offset => if imm.toNat < 4 then 0 else ([1, 2, 3, 4].find? fun n => fitsSigned (2 + 11 * n) imm).getD 4

/-- The base word of a row (R34). -/
def Row.baseWord (r : Row) (o : Opnds) : Half :=
  let mj := BitVec.ofNat 5 r.major
  let d := o.d.setWidth 3
  let x := o.x.setWidth 3
  let y := o.y.setWidth 3
  match r.fmt with
  | .n2 => mj ++ d ++ x ++ BitVec.ofNat 5 r.minor
  | .n3 => mj ++ d ++ x ++ y ++ BitVec.ofNat 2 r.minor
  | .ni | .nl => mj ++ d ++ o.imm.setWidth 8
  | .nis => mj ++ d ++ BitVec.ofNat 3 r.minor ++ o.imm.setWidth 5
  | .nim => mj ++ d ++ 0#3 ++ o.imm.setWidth 5
  | .nj => mj ++ o.imm.setWidth 11
  | .nb => mj ++ BitVec.ofNat 3 r.minor ++ x ++ o.imm.setWidth 5
  | .nc => mj ++ x ++ y ++ BitVec.ofNat 3 r.minor ++ 0#2
  | .nm => mj ++ d ++ x ++ BitVec.ofNat 3 r.minor ++ o.imm.setWidth 2
  | .nq => mj ++ d ++ x ++ o.imm.setWidth 5
  | .nx => mj ++ o.z ++ x ++ y ++ BitVec.ofBool o.acc ++ BitVec.ofBool o.bsrc ++ BitVec.ofBool o.chk

/-- The words of a row with its operands, prefixes in the order PAGE, SCP, REGX, EXT (R42). -/
def Row.words (r : Row) (o : Opnds) : List Half :=
  (if r.page == 0 then [] else [pageWord r.page (if r.types.isEmpty then 0 else BitVec.ofNat 3 o.ty.code) o.pr]) ++
  (match r.scope with
   | none => []
   | some dflt => if o.sc = dflt then [] else [scpWord o.sc]) ++
  (if o.d.toNat < 8 && o.x.toNat < 8 && o.y.toNat < 8 then []
   else [regxWord (o.d.extractLsb' 3 3) (o.x.extractLsb' 3 3) (o.y.extractLsb' 3 3)]) ++
  extWords (r.ext.count o.imm) (o.imm.toNat / 2 ^ r.ext.baseBits) ++
  [r.baseWord o]

/-- The words of an instruction; an event has none. -/
def encode (i : Instr) : List Half :=
  match i.enc with
  | none => []
  | some (k, o) =>
    match rowAt k with
    | none => []
    | some r => r.words o

/-- The instruction that the decoder gives for the words of `i`: CPYX has one encoding for its three actions (R343) and
LTRC one for its three (R401); the decoder gives the first, and every other instruction is its own. -/
noncomputable def Instr.canon : Instr → Instr
  | .cpyxCancel x => .cpyxResume x
  | .cpyxFlush x => .cpyxResume x
  | .ltrcClearWindow d x => .ltrcRead d x
  | .ltrcClearSuspect d x => .ltrcRead d x
  | i => i

end Sys2Proof
end

