-- ==== Sys2Proof/Machine/Fetch.lean ====
section
/-! DEFINITION. From a context to the instruction it runs next: traps that wait for it, the fetch, the decoding
(R14 to R17, R54, R320, R361, R366). -/

namespace Sys2Proof.Machine

/-- The words from an address of a core's instruction memory to its end, at most `n` (R15). -/
def fetchWords (m : Mem) (r : Nat) (k : CoreId) : Nat → Nat → List Half
  | 0, _ => []
  | n + 1, a =>
    if a ≤ 0xFFFE then m.read 16 (imemKey r k a) 2 :: fetchWords m r k n (a + 2) else []

/-- The words at the focused context's PC: a group has at most five (R17). -/
def State.words (s : State) : List Half :=
  if s.cur.past then [] else fetchWords s.mem s.focus.rank s.focus.ctx.core 5 s.cur.pc.toNat

/-- The first of the group's words that holds an uncorrectable error (R14). -/
def State.badWord (s : State) (len : Nat) : Option Nat :=
  ((List.range len).map fun j => s.cur.pc.toNat + 2 * j).find? fun a =>
    s.poisoned (imemKey s.focus.rank s.focus.ctx.core a) 2

/-- A trap that waits for the context's next group at user level: a copy-engine fault on the S core (R320), margin
exhaustion (R361). A stretched group, of the summary unit too, commits first (R358, R361), and so does one whose returning atomic is
performed (R291). -/
def State.waitingTrap (s : State) : Option PendingTrap :=
  let t := s.here
  if s.cur.sup then none
  else
    if 8 ≤ s.cur.replays ∨ s.cur.dueHeld ∨ s.bound s.focus.rank s.focus.ctx then none
    else
      match s.focus.ctx, t.copy.report with
      | .s, (code, value) :: _ => some ⟨0x30, code, value⟩
      | _, _ => s.cur.due

/-- The waiting trap has been taken: each stop is reported once (R320). -/
def State.reported (s : State) : State :=
  match s.focus.ctx, s.here.copy.report with
  | .s, _ :: rest => s.modHere fun t => { t with copy := { t.copy with report := rest } }
  | _, _ => s.modCur fun c => { c with due := none }

end Sys2Proof.Machine

namespace Sys2Proof

/-- The group is one of a datapath that computes twice (R363, R364): on pages 0 to 2, neither a load, a store nor a matrix command, nor a
transfer of control that computes nothing. No other group has a second firing (DEDUCED, log 13). -/
def RowKey.checked (k : RowKey) : Bool :=
  match k.page with
  | 0 => decide (k.major ≤ 14) || decide (21 ≤ k.major)
  | 1 => decide (k.major ≤ 8) || decide (11 ≤ k.major)
  | 2 => decide (8 ≤ k.major) && decide (k.major ≤ 11)
  | _ => false

/-- The instruction's group is computed twice (R363). -/
def Instr.checked (i : Instr) : Bool := (i.enc.map fun e => e.1.checked).getD false

end Sys2Proof

namespace Sys2Proof.Machine

/-- The first bad word of a group that is to be fetched: one that waits at K has been fetched (R14, R156). -/
def State.badFetch (s : State) (len : Nat) : Option Nat := if s.cur.waiting then none else s.badWord len

/-- What the focused context does in this step. -/
inductive Turn where
  | done (o : Out)
  | run (i : Instr) (s : State)

/-- The length of the group at the PC; 0 when it cannot be fetched (R27). -/
def State.groupLen (s : State) : Nat :=
  match decodeRaw s.words with
  | .short => 0
  | .bad _ _ _ len => len
  | .ok _ _ len _ => len

/-- A trap of the focused context in place of its group. -/
def State.trapHere (s : State) (code detail : Byte) (value : DWord) (len : Nat) : State :=
  (s.elapse s.focus.rank s.focus.ctx).trap s.focus.rank s.focus.ctx code detail value len false

/-- What the group at the PC is, once no trap waits: a fetch fault, an uncorrectable word, a group that is no instruction,
or an instruction to run, whose second firing, where it has one, disagrees `times` times. Three points that the spec does not settle are DEDUCED in
log 24: of a group that both extends past 0xFFFE and holds an uncorrectable word, R14 and R16 apply alike and R54 does not order
them: the fetch fault is taken; the GLEN of a 0x20 trap is the length that the stored words show; the body of a LOOP with count 0
that ends above 0xFFFE (R100) leaves the PC's 16 bits behind, and the fetch fault shows 0x1_0000 in TVAL wherever that end is,
and its low 16 bits in TEPC. -/
noncomputable def State.decoded (s : State) (times : Nat) : Turn :=
  match decode s.words with
  | .short => .done (.next (s.trapHere 0x03 0 0x10000 0))
  | .bad why k w len =>
    match s.badFetch len with
    | some a => .done (.next (s.trapHere 0x20 0 (BitVec.ofNat 64 a) len))
    | none => .run (.illegalInstruction 0x01 (BitVec.ofNat 8 why.detail) (BitVec.ofNat 64 (k * 65536 + w.toNat)) len) s
  | .ok i len base =>
    match s.badFetch len with
    | some a => .done (.next (s.trapHere 0x20 0 (BitVec.ofNat 64 a) len))
    | none =>
      .run i { s with focus := { s.focus with len := len, base := base, times := if i.checked then times else 0 } }

/-- The turn of a context that runs: a waiting trap first, else its group. -/
noncomputable def State.runTurn (s : State) (times : Nat) : Turn :=
  match s.waitingTrap with
  | some p => .done (.next ((s.reported.withdraw s.focus.rank s.focus.ctx).trapHere p.code p.detail p.value s.groupLen))
  | none => s.decoded times

/-- The turn of a core in dispatch or halt: margin exhaustion that is due is taken there, with IDL, as a copy-engine trap is (R320,
R361); otherwise a cycle passes. -/
def State.idleTurn (s : State) : Out :=
  let u := s.elapse s.focus.rank s.focus.ctx
  match s.cur.due with
  | some p =>
    .next (if s.cur.sup then u
      else (u.modCur fun c => { c with due := none }).trap s.focus.rank s.focus.ctx p.code p.detail p.value 0 true)
  | none => .next u

/-- The turn of the focused context. A tile without a clock holds still; a realigning one stalls (R416). A context that
runs nothing lets a cycle pass. -/
noncomputable def State.turn (s : State) (times : Nat) : Turn :=
  if s.ranked ≤ s.focus.rank then .done (.fault (.noSuchTile s.focus.rank))
  else
    match s.here.clock with
    | .hold | .out => .done (.next s)
    | .realigning => .done (.next (s.elapse s.focus.rank s.focus.ctx))
    | .good =>
      match s.cur.run with
      | .running => s.runTurn times
      | .dispatch | .halted => .done s.idleTurn
      | .stopped => .done (.next (s.elapse s.focus.rank s.focus.ctx))

/-- Focus a context. -/
def State.focusOn (s : State) (r : Nat) (i : CtxId) : State := { s with focus := { s.focus with rank := r, ctx := i } }

/-! ## Placing an instruction for the next step -/

end Sys2Proof.Machine

namespace Sys2Proof

/-- The context that can run the instruction of a place in the opcode map (R52). -/
def RowKey.ctx (k : RowKey) : CtxId :=
  if k.page = 2 then .c
  else if k.page = 3 ∧ (k.major = 11 ∨ k.major = 12) then .s
  else if k.page = 3 ∧ k.major = 13 ∧ k.minor ≠ 0 then .m
  else .c

end Sys2Proof

namespace Sys2Proof.Machine

/-- The context chosen for words. -/
def ctxFor (ws : List Half) : CtxId :=
  match decodeRaw ws with
  | .ok k _ _ _ => k.ctx
  | _ => .c

/-- Write words into instruction memory. -/
def putWords (m : Mem) (r : Nat) (k : CoreId) : Nat → List Half → Mem
  | _, [] => m
  | a, w :: ws => putWords (m.write (imemKey r k a) 2 w) r k (a + 2) ws

/-- The state whose next step runs the words: a context that may execute them runs at the place it stopped, with the words
there and zero words after them, and nothing stands before it. This stands for the loader's work, which starts a context
with its node's code in instruction memory (R26, R137; log 14). -/
def State.placeWords (s : State) (ws : List Half) : State :=
  let i := ctxFor ws
  let r := if s.focus.rank < s.ranked then s.focus.rank else 0
  let pc0 := ((s.tile r).ctx i).pc
  let pc : Half := if pc0.getLsbD 0 ∨ 0xFFF6 < pc0.toNat then 0 else pc0
  let all := ws ++ List.replicate (5 - ws.length) 0
  let s' := { s with
    agenda := [], focus := { s.focus with rank := r, ctx := i }
    mem := putWords s.mem r i.core pc.toNat all
    poison := s.poison.filter (· < imemKey 0 .s 0 / 8) }
  s'.modTile r fun t =>
    let c := { t.ctx i with run := .running, pc := pc, past := false, due := none }
    { t.setCtx i c with clock := .good, copy := { t.copy with report := [] } }

end Sys2Proof.Machine
end

