-- ==== Sys2Proof/Machine/Handlers.lean ====
section
/-! DEFINITION. Handlers: readiness, dispatch, the end of a firing, the watchdog, waits at K (R98, R99, R124 to R129,
R156). -/

namespace Sys2Proof.Machine

/-- The queues of a mask, ascending. -/
def maskQueues (m : Byte) : List Nat := (List.range 8).filter fun n => m.getLsbD n

/-- Free staging slots of a port (R131). -/
def Port.free (p : Port) : Nat := p.stage - p.words.length

/-- The head word of a slot: of the lowest queue of its INMASK (R124). -/
def Core.headWord (k : Core) (sl : Slot) : Option Token :=
  (maskQueues sl.inmask).head?.bind fun n => (k.queues[n]?).bind fun q => q.words.head?

/-- Conditions 1 to 5 of R124 for a slot. -/
def Core.conditions (k : Core) (halted : Bool) (sl : Slot) : Bool :=
  sl.valid && !halted &&
  ((maskQueues sl.inmask).all fun n => ((k.queues[n]?).map fun q => !q.words.isEmpty).getD false) &&
  (match sl.filt.toNat with
   | 1 => ((k.headWord sl).map fun w => w.tag &&& sl.fmask == sl.fval &&& sl.fmask).getD false
   | 2 => ((k.headWord sl).map fun w => w.mark == sl.fval.setWidth 2).getD false
   | _ => true) &&
  ((List.range 8).all fun n => ((k.ports[n]?).map fun p => decide (natField sl.need.toNat (4 * n) 4 ≤ p.free)).getD true)

/-- A slot's state at the end of a cycle (R126): slot 0 never becomes ready (R125). `now` is the step's number. -/
def Core.settle (k : Core) (halted : Bool) (now n : Nat) (st : SlotState) : SlotState :=
  match k.slots[n]? with
  | none => st
  | some sl =>
    let ok := n != 0 && k.conditions halted sl
    match st with
    | .running => .running
    | .ready since pass => if ok then .ready since pass else .idle
    | .idle => if ok then .ready now 0 else .idle

/-- Re-examine every slot of a core at the end of a cycle (R124, R126). -/
def Tile.settle (t : Tile) (k : CoreId) (now : Nat) : Tile :=
  let c := t.core k
  let halted := match (t.ctx k.ctx).run with
    | .halted => true
    | _ => false
  t.setCore k { c with states := c.states.mapIdx fun n st => c.settle halted now n st }

/-- The same for a core of a tile of the state. -/
def State.settle (s : State) (r : Nat) (k : CoreId) : State := s.modTile r fun t => t.settle k s.free

/-- The choice of R127 among ready slots: number, effective priority, ready time. -/
def Core.candidates (k : Core) : List (Nat × Nat × Nat) :=
  (List.range 32).filterMap fun n =>
    match (k.states[n]?).getD .idle with
    | .ready since pass => (k.slots[n]?).map fun sl => (n, if pass = 64 then 3 else sl.prio.toNat, since)
    | _ => none

/-- The better of two candidates: higher priority, then earlier ready time, then lower number (R127). -/
def betterSlot (a b : Nat × Nat × Nat) : Nat × Nat × Nat :=
  if a.2.1 < b.2.1 ∨ (a.2.1 = b.2.1 ∧ (b.2.2 < a.2.2 ∨ (b.2.2 = a.2.2 ∧ b.1 < a.1))) then b else a

/-- The slot that a core in dispatch picks (R127). -/
def Core.pick (k : Core) : Option Nat :=
  match k.candidates with
  | [] => none
  | c :: cs => some (cs.foldl betterSlot c).1

/-- Slot states after slot `n` is dispatched (R126). -/
def Core.dispatched (k : Core) (n : Nat) : Core :=
  { k with states := k.states.mapIdx fun j st =>
      if j = n then .running
      else match st with
        | .ready since pass => .ready since (min (pass + 1) 64)
        | st => st }

/-- The start of a firing (R72, R128). -/
def Ctx.fire (c : Ctx) (n : Nat) (sl : Slot) (amode : BitVec 7) (head : Option Token) : Ctx :=
  { c with
    run := .running, sup := false, pc := sl.start &&& 0xFFFE, past := false, loops := [], wd := 0, wdFired := false
    waiting := false, replays := 0, hstep := 0, hreplays := 0
    hcur := BitVec.ofNat 32 n
    amode := amodeStored ((if sl.aovr then sl.aoval else amode).setWidth 32)
    tagin := (head.map fun w => (w.mark ++ w.tag).setWidth 32).getD 0 }

/-- Start slot `n` of a core of a tile. -/
def Tile.startSlot (t : Tile) (k : CoreId) (n : Nat) : Tile :=
  let c := t.core k
  match c.slots[n]? with
  | none => t
  | some sl =>
    let head := if n = 0 then none else c.headWord sl
    (t.setCore k (c.dispatched n)).setCtx k.ctx ((t.ctx k.ctx).fire n sl c.amode head)

/-- A context is in the state. -/
def Ctx.is (c : Ctx) (r : Run) : Bool := c.run == r

/-- HANDLER_DISPATCH: a core in dispatch starts the ready slot of highest effective priority (R127, R128). -/
def execHandlerDispatch (r : Nat) (k : CoreId) (s : State) : Out :=
  let s := s.settle r k
  let t := s.tile r
  match (t.core k).pick with
  | some n => event s (t.ctx k.ctx |>.is .dispatch |> (· && !t.held && !t.struck && !t.switching && t.clocked && (t.ctx k.ctx).due.isNone)) fun s =>
      s.modTile r fun t => t.startSlot k n
  | none => .next s

/-- The running slot of a core becomes IDLE, and the core is in the given state (R98, R99, R126). -/
def Tile.endFiring (t : Tile) (k : CoreId) (run : Run) : Tile :=
  let c := t.core k
  let states := c.states.map fun st =>
    match run, st with
    | .halted, _ => SlotState.idle
    | _, .running => .idle
    | _, st => st
  (t.setCore k { c with states := states }).setCtx k.ctx { t.ctx k.ctx with run := run, loops := [] }

/-! ## Ending a message (R98, R350) -/

/-- The module and rank that a user message's target names (R346). -/
def msgTarget (own : Nat) (x : DWord) : Nat × Nat :=
  (if x.getLsbD 56 then natField x.toNat 48 8 else own, natField x.toNat 0 17)

/-- Answer a message's sender with a word: a waiting AMSG's reply, or the completion of a posted one (R293, R349). -/
def State.answerMsg (s : State) (m : UserMsg) (w : Word) (pts : Time) : State :=
  if m.src.mod = s.modidx.toNat then
    if m.answer then s.modTile m.src.rank fun t => { t with replies := t.replies ++ [⟨m.src.ctx, m.tag, w, pts⟩] }
    else s.modCtx m.src.rank m.src.ctx fun c =>
      { c.meet pts with postedMsgs := c.postedMsgs.erase (msgTarget s.modidx.toNat m.target) }
  else s.sendPacket m.src.mod (.reply m.src.rank m.src.ctx m.answer m.tag w m.target pts)

/-- A nack goes back to the sender of a user message (R348). -/
def State.nackUser (s : State) (m : UserMsg) (detail : Byte) : State :=
  if m.src.mod = s.modidx.toNat then s.modTile m.src.rank fun t => { t with nacks := t.nacks ++ [.user m detail] }
  else s.sendPacket m.src.mod (.nack m detail)

/-- The current message of a tile ends with `w` for a sender not answered yet; the next one may begin (R350). -/
def State.endMessage (s : State) (r : Nat) (w : Word) : State :=
  let t := s.tile r
  match t.current with
  | none => s.modCtx r .m fun c => { c with run := .dispatch, loops := [] }
  | some cur =>
    let s := if cur.answered && cur.msg.answer then s else s.answerMsg cur.msg w t.m.pts
    (s.countDone r cur.msg.src).modTile r fun t =>
      { t with current := none, m := { t.m with run := .dispatch, loops := [] } }

/-! ## HEND, HALT, the watchdog, waits -/

/-- HEND: the firing, or the message, ends (R88, R98, R350). -/
def execHend (s : State) : Out :=
  runGroup .all false (fun s =>
    if s.cur.sup then .error s.refuse
    else
      match s.focus.ctx with
      | .m => if s.released then .ok (.leave (s.endMessage s.focus.rank 0)) else .error (.wait s)
      | .s => .ok (.leave ((s.modHere fun t => t.endFiring .s .dispatch).settle s.focus.rank .s))
      | .c => .ok (.leave ((s.modHere fun t => t.endFiring .c .dispatch).settle s.focus.rank .c))) s

/-- HALT: once the core's own command queue is empty, the core ends its part in the pitch (R88, R99). -/
def execHalt (s : State) : Out :=
  runGroup .all false (fun s =>
    if s.cur.sup then .error s.refuse
    else
      match s.focus.ctx with
      | .m => .error s.refuse
      | .s => if s.here.copy.queue.isEmpty then .ok (.leave (s.modHere fun t => t.endFiring .s .halted))
              else .error (.idle s)
      | .c => if s.here.matrix.queue.isEmpty then .ok (.leave (s.modHere fun t => t.endFiring .c .halted))
              else .error (.idle s)) s

/-- The watchdog exponent of what a context runs; 0 means 20 (R122, R326). -/
def Tile.wdexp (t : Tile) (i : CtxId) : Nat :=
  let e :=
    match i with
    | .m => (t.current.map fun c => c.wdexp.toNat).getD 0
    | .s => ((t.coreS.slots[t.s.hcur.toNat]?).map fun sl => sl.wdexp.toNat).getD 0
    | .c => ((t.coreC.slots[t.c.hcur.toNat]?).map fun sl => sl.wdexp.toNat).getD 0
  if e = 0 then 20 else e

/-- HANDLER_WATCHDOG: the firing's user-level count exceeds its limit; the first uncommitted group traps (R27, R129). It
traps once for a firing (log 15), and not while the group's returning atomic is performed and its result on its way: that group
commits first (R291). -/
def execHandlerWatchdog (r : Nat) (c : CtxId) (s : State) : Out :=
  let t := s.tile r
  let x := t.ctx c
  let limit := 2 ^ t.wdexp c
  event s (t.clocked && x.is .running && !x.sup && !x.wdFired && decide (limit < x.wd) && !s.bound r c) fun s =>
    let len := (s.focusOn r c).groupLen
    ((s.withdraw r c).modCtx r c fun x => { x with wdFired := true }).trap r c 0x0D 0 (BitVec.ofNat 64 (limit + 1)) len false

/-- WAIT_AT_K_RESUME: a waiting group is examined again in the next step, and commits if its condition holds (R156). -/
def execWaitAtKResume (r : Nat) (c : CtxId) (s : State) : Out :=
  event s (((s.tile r).ctx c).waiting && (s.tile r).clocked) fun s => s.next [.group r c]

/-- ILLEGAL_INSTRUCTION: a group that is no instruction raises its trap precisely (R53, R54). -/
def execIllegalInstruction (code detail : Byte) (value : DWord) (len : Nat) (s : State) : Out :=
  .next (s.trapHere code detail value len)

/-! ## Words on channels (R131 to R134) -/

/-- A destination can take a word: a queue of a tile of the same pitch with a free slot or an empty head register; a struck
tile, which discards it; an egress stream whose portal is not backed up (R134, R142, R377, R440). -/
def State.hasRoom (s : State) (id : PitchId) : End → Bool
  | .queue r k q =>
    let t := s.tile r
    if t.struck then true
    else t.pitch = some id && !t.switching && t.clocked &&
      (((t.core k).queues[q.toNat]?).map fun qu => decide (qu.words.length < qu.slots + 1)).getD false
  | .egress k =>
    match (s.pitch? id).bind fun p => p.egress[k]? with
    | some e => decide (e.pending.length < 256) || e.words.isEmpty
    | none => true

/-- A word enters a destination, and counts as received (R144). -/
def State.deliver (s : State) (id : PitchId) (w : Token) : End → State
  | .queue r k q =>
    if (s.tile r).struck then s.modTile r fun t => { t with recvd := t.recvd + 1 }
    else
      (s.modTile r fun t =>
        let c := t.core k
        { t.setCore k { c with queues := vecMod c.queues q.toNat fun qu => { qu with words := qu.words ++ [w], ended := qu.ended || w.mark == 3 } } with
          recvd := t.recvd + 1 }).settle r k
  | .egress k =>
    s.modPitch id fun p =>
      { p with egress := vecMod p.egress k fun e => { e with words := e.words ++ [w], received := e.received + 1 } }

/-- A word enters every destination of its channel at once, so branches never diverge (R134). -/
def State.deliverAll (s : State) (id : PitchId) (w : Token) (ends : List End) : State :=
  ends.foldl (fun s e => s.deliver id w e) s

/-- The state of a host queue. -/
def State.hostQueue (s : State) (q : Nat) : HostQueue := assocGet {} s.queues q

/-- Change a host queue; a change of STATE raises its interrupt vector (R437). -/
def State.modQueue (s : State) (q : Nat) (f : HostQueue → HostQueue) : State :=
  let old := s.hostQueue q
  let new := f old
  { s with
    queues := assocPut s.queues q new
    msix := if new.state = old.state then s.msix else s.msix ++ [q % 256] }

/-- CHANNEL_WORD_TRANSFER from a port: the oldest staged word leaves when every destination has room (R134). -/
def State.transferPort (s : State) (r : Nat) (k : CoreId) (o : OReg) : State :=
  let t := s.tile r
  match (t.core k).ports[o.toNat]?, t.pitch with
  | some p, some id =>
    match p.words with
    | w :: ws =>
      if t.clocked && p.dests.all (s.hasRoom id) then
        let s := s.modTile r fun t =>
          let c := t.core k
          t.setCore k { c with ports := vecMod c.ports o.toNat fun p => { p with words := ws } }
        (s.deliverAll id w p.dests).settle r k
      else s
    | [] => s
  | _, _ => s

/-- A token leaves the edge buffer: the queue whose credit it holds regains it; a queue whose stream end it was returns to
IDLE (R437, R438). -/
def State.leaveEdge (s : State) (e : Option Nat × Token) : State :=
  match e.1 with
  | none => s
  | some q => s.modQueue q fun h =>
      let over' := e.2.mark == 3 && h.state == .closed
      { h with credit := min 256 (h.credit + 1), state := if over' then .idle else h.state
               stream := if over' then none else h.stream }

/-- CHANNEL_WORD_TRANSFER from an ingress stream: the oldest token leaves the edge buffer when every destination has room
(R133, R134, R144, R438); a stream-end token that another bound queue has overtaken is consumed (R436). In a stateless pitch
the word is kept for replay (R382). -/
def State.transferIngress (s : State) (id : PitchId) (k : Nat) : State :=
  match s.pitch? id with
  | none => s
  | some p =>
    match p.ingress[k]? with
    | none => s
    | some g =>
      match g.words, p.state with
      | e :: ws, .running =>
        let w := e.2
        let rest := g.bound.filter fun b => some b != e.1
        if w.mark = 3 ∧ !rest.isEmpty then
          (s.modPitch id fun p => { p with ingress := vecMod p.ingress k fun g => { g with words := ws, bound := rest } }).leaveEdge e
        else if g.dests.all (s.hasRoom id) then
          let keep := p.image.depth.isSome
          let w := { w with serial := if keep then s.newEvent else 0 }
          let kept := if keep then g.retained ++ [{ word := w }] else g.retained
          let g' := { g with
            words := ws, ended := g.ended || w.mark == 3, sent := g.sent + g.dests.length, retained := kept
            bound := if w.mark = 3 then rest else g.bound
            broken := keep && decide (p.image.depth.getD 0 < 8 * kept.length) }
          ({ s with events := s.events + 1 }.modPitch id fun p => { p with ingress := vecMod p.ingress k fun _ => g' }).leaveEdge e
            |>.deliverAll id w g.dests
        else s
      | _, _ => s

/-- CHANNEL_WORD_TRANSFER (R134). -/
def execChannelWordTransfer (w : Staged) (s : State) : Out :=
  match w with
  | .port r k o => .next (s.transferPort r k o)
  | .ingress id k => .next (s.transferIngress id k)

end Sys2Proof.Machine
end

