-- ==== Sys2Proof/Machine/Sync.lean ====
section
/-! DEFINITION. Semaphores, barriers and time (R118, R119, R163 to R172). -/

namespace Sys2Proof.Machine

/-! ## Semaphores -/

/-- Change a semaphore of a tile. -/
def Tile.modSem (t : Tile) (i : SemReg) (f : Sem → Sem) : Tile :=
  { t with sems := t.sems.set i.toNat (f (t.sems[i.toNat]'i.isLt)) i.isLt }

/-- A semaphore of a tile. -/
def Tile.sem (t : Tile) (i : SemReg) : Sem := t.sems[i.toNat]'i.isLt

/-- A release of `n`, with what it carries (R118, R278, R284): none when the counter would pass 0xFFFF. -/
def Sem.add (m : Sem) (n : Nat) (pts : Time) : Option Sem :=
  if 0xFFFF < m.count.toNat + n then none
  else some { count := m.count + BitVec.ofNat 16 n, pts := Time.join m.pts pts }

/-- The count that an instruction's d field gives: 1 to 8 (R163). -/
def semCount (n : BitVec 3) : Nat := n.toNat + 1

/-- SEMW: wait for the count, take it, acquire (R164). -/
def execSemw (n : BitVec 3) (sem : SemReg) (s : State) : Out :=
  runGroup .all false (fun s =>
    let m := s.here.sem sem
    if m.count.toNat < semCount n then .error (.wait s)
    else .ok (.on ((s.modHere fun t =>
      t.modSem sem fun m => { m with count := m.count - BitVec.ofNat 16 (semCount n) }).modCur (·.meet m.pts)))) s

/-- SEMS: wait for release, then add; overflow traps (R118, R164). -/
def execSems (n : BitVec 3) (sem : SemReg) (s : State) : Out :=
  runGroup .all false (fun s =>
    if !s.released then .error (.wait s)
    else
      match (s.here.sem sem).add (semCount n) s.cur.pts with
      | none => .error (.trap 0x0E 0 (sem.setWidth 64))
      | some m => .ok (.on (s.modHere fun t => t.modSem sem fun _ => m))) s

/-- SEMT: take one if there is one (R164). -/
def execSemt (d : GReg) (sem : SemReg) (s : State) : Out :=
  runGroup .all false (fun s =>
    let m := s.here.sem sem
    if m.count = 0 then .ok (.on (s.modCur fun c => c.setG d 0))
    else .ok (.on ((s.modHere fun t =>
      t.modSem sem fun m => { m with count := m.count - 1 }).modCur fun c => (c.meet m.pts).setG d 1))) s

/-! ## Barriers -/

/-- Change a barrier of a tile. -/
def Tile.modBar (t : Tile) (i : BReg) (f : Barrier → Barrier) : Tile :=
  { t with bars := t.bars.set i.toNat (f (t.bars[i.toNat]'i.isLt)) i.isLt }

/-- A barrier of a tile. -/
def Tile.bar (t : Tile) (i : BReg) : Barrier := t.bars[i.toNat]'i.isLt

/-- The arrival proper, at a configured barrier with a member below the count (R168): a second arrival of a generation sets
ERR; the last one completes the generation. -/
def Barrier.arrive (b : Barrier) (member : Nat) (fault : Bool) (pts : Time) : Barrier :=
  if b.arrset.getLsbD member then { b with err := true }
  else
    let bit : Word := BitVec.ofNat 32 (2 ^ member)
    let flt := if fault then b.flt ||| bit else b.flt &&& ~~~bit
    let b := { b with pts := Time.join b.pts pts }
    if b.arrived + 1 = b.members then
      { b with lastflt := flt, flt := 0, arrset := 0, arrived := 0, gen := !b.gen, last := b.pts, pts := { b.pts with known := [] } }
    else { b with arrset := b.arrset ||| bit, flt := flt, arrived := b.arrived + 1 }

/-- An arrival from elsewhere: ERR at an unconfigured barrier, from outside the scope, or of a member not below the count
(R168). A collective completion has no scope test. -/
def Barrier.arriveFrom (b : Barrier) (inScope : Bool) (member : Nat) (fault : Bool) (pts : Time) : Barrier :=
  if !b.configured || !inScope || decide (b.members ≤ member) then { b with err := true }
  else b.arrive member fault pts

/-- The MEMBER and FAULT fields of an arrival word (R167). -/
def arrMember (w : Word) : Nat := natField w.toNat 0 5
def arrFault (w : Word) : Bool := w.getLsbD 7
def arrRank (w : Word) : Nat := natField w.toNat 8 17

/-- Send a remote arrival: a built-in message on VC 14 (R167, R210). -/
def State.sendArrival (s : State) (r : Nat) (i : CtxId) (target : Nat) (bar : BReg) (word : Word) (pts : Time) : State :=
  s.sendReq target { kind := .barr, key := bar.toNat, size := 0, data := word.setWidth 128, src := s.sender r i
                     posted := true, pts := pts, tag := s.reqs }

/-- BARA: an arrival at this tile's barrier, or one sent to another tile (R167, R168). -/
def execBara (d : BReg) (x : GReg) (s : State) : Out :=
  runGroup .all false (fun s =>
    let w := s.cur.getG x
    let rmt := w.getLsbD 31
    let b := s.here.bar d
    if w &&& 0x7E000060 ≠ 0 ∨ (!rmt ∧ arrRank w ≠ 0) ∨ (rmt ∧ s.ranked ≤ arrRank w) then .error s.refuse
    else if !rmt ∧ (!b.configured ∨ b.members ≤ arrMember w) then .error s.refuse
    else if !s.released then .error (.wait s)
    else if rmt then .ok (.on (s.sendArrival s.focus.rank s.focus.ctx (arrRank w) d w s.cur.pts))
    else .ok (.on (s.modHere fun t => t.modBar d fun b => b.arrive (arrMember w) (arrFault w) s.cur.pts))) s

/-- The SEEN bit of a barrier in a context (R169). -/
def Ctx.seenBit (c : Ctx) (i : BReg) : Bool := c.seen.getLsbD i.toNat

/-- Set the SEEN bit. -/
def Ctx.setSeen (c : Ctx) (i : BReg) (b : Bool) : Ctx :=
  let bit : Byte := BitVec.ofNat 8 (2 ^ i.toNat)
  { c with seen := if b then c.seen ||| bit else c.seen &&& ~~~bit }

/-- BARW: wait for a completion this context has not seen; the fault mask; acquire (R169). -/
def execBarw (d : GReg) (x : BReg) (s : State) : Out :=
  runGroup .all false (fun s =>
    let b := s.here.bar x
    if !b.configured then .error s.refuse
    else if b.gen = s.cur.seenBit x then .error (.wait s)
    else .ok (.on (s.modCur fun c => ((c.setSeen x b.gen).meet b.last).setG d b.lastflt))) s

/-- BARS: configure a barrier of this tile; its SEEN bits are cleared in all three contexts (R166). -/
def execBars (sc : Scope) (d : BReg) (x : GReg) (s : State) : Out :=
  runGroup .all false (fun s =>
    let n := (s.cur.getG x).toNat
    if n = 0 ∨ 32 < n ∨ sc = .lane ∨ sc = .core then .error s.refuse
    else .ok (.on (s.modHere fun t =>
      let t := t.modBar d fun _ => { configured := true, scope := sc, members := n }
      { t with s := t.s.setSeen d false, c := t.c.setSeen d false, m := t.m.setSeen d false }))) s

/-- The status word of a barrier (R170). -/
def Barrier.status (b : Barrier) (seen : Bool) : Word :=
  if b.configured then
    BitVec.ofNat 32 (2 ^ 31 + b.gen.toNat * 2 ^ 30 + b.err.toNat * 2 ^ 29 + b.scope.code * 2 ^ 26 + b.arrived % 64 * 2 ^ 16
      + b.members % 64 * 2 ^ 8 + seen.toNat)
  else 0

/-- BARQ (R170). -/
def execBarq (d : GReg) (x : BReg) (s : State) : Out :=
  let b := s.here.bar x
  plain (fun c => c.setG d (b.status (c.seenBit x))) s

/-! ## Time -/

/-- TICK (R171). -/
def execTick (d : AReg) (s : State) : Out := plain (fun c => c.setA d s.tick) s

/-- CYC (R171). -/
def execCyc (d : AReg) (s : State) : Out := let n := s.here.cyc; plain (fun c => c.setA d n) s

/-- WAITT (R171, R172). -/
def execWaitt (x : AReg) (s : State) : Out :=
  runGroup .all false (fun s => if s.tick < s.cur.getA x then .error (.wait s) else .ok (.on s)) s

/-- WAITC (R171). -/
def execWaitc (x : AReg) (s : State) : Out :=
  runGroup .all false (fun s => if s.here.cyc < s.cur.getA x then .error (.wait s) else .ok (.on s)) s

end Sys2Proof.Machine
end

