-- ==== Sys2Proof/Machine/Matrix.lean ====
section
/-! DEFINITION. The matrix unit (R85, R197 to R223, R367). -/

namespace Sys2Proof.Machine

/-! ## FMT, MSHAPE and the shape of operands (R198 to R202) -/

/-- The fields of FMT (R198). -/
def fmtAt (f : Word) : Nat := natField f.toNat 0 3
def fmtBt (f : Word) : Nat := natField f.toNat 3 3
def fmtSm (f : Word) : Nat := natField f.toNat 6 2
def fmtAct (f : Word) : Bool := f.getLsbD 8
def fmtAld (f : Word) : Nat := natField f.toNat 16 8
def fmtBld (f : Word) : Nat := natField f.toNat 24 8

/-- The fields of MSHAPE (R200). -/
def shapeM (w : Word) : Nat := natField w.toNat 0 6
def shapeN (w : Word) : Nat := natField w.toNat 8 6
def shapeK (w : Word) : Nat := natField w.toNat 16 11
def shapeSO (w : Word) : BitVec 2 := w.extractLsb' 28 2

/-- The writable bits of FMT, MSHAPE and GANG (R198, R200, R201). -/
def fmtMask : Word := 0xFFFF03FF
def shapeMask : Word := 0x37FF3F3F
def gangMask : Word := 0x00071F1F

/-- Bits of an element (R199). -/
def elemBits (t : Nat) : Nat := if t = 0 then 16 else if t = 4 then 4 else 8

/-- The chunk length, and what K and N must be multiples of, for a legal combination (R199). -/
def comboOf (at' bt sm : Nat) (act : Bool) : Option (Nat × Nat × Nat) :=
  if at' = 0 ∧ bt = 0 ∧ sm = 0 ∧ !act then some (16, 1, 1)
  else if (at' = 1 ∨ at' = 2) ∧ (bt = 1 ∨ bt = 2) ∧ sm ≤ 1 ∧ !act then some (32, if sm = 1 then 32 else 1, 1)
  else if at' = 3 ∧ bt = 3 ∧ sm = 0 ∧ act then some (32, 1, 1)
  else if at' = 4 ∧ bt = 4 ∧ sm = 1 ∧ !act then some (64, 32, 2)
  else if at' = 4 ∧ bt = 4 ∧ sm = 2 ∧ !act then some (64, 8, 2)
  else none

/-- Block scales along K (R202). -/
def scaleCount (sm k : Nat) : Nat := if sm = 1 then k / 32 else if sm = 2 then k / 8 else 0

/-- The row lengths of A in bytes: elements and scales, then the band row (R202). -/
def aRows (f w : Word) : List Nat :=
  let k := shapeK w
  List.replicate (shapeM w) (k * elemBits (fmtAt f) / 8 + scaleCount (fmtSm f) k) ++ (if fmtSm f = 2 then [2] else [])

/-- The row lengths of B (R202). -/
def bRows (f w : Word) : List Nat :=
  let k := shapeK w
  let n := shapeN w
  List.replicate k (n * elemBits (fmtBt f) / 8) ++ List.replicate (scaleCount (fmtSm f) k) n ++
    (if fmtSm f = 2 then [2 * ((k + 63) / 64)] else [])

/-- The row pitch; none when an explicit one is shorter than the longest row (R202). -/
def pitchFor (rows : List Nat) (ld : Nat) : Option Nat :=
  let big := rows.foldl max 0
  if ld = 0 then some ((big + 63) / 64 * 64) else if big ≤ ld * 64 then some (ld * 64) else none

/-- The bytes from the base to the end of the last row. -/
def extentOf (rows : List Nat) (pitch : Nat) : Nat := (rows.length - 1) * pitch + rows.getLastD 0

/-- The position (r0, c0) of an origin code (R197). -/
def originRow (o : BitVec 2) : Nat := if o.getLsbD 1 then 16 else 0
def originCol (o : BitVec 2) : Nat := if o.getLsbD 0 then 16 else 0

/-- The members of a gang, leader first; none when GANG is wrong (R201, R204, R210). -/
def State.gangOf (s : State) (r : Nat) (g : Word) : Option (List Nat) :=
  let v1 := g.getLsbD 4
  let v2 := g.getLsbD 12
  let ps := (if v1 then [natField g.toNat 0 4] else []) ++ (if v2 then [natField g.toNat 8 4] else [])
  let own := s.memberOf r
  let ranks := ps.filterMap fun m => s.memberRank (s.clusterOf r) m
  if (v2 && !v1) || ps.contains own || (ps.eraseDups.length != ps.length) || ranks.length != ps.length ||
      ranks.any (fun q => (s.tile q).pitch != (s.tile r).pitch) || g &&& ~~~gangMask != 0 then none
  else some (r :: ranks)

/-- The first configuration defect of R204, as its DETAIL. `mm` says MMA or MMAG, `kindBad` that the kind does not fit ACT. -/
def State.matDefect (s : State) (f w : Word) (o : BitVec 2) (mm gang kindBad : Bool) : Option Byte :=
  let m := shapeM w
  let n := shapeN w
  let k := shapeK w
  if 32 < m ∨ 32 < n ∨ (mm ∧ 1024 < k) then some 1
  else if 32 < originRow o + m ∨ 32 < originCol o + n then some 2
  else if !mm then (if kindBad then some 8 else none)
  else if 4 < fmtAt f ∨ 4 < fmtBt f ∨ fmtSm f = 3 ∨ f &&& ~~~fmtMask ≠ 0 ∨ w &&& ~~~shapeMask ≠ 0 then some 3
  else
    match comboOf (fmtAt f) (fmtBt f) (fmtSm f) (fmtAct f) with
    | none => some 4
    | some (_, km, nm) =>
      if k % km ≠ 0 ∨ n % nm ≠ 0 then some 5
      else if (pitchFor (aRows f w) (fmtAld f)).isNone || (pitchFor (bRows f w) (fmtBld f)).isNone then some 6
      else if gang && (s.gangOf s.focus.rank s.cur.gang).isNone then some 7
      else none

/-! ## Operands (R203, R204, R219, R220) -/

/-- The 64 KiB pages that an extent touches. -/
def pagesOf (va ext : Nat) : List Nat :=
  (List.range ((va + ext - 1) / 65536 - va / 65536 + 1)).map (· + va / 65536)

/-- The checks 6 to 9 of R204, once every translation is there, over the pages of a global extent, each condition over the whole extent: the pages' physical
addresses. The own-fly test reports the first byte of the page that fails, the others the pointer. What failed walks meet at a fly stands
(R369, R371). -/
def State.pagesAt (s : State) (r : Nat) (ptr : DWord) (detail : Byte) (va ext : Nat) (store own : Bool) :
    Except Exit (List (Nat × Nat)) :=
  match (s.tile r).pitch.bind s.pitch? with
  | none => .error (.trap 0x09 detail ptr)
  | some p =>
    let walks := (pagesOf va ext).map fun g => (g, s.translate r p.image.root p.image.homes (max va (g * 65536)))
    let leaves := walks.filterMap fun e => match e.2 with
      | .leaf l => some (e.1, l)
      | _ => none
    let at' (f : Nat → Nat → List Word → Nat → Bool) : Bool := (pagesOf va ext).any fun g => f r p.image.root p.image.homes (max va (g * 65536))
    let fails (code : Byte) : Exit :=
      if at' s.walkMeets then
        .trapIn ((pagesOf va ext).foldl (fun s g => s.walkRead p.image.root p.image.homes (max va (g * 65536))) s) code detail ptr
      else .trap code detail ptr
    if at' s.walkDue then .error (.wait s)
    else if walks.any fun e => e.2 == .bad then .error (fails 0x21)
    else if leaves.length ≠ walks.length then .error (fails 0x09)
    else if leaves.any fun e => !(match s.homeOf e.2.home (e.2.paOf (e.1 * 65536)) with
        | some h => s.within e.2.scope h r
        | none => false) then .error (.trap 0x08 detail ptr)
    else if store && leaves.any (·.2.ro) then .error (.trap 0x0A detail ptr)
    else
      match (if own then leaves.find? fun e => e.2.paOf (e.1 * 65536) / 2 ^ 25 != r else none) with
      | some e => .error (.trap 0x0B detail (BitVec.ofNat 64 (max va (e.1 * 65536))))
      | none => .ok (leaves.map fun e => (e.1, e.2.paOf (e.1 * 65536)))

/-- Which windows an operand accepts. -/
inductive Accepts where
  | sram | fly | sramOrFly | scratchOrBuffer
  deriving DecidableEq, Repr

/-- The window is accepted (R203, R219, R220). -/
def Accepts.takes : Accepts → Space → Bool
  | .sram, .scratch _ _ | .sram, .cluster _ => true
  | .fly, .global _ => true
  | .sramOrFly, .scratch _ _ | .sramOrFly, .cluster _ | .sramOrFly, .global _ => true
  | .scratchOrBuffer, .scratch _ _ | .scratchOrBuffer, .buffer _ _ => true
  | _, _ => false

/-- The member and local offset of a cluster offset (R258). -/
def clusterMember (f : Nat) : Nat := natField f 8 4
def clusterLocal (f : Nat) : Nat := natField f 12 10 * 256 + f % 256

/-- Check an operand of `ext` bytes by R204. -/
def State.matOperand (s : State) (detail : Byte) (acc : Accepts) (align : Nat) (ptr : DWord) (ext : Nat) : Except Exit MatPlace :=
  let r := s.focus.rank
  let bad (code : Byte) : Except Exit MatPlace := .error (.trap code detail ptr)
  match spaceOf ptr with
  | none => bad 0x05
  | some sp =>
    if ptr.toNat % align ≠ 0 then bad 0x04
    else if !acc.takes sp then bad 0x06
    else
      match sp with
      | .scratch owner off =>
        if owner ≠ r then bad 0x07
        else if s.here.scratchSize < off + ext then bad 0x06
        else .ok (.at (sramKey r .scratch off))
      | .cluster f =>
        if clusterMember f ≠ s.memberOf r ∨ 32768 * s.here.shared.toNat < clusterLocal f + ext then bad 0x06
        else .ok (.at (sramKey r .shared (clusterLocal f)))
      | .global va => (s.pagesAt r ptr detail va ext false true).map fun g => .fly va g
      | .buffer h off =>
        match s.pitchHere.bind fun p => p.handles[h]? with
        | none => bad 0x06
        | some hd =>
          if hd.buffer.size < off + ext then bad 0x06
          else (s.pagesAt r ptr detail (hd.va true off) ext true false).map fun _ => .buffer h off
      | .lane _ => bad 0x06

/-- The place of a partner's A: the same scratch or local offset in its own portions (R210). -/
def State.partnerPlace (s : State) (q : Nat) (ext : Nat) : MatPlace → MatPlace
  | .at key =>
    let off := (key - 2 ^ 60) % 2 ^ 22
    let limit := if off < 2 ^ 20 then (s.tile q).scratchSize else 2 ^ 20 + 32768 * (s.tile q).shared.toNat
    if limit < off + ext then .bad 0x06 else .at (2 ^ 60 + q * 2 ^ 22 + off)
  | p => p

/-- The SRAM bytes of a place (R209). -/
def MatPlace.range (p : MatPlace) (ext : Nat) : List (Nat × Nat) :=
  match p with
  | .at key => [(key, ext)]
  | _ => []

/-! ## Issue (R204 to R210, R214, R215, R218, R220) -/

/-- Put a command at the end of a tile's matrix queue. -/
def State.enqueue (s : State) (r : Nat) (c : MatCmd) : State :=
  s.modTile r fun t => { t with matrix := { t.matrix with queue := t.matrix.queue ++ [c] } }

/-- The unit's time is not before the issuing context's (R209, R284). -/
def State.matIssue (s : State) : State :=
  s.modHere fun t => { t with matrix := { t.matrix with pts := maxTime t.matrix.pts t.c.pts.time } }

/-- The queues have room and the context's earlier accesses are performed (R208, R209). -/
def State.matReady (s : State) (ranks : List Nat) : Bool :=
  s.released && s.cur.posted.isEmpty && ranks.all fun q => decide ((s.tile q).matrix.queue.length < 8)

/-- The configuration of the issuing context. -/
def matFault (c : Ctx) (detail : Byte) : Exit := .trap 0x11 detail (c.mshape ++ c.fmt)

/-- The firing runs with the unit in check mode (R207). -/
def State.firingChk (s : State) : Bool :=
  ((s.here.coreC.slots[s.cur.hcur.toNat]?).map (·.chk)).getD false

/-- MMA and MMAG (R205, R206, R210). -/
def issueMma (gang : Bool) (z : ZReg) (x y : AReg) (acc bsrc chk : Bool) : State → Out :=
  runGroup .compute false fun s => do
    let c := s.cur
    let f := c.fmt
    let w := c.mshape
    match s.matDefect f w z true gang false with
    | some d => throw (matFault c d)
    | none => pure ()
    let reads := shapeM w ≠ 0 ∧ shapeN w ≠ 0 ∧ shapeK w ≠ 0
    let aExt := extentOf (aRows f w) ((pitchFor (aRows f w) (fmtAld f)).getD 0)
    let bExt := extentOf (bRows f w) ((pitchFor (bRows f w) (fmtBld f)).getD 0)
    let a ← if reads then s.matOperand 1 .sram 64 (c.getA x) aExt else pure .none
    let b ← if reads then s.matOperand 2 (if bsrc then .fly else .sram) 64 (c.getA y) bExt else pure .none
    let ranks := if gang then (s.gangOf s.focus.rank c.gang).getD [s.focus.rank] else [s.focus.rank]
    if !s.matReady ranks then throw (.wait s)
    let cmd : MatCmd :=
      { known := c.pts.known, op := .mma, fmt := f, mshape := w, amode := c.amode, origin := z, acc := acc, bsrc := bsrc
        chk := chk || f.getLsbD 9 || s.firingChk, a := a, b := b
        gang := if gang then ranks else [], bar := (c.gang >>> 16).setWidth 3, tag := s.reqs
        ranges := a.range aExt ++ b.range bExt }
    let s := { s.matIssue with reqs := s.reqs + 1 }
    return .on (ranks.zipIdx.foldl (fun s e =>
      let place := if e.2 = 0 then a else s.partnerPlace e.1 aExt a
      s.enqueue e.1 { cmd with
        member := e.2, a := place, ranges := if e.2 = 0 then cmd.ranges else place.range aExt }) s)

/-- MMA (R205, R206). -/
def execMma (z : ZReg) (x y : AReg) (acc bsrc chk : Bool) (s : State) : Out := issueMma false z x y acc bsrc chk s

/-- MMAG (R210). -/
def execMmag (z : ZReg) (x y : AReg) (acc bsrc chk : Bool) (s : State) : Out := issueMma true z x y acc bsrc chk s

/-- MSH (R214). -/
def execMsh (d x : GReg) (s : State) : Out :=
  runGroup .compute false (fun s =>
    let w := s.cur.getG x
    if w &&& ~~~shapeMask ≠ 0 then .error (.trap 0x11 0x03 (w.setWidth 64))
    else if 32 < shapeM w ∨ 32 < shapeN w ∨ 1024 < shapeK w then .error (.trap 0x11 0x01 (w.setWidth 64))
    else .ok (.on (s.modCur fun c => { c.setG d c.mshape with mshape := w }))) s

/-- MFMT (R214). -/
def execMfmt (d x : GReg) (s : State) : Out :=
  runGroup .compute false (fun s =>
    let w := s.cur.getG x
    if w &&& ~~~fmtMask ≠ 0 ∨ 4 < fmtAt w ∨ 4 < fmtBt w ∨ fmtSm w = 3 then .error (.trap 0x11 0x03 (w.setWidth 64))
    else .ok (.on (s.modCur fun c => { c.setG d c.fmt with fmt := w }))) s

/-- MZERO: one queue entry; its mask stands in `stride` (R215). -/
def execMzero (x : GReg) (s : State) : Out :=
  runGroup .compute false (fun s =>
    let c := s.cur
    if !s.matReady [s.focus.rank] then .error (.wait s)
    else .ok (.on (s.matIssue.enqueue s.focus.rank
      { known := c.pts.known, op := .mzero, fmt := c.fmt, mshape := c.mshape, amode := c.amode, origin := 0, stride := (c.getG x).toNat % 16 }))) s

/-- MWAIT (R216): the context meets the unit's time. -/
def execMwait (x : GReg) (s : State) : Out :=
  runGroup .compute false (fun s =>
    if (s.cur.getG x).toNat < s.here.matrix.queue.length then .error (.wait s)
    else .ok (.on (let p := s.here.matrix.pts; s.modCur (·.meetTime p)))) s

/-- The status word of MSTAT (R216). -/
def Matrix.status (m : Matrix) : Word :=
  m.done ++ m.cause ++ 0#7 ++ BitVec.ofBool m.abort ++ 0#3 ++ BitVec.ofBool (!m.queue.isEmpty) ++
    BitVec.ofNat 4 m.queue.length

/-- MSTAT (R216). -/
def execMstat (d : GReg) (s : State) : Out :=
  runGroup .compute false (fun s => .ok (.on (let w := s.here.matrix.status; s.modCur fun c => c.setG d w))) s

/-! ## The accumulators (R197, R217) -/

/-- The place of a cell in the accumulator store. -/
def cellKey (r c : Nat) : Nat := (r * 32 + c) * 4

/-- The bits of a cell. -/
def Tile.cell (t : Tile) (r c : Nat) : Word := t.z.read 32 (cellKey r c) 4

/-- Write a cell. -/
def Tile.setCell (t : Tile) (r c : Nat) (w : Word) : Tile := { t with z := t.z.write (cellKey r c) 4 w }

/-- The (m, n) of an M × N region, row by row. -/
def cellsOf (m n : Nat) : List (Nat × Nat) := (List.range m).flatMap fun i => (List.range n).map fun j => (i, j)

/-- Write the cells that an origin and extents cover. -/
def Tile.fillCells (t : Tile) (o : BitVec 2) (m n : Nat) (f : Nat → Nat → Word) : Tile :=
  (cellsOf m n).foldl (fun t e => t.setCell (originRow o + e.1) (originCol o + e.2) (f e.1 e.2)) t

/-- MTOV (R217). -/
def execMtov (p : PReg) (d : VReg) (x : GReg) (s : State) : Out :=
  runGroup .compute false (fun s =>
    if !s.here.matrix.queue.isEmpty then .error (.wait s)
    else
      let t := s.here
      .ok (.on (s.modCur fun c =>
        c.setV d (merge (c.getP p) (c.getV d) fun j => t.cell ((c.getG x).toNat % 32) j)))) s

/-- VTOM (R217). -/
def execVtom (p : PReg) (d : VReg) (x : GReg) (s : State) : Out :=
  runGroup .compute false (fun s =>
    if !s.here.matrix.queue.isEmpty then .error (.wait s)
    else
      let c := s.cur
      .ok (.on (s.modHere fun t => (activeLanes (c.getP p)).foldl (fun t j =>
        t.setCell ((c.getG x).toNat % 32) j (lane (c.getV d) j)) t))) s

/-! ## MST and MLD at issue (R218 to R220) -/

/-- Bytes of an output element (R218). -/
def mstSize : MstKind → Nat
  | .f32 | .i32 => 4 | .bf16 | .bf16sr => 2 | .e4m3 | .e5m2 | .i8 => 1

/-- The kind needs ACT = INT32 (R218). -/
def mstInt : MstKind → Bool
  | .i32 | .i8 => true
  | _ => false

/-- Bytes of a loaded element (R220). -/
def mldSize : MldKind → Nat
  | .f32 => 4 | .bf16 => 2

/-- The row stride that g[d] gives; none when it is refused (R218). -/
def matStride (n size : Nat) (w : Word) : Option Nat :=
  if w = 0 then some ((n * size + 15) / 16 * 16)
  else if w.toNat % 16 ≠ 0 ∨ w.toNat < n * size then none
  else some w.toNat

/-- The place is in a published buffer. -/
def MatPlace.isBuffer : MatPlace → Bool
  | .buffer _ _ => true
  | _ => false

/-- The issue of an engine command that writes a published buffer is a numbered event, which happens before the later groups of its
context (R288). -/
def State.numbered (s : State) (buffer : Bool) : State :=
  if buffer then { s with events := s.events + 1 }.modCur fun c => { c with pts := { c.pts with known := insertNat c.pts.known s.newEvent } }
  else s

/-- MST and MLD: the configuration, the stride, the operand, then one queue entry. `seed` advances the generator. -/
def issueMove (op : MatOp) (size : Nat) (kindBad : Word → Bool) (acc : Accepts) (d : GReg) (x : AReg) (imm : BitVec 64)
    (seed : Nat → Ctx → Ctx) : State → Out :=
  runGroup .compute false fun s => do
    let c := s.cur
    let m := shapeM c.mshape
    let n := shapeN c.mshape
    match s.matDefect c.fmt c.mshape (shapeSO c.mshape) false false (kindBad c.fmt) with
    | some k => throw (matFault c k)
    | none => pure ()
    let moves := m ≠ 0 ∧ n ≠ 0
    let stride ← match matStride n size (c.getG d) with
      | some v => pure v
      | none => if moves then throw (.trap 0x04 0x03 ((c.getG d).setWidth 64)) else pure 0
    let ext := (m - 1) * stride + n * size
    let place ← if moves then s.matOperand 3 acc 16 (c.ea x imm 16) ext else pure .none
    if !s.matReady [s.focus.rank] then throw (.wait s)
    return .on (((s.matIssue.enqueue s.focus.rank
      { op := op, fmt := c.fmt, mshape := c.mshape, amode := c.amode, seed := c.srseed, origin := shapeSO c.mshape
        a := place, stride := stride, ranges := place.range ext, known := c.pts.known, born := s.newEvent }).numbered
          place.isBuffer).modCur (seed (m * n)))

/-- MST (R218, R219): the stochastic kind advances SRSEED at commit, by 16 steps for each element (R78). -/
def execMst (k : MstKind) (d : GReg) (x : AReg) (imm : BitVec 64) (s : State) : Out :=
  issueMove (.mst k) (mstSize k) (fun f => mstInt k != fmtAct f) .scratchOrBuffer d x imm
    (fun n c => if k = .bf16sr then { c with srseed := lfsrSteps (16 * n) c.srseed } else c) s

/-- MLD (R220). -/
def execMld (k : MldKind) (d : GReg) (x : AReg) (imm : BitVec 64) (s : State) : Out :=
  issueMove (.mld k) (mldSize k) (fun f => k == .bf16 && fmtAct f) .sramOrFly d x imm (fun _ c => c) s

/-! ## What a command computes (R68, R85, R206) -/

/-- The byte of a row. -/
def rowByte (row : List Byte) (i : Nat) : Nat := (row.getD i 0).toNat

/-- The raw element `i` of a row of elements of `w` bits. -/
def rowElem (row : List Byte) (w i : Nat) : Nat :=
  if w = 16 then rowByte row (2 * i) + 256 * rowByte row (2 * i + 1)
  else if w = 4 then rowByte row (i / 2) / 16 ^ (i % 2) % 16
  else rowByte row i

/-- The value of a floating element (R66, R199). -/
def elemValue (t raw : Nat) : FVal :=
  match t with
  | 0 => FFmt.bf16.decode raw
  | 1 => FFmt.e4m3.decode raw
  | 2 => FFmt.e5m2.decode raw
  | _ => FFmt.e2m1.decode raw

/-- A product of values that keeps infinities: a NaN, or an infinity times zero, is a NaN (R85). -/
def exactMul (x y : FVal) : FVal :=
  if x.isNaN || y.isNaN then .nan false 0 false
  else
    match mulPre x y with
    | .exact v => .fin v
    | .inf n _ => .inf n
    | .invalid => .nan false 0 false

/-- A sum that rounds nothing (R85). -/
def exactAdd (x y : FVal) : FVal :=
  if x.isNaN || y.isNaN then .nan false 0 false
  else
    match addPre .rne x y with
    | .exact v => .fin v
    | .inf n _ => .inf n
    | .invalid => .nan false 0 false

/-- A block scale by the scale mode (R67, R68). -/
def blockScale (sm raw : Nat) : FVal :=
  if sm = 1 then (match e8m0 raw with
    | some v => .fin v
    | none => .nan false 0 false)
  else .fin (e3m5 raw)

/-- A band scale: an infinity acts as a NaN (R68). -/
def bandScale (raw : Nat) : FVal :=
  match FFmt.bf16.decode raw with
  | .fin v => .fin v
  | _ => .nan false 0 false

/-- An element with its scales (R68). A block scale of 0x00 under a band scale that is a NaN or an infinity gives a NaN: R68 says both that
the element is zero and that it is a NaN (DEDUCED, log 26). -/
def scaled (sm : Nat) (e : FVal) (block band : Nat) : FVal :=
  if sm = 0 then e
  else if sm = 1 then exactMul e (blockScale 1 block)
  else exactMul (exactMul e (blockScale 2 block)) (bandScale band)

/-- A[m][k] from A's rows (R202). -/
def aElem (f w : Word) (rows : List (List Byte)) (m k : Nat) : FVal :=
  let row := rows.getD m []
  let bits := elemBits (fmtAt f)
  let sm := fmtSm f
  let blk := if sm = 1 then k / 32 else k / 8
  scaled sm (elemValue (fmtAt f) (rowElem row bits k)) (rowByte row (shapeK w * bits / 8 + blk))
    (rowElem (rows.getD (shapeM w) []) 16 0)

/-- B[k][n] from B's rows (R202). -/
def bElem (f w : Word) (rows : List (List Byte)) (k n : Nat) : FVal :=
  let sm := fmtSm f
  let kk := shapeK w
  let blk := if sm = 1 then k / 32 else k / 8
  scaled sm (elemValue (fmtBt f) (rowElem (rows.getD k []) (elemBits (fmtBt f)) n))
    (rowByte (rows.getD (kk + blk) []) n)
    (rowElem (rows.getD (kk + scaleCount sm kk) []) 16 (k / 64))

/-- The exact sum of a chunk: +0 unless every product is −0 (R85). -/
def chunkSum (prods : List FVal) : FVal :=
  match prods with
  | [] => .fin (Ex.zero false)
  | p :: ps => ps.foldl exactAdd p

/-- acc := RoundTo(FP32, acc + t, RNE) with the canonical NaN (R85). -/
def accumulate (acc : Word) (t : FVal) : Word :=
  let a := FFmt.f32.decode acc.toNat
  BitVec.ofNat 32 (FFmt.f32.finish {} [a, t] 0 (addPre .rne a t)).bits

/-- The chunk's sum would overflow FP32, underflow (log 21) or be subnormal in it, so that its check is skipped (R365, R367). -/
def chunkSkips (t : FVal) : Bool :=
  match t with
  | .fin v => let r := FFmt.f32.roundFin v .rne false; (r.flags &&& (fOF ||| fUF) != 0) || FFmt.f32.isSubnormal r.bits
  | _ => false

/-- The rows of an operand as the unit has read them for a chunk of a cell: a piece may be read more than once (R209). -/
abbrev Rows := Nat → Nat → Nat → List (List Byte)

/-- The chunk length of a configuration (R199). -/
def chunkOf (f : Word) : Nat := ((comboOf (fmtAt f) (fmtBt f) (fmtSm f) (fmtAct f)).map (·.1)).getD 16

/-- The chunk sums of a cell (R85). -/
def cellSums (f w : Word) (arows brows : Rows) (m n : Nat) : List FVal :=
  let k := shapeK w
  let chunk := chunkOf f
  (List.range ((k + chunk - 1) / chunk)).map fun j =>
    let a := arows m n j
    let b := brows m n j
    chunkSum ((List.range (min chunk (k - j * chunk))).map fun i =>
      exactMul (aElem f w a m (j * chunk + i)) (bElem f w b (j * chunk + i) n))

/-- The new FP32 cell (R85). -/
def cellFloat (f w : Word) (arows brows : Rows) (start : Word) (m n : Nat) : Word :=
  (cellSums f w arows brows m n).foldl accumulate start

/-- The new INT32 cell (R206). -/
def cellInt (f w : Word) (arows brows : Rows) (start : Word) (m n : Nat) : Word :=
  (List.range (shapeK w)).foldl (fun t k =>
    let j := k / chunkOf f
    t + (((arows m n j).getD m []).getD k 0).signExtend 32 * (((brows m n j).getD k []).getD n 0).signExtend 32) start

/-! ## Reading and writing memory -/

/-- The key of a byte of an operand; none where no page was translated. -/
def MatPlace.keyAt (p : MatPlace) (i : Nat) : Option Nat :=
  match p with
  | .at k => some (k + i)
  | .fly va pages =>
    ((pages.find? fun g => g.1 == (va + i) / 65536).map fun g => g.2 + (va + i) % 65536)
  | _ => Option.none

/-- The keys of the rows of an operand. -/
def MatPlace.rowKeys (p : MatPlace) (lens : List Nat) (pitch : Nat) : List (List Nat) :=
  lens.zipIdx.map fun e => (List.range e.1).filterMap fun i => p.keyAt (e.2 * pitch + i)

/-- The granules of a command's fly operands cross the pole (R369, R371): the state, and the memory as the unit sees it. -/
def State.keysSeen (s : State) (keys : List Nat) : State × Mem :=
  (((keys.filter (· < flyEnd)).map lineOf).eraseDups).foldl (fun e k =>
    let c := e.1.readSeen k 64
    (c.1, if (e.1.tile (k / 2 ^ 25)).fly.sound then e.2 else e.2.putBytes k (c.2.bytes k 64))) (s, s.mem)

/-- The first bad byte of an operand's rows (R211, R373). -/
def State.badKey (s : State) (keys : List (List Nat)) : Option Nat :=
  (keys.flatMap fun row => row).find? fun k => s.poisoned k 1

/-- A remap holds a bank of the rows: the access waits (R370). -/
def State.heldKeys (s : State) (keys : List (List Nat)) : Bool := keys.any fun row => row.any s.bankHeld

/-- The bytes of an operand's rows. -/
def State.rowBytes (s : State) (keys : List (List Nat)) : List (List Byte) := keys.map fun row => row.map s.mem.get

/-- The values that the unit has read of a byte: those of the pieces read so far, or, of a piece not yet read, what the byte holds
now (R209). -/
def State.readings (s : State) (reads : List (Nat × List Byte)) (key : Nat) : List Byte :=
  match reads.filterMap fun e => if e.1 ≤ key then e.2[key - e.1]? else none with
  | [] => [s.mem.get key]
  | bs => bs

/-- The rows for each chunk of each cell: where a piece has been read more than once, any of its values may serve (R209, log 19). -/
def State.rowsRead (s : State) (reads : List (Nat × List Byte)) (keys : List (List Nat)) : Rows :=
  if reads.isEmpty then
    let rows := s.rowBytes keys
    fun _ _ _ => rows
  else fun m n j => keys.map fun row => row.map fun k =>
    let bs := s.readings reads k
    (bs[Config.pieceChoice s.free (k / 16) (m * 32 + n) j % bs.length]?).getD 0

/-- The 16-byte pieces of an operand's rows, each once (R209). -/
def piecesOf (keys : List (List Nat)) : List Nat := ((keys.flatMap fun row => row).map fun k => k / 16 * 16).eraseDups

/-- The unit reads lines of its own fly: each is stamped at its home, and the unit's time meets theirs (R284). -/
def State.matStamp (s : State) (r : Nat) (keys : List (List Nat)) : State :=
  let lines := ((keys.flatMap fun row => row).filter (· < flyEnd)).map lineOf |>.eraseDups
  lines.foldl (fun s l =>
    let st := s.stampRead r l (s.tile r).matrix.pts 0
    st.1.modTile r fun t => { t with matrix := { t.matrix with pts := maxTime t.matrix.pts st.2.1 } }) s

/-- A remap holds a bank that a write of the bytes to a published buffer's shadow reaches (R370). -/
def State.shadowHeld (s : State) (r h off len : Nat) : Bool :=
  (List.range ((len + 15) / 16)).any fun j =>
    match s.spaceTarget r .engineWrite 1 (.buffer h (off + 16 * j)) with
    | .ok t => s.bankHeld t.key
    | .error _ => false

/-- Write bytes to a published buffer's shadow, at the home of each 16-byte piece (R219, R287). The handle's time follows. -/
def State.writeShadow (s : State) (r h off : Nat) (bytes : List Byte) (pts : DWord) : State × DWord :=
  (List.range ((bytes.length + 15) / 16)).foldl (fun (e : State × DWord) j =>
    let piece := (bytes.drop (16 * j)).take 16
    match e.1.spaceTarget r .engineWrite piece.length (.buffer h (off + 16 * j)) with
    | .error _ => e
    | .ok t =>
      let w := e.1.performWrite (t.homeFrom r) t.key piece.length (BitVec.ofNat 128 (natOfBytes piece)) ⟨e.2, []⟩ (r, none)
      let id := ((e.1.tile r).pitch).getD ⟨0, 0⟩
      (w.1.modPitch id fun p => { p with handles := p.handles.mapIdx fun i d =>
        if i = h then { d with pts := { d.pts with time := maxTime d.pts.time w.2 } } else d }, w.2)) (s, pts)

/-! ## Ending a command (R208, R210 to R212, R216) -/

/-- An arrival word for a remote barrier (R167, R210). -/
def arrivalWord (target member : Nat) (fault : Bool) : Word :=
  BitVec.ofNat 32 (2 ^ 31 + target * 256 + fault.toNat * 128 + member)

/-- A member's arrivals at every gang tile (R210). -/
def State.gangArrive (s : State) (r : Nat) (c : MatCmd) (fault : Bool) : State :=
  c.gang.foldl (fun s q => s.sendArrival r .c q c.bar (arrivalWord q c.member fault) ⟨(s.tile r).matrix.pts, c.known⟩) s

/-- The head command leaves the queue as completed. -/
def State.matDone (s : State) (r : Nat) (c : MatCmd) : State :=
  (s.modTile r fun t => { t with matrix := { t.matrix with
    queue := t.matrix.queue.tail, done := t.matrix.done + 1, chunk := 0, replays := 0 } }).gangArrive
    r c false

/-- The entries of the same gang command at the other members. -/
def State.modGang (s : State) (r : Nat) (c : MatCmd) (f : MatCmd → MatCmd) : State :=
  c.gang.foldl (fun s q => if q = r then s else s.modTile q fun t =>
    { t with matrix := { t.matrix with queue := t.matrix.queue.map fun d => if d.tag = c.tag ∧ d.gang = c.gang then f d else d } }) s

/-- The aborted cell's bits (R211). -/
def abortCell (f : Word) : Word := if fmtAct f then 0x80000000 else 0x7FC00000

/-- What a command that leaves the queue without completing still does: a gang part sends its arrivals with FAULT = 1, and a
leader's part that had not multicast B leaves the other members without it (R211). -/
def State.matDiscard (s : State) (r : Nat) (cause : Byte) (c : MatCmd) : State :=
  let s := if c.member = 0 ∧ c.bdata.isNone ∧ c.b ≠ .none then s.modGang r c fun d => { d with lost := some (d.lost.getD cause) } else s
  s.gangArrive r c true

/-- The head command aborts: its cells, its cause, the arrivals owed, the rest of the queue (R211, R212). -/
def State.matAbort (s : State) (r : Nat) (cause : Byte) : State :=
  match (s.tile r).matrix.queue with
  | [] => s
  | c :: cs =>
    let cells (t : Tile) : Tile :=
      match c.op with
      | .mzero => t
      | _ => t.fillCells c.origin (shapeM c.mshape) (shapeN c.mshape) fun _ _ => abortCell c.fmt
    let s := s.modTile r fun t => { cells t with
      matrix := { t.matrix with
        queue := [], cause := cause, abort := true, chunk := 0, replays := 0, done := t.matrix.done + BitVec.ofNat 8 (cs.length + 1) } }
    (c :: cs).foldl (fun s d => s.matDiscard r cause d) s

/-- The same for bad data or a repeated mismatch, which post a fatal record (R211, R374). -/
def State.matFatal (s : State) (r : Nat) (cause : Byte) (value : DWord) : State :=
  let t := s.tile r
  (s.matAbort r cause).post r (s.hwRecord r none cause 0 value true false
    (if cause = 0x22 then payload2 t.chkcnt t.chkskip else 0))

/-! ## MATRIX_COMMAND_COMPLETE (R206, R208, R219, R220) -/

/-- The row keys of the B of a command, as its leader reads them. -/
def MatCmd.bKeys (c : MatCmd) : List (List Nat) :=
  c.b.rowKeys (bRows c.fmt c.mshape) ((pitchFor (bRows c.fmt c.mshape) (fmtBld c.fmt)).getD 0)

/-- The row keys of the A of a command. -/
def MatCmd.aKeys (c : MatCmd) : List (List Nat) :=
  c.a.rowKeys (aRows c.fmt c.mshape) ((pitchFor (aRows c.fmt c.mshape) (fmtAld c.fmt)).getD 0)

/-- The leader's entry of a gang command, when it stands at the head of the leader's queue (R208, R210). -/
def State.leaderHead (s : State) (c : MatCmd) : Option MatCmd :=
  match c.gang.head? with
  | none => none
  | some q => ((s.tile q).matrix.queue.head?).bind fun d => if d.tag = c.tag ∧ d.gang = c.gang then some d else none

/-- B as a member has it: what was multicast, or what the leader reads now, which then is multicast. -/
def State.bData (s : State) (c : MatCmd) : Option (List (List Byte)) :=
  match c.bdata with
  | some b => some b
  | none =>
    if c.gang.isEmpty || c.member = 0 || c.b = .none then some (s.rowsRead c.reads c.bKeys 0 0 0)
    else
      match s.leaderHead c with
      | some d => if (s.badKey d.bKeys).isNone && !s.heldKeys d.bKeys then some (s.rowsRead d.reads d.bKeys 0 0 0) else none
      | none => none

/-- The covered cells after MMA (R206). -/
def Tile.multiply (t : Tile) (c : MatCmd) (arows brows : Rows) : Tile :=
  t.fillCells c.origin (shapeM c.mshape) (shapeN c.mshape) fun m n =>
    let old := if c.acc then t.cell (originRow c.origin + m) (originCol c.origin + n) else 0
    if fmtAct c.fmt then cellInt c.fmt c.mshape arows brows old m n else cellFloat c.fmt c.mshape arows brows old m n

/-- Some chunk of a command in check mode is not checked (R365, R367). -/
def MatCmd.skips (c : MatCmd) (arows brows : Rows) : Bool :=
  c.chk && !fmtAct c.fmt &&
    (cellsOf (shapeM c.mshape) (shapeN c.mshape)).any fun e => (cellSums c.fmt c.mshape arows brows e.1 e.2).any chunkSkips

/-- A and B of a command as the unit has read them: B of a gang command is read once and multicast (R209, R210). -/
def MatCmd.rowsOf (c : MatCmd) (s : State) (b : List (List Byte)) : Rows × Rows :=
  (s.rowsRead c.reads c.aKeys, if c.gang.isEmpty && c.bdata.isNone then s.rowsRead c.reads c.bKeys else fun _ _ _ => b)

/-- The B that a member's completion has to read, and the tile whose part it is of: its own or, at a partner, its leader's (R210). -/
def State.bToRead (s : State) (r : Nat) (c : MatCmd) : Nat × List (List Nat) :=
  if c.bdata.isSome then (r, [])
  else if c.gang.isEmpty || c.member = 0 then (r, c.bKeys)
  else (c.gang.headD r, ((s.leaderHead c).map MatCmd.bKeys).getD [])

/-- MMA and MMAG at a member (R206, R210, R211). Bad data in a B that its leader reads ends the leader's part. -/
def State.runMma (s : State) (r : Nat) (c : MatCmd) : State :=
  match c.lost, c.a with
  | some cause, _ => s.matAbort r cause
  | none, .bad cause => s.matAbort r cause
  | none, _ =>
    let own := s.bToRead r c
    if s.heldKeys own.2 then s
    else
    let e := s.keysSeen ((c.aKeys ++ own.2).flatMap fun row => row)
    let s := e.1
    let seen : State := { s with mem := e.2 }
    let ends (q k : Nat) : State := s.matFatal q (badCode k) (BitVec.ofNat 64 (if k < 2 ^ 52 then k else k % 2 ^ 22))
    match s.badKey c.aKeys, s.badKey own.2 with
    | some k, _ => ends r k
    | none, some k => ends own.1 k
    | none, none =>
      match seen.bData c with
      | none => s
      | some b =>
        let rows := c.rowsOf seen b
        let s := s.matStamp own.1 own.2
        let s := { s.modGang r c fun d => { d with bdata := some b } with free := s.free + 1 }
        let s := s.modTile r fun t =>
          let t := t.multiply c rows.1 rows.2
          { t with chkskip := if c.skips rows.1 rows.2 then t.chkskip + 1 else t.chkskip }
        s.matDone r c

/-- One output element of MST (R218). -/
def mstElem (k : MstKind) (nsat : Bool) (seed : Word) (i : Nat) (cell : Word) : List Byte :=
  let conv (f : FFmt) (rm : RMode) : Nat :=
    (f.convertTo { rm := rm, nsat := nsat } (FFmt.f32.decode cell.toNat)).bits
  match k with
  | .f32 | .i32 => bytesOfNat 4 cell.toNat
  | .bf16 => bytesOfNat 2 (conv .bf16 .rne)
  | .bf16sr => bytesOfNat 2 (conv .bf16 (.sr (lfsrBits (lfsrSteps (16 * i) seed))))
  | .e4m3 => bytesOfNat 1 (conv .e4m3 .rne)
  | .e5m2 => bytesOfNat 1 (conv .e5m2 .rne)
  | .i8 => bytesOfNat 1 (intBits 8 (clampInt (-128) 127 cell.toInt))

/-- The bytes of row `m` that MST stores. -/
def Tile.mstRow (t : Tile) (c : MatCmd) (k : MstKind) (m : Nat) : List Byte :=
  let n := shapeN c.mshape
  (List.range n).flatMap fun j =>
    mstElem k (c.amode.getLsbD 6) c.seed (m * n + j) (t.cell (originRow c.origin + m) (originCol c.origin + j))

/-- The number of 16-byte pieces that MST stores of each row. -/
def MatCmd.rowPieces (c : MatCmd) (k : MstKind) : Nat := (shapeN c.mshape * mstSize k + 15) / 16

/-- The number of pieces that MST stores. -/
def MatCmd.storePieces (c : MatCmd) (k : MstKind) : Nat := shapeM c.mshape * c.rowPieces k

/-- Change the head command of a tile's matrix queue. -/
def State.modMatHead (s : State) (r : Nat) (f : MatCmd → MatCmd) : State :=
  s.modTile r fun t => { t with matrix := { t.matrix with queue := match t.matrix.queue with
    | c :: cs => f c :: cs
    | [] => [] } }

/-- The next piece of MST, in ascending order within a row and over the rows (R219); it waits while its bank is held (R370). -/
def State.mstPiece (s : State) (r : Nat) (c : MatCmd) (k : MstKind) (n : Nat) : State :=
  let m := n / c.rowPieces k
  let j := n % c.rowPieces k
  let bytes := (((s.tile r).mstRow c k m).drop (16 * j)).take 16
  match c.a with
  | .at key =>
    (s.store (key + m * c.stride + 16 * j) bytes.length (BitVec.ofNat 128 (natOfBytes bytes))).modMatHead r fun c =>
      { c with stored := n + 1 }
  | .buffer h off =>
    if s.shadowHeld r h (off + m * c.stride + 16 * j) bytes.length then s
    else
      let w := s.writeShadow r h (off + m * c.stride + 16 * j) bytes (s.tile r).matrix.pts
      (w.1.modTile r fun t => { t with matrix := { t.matrix with pts := w.2 } }).modMatHead r fun c => { c with stored := n + 1 }
  | _ => s

/-- The pieces of MST from `n` on, `i` of them, up to one that waits. -/
def State.mstPieces (s : State) (r : Nat) (c : MatCmd) (k : MstKind) : Nat → Nat → State
  | _, 0 => s
  | n, i + 1 =>
    let s := s.mstPiece r c k n
    if ((s.tile r).matrix.queue.head?.map (·.stored)).getD 0 = n + 1 then s.mstPieces r c k (n + 1) i else s

/-- MST (R218, R219): the pieces not yet stored, and the completion once all are. -/
def State.runMst (s : State) (r : Nat) (c : MatCmd) (k : MstKind) : State :=
  let s := s.mstPieces r c k c.stored (c.storePieces k - c.stored)
  if c.storePieces k ≤ ((s.tile r).matrix.queue.head?.map (·.stored)).getD 0 then s.matDone r c else s

/-- The row keys of the source of an MLD. -/
def MatCmd.mldKeys (c : MatCmd) (k : MldKind) : List (List Nat) :=
  c.a.rowKeys (List.replicate (shapeM c.mshape) (shapeN c.mshape * mldSize k)) c.stride

/-- MLD (R220). -/
def State.runMld (s : State) (r : Nat) (c : MatCmd) (k : MldKind) : State :=
  let n := shapeN c.mshape
  let keys := c.mldKeys k
  if s.heldKeys keys then s
  else
  let e := s.keysSeen (keys.flatMap fun row => row)
  let s := e.1
  match s.badKey keys with
  | some b => s.matFatal r (badCode b) (BitVec.ofNat 64 (if b < 2 ^ 52 then b else b % 2 ^ 22))
  | none =>
    let rows := { s with mem := e.2 }.rowsRead c.reads keys 0 0 0
    let s := { s.matStamp r keys with free := s.free + 1 }
    let s := s.modTile r fun t => t.fillCells c.origin (shapeM c.mshape) n fun m j =>
      let row := rows.getD m []
      match k with
      | .f32 => BitVec.ofNat 32 (natOfBytes ((row.drop (4 * j)).take 4))
      | .bf16 => BitVec.ofNat 32 (rowElem row 16 j * 65536)
    s.matDone r c

/-- MZERO (R215). -/
def Tile.zeroCells (t : Tile) (mask : Nat) : Tile :=
  (List.range 4).foldl (fun t j => if mask.testBit j then t.fillCells (BitVec.ofNat 2 j) 16 16 fun _ _ => 0 else t) t

/-- MATRIX_COMMAND_COMPLETE: the head command of a tile's queue runs to its end (R208, log 19). -/
def execMatrixCommandComplete (r : Nat) (s : State) : Out :=
  match (s.tile r).matrix.queue with
  | [] => .next s
  | c :: _ => event s (s.tile r).clocked fun s =>
    match c.op with
    | .mma => s.runMma r c
    | .mzero => (s.modTile r fun t => t.zeroCells c.stride).matDone r c
    | .mst k => s.runMst r c k
    | .mld k => s.runMld r c k

/-- The keys of the SRAM and fly bytes that a command reads itself. -/
def MatCmd.readKeys (c : MatCmd) : List (List Nat) :=
  match c.op with
  | .mma => c.aKeys ++ (if (c.gang.isEmpty || c.member == 0) && c.bdata.isNone then c.bKeys else [])
  | .mld k => c.mldKeys k
  | _ => []

/-- The unit goes on with its head command: it reads piece `n` of its operands, which may be read again later and then has either
value, or stores the next piece of its destination (R209, R219, log 19). A piece that is bad data ends the command (R211); a held
bank is waited for (R370). -/
def State.matPiece (s : State) (r n : Nat) : State :=
  let t := s.tile r
  match t.matrix.queue with
  | [] => s
  | c :: _ =>
    if !t.clocked then s
    else
      match c.op, (piecesOf c.readKeys)[n]? with
      | .mst k, _ => if c.stored < c.storePieces k then s.mstPiece r c k c.stored else s
      | _, none => s
      | _, some key =>
        if s.bankHeld key then s
        else
        let e := s.keysSeen [key]
        let s := e.1
        if (c.readKeys.flatMap fun row => row).any fun k => k / 16 * 16 == key && s.poisoned k 1 then s.matFatal r (badCode key) (BitVec.ofNat 64 (if key < 2 ^ 52 then key else key % 2 ^ 22))
        else s.modMatHead r fun c => { c with reads := (key, e.2.bytes key 16) :: c.reads }

/-- Some chunk of a command in check mode is computed and checked (R365, R367). -/
def State.checksChunk (s : State) (c : MatCmd) : Bool :=
  match c.op, s.bData c with
  | .mma, some b =>
    let rows := c.rowsOf s b
    c.chk && (cellsOf (shapeM c.mshape) (shapeN c.mshape)).any fun e =>
      if fmtAct c.fmt then shapeK c.mshape != 0
      else (cellSums c.fmt c.mshape rows.1 rows.2 e.1 e.2).any fun t => !chunkSkips t
  | _, _ => false

/-- A chunk of the head command in check mode mismatches, `times` times: each counts; a second aborts the command. A skipped chunk is
not compared (R365, R367). -/
def State.chunkMismatch (s : State) (r times : Nat) : State :=
  match (s.tile r).matrix.queue with
  | [] => s
  | c :: _ =>
    if !s.checksChunk c then s
    else
      let s := s.modTile r fun t => { t with chkcnt := t.chkcnt + BitVec.ofNat 32 (min times 2) }
      if times < 2 then s else s.matFatal r 0x22 0

end Sys2Proof.Machine
end

