-- ==== Sys2Proof/Machine/Publish.lean ====
section
/-! DEFINITION. Fences, published buffers, the cache portion and the translation probe (R286 to R289, R292 to R299). -/

namespace Sys2Proof.Machine

/-! ## What is still on its way (R286, R293) -/

/-- The home of the shadow byte that an engine would write at a handle's offset. -/
def State.shadowHome (s : State) (r h off : Nat) : Option Nat :=
  match s.spaceTarget r .engineWrite 1 (.buffer h off) with
  | .ok t => some (t.homeFrom r)
  | .error _ => none

/-- Some line of the handle's bytes `lo` to `hi` has its home inside the scope (R286). -/
def State.linesInside (s : State) (sc : Scope) (r h lo hi : Nat) : Bool :=
  (List.range (hi / 64 - lo / 64 + 1)).any fun j =>
    ((s.shadowHome r h (max lo ((lo / 64 + j) * 64))).map (s.within sc r)).getD true

/-- An entry of tile `q`'s matrix queue was issued by the C core of tile `r`: a part of a gang command by its leader (R210, R290). -/
def MatCmd.issuedAt (c : MatCmd) (r q : Nat) : Bool := c.gang.headD q == r

/-- A matrix command of a tile writes inside the scope: it reaches its own SRAM or cells, or a buffer with a line homed inside. -/
def State.matInside (s : State) (sc : Scope) (r : Nat) (c : MatCmd) : Bool :=
  match c.op, c.a with
  | .mst k, .buffer h off =>
    s.linesInside sc r h off (off + (shapeM c.mshape - 1) * c.stride + shapeN c.mshape * mstSize k - 1)
  | _, _ => true

/-- The lowest and the highest destination offset of a copy's elements from its first one (R316). -/
def CopyCmd.reach (c : CopyCmd) : Int × Int :=
  (List.range 4).foldl (fun e i =>
    let span : Int := (natField c.desc.toNat (32 + 32 * i) 32 - 1 : Int) * (BitVec.ofNat 32 (natField c.desc.toNat (288 + 32 * i) 32)).toInt
    if span < 0 then (e.1 + span, e.2) else (e.1, e.2 + span)) (0, 0)

/-- A copy command of a tile writes inside the scope. -/
def State.copyInside (s : State) (sc : Scope) (r : Nat) (c : CopyCmd) : Bool :=
  match c.ring, spaceOf c.dst with
  | none, some (.buffer h off) =>
    s.linesInside sc r h ((off : Int) + c.reach.1).toNat (((off : Int) + c.reach.2).toNat + 2 ^ natField c.desc.toNat 0 3 - 1)
  | _, _ => true

/-- A destination of a channel lies inside the scope; an egress stream ends at the module's edge (R286). -/
def State.endInside (s : State) (sc : Scope) (r : Nat) : End → Bool
  | .queue t _ _ => s.within sc r t
  | .egress _ => sc == .wafer || sc == .system

/-- Everything that FENCE of the scope waits for is performed (R293). -/
def State.fenced (s : State) (sc : Scope) : Bool :=
  let r := s.focus.rank
  let t := s.here
  let c := s.cur
  let engines :=
    match s.focus.ctx with
    | .c => s.tiles.all fun e => e.2.matrix.queue.all fun m => !m.issuedAt r e.1 || !s.within sc r e.1 || !s.matInside sc r m
    | i => t.copy.queue.all fun m => m.ctx != i || !s.copyInside sc r m
  let sends :=
    match coreOf' s.focus.ctx with
    | none => true
    | some k => (t.core k).ports.all fun p => p.words.isEmpty || p.dests.all fun e => !s.endInside sc r e
  sc == .lane || sc == .core ||
  (engines && sends && c.storing.isEmpty && (c.posted.all fun p => !s.within sc r p.2) &&
    (c.postedMsgs.all fun m => if m.1 = s.modidx.toNat then !s.within sc r m.2 else sc != .system))
where
  coreOf' : CtxId → Option CoreId
    | .s => some .s | .c => some .c | .m => none

/-- The context meets the times of its engines' accesses (R284). -/
def State.meetEngines (s : State) : State :=
  let t := s.here
  s.modCur fun c => (c.meetTime t.matrix.pts).meetTime t.copy.pts

/-- FENCE (R293). -/
def execFence (s : Scope) (st : State) : Out :=
  runGroup .all false (fun st => if st.fenced s then .ok (.on st.meetEngines) else .error (.wait st)) st

/-! ## Published buffers (R287, R294 to R296) -/

/-- The handle home: the tile at the pitch's origin (R294). -/
def State.handleHome (s : State) (p : Pitch) : Nat := (s.rankAt p.x0 p.y0).getD 0

/-- The token's removal from each of `n` destination queues happens before (R382). -/
def Kept.consumed (k : Kept) (n : Nat) (known : List Nat) : Bool :=
  decide (n ≤ k.removed.length) && k.removed.all known.contains

/-- What a performed PUB of handle 0 does to a stateless pitch: retained tokens whose removals all happen before it are released,
the egress counts and the kill count start anew (R382 to R384; log 17). -/
def State.commitPub (s : State) (id : PitchId) (known : List Nat) : State :=
  s.modPitch id fun p =>
    { p with
      kills := 0
      ingress := p.ingress.map fun g =>
        let keep := g.retained.filter fun k => !k.consumed g.dests.length known
        { g with retained := keep, broken := decide (p.image.depth.getD 0 < 8 * keep.length) && g.broken }
      egress := p.egress.map fun e => { e with emitted := 0, crc := 0xFFFFFFFF, baseHalf := e.firstHalf } }

/-- The exchange of a handle's backings in one step at a logical time, and its new GEN (R288, R294). -/
def State.publish (s : State) (id : PitchId) (h : Nat) (pts : Time) : State × Word :=
  let gen := (((s.pitch? id).bind fun p => p.handles[h]?).map fun d => d.gen + 1).getD 0
  let s := s.modPitch id fun p =>
    { p with handles := p.handles.mapIdx fun i d =>
        if i = h then { d with cur := !d.cur, gen := gen, pts := { pts with time := maxTime d.pts.time pts.time } } else d }
  (if h = 0 then s.commitPub id pts.known else s, gen)

/-- The handle and scope checks of PUB and PUBW (R295, R296). -/
def State.checkHandle (s : State) (sc : Scope) (h : Word) : Except Exit (Pitch × Handle) :=
  let r := s.focus.rank
  match s.pitchHere with
  | none => .error (.trap 0x06 0 (h.setWidth 64))
  | some p =>
    match p.handles[h.toNat]? with
    | none => .error (.trap 0x06 0 (h.setWidth 64))
    | some d =>
      if s.within sc r (s.handleHome p) || s.handleHome p = r then .ok (p, d)
      else .error (.trap 0x08 0 (h.setWidth 64))

/-- The participants of a plan whose destination write of the firing in progress is not performed, with the number of the TRIG that
issued it (R288, R335). -/
def Plan.writing (q : Plan) (own : Nat) : List PartStatus :=
  if q.failed then []
  else q.status.filter fun e => e.trigd && (!q.reduce || q.parts.head? == some (own, e.rank)) &&
    (q.result.isNone || q.writesDue.contains e.rank)

/-- An engine of a tile inside the scope still has a write to the handle to perform whose issuing group happens before the running
one (R288, R295; log 18). -/
def State.engineWrites (s : State) (sc : Scope) (id : PitchId) (h : Nat) : Bool :=
  let known := s.cur.pts.known
  let inside (r : Nat) : Bool := s.within sc s.focus.rank r || r == s.focus.rank
  (s.tiles.any fun e =>
    e.2.pitch == some id && inside e.1 &&
    ((e.2.matrix.queue.any fun c => known.contains c.born && (match c.op, c.a with
      | .mst _, .buffer k _ => k == h
      | _, _ => false)) ||
     (e.2.copy.queue.any fun c => known.contains c.born && (match c.ring, spaceOf c.dst with
      | none, some (.buffer k _) => k == h
      | _, _ => false)))) ||
  (((s.pitch? id).map (·.plans)).getD []).any fun q =>
    q.buffer == some h && (q.writing s.modidx.toNat).any fun e => inside e.rank && known.contains e.born

/-- The handle's backings are read-only pages (R295): some page of either is. -/
def State.readOnlyBuffer (s : State) (h : Nat) : Bool :=
  match s.pitchHere with
  | none => false
  | some p =>
    match p.handles[h]? with
    | none => false
    | some d => (pagesOf d.buffer.va0 d.buffer.size ++ pagesOf d.buffer.va1 d.buffer.size).any fun g =>
        match s.translate s.focus.rank p.image.root p.image.homes (g * 65536) with
        | .leaf e => e.ro
        | _ => false

/-- A translation of the handle's pages is not there yet (R370, R394). -/
def State.bufferDue (s : State) (p : Pitch) (d : Handle) : Bool :=
  (pagesOf d.buffer.va0 d.buffer.size ++ pagesOf d.buffer.va1 d.buffer.size).any fun g =>
    s.walkDue s.focus.rank p.image.root p.image.homes (g * 65536)

/-- PUB (R288, R295). -/
def execPub (s : Scope) (d x : GReg) (st : State) : Out :=
  runGroup .all false (fun st => do
    let h := st.cur.getG x
    let ph ← st.checkHandle s h
    if st.bufferDue ph.1 ph.2 then throw (.wait st)
    if st.readOnlyBuffer h.toNat then throw (.trap 0x0A 0 (h.setWidth 64))
    if !st.released || st.engineWrites s ph.1.id h.toNat then throw (.wait st)
    let e := st.publish ph.1.id h.toNat st.cur.pts
    return .on (e.1.modCur fun c => (c.meetTime ph.2.pts.time).setG d e.2)) st

/-- PUBW: wait for a generation other than g[d] (R296). -/
def execPubw (s : Scope) (d x : GReg) (st : State) : Out :=
  runGroup .all false (fun st => do
    let ph ← st.checkHandle s (st.cur.getG x)
    if ph.2.gen = st.cur.getG d then throw (.wait st)
    return .on (st.modCur fun c => (c.meet ph.2.pts).setG d ph.2.gen)) st

/-! ## The cache portion (R298) -/

/-- The physical lines of a global or buffer pointer's line, or of its page, that a tile may hold; none when the page is
not present. -/
def State.cachedRange (s : State) (va : Nat) (wholePage : Bool) : Option (Nat × Nat) :=
  match s.pitchHere with
  | none => none
  | some p =>
    match s.translate s.focus.rank p.image.root p.image.homes va with
    | .leaf e =>
      if wholePage then some (e.pa, e.pa + if e.big then 2 ^ 25 else 2 ^ 16)
      else some (lineOf (e.paOf va), lineOf (e.paOf va) + 64)
    | _ => none

/-- The state after the walk of a group that takes no trap for it: what it met at a fly, and the record of a bad entry (R369 to R373). -/
def State.probed (s : State) (ea : DWord) : State :=
  let r := s.focus.rank
  let bad := s.atWalk r .load ea fun r root homes va => s.translate r root homes va == .bad
  let u := if s.targetMeets r .load ea then s.targetRead r .load ea else s
  if bad then u.postBadEntry r (u.tile r).pitch ea.toNat else u

/-- The global address that CINV, CCLN and TLBP translate for a pointer: its own, or that of a byte of a buffer's current backing. -/
def State.probeVa (s : State) : Space → Option Nat
  | .global va => some va
  | .buffer h off => (s.pitchHere.bind fun p => p.handles[h]?).bind fun d => if off < d.buffer.size then some (d.va false off) else none
  | _ => none

/-- CINV and CCLN: remove lines by address (R298); the translation comes as that of a load. -/
def cacheOp (x : AReg) (wholePage : Bool) : State → Out :=
  runGroup .all false fun s =>
    let ea := s.cur.getA x
    match spaceOf ea with
    | none => .error (.trap 0x05 0 ea)
    | some (.cluster _) | some (.scratch _ _) | some (.lane _) => .error (.trap 0x06 0 ea)
    | some sp =>
      match s.probeVa sp with
      | none => .ok (.on s)
      | some va =>
        if s.targetDue s.focus.rank .load ea then .error (.wait s)
        else
          match s.cachedRange va wholePage with
          | none => .ok (.on (s.probed ea))
          | some g => .ok (.on (s.modHere fun t => { t with lines := t.lines.filter fun l => l.key < g.1 || g.2 ≤ l.key }))

/-- CINV (R298). -/
def execCinv (x : AReg) (s : State) : Out := cacheOp x false s

/-- CCLN (R298). -/
def execCcln (x : AReg) (s : State) : Out := cacheOp x true s

/-- CFLS (R298). -/
def execCfls (s : State) : Out :=
  runGroup .all false (fun s => .ok (.on (s.modHere fun t => { t with lines := [] }))) s

/-! ## The translation probe (R299) -/

/-- A status word of TLBP. -/
def probeWord (st : Nat) : Word := BitVec.ofNat 32 (st * 2 ^ 29)

/-- The status of a translation (R299). An entry that is bad data counts as malformed: TLBP raises no trap for it (DEDUCED,
log 11). -/
def State.probe (s : State) (p : Pitch) (va : Nat) : Word :=
  match s.translate s.focus.rank p.image.root p.image.homes va with
  | .resolvable => probeWord 1
  | .final => probeWord 2
  | .malformed | .bad => probeWord 3
  | .leaf e =>
    let h := (s.homeOf e.home (e.paOf va)).getD 0
    let st := if s.within e.scope h s.focus.rank then 0 else 4
    BitVec.ofNat 32 (st * 2 ^ 29 + e.scope.code * 2 ^ 26 + e.ro.toNat * 2 ^ 25 + e.big.toNat * 2 ^ 24 + h)

/-- TLBP (R299): it waits for its translation as a load would. -/
def execTlbp (d : GReg) (x : AReg) (s : State) : Out :=
  runGroup .all false (fun s =>
  let ea := s.cur.getA x
  let gives (s : State) (w : Word) : Except Exit Flow := .ok (.on (s.modCur fun c => c.setG d w))
  match (spaceOf ea).bind s.probeVa, s.pitchHere with
  | some va, some p =>
    if s.targetDue s.focus.rank .load ea then .error (.wait s) else gives (s.probed ea) (s.probe p va)
  | some _, none => gives s (probeWord 2)
  | none, _ => gives s (probeWord 5)) s

end Sys2Proof.Machine
end

