-- ==== Sys2Proof/Machine/Pitches.lean ====
section
/-! DEFINITION. What happens to a pitch as a whole: its nodes and channels, loading a tile, killing and striking, and the
records that lead there (R26, R120 to R133, R140 to R144, R273, R374 to R385). -/

namespace Sys2Proof.Machine

/-! ## Nodes and channels (R120, R121, R131 to R133) -/

/-- The node of a place in the pitch; where the image declares none, the empty node (R120). -/
def nodeAt (im : Image) (x y : Nat) : NodeImage := (im.nodes.find? fun n => n.x == x && n.y == y).getD { x := x, y := y }

/-- The rank of a node's tile by its index (R152). -/
def State.rankOfIndex (s : State) (p : Pitch) (i : Nat) : Nat :=
  (s.rankAt (p.x0 + i % (4 * p.image.wc)) (p.y0 + i / (4 * p.image.wc))).getD 0

/-- The index of a rank's node (R152). -/
def State.indexOf (s : State) (p : Pitch) (r : Nat) : Nat :=
  (s.yOf r - p.y0) * (4 * p.image.wc) + (s.xOf r - p.x0)

/-- The tiles of a pitch's region (R120). -/
def State.region (s : State) (p : Pitch) : List Nat :=
  (List.range (16 * p.image.wc * p.image.hc)).map (s.rankOfIndex p)

/-- A channel's destinations on the wafer (R132, R133). -/
def State.endsOf (s : State) (p : Pitch) (c : Channel) : List End :=
  c.dests.map fun d => match d with
    | .queue n k q => .queue (s.rankOfIndex p n) k q
    | .egress k => .egress k

/-- The channel feeds the queue. -/
def feeds (c : Channel) (n : Nat) (k : CoreId) (q : Nat) : Bool :=
  c.dests.any fun d => match d with
    | .queue n' k' q' => n' == n && k' == k && q'.toNat == q
    | .egress _ => false

/-- The channel starts at the port. -/
def startsAt (c : Channel) (n : Nat) (k : CoreId) (o : Nat) : Bool :=
  match c.src with
  | .port n' k' o' => n' == n && k' == k && o'.toNat == o
  | .ingress _ => false

/-- The handler of a 16-byte table entry (R122). -/
def slotOf (e : BitVec 128) : Slot :=
  { start := e.extractLsb' 0 16, inmask := e.extractLsb' 16 8, valid := e.getLsbD 31, prio := e.extractLsb' 29 2, chk := e.getLsbD 28
    aovr := e.getLsbD 27, filt := e.extractLsb' 25 2, fval := e.extractLsb' 32 8, fmask := e.extractLsb' 40 8
    need := e.extractLsb' 48 32, aoval := e.extractLsb' 80 7, wdexp := e.extractLsb' 88 5 }

/-- A reserved bit of a table entry is nonzero: bit 0 of byte 3, bit 7 of byte 10, bits 7 to 5 of byte 11, bytes 12 to 15 (R122). -/
def slotReserved (e : BitVec 128) : Bool :=
  e.getLsbD 24 || e.getLsbD 87 || e.extractLsb' 93 3 != 0 || e.extractLsb' 96 32 != 0

/-- A core's handlers, queues and ports as the image gives them (R121, R131). -/
def State.coreFrom (s : State) (p : Pitch) (n : Nat) (k : CoreId) (c : CoreImage) : Core :=
  { slots := Vector.ofFn fun i => slotOf (c.slots.getD i.val 0)
    queues := Vector.ofFn fun q => match p.image.channels.find? fun c => feeds c n k q.val with
      | some c => { fed := true, slots := c.slots }
      | none => {}
    ports := Vector.ofFn fun o => match p.image.channels.find? fun c => startsAt c n k o.val with
      | some c => { stage := c.stage, dests := s.endsOf p c }
      | none => {}
    amode := c.amode }

/-- A context as a pitch load leaves it (R23, R26): stopped until it starts. -/
def imageContext (c : CoreImage) : Ctx :=
  { amode := amodeStored (c.amode.setWidth 32), tvec := (c.tvec &&& 0xFFFE).setWidth 32, srseed := srseedStored c.srseed }

/-- What a splice that inherits keeps of a context's registers (R141). The supervisor bank and the k-registers, which R141 does not name,
are those of a load (R26; DEDUCED, log 33). -/
def Ctx.inherit (c old : Ctx) : Ctx := { c with g := old.g, a := old.a, p := old.p, v := old.v }

/-! ## Loading a tile (R26, R121, R255, R322) -/

/-- The bytes of a ring descriptor with both indexes 0 (R322). -/
def ringBytes (r : RingDecl) : List Byte :=
  bytesOfNat 4 r.base ++ bytesOfNat 2 r.slot ++ bytesOfNat 2 r.count ++ bytesOfNat 1 r.free.toNat ++
    bytesOfNat 1 r.filled.toNat ++ bytesOfNat 6 0

/-- The semaphores that ring declarations set (R118, R322). -/
def ringSems (rings : List RingDecl) : Vector Sem 32 :=
  rings.foldl (fun v r => (v.setIfInBounds r.free.toNat { count := BitVec.ofNat 16 r.count }).setIfInBounds r.filled.toNat {})
    (Vector.replicate 32 {})

/-- The module's memory with a tile's SRAM and instruction memory loaded; `keep` keeps the SRAM (R15, R255, R256). -/
def loadMem (m : Mem) (r : Nat) (node : NodeImage) (keep : Bool) : Mem :=
  let sram := 2 ^ 60 + r * 2 ^ 22
  let m := if keep then m
    else
      let m := (m.clear sram (sram + 2 ^ 22)).fillFrom (sramKey r .scratch 0) node.scratch
      node.rings.foldl (fun m g => m.putBytes (sramKey r .scratch g.place) (ringBytes g)) m
  let im := 2 ^ 61 + r * 2 ^ 18
  ((m.clear im (im + 2 ^ 17)).fillFrom (imemKey r .s 0) node.s.code).fillFrom (imemKey r .c 0) node.c.code

/-- The SHARED values of the tile's cluster, as its pitch loads them (R259). -/
def State.sharedAround (s : State) (p : Pitch) (r : Nat) : Vector (BitVec 4) 16 :=
  Vector.ofFn fun m =>
    BitVec.ofNat 4 (nodeAt p.image (s.xOf r / 4 * 4 + m.val % 4 - p.x0) (s.yOf r / 4 * 4 + m.val / 4 - p.y0)).shared

/-- The counts that a tile keeps for the pitch it carries (R144, R327). -/
def Tile.counts (t : Tile) : Counts := { sent := t.sent, recvd := t.recvd, msgSent := t.msgSent, msgDone := t.msgDone }

/-- The counts kept for other pitches once a node of `id` is loaded: those of the predecessor that a splice replaces join (R141,
R144). -/
def Tile.priorFor (t : Tile) (id : PitchId) : List (PitchId × Counts) :=
  match t.pitch with
  | some old => if old = id then [] else (old, t.counts) :: t.prior.filter fun e => e.1 != old && e.1 != id
  | none => []

/-- The shared state of a tile of a pitch, from its node; what no load touches stays: margin, counters, logs, clock, cycle
count, the messages under way, the lines homed here (R23, R26). -/
def State.loadedTile (s : State) (p : Pitch) (r : Nat) (keep : Bool) : Tile :=
  let t := s.tile r
  let i := s.indexOf p r
  let node := nodeAt p.image (s.xOf r - p.x0) (s.yOf r - p.y0)
  let keepCtx (c old : Ctx) : Ctx := if keep then c.inherit old else c
  { t with
    pitch := some p.id, pitchReg := pitchWord p.id, node := BitVec.ofNat 32 i
    s := keepCtx (imageContext node.s) t.s, c := keepCtx (imageContext node.c) t.c, m := keepCtx (imageContext node.s) t.m
    coreS := s.coreFrom p i .s node.s, coreC := s.coreFrom p i .c node.c
    kinds := node.kinds
    sems := if keep then t.sems else ringSems node.rings
    bars := Vector.replicate 8 {}
    z := if keep then t.z else [], h := if keep then t.h else []
    matrix := {}, copy := {}, current := none, resps := [], replies := [], nacks := []
    cache := BitVec.ofNat 3 node.cache, shared := BitVec.ofNat 4 node.shared, sharedOf := s.sharedAround p r
    lease := node.lease, tlb := [], lines := []
    sent := 0, recvd := 0, msgSent := 0, msgDone := 0, prior := t.priorFor p.id
    hbad := if keep then t.hbad else []
    held := false, saveMode := false, switching := false, ballast := 0, pclass := node.power }

/-- Load a tile with its node of a pitch. -/
def State.loadTile (s : State) (p : Pitch) (r : Nat) (keep : Bool) : State :=
  let node := nodeAt p.image (s.xOf r - p.x0) (s.yOf r - p.y0)
  let lo := 2 ^ 60 + r * 2 ^ 22
  let im := 2 ^ 61 + r * 2 ^ 18
  { s.setTile r (s.loadedTile p r keep) with
    mem := loadMem s.mem r node keep
    poison := s.poison.filter fun w =>
      !((!keep && decide (lo / 8 ≤ w) && decide (w < (lo + 2 ^ 22) / 8)) || (decide (im / 8 ≤ w) && decide (w < (im + 2 ^ 17) / 8))) }

/-- The TLB set of an entry (R271). -/
def TlbEntry.set (e : TlbEntry) : Nat := e.page % 32

/-- Lock the translations of a node's list: each in the field cache once, the first 64 in the TLB, two a set (R272, R273). -/
def State.lockPages (s : State) (p : Pitch) (r : Nat) (pages : List Nat) : State :=
  pages.zipIdx.foldl (fun s e =>
    match s.walk p.image.root p.image.homes (e.1 * 65536) with
    | .leaf l =>
      let l := { l with locked := true }
      let s := s.modField (s.fieldOf r) fun f =>
        let f := if f.locks.contains (l.lock p.id) then f else { f with locks := l.lock p.id :: f.locks }
        if f.cache.any (fun c => c.locked && c.same l) then f
        else { f with cache := fillCache 16384 (fun _ => true) l f.cache }
      s.modTile r fun t =>
        if 64 ≤ e.2 ∨ t.tlb.contains l ∨ 2 ≤ (t.tlb.filter fun c => TlbEntry.set c == TlbEntry.set l).length then t
        else { t with tlb := l :: t.tlb }
    | _ => s) s

/-- The pages of a pitch's lists, with the tile of each list. -/
def State.listed (s : State) (p : Pitch) : List (Nat × List Nat) :=
  (s.region p).map fun r => (r, (nodeAt p.image (s.xOf r - p.x0) (s.yOf r - p.y0)).pages)

/-- Load every node of a pitch, and lock its lists. -/
def State.loadPitch (s : State) (p : Pitch) : State :=
  (s.listed p).foldl (fun s e => s.lockPages p e.1 e.2) ((s.region p).foldl (fun s r => s.loadTile p r false) s)

/-- A context that was loaded begins: in dispatch, or with its init handler (R125, R137). -/
def Tile.begin (t : Tile) (k : CoreId) : Tile :=
  match (t.core k).slots[0]? with
  | some sl => if sl.valid then t.startSlot k 0 else t.setCtx k.ctx { t.ctx k.ctx with run := .dispatch }
  | none => t

/-- Every context of a loaded tile begins. -/
def Tile.beginAll (t : Tile) : Tile :=
  let t := (t.begin .s).begin .c
  { t with m := { t.m with run := .dispatch } }

/-! ## Queues of the host edge (R437) -/

/-- A queue feeds its stream no more. -/
def State.unbind (s : State) (q : Nat) : State :=
  match (s.hostQueue q).stream with
  | none => s
  | some (id, k) => s.modPitch id fun p =>
      { p with ingress := vecMod p.ingress k fun g => { g with bound := g.bound.filter (· ≠ q) } }

/-- A queue takes an error, and refuses (R437). -/
def State.queueErr (s : State) (q : Nat) (err : Byte) : State :=
  (s.unbind q).modQueue q fun h => { h with err := err, state := .refused, stream := none, record := none, early := [] }

/-- Every queue that feeds a stream of the pitch, closed ones with tokens at the edge included. -/
def Pitch.boundQueues (p : Pitch) : List Nat :=
  (p.ingress.toList.flatMap fun g => g.bound ++ g.words.filterMap (·.1)).eraseDups

/-! ## Ends of a pitch (R140, R144) -/

/-- A context stops at its group boundary; a group that waits at K leaves with no effect (R377, R380). -/
def Ctx.stop (c : Ctx) : Ctx :=
  { c with run := .stopped, waiting := false, xact := none, reply := .none, colset := .none, answer := .none, due := none }

/-- Words staged in a core's ports, counted once for each destination (R144). -/
def Core.staged (k : Core) : Nat := k.ports.foldl (fun n p => n + p.words.length * p.dests.length) 0

/-- A core without words, its slots IDLE (R126). -/
def Core.emptied (k : Core) : Core :=
  { k with queues := k.queues.map fun q => { q with words := [] }
           ports := k.ports.map fun p => { p with words := [] }
           states := Vector.replicate 32 .idle }

/-- A user message of the instance. -/
def Msg.isUserOf (id : PitchId) : Msg → Bool
  | .user m => m.src.pitch == id
  | .builtin _ => false

/-- A user message. -/
def Msg.isUser : Msg → Bool
  | .user _ => true
  | .builtin _ => false

/-- The user messages of an instance are discarded unrun, and so is the one that a tile of the instance runs; they count as
completed (R327, R380). -/
def State.dropMessages (s : State) (id : PitchId) : State :=
  s.tiles.foldl (fun s e =>
    let s := (e.2.messages.filter (Msg.isUserOf id)).foldl (fun s m => s.countDone e.1 m.src) s
    let s := match e.2.current with
      | some c => if e.2.pitch = some id then s.countDone e.1 c.msg.src else s
      | none => s
    s.modTile e.1 fun t => t.keepMessages fun m => !Msg.isUserOf id m) s

/-- A tile of a killed pitch (R380): contexts stopped, engines discarded, words discarded and counted as received. -/
def Tile.killed (t : Tile) : Tile :=
  { t with
    s := t.s.stop, c := t.c.stop, m := t.m.stop
    coreS := t.coreS.emptied, coreC := t.coreC.emptied
    recvd := t.recvd + BitVec.ofNat 48 (t.coreS.staged + t.coreC.staged)
    matrix := { t.matrix with queue := [] }
    copy := { t.copy with queue := [], stop := none, report := [] }
    current := none, replies := [], nacks := [], saved := t.saved.filter fun e => some e.1 != t.pitch }

/-- The bytes of every shadow of a pitch become undefined: engine writes to them are discarded (R289, log 8). -/
def State.scramble (s : State) (p : Pitch) : State :=
  p.handles.foldl (fun s h =>
    (List.range h.buffer.size).foldl (fun s i =>
      match s.walk p.image.root p.image.homes (h.va true i) with
      | .leaf e => { s with mem := s.mem.put (e.paOf (h.va true i)) (Config.abandonedByte s.free), free := s.free + 1 }
      | _ => s) s) s

/-- A splice is under way: some tile carries the successor already (R142). -/
def State.wavefront (s : State) (p : Pitch) : Bool :=
  match p.successor with
  | none => false
  | some n => s.tiles.any fun e => e.2.pitch == some n.1

/-- The cells of the command that a tile's matrix unit executes become undefined: a kill aborts it (R222, log 8). -/
def State.abandonCells (s : State) (r : Nat) : State :=
  let cells : List (Nat × Nat) := match (s.tile r).matrix.queue with
    | [] => []
    | c :: _ =>
      (match c.op with
       | .mst _ => []
       | .mzero => (List.range 4).flatMap fun j => if c.stride.testBit j then
           (cellsOf 16 16).map fun e => (originRow (BitVec.ofNat 2 j) + e.1, originCol (BitVec.ofNat 2 j) + e.2) else []
       | _ => (cellsOf (shapeM c.mshape) (shapeN c.mshape)).map fun e => (originRow c.origin + e.1, originCol c.origin + e.2))
  cells.foldl (fun s e => { s with free := s.free + 1 }.modTile r fun t => t.setCell e.1 e.2 (Config.abandonedWord s.free)) s

/-- The TQP and STRK groups of some contexts wait to post no more (R376, R377). -/
def State.forgetPosts (s : State) (gone : Nat × CtxId → Bool) : State :=
  { s with fields := s.fields.map fun e => (e.1, { e.2 with posts := e.2.posts.filter fun p => !p.group.any gone }) }

/-- The ranks whose tiles carry a pitch. -/
def State.tilesOf (s : State) (id : PitchId) : List Nat := (s.tiles.filter fun e => e.2.pitch == some id).map (·.1)

/-- The groups of a tile that wait and are to have no effect: their requests are taken back, their posts forgotten (R27, R291,
R376). -/
def State.withdrawAll (s : State) (r : Nat) : State :=
  ([.s, .c, .m].foldl (fun s i => s.withdraw r i) s).forgetPosts fun g => g.1 == r

/-- The questions of other modules that wait at the handle home of a pitch that runs no more go to the youngest instance of its
configuration that does; where there is none, that is the answer (R353, R450). -/
def State.passAsks (s : State) (p : Pitch) : State :=
  match s.youngest p.id.cfg with
  | some q => s.modPitch q.id fun q => { q with asks := q.asks ++ p.asks }
  | none => p.asks.foldl (fun s a => s.tell a.mod p.id.cfg (.answer a.req [2] [] [])) s

/-- Kill one pitch (R380 steps 1 to 6). -/
def State.killOne (s : State) (id : PitchId) : State :=
  match s.pitch? id with
  | none => s
  | some p =>
    let s := (s.scramble p).dropMessages id
    let s := (s.tilesOf id).foldl (fun s r => (s.withdrawAll r).abandonCells r) s
    let told := (p.plans.flatMap (fun q => q.others s.modidx.toNat) ++ (p.setup.map (·.1)).toList).eraseDups.filter (· ≠ s.modidx.toNat)
    let s := told.foldl (fun s m => s.tell m id.cfg .killed) s
    let s : State := { s with tiles := s.tiles.map fun e => (e.1, if e.2.pitch = some id then e.2.killed else e.2) }
    (s.modPitch id fun p => { p with
      state := .killed, kills := p.kills + 1, plans := [], colsets := [], setup := none, asks := [], sweep := none, saved := false
      stopping := false
      egress := p.egress.map fun e => { e with words := [], firstHalf := none } }).passAsks p

/-- A tile leaves its pitch; a struck one becomes vacant (R377, R420). -/
def Tile.freed (t : Tile) : Tile :=
  { t with pitch := none, s := t.s.stop, c := t.c.stop, m := t.m.stop, current := none, held := false, saveMode := false
           switching := false, pclass := 0, sent := 0, recvd := 0, msgSent := 0, msgDone := 0, prior := [] }

/-- A pitch holds no lock in a field any more, and the entries that it alone held are unlocked (R273). -/
def Field.unlock (f : Field) (id : PitchId) : Field :=
  let locks := f.locks.filter fun k => k.pitch != id
  { f with locks := locks, cache := f.cache.map fun c => { c with locked := c.locked && locks.any fun k => k.holds c } }

/-- The region of a pitch is freed, its locks are released (R140, R273). -/
def State.freeRegion (s : State) (id : PitchId) : State :=
  let gone := (s.tiles.filter fun e => e.2.pitch == some id && e.2.struck).map fun e => s.yOf e.1 * waferX + s.xOf e.1
  { s with
    vacated := gone.foldl insertNat s.vacated
    fields := s.fields.map fun e => (e.1, e.2.unlock id)
    tiles := s.tiles.map fun e => (e.1, if e.2.pitch = some id then e.2.freed
      else { e.2 with prior := e.2.prior.filter fun c => c.1 != id }) }

/-- The closing word of an egress stream (R140). -/
def endToken : Token := { payload := 0, tag := 0, mark := 3 }

/-- Successors that wait behind a pitch that is struck are placed as ordinary pitches (R142). -/
def State.releaseBehind (s : State) (id : PitchId) : State :=
  let next := s.pitches.filter fun q => q.behind == some id && q.state == .queued
  let s : State := { s with pitches := s.pitches.map fun q => if q.behind = some id then { q with behind := none } else q }
  next.foldl (fun s q => { s with classes := vecMod s.classes q.cls fun l => l ++ [q.id] }) s

/-- The words in the edge buffers of a pitch are dropped. -/
def State.dropEdge (s : State) (p : Pitch) : State :=
  (p.ingress.toList.flatMap fun g => g.words).foldl State.leaveEdge
    (s.modPitch p.id fun p => { p with ingress := p.ingress.map fun g => { g with words := [] } })

/-- A pitch is struck: its region is freed, its egress streams closed, its saved images forgotten; when it failed, a failure
record goes to the host and its queues refuse (R140, R437). A tile that was about to switch to it stays with its predecessor. -/
def State.endPitch (s : State) (id : PitchId) (failure : Option Byte) : State :=
  match s.pitch? id with
  | none => s
  | some p =>
    let s := (s.freeRegion id).dropEdge p
    let s : State := { s with
      classes := s.classes.map fun l => l.filter (· ≠ id)
      tiles := s.tiles.map fun e => (e.1, { e.2 with
        saved := e.2.saved.filter fun n => n.1 != id
        switching := e.2.switching && !(p.behind.isSome && e.2.pitch == p.behind) })
      pitches := s.pitches.map fun q => if q.successor.any (fun n => n.1 == id) then { q with successor := none } else q }
    let s := s.modPitch id fun p => { p with
      state := .struck, plans := [], colsets := [], setup := none, asks := [], stopping := false, saved := false, resolving := false, successor := none
      behind := none, sweep := none
      egress := p.egress.map fun e => if e.fed && !e.closed then { e with words := e.words ++ [endToken], closed := true } else e }
    let s := match failure with
      | none => s
      | some e => p.boundQueues.foldl (fun s q => s.queueErr q e) { s with hostRecords := s.hostRecords ++ [(id, e)] }
    (s.passAsks p).releaseBehind id

/-! ## Replay (R381 to R384) -/

/-- The saved images of a pitch are forgotten. -/
def State.forgetSaves (s : State) (id : PitchId) : State :=
  { s with tiles := s.tiles.map fun e => (e.1, { e.2 with saved := e.2.saved.filter fun n => n.1 != id }) }

/-- A pitch may be replayed: stateless, every stream within the depth, fewer than four kills since the last commit
(R381, R382, R384). -/
def Pitch.replayable (p : Pitch) : Bool :=
  p.image.depth.isSome && p.ingress.toList.all (fun g => !g.broken) && decide (p.kills < 4)

/-- The code of a kill that ends a pitch: replay depth exceeded, or struck with a failure record (R382, R437). -/
def Pitch.endCode (p : Pitch) : Byte :=
  if p.image.depth.isSome && p.ingress.toList.any (·.broken) && decide (p.kills < 4) then 8 else 7

/-- The edge streams as a stateless replay begins (R381 to R383). -/
def Pitch.rewound (p : Pitch) : Pitch :=
  { p with
    ingress := p.ingress.map fun g =>
      { g with words := g.retained.map (fun k => (none, k.word)) ++ g.words, retained := [], sent := 0
               ended := g.ended && !(g.retained.any fun k => k.word.mark == 3) }
    egress := p.egress.map fun e =>
      { e with words := [], firstHalf := e.baseHalf, suppress := e.emitted, goal := e.crc, recheck := 0xFFFFFFFF, received := 0
               closed := false } }

/-- A pitch gives its region back and goes to the head of its class queue, to be placed anew; one that waits behind another goes on
waiting. -/
def State.requeue (s : State) (p : Pitch) : State :=
  let s := (s.freeRegion p.id).modPitch p.id fun _ =>
    { p with state := .queued, saved := false, stopping := false, resolving := false, sweep := none }
  if p.behind.isSome then s else { s with classes := vecMod s.classes p.cls fun l => p.id :: l.filter (· ≠ p.id) }

/-! ## Kills (R140, R142, R374, R380) -/

/-- Kill a pitch that holds no region: it is replayed from its place in the queues, or struck (R374, R388; DEDUCED, log 33). -/
def State.killWaiting (s : State) (id : PitchId) : State :=
  let s := (s.forgetSaves id).killOne id
  match s.pitch? id with
  | some q => if q.replayable then s.requeue q.rewound else s.endPitch id (some q.endCode)
  | none => s

/-- The successor that a pre-emption saved in the middle of a pitch's wavefront is killed with it, and follows its own replay mode: a
stateless one waits behind it anew (R140, R142; DEDUCED, log 33). -/
def State.killBehind (s : State) (p : Pitch) : State :=
  match p.successor.bind fun n => s.pitch? n.1 with
  | some q => if q.saved then s.killWaiting q.id else s
  | none => s

/-- The pitches that share a wavefront with a pitch: its successor, its predecessor (R142). -/
def State.partners (s : State) (p : Pitch) : List PitchId :=
  (if s.wavefront p then (p.successor.map (·.1)).toList else []) ++
    ((p.behind.bind s.pitch?).filter s.wavefront).toList.map (·.id)

/-- Kill a pitch: while a splice is under way, both pitches (R142); with one that a pre-emption has saved, the other that it saved. One
that loads is killed as one that runs is (R374, R380; DEDUCED, log 33). -/
def State.killPitch (s : State) (id : PitchId) : State :=
  match s.pitch? id with
  | none => s
  | some p =>
    match p.state with
    | .running | .preempting => (id :: s.partners p).foldl State.killOne s
    | .loading | .armed _ => ((s.forgetSaves id).killOne id).killBehind p
    | .queued =>
      (match p.saved, p.behind with
       | true, some b => (((s.pitch? b).map s.killBehind).getD s).killWaiting b
       | _, _ => (s.killBehind p).killWaiting id)
    | _ => s

/-! ## Records (R374 to R376) -/

/-- What a tile's record leads to: a strike (R375), which a dead pole's is only when hardware posts it, and, when it is fatal, the
kill of its pitch (R374). -/
def State.noteRecord (s : State) (p : Post) : State :=
  let fatal := p.record.flags.getLsbD 0
  let cause := p.record.cause
  let s := s.modTile p.record.rank fun t =>
    let t := { t with fatal20 := if fatal && cause == 0x20 then t.fatal20 + 1 else t.fatal20
                      fatal22 := if fatal && cause == 0x22 then t.fatal22 + 1 else t.fatal22 }
    let due := cause == 0x23 || (cause == 0x34 && p.record.flags.getLsbD 2) ||
      (fatal && cause == 0x20 && t.fatal20 == 2) || (fatal && cause == 0x22 && t.fatal22 == 2)
    if due && !t.struck && t.strikeDue.isNone then { t with strikeDue := some cause } else t
  if fatal then (match p.pitch with
    | some id => s.killPitch id
    | none => s) else s

/-- A field's queue takes a record, or refuses it: an ordinary one never takes the last slot; a fatal one that finds no slot is
counted and kills all the same (R376). The record shows the TICK of this moment (R395). -/
def State.acceptPost (s : State) (f : Nat) (p : Post) : Option State :=
  let n := (s.field f).queue.length
  let p := { p with record := { p.record with tick := s.tick } }
  if p.record.flags.getLsbD 0 then
    some ((s.modField f fun f => if n < 256 then { f with queue := f.queue ++ [p.record] } else { f with overflow := f.overflow + 1 }).noteRecord p)
  else if n < 255 then some ((s.modField f fun f => { f with queue := f.queue ++ [p.record] }).noteRecord p)
  else none

/-- The running context's group posts: a fatal record at once, an ordinary one when there is room and no earlier record waits.
Otherwise it waits with the others, in arrival order (R376). The Bool says that the record was taken. -/
def State.postGroup (s : State) (p : Post) : State × Bool :=
  let f := s.fieldOf s.focus.rank
  let me := (s.focus.rank, s.focus.ctx)
  let turn := match (s.field f).posts.find? fun w => w.held with
    | none => true
    | some w => w.group == some me
  match if p.record.flags.getLsbD 0 || turn then s.acceptPost f p else none with
  | some s' => (s'.forgetPosts (· == me), true)
  | none =>
    (s.modField f fun f => if f.posts.any (fun w => w.group == some me) then f
      else { f with posts := f.posts ++ [{ p with held := true, group := some me }] }, false)

/-- TRAP_QUEUE_POST: with room, the first record that waits is taken, a group's by the group itself; otherwise the oldest record on
its way arrives, and waits when the queue refuses it (R374, R376, log 10). -/
def execTrapQueuePost (f : Nat) (s : State) : Out :=
  let ps := (s.field f).posts
  let waits := if (s.field f).queue.length < 255 then ps.findIdx? (·.held) else none
  match waits.orElse fun _ => ps.findIdx? fun p => !p.held with
  | none => .next s
  | some n =>
    match ps[n]? with
    | none => .next s
    | some p =>
      match p.group with
      | some g => .next (s.next [.group g.1 g.2])
      | none =>
        .next (((s.modField f fun f => { f with posts := f.posts.eraseIdx n }).acceptPost f p).getD
          (s.modField f fun f => { f with posts := f.posts.set n { p with held := true } }))

/-- TRAP_QUEUE_REMOVE: the field manager takes the oldest record (R376). -/
def execTrapQueueRemove (f : Nat) (s : State) : Out :=
  event s (s.field f).manager fun s => s.modField f fun f => { f with queue := f.queue.tail }

/-! ## Striking a tile (R377) -/

/-- The tile's own state once it is struck. -/
def Tile.strike (t : Tile) : Tile :=
  { t with
    struck := true, strikeDue := none
    s := t.s.stop, c := t.c.stop, m := t.m.stop
    coreS := t.coreS.emptied, coreC := t.coreC.emptied
    sent := t.sent - BitVec.ofNat 48 (t.coreS.staged + t.coreC.staged)
    copy := { t.copy with queue := [], stop := none, report := [] }
    current := none, ballast := 0 }

/-- Strike a tile (R377, R418, R423): a sender that waits for the message that it runs is nacked; its matrix unit aborts and sends its arrivals, its engines stop, its plans fail, its
staged words are discarded; the field manager changes its detour entry and the retirement record. -/
def State.strikeTile (s : State) (r : Nat) (cause : Byte) : State :=
  let s := (s.withdrawAll r).matAbort r cause
  let s := s.failPlansOf r 1
  let s := match (s.tile r).current with
    | some c =>
      let s := if !c.msg.answer then s.answerMsg c.msg 0 (s.tile r).m.pts else if c.answered then s else s.nackUser c.msg 0x02
      s.countDone r c.msg.src
    | none => s
  let s := s.modTile r Tile.strike
  let phys := s.physOf r
  let s := { s with struckTiles := insertNat s.struckTiles phys, retired := insertNat s.retired phys }
  -- a tile that no pitch covers is vacant at once
  if (s.tile r).pitch.isNone then { s with vacated := insertNat s.vacated (s.yOf r * waferX + s.xOf r) } else s

/-- The tile's pitch is being killed. -/
def State.beingKilled (s : State) (r : Nat) : Bool :=
  match (s.tile r).pitch.bind s.pitch? with
  | some p => p.state == .killed
  | none => false

/-- A group of a tile that runs has had an effect elsewhere, and commits before its tile is struck (R291). -/
def State.boundTile (s : State) (r : Nat) : Bool := (s.tile r).clocked && [CtxId.s, .c, .m].any fun i => s.bound r i

/-- STRIKE_TILE: the field manager carries out a strike that is due (R375, R377); while the pitch is being killed it waits
for quiescence, and the kill's end completes it (R378). -/
def execStrikeTile (r : Nat) (s : State) : Out :=
  match (s.tile r).strikeDue with
  | none => .next s
  | some cause =>
    event s (!(s.tile r).struck && (s.field (s.fieldOf r)).manager && !s.beingKilled r && !s.boundTile r) fun s =>
      s.strikeTile r cause

end Sys2Proof.Machine
end

