-- ==== Sys2Proof/Machine/Vector.lean ====
section
/-! DEFINITION. Page 1: vector arithmetic, rearrangement, conversions, packing, lanes and predicates (R174 to R191). -/

namespace Sys2Proof

/-- The width of an element in bits (R174). -/
def EType.width : EType → Nat
  | .f32 | .i32 | .u32 => 32 | .bf16 | .i16 => 16 | .i8 | .e4m3 | .e5m2 => 8

/-- The elements of a register (R174). -/
def EType.count (t : EType) : Nat := 1024 / t.width

/-- The element is signed (R178). -/
def EType.signed : EType → Bool
  | .u32 => false
  | _ => true

end Sys2Proof

namespace Sys2Proof.Machine

/-! ## Elements (R174, R176) -/

/-- Element `e` of width `w`. -/
def elemOf (w : Nat) (v : VWord) (e : Nat) : Nat := natField v.toNat (w * e) w

/-- A register from its elements, element 0 first. -/
def ofElems (w : Nat) (f : Nat → Nat) : VWord :=
  (List.range (1024 / w)).foldr (fun e acc => acc <<< w ||| BitVec.ofNat 1024 (f e % 2 ^ w)) 0

/-- The lane of an element. -/
def laneOf (w e : Nat) : Nat := e * w / 32

/-- Element `e` lies in an active lane. -/
def elemOn (p : Word) (w e : Nat) : Bool := p.getLsbD (laneOf w e)

/-- The elements of active lanes, ascending. -/
def activeElems (p : Word) (w : Nat) : List Nat := (List.range (1024 / w)).filter (elemOn p w)

/-- Active elements take `f`, the others keep `old` (R176). -/
def mergeElems (w : Nat) (p : Word) (old : VWord) (f : Nat → Nat) : VWord :=
  ofElems w fun e => if elemOn p w e then f e else elemOf w old e

/-- An element as a signed or unsigned number. -/
def elemInt (t : EType) (raw : Nat) : Int :=
  if t.signed && decide (2 ^ (t.width - 1) ≤ raw) then (raw : Int) - 2 ^ t.width else raw

/-- The flags of the active elements together (R80, R177). -/
def orFlags (rs : List FRes) : FlagSet := rs.foldl (fun f r => f ||| r.flags) 0

/-- v[d] := `f` of each active element, with flags and the count of skipped checks (R177, R365). -/
def vecOp (w : Nat) (p : PReg) (d : VReg) (f : Ctx → Nat → FRes) (skip : Ctx → Nat → Bool) : State → Out :=
  runGroup .all false fun s =>
    let c := s.cur
    let es := activeElems (c.getP p) w
    let v := mergeElems w (c.getP p) (c.getV d) fun e => (f c e).bits
    .ok (.on ((s.modCur fun c => (c.setV d v).raise (orFlags (es.map (f s.cur)))).countSkip (es.any (skip s.cur)) |>.unchecked (es.all (skip s.cur))))

/-- The same without flags or skipped checks. -/
def vecBits (w : Nat) (p : PReg) (d : VReg) (f : Ctx → Nat → Nat) : State → Out :=
  vecOp w p d (fun c e => ⟨f c e, 0⟩) fun _ _ => false

/-! ## Arithmetic (R179) -/

/-- A two- or three-operand operation: `fl` on float elements, `int` on integer ones; X, Y and D in order. -/
def arithOp (t : EType) (p : PReg) (d x y : VReg) (withD : Bool) (fl : FFmt → ArithMode → Nat → Nat → Nat → FRes)
    (int : Int → Int → Int → Int) : State → Out :=
  let w := t.width
  match t.float? with
  | some f =>
    let at' (c : Ctx) (m : ArithMode) (e : Nat) := fl f m (elemOf w (c.getV x) e) (elemOf w (c.getV y) e) (elemOf w (c.getV d) e)
    vecOp w p d (fun c e => at' c c.plainMode e) fun c e =>
      skipsCheck f c.plainMode.daz ([elemOf w (c.getV x) e, elemOf w (c.getV y) e] ++ (if withD then [elemOf w (c.getV d) e] else []))
        (at' c c.plainMode e)
  | none =>
    vecBits w p d fun c e =>
      intBits w (int (elemInt t (elemOf w (c.getV x) e)) (elemInt t (elemOf w (c.getV y) e)) (elemInt t (elemOf w (c.getV d) e)))

/-- VADD (R179). -/
def execVadd (t : EType) (p : PReg) (d x y : VReg) (s : State) : Out :=
  arithOp t p d x y false (fun f m a b _ => f.add m a b) (fun a b _ => a + b) s
/-- VSUB (R179). -/
def execVsub (t : EType) (p : PReg) (d x y : VReg) (s : State) : Out :=
  arithOp t p d x y false (fun f m a b _ => f.sub m a b) (fun a b _ => a - b) s
/-- VMUL (R179). -/
def execVmul (t : EType) (p : PReg) (d x y : VReg) (s : State) : Out :=
  arithOp t p d x y false (fun f m a b _ => f.mul m a b) (fun a b _ => a * b) s
/-- VFMA (R83, R179). -/
def execVfma (t : EType) (p : PReg) (d x y : VReg) (s : State) : Out :=
  arithOp t p d x y true (fun f m a b c => f.fma m a b c) (fun a b c => a * b + c) s
/-- VMIN (R114, R179). -/
def execVmin (t : EType) (p : PReg) (d x y : VReg) (s : State) : Out :=
  arithOp t p d x y false (fun f m a b _ => f.minMax false m a b) (fun a b _ => if a ≤ b then a else b) s
/-- VMAX (R114, R179). -/
def execVmax (t : EType) (p : PReg) (d x y : VReg) (s : State) : Out :=
  arithOp t p d x y false (fun f m a b _ => f.minMax true m a b) (fun a b _ => if a ≤ b then b else a) s
/-- VDIV: F32 and BF16 alone (R114, R179). -/
def execVdiv (t : EType) (p : PReg) (d x y : VReg) (s : State) : Out :=
  arithOp t p d x y false (fun f m a b _ => f.div m a b) (fun _ _ c => c) s
/-- VABD (R179). -/
def execVabd (t : EType) (p : PReg) (d x y : VReg) (s : State) : Out :=
  arithOp t p d x y false (fun f m a b _ => f.absDiff m a b) (fun a b _ => if a ≤ b then b - a else a - b) s

/-! ## Logic and shifts (R180) -/

/-- A lane operation on two registers. -/
def laneOp (p : PReg) (d x y : VReg) (f : Word → Word → Word) : State → Out :=
  plain fun c => c.setV d (merge (c.getP p) (c.getV d) fun j => f (lane (c.getV x) j) (lane (c.getV y) j))

/-- VAND (R180). -/
def execVand (p : PReg) (d x y : VReg) (s : State) : Out := laneOp p d x y (· &&& ·) s
/-- VOR (R180). -/
def execVor (p : PReg) (d x y : VReg) (s : State) : Out := laneOp p d x y (· ||| ·) s
/-- VXOR (R180). -/
def execVxor (p : PReg) (d x y : VReg) (s : State) : Out := laneOp p d x y (· ^^^ ·) s
/-- VANDN (R180). -/
def execVandn (p : PReg) (d x y : VReg) (s : State) : Out := laneOp p d x y (fun a b => a &&& ~~~b) s

/-- An element operation on raw bits. -/
def rawOp (t : EType) (p : PReg) (d x y : VReg) (f : Nat → Nat → Nat) : State → Out :=
  vecBits t.width p d fun c e => f (elemOf t.width (c.getV x) e) (elemOf t.width (c.getV y) e)

/-- VSHL: the amount is the low bits of Y, below the width (R180). -/
def execVshl (t : EType) (p : PReg) (d x y : VReg) (s : State) : Out :=
  rawOp t p d x y (fun a b => a * 2 ^ (b % t.width)) s
/-- VSHR (R180). -/
def execVshr (t : EType) (p : PReg) (d x y : VReg) (s : State) : Out :=
  rawOp t p d x y (fun a b => a / 2 ^ (b % t.width)) s
/-- VSRA (R180). -/
def execVsra (t : EType) (p : PReg) (d x y : VReg) (s : State) : Out :=
  rawOp t p d x y (fun a b => intBits t.width (elemInt t a / 2 ^ (b % t.width))) s
/-- VMULH (R180). -/
def execVmulh (t : EType) (p : PReg) (d x y : VReg) (s : State) : Out :=
  rawOp t p d x y (fun a b => intBits t.width (elemInt t a * elemInt t b / 2 ^ t.width)) s

/-! ## Compares (R181) -/

/-- A comparison of two elements, with its flags. -/
def cmpElem (t : EType) (k : FCmp) (daz : Bool) (a b : Nat) : Bool × FlagSet :=
  match t.float? with
  | some f => f.compare k daz a b
  | none =>
    let x := elemInt t a
    let y := elemInt t b
    match k with
    | .eq => (x == y, 0)
    | .lt => (decide (x < y), 0)
    | .le => (decide (x ≤ y), 0)
    | .ne => (x != y, 0)
    | .un => (false, 0)

/-- Bits of p[d] for every lane; inactive lanes give 0 (R181). -/
def cmpOp (t : EType) (k : FCmp) (p d : PReg) (x y : VReg) : State → Out :=
  runGroup .all false fun s =>
    let c := s.cur
    let at' (j : Nat) := cmpElem t k c.plainMode.daz (lane (c.getV x) j).toNat (lane (c.getV y) j).toNat
    let js := activeLanes (c.getP p)
    let flags : FlagSet := js.foldl (fun f j => f ||| (at' j).2) 0
    let w := ofBits fun j => (c.getP p).getLsbD j && (at' j).1
    let skip (j : Nat) := skipsCompare .f32 c.plainMode.daz [(lane (c.getV x) j).toNat, (lane (c.getV y) j).toNat]
    .ok (.on ((s.modCur fun c => (c.setP d w).raise flags).countSkip (t.float?.isSome && js.any skip)
      |>.unchecked (js.isEmpty || (t.float?.isSome && js.all skip))))

/-- VCEQ (R181). -/
def execVceq (t : EType) (p d : PReg) (x y : VReg) (s : State) : Out := cmpOp t .eq p d x y s
/-- VCLT (R181). -/
def execVclt (t : EType) (p d : PReg) (x y : VReg) (s : State) : Out := cmpOp t .lt p d x y s
/-- VCLE (R181). -/
def execVcle (t : EType) (p d : PReg) (x y : VReg) (s : State) : Out := cmpOp t .le p d x y s
/-- VCNE (R181). -/
def execVcne (t : EType) (p d : PReg) (x y : VReg) (s : State) : Out := cmpOp t .ne p d x y s

/-! ## Rearrangement and reduction (R182, R183) -/

/-- VSEL: the predicate selects, and every lane is written (R182). -/
def execVsel (p : PReg) (d x y : VReg) (s : State) : Out :=
  plain (fun c => c.setV d (merge (c.getP p) (c.getV y) fun j => lane (c.getV x) j)) s

/-- VPERM (R182). -/
def execVperm (p : PReg) (d x y : VReg) (s : State) : Out :=
  plain (fun c => c.setV d (merge (c.getP p) (c.getV d) fun j => lane (c.getV x) ((lane (c.getV y) j).toNat % 32))) s

/-- VROT (R182). -/
def execVrot (p : PReg) (d x : VReg) (y : GReg) (s : State) : Out :=
  plain (fun c => c.setV d (merge (c.getP p) (c.getV d) fun j => lane (c.getV x) ((j + (c.getG y).toNat) % 32))) s

/-- One level of the pairwise tree: neighbours are added, the lower one on the left (R84). -/
def treeLevel {α : Type} (add : α → α → α) : List α → List α
  | a :: b :: l => add a b :: treeLevel add l
  | l => l

/-- The pairwise tree over 2^g elements (R84). -/
def treeFold {α : Type} (add : α → α → α) : Nat → List α → List α
  | 0, l => l
  | g + 1, l => treeFold add g (treeLevel add l)

/-- The sum of a group by the tree, in a float type: value and flags; inactive elements are −0.0 (R84, R183). Under RDN a +0 sum that meets
one becomes −0 by R74, although R84 has the lane leave the sign of a zero sum as it was (DEDUCED, log 26). -/
def segFloat (f : FFmt) (m : ArithMode) (g : Nat) (xs : List Nat) : FRes :=
  ((treeFold (fun (a b : FRes) => let r := f.add m a.bits b.bits; ⟨r.bits, a.flags ||| b.flags ||| r.flags⟩) g
    (xs.map fun x => ⟨x, 0⟩)).head?).getD ⟨0, 0⟩

/-- The sum of a group in an integer type. -/
def segInt (w g : Nat) (xs : List Nat) : Nat := ((treeFold (fun a b => (a + b) % 2 ^ w) g xs).head?).getD 0

/-- VSEG: groups of 2^(n+1) elements; the lowest element takes the sum, the others zero (R183). -/
def execVseg (t : EType) (p : PReg) (d x : VReg) (n : BitVec 3) (s : State) : Out :=
  runGroup .all false (fun s =>
    let c := s.cur
    let w := t.width
    let g := n.toNat + 1
    let size := 2 ^ g
    let input (zero : Nat) (e : Nat) := if elemOn (c.getP p) w e then elemOf w (c.getV x) e else zero
    let firsts := (List.range (1024 / w)).filter fun e => e % size == 0
    match t.float? with
    | some f =>
      let sums (m : ArithMode) (e : Nat) := segFloat f m g ((List.range size).map fun j => input (f.signBit true) (e + j))
      let v := ofElems w fun e => if e % size = 0 then (sums c.plainMode e).bits else 0
      let skip (e : Nat) := skipsCheck f c.plainMode.daz ((List.range size).map fun j => input (f.signBit true) (e + j))
          (sums c.plainMode e)
      .ok (.on ((s.modCur fun c => (c.setV d v).raise (orFlags (firsts.map (sums c.plainMode)))).countSkip (firsts.any skip) |>.unchecked (firsts.all skip)))
    | none =>
      let v := ofElems w fun e =>
        if e % size = 0 then segInt w g ((List.range size).map fun j => input 0 (e + j)) else 0
      .ok (.on (s.modCur fun c => c.setV d v))) s

/-! ## Unary operations (R184) -/

/-- VMOV (R184). -/
def execVmov (p : PReg) (d x : VReg) (s : State) : Out :=
  plain (fun c => c.setV d (merge (c.getP p) (c.getV d) fun j => lane (c.getV x) j)) s

/-- VNEG: a bit operation on floats (R184). -/
def execVneg (t : EType) (p : PReg) (d x : VReg) (s : State) : Out :=
  vecBits t.width p d (fun c e =>
    let raw := elemOf t.width (c.getV x) e
    match t.float? with
    | some _ => raw ^^^ 2 ^ (t.width - 1)
    | none => intBits t.width (-elemInt t raw)) s

/-- VABS: a bit operation on floats; the most negative integer stays (R184). -/
def execVabs (t : EType) (p : PReg) (d x : VReg) (s : State) : Out :=
  vecBits t.width p d (fun c e =>
    let raw := elemOf t.width (c.getV x) e
    match t.float? with
    | some _ => raw % 2 ^ (t.width - 1)
    | none => intBits t.width (elemInt t raw).natAbs) s

/-- A unary float operation of the duplicate class. -/
def unaryFloat (t : EType) (p : PReg) (d x : VReg) (fn : FFmt → ArithMode → Nat → FRes) : State → Out :=
  vecOp t.width p d (fun c e =>
    let raw := elemOf t.width (c.getV x) e
    match t.float? with
    | some f => fn f c.plainMode raw
    | none => ⟨raw, 0⟩) fun _ _ => false

/-- VRCP (R82, R184). -/
def execVrcp (t : EType) (p : PReg) (d x : VReg) (s : State) : Out := unaryFloat t p d x (fun f m a => f.special1 m .rcp a) s
/-- VRSQ (R82, R184). -/
def execVrsq (t : EType) (p : PReg) (d x : VReg) (s : State) : Out := unaryFloat t p d x (fun f m a => f.special1 m .rsq a) s
/-- VSQRT: one rounding, in the element type (R82, R184). -/
def execVsqrt (t : EType) (p : PReg) (d x : VReg) (s : State) : Out := unaryFloat t p d x (fun f m a => f.sqrt m a) s
/-- VEXP2 (R82, R184). -/
def execVexp2 (t : EType) (p : PReg) (d x : VReg) (s : State) : Out := unaryFloat t p d x (fun f m a => f.special1 m .exp2 a) s
/-- VLOG2 (R82, R184). -/
def execVlog2 (t : EType) (p : PReg) (d x : VReg) (s : State) : Out := unaryFloat t p d x (fun f m a => f.special1 m .log2 a) s
/-- VEXP (R82, R184). -/
def execVexp (t : EType) (p : PReg) (d x : VReg) (s : State) : Out := unaryFloat t p d x (fun f m a => f.special1 m .exp a) s
/-- VLOG (R82, R184). -/
def execVlog (t : EType) (p : PReg) (d x : VReg) (s : State) : Out := unaryFloat t p d x (fun f m a => f.special1 m .log a) s
/-- VTANH (R82, R184). -/
def execVtanh (t : EType) (p : PReg) (d x : VReg) (s : State) : Out := unaryFloat t p d x (fun f m a => f.special1 m .tanh a) s
/-- VSIG (R82, R184). -/
def execVsig (t : EType) (p : PReg) (d x : VReg) (s : State) : Out := unaryFloat t p d x (fun f m a => f.special1 m .sig a) s
/-- VSIN (R82, R184). -/
def execVsin (t : EType) (p : PReg) (d x : VReg) (s : State) : Out := unaryFloat t p d x (fun f m a => f.special1 m .sin a) s
/-- VCOS (R82, R184). -/
def execVcos (t : EType) (p : PReg) (d x : VReg) (s : State) : Out := unaryFloat t p d x (fun f m a => f.special1 m .cos a) s
/-- VFLR: no flag but NV for a signalling NaN (R184). -/
def execVflr (t : EType) (p : PReg) (d x : VReg) (s : State) : Out :=
  unaryFloat t p d x (fun f m a => f.integral m .rdn false a) s
/-- VRND: by RM, NX when the value changes (R184). -/
def execVrnd (t : EType) (p : PReg) (d x : VReg) (s : State) : Out :=
  unaryFloat t p d x (fun f m a => f.integral m m.rm true a) s

/-! ## Conversions (R81, R185, R186) -/

/-- The conversion of the table is exact, and sets no flag (R81). -/
def exactPair : FFmt → FFmt → Bool
  | .bf16, .f32 | .e4m3, .f32 | .e5m2, .f32 | .e4m3, .bf16 | .e5m2, .bf16 => true
  | _, _ => false

/-- Convert one element (R81). -/
def convertElem (src dst : EType) (m : ArithMode) (raw : Nat) : FRes :=
  match src.float?, dst.float? with
  | some f, some g =>
    let r := g.convertTo m (f.input m.daz raw)
    if exactPair f g then { r with flags := 0 } else r
  | some f, none => floatToInt dst.width dst.signed m.rm (f.input m.daz raw)
  | none, some g => g.convertTo m (.fin (Ex.ofInt (elemInt src raw)))
  | none, none =>
    let r := intRange dst.width dst.signed
    ⟨intBits dst.width (clampInt r.1 r.2 (elemInt src raw)), 0⟩

/-- The conversion of this element takes bits of the generator in a stochastic mode: every pair
is performed by RoundTo, an exact one too (R71, R78, R81, log 22). -/
def convertTakes (src dst : EType) (daz : Bool) (raw : Nat) : Bool :=
  match dst.float? with
  | none => false
  | some g =>
    match src.float? with
    | some f => g.takesBits (f.input daz raw)
    | none => g.takesBits (.fin (Ex.ofInt (elemInt src raw)))

/-- Convert elements in ascending order: their results, and the generator afterwards (R78). -/
def convertAll (src dst : EType) (amode : Word) (sto : Bool) (x : VWord) : List Nat → Word → List (Nat × FRes) × Word
  | [], seed => ([], seed)
  | e :: es, seed =>
    let m := arithMode amode seed
    let m := if sto then { m with rm := .sr (lfsrBits seed) } else m
    let raw := elemOf src.width x e
    let r := convertElem src dst m raw
    let seed' := if (match m.rm with
        | .sr _ => convertTakes src dst m.daz raw
        | _ => false) then lfsrSteps 16 seed else seed
    let rest := convertAll src dst amode sto x es seed'
    ((e, r) :: rest.1, rest.2)

/-- VCVT and VSRB: elements beyond the source are zero; inactive ones below keep their value (R185). -/
def convertOp (src dst : EType) (p : PReg) (d x : VReg) (sto : Bool) : State → Out :=
  runGroup .all false fun s =>
    let c := s.cur
    let w := dst.width
    let n := min src.count dst.count
    let rs := convertAll src dst c.amode sto (c.getV x) ((List.range n).filter (elemOn (c.getP p) w)) c.srseed
    let v := ofElems w fun e =>
      if n ≤ e then 0
      else ((rs.1.find? fun r => r.1 == e).map fun r => r.2.bits).getD (elemOf w (c.getV d) e)
    .ok (.on (s.modCur fun c => { (c.setV d v).raise (orFlags (rs.1.map (·.2))) with srseed := rs.2 }))

/-- VCVT (R185). -/
def execVcvt (s t : EType) (p : PReg) (d x : VReg) (st : State) : Out := convertOp s t p d x false st

/-- VSRB: every rounding is stochastic (R186). -/
def execVsrb (p : PReg) (d x : VReg) (s : State) : Out := convertOp .f32 .bf16 p d x true s

/-! ## Block formats in registers (R68, R187, R188) -/

/-- A packed block: its nibbles, its scale byte, its flags. -/
structure Block where
  nibbles : List Nat
  scale : Nat
  flags : FlagSet

/-- The finite values of a block. -/
def finites (vs : List FVal) : List Ex := vs.filterMap fun v => match v with
  | .fin x => some x
  | _ => none

/-- The largest magnitude of finite values. -/
def amaxOf (xs : List Ex) : Ex := xs.foldl (fun m x => if m.absLt x then x.abs else m) (Ex.zero false)

/-- The smallest E3M5 value whose sixfold reaches a magnitude, or 0xFF (R188). -/
def dx4Scale (amax : Ex) : Nat :=
  if amax.isZero then 0
  else ((List.range 256).find? fun b => !((Ex.mul (Ex.ofNat 6) (e3m5 b)).absLt amax)).getD 255

/-- An element of a DX4 block (R188). A rounding that is tiny and inexact sets UF with NX, by R76, where the section's worked example
lists NX alone for such elements (DEDUCED, log 26). -/
def dx4Elem (m : ArithMode) (s : Nat) (v : FVal) : FRes :=
  match v with
  | .nan _ _ _ => ⟨0, fNV⟩
  | .inf n => ⟨FFmt.e2m1.maxBits n, fNV⟩
  | .fin x => if s = 0 then ⟨FFmt.e2m1.signBit x.neg, 0⟩ else FFmt.e2m1.roundFin (x.div (e3m5 s)) m.rm false

/-- Pack a DX4 block. -/
def packDx4 (m : ArithMode) (vs : List FVal) : Block :=
  let s := dx4Scale (amaxOf (finites vs))
  let rs := vs.map (dx4Elem m s)
  ⟨rs.map (·.bits), s, orFlags rs⟩

/-- Pack an MXFP4 block. -/
def packMx (m : ArithMode) (vs : List FVal) : Block :=
  let xs := finites vs
  let amax := amaxOf xs
  if xs.length ≠ vs.length then ⟨vs.map fun _ => 0, 255, fNV⟩
  else if amax.isZero then ⟨xs.map fun x => FFmt.e2m1.signBit x.neg, 127, 0⟩
  else
    let s := (clampInt 0 254 (amax.log2 - 2 + 127)).toNat
    let rs := xs.map fun x => FFmt.e2m1.roundFin { x with exp := x.exp - ((s : Int) - 127) } m.rm false
    ⟨rs.map (·.bits), s, orFlags rs⟩

/-- Blocks of `n` values, `k` of them. -/
def blocksOf {α : Type} (n : Nat) : Nat → List α → List (List α)
  | 0, _ => []
  | k + 1, l => l.take n :: blocksOf n k (l.drop n)

/-- VPK4 and VPKM: element bytes from byte 0, scales from byte 32, zeros elsewhere (R187, R188). -/
def packOp (t : EType) (d x : VReg) (size : Nat) (pack : ArithMode → List FVal → Block) : State → Out :=
  runGroup .all false fun s =>
    let c := s.cur
    let m := c.plainMode
    let f := t.float?.getD .f32
    let vs := (List.range t.count).map fun e => f.input m.daz (elemOf t.width (c.getV x) e)
    let bs := (blocksOf size (t.count / size) vs).map (pack m)
    let nibbles := bs.flatMap (·.nibbles)
    let v := ofElems 8 fun i =>
      if i < t.count / 2 then nibbles.getD (2 * i) 0 + 16 * nibbles.getD (2 * i + 1) 0
      else if 32 ≤ i then ((bs[i - 32]?).map (·.scale)).getD 0 else 0
    .ok (.on (s.modCur fun c => (c.setV d v).raise (bs.foldl (fun fl b => fl ||| b.flags) 0)))

/-- VPK4 (R188). -/
def execVpk4 (t : EType) (d x : VReg) (s : State) : Out := packOp t d x 8 packDx4 s
/-- VPKM (R188). -/
def execVpkm (t : EType) (d x : VReg) (s : State) : Out := packOp t d x 32 packMx s

/-- An unpacked element: e × s rounded into the target (R68, R188). -/
def unpackElem (f : FFmt) (m : ArithMode) (nibble : Nat) (scale : Option Ex) : FRes :=
  match scale with
  | none => ⟨f.canonNaN, 0⟩
  | some x => f.convertTo m (.fin ((e2m1 nibble).mul x))

/-- VUP4 and VUPM (R187, R188). -/
def unpackOp (t : EType) (d x : VReg) (size : Nat) (scaleOf : Nat → Option Ex) : State → Out :=
  runGroup .all false fun s =>
    let c := s.cur
    let f := t.float?.getD .f32
    let at' (e : Nat) := unpackElem f c.plainMode (elemOf 4 (c.getV x) e) (scaleOf (elemOf 8 (c.getV x) (32 + e / size)))
    let v := ofElems t.width fun e => (at' e).bits
    .ok (.on (s.modCur fun c => (c.setV d v).raise (orFlags ((List.range t.count).map at'))))

/-- VUP4 (R188). -/
def execVup4 (t : EType) (d x : VReg) (s : State) : Out := unpackOp t d x 8 (fun b => some (e3m5 b)) s
/-- VUPM (R188). -/
def execVupm (t : EType) (d x : VReg) (s : State) : Out := unpackOp t d x 32 e8m0 s

/-! ## Broadcasts, lanes and immediates (R189, R190) -/

/-- VBC (R189). -/
def execVbc (t : EType) (p : PReg) (d : VReg) (x : GReg) (s : State) : Out :=
  vecBits t.width p d (fun c _ => (c.getG x).toNat) s

/-- VINS (R189). -/
def execVins (p : PReg) (d : VReg) (x : GReg) (lane' : BitVec 5) (s : State) : Out :=
  plain (fun c => c.setV d (ofLanes fun j =>
    if j = lane'.toNat && (c.getP p).getLsbD j then c.getG x else lane (c.getV d) j)) s

/-- VEXT (R189). -/
def execVext (d : GReg) (x : VReg) (lane' : BitVec 5) (s : State) : Out :=
  plain (fun c => c.setG d (lane (c.getV x) lane'.toNat)) s

/-- VIOTA (R189). -/
def execViota (t : EType) (p : PReg) (d : VReg) (s : State) : Out := vecBits t.width p d (fun _ e => e) s

/-- VZIP (R189). -/
def execVzip (t : EType) (p : PReg) (d x : VReg) (s : State) : Out :=
  vecBits t.width p d (fun c e =>
    if e % 2 = 0 then elemOf t.width (c.getV d) (e / 2) else elemOf t.width (c.getV x) (e / 2)) s

/-- VUZP (R189). -/
def execVuzp (t : EType) (p : PReg) (d x : VReg) (s : State) : Out :=
  vecBits t.width p d (fun c e =>
    if e < t.count / 2 then elemOf t.width (c.getV d) (2 * e)
    else elemOf t.width (c.getV x) (2 * (e - t.count / 2))) s

/-- VLI (R190). -/
def execVli (t : EType) (p : PReg) (d : VReg) (imm : BitVec 64) (s : State) : Out :=
  vecBits t.width p d (fun _ _ => imm.toNat) s

/-! ## Predicate operations (R191) -/

/-- PAND (R191). -/
def execPand (d x : PReg) (s : State) : Out := plain (fun c => c.setP d (c.getP d &&& c.getP x)) s
/-- POR (R191). -/
def execPor (d x : PReg) (s : State) : Out := plain (fun c => c.setP d (c.getP d ||| c.getP x)) s
/-- PXOR (R191). -/
def execPxor (d x : PReg) (s : State) : Out := plain (fun c => c.setP d (c.getP d ^^^ c.getP x)) s
/-- PNOT (R191). -/
def execPnot (d x : PReg) (s : State) : Out := plain (fun c => c.setP d (~~~(c.getP x))) s
/-- PCNT (R191). -/
def execPcnt (d : GReg) (x : PReg) (s : State) : Out :=
  plain (fun c => c.setG d (BitVec.ofNat 32 (activeLanes (c.getP x)).length)) s
/-- PFST (R191). -/
def execPfst (d : GReg) (x : PReg) (s : State) : Out :=
  plain (fun c => c.setG d (BitVec.ofNat 32 ((activeLanes (c.getP x)).headD 32))) s
/-- PLT (R191). -/
def execPlt (d : PReg) (x : GReg) (s : State) : Out :=
  plain (fun c => c.setP d (ofBits fun j => j < (c.getG x).toNat)) s
/-- PMOV (R191). -/
def execPmov (d x : PReg) (s : State) : Out := plain (fun c => c.setP d (c.getP x)) s

end Sys2Proof.Machine
end

