-- ==== Sys2Proof/Machine/Summary.lean ====
section
/-! DEFINITION. Mergeable summaries (R224 to R248). A register holds the bytes of its image; an image is read into fields,
changed, and written back. -/

namespace Sys2Proof.Machine

/-! ## Images (R225, R226) -/

/-- The body of a summary. -/
inductive SummBody where
  | none
  | moment (mean m2 : Word)
  | extreme (argmin argmax : DWord)
  | lse2 (m s : Word)
  | cairn (levels : List (List Nat)) (cc : List Word)
  | heavy (entries : List (Nat × Nat × Nat))
  | distinct (regs : List Nat)
  deriving DecidableEq, Repr

/-- A summary: the header, then the body (R225). -/
structure Summ where
  kind : Nat
  exact : Bool := true
  ktype : Nat := 0
  tws : Nat := 0
  seed : DWord := 0
  count : DWord := 0
  nan : DWord := 0
  minKey : Nat := 0xFFFFFFFF
  maxKey : Nat := 0
  aidx : DWord := 0
  cmp : DWord := 0
  body : SummBody
  deriving DecidableEq, Repr

/-- The image size of a kind (R226). -/
def imageSize (kind : Nat) : Nat := if 4 ≤ kind ∧ kind ≤ 6 then 4096 else 128

/-- The empty body of a kind (R226). -/
def emptyBody (kind : Nat) : SummBody :=
  match kind with
  | 1 => .moment 0 0
  | 2 => .extreme 0 0
  | 3 => .lse2 0xFF800000 0
  | 4 => .cairn (List.replicate 8 []) (List.replicate 8 0)
  | 5 => .heavy []
  | 6 => .distinct (List.replicate 4096 0)
  | _ => .none

/-- `n` bytes of an image as a number, little-endian. -/
def imgNat (b : List Byte) (off n : Nat) : Nat := natOfBytes ((b.drop off).take n)

/-- The fields of an image's header and the body of its kind. -/
def readImage (b : List Byte) : Summ :=
  let kind := imgNat b 0 1
  let w (off : Nat) : Word := BitVec.ofNat 32 (imgNat b off 4)
  let q (off : Nat) : DWord := BitVec.ofNat 64 (imgNat b off 8)
  { kind := kind, exact := imgNat b 1 1 % 2 == 1, ktype := imgNat b 2 1, tws := imgNat b 3 1, seed := q 8, count := q 16
    nan := q 24, minKey := imgNat b 32 4, maxKey := imgNat b 36 4, aidx := q 40, cmp := q 48
    body :=
      match kind with
      | 1 => .moment (w 64) (w 68)
      | 2 => .extreme (q 64) (q 72)
      | 3 => .lse2 (w 64) (w 68)
      | 4 => .cairn
          ((List.range 8).map fun l => (List.range (imgNat b (64 + l) 1)).map fun j => imgNat b (128 + 496 * l + 4 * j) 4)
          ((List.range 8).map fun l => w (72 + 4 * l))
      | 5 => .heavy ((List.range (imgNat b 64 2)).map fun e =>
          (imgNat b (256 + 12 * e) 4, imgNat b (260 + 12 * e) 4, imgNat b (264 + 12 * e) 4))
      | 6 => let n := imgNat b 64 3072; .distinct ((List.range 4096).map fun j => natField n (6 * j) 6)
      | _ => .none }

/-- Pad bytes with zeros to a length. -/
def padTo (n : Nat) (b : List Byte) : List Byte := (b ++ List.replicate (n - b.length) 0).take n

/-- Registers of six bits as a number. -/
def packSix : List Nat → Nat
  | [] => 0
  | r :: rs => r + 64 * packSix rs

/-- The bytes of a body, from byte 64 on. -/
def bodyBytes : SummBody → List Byte
  | .none => []
  | .moment a b | .lse2 a b => bytesOfNat 4 a.toNat ++ bytesOfNat 4 b.toNat
  | .extreme a b => bytesOfNat 8 a.toNat ++ bytesOfNat 8 b.toNat
  | .cairn ls cc =>
    (ls.flatMap fun l => bytesOfNat 1 l.length) ++ (cc.flatMap fun c => bytesOfNat 4 c.toNat) ++ List.replicate 24 0 ++
      (ls.flatMap fun l => padTo 496 (l.flatMap fun k => bytesOfNat 4 k))
  | .heavy es =>
    padTo 192 (bytesOfNat 2 es.length) ++ (es.flatMap fun e => bytesOfNat 4 e.1 ++ bytesOfNat 4 e.2.1 ++ bytesOfNat 4 e.2.2)
  | .distinct rs => bytesOfNat 3072 (packSix rs)

/-- The image of a summary. -/
def writeImage (s : Summ) : List Byte :=
  padTo (imageSize s.kind)
    (bytesOfNat 1 s.kind ++ bytesOfNat 1 s.exact.toNat ++ bytesOfNat 1 s.ktype ++ bytesOfNat 1 s.tws ++ bytesOfNat 4 0 ++
     bytesOfNat 8 s.seed.toNat ++ bytesOfNat 8 s.count.toNat ++ bytesOfNat 8 s.nan.toNat ++ bytesOfNat 4 s.minKey ++
     bytesOfNat 4 s.maxKey ++ bytesOfNat 8 s.aidx.toNat ++ bytesOfNat 8 s.cmp.toNat ++ bytesOfNat 8 0 ++ bodyBytes s.body)

/-- Entries stand in canonical order: CNT descending, ties by KEY ascending (R226). -/
def heavyBefore (a b : Nat × Nat × Nat) : Bool := decide (b.2.1 < a.2.1) || (a.2.1 == b.2.1 && decide (a.1 < b.1))

/-- Neighbours are in order. -/
def chained {α : Type} (r : α → α → Bool) : List α → Bool
  | a :: b :: l => r a b && chained r (b :: l)
  | _ => true

/-- The body keeps R226: fills, key order, entry count and order. -/
def bodyOk : SummBody → Bool
  | .cairn ls _ => ls.all fun l => decide (l.length ≤ 124) && chained (fun a b => decide (a ≤ b)) l
  | .heavy es => decide (es.length ≤ 320) && es.all (fun e => e.2.1 != 0) && chained heavyBefore es
  | _ => true

/-- The image is valid (R242, DETAIL 0x06): what its fields and zero bytes give back is the image itself. -/
def imageOk (b : List Byte) : Bool :=
  let s := readImage b
  decide (1 ≤ s.kind) && decide (s.kind ≤ 6) && (s.ktype == 0 || s.ktype == 2 || s.ktype == 7) && (s.kind == 4 || s.tws == 0) &&
  (s.kind == 4 || s.kind == 5 || s.cmp == 0) &&
  (s.count != 0 || (s.minKey == 0xFFFFFFFF && s.maxKey == 0)) && bodyOk s.body && b == writeImage s

/-- The bytes 0 to 3 of an image, as a trap shows them (R242). -/
def headWordOf (b : List Byte) : Word := BitVec.ofNat 32 (imgNat b 0 4)

/-! ## FP32 arithmetic of the summary unit (R227) -/

/-- RoundTo(FP32, RNE) of sums, differences, products and quotients; NaNs canonical. -/
def fadd (a b : Word) : Word := BitVec.ofNat 32 (FFmt.f32.add {} a.toNat b.toNat).bits
def fsub (a b : Word) : Word := BitVec.ofNat 32 (FFmt.f32.sub {} a.toNat b.toNat).bits
def fmul (a b : Word) : Word := BitVec.ofNat 32 (FFmt.f32.mul {} a.toNat b.toNat).bits
def fdiv (a b : Word) : Word := BitVec.ofNat 32 (FFmt.f32.div {} a.toNat b.toNat).bits
/-- One rounding of x × y + z. -/
def ffma (x y z : Word) : Word := BitVec.ofNat 32 (FFmt.f32.fma {} x.toNat y.toNat z.toNat).bits
/-- RoundTo(FP32, n, RNE). -/
def fnat (n : Nat) : Word := BitVec.ofNat 32 (FFmt.f32.roundFin (Ex.ofNat n) .rne false).bits
/-- EXP2 and LOG2 of R82. -/
def fexp2 (a : Word) : Word := BitVec.ofNat 32 (FFmt.f32.special1 {} .exp2 a.toNat).bits
def flog2 (a : Word) : Word := BitVec.ofNat 32 (FFmt.f32.special1 {} .log2 a.toNat).bits
/-- The greater of two, as FMAX. -/
def fmax (a b : Word) : Word := BitVec.ofNat 32 (FFmt.f32.minMax true {} a.toNat b.toNat).bits

/-! ## Merging (R229 to R232, R234, R237, R238) -/

/-- MOMENT (R229). -/
def mergeMoment (ca cb : DWord) (a b : Word × Word) : Word × Word :=
  if cb = 0 then a
  else if ca = 0 then b
  else
    let fa := fnat ca.toNat
    let fb := fnat cb.toNat
    let fn := fnat (ca.toNat + cb.toNat)
    let d := fsub b.1 a.1
    let w := fdiv fb fn
    let mean := ffma d w a.1
    let t := fmul (fmul (fmul d d) fa) w
    (mean, fadd (fadd a.2 b.2) t)

/-- LSE2 of two summaries that hold something (R231). -/
def lseCombine (a b : Word × Word) : Word × Word :=
  let m := fmax a.1 b.1
  if m = 0xFF800000 then (m, fadd a.2 b.2)
  else if m = 0x7F800000 then (m, 0x7FC00000)
  else (m, fadd (fmul a.2 (fexp2 (fsub a.1 m))) (fmul b.2 (fexp2 (fsub b.1 m))))

/-- LSE2 (R231). -/
def mergeLse (ca cb : DWord) (a b : Word × Word) : Word × Word :=
  if cb = 0 then a else if ca = 0 then b else lseCombine a b

/-- Keys of a list, ascending. -/
def sortKeys (l : List Nat) : List Nat := l.insertionSort (· ≤ ·)

/-- A cairn at work: levels, compactions per level, TWS, CMP, EXACT, and the coin state. -/
structure Cairn where
  levels : List (List Nat)
  cc : List Word
  tws : Nat
  cmp : DWord
  exact : Bool
  seed : DWord

/-- A coin and the stepped SEED (R228). -/
def takeCoin (seed : DWord) : Nat × DWord :=
  (seed.toNat % 2, (seed >>> 32).setWidth 32 ++ lfsrStep (seed.setWidth 32))

/-- Every other key, and the leftover of an odd count (R233). -/
def halve (b : Nat) (s : List Nat) : List Nat × List Nat :=
  let c := s.length - s.length % 2
  ((List.range (c / 2)).map (fun i => s.getD (2 * i + b) 0), s.drop c)

/-- Replace a level; count a compaction of a level. -/
def Cairn.setLevel (c : Cairn) (l : Nat) (ks : List Nat) : Cairn := { c with levels := c.levels.set l ks }
def Cairn.compacted (c : Cairn) (l : Nat) (seed : DWord) : Cairn :=
  { c with cc := c.cc.set l (c.cc.getD l 0 + 1), cmp := c.cmp + 1, exact := false, seed := seed }

/-- Level 7 compacted in place until it fits (R233). -/
def Cairn.pushTop : Nat → Cairn → List Nat → Cairn
  | 0, c, list => c.setLevel 7 (sortKeys (c.levels.getD 7 [] ++ list))
  | n + 1, c, list =>
    let s := sortKeys (c.levels.getD 7 [] ++ list)
    if s.length ≤ 124 then c.setLevel 7 s
    else
      let coin := takeCoin c.seed
      let h := halve coin.1 s
      let c := { (c.compacted 7 coin.2).setLevel 7 (sortKeys (h.1 ++ h.2)) with tws := (c.tws + 1) % 256 }
      Cairn.pushTop n c []

/-- Push (R233), from level `7 − n`. -/
def Cairn.push : Nat → Cairn → List Nat → Cairn
  | 0, c, list => Cairn.pushTop 4 c list
  | n + 1, c, list =>
    let l := 7 - (n + 1)
    let s := sortKeys (c.levels.getD l [] ++ list)
    if s.length ≤ 124 then c.setLevel l s
    else
      let coin := takeCoin c.seed
      let h := halve coin.1 s
      Cairn.push n ((c.compacted l coin.2).setLevel l h.2) h.1

/-- Thin a cairn with a coin of another's seed (R234); EXACT of both falls with the compaction (R232). -/
def Cairn.thin (x : Cairn) (seed : DWord) : Cairn × DWord :=
  let coin := takeCoin seed
  let h := halve coin.1 (sortKeys (x.levels.getD 7 []))
  ({ (x.compacted 7 x.seed).setLevel 7 (sortKeys (h.1 ++ h.2)) with tws := (x.tws + 1) % 256 }, coin.2)

/-- Thin `n` times A, which pays its own coins. -/
def Cairn.thinSelf : Nat → Cairn → Cairn
  | 0, a => a
  | n + 1, a =>
    let r := a.thin a.seed
    Cairn.thinSelf n { r.1 with seed := r.2 }

/-- Thin `n` times B with A's coins. -/
def Cairn.thinOther : Nat → Cairn → Cairn → Cairn × Cairn
  | 0, a, b => (a, b)
  | n + 1, a, b =>
    let r := b.thin a.seed
    Cairn.thinOther n { a with seed := r.2 } r.1

/-- Merge of B into A (R234). -/
def Cairn.merge (a b : Cairn) : Cairn :=
  let a := Cairn.thinSelf (b.tws - a.tws) a
  let r := Cairn.thinOther (a.tws - b.tws) a b
  let a := (List.range 8).foldl (fun a l => Cairn.push (7 - l) a (r.2.levels.getD l [])) r.1
  { a with
    cc := (List.range 8).map fun l => a.cc.getD l 0 + r.2.cc.getD l 0
    cmp := a.cmp + r.2.cmp
    exact := a.exact && r.2.exact }

/-- The cairn of a summary, and back. -/
def Summ.toCairn (s : Summ) (ls : List (List Nat)) (cc : List Word) : Cairn := ⟨ls, cc, s.tws, s.cmp, s.exact, s.seed⟩
def Summ.ofCairn (s : Summ) (c : Cairn) : Summ :=
  { s with tws := c.tws, cmp := c.cmp, exact := c.exact, seed := c.seed, body := .cairn c.levels c.cc }

/-- Saturation at 32 bits (R236). -/
def sat32 (n : Nat) : Nat := min n 0xFFFFFFFF

/-- Canonical order (R226). -/
def heavySort (es : List (Nat × Nat × Nat)) : List (Nat × Nat × Nat) := es.insertionSort fun a b => heavyBefore a b = true ∨ a = b

/-- Entries after a subtraction of `c` (R236, R237). -/
def heavySub (c : Nat) (es : List (Nat × Nat × Nat)) : List (Nat × Nat × Nat) :=
  (es.map fun e => (e.1, e.2.1 - c, sat32 (e.2.2 + c))).filter fun e => e.2.1 != 0

/-- The entry of a key. -/
def heavyFind (es : List (Nat × Nat × Nat)) (k : Nat) : Nat × Nat := ((es.find? (·.1 = k)).map (·.2)).getD (0, 0)

/-- HEAVY (R237): entries, and what is added to D; a subtraction loses EXACT. Where an image lists one key twice, which no check refuses, the
merge counts each of its entries with the CNT and ERR of the first (DESIGN CHOICE, log 28). -/
def mergeHeavy (a b : List (Nat × Nat × Nat)) : List (Nat × Nat × Nat) × Nat :=
  let keys := a.map (·.1) ++ (b.map (·.1)).filter fun k => !(a.any fun e => e.1 == k)
  let t := heavySort (keys.map fun k =>
    let x := heavyFind a k
    let y := heavyFind b k
    (k, sat32 (x.1 + y.1), sat32 (x.2 + y.2)))
  if t.length ≤ 320 then (t, 0)
  else
    let c := ((t[320]?).map (·.2.1)).getD 0
    (heavySub c t, c)

/-- The header's part of every merge (R232). -/
def Summ.mergeHead (a b : Summ) : Summ :=
  { a with count := a.count + b.count, nan := a.nan + b.nan, aidx := a.aidx + b.aidx
           minKey := min a.minKey b.minKey, maxKey := max a.maxKey b.maxKey, exact := a.exact && b.exact }

/-- SKMRG of B into A (R229 to R238). -/
def Summ.merge (a b : Summ) : Summ :=
  match a.body, b.body with
  | .moment ma sa, .moment mb sb =>
    let r := mergeMoment a.count b.count (ma, sa) (mb, sb)
    { a.mergeHead b with body := .moment r.1 r.2 }
  | .extreme na xa, .extreme nb xb =>
    let body :=
      if b.count = 0 then SummBody.extreme na xa
      else if a.count = 0 then .extreme (a.aidx + nb) (a.aidx + xb)
      else .extreme (if b.minKey < a.minKey then a.aidx + nb else na) (if a.maxKey < b.maxKey then a.aidx + xb else xa)
    { a.mergeHead b with body := body }
  | .lse2 ma sa, .lse2 mb sb =>
    let r := mergeLse a.count b.count (ma, sa) (mb, sb)
    { a.mergeHead b with body := .lse2 r.1 r.2 }
  | .cairn la ca, .cairn lb cb => (a.mergeHead b).ofCairn ((a.toCairn la ca).merge (b.toCairn lb cb))
  | .heavy ea, .heavy eb =>
    let r := mergeHeavy ea eb
    { a.mergeHead b with
      body := .heavy r.1, cmp := a.cmp + b.cmp + BitVec.ofNat 64 r.2
      exact := a.exact && b.exact && (r.2 == 0) }
  | .distinct ra, .distinct rb => { a.mergeHead b with body := .distinct (ra.zipWith max rb) }
  | _, _ => a

/-! ## Absorbing (R227, R229 to R231, R233, R236, R238) -/

/-- An element widened (R86): a NaN, or its key and its FP32 value. An integer element, which a MOMENT or LSE2 image with an integer KTYPE
can meet, has a free value there: R229 and R231 state none (DESIGN CHOICE, log 28). -/
def widen (t : EType) (raw : Nat) : Option (Nat × Word) :=
  match t.float? with
  | some f =>
    let v := f.decode raw
    if v.isNaN then none
    else
      let b : Word := BitVec.ofNat 32 (FFmt.f32.convertTo {} v).bits
      some ((key32 b).toNat, b)
  | none =>
    let w : Word := BitVec.ofInt 32 (elemInt t raw)
    some ((if t.signed then (keyI32 w).toNat else w.toNat), Config.summaryValue w)

/-- A leaf of the extended tree: how many values, and the pair (R229, R231). -/
abbrev Leaf := DWord × Word × Word

/-- Two leaves merged by a rule on pairs. -/
def leafMerge (rule : DWord → DWord → Word × Word → Word × Word → Word × Word) (a b : Leaf) : Leaf :=
  (a.1 + b.1, rule a.1 b.1 a.2 b.2)

/-- The tree's depth for a count of elements: 32, 64 or 128 (R229). -/
def treeDepth (n : Nat) : Nat := if n = 32 then 5 else if n = 64 then 6 else 7

/-- The pair of a register after the tree's result is merged into it. -/
def absorbTree (rule : DWord → DWord → Word × Word → Word × Word → Word × Word) (count : DWord) (a : Word × Word)
    (leaves : List Leaf) : Word × Word :=
  match (treeFold (leafMerge rule) (treeDepth leaves.length) leaves).head? with
  | some r => rule count r.1 a r.2
  | none => a

/-- EXTREME's rule for one value (R230). -/
def Summ.absorbExtreme (s : Summ) (key : Nat) (index : DWord) : Summ :=
  match s.body with
  | .extreme n x =>
    if s.count = 0 then { s with body := .extreme index index }
    else { s with body := .extreme (if key < s.minKey then index else n) (if s.maxKey < key then index else x) }
  | _ => s

/-- HEAVY's rule for one key (R236). -/
def Summ.absorbHeavy (s : Summ) (key : Nat) : Summ :=
  match s.body with
  | .heavy es =>
    if es.any (·.1 = key) then
      { s with body := .heavy (heavySort (es.map fun e => if e.1 = key then (e.1, sat32 (e.2.1 + 1), e.2.2) else e)) }
    else if es.length < 320 then { s with body := .heavy (heavySort (es ++ [(key, 1, 0)])) }
    else { s with body := .heavy (heavySort (heavySub 1 es)), cmp := s.cmp + 1, exact := false }
  | _ => s

/-- The mixer of DISTINCT (R238). -/
def mixKey (seed : DWord) (key : Nat) : DWord :=
  let z : DWord := BitVec.ofNat 64 key ^^^ seed
  let z := (z ^^^ (z >>> 31)) * 0xB4E52C9D7A31F6C3
  let z := (z ^^^ (z >>> 29)) * 0x8F1D5A67C29BE417
  z ^^^ (z >>> 32)

/-- DISTINCT's rule for one key (R238). -/
def Summ.absorbDistinct (s : Summ) (key : Nat) : Summ :=
  match s.body with
  | .distinct rs =>
    let z := (mixKey s.seed key).toNat
    let low := z % 2 ^ 52
    let rho := if low = 0 then 53 else 52 - Nat.log2 low
    let j := z / 2 ^ 52
    { s with body := .distinct (rs.set j (max (rs.getD j 0) rho)) }
  | _ => s

/-- One value: the kind's rule first, then COUNT, MINKEY and MAXKEY (R227). -/
def Summ.absorbOne (s : Summ) (key : Nat) (index : DWord) : Summ :=
  let s := match s.kind with
    | 2 => s.absorbExtreme key index
    | 5 => s.absorbHeavy key
    | 6 => s.absorbDistinct key
    | _ => s
  { s with count := s.count + 1, minKey := min s.minKey key, maxKey := max s.maxKey key }

/-- SKADD's effect (R227): the elements of a register with their activity, ascending. -/
def Summ.absorb (s : Summ) (t : EType) (v : VWord) (active : List Nat) : Summ :=
  let vals := active.map fun e => widen t (elemOf t.width v e)
  let keys := vals.filterMap fun x => x.map (·.1)
  let leaf (one : Word × Word) (f : Word → Word × Word) (e : Nat) : Leaf :=
    if active.contains e then (match widen t (elemOf t.width v e) with
      | some x => (1, f x.2)
      | none => (0, one))
    else (0, one)
  let body :=
    match s.body with
    | .moment m q =>
      let r := absorbTree mergeMoment s.count (m, q) ((List.range t.count).map (leaf (0, 0) fun x => (x, 0)))
      SummBody.moment r.1 r.2
    | .lse2 m q =>
      let r := absorbTree mergeLse s.count (m, q) ((List.range t.count).map (leaf (0xFF800000, 0) fun x => (x, 0x3F800000)))
      .lse2 r.1 r.2
    | b => b
  let s1 := match s.body with
    | .cairn ls cc => s.ofCairn (Cairn.push 7 (s.toCairn ls cc) keys)
    | _ => { s with body := body }
  let nans := BitVec.ofNat 64 (vals.length - keys.length)
  let s2 := vals.zipIdx.foldl (fun st e => match e.1 with
    | some x => st.absorbOne x.1 (s.aidx + BitVec.ofNat 64 e.2)
    | none => st) s1
  { s2 with nan := s.nan + nans, aidx := s.aidx + BitVec.ofNat 64 active.length }

/-! ## Queries (R235, R239, R246, R247) -/

/-- The weighted keys of a cairn. -/
def Summ.weighted (s : Summ) : List (Nat × Nat) :=
  match s.body with
  | .cairn ls _ => ls.zipIdx.flatMap fun e => e.1.map fun k => (k, if e.2 < 7 then 2 ^ e.2 else 2 ^ (7 + s.tws))
  | _ => []

/-- The whole weight. -/
def weightOf (ks : List (Nat × Nat)) : Nat := ks.foldl (fun n k => n + k.2) 0

/-- The weight of keys at most `k`. -/
def cumOf (ks : List (Nat × Nat)) (k : Nat) : Nat := weightOf (ks.filter fun e => e.1 ≤ k)

/-- The key that SKQ chooses (R235). -/
def Summ.quantile (s : Summ) (q : Word) : Option Nat :=
  let ks := s.weighted
  let target := q.toNat * weightOf ks / 2 ^ 32 + 1
  (sortKeys (ks.map (·.1))).find? fun k => target ≤ cumOf ks k

/-- The fraction that SKR gives for a key; none for a NaN (R235). -/
def Summ.rankOf (s : Summ) (key : Option Nat) : Word :=
  let ks := s.weighted
  let w := weightOf ks
  match key with
  | none => 0
  | some k =>
    let c := cumOf ks k
    if w = 0 then 0 else if c = w then 0xFFFFFFFF else BitVec.ofNat 32 (c * 2 ^ 32 / w)

/-- A finite or infinite value into type `t` by RNE, saturating, without flags (R247). An infinity in E4M3, which has none, is its canonical
NaN (DESIGN CHOICE, log 28). -/
def queryFloat (f : FFmt) (b : Word) : Nat :=
  match FFmt.f32.decode b.toNat with
  | .nan _ _ _ => f.canonNaN
  | .inf n => (f.special n false).bits
  | .fin x => let r := f.roundFin x .rne false; if r.flags &&& fOF ≠ 0 then f.maxBits x.neg else r.bits

/-- The word that a type's encoding gives in g[d] (R247). -/
def queryWord (t : EType) (raw : Nat) : Word :=
  match t.float? with
  | some _ => BitVec.ofNat 32 raw
  | none => BitVec.ofInt 32 (elemInt t raw)

/-- The empty result of a type (R247). -/
def queryEmpty (t : EType) : Word :=
  match t.float? with
  | some f => BitVec.ofNat 32 f.canonNaN
  | none => 0

/-- A key unkeyed in its family and converted (R86, R247). -/
def queryKey (t : EType) (key : Nat) : Word :=
  match t.float? with
  | some f => BitVec.ofNat 32 (queryFloat f (unkey32 (BitVec.ofNat 32 key)))
  | none =>
    let i : Int := if t.signed then (BitVec.ofNat 32 key ^^^ 0x80000000#32).toInt else key
    let r := intRange t.width t.signed
    queryWord t (intBits t.width (clampInt r.1 r.2 i))

/-- An FP32 result converted (R247). -/
def queryFp (t : EType) (b : Word) : Word :=
  match t.float? with
  | some f => BitVec.ofNat 32 (queryFloat f b)
  | none => (BitVec.ofNat 32 (floatToInt t.width t.signed .rne (FFmt.f32.decode b.toNat)).bits)

/-- The estimate of DISTINCT (R239). -/
def distinctEstimate (rs : List Nat) : Word :=
  let leaf (r : Nat) : Word := BitVec.ofNat 32 (FFmt.f32.roundFin ⟨false, 1, 1, -(r : Int)⟩ .rne false).bits
  let z := ((treeFold fadd 12 (rs.map leaf)).head?).getD 0
  let e := fdiv 0x4B389AAB z
  let v := rs.countP (· == 0)
  let small : Bool := match FFmt.f32.decode e.toNat with
    | .fin x => !((Ex.ofNat 10240).lt x)
    | _ => false
  if v != 0 && small then fmul 0x45317218 (fsub 0x41400000 (flog2 (fnat v))) else e

/-! ## Registers and traps (R224, R242) -/

/-- The bytes of a register. -/
def Tile.summBytes (t : Tile) (h : HReg) : List Byte := t.h.bytes (4096 * h.toNat) 4096

/-- The image in a register: of the size of its kind. -/
def Tile.summImage (t : Tile) (h : HReg) : List Byte := (t.summBytes h).take (imageSize (imgNat (t.summBytes h) 0 1))

/-- The summary in a register. -/
def Tile.summ (t : Tile) (h : HReg) : Summ := readImage (t.summImage h)

/-- Write a register: an image, zeros after it (R226). -/
def Tile.setSumm (t : Tile) (h : HReg) (s : Summ) : Tile :=
  { t with h := t.h.putBytes (4096 * h.toNat) (padTo 4096 (writeImage s)) }

/-- The family of a key type accepts an element type (R243). -/
def familyTakes (ktype : Nat) (t : EType) : Bool :=
  match t with
  | .f32 | .bf16 | .e4m3 | .e5m2 => ktype == 0
  | .i32 | .i16 | .i8 => ktype == 2
  | .u32 => ktype == 7

/-- The family of an element type (R225). -/
def familyOf : EType → Nat
  | .f32 | .bf16 | .e4m3 | .e5m2 => 0
  | .i32 | .i16 | .i8 => 2
  | .u32 => 7

/-- Summary kind mismatch, with the first words of one or two summaries (R242). -/
def summTrap (detail : Byte) (a b : Word) : Exit := .trap 0x10 detail (b ++ a)

/-- Bytes 0 to 3 of a register. -/
def State.summHead (s : State) (h : HReg) : Word := headWordOf (s.here.summBytes h)

/-- Reading the first `n` bytes of a register: a word that the SRAM can no longer correct is consumed, with cause 0x20 and no address
(R368, R373; DEDUCED, log 37). -/
def State.summRead (s : State) (h : HReg) (n : Nat) : Except Exit Unit :=
  if s.here.hbad.any fun w => decide (512 * h.toNat ≤ w) && decide (8 * w < 4096 * h.toNat + n) then .error (.trap 0x20 0 0) else .ok ()

/-- A register's words from byte `from'` to byte `to'` are written whole: they are good again (R373). -/
def Tile.summGood (t : Tile) (h : HReg) (from' to' : Nat) : Tile :=
  { t with hbad := t.hbad.filter fun w => !(decide (4096 * h.toNat + from' ≤ 8 * w) && decide (8 * w < 4096 * h.toNat + to')) }

/-- The summary in a register, which must be of one of the kinds (R242, DETAIL 0x01). -/
def State.summOf (s : State) (h : HReg) (ok : Nat → Bool) (second : Word := 0) (first : Option Word := none) : Except Exit Summ :=
  let x := s.here.summ h
  match s.summRead h (imageSize x.kind) with
  | .error e => .error e
  | .ok _ => if ok x.kind then .ok x else .error (summTrap 0x01 (first.getD (s.summHead h)) second)

/-- Every kind there is. -/
def anyKind (k : Nat) : Bool := decide (1 ≤ k) && decide (k ≤ 6)

/-- A seed whose low half is never zero (R228). -/
def seedStored (w : DWord) : DWord := if w.setWidth 32 = 0#32 then w ||| 1 else w

/-- The empty state of a kind (R226). -/
def emptySumm (kind ktype : Nat) (seed : DWord) : Summ := { kind := kind, ktype := ktype, seed := seed, body := emptyBody kind }

/-- A change of one register. -/
def State.setSumm (s : State) (h : HReg) (x : Summ) : State := s.modHere fun t => (t.setSumm h x).summGood h 0 4096

/-! ## Instructions (R241 to R248) -/

/-- SKINIT (R244). -/
def execSkinit (t : EType) (d : HReg) (x : GReg) (s : State) : Out :=
  runGroup .compute false (fun s =>
    let k := (s.cur.getG x).toNat
    if !anyKind k then .error (summTrap 0x04 (s.summHead d) 0)
    else if (k = 1 ∨ k = 3) ∧ t.float?.isNone then .error (summTrap 0x03 (s.summHead d) 0)
    else do
      s.summRead d 16
      let seed : DWord := BitVec.ofNat 64 (imgNat (s.here.summBytes d) 8 8)
      return .on (s.setSumm d (emptySumm k (familyOf t) (seedStored seed)))) s

/-- SKSEED: any kind (R244). -/
def execSkseed (d : HReg) (x : AReg) (s : State) : Out :=
  runGroup .compute false (fun s =>
    let seed := seedStored (s.cur.getA x)
    .ok (.on (s.modHere fun t => { t with h := t.h.putBytes (4096 * d.toNat + 8) (bytesOfNat 8 seed.toNat) }.summGood d 8 16))) s

/-- SKCLR (R244). -/
def execSkclr (d : HReg) (s : State) : Out :=
  runGroup .compute false (fun s => do
    let a ← s.summOf d anyKind
    return .on (s.setSumm d (emptySumm a.kind a.ktype a.seed))) s

/-- SKCPY (R244). -/
def execSkcpy (d x : HReg) (s : State) : Out :=
  runGroup .compute false (fun s => do
    s.summRead x 4096
    return .on (s.modHere fun t => { t with h := t.h.putBytes (4096 * d.toNat) (t.summBytes x) }.summGood d 0 4096)) s

/-- KIND and KTYPE equal, then SEED for DISTINCT (R242). -/
def mergeDefect (a b : Summ) : Option Byte :=
  if a.kind ≠ b.kind ∨ a.ktype ≠ b.ktype then some 0x02
  else if a.kind = 6 ∧ a.seed ≠ b.seed then some 0x05
  else none

/-- SKMRG (R244). -/
def execSkmrg (d x : HReg) (s : State) : Out :=
  runGroup .compute false (fun s => do
    let second := s.summHead x
    let a ← s.summOf d anyKind second
    let b ← s.summOf x anyKind second (some (s.summHead d))
    match mergeDefect a b with
    | some k => throw (summTrap k (s.summHead d) second)
    | none => return .on (s.setSumm d (a.merge b))) s

/-- SKADD (R245). -/
def execSkadd (t : EType) (p : PReg) (d : HReg) (x : VReg) (s : State) : Out :=
  runGroup .compute false (fun s => do
    let a ← s.summOf d anyKind
    if !familyTakes a.ktype t then throw (summTrap 0x03 (s.summHead d) 0)
    let c := s.cur
    let es := activeElems (c.getP p) t.width
    if es.isEmpty then return .on s
    return .on (s.setSumm d (a.absorb t (c.getV x) es))) s

/-- A query: the kind, then the type against the family, then g[d] (R242, R246). -/
def query (d : GReg) (x : HReg) (ok : Nat → Bool) (t : Option EType) (f : Ctx → Summ → Word) : State → Out :=
  runGroup .compute false fun s => do
    let a ← s.summOf x ok
    if (t.map fun t => !familyTakes a.ktype t).getD false then throw (summTrap 0x03 (s.summHead x) 0)
    return .on (s.modCur fun c => c.setG d (f c a))

/-- SKQ (R235, R246). -/
def execSkq (t : EType) (d : GReg) (x : HReg) (y : GReg) (s : State) : Out :=
  query d x (· == 4) (some t) (fun c a => ((a.quantile (c.getG y)).map (queryKey t)).getD (queryEmpty t)) s

/-- SKR (R235, R246). -/
def execSkr (t : EType) (d : GReg) (x : HReg) (y : GReg) (s : State) : Out :=
  query d x (· == 4) (some t) (fun c a => a.rankOf ((widen t ((c.getG y).toNat % 2 ^ t.width)).map (·.1))) s

/-- Entry `i` of a HEAVY summary. -/
def Summ.entry (s : Summ) (i : Nat) : Option (Nat × Nat × Nat) :=
  match s.body with
  | .heavy es => es[i]?
  | _ => none

/-- SKHH (R246). -/
def execSkhh (t : EType) (d : GReg) (x : HReg) (y : GReg) (s : State) : Out :=
  query d x (· == 5) (some t) (fun c a => ((a.entry (c.getG y).toNat).map fun e => queryKey t e.1).getD (queryEmpty t)) s

/-- SKHC (R246). -/
def execSkhc (d : GReg) (x : HReg) (y : GReg) (s : State) : Out :=
  query d x (· == 5) none (fun c a => ((a.entry (c.getG y).toNat).map fun e => BitVec.ofNat 32 e.2.1).getD 0) s

/-- SKCNT (R246). -/
def execSkcnt (d : GReg) (x : HReg) (s : State) : Out := query d x anyKind none (fun _ a => a.count.setWidth 32) s
/-- SKCNH (R246). -/
def execSkcnh (d : GReg) (x : HReg) (s : State) : Out := query d x anyKind none (fun _ a => (a.count >>> 32).setWidth 32) s
/-- SKNAN (R246). -/
def execSknan (d : GReg) (x : HReg) (s : State) : Out := query d x anyKind none (fun _ a => a.nan.setWidth 32) s

/-- A query of one kind whose type is not checked against the key family, because its result is not a key (R246). -/
def queryKind (k : Nat) (t : EType) (d : GReg) (x : HReg) (f : Summ → Word) : State → Out :=
  query d x (· == k) none fun _ a => queryFp t (f a)

/-- SKDC (R239, R246). -/
def execSkdc (t : EType) (d : GReg) (x : HReg) (s : State) : Out :=
  queryKind 6 t d x (fun a => match a.body with
    | .distinct rs => distinctEstimate rs
    | _ => 0) s

/-- SKMIN (R246). -/
def execSkmin (t : EType) (d : GReg) (x : HReg) (s : State) : Out :=
  query d x anyKind (some t) (fun _ a => if a.count = 0 then queryEmpty t else queryKey t a.minKey) s
/-- SKMAX (R246). -/
def execSkmax (t : EType) (d : GReg) (x : HReg) (s : State) : Out :=
  query d x anyKind (some t) (fun _ a => if a.count = 0 then queryEmpty t else queryKey t a.maxKey) s

/-- A query of MOMENT (R246, R247): the canonical NaN when COUNT = 0. -/
def queryMoment (t : EType) (d : GReg) (x : HReg) (f : Word → Word → Word → Word) : State → Out :=
  query d x (· == 1) none fun _ a =>
    match a.body with
    | .moment mean m2 => if a.count = 0 then queryEmpty t else queryFp t (f mean m2 (fnat a.count.toNat))
    | _ => queryEmpty t

/-- SKMEAN (R246). -/
def execSkmean (t : EType) (d : GReg) (x : HReg) (s : State) : Out := queryMoment t d x (fun m _ _ => m) s
/-- SKVAR (R246). -/
def execSkvar (t : EType) (d : GReg) (x : HReg) (s : State) : Out := queryMoment t d x (fun _ q n => fdiv q n) s
/-- SKSUM (R246). -/
def execSksum (t : EType) (d : GReg) (x : HReg) (s : State) : Out := queryMoment t d x (fun m _ n => fmul m n) s

/-- SKLSE: −∞ when empty (R246). -/
def execSklse (t : EType) (d : GReg) (x : HReg) (s : State) : Out :=
  queryKind 3 t d x (fun a => match a.body with
    | .lse2 m q => if a.count = 0 then 0xFF800000 else fadd m (flog2 q)
    | _ => 0) s

/-! ## Images in memory (R248) -/

/-- The 16-byte pieces of an extent, each by the steps of R104; faults name the pointer. -/
def State.imagePieces (s : State) (u : Purpose) (ea : DWord) (from' n : Nat) : Except Exit (List Piece) :=
  ((List.range (n / 16)).drop (from' / 16)).mapM fun j =>
    (s.targetAt u ea (ea + BitVec.ofNat 64 (16 * j)) 16).map fun t => t.piece 16

/-- The alignment of an image (R248). -/
def imageAligned (ea : DWord) (n : Nat) : Except Exit Unit :=
  if (spaceOf ea).isNone then .error (.trap 0x05 0 ea) else if ea.toNat % n ≠ 0 then .error (.trap 0x04 0 ea) else .ok ()

/-- SKST (R248). -/
def execSkst (d : HReg) (x : AReg) (imm : BitVec 64) (s : State) : Out :=
  runGroup .compute false (fun s => do
    let a ← s.summOf d anyKind
    let ea := s.cur.ea x imm 128
    let n := imageSize a.kind
    imageAligned ea n
    let ps ← s.imagePieces .store ea 0 n
    let img := s.here.summImage d
    let s' ← s.writePieces (ps.zipIdx.map fun e =>
      ({ piece := e.1, data := BitVec.ofNat 128 (imgNat img (16 * e.2) 16) } : StorePiece))
    return .on s') s

/-- The image at a pointer (R248): the first 128 bytes, then, by the kind that they show, the rest; the pieces read so far
stand in the group's transaction. -/
def State.loadImage (s : State) (ea : DWord) : Except Exit (State × List Byte) := do
  imageAligned ea 128
  let first ← s.imagePieces .load ea 0 128
  let bytesOf (l : List (BitVec 128)) : List Byte := l.flatMap fun w => bytesOfNat 16 w.toNat
  match s.cur.xact.map fun q => decide (8 < q.done.length) || (q.done.length == 8 && !q.todo.isEmpty) with
  | some true =>
    -- pieces of a published buffer are found anew (R261)
    let all ← if first.all fun p => p.window.isNone then pure [] else s.imagePieces .load ea 0 4096
    let r ← s.readPieces ea all
    return (r.1, bytesOf r.2)
  | _ =>
    let r ← s.readPieces ea first
    let b := bytesOf r.2
    if imageSize (imgNat b 0 1) = 128 then return (r.1, b)
    else
      imageAligned ea 4096
      let rest ← s.imagePieces .load ea 128 4096
      if !s.mayAccess (rest.map fun p => (p.key, p.size)) then throw (.wait s)
      let s' := r.1.modCur fun c => { c with xact := some { todo := rest, done := r.2 } }
      let q ← s'.readPieces ea (first ++ rest)
      return (q.1, bytesOf q.2)

/-- SKLD (R248). -/
def execSkld (d : HReg) (x : AReg) (imm : BitVec 64) (s : State) : Out :=
  runGroup .compute false (fun s => do
    let r ← s.loadImage (s.cur.ea x imm 128)
    if !imageOk r.2 then throw (summTrap 0x06 (s.summHead d) (headWordOf r.2))
    return .on (r.1.setSumm d (readImage r.2))) s

/-- SKLDH (R248). The trap for the KIND of h[d] comes before the image is read: TVALH is 0 (R242; DEDUCED, log 28). -/
def execSkldh (d : HReg) (x : AReg) (imm : BitVec 64) (s : State) : Out :=
  runGroup .compute false (fun s => do
    let a ← s.summOf d anyKind
    let r ← s.loadImage (s.cur.ea x imm 128)
    let second := headWordOf r.2
    if !imageOk r.2 then throw (summTrap 0x06 (s.summHead d) second)
    match mergeDefect a (readImage r.2) with
    | some k => throw (summTrap k (s.summHead d) second)
    | none => return .on (r.1.setSumm d (a.merge (readImage r.2)))) s

end Sys2Proof.Machine
end

