-- ==== Sys2Proof/Machine/Collective.lean ====
section
/-! DEFINITION. Collective plans: set-up, triggering, combining, delivery, release (R297, R329 to R338, R351 to R355, R450). -/

namespace Sys2Proof.Machine

/-! ## Combining (R332) -/

/-- Bytes of an element (R352). -/
def collectiveSize (op : Nat) : Nat :=
  if op = 2 then 2 else if op = 11 then 8 else if op = 12 then 128 else if op = 13 then 4096 else 4

/-- A floating maximum or minimum with the canonical NaN. -/
def fminmax (greater : Bool) (a b : Word) : Word := BitVec.ofNat 32 (FFmt.f32.minMax greater {} a.toNat b.toNat).bits

/-- Combine of two 32-bit elements (R332). -/
def combineWord (op : Nat) (a b : Word) : Word :=
  match op with
  | 0 => a + b
  | 1 => fadd a b
  | 3 => if a.slt b then b else a
  | 4 => if a.ult b then b else a
  | 5 => fminmax true a b
  | 6 => if b.slt a then b else a
  | 7 => if b.ult a then b else a
  | 8 => fminmax false a b
  | 9 => a &&& b
  | _ => a ||| b

/-- Combine of two LSE2 elements; M = −∞ with S = +0 is empty (R231, R332). -/
def combineLse (a b : Word × Word) : Word × Word :=
  let empty : Word × Word := (0xFF800000, 0)
  if b = empty then a else if a = empty then b else lseCombine a b

/-- A contribution's element is valid (R332): an image of the element's size. -/
def contributionOk (op : Nat) (e : List Byte) : Bool := imageOk e && imageSize (imgNat e 0 1) == collectiveSize op

/-- Combine of two elements; none for images that cannot be combined (R332). -/
def combineElem (op : Nat) (l r : List Byte) : Option (List Byte) :=
  if op = 12 ∨ op = 13 then
    let a := readImage l
    let b := readImage r
    if (mergeDefect a b).isSome then none else some (writeImage (a.merge b))
  else if op = 11 then
    let w (x : List Byte) (o : Nat) : Word := BitVec.ofNat 32 (imgNat x o 4)
    let c := combineLse (w l 0, w l 4) (w r 0, w r 4)
    some (bytesOfNat 4 c.1.toNat ++ bytesOfNat 4 c.2.toNat)
  else if op = 2 then some (bytesOfNat 2 (FFmt.bf16.add {} (natOfBytes l) (natOfBytes r)).bits)
  else some (bytesOfNat 4 (combineWord op (BitVec.ofNat 32 (natOfBytes l)) (BitVec.ofNat 32 (natOfBytes r))).toNat)

/-- Combine of contributions, element by element. -/
def combineAll (op n : Nat) (l r : List Byte) : Option (List Byte) :=
  let z := collectiveSize op
  (((blocksOf z n l).zip (blocksOf z n r)).mapM fun e => combineElem op e.1 e.2).map fun es => es.flatMap fun e => e

/-! ## The tree (R333) -/

/-- The greatest power of two that divides a positive number; for participant 0, one beyond every tree. -/
def lowBit : Nat → Nat → Nat
  | 0, _ => 1
  | f + 1, i => if i % 2 = 1 then 1 else 2 * lowBit f (i / 2)

/-- The participants that a whole subtree at participant `i` covers. -/
def Plan.wholeSpan (p : Plan) (i : Nat) : Nat := if i = 0 then p.parts.length else min (lowBit 32 i) (p.parts.length - i)

/-- The participant that the parent node of a whole subtree belongs to. -/
def parentOf (i : Nat) : Nat := i - lowBit 32 i

/-! ## Reservations (R331, R333) -/

/-- The nodes (i, s) of the tree over `n` participants (R333). -/
def nodesOf (n : Nat) : List (Nat × Nat) :=
  (List.range 18).flatMap fun e =>
    ((List.range n).filter fun i => i % (2 * 2 ^ e) == 0 && decide (i + 2 ^ e < n)).map fun i => (i, 2 ^ e)

/-- The router that could perform a node on this module: that of the tile of participant i, or the edge router at which V[i+s] enters the
module, which is taken to be the one of the port that leads to its module (R333; DEDUCED, log 30). -/
def State.routerOf (s : State) (q : Plan) (e : Nat × Nat) : Option (Bool × Nat) :=
  let own := s.modidx.toNat
  match q.parts[e.1]? with
  | none => none
  | some a =>
    if a.1 ≠ own then none
    else if q.modOf (e.1 + e.2) = own then some (false, a.2)
    else (s.routeTo (q.modOf (e.1 + e.2))).map fun port => (true, port)

/-- The combine slots of a router that plans have taken, one for each plan (R331). -/
def State.slotsTaken (s : State) (at' : Option (Bool × Nat)) : Nat :=
  s.pitches.foldl (fun n p => n + (p.plans.filter fun q => q.present && q.routed.any fun e => s.routerOf q e == at').length) 0

/-- The nodes of a plan that a router performs: each router that is named for a node has one combine slot free for the plan, of its 8
(R331). -/
def State.routedFor (s : State) (q : Plan) : List (Nat × Nat) :=
  (nodesOf q.parts.length).foldl (fun l e =>
    match s.routerOf q e with
    | none => l
    | at' => if s.slotsTaken at' < 8 then l ++ [e] else l) []

/-! ## Running a firing -/

/-- Deliver the result on this module: what is to be written, published and signalled (R335). -/
def Plan.deliver (p : Plan) (own : Nat) (data : Option (List Byte)) : Plan :=
  let ranks := p.ranksOn own
  match data with
  | none => { p with signalsDue := ranks }
  | some d =>
    { p with
      result := some d, signalsDue := ranks, pubDue := p.buffer.isSome
      writesDue := if p.reduce then ranks.take 1 else ranks }

/-- Bytes in parts of at most 256, which 8 data flits carry (R443); one part where there are none. -/
def partsOf256 (d : List Byte) : List (List Byte) :=
  if d.isEmpty then [[]] else (List.range ((d.length + 255) / 256)).map fun j => (d.drop (256 * j)).take 256

/-- Tell the other modules of the result, or of its delivery without data. -/
def State.deliverOut (s : State) (id : PitchId) (p : Plan) (data : List Byte) : State :=
  (p.others s.modidx.toNat).foldl (fun s m => (partsOf256 data).foldl (fun s d =>
    s.sendPacket m (.delivery id.cfg p.key p.firing data.length d p.pts)) s) s

/-- A partial comes to stand at its node: the complete one is the result; one whose parent lies on another module travels
there (R333). -/
def State.addPartial (s : State) (id : PitchId) (p : Plan) (x : Partial) : State :=
  let own := s.modidx.toNat
  if p.failed then s
  else if x.node = 0 ∧ x.span = p.parts.length then
    let s := s.modPlan id p.key fun p => p.deliver own (some x.data)
    if p.reduce then s else s.deliverOut id p x.data
  else if x.span = p.wholeSpan x.node ∧ p.modOf (parentOf x.node) ≠ own then
    (partsOf256 x.data).foldl (fun s d => s.sendPacket (p.modOf (parentOf x.node))
      (.partialSum id.cfg p.key p.firing x.node x.span x.data.length d p.pts)) s
  else s.modPlan id p.key fun p => { p with partials := p.partials ++ [x] }

/-- The plan of slot `k` at a tile, with its pitch. -/
def State.slotPlan (s : State) (r k : Nat) : Option (PitchId × Plan) :=
  match (s.tile r).pitch.bind s.pitch? with
  | none => none
  | some p => (s.planAt p r k).map fun q => (p.id, q)

/-- The node (i, s) of a participant: both operands are there, and are combined, the lower one on the left (R333); operands
that cannot be combined fail the firing (R332, R336). -/
def State.combine (s : State) (id : PitchId) (p : Plan) (i span : Nat) : State :=
  let n := p.parts.length
  if i % (2 * span) ≠ 0 ∨ n ≤ i + span then s
  else
    match p.partials.find? (fun x => x.node == i && x.span == span),
      p.partials.find? (fun x => x.node == i + span && x.span == min span (n - i - span)) with
    | some a, some b =>
      match combineAll p.op p.count a.data b.data with
      | none => s.failPlan id p 5
      | some d =>
        let p' := { p with partials := (p.partials.erase a).erase b }
        (s.modPlan id p.key fun _ => p').addPartial id p' ⟨i, span + b.span, d⟩
    | _, _ => s

/-- COMB and ROUTER_COMBINE: the same step in a message thread or in a router; the place changes no bit (R333). -/
def combineAt (routed : Bool) (r k span : Nat) (s : State) : Out :=
  match s.slotPlan r k with
  | none => .next s
  | some (id, p) =>
    match p.number s.modidx.toNat r with
    | some i => event s (!p.failed && span != 0 && p.routed.contains (i, span) == routed) fun s => s.combine id p i span
    | none => .next s

/-- COMB: in the collective lane of the participant's message thread (R333). -/
def execComb (r k span : Nat) (s : State) : Out := combineAt false r k span s
/-- ROUTER_COMBINE: in the combine slot that COLSET reserved (R333). -/
def execRouterCombine (r k span : Nat) (s : State) : Out := combineAt true r k span s

/-! ## TRIG (R297, R334) -/

/-- The plan that a trigger address names for this tile (R297, R330). -/
def State.triggered (s : State) (ea : DWord) : Option (PitchId × Plan) :=
  match spaceOf ea with
  | some (.scratch owner off) =>
    if owner = s.focus.rank ∧ 0xFF000 ≤ off ∧ off < 0xFF080 ∧ off % 8 = 0 then s.slotPlan owner ((off - 0xFF000) / 8) else none
  | _ => none

/-- The first poisoned word of a contribution, as its scratch offset (R373). -/
def State.badContribution (s : State) (off n : Nat) : Option Nat :=
  ((List.range ((n + 7) / 8)).map fun j => off + 8 * j).find? fun o => s.poisoned (sramKey s.focus.rank .scratch o) 1

/-- What keeps a TRIG at K: a COLFR of the plan in progress (R354); or the other modules are to know of it first, so that they count the
firing as in progress (R354, R451, log 30). They are told once. -/
def State.trigWaits (s : State) (id : PitchId) (p : Plan) : Option State :=
  let r := s.focus.rank
  let st := p.statusOf r
  let others := p.others s.modidx.toNat
  if p.failed ∨ (others.isEmpty ∧ p.lockedFor.isEmpty) ∨ (st.trigger = some s.focus.ctx ∧ others.all st.heard.contains) then none
  else if st.trigger.isSome ∨ !p.lockedFor.isEmpty then some s
  else some ((s.modPlan id p.key fun p => p.modStatus r fun e =>
    { e with trigger := some s.focus.ctx, heard := [], round := e.round + 1 }).tellOthers id p
    (.trig p.key p.firing ((p.number s.modidx.toNat r).getD 0) (st.round + 1)))

/-- The participant's part begins with its contribution (R334). -/
def State.begin (s : State) (id : PitchId) (p : Plan) (data : List Byte) (arg : Half) : State :=
  let r := s.focus.rank
  let p' := { p.modStatus r fun e => { e with
      trigd := true, done := false, arg := arg, trigger := none, heard := [], born := if p.buffer.isSome then s.newEvent else 0 } with
    pts := Time.join p.pts s.cur.pts }
  let s := (s.modPlan id p.key fun _ => p').numbered p.buffer.isSome
  let valid := (p.op != 12 && p.op != 13) || (blocksOf (collectiveSize p.op) p.count data).all (contributionOk p.op)
  if !valid then s.failPlan id p' 5
  else s.addPartial id p' ⟨(p.number s.modidx.toNat r).getD 0, 1, data⟩

/-- TRIG (R297, R334). -/
def execTrig (d : AReg) (x : GReg) (s : State) : Out :=
  runGroup .all false (fun s =>
    let ea := s.cur.getA d
    let r := s.focus.rank
    if (spaceOf ea).isNone then .error (.trap 0x05 0 ea)
    else if ea.toNat % 8 ≠ 0 then .error (.trap 0x04 0 ea)
    else
      match s.triggered ea with
      | none => .error (.trap 0x32 0x01 ea)
      | some (id, p) =>
        if (p.statusOf r).trigd then .error (.trap 0x32 0x02 ea)
        else if !s.released then .error (.wait s)
        else
          let n := p.count * collectiveSize p.op
          match s.badContribution p.src n with
          | some o =>
            if (p.statusOf r).trigger.isSome then .error (.trapIn (s.withdrawPlan r s.focus.ctx) 0x20 0 (scratchPtr r o))
            else .error (.trap 0x20 0 (scratchPtr r o))
          | none =>
            match s.trigWaits id p with
            | some s' => .error (.wait s')
            | none => .ok (.on (s.begin id p (s.mem.bytes (sramKey r .scratch p.src) n) ((s.cur.getG x).setWidth 16)))) s

/-! ## Delivery (R335) -/

/-- Participants stand on several modules. -/
def Plan.crosses (p : Plan) (own : Nat) : Bool := !(p.others own).isEmpty

/-- A destination write faults (R335, R336): it is refused, or its page's scope does not hold every module of the plan (R266). -/
def State.destFaults (s : State) (r : Nat) (p : Plan) (n : Nat) : Bool :=
  match p.buffer with
  | none => decide ((s.tile r).scratchSize < p.dst + n)
  | some h => (List.range ((n + 15) / 16)).any fun j =>
      match s.spaceTarget r .engineWrite (min 16 (n - 16 * j)) (.buffer h (p.dst + 16 * j)) with
      | .ok t => p.crosses s.modidx.toNat && t.scope != .system
      | .error _ => true

/-- Write a receiver's destination in 16-byte pieces (R335); the plan's time follows. -/
def State.writeResult (s : State) (id : PitchId) (r : Nat) (p : Plan) (data : List Byte) : State :=
  let w := match p.buffer with
    | some h => s.writeShadow r h p.dst data p.pts.time
    | none => (List.range ((data.length + 15) / 16)).foldl (fun (e : State × DWord) j =>
        let piece := (data.drop (16 * j)).take 16
        e.1.performWrite r (sramKey r .scratch (p.dst + 16 * j)) piece.length (BitVec.ofNat 128 (natOfBytes piece))
          { p.pts with time := e.2 } (r, none)) (s, p.pts.time)
  w.1.modPlan id p.key fun p => { p with pts := Time.join p.pts { time := w.2 }, writesDue := p.writesDue.filter (· ≠ r) }

/-- A firing has completed at every participant (R334, R355). -/
def Plan.completed (p : Plan) : Plan :=
  { p with
    status := p.status.map fun e => if e.trigd then { e with trigd := false, done := true, fcnt := e.fcnt + 1 } else e
    remoteTrigd := [], partials := [], arriving := [], result := none, writesDue := [], signalsDue := [], pubDue := false
    told := false, delivered := [], firing := p.firing + 1 }

/-- At the lead of a plan: once the deliveries of every module are performed, the firing is complete everywhere (R334). -/
def State.completeFiring (s : State) (id : PitchId) (k : PlanKey) : State :=
  match (s.pitch? id).bind fun p => p.plan? k with
  | none => s
  | some q =>
    if q.failed || !q.told || !(q.others s.modidx.toNat).all q.delivered.contains then s
    else (s.modPlan id k Plan.completed).tellOthers id q (.complete k q.firing)

/-- Once the deliveries of this module are all performed, the lead knows it (R334). -/
def State.deliveredHere (s : State) (id : PitchId) (k : PlanKey) : State :=
  match (s.pitch? id).bind fun p => p.plan? k with
  | none => s
  | some q =>
    if q.failed || q.told || q.pubDue || !q.writesDue.isEmpty || !q.signalsDue.isEmpty then s
    else
      let s := s.modPlan id k fun q => { q with told := true }
      if k.lead.1 = s.modidx.toNat then s.completeFiring id k else s.tell k.lead.1 id.cfg (.delivered k q.firing)

/-- Signal a receiver's completion target, which ends its delivery (R321, R335). -/
def State.signal (s : State) (id : PitchId) (r : Nat) (p : Plan) : State :=
  let done (s : State) := (s.modPlan id p.key fun p => { p with signalsDue := p.signalsDue.filter (· ≠ r) }).deliveredHere id p.key
  if p.barrier then
    done (s.modTile r fun t => t.modBar (p.target.setWidth 3) fun b => b.arriveFrom true p.member false p.pts)
  else
    match ((s.tile r).sem p.target).add 1 p.pts with
    | some m => done (s.modTile r fun t => t.modSem p.target fun _ => m)
    | none => s.failPlan id p 4

/-- Writes and publishing of this module are performed. -/
def Plan.written (p : Plan) : Bool := p.writesDue.isEmpty && !p.pubDue

/-- In reduce mode the deliveries without data go out once participant 0's writes and PUB are performed (R335). -/
def State.afterWrites (s : State) (id : PitchId) (k : PlanKey) : State :=
  match (s.pitch? id).bind fun p => p.plan? k with
  | some p => if p.reduce ∧ p.written ∧ k.lead.1 = s.modidx.toNat then s.deliverOut id p [] else s
  | none => s

/-- A remap holds a bank that a delivery would write (R370). -/
def State.deliveryHeld (s : State) (r : Nat) (p : Plan) (n : Nat) : Bool :=
  match p.buffer with
  | some h => s.shadowHeld r h p.dst n
  | none => false

/-- CDONE: a delivery is performed at a receiver: its writes first; its signal at once where nothing is to be published, else
in a second step after the automatic PUB (R335). -/
def execCdone (r k : Nat) (s : State) : Out :=
  match s.slotPlan r k with
  | none => .next s
  | some (id, p) =>
    if p.failed then .next s
    else if p.writesDue.contains r then
      let data := p.result.getD []
      if s.destFaults r p data.length then .next (s.failPlan id p 4)
      else event s (!s.deliveryHeld r p data.length) fun s =>
        let s := (s.writeResult id r p data)
        let s := if p.writesDue = [r] ∧ !p.pubDue then s.afterWrites id p.key else s
        match (s.pitch? id).bind fun q => q.plan? p.key with
        | some q => if q.buffer.isNone then s.signal id r q else s
        | none => s
    else event s (p.signalsDue.contains r && (p.written || (!p.reduce && p.buffer.isNone))) fun s => s.signal id r p

/-- AUTOMATIC_PUB of the plan of a handle: every write on this module is performed; of several buffers due, the lowest handle first
(R335). -/
def execAutomaticPub (id : PitchId) (handle : Half) (s : State) : Out :=
  match s.pitch? id with
  | none => .next s
  | some p =>
    match p.plans.find? fun q => q.handle == handle && q.pubDue with
    | none => .next s
    | some q =>
      let b := q.buffer.getD 0
      let lower := p.plans.any fun o => o.pubDue && o.writesDue.isEmpty && decide (o.buffer.getD 0 < b)
      event s (q.writesDue.isEmpty && !q.failed && !lower) fun s =>
        let e := s.publish id b q.pts
        (e.1.modPlan id q.key fun q => { q with pubDue := false }).afterWrites id q.key

/-! ## Descriptors (R352) -/

/-- `w` bits from byte `b` of a plan descriptor. -/
def planField (d : BitVec 512) (b w : Nat) : Nat := natField d.toNat (8 * b) w
def planOp (d : BitVec 512) : Nat := planField d 0 8
def planWhole (d : BitVec 512) : Bool := d.getLsbD 9
def planCount (d : BitVec 512) : Nat := planField d 4 32
def planSrc (d : BitVec 512) : Nat := planField d 8 32
def planDst (d : BitVec 512) : Nat := planField d 12 32
def planHandle (d : BitVec 512) : Option Nat := if planField d 16 16 = 0xFFFF then none else some (planField d 16 16)
def planHoff (d : BitVec 512) : Option Nat := if planField d 20 32 = 0xFFFFFFFF then none else some (planField d 20 32)
def planPart (d : BitVec 512) : Nat := planField d 24 32
def planLoff (d : BitVec 512) : Nat := planField d 28 32
/-- Module `m` is selected by MMASK. -/
def planMask (d : BitVec 512) (m : Nat) : Bool := d.getLsbD (256 + m)

/-- A reserved field is nonzero, or OP above 13 (R352, R353). -/
def planReserved (d : BitVec 512) : Bool :=
  decide (13 < planOp d) || planField d 1 8 / 4 != 0 || natField d.toNat 21 2 != 0 ||
  (d.getLsbD 23 && natField d.toNat 19 2 != 0) || (!d.getLsbD 23 && planField d 3 8 != 0) || planField d 18 16 != 0 ||
  (if planWhole d then planPart d != 0 || planLoff d != 0 else planField d 32 256 != 0)

/-- A limit that the descriptor and list alone show is broken (R353). -/
def planLimit (d : BitVec 512) (list : List (Nat × Nat)) : Bool :=
  planCount d == 0 || decide (65536 < planCount d * collectiveSize (planOp d)) || planSrc d % 16 != 0 || planDst d % 16 != 0 ||
  (match planHoff d with
   | some h => h % 4 != 0
   | none => false) ||
  decide (31 < planField d 3 8) ||
  (!planWhole d && (planPart d == 0 || decide (2 ^ 17 < planPart d) ||
    !chained (fun a b : Nat × Nat => decide (a.1 < b.1) || (a.1 == b.1 && decide (a.2 < b.2))) list))

/-- The plan of a descriptor. -/
def planFrom (d : BitVec 512) (handle : Half) (scope : Scope) (parts : List (Nat × Nat)) : Plan :=
  { handle := handle, op := planOp d, reduce := d.getLsbD 8, barrier := d.getLsbD 23, target := BitVec.ofNat 5 (planField d 2 5)
    member := planField d 3 8, count := planCount d, src := planSrc d, dst := planDst d, buffer := planHandle d
    hoff := planHoff d, parts := parts, scope := scope }

/-! ## COLSET (R331, R353) -/

/-- The list of a descriptor, from the issuer's scratch: module and rank, and whether a reserved bit is set. -/
def State.planList (s : State) (d : BitVec 512) : List (Nat × Nat) × Bool :=
  let ws := (List.range (planPart d)).map fun j => s.mem.readNat (sramKey s.focus.rank .scratch (planLoff d + 4 * j)) 4
  (ws.map fun w => (natField w 17 8, natField w 0 17), ws.any fun w => decide (2 ^ 25 ≤ w))

/-- COLSET (R353): the request goes to the handle home, and the answer comes back. -/
def execColset (sc : Scope) (d x : GReg) (s : State) : Out :=
  runGroup .all false (fun s =>
    let r := s.focus.rank
    match s.cur.colset with
    | .waiting => .error (.wait s)
    | .value w => .ok (.on (s.modCur fun c => { c.setG d w with colset := .none }))
    | _ => do
      let o := (s.cur.getG x).toNat
      s.scratchOffset o 64 64
      let desc : BitVec 512 := s.scratchRead 512 o 64
      if !planWhole desc then s.scratchOffset (planLoff desc) 4 (4 * planPart desc)
      let list := if planWhole desc then ([], false) else s.planList desc
      let own := s.modidx.toNat
      let partOf := if planWhole desc then planMask desc own && !s.here.struck else list.1.contains (own, r)
      if planReserved desc || list.2 || sc == .lane || sc == .core || sc == .tile || !partOf then throw s.refuse
      if planLimit desc list.1 then throw s.refuse
      match s.here.pitch with
      | none => throw s.refuse
      | some id =>
        let q : ColsetReq := { rank := r, ctx := s.focus.ctx, desc := desc, list := list.1, scope := sc, round := s.reqs }
        throw (.wait (({ s with reqs := s.reqs + 1 }.modPitch id fun p => { p with colsets := p.colsets ++ [q] }).modCur fun c => { c with colset := .waiting }))) s

/-- The live tiles of a pitch instance. -/
def State.liveTiles (s : State) (p : Pitch) : List Nat :=
  (s.region p).filter fun r => !(s.tile r).struck && (s.tile r).pitch == some p.id

/-- The participants of a request on this module: the ranks, and whether every one that the list names is live (R353). -/
def State.ownRanks (s : State) (p : Pitch) (d : BitVec 512) (listed : List Nat) : List Nat × Bool :=
  if planWhole d then (s.liveTiles p, true) else (listed, listed.all fun r => (s.liveTiles p).contains r)

/-- A page of the destination buffer excludes a participant by its scope; `far` says that participants stand on other modules too
(R266, R353). -/
def State.bufferExcludes (s : State) (d : BitVec 512) (far : Bool) (h : Nat) (r : Nat) : Bool :=
  let n := planCount d * collectiveSize (planOp d)
  (List.range ((n + 15) / 16)).any fun j =>
    match s.spaceTarget r .engineWrite 1 (.buffer h (planDst d + 16 * j)) with
    | .error code => code == 0x08
    | .ok t => far && t.scope != .system

/-- The failures of R353 that a module sees of its own participants, by their codes. -/
def State.planFailures (s : State) (p : Pitch) (d : BitVec 512) (far : Bool) (ranks : List Nat) (live : Bool) : List Nat :=
  let n := planCount d * collectiveSize (planOp d)
  let f2 := if live then [] else [2]
  let f4 := match planHandle d with
    | none => []
    | some h => if p.handles.length ≤ h ∨ ranks.any (s.bufferExcludes d far h) then [4] else []
  let beyond (r : Nat) : Bool :=
    let size := (s.tile r).scratchSize
    decide (size < planSrc d + n) ||
    (match planHoff d with
     | some o => decide (size < o + 4)
     | none => false) ||
    (match planHandle d with
     | none => decide (size < planDst d + n)
     | some h => match p.handles[h]? with
       | some b => decide (b.buffer.size < planDst d + n)
       | none => false)
  f2 ++ f4 ++ (if ranks.any beyond then [6] else [])

/-- The slot numbers free in every one of some tiles (R331). -/
def Pitch.freeSlots (p : Pitch) (own : Nat) (ranks : List Nat) : List Nat :=
  (List.range 16).filter fun k =>
    !(p.plans.any fun q => q.present && q.slot == k && (q.ranksOn own).any ranks.contains)

/-- The modules of a request, ascending. -/
def ColsetReq.modules (q : ColsetReq) (own : Nat) : List Nat :=
  (List.range 256).filter fun m => m == own || (if planWhole q.desc then planMask q.desc m else q.list.any fun e => e.1 == m)

/-- The other modules of a request. -/
def ColsetReq.others (q : ColsetReq) (own : Nat) : List Nat := (q.modules own).filter (· ≠ own)

/-- What this module answers about its participants in a request (R353). -/
def State.answerFor (s : State) (p : Pitch) (d : BitVec 512) (far : Bool) (listed : List Nat) : PlanAnswer :=
  let mine := s.ownRanks p d listed
  ⟨s.modidx.toNat, s.planFailures p d far mine.1 mine.2, mine.1, p.freeSlots s.modidx.toNat mine.1⟩

/-- The participants of a request, once every module has answered, in ascending order of module and rank (R329). -/
def ColsetReq.parts (q : ColsetReq) : List (Nat × Nat) :=
  if planWhole q.desc then (List.range 256).flatMap fun m =>
    ((q.answers.filter (·.mod = m)).flatMap fun e => e.ranks).map fun r => (m, r)
  else q.list

/-- A participant lies outside the scope around the issuer (R285, R353). -/
def State.outsideScope (s : State) (q : ColsetReq) (parts : List (Nat × Nat)) : Bool :=
  parts.any fun e => if e.1 = s.modidx.toNat then !s.within q.scope q.rank e.2 else q.scope != .system

/-- The first of the failures that are found before links and slots are looked at, in the order 2, 3, 4, 6 (R353). -/
def State.firstFailure (s : State) (q : ColsetReq) : Option Nat :=
  let fs := q.answers.flatMap (fun a => a.failures) ++ (if s.outsideScope q q.parts then [3] else [])
  [2, 3, 4, 6].find? fun f => fs.contains f

/-- The lowest slot number that every module has free (R353). -/
def ColsetReq.slot (q : ColsetReq) : Option Nat := (List.range 16).find? fun k => q.answers.all fun a => a.free.contains k

/-- The links that this module needs for a plan are not down and carry its topology version: to the modules that its partials go to and,
from the lead, to every other one (R331, R353; log 30). -/
def State.linksGood (s : State) (parts : List (Nat × Nat)) : Bool :=
  let own := s.modidx.toNat
  parts.zipIdx.all fun e =>
    let up := (parts[parentOf e.2]?.map (·.1)).getD own
    (e.1.1 != own || e.2 == 0 || up == own || s.linkGood up) &&
    (parts.head?.map (·.1) != some own || e.1.1 == own || s.linkGood e.1.1)

/-- Reserve a plan on this module, with the combine slots that are free (R331). -/
def State.reservePlan (s : State) (id : PitchId) (p : Plan) : State :=
  let p := { p with live := false, pending := true, routed := s.routedFor p }
  s.modPitch id fun q => { q with plans := q.plans.filter (fun o => o.key ≠ p.key) ++ [p] }

/-- A reserved plan goes live on this module, and its handle is written where the descriptor says (R353). -/
def State.setLive (s : State) (id : PitchId) (k : PlanKey) : State :=
  match (s.pitch? id).bind fun p => p.plan? k with
  | none => s
  | some q =>
    let s := s.modPlan id k fun q => { q with live := true, pending := false }
    match q.hoff with
    | none => s
    | some o => (q.ranksOn s.modidx.toNat).foldl (fun s r => s.store (sramKey r .scratch o) 4 (q.handle.setWidth 32)) s

/-- A COLSET ends with its answer (R353): the request is closed, and its context goes on. -/
def State.answerColset (s : State) (id : PitchId) (q : ColsetReq) (w : Word) : State :=
  let s := s.closeColset id q
  match ((s.tile q.rank).ctx q.ctx).colset with
  | .waiting => (s.modCtx q.rank q.ctx fun c => { c with colset := .value w }).next [.group q.rank q.ctx]
  | _ => s

/-- The handle of an issuer's next plan in a slot: the next serial of the instance (R330, R353). -/
def Pitch.nextHandle (p : Pitch) (k : Nat) : Half := (p.serial + 1) ++ BitVec.ofNat 4 k

/-- A request whose participants are all on this module: the first failure in the order 2, 3, 4, 6, 1, or the plan (R353). -/
def State.serveColset (s : State) (p : Pitch) (q : ColsetReq) : State :=
  let q := { q with answers := [s.answerFor p q.desc false (q.list.map (·.2))] }
  match s.firstFailure q, q.slot with
  | some f, _ => s.answerColset p.id q (BitVec.ofNat 32 (2 ^ 31 + f))
  | none, none => s.answerColset p.id q 0x80000001
  | none, some k =>
    let plan := planFrom q.desc (p.nextHandle k) q.scope q.parts
    (((s.modPitch p.id fun p => { p with serial := p.serial + 1 }).reservePlan p.id plan).setLive p.id plan.key).answerColset p.id q
      ((p.nextHandle k).setWidth 32)

/-- Change the request that a handle home serves. -/
def State.modColset (s : State) (id : PitchId) (f : ColsetReq → ColsetReq) : State :=
  s.modPitch id fun p => { p with colsets := match p.colsets with
    | q :: rest => f q :: rest
    | [] => [] }

/-- The next home of a request is taken: this one when it is free, another by asking it; one that no good link reaches counts as
failure 5 (R353). -/
def State.takeHome (s : State) (p : Pitch) (q : ColsetReq) (m : Nat) : State :=
  let listed := (q.list.filter (·.1 = m)).map (·.2)
  if m = s.modidx.toNat then
    if p.setup.isSome then s
    else (s.modPitch p.id fun p => { p with setup := some (m, none) }).modColset p.id fun q =>
      { q with answers := q.answers ++ [s.answerFor p q.desc true listed] }
  else if !s.linkGood m then s.modColset p.id fun q => { q with asked := none, answers := q.answers ++ [⟨m, [5], [], List.range 16⟩] }
  else if q.asked.isSome then s
  else (s.modColset p.id fun q => { q with asked := some m }).tell m p.id.cfg (.ask (q.id p.id.inst) q.desc listed)

/-- Every home has answered: the failures 2, 3, 4, 6, or the plan is reserved everywhere (R331, R353). -/
def State.reserveAll (s : State) (p : Pitch) (q : ColsetReq) : State :=
  match s.firstFailure q with
  | some f => s.answerColset p.id q (BitVec.ofNat 32 (2 ^ 31 + f))
  | none =>
    if q.answers.any fun a => a.failures.contains 5 then s.answerColset p.id q 0x80000005
    else
      let own := s.modidx.toNat
      let plan := q.slot.map fun k => planFrom q.desc (p.nextHandle k) q.scope q.parts
      let s := match plan with
        | some plan => s.reservePlan p.id plan
        | none => s
      let s := s.modColset p.id fun q => { q with
        phase := .reserving, plan := plan.map Plan.key, ready := [(own, if s.linksGood q.parts then 0 else 5)] }
      (q.others own).foldl (fun s m => s.tell m p.id.cfg
        (.setup (q.id p.id.inst) (plan.map Plan.key) q.desc q.scope q.parts)) s

/-- Every module has reserved the plan, or has not: the first failure in the order 2, 5, 1, or the plan goes live everywhere (R353). -/
def State.setAll (s : State) (p : Pitch) (q : ColsetReq) : State :=
  let others := q.others s.modidx.toNat
  if q.ready.any (·.2 == 2) then s.answerColset p.id q 0x80000002
  else if q.ready.any (·.2 != 0) ∨ others.any fun m => !s.linkGood m then s.answerColset p.id q 0x80000005
  else
    match q.plan with
    | none => s.answerColset p.id q 0x80000001
    | some k =>
      let s := (s.modPitch p.id fun p => { p with serial := p.serial + 1 }).setLive p.id k
      others.foldl (fun s m => s.tell m p.id.cfg (.activate k))
        (s.modColset p.id fun q => { q with phase := .setting, ready := [] })

/-- One step of a request with participants on other modules (R353, log 30). -/
def State.stepColset (s : State) (p : Pitch) (q : ColsetReq) : State :=
  let others := q.others s.modidx.toNat
  match q.phase with
  | .taking =>
    (match (q.modules s.modidx.toNat).find? fun m => !q.answers.any fun a => a.mod == m with
     | some m => s.takeHome p q m
     | none => s.reserveAll p q)
  | .reserving => if others.all fun m => !s.linkGood m || q.ready.any fun e => e.1 == m then s.setAll p q else s
  | .setting =>
    if others.all fun m => !s.linked m || q.ready.any fun e => e.1 == m then
      s.answerColset p.id { q with answers := q.answers.filter fun a => a.mod == s.modidx.toNat, asked := none, plan := none }
        ((q.plan.map fun k => k.handle.setWidth 32).getD 0)
    else s

/-- A question of another module about its participants here: this home is taken by it until the request ends (R353). -/
def State.serveAsk (s : State) (p : Pitch) (a : PlanAsk) : State :=
  let ans := s.answerFor p a.desc true a.ranks
  (s.modPitch p.id fun p => { p with setup := some (a.mod, some a.req) }).tell a.mod p.id.cfg (.answer a.req ans.failures ans.ranks ans.free)

/-- COLSET_REQUEST: the handle home, when it is free, answers the oldest question of another module; else it serves its oldest request,
at once when all its participants are here, otherwise by one step (R353). -/
def execColsetRequest (id : PitchId) (s : State) : Out :=
  match s.pitch? id with
  | none => .next s
  | some p =>
    match p.asks, p.setup with
    | a :: rest, none => .next ((s.modPitch id fun p => { p with asks := rest }).serveAsk p a)
    | _, _ =>
      match p.colsets with
      | [] => .next s
      | q :: _ =>
        if (q.others s.modidx.toNat).isEmpty then event s p.setup.isNone fun s => s.serveColset p q
        else .next (s.stepColset p q)

/-! ## COLFR, COLW, COLS (R354, R355) -/

/-- A plan leaves this module (R354); what still waits on a failed firing of it keeps it (R336, R337). -/
def State.dropPlan (s : State) (id : PitchId) (k : PlanKey) : State :=
  s.modPitch id fun p => { p with plans := p.plans.filterMap fun q => if q.key = k then q.retired else some q }

/-- COLFR of a plan with participants on other modules, at a context: it asks each of them for an end of its firings, during which none
may begin; once none is in progress anywhere they are told to free the plan, and once they have the group may commit (R354, log 30).
None when it may. -/
def State.colfrWaits (s : State) (id : PitchId) (q : Plan) : Option State :=
  let own := s.modidx.toNat
  let others := q.others own
  let me := (s.focus.rank, s.focus.ctx)
  let s := s.modPlan id q.key fun q => { q with freers := if q.freers.contains me then q.freers else q.freers ++ [me] }
  if q.freeing then
    if others.all fun m => q.freedHeard.contains m || !s.linked m then none else some s
  else if q.busy then some s
  else if !q.idleAsked then
    some ((s.modPlan id q.key fun q => { q with
      idleAsked := true, idleRound := q.idleRound + 1, idleHeard := [], lockedFor := (own, q.idleRound + 1) :: q.lockedFor }).tellOthers
      id q (.idleAsk q.key (q.idleRound + 1)))
  else if others.all fun m => q.idleHeard.contains m || !s.linked m then
    some ((s.modPlan id q.key fun q => { q with freeing := true, freedHeard := [] }).tellOthers id q (.free q.key))
  else some s

/-- COLFR (R354). -/
def execColfr (x : GReg) (s : State) : Out :=
  runGroup .all false (fun s =>
    match s.pitchHere with
    | none => .ok (.on s)
    | some p =>
      match s.planOf p s.focus.rank (s.cur.getG x) with
      | none => .ok (.on s)
      | some q =>
        if q.crosses s.modidx.toNat then
          match s.colfrWaits p.id q with
          | some s' => .error (.wait s')
          | none => .ok (.on (s.dropPlan p.id q.key))
        else if q.busy then .error (.wait s)
        else .ok (.on (s.dropPlan p.id q.key))) s

/-- The status word of a participant (R355). -/
def Plan.statusWord (p : Plan) (rank : Nat) : Word :=
  let t := p.statusOf rank
  1#1 ++ BitVec.ofBool p.failed ++ BitVec.ofBool t.done ++ BitVec.ofBool t.trigd ++ t.fcnt ++ p.fcause ++ 0#1 ++ t.arg

/-- COLS (R355). -/
def execCols (d x : GReg) (s : State) : Out :=
  let w := ((s.pitchHere.bind fun p => s.planOf p s.focus.rank (s.cur.getG x)).map fun q => q.statusWord s.focus.rank).getD 0
  plain (fun c => c.setG d w) s

/-- COLW (R355): a firing that failed traps, also on a plan that was released under it (R337). -/
def execColw (d x : GReg) (s : State) : Out :=
  runGroup .all false (fun s =>
    let h := s.cur.getG x
    let r := s.focus.rank
    let failed : Exit := .trap 0x32 0x03 (h.setWidth 64)
    match s.pitchHere.bind fun p => p.plans.find? fun q =>
      !q.pending && q.handle.setWidth 32 == h && (q.ranksOn s.modidx.toNat).contains r with
    | none => .ok (.on (s.modCur fun c => c.setG d 0))
    | some q =>
      let t := q.statusOf r
      if t.trigd && q.failed then .error failed
      else if t.trigd then .error (.wait s)
      else .ok (.on (s.modCur fun c => (c.meet q.pts).setG d (if q.live then q.statusWord r else 0)))) s

/-! ## What other modules tell (R334 to R337, R353, R354, R443, R447) -/

/-- Bytes of a partial or of a delivery join those that have come; all of them, once they are complete (R443). -/
def State.gather (s : State) (id : PitchId) (q : Plan) (node : Option Nat) (total : Nat) (data : List Byte) :
    State × Option (List Byte) :=
  let all := ((q.arriving.find? fun e => e.1 == node).map (·.2)).getD [] ++ data
  let rest := q.arriving.filter fun e => e.1 != node
  if all.length < total then (s.modPlan id q.key fun q => { q with arriving := rest ++ [(node, all)] }, none)
  else (s.modPlan id q.key fun q => { q with arriving := rest }, some all)

/-- What comes of a later firing than the one in progress here shows that this one is complete (R334). -/
def State.catchUp (s : State) (id : PitchId) (q : Plan) (firing : Nat) : State :=
  if !q.failed && decide (q.firing < firing) then s.modPlan id q.key Plan.completed else s

/-- A packet of a plan that is present here; for any other its sender is told that the plan is not live (R447). -/
def State.onPlan (s : State) (from' cfg : Nat) (k : PlanKey) (firing : Nat) (f : State → PitchId → Plan → State) : State :=
  match s.remotePlan cfg k with
  | none => s.sendPacket from' (.planNack cfg k 6)
  | some (id, q) =>
    let s := s.catchUp id q firing
    match (s.pitch? id).bind fun p => p.plan? k with
    | some q => if q.failed ∨ firing < q.firing then s else f s id q
    | none => s

/-- A partial from another module (R333). -/
def State.partialCame (s : State) (from' cfg : Nat) (k : PlanKey) (firing node span total : Nat) (data : List Byte) (pts : Time) :
    State :=
  s.onPlan from' cfg k firing fun s id q =>
    let e := s.gather id q (some node) total data
    match e.2 with
    | none => e.1
    | some all =>
      let s := e.1.modPlan id k fun q => { q with pts := Time.join q.pts pts }
      match (s.pitch? id).bind fun p => p.plan? k with
      | some q => s.addPartial id q ⟨node, span, all⟩
      | none => s

/-- A result, or a delivery without data, from another module (R335). -/
def State.deliveryCame (s : State) (from' cfg : Nat) (k : PlanKey) (firing total : Nat) (data : List Byte) (pts : Time) : State :=
  s.onPlan from' cfg k firing fun s id q =>
    let e := s.gather id q none total data
    match e.2 with
    | none => e.1
    | some all => e.1.modPlan id k fun q =>
        { q.deliver s.modidx.toNat (if total = 0 then none else some all) with pts := Time.join q.pts pts }

/-- A module or a relay has rejected what this one has sent of a plan: the firing fails, here and on every other module (R336, R447). -/
def State.planNacked (s : State) (cfg : Nat) (k : PlanKey) (cause : BitVec 3) : State :=
  match s.remotePlan cfg k with
  | none => s
  | some (id, q) => s.failPlan id q cause

/-- Another module says that the firing failed (R336). -/
def State.planFailed (s : State) (cfg : Nat) (k : PlanKey) (cause : BitVec 3) : State :=
  match s.remotePlan cfg k with
  | none => s
  | some (id, _) => s.modPlan id k fun p => p.fail cause

/-- The plans of a configuration that have participants on a module whose instance was killed: the firing in progress fails with FCAUSE
6, and the plan is released; those that still wait on it learn of the failure (R337). A request that had taken that module's home finds
no instance there (R353), and one of its own lets this home go. -/
def State.planKilled (s : State) (mod cfg : Nat) : State :=
  (s.pitches.filter fun p => p.id.cfg == cfg).foldl (fun s p =>
    let s := s.modPitch p.id fun p => { p with
      setup := if p.setup.any fun e => e.1 == mod then none else p.setup
      asks := p.asks.filter fun a => a.mod != mod
      plans := p.plans.filterMap fun q =>
        if !(q.parts.any fun e => e.1 == mod) then some q
        else if q.present then (q.fail 6).retired else some q }
    match p.colsets with
    | q :: _ =>
      if !(q.others s.modidx.toNat).contains mod then s
      else if q.phase = .setting then s.modColset p.id fun q => { q with ready := q.ready ++ [(mod, 0)] }
      else if q.asked == some mod || q.answers.any fun a => a.mod == mod then s.answerColset p.id q 0x80000002
      else s
    | [] => s) s

/-- A question about a plan to be set up: it waits while this home serves another request (R353, R450). -/
def State.planAsked (s : State) (from' cfg : Nat) (q : ColsetId) (desc : BitVec 512) (ranks : List Nat) : State :=
  match s.youngest cfg with
  | none => s.tell from' cfg (.answer q [2] [] [])
  | some p =>
    if p.setup.isNone ∧ p.asks.isEmpty then s.serveAsk p ⟨from', q, desc, ranks⟩
    else s.modPitch p.id fun p => { p with asks := p.asks ++ [⟨from', q, desc, ranks⟩] }

/-- The pitch of a configuration whose handle home a request of another module has taken. -/
def State.takenBy (s : State) (cfg mod : Nat) (q : ColsetId) : Option Pitch :=
  s.pitches.find? fun p => p.id.cfg == cfg && p.setup == some (mod, some q)

/-- Another module's plan is reserved here, where it has a slot, and its links are looked at; the instance that had answered may run no
more (R331, R353, R450). -/
def State.planSetUp (s : State) (from' cfg : Nat) (q : ColsetId) (plan : Option PlanKey) (desc : BitVec 512) (scope : Scope)
    (parts : List (Nat × Nat)) : State :=
  match s.takenBy cfg from' q with
  | none => s.tell from' cfg (.ready q 2)
  | some p =>
    let s := match plan with
      | some k => s.reservePlan p.id (planFrom desc k.handle scope parts)
      | none => s
    s.tell from' cfg (.ready q (if s.linksGood parts then 0 else 5))

/-- Another module's request ends without a plan, or lets this home go; its question, where it still waits, waits no more (R353). -/
def State.homeReleased (s : State) (from' cfg : Nat) (q : ColsetId) : State :=
  { s with pitches := s.pitches.map fun p =>
    if p.id.cfg ≠ cfg then p
    else
      let taken := p.setup == some (from', some q)
      { p with asks := p.asks.filter fun a => !(a.mod == from' && a.req == q), setup := if taken then none else p.setup
               plans := if taken then p.plans.filter fun q => !q.pending else p.plans } }

/-- Another module's plan goes live here (R353). -/
def State.planActivated (s : State) (from' cfg : Nat) (k : PlanKey) : State :=
  match s.pitches.find? fun p => p.id.cfg == cfg && (p.setup.any fun e => e.1 == from') && p.plans.any fun q => q.pending && q.key == k with
  | none => s.tell from' cfg (.active k)
  | some p => ((s.setLive p.id k).modPitch p.id fun p => { p with setup := none }).tell from' cfg (.active k)

/-- Change the request of a name, when its home is serving it. -/
def State.modRequest (s : State) (cfg : Nat) (q : ColsetId) (f : ColsetReq → ColsetReq) : State :=
  s.modColset ⟨cfg, q.inst⟩ fun o => if o.id q.inst = q then f o else o

/-- A COLFR of another module asks for an end of the firings here: none may begin while it goes on, unless one is in progress (R354). -/
def State.idleAskedBy (s : State) (from' cfg : Nat) (k : PlanKey) (round : Nat) : State :=
  match s.remotePlan cfg k with
  | none => s.tell from' cfg (.idle k round)
  | some (id, q) =>
    if q.busy then s.tell from' cfg (.notIdle k round)
    else (s.modPlan id k fun q => { q with lockedFor := (from', round) :: q.lockedFor }).tell from' cfg (.idle k round)

/-- A module that was asked for an end of its firings has one in progress: a COLFR here asks anew (R354). -/
def State.notIdle (s : State) (cfg : Nat) (k : PlanKey) (round : Nat) : State :=
  match s.remotePlan cfg k with
  | none => s
  | some (id, q) => if q.idleAsked && q.idleRound == round && !q.freeing then s.unask id q else s

/-- What the handle home of another module tells this one (R331, R334 to R337, R353, R354; log 30). -/
def State.told (s : State) (from' cfg : Nat) : PlanMsg → State
  | .ask q desc ranks => s.planAsked from' cfg q desc ranks
  | .answer q failures ranks free => s.modRequest cfg q fun o =>
      if o.asked = some from' then { o with asked := none, answers := o.answers ++ [⟨from', failures, ranks, free⟩] } else o
  | .setup q plan desc scope parts => s.planSetUp from' cfg q plan desc scope parts
  | .ready q failure => s.modRequest cfg q fun o =>
      if o.phase = .reserving then { o with ready := o.ready ++ [(from', failure)] } else o
  | .activate k => s.planActivated from' cfg k
  | .active k => s.pitches.foldl (fun s p => s.modColset p.id fun o =>
      if o.plan = some k ∧ o.phase = .setting then { o with ready := o.ready ++ [(from', 0)] } else o) s
  | .release q => s.homeReleased from' cfg q
  | .trig k firing part round => s.onPlan from' cfg k firing fun s id q =>
      (s.modPlan id k fun _ => { q with remoteTrigd := insertNat q.remoteTrigd part }).tell from' cfg (.trigHeard k firing part round)
  | .trigHeard k firing part round => s.onPlan from' cfg k firing fun s id q =>
      s.modPlan id k fun _ => match q.parts[part]? with
        | some e => q.modStatus e.2 fun t => if t.trigger.isSome ∧ t.round = round then { t with heard := insertNat t.heard from' } else t
        | none => q
  | .untrig k firing part => s.onPlan from' cfg k firing fun s id q =>
      s.modPlan id k fun _ => { q with remoteTrigd := q.remoteTrigd.erase part }
  | .delivered k firing => s.onPlan from' cfg k firing fun s id q =>
      (s.modPlan id k fun _ => { q with delivered := insertNat q.delivered from' }).completeFiring id k
  | .complete k firing => s.onPlan from' cfg k firing fun s id _ => s.modPlan id k Plan.completed
  | .failed k cause => s.planFailed cfg k cause
  | .idleAsk k round => s.idleAskedBy from' cfg k round
  | .idle k round => match s.remotePlan cfg k with
      | some (id, _) => s.modPlan id k fun q => if q.idleAsked ∧ q.idleRound = round then { q with idleHeard := insertNat q.idleHeard from' } else q
      | none => s
  | .notIdle k round => s.notIdle cfg k round
  | .unlock k round => match s.remotePlan cfg k with
      | some (id, _) => s.modPlan id k fun q => { q with lockedFor := q.lockedFor.erase (from', round) }
      | none => s
  | .free k => match s.remotePlan cfg k with
      | some (id, _) => (s.dropPlan id k).tell from' cfg (.freed k)
      | none => s.tell from' cfg (.freed k)
  | .freed k => match s.remotePlan cfg k with
      | some (id, _) => s.modPlan id k fun q => { q with freedHeard := insertNat q.freedHeard from' }
      | none => s
  | .killed => s.planKilled from' cfg

/-- The handle home of another module still waits for what this one told it. -/
def State.stillSays (s : State) (to' cfg : Nat) : PlanMsg → Bool
  | .ask q _ _ => s.pitches.any fun p => p.id.cfg == cfg && p.colsets.any fun o => o.id p.id.inst == q && o.asked == some to'
  | .answer q _ _ _ => (s.takenBy cfg to' q).isSome
  | .setup q _ _ _ _ => s.pitches.any fun p => p.id.cfg == cfg && p.colsets.any fun o => o.id p.id.inst == q && o.phase == .reserving
  | .ready q _ => (s.takenBy cfg to' q).isSome
  | .trig k firing part round => ((s.remotePlan cfg k).map fun e => e.2.firing == firing && ((e.2.parts[part]?).map fun x =>
      ((e.2.statusOf x.2).trigger.isSome || (e.2.statusOf x.2).trigd) && (e.2.statusOf x.2).round == round).getD false).getD false
  | .idleAsk k round => ((s.remotePlan cfg k).map fun e => e.2.idleAsked && e.2.idleRound == round).getD false
  | _ => true

/-- What this module told another has met a different topology version on its way: it is told again, where it still holds (R447;
DEDUCED, log 31). -/
def State.homeNacked (s : State) (cfg to' : Nat) (m : PlanMsg) : State :=
  if s.stillSays to' cfg m then s.tell to' cfg m else s

/-- The modules to which this one's legs of a plan lead: those of the partials that leave it and come to it, and of the result, which the
lead delivers (R331, R333, R335). -/
def Plan.legModules (q : Plan) (own : Nat) : List Nat :=
  let edges := q.parts.zipIdx.flatMap fun e =>
    let up := ((q.parts[parentOf e.2]?).map (·.1)).getD e.1.1
    if e.2 = 0 then [] else if e.1.1 = own then [up] else if up = own then [e.1.1] else []
  let lead := q.key.lead.1
  ((edges ++ (if lead = own then q.others own else [lead])).filter (· ≠ own)).eraseDups

/-- PLAN_KILL_NOTICE (R337). -/
def execPlanKillNotice (mod cfg : Nat) (s : State) : Out :=
  event s (mod != s.modidx.toNat) fun s => s.planKilled mod cfg

end Sys2Proof.Machine
end

