-- ==== Sys2Proof/Machine/Images.lean ====
section
/-! DEFINITION. What the loader checks of a pitch image, the routes of its channels, and the links they cross (R120 to R122,
R131 to R133, R142, R155, R158, R162, R255, R273, R322, R326). -/

namespace Sys2Proof.Machine

/-! ## Routes (R132, R133) -/

/-- A link direction inside a pitch: the column and row of the tile a word leaves, and the mesh direction, 0 N, 1 E, 2 S,
3 W. -/
abbrev LinkDir := Nat × Nat × Nat

/-- The links of a straight run along x. -/
def runX (y : Nat) : Nat → Nat → List LinkDir
  | 0, _ => []
  | n + 1, x => (x, y, 1) :: runX y n (x + 1)

/-- The links of a run along x from its greater end. -/
def runXBack (y : Nat) : Nat → Nat → List LinkDir
  | 0, _ => []
  | n + 1, x => (x, y, 3) :: runXBack y n (x - 1)

/-- The links of a run along y. -/
def runY (x : Nat) : Nat → Nat → List LinkDir
  | 0, _ => []
  | n + 1, y => (x, y, 2) :: runY x n (y + 1)

/-- The links of a run along y from its greater end. -/
def runYBack (x : Nat) : Nat → Nat → List LinkDir
  | 0, _ => []
  | n + 1, y => (x, y, 0) :: runYBack x n (y - 1)

/-- X then Y dimension order from one tile to another (R132). -/
def routeLinks (a b : Nat × Nat) : List LinkDir :=
  (if a.1 ≤ b.1 then runX a.2 (b.1 - a.1) a.1 else runXBack a.2 (a.1 - b.1) a.1) ++
  (if a.2 ≤ b.2 then runY b.1 (b.2 - a.2) a.2 else runYBack b.1 (a.2 - b.2) a.2)

/-- The place in the pitch of a node's index. -/
def placeOf (im : Image) (n : Nat) : Nat × Nat := (n % (4 * im.wc), n / (4 * im.wc))

/-- Where a channel's route begins: its port's tile, or the entry tile of its ingress stream (R133). -/
def startOf (im : Image) (c : Channel) : Nat × Nat :=
  match c.src with
  | .port n _ _ => placeOf im n
  | .ingress k => (k % (4 * im.wc), 0)

/-- Where a branch of a channel ends: a queue's tile, or the exit tile of an egress stream (R133). -/
def stopOf (im : Image) : Dest → Nat × Nat
  | .queue n _ _ => placeOf im n
  | .egress k => (4 * im.wc - 1, k % (4 * im.hc))

/-- The link directions that a channel crosses, once each. -/
def linksOf (im : Image) (c : Channel) : List LinkDir :=
  (c.dests.flatMap fun d => routeLinks (startOf im c) (stopOf im d)).eraseDups

/-- Two channels with one virtual channel number cross a common link direction (R132). -/
def clash (im : Image) (a : Channel) (im' : Image) (b : Channel) : Bool :=
  a.vc == b.vc && (linksOf im a).any fun l => (linksOf im' b).contains l

/-- No channel clashes with a later one of the list. Streams that share an entry or exit tile and no link may have one virtual channel
number: "each on its own virtual channel" (R133) is read as each on the one that its channel declares (DEDUCED, log 33). -/
def noClash (im : Image) : List Channel → Bool
  | [] => true
  | c :: cs => (cs.all fun d => !clash im c im d) && noClash im cs

/-- Two pitches of one region use disjoint virtual channels on every link direction (R142). -/
def disjointVcs (a b : Image) : Bool := a.channels.all fun c => b.channels.all fun d => !clash a c b d

/-! ## Handler tables (R122) -/

/-- The port of a node's core carries a channel. -/
def portUsed (im : Image) (n : Nat) (k : CoreId) (o : Nat) : Bool := im.channels.any fun c => startsAt c n k o

/-- A handler table entry passes the loader's checks (R122). -/
def slotOk (im : Image) (n : Nat) (k : CoreId) (i : Nat) (sl : Slot) : Bool :=
  !sl.start.getLsbD 0 && sl.filt != 3 && (sl.filt == 1 || sl.fmask == 0) &&
  (sl.filt != 2 || sl.fval >>> 2 == 0) &&
  (sl.wdexp == 0 || (decide (10 ≤ sl.wdexp.toNat) && sl.wdexp != 31)) &&
  (!sl.valid || i == 0 || sl.inmask != 0) && (i != 0 || (sl.inmask == 0 && sl.filt == 0)) &&
  (sl.filt == 0 || sl.inmask != 0) &&
  (List.range 8).all fun o => natField sl.need.toNat (4 * o) 4 == 0 || portUsed im n k o

/-! ## Nodes (R121, R131, R255, R273, R322, R326) -/

/-- The pool slots that a core's queues and ports take (R131). -/
def allotment (im : Image) (n : Nat) (k : CoreId) : Nat :=
  im.channels.foldl (fun a c =>
    a + (if (List.range 8).any (startsAt c n k) then c.stage else 0) +
      c.slots * ((List.range 8).filter (feeds c n k)).length) 0

/-- The cores at which channels begin and end, as node and core; a node that the image does not declare is among them (R131). -/
def endCores (im : Image) : List (Nat × CoreId) :=
  im.channels.flatMap fun c =>
    (match c.src with
     | .port n k _ => [(n, k)]
     | .ingress _ => []) ++ c.dests.filterMap fun d => match d with
      | .queue n k _ => some (n, k)
      | .egress _ => none

/-- No core's channels take more slots than its pool has (R131). -/
def allotmentsOk (im : Image) : Bool := (endCores im).all fun e => decide (allotment im e.1 e.2 ≤ 512)

/-- A ring declaration passes (R322). -/
def ringOk (size : Nat) (g : RingDecl) : Bool :=
  g.place % 16 == 0 && decide (g.place + 16 ≤ size) && g.base % 16 == 0 && g.slot % 16 == 0 && decide (16 ≤ g.slot) &&
  decide (g.slot ≤ 65520) && decide (1 ≤ g.count) && decide (g.count ≤ 1024) && g.free != g.filled &&
  decide (g.base + g.slot * g.count ≤ size)

/-- Some group that the core's code holds, at any place where one can begin (R17), satisfies `f` (log 33). -/
def codeHolds (c : CoreImage) (f : RowKey → Opnds → Bool) : Bool :=
  let m := Mem.fillFrom [] (imemKey 0 .s 0) c.code
  c.code.any fun b =>
    match decodeRaw (fetchWords m 0 .s 5 (b.1 / 2 * 2)) with
    | .ok k o _ _ => f k o
    | _ => false

/-- The code holds a VRECV on a queue whose channel declares fewer than 15 slots (R158), or a VSEND on a port whose channel has
fewer than 16 staging slots (R162). -/
def tooNarrow (im : Image) (n : Nat) (k : CoreId) (c : CoreImage) : Bool :=
  codeHolds c fun i o => im.channels.any fun ch =>
    (i == ⟨3, 0, 7⟩ && decide (ch.slots < 15) && feeds ch n k (o.x.toNat % 8)) ||
    (i == ⟨3, 2, 1⟩ && decide (ch.stage < 16) && startsAt ch n k (o.d.toNat % 8))

/-- A core of a node passes. -/
def coreOk (im : Image) (n : Nat) (k : CoreId) (c : CoreImage) : Bool :=
  decide (c.slots.length ≤ 32) && (c.slots.zipIdx.all fun e => !slotReserved e.1 && slotOk im n k e.2 (slotOf e.1)) &&
  (c.code.all fun b => decide (b.1 < 65536)) && !tooNarrow im n k c

/-- The scratch portion of a node (R255). -/
def nodeScratch (n : NodeImage) : Nat := 655360 - 65536 * n.cache - 32768 * n.shared

/-- A node passes. -/
def nodeOk (im : Image) (n : NodeImage) : Bool :=
  decide (n.x < 4 * im.wc) && decide (n.y < 4 * im.hc) && decide (n.cache ≤ 6) && decide (n.shared ≤ 8) &&
  decide (n.pages.length ≤ 4096) && (n.scratch.all fun b => decide (b.1 < (nodeScratch n))) && n.rings.all (ringOk (nodeScratch n)) &&
  (n.kinds.all fun u => decide (32 ≤ u.kind) && decide (u.kind < 256) && !u.start.getLsbD 0 &&
    (u.wdexp == 0 || (decide (10 ≤ u.wdexp.toNat) && u.wdexp != 31))) &&
  coreOk im (n.y * (4 * im.wc) + n.x) .s n.s && coreOk im (n.y * (4 * im.wc) + n.x) .c n.c

/-! ## Channels (R131, R132, R155) -/

/-- A channel's endpoints and numbers are in range. -/
def channelOk (im : Image) (c : Channel) : Bool :=
  let tiles := 16 * im.wc * im.hc
  (match c.src with
   | .port n _ _ => decide (n < tiles)
   | .ingress k => decide (k < 16)) &&
  !c.dests.isEmpty && (c.dests.all fun d => match d with
    | .queue n _ _ => decide (n < tiles)
    | .egress k => decide (k < 16)) &&
  decide (c.slots ≤ 255) && decide (1 ≤ c.stage) && decide (c.stage ≤ 16) && decide (c.vc ≤ 11)

/-- The places where a channel begins and ends are its own: one channel for each port, queue and stream (R131, R132). -/
def endpointsOk (im : Image) : Bool :=
  let srcs := im.channels.map (·.src)
  let dsts := im.channels.flatMap (·.dests)
  srcs.eraseDups.length == srcs.length && dsts.eraseDups.length == dsts.length

/-- A valid handler takes words of channel `a` and requires a free slot of channel `b` (R132). -/
def requires (im : Image) (a b : Channel) : Bool :=
  im.nodes.any fun n =>
    let i := n.y * (4 * im.wc) + n.x
    [(CoreId.s, n.s), (CoreId.c, n.c)].any fun e =>
      (e.2.slots.map slotOf).any fun sl => sl.valid &&
        ((List.range 8).any fun q => sl.inmask.getLsbD q && feeds a i e.1 q) &&
        (List.range 8).any fun o => decide (0 < natField sl.need.toNat (4 * o) 4) && startsAt b i e.1 o

/-- The zero-slot channels that can be reached from some of them in `n` steps. -/
def reached (im : Image) (zero : List Channel) : Nat → List Channel → List Channel
  | 0, cs => cs
  | n + 1, cs => reached im zero n ((cs ++ zero.filter fun b => cs.any fun a => requires im a b).eraseDups)

/-- Some directed cycle of zero-slot channels can hold every word in place (R132). -/
def heldCycle (im : Image) : Bool :=
  let zero := im.channels.filter (·.slots = 0)
  zero.any fun c => (reached im zero zero.length (zero.filter fun b => requires im c b)).contains c

/-- The image passes every check of the loader (R137). -/
def imageGood (im : Image) : Bool :=
  decide (1 ≤ im.wc) && decide (im.wc ≤ 80) && decide (1 ≤ im.hc) && decide (im.hc ≤ 90) && im.nodes.all (nodeOk im) &&
  ((im.nodes.map fun n => (n.x, n.y)).eraseDups.length == im.nodes.length) && im.channels.all (channelOk im) &&
  endpointsOk im && allotmentsOk im && noClash im im.channels && !heldCycle im && decide (im.depth.getD 0 ≤ 65536) && decide (im.homes.length ≤ 256)

/-! ## Mesh links that a pitch depends on (R379) -/

/-- The pitch has a channel across a link direction that leaves the tile at a logical position. -/
def Pitch.crosses (p : Pitch) (x y dir : Nat) : Bool :=
  decide (p.x0 ≤ x) && decide (p.y0 ≤ y) && p.image.channels.any fun c => (linksOf p.image c).contains (x - p.x0, y - p.y0, dir)

end Sys2Proof.Machine
end

