-- ==== Sys2Proof/Machine/Physical.lean ====
section
/-! DEFINITION. What a part's boot and its sensors fix: mesh neighbours, the clock tree of a field, temperatures (R415, R429 to
R431). -/

namespace Sys2Proof.Machine

/-! ## Neighbours -/

/-- The step of a mesh direction, 0 N, 1 E, 2 S, 3 W, from a logical position. -/
def stepDir (x y dir : Nat) : Option (Nat × Nat) :=
  match dir with
  | 0 => if y = 0 then none else some (x, y - 1)
  | 1 => some (x + 1, y)
  | 2 => some (x, y + 1)
  | _ => if x = 0 then none else some (x - 1, y)

/-- The tile beyond a tile's link. -/
def State.neighbour (s : State) (r dir : Nat) : Option Nat :=
  (stepDir (s.xOf r) (s.yOf r) dir).bind fun e => s.rankAt e.1 e.2

/-- The 1,200 positions of a half of a field: its north half is its logical rows 0 to 29. -/
def halfField (f : Nat) (north : Bool) : List (Nat × Nat) :=
  (List.range 1200).map fun i => (40 * (f % 8) + i % 40, 60 * (f / 8) + (if north then 0 else 30) + i / 40)

/-- The ranks of a field. -/
def State.fieldRanks (s : State) (f : Nat) : List Nat :=
  (halfField f true ++ halfField f false).filterMap fun e => s.rankAt e.1 e.2

/-! ## The clock tree (R415)

How near a tile is to the PLL, and how boot orders neighbours that are equally near the root, is free (log 7). -/

/-- The root tile of a field: the live one nearest the PLL. -/
def State.clockRoot (s : State) (f : Nat) : Option Nat :=
  (s.fieldRanks f).foldl (fun b r =>
    match b with
    | none => some r
    | some q => if Config.pllDistance (s.physOf r) < Config.pllDistance (s.physOf q) then some r else b) none

/-- The neighbours of a tile in its own field. -/
def State.fieldNeighbours (s : State) (r : Nat) : List Nat :=
  (List.range 4).filterMap fun d => (s.neighbour r d).filter fun n => s.fieldOf n == s.fieldOf r

/-- The tiles of a field with their distances from some that have been reached, by at most `n` further steps from the last reached. -/
def State.reach (s : State) : Nat → Nat → List Nat → List (Nat × Nat) → List (Nat × Nat)
  | 0, _, _, seen => seen
  | n + 1, d, last, seen =>
    let fresh := ((last.flatMap s.fieldNeighbours).eraseDups).filter fun r => !seen.any fun e => e.1 == r
    s.reach n (d + 1) fresh (seen ++ fresh.map fun r => (r, d + 1))

/-- How many tiles a tile's clock must come through from its field's root, along live tiles of the field; none when there is no way. -/
def State.clockDepth (s : State) (r : Nat) : Option Nat :=
  match s.clockRoot (s.fieldOf r) with
  | none => none
  | some q => ((s.reach 2400 0 [q] [(q, 0)]).find? fun e => e.1 == r).map (·.2)

/-- The tile is its field's root. -/
def State.isRoot (s : State) (r : Nat) : Bool := s.clockRoot (s.fieldOf r) == some r

/-- What the boot's ranking puts first: nearer the root, then as the part's boot chose. -/
def State.clockKey (s : State) (r dir : Nat) : Option (Nat × Nat) :=
  ((s.neighbour r dir).filter fun n => s.fieldOf n == s.fieldOf r).bind fun n =>
    (s.clockDepth n).map fun d => (d, Config.clockOrder s.refreshBase (s.physOf r) dir)

/-- Put a direction behind those that rank no later. -/
def insertRanked (e : (Nat × Nat) × Nat) : List ((Nat × Nat) × Nat) → List ((Nat × Nat) × Nat)
  | [] => [e]
  | a :: l => if e.1.1 < a.1.1 ∨ (e.1.1 = a.1.1 ∧ e.1.2 < a.1.2) then e :: a :: l else a :: insertRanked e l

/-- The usable neighbours of a tile, in rank order: those of its own field, the nearer to the root the earlier (R415). -/
def State.usable (s : State) (r : Nat) : List Nat :=
  (((List.range 4).filterMap fun d => (s.clockKey r d).map fun k => (k, d)).foldl (fun l e => insertRanked e l) []).map (·.2)

/-- The PREF codes of a tile in order: the last usable one is repeated (R415). -/
def State.prefs (s : State) (r : Nat) : List Nat :=
  let l := s.usable r
  (l ++ List.replicate 4 (l.getLast?.getD (Config.clockOrder s.refreshBase (s.physOf r) 4 % 4))).take 4

/-- CLKSRC (R415): what the boot fixed, and what failovers changed. -/
def State.clksrc (s : State) (r : Nat) : Word :=
  let t := s.tile r
  let pref (i : Nat) : BitVec 2 := BitVec.ofNat 2 ((s.prefs r).getD i 0)
  let root := s.isRoot r && t.clkCur.isNone
  t.clkEvt ++ BitVec.ofBool root ++ 0#7 ++ (pref 3 ++ pref 2 ++ pref 1 ++ pref 0) ++ 0#6 ++
    (if root then 0 else t.clkCur.getD (pref 0))

/-- The tile that feeds a tile's clock; the root's comes from the PLL (R415). -/
def State.clockSource (s : State) (r : Nat) : Option Nat :=
  match (s.tile r).clkCur with
  | some d => s.neighbour r d.toNat
  | none => if s.isRoot r then none else s.neighbour r ((s.prefs r).headD 0)

/-! ## Temperatures (R429 to R431)

Sensors, the values of the heat model and the native estimates are free (log 7). Refresh `m` is the m-th since the module reset, `base`
the number of those before it; at `m = 0` there has been none. -/

/-- A condition has held at the last so many refreshes. -/
def runLength (p : Nat → Bool) : Nat → Nat
  | 0 => 0
  | m + 1 => if p (m + 1) then runLength p m + 1 else 0

/-- A condition has held at `k` consecutive refreshes since the reset. -/
def everHeld (p : Nat → Bool) (k : Nat) : Nat → Bool
  | 0 => false
  | m + 1 => everHeld p k m || decide (k ≤ runLength p (m + 1))

/-- What the sensor of a cluster reads, in sixteenths of a degree. -/
def sensorAt (layer base cluster m : Nat) : Int := (Config.sensor layer cluster (base + m)).toInt

/-- The clusters of a field: 10 columns by 15 rows. -/
def fieldClusters (f : Nat) : List Nat := (List.range 150).map fun i => (15 * (f / 8) + i / 10) * 80 + 10 * (f % 8) + i % 10

/-- A cluster's sensor is more than 12 degrees from its model value. -/
def modelApart (layer base cluster m : Nat) : Bool :=
  let d := sensorAt layer base cluster m - (Config.heatModel layer cluster (base + m)).toInt
  decide (192 < d) || decide (d < -192)

/-- The field has turned to the compatibility estimate: for some cluster and layer that held at 8 consecutive refreshes (R430). -/
def fieldCompat (base f m : Nat) : Bool :=
  (fieldClusters f).any fun c => everHeld (modelApart 0 base c) 8 m || everHeld (modelApart 1 base c) 8 m

/-- The neighbouring clusters of a cluster. -/
def clusterNeighbours (c : Nat) : List Nat :=
  (List.range 4).filterMap fun d => (stepDir (c % 80) (c / 80) d).bind fun e =>
    if e.1 < 80 ∧ e.2 < 90 then some (e.2 * 80 + e.1) else none

/-- Put a number in order. -/
def insertInt (a : Int) : List Int → List Int
  | [] => [a]
  | b :: l => if a ≤ b then a :: b :: l else b :: insertInt a l

/-- Twice the median of some numbers: of an even count, the sum of the middle two (DEDUCED, log 7). -/
def twiceMedian (l : List Int) : Int :=
  let o := l.foldl (fun o a => insertInt a o) []
  o.getD ((o.length - 1) / 2) 0 + o.getD (o.length / 2) 0

/-- The field of a cluster. -/
def fieldOfCluster (c : Nat) : Nat := fieldAt (4 * (c % 80)) (4 * (c / 80))

/-- In the compatibility estimate a cluster's sensor is more than 8 degrees from the median of its neighbours' (R431). -/
def sensorApart (layer base c m : Nat) : Bool :=
  let d := 2 * sensorAt layer base c m - twiceMedian ((clusterNeighbours c).map fun n => sensorAt layer base n m)
  fieldCompat base (fieldOfCluster c) m && (decide (256 < d) || decide (d < -256))

/-- A sensor is marked failed: that held at 3 consecutive refreshes (R431). -/
def sensorFailed (layer base c m : Nat) : Bool := everHeld (sensorApart layer base c) 3 m

/-- The hottest of some readings. -/
def hottest : List Int → Int
  | [] => 0
  | [a] => a
  | a :: l => max a (hottest l)

/-- The compatibility estimate of a cluster's tiles (R431). -/
def compatDeg (layer base c m : Nat) : Int :=
  if sensorFailed layer base c m then hottest ((clusterNeighbours c).map fun n => sensorAt layer base n m) + 80
  else sensorAt layer base c m

/-- The temperature of a tile's layer at a refresh, in sixteenths of a degree: the native estimate, or the compatibility one (R430,
R431). -/
def State.degAt (s : State) (layer r m : Nat) : Int :=
  if fieldCompat s.refreshBase (s.fieldOf r) m then compatDeg layer s.refreshBase (s.clusterOf r) m
  else (Config.estimate layer (s.physOf r) (s.refreshBase + m)).toInt

/-- Refreshes since the module reset. -/
def State.refreshed (s : State) : Nat := s.refreshes - s.refreshBase

/-- TEMPL and TEMPM: the last refresh (R429). -/
def State.temperature (s : State) (layer r : Nat) : Word :=
  let m := s.refreshed
  0#1 ++ BitVec.ofBool (fieldCompat s.refreshBase (s.fieldOf r) m) ++
    BitVec.ofBool (sensorFailed layer s.refreshBase (s.clusterOf r) m) ++ 0#13 ++ BitVec.ofInt 16 (s.degAt layer r m)

/-- A temperature limit, in sixteenths of a degree, is in force after refresh `m`: set above the limit, lifted at the first
refresh 5 degrees below it (R431). -/
def State.hot (s : State) (layer r : Nat) (limit : Int) : Nat → Bool
  | 0 => false
  | m + 1 => decide (limit < s.degAt layer r (m + 1)) || (s.hot layer r limit m && decide (limit - 80 < s.degAt layer r (m + 1)))

/-- PCLASS (R428): THR is set when the last window was throttled for its current, or a temperature limit is in force (R427, R431). -/
def State.pclassReg (s : State) (r : Nat) : Word :=
  let t := s.tile r
  0#20 ++ BitVec.ofBool (t.thr || s.hot 0 r 1680 s.refreshed || s.hot 1 r 1520 s.refreshed) ++ t.ballast ++ 0#5 ++ t.pclass

end Sys2Proof.Machine
end

