-- ==== Sys2Proof/Machine/System.lean ====
section
/-! DEFINITION. Page 4: traps on purpose, k-registers, translation invalidation, the trap queue, saving contexts, margin and
log registers (R12, R23 to R33, R389 to R406). -/

namespace Sys2Proof.Machine

/-! ## k-registers (R23) -/

/-- CPOS (R150). -/
def State.cpos (s : State) (r : Nat) : Word :=
  let x := s.xOf r
  let y := s.yOf r
  BitVec.ofNat 32 (x / 40 * 2 ^ 24 + y / 60 * 2 ^ 20 + s.physRow x y % 64 * 2 ^ 8 + x % 40)

/-- The rows of a tile's fly that have been remapped, modulo 256 (R405). -/
def Fly.remaps (f : Fly) : Byte := BitVec.ofNat 8 f.remapped.length

/-- The status registers of the two logs (R405). -/
def Fly.poleStatus (f : Fly) : Word := f.pole.count ++ f.spares ++ f.abandoned ++ f.pole.lost ++ BitVec.ofNat 4 f.pole.entries.length
def Fly.arrayStatus (f : Fly) : Word := f.array.count ++ f.remaps ++ f.array.lost ++ BitVec.ofNat 4 f.array.entries.length

/-- The handler table view of a slot (R123). -/
def slotView (sl : Slot) : Word :=
  BitVec.ofBool sl.valid ++ sl.prio ++ BitVec.ofBool sl.chk ++ sl.inmask ++ sl.filt ++ 0#2 ++ (sl.start &&& 0xFFFE)

/-- The S table for the S core and the message thread, the C table for the C core (R123). -/
def Tile.view (t : Tile) (i : CtxId) (n : Nat) : Word := slotView (((t.core i.core).slots[n]?).getD {})

/-- The number of a context (R151). -/
def ctxNumber : CtxId → Nat
  | .s => 0 | .c => 1 | .m => 2

/-- The value of k-register `n` for a context; none when there is no such register (R23). -/
def State.kread (s : State) (r : Nat) (i : CtxId) (n : Nat) : Option Word :=
  let t := s.tile r
  let c := t.ctx i
  match n with
  | 0x000 => some (BitVec.ofNat 32 r)
  | 0x001 => some (BitVec.ofNat 32 (s.yOf r * 2 ^ 16 + s.xOf r))
  | 0x002 => some (s.cpos r)
  | 0x003 => some (BitVec.ofNat 32 (ctxNumber i))
  | 0x004 => some t.pitchReg
  | 0x005 => some t.node
  | 0x006 => some c.hcur
  | 0x007 => some c.tagin
  | 0x008 => some c.tagout
  | 0x010 => some c.amode
  | 0x011 => some c.fflags
  | 0x012 => some c.srseed
  | 0x018 => some c.fmt
  | 0x019 => some c.mshape
  | 0x01A => some c.gang
  | 0x01B => some c.vstride
  | 0x020 => some (t.cache.setWidth 32)
  | 0x021 => some (t.shared.setWidth 32)
  | 0x022 => some (t.lease.setWidth 32)
  | 0x030 => some c.tvec
  | 0x031 => some c.tcause
  | 0x032 => some c.tepc
  | 0x033 => some c.tval
  | 0x034 => some c.tvalh
  | 0x035 => some c.tstatNow
  | 0x040 => some t.margin
  | 0x041 => some t.ltrcnt
  | 0x042 => some (t.ltrlim.setWidth 32)
  | 0x043 => some (t.ltrwin.setWidth 32)
  | 0x044 => some t.chkcnt
  | 0x045 => some t.chkskip
  | 0x050 => some (s.clksrc r)
  | 0x051 => some (s.temperature 0 r)
  | 0x052 => some (s.temperature 1 r)
  | 0x053 => some (s.pclassReg r)
  | 0x060 => some t.fly.poleStatus
  | 0x070 => some t.fly.arrayStatus
  | n =>
    if 0x060 < n ∧ n < 0x070 then some (t.fly.pole.entries.getD (n - 0x061) 0)
    else if 0x070 < n ∧ n < 0x080 then some (t.fly.array.entries.getD (n - 0x071) 0)
    else if 0x080 ≤ n ∧ n < 0x0A0 then some (t.view i (n - 0x080))
    else none

/-- User access is none (R23). -/
def kPrivate (n : Nat) : Bool := decide (0x030 ≤ n) && decide (n ≤ 0x035)

/-- The registers that only the C core has (R23). -/
def kCompute (n : Nat) : Bool := n == 0x018 || n == 0x019

/-- A log after its status register was read at supervisor level: its RC fields and entries are cleared (R405). -/
def FlyLog.cleared (_ : FlyLog) : FlyLog := {}

/-- The reading of a log status register at supervisor level (R405). -/
def Tile.clearLog (t : Tile) (n : Nat) : Tile :=
  if n = 0x060 then { t with fly := { t.fly with pole := t.fly.pole.cleared } }
  else if n = 0x070 then { t with fly := { t.fly with array := t.fly.array.cleared } }
  else t

/-- MARGIN as a write leaves it: while SUSP is 1, AUTO and a nonzero STEP are discarded (R402); the supply rises at once (R357). -/
def Tile.writeMargin (t : Tile) (w : Word) : Tile :=
  let step : BitVec 4 := w.setWidth 4
  { t with
    tgt := (w >>> 8).setWidth 4
    step := if t.susp && step != 0 then t.step else step
    supply := if (t.susp && step != 0) || t.supply ≤ step then t.supply else step
    auto := if t.susp then t.auto else w.getLsbD 4 }

/-- What a write stores where 0 is stored as 1 (R404). -/
def atLeastOne {n : Nat} (w : BitVec n) : BitVec n := if w = 0 then 1 else w

/-- The tile-scoped registers that the supervisor writes (R23, R402 to R404). -/
def Tile.kwrite (t : Tile) (n : Nat) (w : Word) : Tile :=
  match n with
  | 0x022 => { t with lease := w.setWidth 16 }
  | 0x040 => t.writeMargin w
  | 0x041 => { t with ltrcnt := t.ltrcnt &&& ~~~w }
  | 0x042 => { t with ltrlim := atLeastOne (w.setWidth 3) }
  | 0x043 => { t with ltrwin := atLeastOne (w.setWidth 8) }
  | 0x044 => { t with chkcnt := t.chkcnt &&& ~~~w }
  | 0x045 => { t with chkskip := t.chkskip &&& ~~~w }
  | _ => t

/-- The context's registers that any level writes (R23). -/
def Ctx.kwriteUser (c : Ctx) (n : Nat) (w : Word) : Ctx :=
  match n with
  | 0x008 => { c with tagout := w &&& 0x3FF }
  | 0x010 => { c with amode := amodeStored w }
  | 0x011 => { c with fflags := w &&& 0x1F }
  | 0x012 => { c with srseed := srseedStored w }
  | 0x018 => { c with fmt := w &&& fmtMask }
  | 0x019 => { c with mshape := w &&& shapeMask }
  | 0x01A => { c with gang := w &&& gangMask }
  | 0x01B => { c with vstride := w }
  | _ => c

/-- The context's registers that the supervisor alone writes (R30 to R33). -/
def Ctx.kwriteSup (c : Ctx) (n : Nat) (w : Word) : Ctx :=
  match n with
  | 0x030 => { c with tvec := w &&& 0xFFFE }
  | 0x031 => { c with tcause := w &&& 0xFFFF }
  | 0x032 => { c with tepc := w &&& 0xFFFE }
  | 0x033 => { c with tval := w }
  | 0x034 => { c with tvalh := w }
  | 0x035 => { c with tstat := (c.tstat &&& 0x800) ||| (w &&& 0x770) }
  | _ => c

/-- A write of a k-register by a context at its level; RO fields and reserved bits keep their values (R12, R23, R25). -/
def State.kwrite (s : State) (r : Nat) (i : CtxId) (n : Nat) (w : Word) : State :=
  let s' := s.modCtx r i fun c => if c.sup then (c.kwriteUser n w).kwriteSup n w else c.kwriteUser n w
  if ((s.tile r).ctx i).sup then s'.modTile r fun t => t.kwrite n w else s'

/-! ## TRAP, MFK, MTK (R390, R391) -/

/-- TRAP (R390). -/
def execTrap (d : GReg) (detail : BitVec 8) (s : State) : Out :=
  runGroup .all false (fun s => .error (.trap 0x0F detail ((s.cur.getG d).setWidth 64))) s

/-- Why a context may not move k-register `n` (R23, R391). -/
def State.kdefect (s : State) (n : Nat) : Option Exit :=
  if (s.kread s.focus.rank s.focus.ctx n).isNone || (kPrivate n && !s.cur.sup) then
    some (.trap 0x01 0x0E (BitVec.ofNat 64 n))
  else if kCompute n && s.focus.ctx != .c then some (.trap 0x02 0 s.baseValue)
  else none

/-- MFK (R391): a supervisor's read of a log status register clears the log (R405). -/
def execMfk (d : GReg) (kreg : BitVec 10) (s : State) : Out :=
  runGroup .all false (fun s =>
    let n := kreg.toNat
    match s.kdefect n with
    | some e => .error e
    | none =>
      let w := (s.kread s.focus.rank s.focus.ctx n).getD 0
      let s' := s.modCur fun c => c.setG d w
      .ok (.on (if s.cur.sup then s'.modHere fun t => t.clearLog n else s'))) s

/-- MTK (R391). -/
def execMtk (d : GReg) (kreg : BitVec 10) (s : State) : Out :=
  runGroup .all false (fun s =>
    match s.kdefect kreg.toNat with
    | some e => .error e
    | none => .ok (.on (s.kwrite s.focus.rank s.focus.ctx kreg.toNat (s.cur.getG d)))) s

/-! ## Leaving and waiting (R28, R392, R393) -/

/-- ERET (R28, R392). -/
def execEret (s : State) : Out :=
  runGroup .all true (fun s => .ok (.leave (s.modCur Ctx.eret))) s

/-- IDLE (R393). -/
def execIdle (d : GReg) (s : State) : Out :=
  runGroup .all true (fun s =>
    match s.cur.answer with
    | .none => .error s.refuse
    | .due => .error (.wait s)
    | .came w => .ok (.on (s.modCur fun c => { c.setG d w with answer := .none }))) s

/-- TQP_ANSWER: the runtime's answer arrives: 0 resolved, 1 final (R393). -/
def execTqpAnswer (r : Nat) (c : CtxId) (final : Bool) (s : State) : Out :=
  event s (((s.tile r).ctx c).answer == .due) fun s =>
    s.modCtx r c fun x => { x with answer := .came (boolWord final) }

/-! ## Translation invalidation (R394) -/

/-- Remove cached translations from every TLB and field cache. -/
def State.invalidate (s : State) (drop : TlbEntry → Bool) : State :=
  { s with tiles := s.tiles.map fun e => (e.1, { e.2 with tlb := e.2.tlb.filter fun c => !drop c })
           fields := s.fields.map fun e => (e.1, { e.2 with cache := e.2.cache.filter fun c => !drop c }) }

/-- TLBI (R394). -/
def execTlbi (x : AReg) (s : State) : Out :=
  runGroup .all true (fun s =>
    let p := s.cur.getA x
    match spaceOf p with
    | none => .error (.trap 0x05 0 p)
    | some (.global va) =>
      if !s.released then .error (.wait s)
      else
        match s.pitchHere with
        | some q => .ok (.on (s.invalidate fun c => TlbEntry.maps c q.image.root va))
        | none => .ok (.on s)
    | some _ => .error (.trap 0x06 0 p)) s

/-- TLBA: every entry (R394). -/
def execTlba (s : State) : Out :=
  runGroup .all true (fun s =>
    if !s.released then .error (.wait s) else .ok (.on (s.invalidate fun _ => true))) s

/-! ## TQP and STRK (R395 to R397) -/

/-- The record that TQP posts from an image at a scratch offset (R395, R396). -/
def State.tqpRecord (s : State) (off : Nat) : Record :=
  let c := s.cur
  let b (n w : Nat) := s.scratchRead w (off + n) (w / 8)
  let flags : Byte := b 2 8
  { cause := b 0 8, detail := b 1 8
    flags := recordFlags (flags.getLsbD 0) (flags.getLsbD 1) false false (some s.focus.ctx)
    hslot := c.hcur.setWidth 8, rank := s.focus.rank, pitch := s.here.pitchReg
    epc := c.tepc.setWidth 16, stat := c.tstatNow.setWidth 16
    value := b 16 64, tick := s.tick, payload := b 32 256 }

/-- TQP (R376, R396): it waits while an ordinary record finds the queue full or others waiting; a fatal one kills the pitch. -/
def execTqp (x : GReg) (s : State) : Out :=
  runGroup .all true (fun s => do
    let o := (s.cur.getG x).toNat
    s.scratchOffset o 64 64
    let rec' := s.tqpRecord o
    let flags : Byte := s.scratchRead 8 (o + 2) 1
    let fatal := flags.getLsbD 0
    let asks := flags.getLsbD 1 && !fatal
    if flags >>> 2 ≠ 0 then throw s.refuse
    if asks && s.cur.answer != .none then throw s.refuse
    match s.postGroup { record := rec', pitch := s.here.pitch } with
    | (s', false) => throw (.wait s')
    | (s', true) => return .on (if asks then s'.modCur fun c => { c with answer := .due } else s')) s

/-- The record of STRK (R397). -/
def State.strkRecord (s : State) (detail : Byte) : Record :=
  let c := s.cur
  { cause := 0x25, detail := detail, flags := recordFlags false false false false (some s.focus.ctx)
    hslot := c.hcur.setWidth 8, rank := s.focus.rank, pitch := s.here.pitchReg
    epc := c.tepc.setWidth 16, stat := c.tstatNow.setWidth 16, tick := s.tick }

/-- Every context of a tile stops. -/
def Tile.stopAll (t : Tile) : Tile :=
  { t with s := { t.s with run := .stopped }, c := { t.c with run := .stopped }, m := { t.m with run := .stopped } }

/-- STRK (R397): on a tile already being struck it posts nothing. -/
def execStrk (x : GReg) (s : State) : Out :=
  runGroup .all true (fun s =>
    if s.here.struck || s.here.strikeDue.isSome then .ok (.on s)
    else
      match s.postGroup { record := s.strkRecord ((s.cur.getG x).setWidth 8), pitch := s.here.pitch } with
      | (s', false) => .error (.wait s')
      | (s', true) => .ok (.on (s'.modHere fun t => { t.stopAll with strikeDue := some 0x25 }))) s

/-! ## Context save (R387, R400)

The image's layout is read by CTXL alone, so it stands in the state as data (log 20). -/

/-- The node's save image. -/
def State.saveImage (s : State) (r : Nat) : SavedNode :=
  let t := s.tile r
  let part (g : Region) (n : Nat) := s.mem.slice (sramKey r g 0) (sramKey r g n)
  { s := t.s, c := t.c, m := t.m, scores := t.coreS, ccores := t.coreC, sems := t.sems, bars := t.bars, z := t.z, h := t.h
    matrix := { done := t.matrix.done, cause := t.matrix.cause, abort := t.matrix.abort }
    copy := t.copy, current := t.current, msgs := t.messages.filter (Msg.isUserOf (t.pitch.getD ⟨0, 0⟩))
    scratch := part .scratch (2 ^ 20), shared := part .shared (2 ^ 20), lane := part .lane (2 ^ 15) }

/-- The save of a node: its image joins the save area, and the user messages in it leave the inbound queue (R386, R387). -/
def State.saveNode (s : State) (r : Nat) : State :=
  s.modTile r fun t =>
    let id := t.pitch.getD ⟨0, 0⟩
    { t.keepMessages fun m => !Msg.isUserOf id m with saved := (id, s.saveImage r) :: t.saved.filter (fun e => e.1 != id) }

/-- The image that a tile keeps of its node. -/
def State.savedNode (s : State) (r : Nat) : Option SavedNode :=
  ((s.tile r).saved.find? fun e => e.1 == ((s.tile r).pitch.getD ⟨0, 0⟩)).map (·.2)

/-- A context restored from its image: a stopped firing whole; otherwise what a node keeps between firings, over the
per-firing registers that are there (R22, R387). -/
def Ctx.restore (now saved : Ctx) : Ctx :=
  match saved.resume with
  | some run => { saved with run := run, resume := none }
  | none =>
    { saved with
      run := (match saved.run with
        | .halted => .halted
        | _ => .dispatch)
      sup := false, gSup := now.gSup, a3Sup := now.a3Sup, hcur := now.hcur, tagin := now.tagin
      g := Vector.ofFn fun i => if i.val < 32 then (now.g[i.val]?).getD 0 else (saved.g[i.val]?).getD 0
      a := Vector.ofFn fun i => if i.val < 4 then (now.a[i.val]?).getD 0 else (saved.a[i.val]?).getD 0
      p := Vector.ofFn fun i => if i.val < 4 then (now.p[i.val]?).getD 0 else (saved.p[i.val]?).getD 0
      v := Vector.ofFn fun i => if i.val < 16 then (now.v[i.val]?).getD 0 else (saved.v[i.val]?).getD 0 }

/-- A core's slot states after a restoration: IDLE, but for a firing that was stopped (R387). -/
def Core.restored (k : Core) (c : Ctx) : Core :=
  { k with states := k.states.mapIdx fun j _ =>
      if (match c.run with | .running => true | _ => false) && j == c.hcur.toNat then .running else .idle }

/-- Restore a node from its image. A copy stop is reported anew (R388). -/
def State.restoreNode (s : State) (r : Nat) (n : SavedNode) : State :=
  let lo := sramKey r .scratch 0
  let s : State := { s with
    mem := (((s.mem.clear lo (lo + 2 ^ 22)).fillFrom lo n.scratch).fillFrom (sramKey r .shared 0) n.shared).fillFrom
      (sramKey r .lane 0) n.lane }
  s.modTile r fun t =>
    let t := { t with s := t.s.restore n.s, c := t.c.restore n.c, m := t.m.restore n.m }
    { n.msgs.foldl Tile.arrive t with
      coreS := n.scores.restored t.s, coreC := n.ccores.restored t.c
      sems := n.sems, bars := n.bars, z := n.z, h := n.h, matrix := n.matrix
      copy := { n.copy with report := match n.copy.stop with
        | some v => [(n.copy.cause, v)]
        | none => [] }
      current := n.current }

/-- The S core in save mode (R400). -/
def State.inSaveMode (s : State) : Bool := s.focus.ctx == .s && s.here.saveMode

/-- A save or restore of a tile that meets uncorrectable data posts a fatal record with the word's address (R399, R400). -/
def State.saveFault (s : State) (r : Nat) (code : Byte) (at' : DWord) : State := s.post r (s.hwRecord r none code 0 at' true false 0)

/-- The save area of a tile: the key of its first byte, and its bytes (R263). -/
def saveArea (r : Nat) : Nat := flyKey r 0x1F00000
def saveBytes : Nat := 0xC0000

/-- The poisoned words of a range of keys, by their keys. -/
def State.poisonIn (s : State) (lo n : Nat) : List Nat := (s.poison.filter fun w => lo ≤ 8 * w && 8 * w < lo + n).map (8 * ·)

/-- The canonical pointer of a byte of a tile's SRAM: the address of a word that no access named (DEDUCED, log 20). -/
def State.sramPtr (s : State) (r key : Nat) : DWord :=
  let off := key % 2 ^ 22
  if off < Region.shared.base then scratchPtr r off
  else if off < Region.lane.base then
    let loc := off - Region.shared.base
    BitVec.ofNat 64 (0x3FC * 2 ^ 54 + loc / 256 * 4096 + s.memberOf r * 256 + loc % 256)
  else BitVec.ofNat 64 (0x3FE * 2 ^ 54 + (off - Region.lane.base))

/-- The address of a word that the save of a tile could not correct: one of its SRAM, or one of its summary registers, which have no
address (R400; DEDUCED, log 20). -/
def State.saveBad (s : State) (r : Nat) : Option DWord :=
  match s.poisonIn (sramKey r .scratch 0) (Region.lane.base + 2 ^ 15) with
  | k :: _ => some (s.sramPtr r k)
  | [] => if (s.tile r).hbad.isEmpty then none else some 0

/-- The image of a node is written to the save area of its fly over its pole: every byte of the area counts as written, since the layout
is open (R387, R400; log 20). -/
def State.saveCross (s : State) (r : Nat) : State :=
  let s := s.writeSeen (saveArea r) saveBytes
  { s with poison := s.poison.filter fun w => !(saveArea r ≤ 8 * w && 8 * w < saveArea r + saveBytes) }

/-- CTXS on a tile: the save of its node, unless it meets an uncorrectable word or a dead pole, whose record kills the pitch (R372,
R400). The Bool says that the node is saved. -/
def State.saveTile (s : State) (r : Nat) : State × Bool :=
  match s.saveBad r with
  | some a => (s.saveFault r 0x20 a, false)
  | none =>
    let w := s.saveCross r
    if w.deadPole (saveArea r) then (w.postDeadPole r, false) else (w.saveNode r, true)

/-- The state after a read of a tile's save area, which meets the fly's array and pole (R369, R371, R400). -/
def State.restoreRead (s : State) (r : Nat) : State := (s.readSeen (saveArea r) saveBytes).1

/-- The address of a bad word that the read of a tile's save area met (R372, R373, R400). -/
def State.restoreBad (s : State) (r : Nat) : Option DWord :=
  match s.poisonIn (saveArea r) saveBytes with
  | k :: _ => some (BitVec.ofNat 64 k)
  | [] => if s.deadPole (saveArea r) then some (BitVec.ofNat 64 (saveArea r)) else none

/-- CTXS (R400). -/
def execCtxs (s : State) : Out :=
  runGroup .all true (fun s => if !s.inSaveMode then .error s.refuse else .ok (.on (s.saveTile s.focus.rank).1)) s

/-- CTXL (R400): the S core continues as its own image says. -/
def execCtxl (s : State) : Out :=
  runGroup .all true (fun s =>
    let r := s.focus.rank
    if !s.inSaveMode then .error s.refuse
    else
      let s := s.restoreRead r
      match s.restoreBad r, s.savedNode r with
      | some a, _ => .ok (.on (s.saveFault r 0x21 a))
      | none, some n => .ok (.leave (s.restoreNode r n))
      | none, none => .ok (.on s)) s

/-! ## LTRC (R401) -/

/-- The word that LTRC reads (R401): SUSP and the window's stretch count. -/
def Tile.ltrc (t : Tile) : Word := BitVec.ofBool t.susp ++ 0#23 ++ BitVec.ofNat 8 t.stretches

/-- LTRC: the action that g[x] names, at supervisor level. Its three rows of the opcode table share their words, so each does
what the action says. -/
def ltrc (d x : GReg) : State → Out :=
  runGroup .all true fun s =>
    let a := s.cur.getG x
    if 2 < a.toNat then .error s.refuse
    else
      let w := s.here.ltrc
      let s := s.modCur fun c => c.setG d w
      .ok (.on (if a = 1 then s.modHere fun t => { t with stretches := 0 }
        else if a = 2 then s.modHere fun t => { t with susp := false } else s))

/-- LTRC, action 0 (R401). -/
def execLtrcRead (d x : GReg) (s : State) : Out := ltrc d x s
/-- LTRC, action 1 (R401). -/
def execLtrcClearWindow (d x : GReg) (s : State) : Out := ltrc d x s
/-- LTRC, action 2 (R401). -/
def execLtrcClearSuspect (d x : GReg) (s : State) : Out := ltrc d x s

/-! ## Register writes as steps of their own

These events are the K-stage effect of an MTK or MFK on a context's register, taken alone (log 2). -/

/-- AMODE_WRITE (R70). -/
def execAmodeWrite (r : Nat) (c : CtxId) (w : Word) (s : State) : Out :=
  .next (s.modCtx r c fun x => x.kwriteUser 0x010 w)

/-- SRSEED_WRITE (R77). -/
def execSrseedWrite (r : Nat) (c : CtxId) (w : Word) (s : State) : Out :=
  .next (s.modCtx r c fun x => x.kwriteUser 0x012 w)

/-- A counter's increment (R403). -/
def Tile.bump (t : Tile) (n : Nat) : Tile :=
  match n with
  | 0x041 => { t with ltrcnt := t.ltrcnt + 1 }
  | 0x044 => { t with chkcnt := t.chkcnt + 1 }
  | 0x045 => { t with chkskip := t.chkskip + 1 }
  | _ => t

/-- The number of a counter (R403). -/
def isCounter (n : Nat) : Bool := n == 0x041 || n == 0x044 || n == 0x045

/-- COUNTER_CLEAR: an increment of the same cycle first, then the clearing write (R403). -/
def execCounterClear (r : Nat) (n : KReg) (inc : Bool) (w : Word) (s : State) : Out :=
  event s (isCounter n.toNat) fun s =>
    s.modTile r fun t => (if inc then t.bump n.toNat else t).kwrite n.toNat w

/-- LTRLIM_LTRWIN_WRITE (R404). -/
def execLtrlimLtrwinWrite (r : Nat) (n : KReg) (w : Word) (s : State) : Out :=
  event s (n == 0x042 || n == 0x043) fun s => s.modTile r fun t => t.kwrite n.toNat w

/-- MARGIN_WRITE (R402). -/
def execMarginWrite (r : Nat) (w : Word) (s : State) : Out := .next (s.modTile r fun t => t.writeMargin w)

/-- LOG_STATUS_READ: a supervisor's read of a log status register (R405). -/
def execLogStatusRead (r : Nat) (c : CtxId) (n : KReg) (d : GReg) (s : State) : Out :=
  event s (((s.tile r).ctx c).sup && (n == 0x060 || n == 0x070)) fun s =>
    (s.modCtx r c fun x => x.setG d ((s.kread r c n.toNat).getD 0)).modTile r fun t => t.clearLog n.toNat

end Sys2Proof.Machine
end

