-- ==== Sys2Proof/Machine/Loader.lean ====
section
/-! DEFINITION. The loader: placement and pre-emption decisions, loading, start, lights-out sweeps, kills and replays
(R137 to R146, R273, R327, R380 to R388, R424 to R426). -/

namespace Sys2Proof.Machine

/-! ## The balance of half-fields (R138, R424 to R426) -/

/-- A position of the region that a pitch would take. -/
def Pitch.covers (p : Pitch) (x y : Nat) : Bool :=
  decide (p.x0 ≤ x) && decide (x < p.x0 + 4 * p.image.wc) && decide (p.y0 ≤ y) && decide (y < p.y0 + 4 * p.image.hc)

/-- The power class of a position: of the node that a pitch would put there, of its tile's node or ballast; of a vacancy 0. -/
def State.classAt (s : State) (put : Pitch) (x y : Nat) : Nat :=
  if put.covers x y then (nodeAt put.image (x - put.x0) (y - put.y0)).power.toNat
  else
    match s.rankAt x y with
    | none => 0
    | some r =>
      if s.vacated.contains (y * waferX + x) then 0
      else if (s.tile r).pitch.isSome then (s.tile r).pclass.toNat else (s.tile r).ballast.toNat

/-- A half's current in mA. -/
def State.halfCurrent (s : State) (put : Pitch) (f : Nat) (north : Bool) : Nat :=
  (halfField f north).foldl (fun n e => n + 25 * (s.classAt put e.1 e.2 + 1)) 0

/-- The test of R425 on two currents. -/
def balanced (a b : Nat) : Bool := decide (100 * (max a b - min a b) ≤ 12 * max a b)

/-- The tiles of a field column, and the sum of their TEMPM, for its mean. -/
def State.columnTemp (s : State) (f x : Nat) : Int × Nat :=
  (List.range 60).foldl (fun e i =>
    match s.rankAt x (60 * (f / 8) + i) with
    | none => e
    | some r => (e.1 + ((s.temperature 1 r).setWidth 16).toInt, e.2 + 1)) (0, 0)

/-- The idle tiles of a half of a field that a pitch would leave idle and that carry no ballast. -/
def State.idleTiles (s : State) (put : Pitch) (f : Nat) (north : Bool) : List Nat :=
  (halfField f north).filterMap fun e =>
    if put.covers e.1 e.2 then none
    else (s.rankAt e.1 e.2).filter fun r => (s.tile r).pitch.isNone && !(s.tile r).struck && (s.tile r).ballast == 0

/-- The tile that takes ballast next: in the column with the lowest mean TEMPM, the lowest rank (R426). -/
def State.ballastTile (s : State) (f : Nat) (idle : List Nat) : Option Nat :=
  let temp (r : Nat) := s.columnTemp f (s.xOf r)
  idle.foldl (fun b r =>
    match b with
    | none => some r
    | some q =>
      let tq := temp q
      let tr := temp r
      if tr.1 * tq.2 < tq.1 * tr.2 ∨ (tr.1 * tq.2 = tq.1 * tr.2 ∧ r < q) then some r else b) none

/-- Add ballast to the lighter half of a field until its halves are balanced: on each tile the least class that balances, or
class 7 (R425, R426); none when they cannot be balanced. -/
def State.balanceField (s : State) (put : Pitch) (f : Nat) : Nat → Option State
  | 0 => none
  | n + 1 =>
    let north := s.halfCurrent put f true
    let south := s.halfCurrent put f false
    if balanced north south then some s
    else
      let lighter := decide (north < south)
      match s.ballastTile f (s.idleTiles put f lighter) with
      | none => none
      | some r =>
        let k := ((List.range 7).find? fun j => balanced (min north south + 25 * (j + 1)) (max north south)).getD 6 + 1
        (s.modTile r fun t => { t with ballast := BitVec.ofNat 3 k }).balanceField put f n

/-- The fields that a pitch's region overlaps. -/
def fieldsOf (p : Pitch) : List Nat :=
  (List.range 48).filter fun f =>
    decide (40 * (f % 8) < p.x0 + 4 * p.image.wc) && decide (p.x0 < 40 * (f % 8) + 40) &&
    decide (60 * (f / 8) < p.y0 + 4 * p.image.hc) && decide (p.y0 < 60 * (f / 8) + 60)

/-- Balance every field: those that a pitch would overlap, and those with a tile that something has touched; in any other every position
counts as class 0 (R425). -/
def State.balance (s : State) (put : Pitch) : Option State :=
  ((List.range 48).filter fun f => (fieldsOf put).contains f || s.tiles.any fun e => s.fieldOf e.1 == f).foldl (fun o f => o.bind fun s => s.balanceField put f 1201) (some s)

/-! ## Candidates (R138, R139, R273) -/

/-- A tile may be taken: it is there and whole (R120), its field's manager answers (R379), and no pitch holds it but those that
`gone` leaves out. A struck tile becomes vacant with its pitch (R377). -/
def State.takable (s : State) (gone : PitchId → Bool) (x y : Nat) : Bool :=
  match s.rankAt x y with
  | none => false
  | some r =>
    !s.vacated.contains (y * waferX + x) && (s.field (fieldAt x y)).manager && !(s.tile r).struck &&
    (match (s.tile r).pitch with
     | none => true
     | some id => gone id)

/-- Every tile of the region may be taken. -/
def State.regionFree (s : State) (p : Pitch) (gone : PitchId → Bool) : Bool :=
  decide (p.x0 + 4 * p.image.wc ≤ waferX) && decide (p.y0 + 4 * p.image.hc ≤ waferY) &&
  (List.range (16 * p.image.wc * p.image.hc)).all fun i =>
    s.takable gone (p.x0 + i % (4 * p.image.wc)) (p.y0 + i / (4 * p.image.wc))

/-- The locked entries of a field's cache, once the pitch's lists of the tiles in it are locked (R273). -/
def State.lockedAfter (s : State) (p : Pitch) (f : Nat) : Nat :=
  let pages := (((s.listed p).filter fun e => s.fieldOf e.1 == f).flatMap fun e => e.2).eraseDups
  let leaves := (pages.filterMap fun g => match s.walk p.image.root p.image.homes (g * 65536) with
    | .leaf l => some (l.big, l.page)
    | _ => none).eraseDups
  let locked := ((s.field f).locks.map fun k => (k.root, k.big, k.page)).eraseDups
  let fresh := leaves.filter fun l => !locked.contains (p.image.root, l.1, l.2)
  locked.length + fresh.length

/-- The locks of a pitch's lists fit its fields (R273). -/
def State.locksFit (s : State) (p : Pitch) : Bool := (fieldsOf p).all fun f => decide (s.lockedAfter p f ≤ 12288)

/-- A candidate passes, with the ballast that it needs: every skip of R138 and R273. -/
def State.candidate (s : State) (p : Pitch) : Option State :=
  if s.regionFree p (fun _ => false) && s.locksFit p then s.balance p else none

/-- The pitch at the origin of a cluster. -/
def Pitch.atCluster (p : Pitch) (i : Nat) : Pitch := { p with x0 := 4 * (i % 80), y0 := 4 * (i / 80) }

/-- The cluster of a pitch's origin. -/
def Pitch.cluster (p : Pitch) : Nat := p.y0 / 4 * 80 + p.x0 / 4

/-- First fit over `n` clusters from cluster `i`, wrapping (R138). -/
def State.firstFit (s : State) (p : Pitch) : Nat → Nat → Option (Pitch × State)
  | 0, _ => none
  | n + 1, i =>
    match s.candidate (p.atCluster i) with
    | some s' => some (p.atCluster i, s')
    | none => s.firstFit p n ((i + 1) % 7200)

/-- A pitch and the one that it shares a wavefront with (R139, R142). -/
def State.pairOf (s : State) (p : Pitch) : List PitchId :=
  match p.successor with
  | some n => if s.wavefront p then [p.id, n.1] else [p.id]
  | none => [p.id]

/-- The pitches of lower class that overlap a region, a spliced pair as one (R139). -/
def State.victims (s : State) (p : Pitch) : List Pitch :=
  s.pitches.filter fun q => decide (q.cls < p.cls) && !(q.behind.isSome) && (match q.state with
    | .loading | .armed _ | .running | .preempting | .killed => true
    | _ => false) &&
    decide (q.x0 < p.x0 + 4 * p.image.wc) && decide (p.x0 < q.x0 + 4 * q.image.wc) &&
    decide (q.y0 < p.y0 + 4 * p.image.hc) && decide (p.y0 < q.y0 + 4 * q.image.hc)

/-- The region would be free without the pitches of lower class (R139). -/
def State.freeWithout (s : State) (p : Pitch) : Bool :=
  let vs := (s.victims p).flatMap s.pairOf
  s.regionFree p vs.contains

/-- The best candidate for pre-emption among `n` clusters from cluster `i`: the fewest pre-emptions, then the first in scan
order (R139). -/
def State.bestFor (s : State) (p : Pitch) : Nat → Nat → Option (Nat × Pitch) → Option (Nat × Pitch)
  | 0, _, b => b
  | n + 1, i, b =>
    let q := p.atCluster i
    let b' := if s.freeWithout q then
        (match b with
         | some e => if (s.victims q).length < e.1 then some ((s.victims q).length, q) else b
         | none => some ((s.victims q).length, q))
      else b
    s.bestFor p n ((i + 1) % 7200) b'

/-- The youngest pitch of the lowest class among some (R139). -/
def youngestLowest (ps : List Pitch) : Option Pitch :=
  ps.foldl (fun b p => match b with
    | none => some p
    | some q => if p.cls < q.cls ∨ (p.cls = q.cls ∧ q.age < p.age) then some p else b) none

/-- Begin to pre-empt a running pitch, with its pair (R140, R386); one that is not running is left until it is. -/
def State.preempt (s : State) (p : Pitch) : State :=
  match p.state with
  | .running => (s.pairOf p).foldl (fun s id => s.modPitch id fun p =>
      { p with state := .preempting, preemptAt := s.tick + 16, sweep := none }) s
  | _ => s

/-! ## PLACEMENT (R137 to R140) -/

/-- The head pitch of the highest non-empty class queue (R137). -/
def State.headPitch (s : State) : Option Pitch :=
  ([3, 2, 1, 0].filterMap fun c => ((s.classes.toList.getD c []).head?)).head?.bind s.pitch?

/-- Reserve the region of a placed pitch: its tiles are its own, ballast ends, its streams have their destinations, the
rotating origin moves on (R138, R140, R426). -/
def State.reserve (s : State) (p : Pitch) : State :=
  let s : State := { s with
    classes := s.classes.map fun l => l.filter (· ≠ p.id), rotor := (p.cluster + 1) % 7200 }
  let s := s.modPitch p.id fun q => { q with
    x0 := p.x0, y0 := p.y0, state := .loading, sweep := none
    ingress := q.ingress.mapIdx fun k g =>
      match q.image.channels.find? fun c => c.src == .ingress k with
      | some c => { g with dests := s.endsOf p c, used := true }
      | none => g
    egress := q.egress.mapIdx fun k e => { e with fed := q.image.channels.any fun c => c.dests.contains (.egress k) } }
  (s.region p).foldl (fun s r => s.modTile r fun t => { t with
    pitch := some p.id, ballast := 0, pclass := (nodeAt p.image (s.xOf r - p.x0) (s.yOf r - p.y0)).power }) s

/-- A tile of a pitch's region is struck, vacant or taken out of its hands. -/
def State.regionBroken (s : State) (p : Pitch) : Bool :=
  (List.range (16 * p.image.wc * p.image.hc)).any fun i =>
    let x := p.x0 + i % (4 * p.image.wc)
    let y := p.y0 + i / (4 * p.image.wc)
    match s.rankAt x y with
    | none => true
    | some r => (s.tile r).struck || s.vacated.contains (y * waferX + x)

/-- A tile's counts start anew. -/
def Tile.uncounted (t : Tile) : Tile := { t with sent := 0, recvd := 0, msgSent := 0, msgDone := 0, prior := [] }

/-- A pitch that a kill ended is replayed, on its region or at the head of its class queue, or is struck (R140, R381). -/
def State.afterKill (s : State) (p : Pitch) : State :=
  if !p.replayable then s.endPitch p.id (some p.endCode)
  else if s.regionBroken p then s.requeue { p.rewound with successor := none }
  else
    match s.balance p with
    | none => s
    | some s =>
      ((s.tilesOf p.id).foldl (fun s r => s.modTile r Tile.uncounted) s).modPitch p.id fun p =>
        { p.rewound with state := .loading, saved := false, sweep := none }

/-- PLACEMENT: the head pitch of the highest non-empty class queue is placed by first fit, or the pitch in its way is
pre-empted (R137 to R139); a pitch saved by a pre-emption fits its original region alone, and is killed when a tile of it has
been struck (R388). Nothing is placed before TICK is set and temperatures have been refreshed
(R429, R448). -/
def execPlacement (s : State) : Out :=
  if !s.tickSet || s.refreshed == 0 then .next s
  else
    match s.headPitch with
    | none => .next s
    | some p =>
      if p.saved then
        if s.regionBroken p then .next (s.killPitch p.id)
        else
          match s.candidate p with
          | some s' => .next (s'.reserve p)
          | none =>
            if s.freeWithout p then
              (match youngestLowest (s.victims p) with
               | some v => .next (s.preempt v)
               | none => .next s)
            else .next s
      else
        match s.firstFit p 7200 s.rotor with
        | some e => .next (e.2.reserve e.1)
        | none =>
          match s.bestFor p 7200 s.rotor none with
          | none => .next s
          | some b =>
            match youngestLowest (s.victims b.2) with
            | some v => .next (s.preempt v)
            | none => .next s

/-! ## Loading (R137, R273, R439) -/

/-- The pages of a pitch's lists. -/
def Pitch.listedPages (p : Pitch) : List Nat := (p.image.nodes.flatMap fun n => n.pages).eraseDups

/-- The pages of a pitch's lists: some is finally absent, bad data on the way to it among them; some waits for the runtime (R273; log
11). -/
def State.listState (s : State) (p : Pitch) : Bool × Bool :=
  let walks := p.listedPages.map fun g => s.walk p.image.root p.image.homes (g * 65536)
  (walks.any fun w => w == .final || w == .malformed || w == .bad, walks.any fun w => w == .resolvable)

/-- A walk of the lists would read a bank that a remap holds (R370). -/
def State.listHeld (s : State) (p : Pitch) : Bool :=
  p.listedPages.any fun g => s.walkHeldFrom p.image.homes (g * 65536) walkLevels p.image.root

/-- The pages of a pitch's lists whose walk ends in bad data. -/
def State.badPages (s : State) (p : Pitch) : List Nat :=
  p.listedPages.filter fun g => s.walk p.image.root p.image.homes (g * 65536) == .bad

/-- The state after the loader's walks of the lists: what they met at the flies, and the fatal record of the first bad entry (R369, R371,
R373; log 11). -/
def State.listsRead (s : State) (p : Pitch) : State :=
  let u := p.listedPages.foldl (fun u g => u.walkRead p.image.root p.image.homes (g * 65536)) s
  match s.badPages p with
  | g :: _ => u.postBadEntry (s.handleHome p) (some p.id) (g * 65536)
  | [] => u

/-- A pitch that is loading, without a request to stop. -/
def Pitch.isLoading (p : Pitch) : Bool := p.state == .loading && !p.stopping

/-- The stream of a pitch that is loading is refused (R137, R273). -/
def State.refuseLoad (s : State) (id : PitchId) (err : Byte) : State := s.endPitch id (some err)

/-- LOAD_ACKNOWLEDGE: the loader walks the listed pages, streams and locks, and with the last tile's acknowledgement chooses
the start tick, 64 ticks on; a page that is finally absent refuses the stream, a resolvable one is posted to the runtime
(R137, R140, R273). Where pages that the runtime has mapped meanwhile would take a field beyond 12,288 locked entries, the pitch is placed
anew (DEDUCED, log 33). -/
def execLoadAcknowledge (id : PitchId) (s : State) : Out :=
  match s.pitch? id with
  | none => .next s
  | some p => event s (p.isLoading && !p.saved && !p.resolving && !s.listHeld p) fun s =>
      let pages := s.listState p
      let fits := s.locksFit p
      let s := s.listsRead p
      if pages.1 then s.refuseLoad id 2
      else if pages.2 then s.modPitch id fun p => { p with resolving := true }
      else if !fits then s.requeue p
      else (s.loadPitch p).modPitch id fun p => { p with state := .armed (s.tick + 64) }

/-- RESOLUTION_ANSWER: the runtime has mapped the page, or cannot (R273); for a pitch that loads, or that a splice is to load. -/
def execResolutionAnswer (id : PitchId) (ok : Bool) (s : State) : Out :=
  match s.pitch? id with
  | none => .next s
  | some p => event s ((p.isLoading || p.behind.isSome) && p.resolving) fun s =>
      if ok then s.modPitch id fun p => { p with resolving := false } else s.refuseLoad id 2

/-- TRANSLATION_PRELOAD_TIMEOUT: no answer came within 100 ms (R273). -/
def execTranslationPreloadTimeout (id : PitchId) (s : State) : Out :=
  match s.pitch? id with
  | none => .next s
  | some p => event s ((p.isLoading || p.behind.isSome) && p.resolving) fun s => s.refuseLoad id 2

/-! ## Starting (R137, R439) -/

/-- The portal of an egress stream. -/
def State.portalOf (s : State) (p : Pitch) (k : Nat) : Portal := assocGet {} s.portals (p.portal + k)

/-- Every MODE 2 portal's reply queue is bound to a stream of the instance (R439). -/
def State.repliesBound (s : State) (p : Pitch) : Bool :=
  (List.range 16).all fun k =>
    !((p.egress[k]?).map (·.fed)).getD false || (s.portalOf p k).mode != 2 ||
    (let h := s.hostQueue (s.portalOf p k).rq.toNat
     h.state == .bound && h.stream.any fun e => e.1 == p.id)

/-- PITCH_START: at the start tick every core with a valid slot 0 begins it, the others begin in dispatch (R125, R137, R140). -/
def execPitchStart (id : PitchId) (s : State) : Out :=
  match s.pitch? id with
  | none => .next s
  | some p =>
    match p.state with
    | .armed t => event s (decide (t ≤ s.tick) && !p.stopping) fun s =>
        if !s.repliesBound p then s.refuseLoad id 6
        else (s.region p).foldl (fun s r => s.modTile r Tile.beginAll)
          (s.modPitch id fun p => { p with state := .running, sweep := none })
    | _ => .next s

/-! ## Kill requests (R140) -/

/-- HOST_KILL_REQUEST: a pitch that waits is struck, one that loads is stopped, and freed by a later sweep, one that runs is killed (R140,
R380). The other pitch that a pre-emption saved in the middle of a wavefront is killed too (R142). -/
def execHostKillRequest (id : PitchId) (s : State) : Out :=
  match s.pitch? id with
  | none => .next s
  | some p =>
    match p.state with
    | .queued =>
      .next ((match p.saved, p.behind with
        | true, some b => s.killWaiting b
        | _, _ => s.killBehind p).endPitch id (some 7))
    | .loading | .armed _ => .next (s.modPitch id fun p => { p with stopping := true, sweep := none })
    | _ => .next (s.killPitch id)

/-! ## Lights out (R143 to R145, R327, R451) -/

/-- A core has nothing to do and nothing to take: its context is not in a firing, its queues and ports are empty. -/
def Tile.coreQuiet (t : Tile) (k : CoreId) : Bool :=
  !(t.ctx k.ctx).is .running && ((t.core k).queues.all fun q => q.words.isEmpty) && ((t.core k).ports.all fun p => p.words.isEmpty)

/-- Local quiescence (R143, R451): the message thread holds no message, in its inbound queue either; a struck tile reports it (R377). -/
def State.tileQuiet (s : State) (r : Nat) : Bool :=
  let t := s.tile r
  t.struck || (t.coreQuiet .s && t.coreQuiet .c && t.current.isNone && t.inbox.isEmpty && t.matrix.queue.isEmpty && t.copy.queue.isEmpty && !s.firing r)

/-- What a tile counts for a pitch: that of its node, or of a predecessor that a splice has replaced there (R144, R327). -/
def Tile.countsFor (t : Tile) (id : PitchId) : Counts :=
  if t.pitch = some id then t.counts else ((t.prior.find? fun e => e.1 == id).map (·.2)).getD {}

/-- One sweep over a pitch (R144, R327). -/
def State.sweepOf (s : State) (p : Pitch) : Sweep :=
  let sum (f : Counts → Nat) := s.tiles.foldl (fun n e => n + f (e.2.countsFor p.id)) 0
  { quiet := (s.tilesOf p.id).all s.tileQuiet
    sent := sum (fun c => c.sent.toNat) + p.ingress.foldl (fun n g => n + g.sent) 0
    recvd := sum (fun c => c.recvd.toNat) + p.egress.foldl (fun n e => n + e.received) 0
    msgSent := sum fun c => c.msgSent.toNat
    msgDone := sum fun c => c.msgDone.toNat }

/-- Two consecutive sweeps declare quiescence (R144, R327). -/
def matching (before : Option Sweep) (now : Sweep) : Bool :=
  before == some now && now.quiet && now.sent == now.recvd && now.msgSent == now.msgDone

/-- Every ingress stream has delivered its stream end (R140). -/
def Pitch.ended (p : Pitch) : Bool := p.ingress.all fun g => !g.used || g.ended

/-- A core that has a valid handler has halted, or its tile is struck. -/
def Tile.halts (t : Tile) (k : CoreId) : Bool :=
  t.struck || !((t.core k).slots.any fun sl => sl.valid) || (t.ctx k.ctx).is .halted

/-- Every core with a valid handler has halted (R140). -/
def State.allHalted (s : State) (id : PitchId) : Bool :=
  (s.tilesOf id).all fun r => (s.tile r).halts .s && (s.tile r).halts .c

/-- The node of a place in a pitch is the empty node: the image declares none there (R120). -/
def emptyAt (im : Image) (x y : Nat) : Bool := !(im.nodes.any fun n => n.x == x && n.y == y)

/-- A word that ends a stream has come to every queue of a tile that carries a channel. -/
def Tile.streamsEnded (t : Tile) : Bool :=
  (t.coreS.queues.all fun q => !q.fed || q.ended) && t.coreC.queues.all fun q => !q.fed || q.ended

/-- Once its node is quiescent, a tile can leave its pitch for the successor: stream end has come to every queue that carries a channel,
or the successor puts the empty node there (R141; that the sentence on the empty node speaks of the successor's is DEDUCED, log 33). -/
def State.canSwitch (s : State) (next : Pitch) (r : Nat) : Bool :=
  !(s.tile r).struck && ((s.tile r).streamsEnded || emptyAt next.image (s.xOf r - next.x0) (s.yOf r - next.y0))

/-- What a sweep of a running pitch leads to: it is struck when it has ended, or all its cores have halted (R140). With a successor
behind it its tiles switch instead, unless some tile can not (R141); once some tile has switched, neither is struck before every tile has
(DEDUCED, log 33). -/
def State.sweepRunning (s : State) (p : Pitch) : State :=
  let now := s.sweepOf p
  let leaves := match p.successor.bind fun n => s.pitch? n.1 with
    | none => true
    | some q => !s.wavefront p && !(s.tilesOf p.id).all (s.canSwitch q)
  if matching p.sweep now && leaves && p.behind.isNone && (p.ended || s.allHalted p.id) then s.endPitch p.id none
  else s.modPitch p.id fun p => { p with sweep := some now }

/-! ### The end of a kill (R380, R381, R378) -/

/-- A strike that met the kill is completed. -/
def State.completeStrikes (s : State) (id : PitchId) : State :=
  (s.tilesOf id).foldl (fun s r =>
    match (s.tile r).strikeDue with
    | some c => if (s.tile r).struck then s else s.strikeTile r c
    | none => s) s

/-- The kill of a wavefront's pair has reached quiescence: the predecessor is replayed on the whole region or struck (R142). The
successor, killed with it, follows its own replay mode (R140): a stateless one waits behind the predecessor again, with its streams
rewound and its kills counted; any other is struck (DEDUCED, log 33). -/
def State.afterPair (s : State) (p q : Pitch) : State :=
  let s := [p.id, q.id].foldl State.completeStrikes s
  let s := (s.region p).foldl (fun s r => s.modTile r fun t => if t.pitch = some q.id then { t with pitch := some p.id } else t) s
  let s := if q.replayable then s.modPitch q.id fun q => { q.rewound with state := .queued, saved := false, sweep := none }
    else s.endPitch q.id (some q.endCode)
  match s.pitch? p.id with
  | some p => s.afterKill p
  | none => s

/-- What a sweep of a killed pitch leads to; a wavefront's pair is swept together, each with its own sums (R142, R144). -/
def State.sweepKilled (s : State) (p : Pitch) : State :=
  let now := s.sweepOf p
  match (if s.wavefront p then p.successor.bind fun n => s.pitch? n.1 else none) with
  | some q =>
    let next := s.sweepOf q
    if matching p.sweep now && matching q.sweep next then s.afterPair p q
    else (s.modPitch p.id fun p => { p with sweep := some now }).modPitch q.id fun q => { q with sweep := some next }
  | none =>
    if p.behind.isSome then s
    else if matching p.sweep now then (s.completeStrikes p.id).afterKill p
    else s.modPitch p.id fun p => { p with sweep := some now }

/-! ### The end of a pre-emption (R337, R386, R387) -/

/-- A context has come to rest. -/
def Ctx.resting (c : Ctx) : Bool := !c.is .running && c.storing.isEmpty && c.posted.isEmpty && c.xact.isNone

/-- A tile of a pre-empted pitch has come to rest (R386 steps 2 to 5). -/
def Tile.resting (t : Tile) : Bool :=
  t.struck || (t.held && t.s.resting && t.c.resting && t.m.resting && t.matrix.queue.isEmpty && t.resps.isEmpty &&
    (t.current.isNone || t.m.resume.isSome))

/-- Some firing whose participants have all triggered still runs (R337). -/
def State.firingRuns (s : State) (p : Pitch) : Bool :=
  p.plans.any fun q => q.live && !q.failed && q.allTrigd s.modidx.toNat

/-- The words of the pitch are all in queues and ports, and no built-in message of it is under way (R386 step 7). -/
def State.settled (s : State) (p : Pitch) : Bool :=
  let w := s.sweepOf p
  let staged := (s.tilesOf p.id).foldl (fun n r => n + (s.tile r).coreS.staged + (s.tile r).coreC.staged) 0
  w.sent == w.recvd + staged &&
  s.tiles.all fun e => e.2.messages.all fun m => (Msg.src m).pitch != p.id || Msg.isUser m

/-- The pair of a pitch that is being pre-empted has come to rest. -/
def State.pairRests (s : State) (ids : List PitchId) : Bool :=
  ids.all fun id => match s.pitch? id with
    | some p => (s.tilesOf id).all (fun r => (s.tile r).resting) && !s.firingRuns p && s.settled p
    | none => true

/-- The edge counts of a pitch start anew, as its tiles' do (R144). -/
def Pitch.recounted (p : Pitch) : Pitch :=
  { p with ingress := p.ingress.map fun g => { g with sent := 0 }, egress := p.egress.map fun e => { e with received := 0 } }

/-- A fatal record of the pitch is on its way to a trap queue. -/
def State.fatalDue (s : State) (id : PitchId) : Bool :=
  s.fields.any fun e => e.2.posts.any fun p => p.pitch == some id && p.record.flags.getLsbD 0

/-- The nodes of a pitch are saved: give its region back, with the combine slots of its plans (R337); it returns to the head of its class
queue (R139, R140, R386). -/
def State.saveOut (s : State) (id : PitchId) : State :=
  let s := s.freeRegion id
  let s := s.modPitch id fun p => { p.recounted with
    state := .queued, saved := true, sweep := none, plans := p.plans.map fun q => { q with routed := [] } }
  match s.pitch? id with
  | some p => if p.behind.isSome then s else { s with classes := vecMod s.classes p.cls fun l => id :: l }
  | none => s

/-- What a sweep of a pitch that is being pre-empted leads to: once everything rests, the tiles enter save mode (R400); the next
sweep finds the loader's CTXS performed on every tile, and the region free; or the saves that failed have posted the fatal records by
which the pitch is killed. -/
def State.sweepPreempting (s : State) (p : Pitch) : State :=
  let ids := s.pairOf p
  let tiles := ids.flatMap s.tilesOf
  if p.behind.isSome || ids.any s.fatalDue || !s.pairRests ids then s
  else if tiles.all fun r => (s.tile r).saveMode then
    let bad := tiles.filter fun r => !(s.saveTile r).2
    if bad.isEmpty then ids.reverse.foldl State.saveOut (tiles.foldl (fun s r => (s.saveTile r).1) s)
    else bad.foldl (fun s r => (s.saveTile r).1) s
  else tiles.foldl (fun s r => s.modTile r fun t => { t with saveMode := true }) s

/-- What a sweep of a pitch that the host has stopped while it loaded leads to: quiescent, it is struck (R140, R145). -/
def State.sweepStopped (s : State) (p : Pitch) : State :=
  let now := s.sweepOf p
  if matching p.sweep now then (s.killBehind p).endPitch p.id (some 7)
  else s.modPitch p.id fun p => { p with sweep := some now }

/-- LIGHTS_OUT_SWEEP: one sweep over a pitch, and what it leads to (R140, R144, R145). -/
def execLightsOutSweep (id : PitchId) (s : State) : Out :=
  match s.pitch? id with
  | none => .next s
  | some p =>
    match p.state with
    | .running => .next (s.sweepRunning p)
    | .killed => .next (s.sweepKilled p)
    | .preempting => .next (s.sweepPreempting p)
    | .loading | .armed _ => event s p.stopping fun s => s.sweepStopped p
    | .queued | .struck => .next s

/-! ## Pre-emption (R386, R388) -/

/-- A tile stops dispatching. -/
def Tile.hold (t : Tile) : Tile :=
  let idle (k : Core) : Core := { k with states := k.states.map fun st => match st with
    | .running => .running
    | _ => .idle }
  if t.held then t else { t with held := true, heldAt := t.cyc, coreS := idle t.coreS, coreC := idle t.coreC }

/-- PREEMPT_DISPATCH_STOP: at the chosen tick dispatch stops on every tile at once (R126, R146, R386). -/
def execPreemptDispatchStop (id : PitchId) (s : State) : Out :=
  match s.pitch? id with
  | none => .next s
  | some p => event s (p.state == .preempting && decide (p.preemptAt ≤ s.tick)) fun s =>
      (s.tilesOf id).foldl (fun s r => s.modTile r Tile.hold) s

/-- PREEMPT_FIRING_TIMEOUT: a context still in a firing, or at supervisor level, 65,536 cycles after dispatch stopped, stops at
its group boundary with no effect of the stopping group, and its whole context will be saved (R386). A group that has had an effect
elsewhere commits first (R291). -/
def execPreemptFiringTimeout (r : Nat) (c : CtxId) (s : State) : Out :=
  let t := s.tile r
  event s (t.held && (t.ctx c).is .running && decide (65536 ≤ t.cyc.toNat - t.heldAt.toNat) && !s.bound r c) fun s =>
    ((s.withdraw r c).forgetPosts (· == (r, c))).modCtx r c fun x => { x with
      run := .stopped, resume := some .running, waiting := false, xact := none, reply := .none, colset := .none }

/-- Whom counts of a message that a resumption brings back stand with (R327). -/
def State.countAgain (s : State) (r : Nat) (m : Msg) : State :=
  let src := Msg.src m
  let k := if src.mod = s.modidx.toNat then src.rank else r
  s.modTile k fun t => { t with msgSent := t.msgSent + 1 }

/-- A tile of a saved pitch is loaded and restored: CTXL in save mode (R388, R400). -/
def State.resumeTile (s : State) (p : Pitch) (r : Nat) : State :=
  let s := s.loadTile p r false
  match s.savedNode r with
  | none => s
  | some n =>
    let s := s.restoreNode r n
    s.modTile r fun t => { t with
      saved := t.saved.filter fun e => e.1 != p.id
      sent := BitVec.ofNat 48 (n.scores.staged + n.ccores.staged) }

/-- The tiles of a region that hold a saved node of a pitch. -/
def State.savedTiles (s : State) (p : Pitch) : List Nat :=
  (s.region p).filter fun r => (s.tile r).saved.any fun e => e.1 == p.id

/-- The messages that a resumed pitch counts as sent and not yet completed: those at its tiles and the ones that they run, and its own that
another module has not answered (R327). -/
def State.unfinished (s : State) (p : Pitch) (ts : List Nat) : List (Nat × Msg) :=
  (ts.flatMap fun r => ((s.tile r).messages.filter (Msg.isUserOf p.id) ++ ((s.tile r).current.map fun c => Msg.user c.msg).toList).map fun m => (r, m)) ++
    ((s.abroad.filter fun m => m.src.pitch == p.id).map fun m => (m.src.rank, Msg.user m))

/-- Resume one pitch on the tiles where its nodes were saved. -/
def State.resumePitch (s : State) (p : Pitch) : State :=
  let ts := s.savedTiles p
  let s := ts.foldl (fun s r => s.resumeTile p r) s
  let s := (s.unfinished p ts).foldl (fun s e => s.countAgain e.1 e.2) s
  let s := (s.listed p).foldl (fun s e => s.lockPages p e.1 e.2) s
  let s := s.modPitch p.id fun p => { p with state := .running, saved := false, sweep := none }
  p.plans.foldl (fun s q => s.modPlan p.id q.key fun o => { o with routed := s.routedFor o }) s

/-- A pitch and, in a wavefront, the successor saved with it. -/
def State.savedPair (s : State) (p : Pitch) : List Pitch :=
  match p.successor.bind fun n => s.pitch? n.1 with
  | some q => if q.saved then [p, q] else [p]
  | none => [p]

/-- A saved pitch whose lists do not fit its fields any more waits again for its region (R273, R388; DEDUCED, log 33). -/
def State.unplace (s : State) (p : Pitch) : State :=
  let s := (s.freeRegion p.id).modPitch p.id fun p => { p with state := .queued, sweep := none }
  { s with classes := vecMod s.classes p.cls fun l => p.id :: l }

/-- PREEMPT_RESUME: on its original region a pre-empted pitch is restored, its lists are locked and its plans reserved again, and every
context continues. A tile struck meanwhile kills it; resolvable pages are waited for; bad data in a save area posts a fatal record, by
which the pitch is killed (R273, R337, R388, R400). -/
def execPreemptResume (id : PitchId) (s : State) : Out :=
  match s.pitch? id with
  | none => .next s
  | some p => event s (p.isLoading && p.saved && !p.resolving && !s.listHeld p && !s.fatalDue id) fun s =>
      let ps := s.savedPair p
      let pages := ps.map s.listState
      let fits := ps.all s.locksFit
      if s.regionBroken p then s.killPitch id
      else
        let s := ps.foldl State.listsRead s
        if pages.any (·.1) then (s.killBehind p).refuseLoad id 2
        else if pages.any (·.2) then s.modPitch id fun p => { p with resolving := true }
        else if !fits then s.unplace p
        else
          let s := (ps.flatMap s.savedTiles).foldl State.restoreRead s
          let bad := (ps.flatMap s.savedTiles).filterMap fun r => (s.restoreBad r).map fun a => (r, a)
          if bad.isEmpty then ps.foldl State.resumePitch s
          else bad.foldl (fun s e => s.saveFault e.1 0x21 e.2) s

/-! ## Splicing (R141, R142) -/

/-- The pitch of a tile, when a successor waits behind it. -/
def State.splicing (s : State) (r : Nat) : Option (Pitch × Pitch × Bool) :=
  match (s.tile r).pitch.bind s.pitch? with
  | none => none
  | some p => p.successor.bind fun n => (s.pitch? n.1).map fun q => (p, q, n.2)

/-- SPLICE_SWITCH: a tile whose predecessor node is locally quiescent, with the stream end on every queue that carries a
channel or the empty node to come, disables the predecessor's tables (R141). -/
def execSpliceSwitch (r : Nat) (s : State) : Out :=
  match s.splicing r with
  | none => .next s
  | some e => event s (e.1.runs && e.1.behind.isNone && s.tileQuiet r && s.canSwitch e.2.1 r && !(s.tile r).switching) fun s =>
      s.modTile r fun t => { t with switching := true }

/-- The successor's node is loaded on a tile: its slot 0 fires on each core that has one, dispatch follows; with the last tile the
predecessor is struck (R125, R141). -/
def State.succeed (s : State) (p q : Pitch) (keep : Bool) (r : Nat) : State :=
  let s := s.loadTile q r keep
  let s := s.lockPages q r (nodeAt q.image (s.xOf r - q.x0) (s.yOf r - q.y0)).pages
  let s := (s.modTile r Tile.beginAll).modPitch q.id fun q => { q with state := .running }
  if (s.tilesOf p.id).isEmpty then (s.modPitch q.id fun q => { q with behind := none }).endPitch p.id none else s

/-- The first tile is to switch: the successor's lists are made ready as in a load. A final failure refuses it; pages that the runtime
resolves are waited for; where its locks do not fit it is no splice any more, and is placed once its predecessor is struck (R142, R273;
DEDUCED, log 33). -/
def State.beginSplice (s : State) (p q : Pitch) (keep : Bool) (r : Nat) : State :=
  let pages := s.listState q
  let fits := s.locksFit q
  let s := s.listsRead q
  if pages.1 then s.refuseLoad q.id 2
  else if pages.2 then s.modPitch q.id fun q => { q with resolving := true }
  else if !fits then (s.modTile r fun t => { t with switching := false }).modPitch p.id fun p => { p with successor := none }
  else ((s.listed q).foldl (fun s e => s.lockPages q e.1 e.2) s).succeed p q keep r

/-- SPLICE_SUCCESSOR_START: a tile in SWITCH becomes the successor's, while its predecessor runs; not once a kill or a pre-emption has
begun (R141, R142, R146). -/
def execSpliceSuccessorStart (r : Nat) (s : State) : Out :=
  match s.splicing r with
  | none => .next s
  | some (p, q, keep) => event s ((s.tile r).switching && !(s.tile r).held && p.runs && !q.resolving && (q.runs || q.state == .queued)) fun s =>
      if s.wavefront p then s.succeed p q keep r
      else if s.listHeld q then s
      else s.beginSplice p q keep r

end Sys2Proof.Machine
end

