-- ==== Sys2Proof/Machine/Boot.lean ====
section
/-! DEFINITION. Module reset and what the service processor and the field managers do between resets (R26, R147, R414, R419 to R423,
R442, R448). -/

namespace Sys2Proof.Machine

/-- FIELD_DERATE: a field that no pitch covers goes to a lower bin (R414). -/
def execFieldDerate (f : Nat) (code : BitVec 4) (s : State) : Out :=
  event s (decide (f < 48) && (s.field f).band != 15 && decide (code < (s.field f).band) &&
    s.tiles.all fun e => e.2.pitch.isNone || s.fieldOf e.1 != f) fun s =>
    s.modField f fun g => { g with band := code }

/-- A field's band after boot: what the boot test found, never above the shipped bin; 15 when its firmware failed (R414, R421,
R448). -/
def bootBand (shipped : List (BitVec 4)) (bands : List (BitVec 4)) (badFirmware : List Nat) (f : Nat) : BitVec 4 :=
  let b := bands.getD f 15
  let was := shipped.getD f 15
  if badFirmware.contains f ∨ b = 15 ∨ was = 15 then 15 else if was < b then was else b

/-- The logical positions of a field, rising with `halfField`'s order. -/
def fieldPositions (f : Nat) : List Nat := (halfField f true ++ halfField f false).map fun e => e.2 * waferX + e.1

/-! ## The second tier (R442)

`devices` gives the capacity of the device at each of the 16 ports, in granules of 4 KiB, 0 where there is none. -/

/-- The attached total is at most 12,288 GiB. -/
def devicesOk (devices : List Nat) : Bool :=
  decide (devices.length ≤ 16) && decide (devices.foldl (· + ·) 0 ≤ 12288 * 2 ^ 18)

/-- Ports in sets of 16, 8, 4, 2 or 1, the largest that the ports fill first (DEDUCED, log 35). -/
def waySets : Nat → List Nat → List (List Nat)
  | 0, _ => []
  | n + 1, ports =>
    if ports.isEmpty then []
    else
      let ways := if 16 ≤ ports.length then 16 else if 8 ≤ ports.length then 8 else if 4 ≤ ports.length then 4
        else if 2 ≤ ports.length then 2 else 1
      ports.take ways :: waySets n (ports.drop ways)

/-- The interleave sets: ports of equal capacity together, ports in ascending order within a set, sets in order of their lowest port. -/
def interleaveSets (devices : List Nat) : List (List Nat) :=
  let sets := ((devices.filter (· ≠ 0)).eraseDups).flatMap fun c =>
    waySets 16 ((List.range 16).filter fun p => devices.getD p 0 == c)
  (List.range 16).filterMap fun p => sets.find? fun l => l.head? == some p

/-- Sets mapped contiguously from an address: base, size and ports of each. -/
def mapSets (devices : List Nat) : Nat → List (List Nat) → List (Nat × Nat × List Nat)
  | _, [] => []
  | base, l :: ls =>
    let size := 4096 * l.length * devices.getD (l.headD 0) 0
    (base, size, l) :: mapSets devices (base + size) ls

/-- The map of the second tier that boot makes. -/
def tier2Of (devices : List Nat) : List (Nat × Nat × List Nat) := mapSets devices tier2Base (interleaveSets devices)

/-- The port of a second-tier address by a map, and the byte of its device. -/
def deviceByte (map : List (Nat × Nat × List Nat)) (pa : Nat) : Option (Nat × Nat) :=
  (map.find? fun e => e.1 ≤ pa && decide (pa < e.1 + e.2.1)).bind fun e =>
    let g := (pa - e.1) / 4096
    (e.2.2[g % e.2.2.length]?).map fun p => (p, g / e.2.2.length * 4096 + pa % 4096)

/-- The address of a byte of a port's device by a map. -/
def deviceAddress (map : List (Nat × Nat × List Nat)) (port byte : Nat) : Option Nat :=
  (map.find? fun e => e.2.2.contains port).bind fun e =>
    let o := (byte / 4096 * e.2.2.length + (e.2.2.findIdx? (· == port)).getD 0) * 4096 + byte % 4096
    if o < e.2.1 then some (e.1 + o) else none

/-- Where a key lies after a new map: second-tier bytes stay in their devices. -/
def moved (old new : List (Nat × Nat × List Nat)) (key : Nat) : Option Nat :=
  if key < tier2Base ∨ hostBase ≤ key then some key
  else (deviceByte old key).bind fun d => deviceAddress new d.1 d.2

/-- Memory after a new map. -/
def movedMem (old new : List (Nat × Nat × List Nat)) (m : Mem) : Mem :=
  if old = new then m
  else m.foldl (fun m' c => match moved old new c.1 with
    | some k => m'.put k c.2
    | none => m') []

/-- Poisoned words after a new map. -/
def movedPoison (old new : List (Nat × Nat × List Nat)) (l : List Nat) : List Nat :=
  if old = new then l else ((l.filterMap fun w => moved old new (8 * w)).map (· / 8)).foldl insertNat []

/-! ## Module reset -/

/-- The module after a reset with the given dead tiles, bands, failed firmware and second-tier devices: the retirement record is
applied, the detour tables and ranks are built, the second tier is mapped, memory keeps what tiles and devices hold, flies keep their
stuck lanes and flipped cells, and nothing else is kept but what is fixed at manufacture and the schedule of what happens next, which is
no state of the module (R26, R419 to R423, R442, R448, log 2, log 35). -/
def State.rebooted (s : State) (dead : List Nat) (bands : List (BitVec 4)) (badFirmware devices : List Nat) : State :=
  let tier2' := tier2Of devices
  let dead' := (dead ++ s.retired).foldl insertNat []
  let band := bootBand s.shipped bands badFirmware
  let closed := (List.range 48).filter fun f => band f == 15
  { State.reset with
    tiles := s.tiles.map fun e => (e.1, { fly := { stuck := e.2.fly.stuck, weak := e.2.fly.weak } })
    mem := movedMem s.tier2 tier2' (s.mem.filter fun c => c.1 < 2 ^ 60)
    poison := movedPoison s.tier2 tier2' (s.poison.filter fun w => w < 2 ^ 57)
    fields := (List.range 48).map fun f => (f, { band := band f, manager := !badFirmware.contains f })
    dead := dead', retired := s.retired
    vacant := (vacanciesOf dead' ++ closed.flatMap fieldPositions).foldl insertNat []
    shipped := s.shipped, shippedRanked := s.shippedRanked
    attestKeyLoads := s.attestKeyLoads, refreshes := s.refreshes + 1, refreshBase := s.refreshes + 1
    tier2 := tier2'
    free := s.free, reqs := s.reqs, agenda := s.agenda }

/-- MODULE_RESET (R26, R442, R448). -/
def execModuleReset (dead : List Nat) (bands : List (BitVec 4)) (found : BootFindings) (s : State) : Out :=
  event s (devicesOk found.devices) fun s => s.rebooted dead bands found.badFirmware found.devices

/-- SERVICE_PROCESSOR_FAILOVER: the other processor of the pair takes over, and repeats the attestation key load alone (R448). -/
def execServiceProcessorFailover (s : State) : Out :=
  .next { s with standby := !s.standby, attestKeyLoads := s.attestKeyLoads + 1 }

end Sys2Proof.Machine
end

