-- ==== Sys2Proof/Machine/Care.lean ====
section
/-! DEFINITION. The care of memories: scrubbing, the pole, array corrections and row remaps, second-tier failures, translation
walks, power-down (R269 to R272, R280, R368 to R373, R405, R406, R442). -/

namespace Sys2Proof.Machine

/-- A word of the cached line of a key is marked poisoned (R368). -/
def CacheLine.spoil (key word : Nat) (l : CacheLine) : CacheLine :=
  if l.key = key ∧ word < 8 then { l with bad := insertNat l.bad word } else l

/-- SCRUB: the scrubber meets an error of a tile. An uncorrectable word of an SRAM, of a cached line or of a summary register is
marked poisoned; a corrected one leaves no trace. A word of a second-tier device that it returns poisoned from now on is marked too
(R442; the event stands for it, log 35). A parity error anywhere else kills the pitch with cause 0x20 (R368). -/
def execScrub (place : BadPlace) (bad : Bool) (s : State) : Out :=
  event s bad fun s =>
    match place with
    | .sram _ key => if 2 ^ 60 ≤ key ∨ (tier2Base ≤ key ∧ key < hostBase) then s.poisonWord key else s
    | .line r key word => s.modTile r fun t => { t with lines := t.lines.map (CacheLine.spoil (lineOf key) word) }
    | .summary r word => if word < 2048 then s.modTile r fun t => { t with hbad := insertNat t.hbad word } else s
    | .parity r => if (s.tile r).pitch.isSome then s.post r (s.hwRecord r none 0x20 0 0 true false 0) else s

/-! ## The pole (R371, R372) -/

/-- POLE_GRANULE_TRANSFER: a granule crosses, with a passing trouble or none; or a lane sticks from now on. A pole whose last group is
abandoned is dead, and its tile is to be struck (R371, R372, R375). -/
def execPoleGranuleTransfer (r : Nat) (e : Option PoleEvent) (s : State) : Out :=
  match e with
  | none => .next s
  | some (.sticks lane high) => event s (decide (lane < 132)) fun s =>
      s.modTile r fun t => { t with fly := { t.fly with stuck := t.fly.stuck.filter (fun x => x.1 != lane) ++ [(lane, high)] } }
  | some (.trouble t) => event s (troubleOk (s.tile r).fly t) fun s =>
      s.modTile r fun u =>
        let f := u.fly.transfer t
        { u with fly := f, strikeDue := if f.abandoned = 15 ∧ !u.struck ∧ u.strikeDue.isNone then some 0x34 else u.strikeDue }

/-! ## The array (R369, R370) -/

/-- ECC_WRITEBACK at a fly offset: the bank's idle slot comes, and the corrected word is written back to its cells; or a cell of the
word flips, which a read then meets (R369). -/
def execEccWriteback (r : Nat) (offset : BitVec 25) (e : CellEvent) (s : State) : Out :=
  let off := offset.toNat / 8 * 8
  match e with
  | .writeback => event s ((s.tile r).fly.fixing.contains off) fun s => s.modTile r fun t => { t with fly := { t.fly with
      fixing := t.fly.fixing.filter (· != off), weak := t.fly.weak.filter fun x => x.1 != off } }
  | .flip bit => event s (decide (bit.toNat < 72)) fun s => s.modTile r fun t => { t with fly := { t.fly with
      weak := if t.fly.weak.contains (off, bit.toNat) then t.fly.weak.filter (· != (off, bit.toNat))
        else t.fly.weak ++ [(off, bit.toNat)] } }

/-- The corrections of a row since reset. -/
def Fly.fixesOf (f : Fly) (k : Nat × Nat) : Nat := ((f.fixes.find? fun e => e.1 == k).map (·.2)).getD 0

/-- The fly offset of a row's start. -/
def rowOffset (bank row : Nat) : Nat := row * 2 ^ 15 + bank * 2 ^ 11

/-- ROW_REMAP: a row with four corrections begins to move to a spare row, and its bank is held; a bank without a spare row keeps it
and logs EV 4 (R370). -/
def execRowRemap (r : Nat) (bank : BitVec 4) (row : BitVec 10) (s : State) : Out :=
  let f := (s.tile r).fly
  let k := (bank.toNat, row.toNat)
  event s (decide (4 ≤ f.fixesOf k) && !f.remapped.contains k && !f.kept.contains k && !(f.held.any fun e => e.1 == k.1)) fun s =>
    s.modTile r fun t => { t with fly :=
      if (f.remapped.filter fun e => e.1 = k.1).length < 16 then { f with held := f.held ++ [k] }
      else { f with kept := f.kept ++ [k], array := f.array.add (arrayEntry 4 (rowOffset k.1 k.2) 0) } }

/-- Stores that a held bank has kept back go on (R282, R370). -/
def State.storesGoOn (s : State) (r : Nat) : State :=
  [CtxId.s, .c, .m].foldl (fun s i =>
    match ((s.tile r).ctx i).storing with
    | p :: ps => if p.piece.home.isNone then s.advanceStore r i (p :: ps) else s
    | [] => s) s

/-- ROW_REMAP_DONE: the remap of the bank's row completes, and held accesses go on (R370). -/
def execRowRemapDone (r : Nat) (bank : BitVec 4) (s : State) : Out :=
  match (s.tile r).fly.held.find? fun e => e.1 == bank.toNat with
  | none => .next s
  | some k => .next ((s.modTile r fun t => { t with fly := { t.fly with
      held := t.fly.held.erase k, remapped := t.fly.remapped ++ [k]
      array := t.fly.array.add (arrayEntry 3 (rowOffset k.1 k.2) 0) } }).storesGoOn r)

/-! ## The second tier (R442) -/

/-- SECOND_TIER_TIMEOUT: message `n` of a tile, an access to the second tier, has not completed in 1 ms; with no message `n`, the next
access of the tile at its own port does not. -/
def execSecondTierTimeout (r n : Nat) (s : State) : Out :=
  if (s.tile r).messages.length ≤ n then .next (s.modTile r fun t => { t with late := true })
  else
    match (s.tile r).mayTake n with
    | some (.builtin q) => event s (q.kind != .barr && decide (tier2Base ≤ q.key) && decide (q.key < hostBase)) fun s =>
        (s.takeMsg r n q.src).failAtPort r q
    | _ => .next s

/-- SECOND_TIER_LINK_DOWN: accesses at the port fail from now on, those in flight among them, and its range is unmapped for pages
translated afterwards. -/
def execSecondTierLinkDown (port : Nat) (s : State) : Out :=
  event s (decide (port < 16)) fun s => { s with tier2Down := insertNat s.tier2Down port }

/-! ## Translation walks (R269 to R272) -/

/-- TRANSLATION_WALK of a tile's global address completes: its reads cross the pole; a leaf fills the field's cache and the tile's TLB,
locked where a pitch holds a lock on it; a failed translation fills nothing, and an entry that is bad data is consumed, with a fatal
record (R270 to R273, R369, R371, R373, R394). A locked entry stays as it is. While a remap holds a bank it reads, the walk waits (R370). -/
def execTranslationWalk (r : Nat) (va : BitVec 54) (s : State) : Out :=
  match (s.tile r).pitch.bind s.pitch? with
  | none => .next s
  | some p =>
    let root := p.image.root
    event s (!s.walkHeldFrom p.image.homes va.toNat walkLevels root) fun s =>
      let found := s.walk root p.image.homes va.toNat
      let s := s.walkRead root p.image.homes va.toNat
      match found with
      | .leaf e =>
        let e := { e with locked := (s.field (s.fieldOf r)).locks.any fun k => k.holds e }
        let held (l : List TlbEntry) : Bool := l.any fun c => c.locked && c.same e
        let fill (ways : Nat) (same : TlbEntry → Bool) (l : List TlbEntry) := if held l then l else fillCache ways same e l
        (s.modField (s.fieldOf r) fun f => { f with cache := fill 16384 (fun _ => true) f.cache }).modTile r fun t =>
          { t with tlb := fill 4 (fun c => c.page % 32 == e.page % 32) t.tlb }
      | .bad => s.postBadEntry r (some p.id) va.toNat
      | _ => s

/-- POWER_DOWN: the bank write buffers drain to the arrays. A buffered write is part of the fly's contents from its acceptance on,
so the contents stay as they are (R280). -/
def execPowerDown (s : State) : Out := .next s

end Sys2Proof.Machine
end

