-- ==== Sys2Proof/Machine/Channel.lean ====
section
/-! DEFINITION. Channel instructions (R156 to R162). -/

namespace Sys2Proof.Machine

/-- The core whose queues and ports a context has; the message thread has none (R117). -/
def coreOf : CtxId → Option CoreId
  | .s => some .s | .c => some .c | .m => none

/-- The queue is declared in the INMASK of the core's firing (R135). A supervisor whose trap was taken from dispatch or halt (R320)
runs while the core has no firing, and R158 speaks of the firing's INMASK alone: HCUR still names the last firing's slot, whose
INMASK decides (DEDUCED, log 29). -/
def State.declares (s : State) (k : CoreId) (x : QReg) : Bool :=
  (((s.here.core k).slots[s.cur.hcur.toNat]?).map fun sl => sl.inmask.getLsbD x.toNat).getD false

/-- The words of the running core's queue, or why there are not `need` of them: wait, or undeclared queue read (R158). -/
def State.queueWords (s : State) (x : QReg) (need : Nat) : Except Exit (CoreId × List Token) :=
  let undeclared : Exit := .trap 0x0C 0 (x.setWidth 64)
  match coreOf s.focus.ctx with
  | none => .error undeclared
  | some k =>
    let ws := ((s.here.core k).queues[x.toNat]'x.isLt).words
    if ws.length < need then (if s.declares k x then .error (.wait s) else .error undeclared) else .ok (k, ws)

/-- Read the head word without removing it (R158). -/
def peekOp (x : QReg) (put : Ctx → Token → Ctx) : State → Out :=
  runGroup .all false fun s => do
    let q ← s.queueWords x 1
    match q.2 with
    | w :: _ => return .on (s.modCur fun c => put c w)
    | [] => return .on s

/-- The removal of a word that came from an ingress stream of a stateless pitch is a numbered event: it happens before the context's
later groups, and the retained token knows it (R278, R382). -/
def State.noteRemoval (s : State) (w : Token) : State :=
  if w.serial = 0 then s
  else
    let n := s.newEvent
    let s : State := { s with
      events := s.events + 1
      pitches := s.pitches.map fun p => { p with ingress := p.ingress.map fun g => { g with retained := g.retained.map fun k =>
        if k.word.serial = w.serial then { k with removed := k.removed ++ [n] } else k } } }
    s.modCur fun c => { c with pts := { c.pts with known := insertNat c.pts.known n } }

/-- TAGIN after the removal of words: the last one's marker and tag (R158); at supervisor level it keeps the user's values (R153; that
R153 prevails over R158 there is DEDUCED, log 24). -/
def Ctx.tagLast (c : Ctx) (ws : List Token) : Ctx :=
  { c with tagin := match c.sup, ws.getLast? with
      | false, some w => (w.mark ++ w.tag).setWidth 32
      | _, _ => c.tagin }

/-- Remove `need` words; TAGIN takes the last one's marker and tag (R153, R158), and the context meets their times (R284). -/
def recvOp (x : QReg) (need : Nat) (put : Ctx → List Token → Ctx) : State → Out :=
  runGroup .all false fun s => do
    let q ← s.queueWords x need
    let ws := q.2.take need
    let s := s.modHere fun t =>
      let c := t.core q.1
      t.setCore q.1 { c with queues := vecMod c.queues x.toNat fun qu => { qu with words := qu.words.drop need } }
    let s := s.modCur fun c => (ws.foldl (fun c w => c.meet w.pts) (put c ws)).tagLast ws
    return .on ((ws.foldl State.noteRemoval s).settle s.focus.rank q.1)

/-- RECV (R157, R158). -/
def execRecv (d : GReg) (x : QReg) (s : State) : Out :=
  recvOp x 1 (fun c ws => c.setG d ((ws.head?.map fun w => w.payload.setWidth 32).getD 0)) s

/-- PEEK (R157, R158). -/
def execPeek (d : GReg) (x : QReg) (s : State) : Out :=
  peekOp x (fun c w => c.setG d (w.payload.setWidth 32)) s

/-- QCNT: never waits, never traps; 0 on the message thread (R157, R158). -/
def execQcnt (d : GReg) (x : QReg) (s : State) : Out :=
  let n := ((coreOf s.focus.ctx).map fun k => ((s.here.core k).queues[x.toNat]'x.isLt).words.length).getD 0
  plain (fun c => c.setG d (BitVec.ofNat 32 n)) s

/-- QFREE: the free staging slots of a port; 0 where it carries no channel (R157, R158). -/
def execQfree (d : GReg) (x : OReg) (s : State) : Out :=
  let n := ((coreOf s.focus.ctx).map fun k =>
    let p := (s.here.core k).ports[x.toNat]'x.isLt
    if p.dests.isEmpty then 0 else p.free).getD 0
  plain (fun c => c.setG d (BitVec.ofNat 32 n)) s

/-- QTAG (R157, R158). -/
def execQtag (d : GReg) (x : QReg) (s : State) : Out := peekOp x (fun c w => c.setG d (w.tag.setWidth 32)) s

/-- QMARK (R157, R158). -/
def execQmark (d : GReg) (x : QReg) (s : State) : Out := peekOp x (fun c w => c.setG d (w.mark.setWidth 32)) s

/-- DROP (R157, R158). -/
def execDrop (x : QReg) (s : State) : Out := recvOp x 1 (fun c _ => c) s

/-- VRECV: sixteen words, two lanes each (R157, R158). -/
def execVrecv (d : VReg) (x : QReg) (s : State) : Out :=
  recvOp x 16 (fun c ws => c.setV d (ofLanes fun j =>
    ((ws[j / 2]?).map fun w => w.payload.extractLsb' (32 * (j % 2)) 32).getD 0)) s

/-- RECVA (R157, R158). -/
def execRecva (d : AReg) (x : QReg) (s : State) : Out :=
  recvOp x 1 (fun c ws => c.setA d ((ws.head?.map fun w => w.payload).getD 0)) s

/-- The shared effect of the sends (R162): refused where the port carries no channel; waits for room, then for release;
places the words, and counts them once for each destination (R144). -/
def sendOp (o : OReg) (words : State → List Token) : State → Out :=
  runGroup .all false fun s =>
    match coreOf s.focus.ctx with
    | none => .error s.refuse
    | some k =>
      let p := (s.here.core k).ports[o.toNat]'o.isLt
      let ws := words s
      if p.dests.isEmpty then .error s.refuse
      else if p.free < ws.length then .error (.wait s)
      else if !s.released then .error (.wait s)
      else
        let s := s.modHere fun t =>
          let c := t.core k
          { t.setCore k { c with ports := vecMod c.ports o.toNat fun p => { p with words := p.words ++ ws } } with
            sent := t.sent + BitVec.ofNat 48 (ws.length * p.dests.length) }
        .ok (.on (s.settle s.focus.rank k))

/-- A word of the running context. -/
def State.word (s : State) (payload : DWord) (tag : Byte) (mark : BitVec 2) : Token :=
  { payload := payload, tag := tag, mark := mark, pts := s.cur.pts }

/-- TAGOUT.TAG (R161). -/
def Ctx.outTag (c : Ctx) : Byte := c.tagout.setWidth 8

/-- SEND (R159, R162). -/
def execSend (d : OReg) (x : GReg) (tag : BitVec 8) (s : State) : Out :=
  sendOp d (fun s => [s.word ((s.cur.getG x).setWidth 64) tag 0]) s

/-- SENDA (R160, R162). -/
def execSenda (d : OReg) (x : AReg) (s : State) : Out :=
  sendOp d (fun s => [s.word (s.cur.getA x) s.cur.outTag 0]) s

/-- VSEND: sixteen words, two lanes each (R160, R162). -/
def execVsend (d : OReg) (x : VReg) (s : State) : Out :=
  sendOp d (fun s => (List.range 16).map fun j => s.word ((s.cur.getV x).extractLsb' (64 * j) 64) s.cur.outTag 0) s

/-- SENDM: the marker of TAGOUT (R160, R162). -/
def execSendm (d : OReg) (x : GReg) (s : State) : Out :=
  sendOp d (fun s => [s.word ((s.cur.getG x).setWidth 64) s.cur.outTag ((s.cur.tagout >>> 8).setWidth 2)]) s

end Sys2Proof.Machine
end

