-- ==== Sys2Proof/Machine/Control.lean ====
section
/-! DEFINITION. Page 0: branches, jumps, the hardware loop, HEND, HALT, NOP and BRK (R94 to R101). -/

namespace Sys2Proof.Machine

/-- A branch on a condition of its context (R94, R95). -/
def branch (taken : Ctx → Bool) (imm : BitVec 64) : State → Out :=
  runGroup .all false fun s => if taken s.cur then takeTarget (s.cur.target imm) s else .ok (.on s)

/-- BEQZ (R94). -/
def execBeqz (x : GReg) (imm : BitVec 64) (s : State) : Out :=
  branch (fun c => let w := c.getG x; w = 0) imm s

/-- BNEZ (R94). -/
def execBnez (x : GReg) (imm : BitVec 64) (s : State) : Out :=
  branch (fun c => let w := c.getG x; w ≠ 0) imm s

/-- BLTZ (R94). -/
def execBltz (x : GReg) (imm : BitVec 64) (s : State) : Out :=
  branch (fun c => let w := c.getG x; w.msb) imm s

/-- BGEZ (R94). -/
def execBgez (x : GReg) (imm : BitVec 64) (s : State) : Out :=
  branch (fun c => let w := c.getG x; !w.msb) imm s

/-- BGTZ (R94). -/
def execBgtz (x : GReg) (imm : BitVec 64) (s : State) : Out :=
  branch (fun c => let w := c.getG x; !w.msb && w ≠ 0) imm s

/-- BLEZ (R94). -/
def execBlez (x : GReg) (imm : BitVec 64) (s : State) : Out :=
  branch (fun c => let w := c.getG x; w.msb || w = 0) imm s

/-- BEQ (R95). -/
def execBeq (x y : GReg) (imm : BitVec 64) (s : State) : Out :=
  branch (fun c => let a := c.getG x; let b := c.getG y; a = b) imm s

/-- BNE (R95). -/
def execBne (x y : GReg) (imm : BitVec 64) (s : State) : Out :=
  branch (fun c => let a := c.getG x; let b := c.getG y; a ≠ b) imm s

/-- BLT (R95). -/
def execBlt (x y : GReg) (imm : BitVec 64) (s : State) : Out :=
  branch (fun c => let a := c.getG x; let b := c.getG y; a.slt b) imm s

/-- BGE (R95). -/
def execBge (x y : GReg) (imm : BitVec 64) (s : State) : Out :=
  branch (fun c => let a := c.getG x; let b := c.getG y; !a.slt b) imm s

/-- BLTU (R95). -/
def execBltu (x y : GReg) (imm : BitVec 64) (s : State) : Out :=
  branch (fun c => let a := c.getG x; let b := c.getG y; a.ult b) imm s

/-- BGEU (R95). -/
def execBgeu (x y : GReg) (imm : BitVec 64) (s : State) : Out :=
  branch (fun c => let a := c.getG x; let b := c.getG y; !a.ult b) imm s

/-- J (R96). -/
def execJ (imm : BitVec 64) (s : State) : Out :=
  runGroup .all false (fun s => takeTarget (s.cur.target imm) s) s

/-- JAL: lr is written only if the jump does not fault (R96). -/
def execJal (imm : BitVec 64) (s : State) : Out :=
  runGroup .all false (fun s => takeTarget (s.cur.target imm) (s.modCur fun c => c.setG 62 s.link)) s

/-- JR (R97). -/
def execJr (x : GReg) (s : State) : Out :=
  runGroup .all false (fun s => registerTarget (s.cur.getG x) s) s

/-- JALR: to the old value of g[x] (R97). -/
def execJalr (d x : GReg) (s : State) : Out :=
  runGroup .all false (fun s => registerTarget (s.cur.getG x) (s.modCur fun c => c.setG d s.link)) s

/-- RET (R97). -/
def execRet  (s : State) : Out :=
  runGroup .all false (fun s => registerTarget (s.cur.getG 62) s) s

/-- NOP (R97). -/
def execNop  (s : State) : Out :=
  plain (fun c => c) s

/-- BRK: breakpoint (R97). -/
def execBrk  (s : State) : Out :=
  runGroup .all false (fun _ => .error (.trap 0x24 0 0)) s

/-- LOOP: pushes the body that follows, or skips it at count 0 (R100). -/
def execLoop (d : GReg) (len : BitVec 8) (s : State) : Out :=
  runGroup .all false (fun s =>
    let start := s.after
    let stop := start + 2 * len.toNat
    let n := s.cur.getG d
    if 2 ≤ s.cur.loops.length then .error s.refuse
    else if (match s.cur.loops with | e :: _ => decide (e.stop < stop) | [] => false) then .error s.refuse
    else if n = 0 then .ok (.skip s stop)
    else .ok (.on (s.modCur fun c => { c with loops := ⟨start, stop, n⟩ :: c.loops }))) s

end Sys2Proof.Machine
end

