-- ==== Sys2Proof/Machine/Engines.lean ====
section
/-! DEFINITION. The copy engine and rings (R314 to R323, R339 to R344). -/

namespace Sys2Proof.Machine

/-! ## Nest descriptors (R315) -/

/-- Field of a descriptor: `w` bits from byte `b`. -/
def descField (d : BitVec 512) (b w : Nat) : Nat := natField d.toNat (8 * b) w

/-- The bytes of an element. -/
def descSize (d : BitVec 512) : Nat := 2 ^ descField d 0 3

/-- Loop count `i`. -/
def descCount (d : BitVec 512) (i : Nat) : Nat := descField d (4 + 4 * i) 32

/-- Signed source and destination strides. -/
def descSS (d : BitVec 512) (i : Nat) : DWord := (BitVec.ofNat 32 (descField d (20 + 4 * i) 32)).signExtend 64
def descDS (d : BitVec 512) (i : Nat) : DWord := (BitVec.ofNat 32 (descField d (36 + 4 * i) 32)).signExtend 64

/-- The semaphore to signal, when the descriptor signals one. -/
def descSig (d : BitVec 512) : Option SemReg :=
  if (BitVec.ofNat 8 (descField d 2 8)).getLsbD 7 then some (BitVec.ofNat 5 (descField d 2 5)) else none

/-- The descriptor breaks R315: a nonzero reserved bit, or ESIZE 7. -/
def descBad (d : BitVec 512) : Bool :=
  descField d 0 3 == 7 || natField d.toNat 3 5 != 0 || descField d 1 8 != 0 || natField d.toNat 21 2 != 0 ||
    descField d 3 8 != 0 || descField d 52 96 != 0

/-- The element at counters: its offset under four strides (R316). -/
def nestOffset (stride : Nat → DWord) (c : CopyCmd) : DWord :=
  BitVec.ofNat 64 c.i0 * stride 0 + BitVec.ofNat 64 c.i1 * stride 1 + BitVec.ofNat 64 c.i2 * stride 2 +
    BitVec.ofNat 64 c.i3 * stride 3

/-- Nothing is left to move (R316): the outer count has run out, or some count is 0. -/
def CopyCmd.exhausted (c : CopyCmd) : Bool :=
  descCount c.desc 0 == 0 || descCount c.desc 1 == 0 || descCount c.desc 2 == 0 || decide (descCount c.desc 3 ≤ c.i3)

/-- The counters after an element, the innermost first; past the last element they are 0, 0, 0 and N3 (R321). -/
def CopyCmd.advance (c : CopyCmd) : CopyCmd :=
  if c.i0 + 1 < descCount c.desc 0 then { c with i0 := c.i0 + 1 }
  else if c.i1 + 1 < descCount c.desc 1 then { c with i0 := 0, i1 := c.i1 + 1 }
  else if c.i2 + 1 < descCount c.desc 2 then { c with i0 := 0, i1 := 0, i2 := c.i2 + 1 }
  else { c with i0 := 0, i1 := 0, i2 := 0, i3 := c.i3 + 1 }

/-- The counters of a stop at the completion signal (R321). -/
def CopyCmd.atSignal (c : CopyCmd) : CopyCmd := { c with i0 := 0, i1 := 0, i2 := 0, i3 := descCount c.desc 3 }

/-! ## Ring descriptors (R322) -/

/-- The ring that a descriptor's bytes give; none when a field breaks R322. -/
def ringOf (t : Tile) (place : Nat) (d : BitVec 128) : Option (RingRef × Nat × Nat) :=
  let f (b w : Nat) := natField d.toNat (8 * b) w
  let base := f 0 32
  let slot := f 4 16
  let count := f 6 16
  let wix := f 10 16
  let rix := f 12 16
  if base % 16 ≠ 0 ∨ slot % 16 ≠ 0 ∨ slot = 0 ∨ count = 0 ∨ 1024 < count ∨ 32 ≤ f 8 8 ∨ 32 ≤ f 9 8 ∨ count ≤ wix ∨ count ≤ rix ∨
      f 14 16 ≠ 0 ∨ f 8 8 = f 9 8 ∨ t.scratchSize < base + slot * count then none
  else some (⟨place, base, slot, count, BitVec.ofNat 5 (f 8 8), BitVec.ofNat 5 (f 9 8)⟩, wix, rix)

/-- The ring at a scratch offset, checked (R340). -/
def State.ringAt (s : State) (o : Nat) : Except Exit (RingRef × Nat × Nat) := do
  s.scratchOffset o 16 16
  match ringOf s.here o (s.scratchRead 128 o 16) with
  | some r => return r
  | none => throw s.refuse

/-! ## Issue (R340 to R344) -/

/-- CPY and CPYR: the checks, the wait for an entry, the entry (R314, R340). -/
def issueCopy (x : AReg) (y : GReg) (dst : State → DWord) (ring : State → Except Exit (Option RingRef)) : State → Out :=
  runGroup .stage false fun s => do
    let o := (s.cur.getG y).toNat
    s.scratchOffset o 64 64
    let desc : BitVec 512 := s.scratchRead 512 o 64
    if descBad desc then throw s.refuse
    let g ← ring s
    if 8 ≤ s.here.copy.queue.length then throw (.wait s)
    let buffer := g.isNone && (match spaceOf (dst s) with
      | some (.buffer _ _) => true
      | _ => false)
    return .on ((s.modHere fun t => { t with copy := { t.copy with
      pts := maxTime t.copy.pts s.cur.pts.time
      queue := t.copy.queue ++ [{ ctx := s.focus.ctx, desc := desc, src := s.cur.getA x, dst := dst s, ring := g
                                  known := s.cur.pts.known, born := s.newEvent }] } }).numbered buffer)

/-- CPY (R340). -/
def execCpy (d x : AReg) (y : GReg) (s : State) : Out := issueCopy x y (fun s => s.cur.getA d) (fun _ => .ok none) s

/-- CPYR (R340). -/
def execCpyr (d : GReg) (x : AReg) (y : GReg) (s : State) : Out :=
  issueCopy x y (fun _ => 0) (fun s => (s.ringAt (s.cur.getG d).toNat).map fun g => some g.1) s

/-- CPYW: the context meets the engine's time (R341). -/
def execCpyw (x : GReg) (s : State) : Out :=
  runGroup .stage false (fun s =>
    if (s.cur.getG x).toNat < s.here.copy.queue.length then .error (.wait s)
    else .ok (.on (let p := s.here.copy.pts; s.modCur (·.meetTime p)))) s

/-- A status word of the engine (R342). -/
def CopyEngine.status (e : CopyEngine) (n : Nat) : Word :=
  let head := e.queue.head?
  let waits := e.stop.isNone && (head.map fun c => c.ring.isSome && c.taken.isNone).getD false
  let runs := e.stop.isNone && (head.map fun c => c.ring.isNone || c.taken.isSome).getD false
  let counter (f : CopyCmd → Nat) : Word := if e.stop.isSome then BitVec.ofNat 32 ((head.map f).getD 0) else 0
  match n with
  | 0 => e.done ++ e.cause ++ 0#4 ++ BitVec.ofBool e.stop.isSome ++ 0#1 ++ BitVec.ofBool waits ++ BitVec.ofBool runs ++ 0#4 ++
      BitVec.ofNat 4 e.queue.length
  | 1 => counter (·.i0)
  | 2 => counter (·.i1)
  | 3 => counter (·.i2)
  | 4 => counter (·.i3)
  | 5 => (e.stop.getD 0).setWidth 32
  | _ => (e.stop.getD 0 >>> 32).setWidth 32

/-- CPYS (R342). -/
def execCpys (d x : GReg) (s : State) : Out :=
  runGroup .stage false (fun s =>
    let n := (s.cur.getG x).toNat
    if 7 ≤ n then .error s.refuse
    else .ok (.on (let w := s.here.copy.status n; s.modCur fun c => c.setG d w))) s

/-- The head leaves with no signal (R343). -/
def CopyEngine.cancel (e : CopyEngine) : CopyEngine :=
  { e with queue := e.queue.tail, stop := none, done := e.done + 1 }

/-- Every command leaves with no signal (R343). -/
def CopyEngine.flush (e : CopyEngine) : CopyEngine :=
  { e with queue := [], stop := none, done := e.done + BitVec.ofNat 8 e.queue.length }

/-- CPYX: the action that g[x] names. Its three rows of the opcode table share their words, so each does what the action
says (R343). -/
def cpyx (x : GReg) : State → Out :=
  runGroup .stage false fun s =>
    let a := (s.cur.getG x).toNat
    if 2 < a ∨ (a ≠ 2 ∧ s.here.copy.stop.isNone) then .error s.refuse
    else .ok (.on (s.modHere fun t => { t with copy :=
      if a = 0 then { t.copy with stop := none } else if a = 1 then t.copy.cancel else t.copy.flush }))

/-- CPYX, action 0 (R343). -/
def execCpyxResume (x : GReg) (s : State) : Out := cpyx x s
/-- CPYX, action 1 (R343). -/
def execCpyxCancel (x : GReg) (s : State) : Out := cpyx x s
/-- CPYX, action 2 (R343). -/
def execCpyxFlush (x : GReg) (s : State) : Out := cpyx x s

/-- RINGB: wait for a filled slot, take it, acquire (R344). -/
def execRingb (d x : GReg) (s : State) : Out :=
  runGroup .stage false (fun s => do
    let g ← s.ringAt (s.cur.getG x).toNat
    let m := s.here.sem g.1.filled
    if m.count = 0 then throw (.wait s)
    let s' := (s.modHere fun t => t.modSem g.1.filled fun m => { m with count := m.count - 1 }).store
      (sramKey s.focus.rank .scratch (g.1.place + 12)) 2 (BitVec.ofNat 16 ((g.2.2 + 1) % g.1.count))
    return .on (s'.modCur fun c => (c.meet m.pts).setG d (BitVec.ofNat 32 (g.1.base + g.2.2 * g.1.slot)))) s

/-- RINGQ (R344). -/
def execRingq (d x : GReg) (s : State) : Out :=
  runGroup .stage false (fun s => do
    let g ← s.ringAt (s.cur.getG x).toNat
    let w : Word := BitVec.ofNat 32 (g.2.2 * 65536) ||| (s.here.sem g.1.filled).count.setWidth 32
    return .on (s.modCur fun c => c.setG d w)) s

/-! ## The engine at work (R316 to R321, R323) -/

/-- Change the copy engine of a tile. -/
def State.modCopy (s : State) (r : Nat) (f : CopyEngine → CopyEngine) : State :=
  s.modTile r fun t => { t with copy := f t.copy }

/-- Change the head command. -/
def State.modHead (s : State) (r : Nat) (f : CopyCmd → CopyCmd) : State :=
  s.modCopy r fun e => { e with queue := match e.queue with
    | c :: cs => f c :: cs
    | [] => [] }

/-- The head stops with an underlying code and an address, to be reported once (R318 to R320). Bad data ends in a fatal record of the
engine besides (R373, R374; DEDUCED, log 29). -/
def State.copyStop (s : State) (r : Nat) (code : Byte) (value : DWord) : State :=
  let s := if fatalCause code then s.post r (s.hwRecord r none code 0 value true false 0) else s
  s.modCopy r fun e => { e with stop := some value, cause := code, report := e.report ++ [(code, value)] }

/-- What the walk of a check that fails has met at a fly (R369, R371). -/
def State.copyWalked (s : State) (r : Nat) (u : Purpose) (ea : DWord) (code : Byte) : State :=
  if ofPage code && s.targetMeets r u ea then s.targetRead r u ea else s

/-- A pre-emption has stopped the tile's copy engine: its dispatch is stopped, and its contexts have come to the end of their firings
(R386). -/
def Tile.engineHeld (t : Tile) : Bool :=
  let runs (c : Ctx) : Bool := c.run == .running
  t.held && !(runs t.s || runs t.c || runs t.m)

/-- The head command of a tile that may go on: not stopped, the accesses of its context performed (R290), the tile's clock running
(R416). -/
def State.copyHead (s : State) (r : Nat) : Option CopyCmd :=
  let t := s.tile r
  match t.copy.queue.head? with
  | none => none
  | some c =>
    if t.copy.stop.isNone && !t.struck && t.clocked && !t.engineHeld && (t.ctx c.ctx).storing.isEmpty &&
        (t.ctx c.ctx).posted.isEmpty then some c else none

/-- The destination pointer: of a ring command, its slot (R323). -/
def CopyCmd.base (c : CopyCmd) : DWord := c.taken.getD c.dst

/-- The element lies in the slot that a ring command has taken (R323). -/
def CopyCmd.inSlot (c : CopyCmd) (ed : DWord) : Bool :=
  match c.ring with
  | none => true
  | some g => decide (c.base.toNat ≤ ed.toNat) && decide (ed.toNat + descSize c.desc ≤ c.base.toNat + g.slot)

/-- The bytes read of an element, at its home, in pieces of at most 16 bytes, as `seen` shows them; the engine's time meets theirs
(R284, R316). -/
def State.copyRead (s : State) (r : Nat) (es : DWord) (t : Target) (size : Nat) (seen : Mem) : State × List Byte :=
  let met : DWord :=
    match spaceOf es with
    | some (.buffer h _) => ((((s.tile r).pitch.bind s.pitch?).bind fun p => p.handles[h]?).map (·.pts.time)).getD 0
    | _ => 0
  let s := s.modCopy r fun e => { e with pts := maxTime e.pts met }
  let st := s.stampRead (t.homeFrom r) t.key (s.tile r).copy.pts 0
  (st.1.modCopy r fun e => { e with pts := maxTime e.pts st.2.1 }, seen.bytes t.key size)

/-- The bytes written of an element (R287, R316). -/
def State.copyWrite (s : State) (r : Nat) (ed : DWord) (t : Target) (bytes : List Byte) : State :=
  let pts := (s.tile r).copy.pts
  let w := match spaceOf ed with
    | some (.buffer h off) => s.writeShadow r h off bytes pts
    | _ => (List.range ((bytes.length + 15) / 16)).foldl (fun (e : State × DWord) j =>
        let piece := (bytes.drop (16 * j)).take 16
        e.1.performWrite r (t.key + 16 * j) piece.length (BitVec.ofNat 128 (natOfBytes piece)) ⟨e.2, []⟩ (r, none)) (s, pts)
  w.1.modCopy r fun e => { e with pts := maxTime e.pts w.2 }

/-- One element (R316, R318): checked, read whole, written; or the command stops before it. A translation that is not there yet and a
remap that holds a bank make it wait (R370, R394); its granules cross the pole (R369, R371); a read that fails at its second-tier port
is bad data, of which the home posts a record (R442). -/
def State.copyElement (s : State) (r : Nat) (c : CopyCmd) : State :=
  let size := descSize c.desc
  let es := c.src + nestOffset (descSS c.desc) c
  let ed := c.base + nestOffset (descDS c.desc) c
  if s.targetDue r .engineRead es || s.targetDue r .engineWrite ed then s
  else
  match s.checkAccess r false .engineRead es size with
  | .error code => (s.copyWalked r .engineRead es code).copyStop r code es
  | .ok from' =>
    match s.checkAccess r false .engineWrite ed size with
    | .error code => (s.copyWalked r .engineWrite ed code).copyStop r code ed
    | .ok to' =>
      if !c.inSlot ed then s.copyStop r 0x06 ed
      else if s.bankHeld from'.key || s.bankHeld to'.key then s
      else
        let e := s.readSeen from'.key size
        if s.portFails (from'.homeFrom r) from'.key then (s.failPort (from'.homeFrom r) from'.key (r, none)).copyStop r 0x21 es
        else if e.1.poisoned from'.key size then e.1.copyStop r (badCode from'.key) es
        else
        let d := e.1.copyRead r es from' size e.2
        (d.1.copyWrite r ed to' d.2).modHead r CopyCmd.advance

/-- COPY_ELEMENT (R316). -/
def execCopyElement (r : Nat) (s : State) : Out :=
  match s.copyHead r with
  | none => .next s
  | some c => event s (!c.exhausted && (c.ring.isNone || c.taken.isSome)) fun s => s.copyElement r c

/-- CPYR_SLOT_TAKE: the head takes the next slot of its ring once FREE allows it; a WIX that is bad data stops it (R323, R373). -/
def execCpyrSlotTake (r : Nat) (s : State) : Out :=
  match s.copyHead r with
  | none => .next s
  | some c =>
    match c.ring with
    | none => .next s
    | some g =>
      let m := (s.tile r).sem g.free
      event s (c.taken.isNone && m.count != 0) fun s =>
        let key := sramKey r .scratch (g.place + 10)
        let wix := s.mem.readNat key 2
        if s.poisoned key 2 then s.copyStop r 0x20 (scratchPtr r (g.place + 10))
        else
        (((s.modTile r fun t => t.modSem g.free fun m => { m with count := m.count - 1 }).modCopy r fun e =>
          { e with pts := maxTime e.pts m.pts.time }).modHead r fun c => { c with taken := some (scratchPtr r (g.base + wix * g.slot)) })

/-- The head leaves the queue as completed. -/
def CopyEngine.finish (e : CopyEngine) : CopyEngine := { e with queue := e.queue.tail, done := e.done + 1 }

/-- The completion signal, and the completion; a signal that would overflow stops the command instead (R321). -/
def State.copySignal (s : State) (r : Nat) (sem : SemReg) : State :=
  let known := (((s.tile r).copy.queue.head?).map (·.known)).getD []
  match ((s.tile r).sem sem).add 1 ⟨(s.tile r).copy.pts, known⟩ with
  | some m => (s.modTile r fun t => t.modSem sem fun _ => m).modCopy r CopyEngine.finish
  | none => (s.modHead r fun c => { c.atSignal with signalDue := true }).copyStop r 0x0E (sem.setWidth 64)

/-- COPY_COMMAND_COMPLETE: every element is written; the ring's WIX moves on, unless it is bad data (R373); the signal (R316, R321, R323). -/
def execCopyCommandComplete (r : Nat) (s : State) : Out :=
  match s.copyHead r with
  | none => .next s
  | some c => event s (c.exhausted && (c.ring.isNone || c.taken.isSome)) fun s =>
      match c.ring with
      | none =>
        (match descSig c.desc with
         | some sem => s.copySignal r sem
         | none => s.modCopy r CopyEngine.finish)
      | some g =>
        let key := sramKey r .scratch (g.place + 10)
        let wix := s.mem.readNat key 2
        if c.signalDue then s.copySignal r g.filled
        else if s.poisoned key 2 then s.copyStop r 0x20 (scratchPtr r (g.place + 10))
        else (s.store key 2 (BitVec.ofNat 16 ((wix + 1) % g.count))).copySignal r g.filled

/-- COPY_FAULT_TRAP: a stop not yet reported traps the S core: at its next user-level group, or at once from dispatch or halt
(R320); a stretched group, and one whose returning atomic is performed, commit first (R291, R358). -/
def execCopyFaultTrap (r : Nat) (s : State) : Out :=
  let t := s.tile r
  match t.copy.report with
  | [] => .next s
  | (code, value) :: rest =>
    let taken (s : State) := s.modCopy r fun e => { e with report := rest }
    match t.s.run with
    | .running =>
      event s (!t.s.sup && decide (t.s.replays < 8) && !s.bound r .s && t.clocked) fun s =>
        ((taken s).withdraw r .s).trap r .s 0x30 code value (s.focusOn r .s).groupLen false
    | .dispatch | .halted => event s (!t.s.sup && t.clocked) fun s => (taken s).trap r .s 0x30 code value 0 true
    | .stopped => .next s

end Sys2Proof.Machine
end

