-- ==== Sys2Proof/Machine/Float.lean ====
section
/-! DEFINITION. Page 0: scalar floating point (R112 to R116). -/

namespace Sys2Proof.Machine

/-- g[d] := a floating result of sources read before; flags at K; the check counted when it is skipped (R112, R365). -/
def floatOp (d : GReg) (f : Ctx → FRes) (skip : Ctx → Bool) : State → Out :=
  runGroup .all false fun s =>
    let r := f s.cur
    .ok (.on ((s.modCur fun c => (c.setG d (BitVec.ofNat 32 r.bits)).raise r.flags).countSkip (skip s.cur) |>.unchecked (skip s.cur)))

/-- A two-operand operation of the sum, product or ratio class (R113, R114, R364). -/
def float2 (d x y : GReg) (f : ArithMode → Nat → Nat → FRes) : State → Out :=
  floatOp d (fun c => f c.plainMode (c.getG x).toNat (c.getG y).toNat) fun c =>
    skipsCheck .f32 c.plainMode.daz [(c.getG x).toNat, (c.getG y).toNat]
      (f c.plainMode (c.getG x).toNat (c.getG y).toNat)

/-- A comparison: 1 or 0 (R114). -/
def floatCompare (d x y : GReg) (k : FCmp) : State → Out :=
  floatOp d (fun c =>
      let r := FFmt.f32.compare k c.plainMode.daz (c.getG x).toNat (c.getG y).toNat
      ⟨r.1.toNat, r.2⟩)
    fun c => skipsCompare .f32 c.plainMode.daz [(c.getG x).toNat, (c.getG y).toNat]

/-- A one-operand operation of the duplicate class (R115, R364). -/
def float1 (d x : GReg) (f : ArithMode → Nat → FRes) : State → Out :=
  floatOp d (fun c => f c.plainMode (c.getG x).toNat) fun _ => false

/-- The class bit of FCLASS, by sign, exponent and fraction (R116). -/
def fclass (w : Word) : Word :=
  let neg := w.getLsbD 31
  match FFmt.f32.decode w.toNat with
  | .nan _ _ sig => if sig then 0x100 else 0x200
  | .inf _ => if neg then 0x001 else 0x080
  | .fin v =>
    if v.isZero then (if neg then 0x008 else 0x010)
    else if FFmt.f32.isSubnormal w.toNat then (if neg then 0x004 else 0x020)
    else if neg then 0x002 else 0x040

/-- A conversion whose result is exact: no flag (R81, R115). -/
def FRes.exact (r : FRes) : FRes := { r with flags := 0 }

/-- FADD (R113). -/
def execFadd (d x y : GReg) (s : State) : Out :=
  float2 d x y FFmt.f32.add s

/-- FSUB (R113). -/
def execFsub (d x y : GReg) (s : State) : Out :=
  float2 d x y FFmt.f32.sub s

/-- FMUL (R113). -/
def execFmul (d x y : GReg) (s : State) : Out :=
  float2 d x y FFmt.f32.mul s

/-- FFMA: one rounding; the addend is the old g[d] (R113). -/
def execFfma (d x y : GReg) (s : State) : Out :=
  floatOp d (fun c => FFmt.f32.fma c.plainMode (c.getG x).toNat (c.getG y).toNat (c.getG d).toNat)
    (fun c => skipsCheck .f32 c.plainMode.daz [(c.getG x).toNat, (c.getG y).toNat, (c.getG d).toNat]
      (FFmt.f32.fma c.plainMode (c.getG x).toNat (c.getG y).toNat (c.getG d).toNat)) s

/-- FMIN (R114). -/
def execFmin (d x y : GReg) (s : State) : Out :=
  float2 d x y (FFmt.f32.minMax false) s

/-- FMAX (R114). -/
def execFmax (d x y : GReg) (s : State) : Out :=
  float2 d x y (FFmt.f32.minMax true) s

/-- FDIV (R114). -/
def execFdiv (d x y : GReg) (s : State) : Out :=
  float2 d x y FFmt.f32.div s

/-- FEQ (R114). -/
def execFeq (d x y : GReg) (s : State) : Out :=
  floatCompare d x y .eq s

/-- FLT (R114). -/
def execFlt (d x y : GReg) (s : State) : Out :=
  floatCompare d x y .lt s

/-- FLE (R114). -/
def execFle (d x y : GReg) (s : State) : Out :=
  floatCompare d x y .le s

/-- FUN (R114). -/
def execFun (d x y : GReg) (s : State) : Out :=
  floatCompare d x y .un s

/-- FSGN: a bit operation (R114). -/
def execFsgn (d x y : GReg) (s : State) : Out :=
  plain (fun c => c.setG d ((c.getG x &&& 0x7FFFFFFF) ||| (c.getG y &&& 0x80000000))) s

/-- FSQRT (R115). -/
def execFsqrt (d x : GReg) (s : State) : Out :=
  float1 d x FFmt.f32.sqrt s

/-- FABS: a bit operation (R115). -/
def execFabs (d x : GReg) (s : State) : Out :=
  plain (fun c => c.setG d (c.getG x &&& 0x7FFFFFFF)) s

/-- FNEG: a bit operation (R115). -/
def execFneg (d x : GReg) (s : State) : Out :=
  plain (fun c => c.setG d (c.getG x ^^^ 0x80000000)) s

/-- FCLASS (R116). -/
def execFclass (d x : GReg) (s : State) : Out :=
  plain (fun c => c.setG d (fclass (c.getG x))) s

/-- FCVTWS: FP32 to I32 (R81, R115). -/
def execFcvtws (d x : GReg) (s : State) : Out :=
  float1 d x (fun m a => floatToInt 32 true m.rm (FFmt.f32.input m.daz a)) s

/-- FCVTUS: FP32 to U32 (R81, R115). -/
def execFcvtus (d x : GReg) (s : State) : Out :=
  float1 d x (fun m a => floatToInt 32 false m.rm (FFmt.f32.input m.daz a)) s

/-- FCVTSW: I32 to FP32 (R81, R115). -/
def execFcvtsw (d x : GReg) (s : State) : Out :=
  float1 d x (fun m a => FFmt.f32.convertTo m (.fin (Ex.ofInt (BitVec.ofNat 32 a).toInt))) s

/-- FCVTSU: U32 to FP32 (R81, R115). -/
def execFcvtsu (d x : GReg) (s : State) : Out :=
  float1 d x (fun m a => FFmt.f32.convertTo m (.fin (Ex.ofNat a))) s

/-- FCVTBS: FP32 to BF16, the one scalar rounding that may be stochastic (R78, R81, R115). -/
def execFcvtbs (d x : GReg) (s : State) : Out :=
  runGroup .all false (fun s =>
    let c := s.cur
    let v := FFmt.f32.input c.mode.daz (c.getG x).toNat
    let r := FFmt.bf16.convertTo c.mode v
    let seed := if c.stochastic && FFmt.bf16.takesBits v then lfsrSteps 16 c.srseed else c.srseed
    .ok (.on (s.modCur fun c => { (c.setG d (BitVec.ofNat 32 r.bits)).raise r.flags with srseed := seed }))) s

/-- FCVTSB: BF16 to FP32, exact and without a flag (R115). With FTZ a subnormal result is flushed to zero, by R73, and no flag is set
(DEDUCED, log 26). -/
def execFcvtsb (d x : GReg) (s : State) : Out :=
  float1 d x (fun m a => (FFmt.f32.convertTo m (FFmt.bf16.input m.daz (a % 65536))).exact) s

/-- FEXP2 (R82, R115). -/
def execFexp2 (d x : GReg) (s : State) : Out :=
  float1 d x (fun m a => FFmt.f32.special1 m .exp2 a) s

/-- FLOG2 (R82, R115). -/
def execFlog2 (d x : GReg) (s : State) : Out :=
  float1 d x (fun m a => FFmt.f32.special1 m .log2 a) s

/-- FRCP (R82, R115). -/
def execFrcp (d x : GReg) (s : State) : Out :=
  float1 d x (fun m a => FFmt.f32.special1 m .rcp a) s

/-- FRSQ (R82, R115). -/
def execFrsq (d x : GReg) (s : State) : Out :=
  float1 d x (fun m a => FFmt.f32.special1 m .rsq a) s

end Sys2Proof.Machine
end

