-- ==== Sys2Proof/Machine/HostEdge.lean ====
section
/-! DEFINITION. The host edge: ingress queues and their records, egress portals, the control registers that the host writes,
attestation (R12, R137, R141, R142, R422, R432 to R441, R444 to R446, R449). -/

namespace Sys2Proof.Machine

/-! ## Tokens (R434, R436 to R438) -/

/-- Bytes `b` to `b + n − 1` of a list as a number. -/
def fieldOfBytes (bs : List Byte) (b n : Nat) : Nat := natOfBytes ((bs.drop b).take n)

/-- A token's form is right: the marker's upper bits and bytes 10 to 15 are zero. -/
def tokenOk (bs : List Byte) : Bool := fieldOfBytes bs 9 1 < 4 && fieldOfBytes bs 10 6 == 0

/-- The token of 16 bytes. -/
def tokenOf (bs : List Byte) : Token :=
  { payload := BitVec.ofNat 64 (fieldOfBytes bs 0 8), tag := BitVec.ofNat 8 (fieldOfBytes bs 8 1)
    mark := BitVec.ofNat 2 (fieldOfBytes bs 9 1) }

/-- The 16 bytes of a token. -/
def tokenBytes (w : Token) : List Byte := bytesOfNat 8 w.payload.toNat ++ [w.tag, w.mark.setWidth 8] ++ bytesOfNat 6 0

/-- Words enter the edge buffer of a stream. -/
def State.toStream (s : State) (id : PitchId) (k : Nat) (ws : List (Option Nat × Token)) : State :=
  s.modPitch id fun p => { p with ingress := vecMod p.ingress k fun g => { g with words := g.words ++ ws } }

/-- The pitch that a queue feeds has been struck (R140). -/
def State.fedStruck (s : State) (h : HostQueue) : Bool :=
  match h.stream.bind fun e => s.pitch? e.1 with
  | some p => p.state == .struck
  | none => false

/-- Other queues are bound to the same stream (R436). -/
def State.otherBound (s : State) (q : Nat) (h : HostQueue) : Bool :=
  match h.stream with
  | some (id, k) => match (s.pitch? id).bind fun p => p.ingress[k]? with
    | some g => g.bound.any (· ≠ q)
    | none => false
  | none => false

/-- One token is written to a queue (R436, R437). -/
def State.takeToken (s : State) (q : Nat) (w : Token) : State :=
  let h := s.hostQueue q
  match h.state with
  | .refused => s
  | .idle | .closed => s.queueErr q 4
  | .bound =>
    if s.fedStruck h then s.queueErr q 9
    else if h.credit = 0 then s.queueErr q 3
    else if w.mark = 3 ∧ s.otherBound q h then
      (s.unbind q).modQueue q fun h => { h with state := .idle, stream := none }
    else
      let s := (if w.mark = 3 then s.unbind q else s).modQueue q fun h => { h with
        credit := h.credit - 1, state := if w.mark = 3 then .closed else .bound
        early := if h.stream.isNone then h.early ++ [w] else h.early }
      match h.stream with
      | some (id, k) => s.toStream id k [(some q, w)]
      | none => s

/-- Cut bytes into tokens. -/
def tokensOf (bs : List Byte) : List (List Byte) := (List.range (bs.length / 16)).map fun i => (bs.drop (16 * i)).take 16

/-- A write of tokens at an offset of the window (R434): 16, 32 or 64 bytes, naturally aligned; any other form is dropped and sets
ERR 4. -/
def State.writeTokens (s : State) (q off : Nat) (bs : List Byte) : State :=
  if (bs.length = 16 ∨ bs.length = 32 ∨ bs.length = 64) ∧ off < 64 ∧ off % bs.length = 0 ∧ (tokensOf bs).all tokenOk then
    (tokensOf bs).foldl (fun s t => s.takeToken q (tokenOf t)) s
  else s.queueErr q 4

/-! ## Configuration records (R435) -/

/-- `w` bits from byte `b` of a record. -/
def recField (rd : BitVec 512) (b w : Nat) : Nat := natField rd.toNat (8 * b) w
def recCfg (rd : BitVec 512) : Nat := recField rd 0 16
def recOp (rd : BitVec 512) : Nat := recField rd 2 8
def recClass (rd : BitVec 512) : Nat := recField rd 3 2
def recStream (rd : BitVec 512) : Nat := recField rd 4 8
def recInst (rd : BitVec 512) : Nat := recField rd 8 16

/-- The record is well formed. -/
def recordOk (rd : BitVec 512) : Bool :=
  decide (recOp rd ≤ 3) && decide (recField rd 3 8 < 4) && decide (recStream rd < 16) && decide (recField rd 5 8 ≤ 3) &&
  recField rd 6 16 == 0 && (recOp rd != 0 || recInst rd == 0) && recField rd 10 48 == 0 && recField rd 40 192 == 0

/-- The parameter words of a record, as tokens with tag 0xFF. -/
def recParams (rd : BitVec 512) : List (Option Nat × Token) :=
  (List.range (recField rd 5 8)).map fun j =>
    (none, { payload := BitVec.ofNat 64 (recField rd (16 + 8 * j) 64), tag := 0xFF, mark := 0 })

/-- The bytes of a record. -/
def recBytes (rd : BitVec 512) : List Byte := bytesOfNat 64 rd.toNat

/-- Bind a queue to a stream, its parameter words and the tokens that came early in the edge buffer (R435, R436). -/
def State.bindQueue (s : State) (q : Nat) (id : PitchId) (k : Nat) (rd : BitVec 512) : State :=
  let early := (s.hostQueue q).early
  let closed := (s.hostQueue q).state == .closed
  let s := s.modPitch id fun p => { p with ingress := vecMod p.ingress k fun g =>
    { g with used := true, bound := if closed then g.bound else g.bound ++ [q], words := g.words ++ recParams rd ++ early.map fun w => (some q, w) } }
  s.modQueue q fun h => { h with
    state := if closed then .closed else .bound, stream := some (id, k), record := none, early := [] }

/-! ## Portals (R439) -/

/-- An address in the host range, aligned. -/
def hostAddress (a : DWord) (align : Nat) : Bool :=
  a.toNat % align == 0 && decide (hostBase ≤ a.toNat) && decide (a.toNat < 2 ^ 52)

/-- The ring length is a power of two from 1 to 2^24. -/
def ringLength (n : Nat) : Bool := (List.range 25).any fun i => n == 2 ^ i

/-- A portal entry can serve an egress channel, as far as its load tells. -/
def portalOk (atomcap : BitVec 6) (e : Portal) : Bool :=
  match e.mode.toNat with
  | 1 => hostAddress e.haddr 16 && ringLength e.ring.toNat
  | 2 => hostAddress e.haddr 8 && decide (e.op.toNat ≤ 5) && atomcap.getLsbD e.op.toNat
  | _ => false

/-- Every egress channel of an image finds a portal entry that can serve it. -/
def State.portalsOk (s : State) (im : Image) (base : Nat) : Bool :=
  (List.range 16).all fun k =>
    !(im.channels.any fun c => c.dests.contains (.egress k)) || portalOk s.atomcap (assocGet {} s.portals (base + k))

/-! ## Launches (R137, R141, R142, R152, R435) -/

/-- The next launch instance of a configuration id: 1, 2 and so on, 0xFFFF followed by 1. -/
def State.nextInst (s : State) (cfg : Nat) : Nat := let n := assocGet 0 s.launches cfg; if n = 65535 then 1 else n + 1

/-- A new pitch instance of an image, in state QUEUED. -/
def State.addPitch (s : State) (im : Image) (cls portal : Nat) : State × Pitch :=
  let inst := s.nextInst im.cfg
  let p : Pitch := {
    id := ⟨im.cfg, inst⟩, image := im, cls := cls, age := s.born, portal := portal
    handles := im.buffers.map fun b => { buffer := b } }
  ({ s with launches := assocPut s.launches im.cfg inst, born := s.born + 1
            pitches := s.pitches.filter (fun q => q.id ≠ p.id) ++ [p] }, p)

/-- The running predecessor that a splice record names. -/
def State.spliceTarget (s : State) (rd : BitVec 512) : Option Pitch :=
  (s.pitch? ⟨recCfg rd, recInst rd⟩).filter fun p => p.runs

/-- The successor may replace the predecessor tile by tile: one rectangle, disjoint virtual channels, the same SRAM split where
state is kept, fields in balance (R141, R142, R255, R425). -/
def State.spliceFits (s : State) (p q : Pitch) (keep : Bool) : Bool :=
  p.successor.isNone && p.image.wc == q.image.wc && p.image.hc == q.image.hc && disjointVcs p.image q.image &&
  (!keep || (List.range (16 * p.image.wc * p.image.hc)).all fun i =>
    let a := placeOf p.image i
    (nodeAt p.image a.1 a.2).cache == (nodeAt q.image a.1 a.2).cache &&
    (nodeAt p.image a.1 a.2).shared == (nodeAt q.image a.1 a.2).shared) &&
  s.locksFit { q with x0 := p.x0, y0 := p.y0 } && !s.regionBroken p && (s.balance { q with x0 := p.x0, y0 := p.y0 }).isSome

/-- A successor is queued behind its predecessor: accepted as a splice, with its streams' places, or left to be placed as an
ordinary pitch once the predecessor is struck (R141, R142). -/
def State.queueBehind (s : State) (p q : Pitch) (keep : Bool) : State :=
  if s.spliceFits p q keep then
    let q' := { q with x0 := p.x0, y0 := p.y0 }
    let s := ((s.balance q').getD s).modPitch p.id fun p => { p with successor := some (q.id, keep) }
    s.modPitch q.id fun r => { r with
      x0 := p.x0, y0 := p.y0, behind := some p.id
      ingress := r.ingress.mapIdx fun k g =>
        match r.image.channels.find? fun c => c.src == .ingress k with
        | some c => { g with dests := s.endsOf q' c, used := true }
        | none => g
      egress := r.egress.mapIdx fun k e => { e with fed := r.image.channels.any fun c => c.dests.contains (.egress k) } }
  else s.modPitch q.id fun r => { r with behind := some p.id }

/-- The image of a launch or a splice is there: it is checked, and the new instance queued with its queue bound; or the queue
refuses (R137, R152, R435, R439). -/
def State.startRecord (s : State) (q : Nat) (rd : BitVec 512) (im : Image) : State :=
  let base := ((assocGet ({} : DirEntry) s.directory (recCfg rd)).portal).toNat
  let im := { im with cfg := recCfg rd }
  if !imageGood im then s.queueErr q 2
  else if !s.portalsOk im base then s.queueErr q 6
  else
    let s : State := { s with images := assocPut s.images im.cfg im }
    if recOp rd = 0 then
      let e := s.addPitch im (recClass rd) base
      let s : State := { e.1 with classes := vecMod e.1.classes (recClass rd) fun l => l ++ [e.2.id] }
      s.bindQueue q e.2.id (recStream rd) rd
    else
      match s.spliceTarget rd with
      | none => s.queueErr q 5
      | some p =>
        let e := s.addPitch im (recClass rd) base
        (e.1.queueBehind p e.2 (recOp rd == 2)).bindQueue q e.2.id (recStream rd) rd

/-- A launch or splice record at an IDLE queue: the image comes from the configuration cache, or the queue waits for it
(R137, R435). -/
def State.takeLaunch (s : State) (q : Nat) (rd : BitVec 512) : State :=
  if !(assocGet ({} : DirEntry) s.directory (recCfg rd)).valid then s.queueErr q 1
  else if recOp rd ≠ 0 ∧ (s.spliceTarget rd).isNone then s.queueErr q 5
  else
    match assocFind s.images (recCfg rd) with
    | some im => s.startRecord q rd im
    | none => s.modQueue q fun h => { h with state := .bound, record := some rd, stream := none, early := [] }

/-- The stream has delivered its stream end, were it before a replay (R436). -/
def Ingress.over (g : Ingress) : Bool := g.ended || g.words.any fun e => e.1.isNone && e.2.mark == 3

/-- A further queue joins a stream: the end of one that was the last bound, still in the edge buffer, is not the last any more: the
edge consumes it, and its queue returns to IDLE (R436, R437). -/
def State.overtakeEnd (s : State) (id : PitchId) (k : Nat) : State :=
  match (s.pitch? id).bind fun p => p.ingress[k]? with
  | none => s
  | some g =>
    let ends := g.words.filter fun e => e.2.mark == 3
    ends.foldl State.leaveEdge (s.modPitch id fun p => { p with ingress := vecMod p.ingress k fun g =>
      { g with words := g.words.filter fun e => e.2.mark != 3 } })

/-- A join record at an IDLE queue (R435, R436). -/
def State.takeJoin (s : State) (q : Nat) (rd : BitVec 512) : State :=
  match s.pitch? ⟨recCfg rd, recInst rd⟩ with
  | none => s.queueErr q 5
  | some p =>
    if p.state = .struck ∨ recInst rd = 0 ∨ ((p.ingress[recStream rd]?).map Ingress.over).getD true then s.queueErr q 5
    else (s.overtakeEnd p.id (recStream rd)).bindQueue q p.id (recStream rd) rd

/-- A write of 64 bytes that form a record to a queue's window: an IDLE queue takes it as a record, any other as tokens
(R435, R437). -/
def State.writeRecord (s : State) (q : Nat) (rd : BitVec 512) : State :=
  match (s.hostQueue q).state with
  | .idle =>
    if !recordOk rd then s.queueErr q 4
    else if recOp rd = 1 then s.takeJoin q rd
    else s.takeLaunch q rd
  | .refused => s
  | _ => s.writeTokens q 0 (recBytes rd)

/-- A queue's number. -/
def queueNumber (q : Nat) : Bool := decide (q < 65536)

/-- LAUNCH: a record with OP 0 (R435). -/
def execLaunch (q : Nat) (record : BitVec 512) (s : State) : Out :=
  event s (queueNumber q && recOp record == 0) fun s => s.writeRecord q record
/-- JOIN: a record with OP 1 (R436). -/
def execJoin (q : Nat) (record : BitVec 512) (s : State) : Out :=
  event s (queueNumber q && recOp record == 1) fun s => s.writeRecord q record
/-- SPLICE_INHERIT: a record with OP 2 (R141). -/
def execSpliceInherit (q : Nat) (record : BitVec 512) (s : State) : Out :=
  event s (queueNumber q && recOp record == 2) fun s => s.writeRecord q record
/-- SPLICE_NO_INHERIT: a record with OP 3 (R141). -/
def execSpliceNoInherit (q : Nat) (record : BitVec 512) (s : State) : Out :=
  event s (queueNumber q && recOp record == 3) fun s => s.writeRecord q record

/-- INGRESS_TOKEN: a write at an offset of a queue's window (R434, R437); an IDLE queue accepts a record alone. -/
def execIngressToken (q : Nat) (write : WindowWrite) (s : State) : Out :=
  event s (queueNumber q) fun s =>
    match (s.hostQueue q).state with
    | .refused => s
    | .idle =>
      if write.bytes.length = 64 ∧ write.off = 0 then s.writeRecord q (BitVec.ofNat 512 (natOfBytes write.bytes)) else s.queueErr q 4
    | _ => s.writeTokens q write.off write.bytes

/-- A write of a queue's control word: ones in ERR clear it, and a queue without an error leaves REFUSED (R437). -/
def HostQueue.clear (h : HostQueue) (w : Word) : HostQueue :=
  let err := h.err &&& ~~~(w.extractLsb' 20 8)
  { h with err := err, state := if h.state = .refused ∧ err = 0 then .idle else h.state
           credit := if h.state = .refused ∧ err = 0 then 256 else h.credit }

/-- INGRESS_QUEUE_ERR_CLEAR (R437). -/
def execIngressQueueErrClear (q : Nat) (w : Word) (s : State) : Out :=
  event s (queueNumber q) fun s => s.modQueue q fun h => h.clear w

/-- IMAGE_FETCHED: the image that a queue's record waits for has come (R137). -/
def execImageFetched (q : Nat) (image : Image) (s : State) : Out :=
  match (s.hostQueue q).record with
  | none => .next s
  | some rd => .next (s.startRecord q rd image)

/-! ## Egress (R383, R439, R440) -/

/-- One byte of CRC-32 (IEEE 802.3, reflected). -/
def crcBits (c : Word) : Nat → Word
  | 0 => c
  | n + 1 => crcBits (if c.getLsbD 0 then (c >>> 1) ^^^ 0xEDB88320 else c >>> 1) n

/-- The CRC of a word: payload, tag and marker. -/
def crcToken (c : Word) (w : Token) : Word :=
  (bytesOfNat 8 w.payload.toNat ++ [w.tag, w.mark.setWidth 8]).foldl (fun c b => crcBits (c ^^^ b.setWidth 32) 8) c

/-- The pitch ends in STRUCK with a failure record, whatever its replay mode (R383, R440). -/
def State.failPitch (s : State) (id : PitchId) : State :=
  (s.killPitch id).modPitch id fun p => { p with kills := p.kills + 4 }

/-- The lone compare word after a word of a CAS portal: compare and swap words alternate, across a replay too (R440). -/
def Egress.halfAfter (e : Egress) (cas : Bool) (w : Token) : Option Token :=
  if cas && e.firstHalf.isNone then some w else none

/-- The head word of an egress stream leaves the edge: during a replay it is suppressed while the kept count lasts, and the kept
CRC is checked (R383); else `use` sends it. -/
def State.emit (s : State) (id : PitchId) (k : Nat) (e : Egress) (w : Token) (cas : Bool) (use : State → State) : State :=
  let put (s : State) (f : Egress → Egress) := s.modPitch id fun p => { p with egress := vecMod p.egress k f }
  if e.suppress ≠ 0 then
    let crc := crcToken e.recheck w
    let s := put s fun e =>
      { e with words := e.words.tail, suppress := e.suppress - 1, recheck := crc, firstHalf := e.halfAfter cas w }
    if e.suppress = 1 ∧ crc ≠ e.goal then s.failPitch id else s
  else use (put s fun e => { e with words := e.words.tail, emitted := e.emitted + 1, crc := crcToken e.crc w })

/-- The head word of an egress stream, with its pitch and portal. -/
def State.egressHead (s : State) (id : PitchId) (k : Nat) : Option (Egress × Token × Portal) :=
  match s.pitch? id with
  | none => none
  | some p => (p.egress[k]?).bind fun e => e.words.head?.map fun w => (e, w, s.portalOf p k)

/-- EGRESS_RING_WRITE: word *j* becomes the token at HADDR + 16 × (*j* mod RING); the stream end of MODE 2 is written at HADDR
(R440). -/
def execEgressRingWrite (id : PitchId) (k : Nat) (s : State) : Out :=
  match s.egressHead id k with
  | none => .next s
  | some (e, w, portal) =>
    let ring := portal.mode == 1
    event s (ring || (portal.mode == 2 && w.mark == 3)) fun s =>
      s.emit id k e w false fun s =>
        let slot := if ring then e.written % portal.ring.toNat else 0
        let s := s.modPitch id fun p => { p with egress := vecMod p.egress k fun e => { e with written := e.written + 1, firstHalf := none } }
        { s with mem := s.mem.putBytes (portal.haddr.toNat + 16 * slot) (tokenBytes w) }

/-- Bytes of an AtomicOp operand: 4 for the even OPs, 8 for the odd ones (R439). -/
def atomicSize (op : Nat) : Nat := if op % 2 = 0 then 4 else 8

/-- A value at the width of an OP. -/
def atomicOperand (op : Nat) (v : DWord) : DWord := if op % 2 = 0 then (v.setWidth 32).setWidth 64 else v

/-- The request of a word, or of two for CAS (R440). -/
def atomicRequest (portal : Portal) (first : Token) (v cmp : DWord) : AtomReq :=
  let op := portal.op.toNat
  { tag := first.tag, op := op, addr := portal.haddr.toNat + atomicSize op * first.tag.toNat
    v := atomicOperand op v, cmp := atomicOperand op cmp }

/-- The AtomicOp requests of a portal entry that have not completed, of every stream that it serves (R440). -/
def State.outstanding (s : State) (portal : Nat) : Nat :=
  s.pitches.foldl (fun n p => p.egress.toList.zipIdx.foldl (fun n e => if p.portal + e.2 = portal then n + e.1.pending.length else n) n) 0

/-- EGRESS_ATOMICOP: a word forms a request, or the first or second half of a CAS; the 257th request waits (R440). -/
def execEgressAtomicop (id : PitchId) (k : Nat) (s : State) : Out :=
  match s.egressHead id k with
  | none => .next s
  | some (e, w, portal) =>
    event s (portal.mode == 2 && w.mark != 3 && decide (s.outstanding (((s.pitch? id).map (·.portal)).getD 0 + k) < 256)) fun s =>
      let cas := decide (4 ≤ portal.op.toNat)
      s.emit id k e w cas fun s => s.modPitch id fun p => { p with egress := vecMod p.egress k fun e =>
        if !cas then { e with pending := e.pending ++ [atomicRequest portal w w.payload 0] }
        else
          match e.firstHalf with
          | none => { e with firstHalf := some w }
          | some f => { e with firstHalf := none, pending := e.pending ++ [atomicRequest portal f w.payload f.payload] } }

/-- The host's value after a request met an old value. -/
def AtomReq.new (a : AtomReq) (old : DWord) : DWord :=
  match a.op / 2 with
  | 0 => old + a.v
  | 1 => a.v
  | _ => if atomicOperand a.op old = a.cmp then a.v else old

/-- A reply arrives at a queue as a token of the stream that the queue feeds now, whichever instance's it is; a queue that feeds none drops
it (R440; DEDUCED, log 32). -/
def State.replyToken (s : State) (q : Nat) (w : Token) : State :=
  let h := s.hostQueue q
  match h.stream with
  | some (id, k) => if s.fedStruck h then s.queueErr q 9 else s.toStream id k [(none, w)]
  | none => if h.state == .bound then s.modQueue q fun h => { h with early := h.early ++ [w] } else s

/-- ATOMICOP_COMPLETION: the oldest request completes: the host memory holds the new value, and the old one arrives at RQ as a
token; an error strikes the pitch (R440). -/
def execAtomicopCompletion (id : PitchId) (k : Nat) (old : DWord) (error : Bool) (s : State) : Out :=
  match s.pitch? id with
  | none => .next s
  | some p =>
    match (p.egress[k]?).bind fun e => e.pending.head? with
    | none => .next s
    | some a =>
      let portal := s.portalOf p k
      let s := s.modPitch id fun p => { p with egress := vecMod p.egress k fun e => { e with pending := e.pending.tail } }
      if error then .next ((s.queueErr portal.rq.toNat 7).failPitch id)
      else
        .next ({ s with mem := s.mem.write a.addr (atomicSize a.op) (a.new old) }.replyToken portal.rq.toNat
          { payload := atomicOperand a.op old, tag := a.tag, mark := 0 })

/-! ## Control registers (R444 to R446) -/

/-- A value for TSET waits for the next tick edge; it is discarded when TICK is set, or when MODIDX is not 0 and a Speosh port has left
DOWN since reset (R444). -/
def State.writeTset (s : State) (w : DWord) : State :=
  if !s.tickSet && !(s.modidx != 0 && s.linkUsed) then { s with tset := some w } else s

/-- TSET_WRITE (R444). -/
def execTsetWrite (w : DWord) (s : State) : Out := .next (s.writeTset w)

/-- The other fields of TOPO. -/
def topoNver (t : DWord) : Half := (t >>> 48).setWidth 16
def topoArm (t : DWord) : Bool := t.getLsbD 11
def topoNbank (t : DWord) : Bool := t.getLsbD 8
def topoBank (t : DWord) : Bool := t.getLsbD 0

/-- TOPO of its fields (R446). -/
def topoWord (nver ver : Half) (arm nbank bank : Bool) : DWord :=
  nver ++ ver ++ 0#20 ++ BitVec.ofBool arm ++ 0#2 ++ BitVec.ofBool nbank ++ 0#7 ++ BitVec.ofBool bank

/-- The switch is due: armed, and TICK has come to SWTICK (R446). -/
def State.switchDue (s : State) : Bool := topoArm s.topo && decide (s.swtick ≤ s.tick)

/-- Every edge router takes the new bank and version in one step (R446). -/
def State.switchTopology (s : State) : State :=
  { s with topo := topoWord (topoNver s.topo) (topoNver s.topo) false (topoNbank s.topo) (topoNbank s.topo) }

/-- The switch takes place in the first cycle in which it is due: with whatever makes it due (R446). -/
def State.autoSwitch (s : State) : State := if s.switchDue then s.switchTopology else s

/-- TOPO as a write leaves it: NVER, ARM and NBANK are written; an ARM that would change neither version nor bank stays 0 (R446). -/
def topoWritten (t w : DWord) : DWord :=
  topoWord (topoNver w) (topoVer t) (topoArm w && topoNbank w != topoBank t && topoNver w != topoVer t) (topoNbank w) (topoBank t)

/-- TOPO_WRITE (R446). -/
def execTopoWrite (w : DWord) (s : State) : Out := .next { s with topo := topoWritten s.topo w }.autoSwitch

/-- TOPOLOGY_SWITCH (R446). -/
def execTopologySwitch (s : State) : Out := event s s.switchDue State.switchTopology

/-- A route bank takes an entry: discarded for the active bank and while ARM is 1 (R445, R446). -/
def State.writeRoute (s : State) (bank : Bool) (dst : BitVec 8) (w : Half) : State :=
  if bank != topoBank s.topo && !topoArm s.topo then
    let e : Half := w &&& 0x807F
    if bank then { s with bankB := s.bankB.set dst.toNat e dst.isLt } else { s with bankA := s.bankA.set dst.toNat e dst.isLt }
  else s

/-- ROUTE_BANK_WRITE (R445, R446). -/
def execRouteBankWrite (bank : Bool) (dst : BitVec 8) (w : BitVec 16) (s : State) : Out := .next (s.writeRoute bank dst w)

/-! ## Grades and attestation (R2, R421, R422, R449) -/

/-- A field is operable (R421). -/
def operable (b : BitVec 4) : Bool := b != 15

/-- The highest frequency grade that bands meet. -/
def frequencyGrade (bands : List (BitVec 4)) : Nat :=
  let least := (bands.filter operable).foldl (fun m b => min m b.toNat) 12
  if 6 ≤ least then 110 else if 4 ≤ least then 105 else if 2 ≤ least then 100 else 0

/-- The highest tile count that a count of tiles meets (R2). -/
def tileGrade (n : Nat) : Nat := if 115200 ≤ n then 115 else if 113000 ≤ n then 113 else if 110000 ≤ n then 110 else 0

/-- The 24 bytes of bands, the even field in the low half of its byte. -/
def bandBytes : List (BitVec 4) → List Byte
  | a :: b :: l => (b ++ a) :: bandBytes l
  | [a] => [a.setWidth 8]
  | [] => []

/-- A grade record (R422). -/
def gradeRecord (bands : List (BitVec 4)) (ranked live retired : Nat) : List Byte :=
  let f := frequencyGrade bands
  let t := tileGrade live
  bandBytes bands ++ bytesOfNat 4 ranked ++ bytesOfNat 4 live ++
    [BitVec.ofNat 8 f, BitVec.ofNat 8 t, (if f = 0 ∨ t = 0 then 1 else 0), 0] ++ bytesOfNat 4 retired

/-- The current grade record. -/
def State.currentGrade (s : State) : List Byte :=
  gradeRecord ((List.range 48).map fun f => (s.field f).band) s.ranked (s.ranked - s.struckTiles.length) s.retired.length

/-- The shipped grade record: as manufactured, nothing was retired. -/
def State.shippedGrade (s : State) : List Byte := gradeRecord s.shipped s.shippedRanked s.shippedRanked 0

/-- The detour tables as exported, in the order of R418. -/
def State.detourBytes (s : State) : List Byte :=
  (List.range 320).flatMap fun c => (List.range 384).flatMap fun r => bytesOfNat 2 (s.detourEntry c r).toNat

/-- Bytes to a length. -/
def fitBytes (n : Nat) (bs : List Byte) : List Byte := bs.take n ++ List.replicate (n - bs.length) 0

/-- The report over a nonce (R449). -/
def State.attestation (s : State) (nonce : BitVec 256) : List Byte :=
  let body := fitBytes 7856 (bytesOfNat 32 nonce.toNat ++ fitBytes 32 (Config.sha256 Config.identityKey) ++
    fitBytes 32 (Config.sha256 Config.serviceFirmware) ++ fitBytes 32 (Config.sha256 Config.managerFirmware) ++
    s.shippedGrade ++ s.currentGrade ++ fitBytes 32 (Config.sha256 s.detourBytes))
  body ++ fitBytes 7856 (Config.signature body)

/-- ATTESTATION_REQUEST: the nonce and the control word 1; a new request replaces one that is being served (R449). -/
def execAttestationRequest (nonce : BitVec 256) (s : State) : Out :=
  .next { s with mailbox := { nonce := nonce, control := 1, report := [] } }

/-- ATTESTATION_REPORT_READY: the report stands in the mailbox, and the control word reads 2 (R449). -/
def execAttestationReportReady (s : State) : Out :=
  event s (s.mailbox.control == 1) fun s =>
    { s with mailbox := { s.mailbox with control := 2, report := s.attestation s.mailbox.nonce } }

/-! ## BAR0 (R12, R433) -/

/-- The queue control word of a queue (R437). -/
def HostQueue.word (h : HostQueue) : Word :=
  let st : BitVec 4 := match h.state with
    | .idle => 0 | .bound => 1 | .closed => 2 | .refused => 3
  st ++ h.err ++ 0#11 ++ BitVec.ofNat 9 h.credit

/-- A directory entry as two 8-byte words (R435). -/
def DirEntry.word0 (e : DirEntry) : DWord := e.pa
def DirEntry.word1 (e : DirEntry) : DWord := 0#15 ++ BitVec.ofBool e.valid ++ e.portal ++ e.length

/-- The second 8-byte word of a portal entry (R439). -/
def Portal.word1 (e : Portal) : DWord := e.ring ++ e.rq ++ e.op ++ e.mode

/-- Four route entries as an 8-byte word. -/
def routeWord (bank : Vector Half 256) (i : Nat) : DWord :=
  let e (j : Nat) : Half := bank[4 * i + j]?.getD 0
  e 3 ++ e 2 ++ e 1 ++ e 0

/-- The bytes of the mailbox from an offset (R449). -/
def Mailbox.word (m : Mailbox) (off : Nat) : DWord :=
  if off < 0x20 then (m.nonce >>> (8 * off)).setWidth 64
  else if off = 0x20 then m.control.setWidth 64
  else if 0x100 ≤ off then BitVec.ofNat 64 (fieldOfBytes m.report (off - 0x100) 8)
  else 0

/-- The aligned 8-byte word of BAR0 at an offset (R433); TSET is write-only, and what reads of it give is free (log 14). -/
def State.bar0Word (s : State) (off : Nat) : DWord :=
  if off = 0x0 then s.atomcap.setWidth 32 ++ s.modidx.setWidth 32
  else if off = 0x8 then Config.abandonedWord s.free ++ Config.abandonedWord (s.free + 1)
  else if off = 0x1000 then s.topo
  else if off = 0x1008 then s.swtick
  else if 0x10000 ≤ off ∧ off < 0x10200 then routeWord s.bankA ((off - 0x10000) / 8)
  else if 0x10200 ≤ off ∧ off < 0x10400 then routeWord s.bankB ((off - 0x10200) / 8)
  else if 0x11000 ≤ off ∧ off < 0x11180 then
    (s.portLink ((off - 0x11000) / 4 + 1)).stale ++ (s.portLink ((off - 0x11000) / 4)).stale
  else if 0x100000 ≤ off ∧ off < 0x200000 then
    let e := assocGet ({} : DirEntry) s.directory ((off - 0x100000) / 16)
    if off % 16 = 0 then e.word0 else e.word1
  else if 0x200000 ≤ off ∧ off < 0x300000 ∧ off % 16 = 0 then (s.hostQueue ((off - 0x200000) / 16)).word.setWidth 64
  else if 0x300000 ≤ off ∧ off < 0x320000 then
    let e := assocGet ({} : Portal) s.portals ((off - 0x300000) / 32)
    if off % 32 = 0 then e.haddr else if off % 32 = 8 then e.word1 else 0
  else if 0x400000 ≤ off ∧ off < 0x43C000 then
    let e (j : Nat) : Half := let n := (off - 0x400000) / 2 + j; s.detourEntry (n / 384) (n % 384)
    e 3 ++ e 2 ++ e 1 ++ e 0
  else if 0x500000 ≤ off ∧ off < 0x510000 then s.mailbox.word (off - 0x500000)
  else 0

/-- An access that BAR0 accepts: 4 or 8 bytes, aligned, within its 8 MiB (R432, R433). -/
def bar0Access (off size : Nat) : Bool := (size == 4 || size == 8) && off % size == 0 && decide (off < 0x800000)

/-- The stale counters that an access reads are cleared (R12, R433). -/
def State.clearStale (s : State) (off size : Nat) : State :=
  (List.range (size / 4)).foldl (fun s j =>
    let n := (off - 0x11000) / 4 + j
    if 0x11000 ≤ off ∧ n < 96 then s.modLink n fun l => { l with stale := 0 } else s) s

/-- STALE_COUNTER_READ, and every other read of BAR0: the value is returned, and what a read clears is cleared (R12, R433). -/
def execStaleCounterRead (access : BarAccess) (s : State) : Out :=
  let off := access.off
  let size := access.size
  event s (bar0Access off size) fun s =>
    let v := s.bar0Word (off / 8 * 8)
    let data : DWord := if size = 8 then v else if off % 8 = 0 then (v.setWidth 32).setWidth 64 else v >>> 32
    let s : State := if off / 8 = 1 then { s with free := s.free + 2 } else s
    { s.clearStale off size with hostData := data }

/-- The low or the high 32 bits of an 8-byte word, or all, as an access of `size` bytes at `off` leaves them. -/
def dwordWritten (old : DWord) (off size : Nat) (w : DWord) : DWord :=
  if size = 8 then w
  else if off % 8 = 0 then (old >>> 32).setWidth 32 ++ w.setWidth 32
  else w.setWidth 32 ++ old.setWidth 32

/-- A directory entry of its words. -/
def dirEntry (pa w : DWord) : DirEntry :=
  { pa := pa, length := w.setWidth 32, portal := (w >>> 32).setWidth 16, valid := w.getLsbD 48 }

/-- A portal entry of its words. -/
def portalEntry (haddr w : DWord) : Portal :=
  { haddr := haddr, mode := w.setWidth 8, op := (w >>> 8).setWidth 8, rq := (w >>> 16).setWidth 16, ring := (w >>> 32).setWidth 32 }

/-- The route entries that an access covers are written. -/
def State.writeRoutes (s : State) (bank : Bool) (off size : Nat) (w : DWord) : State :=
  (List.range (size / 2)).foldl (fun s j =>
    s.writeRoute bank (BitVec.ofNat 8 (off / 2 + j)) (w.extractLsb' (16 * j) 16)) s

/-- The mailbox as a write leaves it; 1 at 0x20 requests a report, which replaces one being formed (R449). -/
def Mailbox.written (m : Mailbox) (off size : Nat) (w : DWord) : Mailbox :=
  if off < 0x20 then
    { m with nonce := (List.range size).foldl (fun (n : BitVec 256) j =>
        (n &&& ~~~((0xFF : BitVec 256) <<< (8 * (off + j)))) ||| ((w.extractLsb' (8 * j) 8).setWidth 256 <<< (8 * (off + j)))) m.nonce }
  else if off = 0x20 then (if w.setWidth 32 = 1#32 then { m with control := 1, report := [] } else m)
  else m

/-- A write of `size` bytes at an offset of BAR0 (R12, R433): a register takes what it lets the host write; writes to unlisted
offsets, and to read-only and read-to-clear ones, are discarded. MODIDX is read-only once a link has left CAL. -/
def State.writeBar0 (s : State) (off size : Nat) (w : DWord) : State :=
  let put (old : DWord) : DWord := dwordWritten old off size w
  let base := off / 8 * 8
  if base = 0x0 then
    let v := put (s.bar0Word 0)
    { s with modidx := if s.linkTrained then s.modidx else v.setWidth 8, atomcap := (v >>> 32).setWidth 6 }
  else if base = 0x8 then s.writeTset (put (s.tset.getD 0))
  else if base = 0x1000 then { s with topo := topoWritten s.topo (put s.topo) }.autoSwitch
  else if base = 0x1008 then { s with swtick := put s.swtick }.autoSwitch
  else if 0x10000 ≤ off ∧ off < 0x10200 then s.writeRoutes false (off - 0x10000) size w
  else if 0x10200 ≤ off ∧ off < 0x10400 then s.writeRoutes true (off - 0x10200) size w
  else if 0x100000 ≤ off ∧ off < 0x200000 then
    let n := (off - 0x100000) / 16
    let e := assocGet ({} : DirEntry) s.directory n
    let e' := if base % 16 = 0 then dirEntry (put e.word0) e.word1 else dirEntry e.word0 (put e.word1)
    { s with directory := assocPut s.directory n e' }
  else if 0x200000 ≤ off ∧ off < 0x300000 then
    if off % 16 = 0 then s.modQueue ((off - 0x200000) / 16) fun h => h.clear (w.setWidth 32) else s
  else if 0x300000 ≤ off ∧ off < 0x320000 then
    let n := (off - 0x300000) / 32
    let e := assocGet ({} : Portal) s.portals n
    if base % 32 = 0 then { s with portals := assocPut s.portals n (portalEntry (put e.haddr) e.word1) }
    else if base % 32 = 8 then { s with portals := assocPut s.portals n (portalEntry e.haddr (put e.word1)) }
    else s
  else if 0x500000 ≤ off ∧ off < 0x510000 then { s with mailbox := s.mailbox.written (off - 0x500000) size w }
  else s

/-- REGISTER_WRITE: of a k-register by a context, as its level may write it, or of BAR0 by the host (R12, R23, R433). -/
def execRegisterWrite (r : Nat) (c : CtxId) (place : RegPlace) (w : DWord) (s : State) : Out :=
  match place with
  | .kreg n => .next (s.kwrite r c n.toNat (w.setWidth 32))
  | .bar0 a => event s (bar0Access a.off a.size) fun s => s.writeBar0 a.off a.size w

end Sys2Proof.Machine
end

