-- ==== Sys2Proof/Machine/LoadStore.lean ====
section
/-! DEFINITION. Page 0: scalar loads and stores (R102 to R105). -/

namespace Sys2Proof.Machine

/-- A load of `size` bytes at a[x] + offset whose bytes `put` writes to a register (R102). -/
def loadOp (x : AReg) (imm : BitVec 64) (size : Nat) (put : Ctx → BitVec 128 → Ctx) : State → Out :=
  runGroup .all false fun s => do
    let r ← s.load (s.cur.ea x imm size) size
    return .on (r.1.modCur fun c => put c r.2)

/-- A store of the low `size` bytes of a register at a[x] + offset (R102). -/
def storeOp (x : AReg) (imm : BitVec 64) (size : Nat) (value : Ctx → BitVec 128) : State → Out :=
  runGroup .all false fun s => do
    let s' ← s.storeTo (s.cur.ea x imm size) size (value s.cur)
    return .on s'

/-- LDB (R102). -/
def execLdb (d : GReg) (x : AReg) (imm : BitVec 64) (s : State) : Out :=
  loadOp x imm 1 (fun c w => c.setG d ((w.setWidth 8).signExtend 32)) s

/-- LDBU (R102). -/
def execLdbu (d : GReg) (x : AReg) (imm : BitVec 64) (s : State) : Out :=
  loadOp x imm 1 (fun c w => c.setG d (w.setWidth 32)) s

/-- LDH (R102). -/
def execLdh (d : GReg) (x : AReg) (imm : BitVec 64) (s : State) : Out :=
  loadOp x imm 2 (fun c w => c.setG d ((w.setWidth 16).signExtend 32)) s

/-- LDHU (R102). -/
def execLdhu (d : GReg) (x : AReg) (imm : BitVec 64) (s : State) : Out :=
  loadOp x imm 2 (fun c w => c.setG d (w.setWidth 32)) s

/-- LDW (R102). -/
def execLdw (d : GReg) (x : AReg) (imm : BitVec 64) (s : State) : Out :=
  loadOp x imm 4 (fun c w => c.setG d (w.setWidth 32)) s

/-- LDA (R102). -/
def execLda (d x : AReg) (imm : BitVec 64) (s : State) : Out :=
  loadOp x imm 8 (fun c w => c.setA d (w.setWidth 64)) s

/-- STB (R102). -/
def execStb (d : GReg) (x : AReg) (imm : BitVec 64) (s : State) : Out :=
  storeOp x imm 1 (fun c => (c.getG d).setWidth 128) s

/-- STH (R102). -/
def execSth (d : GReg) (x : AReg) (imm : BitVec 64) (s : State) : Out :=
  storeOp x imm 2 (fun c => (c.getG d).setWidth 128) s

/-- STW (R102). -/
def execStw (d : GReg) (x : AReg) (imm : BitVec 64) (s : State) : Out :=
  storeOp x imm 4 (fun c => (c.getG d).setWidth 128) s

/-- STA (R102). -/
def execSta (d x : AReg) (imm : BitVec 64) (s : State) : Out :=
  storeOp x imm 8 (fun c => (c.getA d).setWidth 128) s

end Sys2Proof.Machine
end

