-- ==== Sys2Proof/Machine/Margin.lean ====
section
/-! DEFINITION. Running below margin: the replay ladder, escalation windows, the supply; throttling; the temperature refresh
(R357 to R361, R427, R429). -/

namespace Sys2Proof.Machine

/-! ## The replay ladder (R358, R359, R361) -/

/-- A step as the controller or a margin event sets it: the supply rises with a step towards 0 at once, and falls only when the change
has settled, so that the tile always runs at the higher of the two (R357). -/
def Tile.setStep (t : Tile) (step : BitVec 4) : Tile := { t with step := step, supply := if step < t.supply then step else t.supply }

/-- A stretch completes for a context: the window counts it; beyond LTRWIN it is a margin event, or at step 0 makes the tile
suspect, which the context learns by a trap once the group has committed, and the field by a record: at supervisor level the
record alone. A window reports once (R359, R361). `unit` says that the matrix unit has stretched, and no group of the context. -/
def State.stretched (s : State) (r : Nat) (c : CtxId) (unit : Bool) : State :=
  let t := s.tile r
  let n := t.stretches + 1
  let s := s.modTile r fun t => { t with stretches := n, winStretched := true }
  if n ≤ t.ltrwin.toNat then s
  else if t.step ≠ 0 then s.modTile r fun t => { t.setStep (t.step - 1) with mev := t.mev + 1, stretches := 0 }
  else
    let s := s.modTile r fun t => { t with susp := true, auto := false, winPosted := true }
    let value : DWord := BitVec.ofNat 64 n
    if t.winPosted then s
    else if (t.ctx c).sup then
      let u := s.tile r
      s.post r (s.hwRecord r (some c) 0x23 0 value false false (payload2 u.ltrcnt u.margin))
    else s.modCtx r c fun x => { x with due := some ⟨0x23, 0, value⟩, dueHeld := x.due.isNone && !unit }

/-- A late transition counts as a replay (R358, R360). -/
def Tile.countReplay (t : Tile) : Tile := { t with ltrcnt := t.ltrcnt + 1, winReplays := t.winReplays + 1 }
/-- A group takes a late transition for the `k`-th time: it is issued again 6 cycles later, which the cycle count and the watchdog count
(R129, R171, R358). -/
def State.reissue (s : State) (r : Nat) (c : CtxId) (k : Nat) : State :=
  (s.modTile r fun t => { t.countReplay with cyc := t.cyc + 6 }).modCtx r c fun x => { x.countWd 6 with replays := k }

/-- The chunks of a matrix command (R199): MMA alone has any. -/
def MatCmd.chunks (c : MatCmd) : Nat :=
  match c.op with
  | .mma => shapeM c.mshape * shapeN c.mshape * ((shapeK c.mshape + chunkOf c.fmt - 1) / chunkOf c.fmt)
  | _ => 0

/-- The context is at a group of the summary unit (R49, R241). -/
def State.atSummary (s : State) (r : Nat) (c : CtxId) : Bool :=
  c == .c && (match decodeRaw (s.focusOn r c).words with
    | .ok k _ _ _ => k.page == 2 && decide (8 ≤ k.major)
    | _ => false)

/-- The next count of a ladder at place `n`, whose last late transition came at place `at'` for the `replays`-th time: none when it
takes no more; 8 when it has begun to run stretched (R358). -/
def nextReplay (lim at' replays n : Nat) : Option Nat :=
  if n < at' then none
  else
    let k := if n = at' then replays else 0
    if lim ≤ k then none else some (if k + 1 < lim then k + 1 else 8)

/-- LATE_TRANSITION in a stage of a context's group, in chunk `n` of the tile's head matrix command, or in step `n` of the context's
summary group: it is replayed, or after LTRLIM replays runs stretched and takes no more (R223, R241, R358). Chunks and steps take their
turns in order. -/
def execLateTransition (r : Nat) (c : CtxId) (place : LatePlace) (s : State) : Out :=
  let t := s.tile r
  let x := t.ctx c
  let lim := t.ltrlim.toNat
  let done (s : State) (k : Nat) (i : CtxId) (unit : Bool) : State := if k = 8 then s.stretched r i unit else s
  match place with
  | .group =>
    (match x.is .running && !x.waiting && t.clock == .good, nextReplay lim 0 x.replays 0 with
     | true, some k => .next (done (s.reissue r c k) k c false)
     | _, _ => .next s)
  | .matrix n =>
    (match t.clock == .good && (t.matrix.queue.head?.map fun m => decide (n < m.chunks)).getD false,
        nextReplay lim t.matrix.chunk t.matrix.replays n with
     | true, some k => .next (done (s.modTile r fun t =>
         { t.countReplay with matrix := { t.matrix with chunk := n, replays := k } }) k .c true)
     | _, _ => .next s)
  | .summary n =>
    (match x.is .running && t.clock == .good && s.atSummary r c, nextReplay lim x.hstep x.hreplays n with
     | true, some k => .next (done ((s.modTile r Tile.countReplay).modCtx r c fun x => { x with hstep := n, hreplays := k }) k c false)
     | _, _ => .next s)

/-! ## Windows and the supply (R357, R359, R360) -/

/-- The margin controller's step at the end of a window with `n` replays (R360). -/
def controlStep (step tgt : BitVec 4) (stretched : Bool) (n : Nat) : BitVec 4 :=
  if stretched ∨ 2 * 2 ^ tgt.toNat < n then (if step = 0 then 0 else step - 1)
  else if 2 * n < 2 ^ tgt.toNat then (if step = 15 then 15 else step + 1)
  else step

/-- ESCALATION_WINDOW_END: the cycle count has passed the end of the window: the controller acts when AUTO is 1, and the counts start
anew; a cycle count that has passed several ends has each of them (R359, R360). -/
def execEscalationWindowEnd (r : Nat) (s : State) : Out :=
  event s (decide ((s.tile r).window < (s.tile r).cyc.toNat / 2 ^ 20)) fun s => s.modTile r fun t =>
  { t.setStep (if t.auto then controlStep t.step t.tgt t.winStretched t.winReplays else t.step) with
    window := t.window + 1, stretches := 0, winReplays := 0, winStretched := false, winPosted := false }

/-- MARGIN_STEP_SETTLE: the supply reaches STEP (R357). -/
def execMarginStepSettle (r : Nat) (s : State) : Out :=
  .next (s.modTile r fun t => { t with supply := t.step })

/-! ## Power and temperature (R427, R429) -/

/-- THROTTLE_WINDOW_END: a window of 65,536 cycles ends whose mean current was above the declared class, or not: THR tells whether it
was throttled, and the next one is when it was above (R427, R428). -/
def execThrottleWindowEnd (r : Nat) (above : Bool) (s : State) : Out :=
  event s (decide ((s.tile r).thrWindow < (s.tile r).cyc.toNat / 65536)) fun s => s.modTile r fun t =>
    { t with thrWindow := t.thrWindow + 1, thr := t.throttled, throttled := above }

/-- TEMPERATURE_REFRESH: the next estimates, from which the limits follow, once in each span of 1,024 ticks, the first one since the
module reset at any time (R429, R431). -/
def execTemperatureRefresh (s : State) : Out :=
  event s (s.refreshed == 0 || s.tick.toNat / 1024 != s.refreshSpan) fun s =>
    { s with refreshes := s.refreshes + 1, refreshSpan := s.tick.toNat / 1024 }

end Sys2Proof.Machine
end

