-- ==== Sys2Proof/Machine/Messages.lean ====
section
/-! DEFINITION. User messages, AMSG, and the messages that answer them (R168, R324 to R327, R345 to R350). -/

namespace Sys2Proof.Machine

/-! ## AMSG (R346, R347) -/

/-- The fields of the control word (R346). -/
def amsgKind (w : Word) : Nat := natField w.toNat 24 8
def amsgNarg (w : Word) : Nat := natField w.toNat 22 2
def amsgOp (w : Word) : Nat := natField w.toNat 18 4

/-- The control word or a user target breaks R346 or R347. -/
def amsgBad (w : Word) (x : DWord) : Bool :=
  let k := amsgKind w
  (k != 3 && k != 4 && decide (k < 32)) || natField w.toNat 0 18 != 0 ||
  (if k < 32 then amsgNarg w != 0 || (if k = 3 then decide (8 < amsgOp w) else amsgOp w != 0)
   else amsgOp w != 0 || natField x.toNat 57 7 != 0 || natField x.toNat 17 31 != 0 ||
     (!x.getLsbD 56 && natField x.toNat 48 8 != 0))

/-- The highest argument index used (R347). -/
def amsgArgs (w : Word) : Nat := if amsgKind w = 3 then 3 else if amsgKind w = 4 then 5 else amsgNarg w

/-- Two registers as 8 bytes, the second one high. -/
def Ctx.pair (c : Ctx) (i : GReg) : DWord := c.getG (i + 1) ++ c.getG i

/-- Write 8 bytes to two registers. -/
def Ctx.setPair (c : Ctx) (i : GReg) (w : DWord) : Ctx :=
  if i = 0 then c else (c.setG i (w.setWidth 32)).setG (i + 1) ((w >>> 32).setWidth 32)

/-- Send a user message (R324, R347): it counts as sent. A target that this module does not have nacks with DETAIL 0x03, a
module that no route reaches with 0x04 (R348). -/
def State.sendUser (s : State) (m : UserMsg) : State :=
  let to' := msgTarget s.modidx.toNat m.target
  let r := m.src.rank
  let s : State := { s with reqs := s.reqs + 1 }
  let nack (s : State) (d : Byte) := s.modTile r fun t => { t with nacks := t.nacks ++ [.user m d] }
  if to'.1 = s.modidx.toNat then
    if s.ranked ≤ to'.2 then nack s 0x03
    else
      (s.modTile to'.2 fun t => t.arrive (.user m)).modTile r fun t => { t with msgSent := t.msgSent + 1 }
  else
    if !s.linked to'.1 then nack s 0x04
    else
      { s.sendPacket to'.1 (.message m to'.2) with abroad := s.abroad ++ [m] }.modTile r fun t =>
        { t with msgSent := t.msgSent + 1 }

/-- The message of the running context's AMSG. -/
def State.userMsg (s : State) (d : GReg) (x : AReg) (y : GReg) : UserMsg :=
  let c := s.cur
  let w := c.getG y
  { kind := amsgKind w, args := (List.range (amsgNarg w)).map fun j => c.getG (y + BitVec.ofNat 6 (j + 1))
    src := s.sender s.focus.rank s.focus.ctx, target := c.getA x, answer := d != 0, pts := c.pts, tag := s.reqs }

/-- AMSG (R347, R348). -/
def execAmsg (d : GReg) (x : AReg) (y : GReg) (s : State) : Out :=
  runGroup .all false (fun s =>
    let c := s.cur
    let w := c.getG y
    let a := c.getA x
    let k := amsgKind w
    if amsgBad w a then .error s.refuse
    else if 63 < y.toNat + amsgArgs w ∨ (k < 32 ∧ d = 63) then .error s.refuse
    else if 32 ≤ k ∧ d ≠ 0 ∧ s.focus.ctx = .m then .error s.refuse
    else if 32 ≤ k ∧ !a.getLsbD 56 ∧ s.ranked ≤ natField a.toNat 0 17 then .error s.refuse
    else if k < 32 then
      atomicOn .wafer a 8 (fun _ => if k = 3 then .amo8 (amsgOp w) else .cas8) (if k = 3 then c.pair (y + 1) else c.pair (y + 3))
        (c.pair (y + 1)) (d == 0) (fun c old => c.setPair d old) s
    else
      match c.reply with
      | .waiting => .error (.wait s)
      | .value v => .ok (.on (s.modCur fun c => { c.setG d v with reply := .none }))
      | .nack detail => .error (.trap 0x31 detail a)
      | .none =>
        if !s.released then .error (.wait s)
        else
          let m := s.userMsg d x y
          let s' := s.sendUser m
          if d = 0 then
            .ok (.on (s'.modCur fun c => { c with postedMsgs := c.postedMsgs ++ [msgTarget s.modidx.toNat a] }))
          else .error (.wait (s'.modCur fun c => { c with reply := .waiting, replyTag := m.tag }))) s

/-! ## Running a message (R326, R349, R350) -/

/-- The rank and context of a sender, in the form of g4 (R326). -/
def senderWord (src : Sender) : Word :=
  BitVec.ofNat 32 (src.rank % 2 ^ 17 + (match src.ctx with
    | .s => 0 | .c => 1 | .m => 2) * 2 ^ 17)

/-- The message context at the first group of a message (R326). -/
def Ctx.startMessage (c : Ctx) (m : UserMsg) (k : UserKind) (amode : BitVec 7) : Ctx :=
  let c := { c.meet m.pts with
    run := .running, sup := false, pc := k.start &&& 0xFFFE, past := false, loops := [], wd := 0, wdFired := false
    waiting := false, replays := 0, hstep := 0, hreplays := 0
    hcur := BitVec.ofNat 32 m.kind, amode := amodeStored (amode.setWidth 32) }
  let c := ((c.setG 1 (m.args.getD 0 0)).setG 2 (m.args.getD 1 0)).setG 3 (m.args.getD 2 0)
  (c.setG 4 (senderWord m.src)).setG 5 (BitVec.ofNat 32 m.src.mod)

/-- The payload of a message record (R398): the sender, the kind, the sender's module, the target. -/
def messagePayload (src : Sender) (kind target mod : Nat) : BitVec 256 :=
  ((BitVec.ofNat 8 mod ++ 0#7 ++ BitVec.ofNat 17 target) ++ BitVec.ofNat 32 src.mod ++ BitVec.ofNat 32 kind ++
    senderWord src).setWidth 256

/-- The target's fatal record of a kind that its node does not receive (R326). -/
def State.invalidKind (s : State) (r : Nat) (m : UserMsg) : State :=
  s.post r (s.hwRecord r none 0x31 0x01 m.target true false (messagePayload m.src m.kind r s.modidx.toNat))

/-- USER_MESSAGE_START: message `n` of a tile, a user message, is nacked, or begins on the idle message thread (R326, R348). -/
def execUserMessageStart (r n : Nat) (s : State) : Out :=
  let t := s.tile r
  match t.mayTake n with
  | some (.user m) =>
    if t.struck then .next ((s.takeMsg r n m.src).nackUser m 0x02)
    else if !s.carries r m.src then .next ((s.takeMsg r n m.src).nackUser m 0x03)
    else
      match t.kinds.find? (·.kind = m.kind) with
      | none => .next (((s.takeMsg r n m.src).invalidKind r m).nackUser m 0x01)
      | some k => event s (t.m.is .dispatch && !t.held && !t.switching && t.clocked && t.m.due.isNone) fun s =>
          s.modTile r fun t => { t.leaveInbox n with
            current := some ⟨m, k.rpl, false, k.wdexp⟩
            m := t.m.startMessage m k t.coreS.amode }
  | _ => .next s

/-- The current message of the running tile has been answered. -/
def Tile.markAnswered (t : Tile) : Tile :=
  { t with current := t.current.map fun c => { c with answered := true } }

/-- The answer to a sender that waits; a reply to a posted message is discarded (R349). -/
def State.reply (s : State) (c : CurrentMsg) (w : Word) : State :=
  (if c.msg.answer then s.answerMsg c.msg w s.cur.pts else s).modHere Tile.markAnswered

/-- MRPL (R349). -/
def execMrpl (x : GReg) (s : State) : Out :=
  runGroup .message false (fun s =>
    match s.here.current with
    | none => .error s.refuse
    | some c =>
      if !c.rpl ∨ c.answered then .error s.refuse
      else if !s.released then .error (.wait s)
      else .ok (.on (s.reply c (s.cur.getG x)))) s

/-- MHEND (R350): the reply of a kind with RPL that has none yet is g[x], of any other 0. -/
def execMhend (x : GReg) (s : State) : Out :=
  runGroup .message false (fun s =>
    if s.cur.sup then .error s.refuse
    else if !s.released then .error (.wait s)
    else
      let rpl := (s.here.current.map (·.rpl)).getD false
      .ok (.leave (s.endMessage s.focus.rank (if rpl then s.cur.getG x else 0)))) s

/-! ## Answers at the sender (R347 to R349) -/

/-- MESSAGE_REPLY: the oldest reply for a context arrives; one that nobody waits for is discarded. -/
def execMessageReply (r : Nat) (c : CtxId) (s : State) : Out :=
  match (s.tile r).replies.find? (·.ctx = c) with
  | none => .next s
  | some m => event s (s.tile r).clocked fun s =>
      let s := s.modTile r fun t => { t with replies := t.replies.erase m }
      let x := (s.tile r).ctx c
      if x.reply == .waiting && x.replyTag == m.tag then
        (s.modCtx r c fun x => { x.meet m.pts with reply := .value m.word }).next [.group r c]
      else s

/-- The fatal record of a nacked posted message (R348). -/
def State.postNack (s : State) (r : Nat) (m : UserMsg) (detail : Byte) : State :=
  let to' := msgTarget s.modidx.toNat m.target
  (s.modCtx r m.src.ctx fun c => { c with postedMsgs := c.postedMsgs.erase to' }).post r
    (s.hwRecord r none 0x31 detail m.target true false (messagePayload m.src m.kind to'.2 to'.1))

/-- MESSAGE_NACK: nack `n` of a tile: a waiting AMSG traps; a posted one, or a remote arrival, makes the tile post a fatal
record (R168, R348). -/
def execMessageNack (r n : Nat) (s : State) : Out :=
  match (s.tile r).nacks[n]? with
  | none => .next s
  | some k => event s (s.tile r).clocked fun s =>
      let s := s.modTile r fun t => { t with nacks := t.nacks.eraseIdx n }
      match k with
      | .user m detail =>
        let x := (s.tile r).ctx m.src.ctx
        if !m.answer then s.postNack r m detail
        else if x.reply == .waiting && x.replyTag == m.tag then
          (s.modCtx r m.src.ctx fun x => { x with reply := .nack detail }).next [.group r m.src.ctx]
        else s
      | .barr c w =>
        s.post r (s.hwRecord r none 0x31 0x03 (w.setWidth 64) true false
          (messagePayload (s.sender r c) 10 (arrRank w) s.modidx.toNat))

/-- A remote arrival at its target; one of another pitch is nacked (R168). -/
def serveBarr (r : Nat) (s : State) (q : Req) : State :=
  let w : Word := q.data.setWidth 32
  if s.carries r q.src then
    s.modTile r fun t => t.modBar (BitVec.ofNat 3 q.key) fun b =>
      b.arriveFrom (s.within b.scope r q.src.rank) (arrMember w) (arrFault w) q.pts
  else s.modTile q.src.rank fun t => { t with nacks := t.nacks ++ [.barr q.src.ctx w] }

/-- BARR (R168, R325). -/
def execBarr (r n : Nat) (s : State) : Out := serve r n (fun k => k == .barr) (serveBarr r) s

end Sys2Proof.Machine
end

