-- ==== Sys2Proof/Machine/Scalar.lean ====
section
/-! DEFINITION. Page 0: integer and pointer registers, immediates (R87 to R93, R106 to R111). -/

namespace Sys2Proof.Machine

/-! ## Integer operations (R89 to R93) -/

/-- Leading zero bits (R89). -/
def clz32 (w : Word) : Word := BitVec.ofNat 32 (if w = 0 then 32 else 31 - w.toNat.log2)

/-- Trailing zero bits (R89). -/
def ctz32 (w : Word) : Word := BitVec.ofNat 32 (((List.range 32).find? fun j => w.getLsbD j).getD 32)

/-- One bits (R89). -/
def popc32 (w : Word) : Word := BitVec.ofNat 32 ((List.range 32).countP fun j => w.getLsbD j)

/-- The bits in reverse order (R89). -/
def brev32 (w : Word) : Word := ofBits fun j => w.getLsbD (31 - j)

/-- Signed quotient with the corners of R91. -/
def div32 (a b : Word) : Word := if b = 0 then 0xFFFFFFFF else BitVec.ofInt 32 (a.toInt.tdiv b.toInt)

/-- Signed remainder, of the sign of the dividend (R91). -/
def rem32 (a b : Word) : Word := if b = 0 then a else BitVec.ofInt 32 (a.toInt - b.toInt * a.toInt.tdiv b.toInt)

/-- Unsigned quotient (R91). -/
def divu32 (a b : Word) : Word := if b = 0 then 0xFFFFFFFF else BitVec.ofNat 32 (a.toNat / b.toNat)

/-- Unsigned remainder (R91). -/
def remu32 (a b : Word) : Word := if b = 0 then a else BitVec.ofNat 32 (a.toNat % b.toNat)

/-- The amount of a shift: bits [4:0] (R90). -/
def shamt (w : Word) : Nat := w.toNat % 32

/-- g[d] := f(g[x]) (R89). -/
def unary (d x : GReg) (f : Word → Word) : State → Out := plain fun c => c.setG d (f (c.getG x))

/-- g[d] := f(g[x], g[y]) (R90). -/
def binary (d x y : GReg) (f : Word → Word → Word) : State → Out :=
  plain fun c => c.setG d (f (c.getG x) (c.getG y))

/-- g[d] := f(g[d]) (R92, R93). -/
def update (d : GReg) (f : Word → Word) : State → Out := unary d d f

/-- MOV: g[d] := g[x] (R89). -/
def execMov (d x : GReg) (s : State) : Out :=
  unary d x (fun w => w) s

/-- NOT: g[d] := NOT g[x] (R89). -/
def execNot (d x : GReg) (s : State) : Out :=
  unary d x (fun w => ~~~w) s

/-- NEG: g[d] := 0 − g[x] (R89). -/
def execNeg (d x : GReg) (s : State) : Out :=
  unary d x (fun w => -w) s

/-- ABS: g[d] := |g[x]|, and 0x8000_0000 for itself (R89). -/
def execAbs (d x : GReg) (s : State) : Out :=
  unary d x (fun w => if w.msb then -w else w) s

/-- CLZ: g[d] := leading zero bits (R89). -/
def execClz (d x : GReg) (s : State) : Out :=
  unary d x (fun w => clz32 w) s

/-- CTZ: g[d] := trailing zero bits (R89). -/
def execCtz (d x : GReg) (s : State) : Out :=
  unary d x (fun w => ctz32 w) s

/-- POPC: g[d] := one bits (R89). -/
def execPopc (d x : GReg) (s : State) : Out :=
  unary d x (fun w => popc32 w) s

/-- BREV: g[d] := bits reversed (R89). -/
def execBrev (d x : GReg) (s : State) : Out :=
  unary d x (fun w => brev32 w) s

/-- SEXB: g[d] := sign-extended byte (R89). -/
def execSexb (d x : GReg) (s : State) : Out :=
  unary d x (fun w => (w.setWidth 8).signExtend 32) s

/-- SEXH: g[d] := sign-extended half (R89). -/
def execSexh (d x : GReg) (s : State) : Out :=
  unary d x (fun w => (w.setWidth 16).signExtend 32) s

/-- ZEXB: g[d] := zero-extended byte (R89). -/
def execZexb (d x : GReg) (s : State) : Out :=
  unary d x (fun w => (w.setWidth 8).setWidth 32) s

/-- ZEXH: g[d] := zero-extended half (R89). -/
def execZexh (d x : GReg) (s : State) : Out :=
  unary d x (fun w => (w.setWidth 16).setWidth 32) s

/-- GLO: the low half of a[x] (R89). -/
def execGlo (d : GReg) (x : AReg) (s : State) : Out :=
  plain (fun c => c.setG d ((c.getA x).setWidth 32)) s

/-- GHI: the high half of a[x] (R89). -/
def execGhi (d : GReg) (x : AReg) (s : State) : Out :=
  plain (fun c => c.setG d ((c.getA x >>> 32).setWidth 32)) s

/-- ALO: writes the low half of a[d] (R89). -/
def execAlo (d : AReg) (x : GReg) (s : State) : Out :=
  plain (fun c => c.setA d ((c.getA d).extractLsb' 32 32 ++ c.getG x)) s

/-- AHI: writes the high half of a[d] (R89). -/
def execAhi (d : AReg) (x : GReg) (s : State) : Out :=
  plain (fun c => c.setA d (c.getG x ++ (c.getA d).extractLsb' 0 32)) s

/-- ADD (R90). -/
def execAdd (d x y : GReg) (s : State) : Out :=
  binary d x y (fun a b => a + b) s

/-- SUB (R90). -/
def execSub (d x y : GReg) (s : State) : Out :=
  binary d x y (fun a b => a - b) s

/-- AND (R90). -/
def execAnd (d x y : GReg) (s : State) : Out :=
  binary d x y (fun a b => a &&& b) s

/-- OR (R90). -/
def execOr (d x y : GReg) (s : State) : Out :=
  binary d x y (fun a b => a ||| b) s

/-- XOR (R90). -/
def execXor (d x y : GReg) (s : State) : Out :=
  binary d x y (fun a b => a ^^^ b) s

/-- SLL (R90). -/
def execSll (d x y : GReg) (s : State) : Out :=
  binary d x y (fun a b => a <<< shamt b) s

/-- SRL (R90). -/
def execSrl (d x y : GReg) (s : State) : Out :=
  binary d x y (fun a b => a >>> shamt b) s

/-- SRA (R90). -/
def execSra (d x y : GReg) (s : State) : Out :=
  binary d x y (fun a b => a.sshiftRight (shamt b)) s

/-- MUL (R90). -/
def execMul (d x y : GReg) (s : State) : Out :=
  binary d x y (fun a b => a * b) s

/-- MULH (R90). -/
def execMulh (d x y : GReg) (s : State) : Out :=
  binary d x y (fun a b => ((a.signExtend 64 * b.signExtend 64) >>> 32).setWidth 32) s

/-- MULHU (R90). -/
def execMulhu (d x y : GReg) (s : State) : Out :=
  binary d x y (fun a b => ((a.setWidth 64 * b.setWidth 64) >>> 32).setWidth 32) s

/-- ROR (R90). -/
def execRor (d x y : GReg) (s : State) : Out :=
  binary d x y (fun a b => a.rotateRight (shamt b)) s

/-- DIV (R91). -/
def execDiv (d x y : GReg) (s : State) : Out :=
  binary d x y (fun a b => div32 a b) s

/-- DIVU (R91). -/
def execDivu (d x y : GReg) (s : State) : Out :=
  binary d x y (fun a b => divu32 a b) s

/-- REM (R91). -/
def execRem (d x y : GReg) (s : State) : Out :=
  binary d x y (fun a b => rem32 a b) s

/-- REMU (R91). -/
def execRemu (d x y : GReg) (s : State) : Out :=
  binary d x y (fun a b => remu32 a b) s

/-- SLT (R90). -/
def execSlt (d x y : GReg) (s : State) : Out :=
  binary d x y (fun a b => boolWord (a.slt b)) s

/-- SLTU (R90). -/
def execSltu (d x y : GReg) (s : State) : Out :=
  binary d x y (fun a b => boolWord (a.ult b)) s

/-- SEQ (R90). -/
def execSeq (d x y : GReg) (s : State) : Out :=
  binary d x y (fun a b => boolWord (a = b)) s

/-- SNE (R90). -/
def execSne (d x y : GReg) (s : State) : Out :=
  binary d x y (fun a b => boolWord (a ≠ b)) s

/-- MIN (R90). -/
def execMin (d x y : GReg) (s : State) : Out :=
  binary d x y (fun a b => if a.slt b then a else b) s

/-- MAX (R90). -/
def execMax (d x y : GReg) (s : State) : Out :=
  binary d x y (fun a b => if a.slt b then b else a) s

/-- MINU (R90). -/
def execMinu (d x y : GReg) (s : State) : Out :=
  binary d x y (fun a b => if a.ult b then a else b) s

/-- MAXU (R90). -/
def execMaxu (d x y : GReg) (s : State) : Out :=
  binary d x y (fun a b => if a.ult b then b else a) s

/-- ADDI (R92). -/
def execAddi (d : GReg) (imm : BitVec 64) (s : State) : Out :=
  update d (fun w => w + imm32 imm) s

/-- ANDI (R92). -/
def execAndi (d : GReg) (imm : BitVec 64) (s : State) : Out :=
  update d (fun w => w &&& imm32 imm) s

/-- ORI (R92). -/
def execOri (d : GReg) (imm : BitVec 64) (s : State) : Out :=
  update d (fun w => w ||| imm32 imm) s

/-- XORI (R92). -/
def execXori (d : GReg) (imm : BitVec 64) (s : State) : Out :=
  update d (fun w => w ^^^ imm32 imm) s

/-- LI (R92). -/
def execLi (d : GReg) (imm : BitVec 64) (s : State) : Out :=
  plain (fun c => c.setG d (imm32 imm)) s

/-- SLLI (R93). -/
def execSlli (d : GReg) (amount : BitVec 5) (s : State) : Out :=
  update d (fun w => w <<< amount.toNat) s

/-- SRLI (R93). -/
def execSrli (d : GReg) (amount : BitVec 5) (s : State) : Out :=
  update d (fun w => w >>> amount.toNat) s

/-- SRAI (R93). -/
def execSrai (d : GReg) (amount : BitVec 5) (s : State) : Out :=
  update d (fun w => w.sshiftRight amount.toNat) s

/-- RORI (R93). -/
def execRori (d : GReg) (amount : BitVec 5) (s : State) : Out :=
  update d (fun w => w.rotateRight amount.toNat) s

/-! ## Pointers (R106 to R111) -/

/-- The invalid pointer (R108). -/
def invPtr : DWord := 0xFFC0000000000000

/-- a[x] plus a signed word (R106). -/
def Ctx.aPlus (c : Ctx) (x : AReg) (w : Word) : DWord := c.getA x + w.signExtend 64

/-- A signed 64-bit difference bounded to 32 bits (R106). -/
def clamp32 (d : DWord) : Word := BitVec.ofInt 32 (clampInt (-(2 ^ 31)) (2 ^ 31 - 1) d.toInt)

/-- The global address of a byte of a handle's current backing, when the pitch declares the handle and the byte lies in the
buffer (R110). -/
def State.bufferVa (s : State) (h off : Nat) : Option Nat :=
  match s.pitchHere.bind fun p => p.handles[h]? with
  | some hd => if off < hd.buffer.size then some (hd.va false off) else none
  | none => none

/-- a[d] := a cast of a[x] (R110). -/
def cast (d x : AReg) (f : State → Space → Option DWord) (s : State) : Out :=
  let v := ((spaceOf (s.cur.getA x)).bind (f s)).getD invPtr
  plain (fun c => c.setA d v) s

/-- A make-pointer instruction: `base` with the offset g[x] below `bound`, else the invalid pointer (R111). -/
def makePtr (d : AReg) (x : GReg) (base : DWord) (bound : Nat) : State → Out :=
  plain fun c => c.setA d (if (c.getG x).toNat < bound then base ||| (c.getG x).setWidth 64 else invPtr)

/-- AADD (R106). -/
def execAadd (d x : AReg) (y : GReg) (s : State) : Out :=
  plain (fun c => c.setA d (c.aPlus x (c.getG y))) s

/-- AADDS: the sum must be canonical and stay in its window (R106). -/
def execAadds (d x : AReg) (y : GReg) (s : State) : Out :=
  runGroup .all false (fun s =>
    let t := s.cur.aPlus x (s.cur.getG y)
    if spaceOf t = none ∨ t >>> 54 ≠ s.cur.getA x >>> 54 then .error (.trap 0x05 0 t)
    else .ok (.on (s.modCur fun c => c.setA d t))) s

/-- ASUB (R106). -/
def execAsub (d : GReg) (x y : AReg) (s : State) : Out :=
  plain (fun c => c.setG d (clamp32 (c.getA x - c.getA y))) s

/-- AEQ (R106). -/
def execAeq (d : GReg) (x y : AReg) (s : State) : Out :=
  plain (fun c => c.setG d (boolWord (c.getA x = c.getA y))) s

/-- AADDI (R107). -/
def execAaddi (d : AReg) (imm : BitVec 64) (s : State) : Out :=
  plain (fun c => c.setA d (c.getA d + imm)) s

/-- SPT (R109). -/
def execSpt (d : GReg) (x : AReg) (s : State) : Out :=
  plain (fun c => c.setG d (BitVec.ofNat 32 (spaceCode (c.getA x)))) s

/-- SPCG: a global pointer, or the current backing of a buffer byte (R110). -/
def execSpcg (d x : AReg) (s : State) : Out :=
  cast d x (fun s sp =>
    match sp with
    | .global _ => some (s.cur.getA x)
    | .buffer h off => (s.bufferVa h off).map (BitVec.ofNat 64)
    | _ => none) s

/-- SPCB (R110). -/
def execSpcb (d x : AReg) (s : State) : Out :=
  cast d x (fun s sp => match sp with | .buffer _ _ => some (s.cur.getA x) | _ => none) s

/-- SPCC (R110). -/
def execSpcc (d x : AReg) (s : State) : Out :=
  cast d x (fun s sp => match sp with | .cluster _ => some (s.cur.getA x) | _ => none) s

/-- SPCS: only of this tile (R110). -/
def execSpcs (d x : AReg) (s : State) : Out :=
  cast d x (fun s sp =>
    match sp with
    | .scratch o _ => if o = s.focus.rank then some (s.cur.getA x) else none
    | _ => none) s

/-- SPCL: only on the C core (R110). -/
def execSpcl (d x : AReg) (s : State) : Out :=
  cast d x (fun s sp =>
    match sp with
    | .lane _ => if s.focus.ctx = .c then some (s.cur.getA x) else none
    | _ => none) s

/-- MKS (R111). -/
def execMks (d : AReg) (x : GReg) (s : State) : Out :=
  makePtr d x (scratchPtr s.focus.rank 0) (2 ^ 20) s

/-- MKC (R111). -/
def execMkc (d : AReg) (x : GReg) (s : State) : Out :=
  makePtr d x 0xFF00000000000000 (2 ^ 22) s

/-- MKL (R111). -/
def execMkl (d : AReg) (x : GReg) (s : State) : Out :=
  makePtr d x 0xFF80000000000000 (2 ^ 15) s

/-- AMOV (R108). -/
def execAmov (d x : AReg) (s : State) : Out :=
  plain (fun c => c.setA d (c.getA x)) s

/-- AZERO (R108). -/
def execAzero (d : AReg) (s : State) : Out :=
  plain (fun c => c.setA d 0) s

end Sys2Proof.Machine
end

