-- ==== Sys2Proof/Machine/Speosh.lean ====
section
/-! DEFINITION. Speosh links, and the packets of other modules (R336, R348, R353, R379, R443 to R447, R450). -/

namespace Sys2Proof.Machine

/-! ## Links (R443, R444) -/

/-- The link in state UP, with what waited on its way. -/
def Link.goUp (l : Link) : Link := { l with state := .up }.go

/-- A Speosh port's number. -/
def portNumber (port : Nat) : Bool := decide (port < 96)

/-- An event of a link in some state. -/
def linkEvent (port : Nat) (st : LinkState) (f : Link → Link) (s : State) : Out :=
  event s (portNumber port && (s.portLink port).state == st) fun s => s.modLink port f

/-- LIGHT_DETECTED: DOWN to TRAIN (R444). -/
def execLightDetected (port : Nat) (s : State) : Out :=
  event s (portNumber port && (s.portLink port).state == .down) fun s =>
    { s.modLink port fun l => { l with state := .train } with linkUsed := true }

/-- TRAIN_LOCK: TRAIN to CAL (R444). -/
def execTrainLock (port : Nat) (s : State) : Out := linkEvent port .train (fun l => { l with state := .cal }) s

/-- TRAIN_TIMEOUT: no lock within 1 ms (R444). -/
def execTrainTimeout (port : Nat) (s : State) : Out :=
  linkEvent port .train Link.fallen s

/-- CALIBRATION: the round trip, in nanoseconds, is measured, and an unset TICK of a module other than 0 is set from the beacon
of a peer whose TICK is set: its TICK and half the round trip, in ticks of 32 ns rounded up (R444). -/
def execCalibration (port : Nat) (trip : Nat) (peerTick : Option DWord) (s : State) : Out :=
  event s (portNumber port && (s.portLink port).state == .cal) fun s =>
    let s : State := { s.modLink port fun l => { l with trip := trip }.goUp with linkTrained := true }
    match peerTick with
    | some t => if s.tickSet ∨ s.modidx = 0 then s
        else { s with tick := t + BitVec.ofNat 64 ((trip + 63) / 64), tickSet := true }.autoSwitch
    | none => s

/-- CRC_FAILURE_BURST: 16 CRC failures within 1 µs (R444). -/
def execCrcFailureBurst (port : Nat) (s : State) : Out := linkEvent port .up (fun l => { l with state := .retrain }) s

/-- SPEOSH_LINK_TIMEOUT: no flit or beacon for 10 µs (R379, R444). -/
def execSpeoshLinkTimeout (port : Nat) (s : State) : Out := linkEvent port .up (fun l => { l with state := .retrain }) s

/-- RETRAIN_LOCK: the link is UP again, and replays (R444). -/
def execRetrainLock (port : Nat) (s : State) : Out := linkEvent port .retrain (fun l => l.resend.goUp) s

/-- FLIT_REPLAY (R443). -/
def execFlitReplay (port : Nat) (s : State) : Out := linkEvent port .up Link.resend s

/-- The beacon of a port (R443): MODIDX, VER, TICK and the port's number. It goes to whatever module is at the other end; DST names
the sender (log 31). -/
def State.beacon (s : State) (port : Nat) : Packet :=
  { ver := topoVer s.topo, dst := s.modidx.toNat, src := s.modidx.toNat, body := .beacon s.tick port }

/-- SPEOSH_BEACON: an idle port sends its beacon (R443). -/
def execSpeoshBeacon (port : Nat) (s : State) : Out :=
  linkEvent port .up (fun l => if l.waiting.isEmpty then l.push (s.beacon port) else l) s

/-! ## Named failures (R379, R398) -/

/-- The payload of a named failure (R398). -/
def namedPayload (part which dir : Nat) : BitVec 256 :=
  (BitVec.ofNat 64 dir ++ BitVec.ofNat 32 which ++ BitVec.ofNat 32 part).setWidth 256

/-- A named failure, as a fatal record of each of some pitches, posted at the failed tile, or at the pitch's handle home when the
failed part is no tile's (R379). -/
def State.postNamed (s : State) (at' : Option Nat) (part which dir : Nat) (ids : List PitchId) : State :=
  ids.foldl (fun s id =>
    let r := at'.getD (((s.pitch? id).map s.handleHome).getD 0)
    let record : Record := { s.hwRecord r none 0x33 0 0 true false (namedPayload part which dir) with pitch := pitchWord id }
    s.modField (s.fieldOf r) fun f => { f with posts := f.posts ++ [{ record := record, pitch := some id }] }) s

/-- A pitch that a failure can end. -/
def Pitch.active (p : Pitch) : Bool :=
  match p.state with
  | .running | .preempting => true
  | _ => false

/-- The pitches with plans that depend on a lost part. -/
def State.pitchesWith (s : State) (hit : Plan → Bool) : List PitchId :=
  (s.pitches.filter fun p => p.active && p.plans.any fun q => q.present && hit q).map (·.id)

/-- What a lost module's handle home holds of a pitch's home is let go: a request of it that has taken this home ends, and its COLFR
keeps no firing from beginning (R353, R354). -/
def Pitch.released (p : Pitch) (far : Nat → Bool) : Pitch :=
  let taken := p.setup.any fun e => far e.1
  { p with
    setup := if taken then none else p.setup
    asks := p.asks.filter fun a => !far a.mod
    plans := (if taken then p.plans.filter fun q => !q.pending else p.plans).map fun q =>
      { q with lockedFor := q.lockedFor.filter fun e => !far e.1 } }

/-- Modules are lost to this one: the plans that depend on the lost part fail with FCAUSE 2, their waiting and posted messages are nacked with DETAIL
0x04 and are on their way no more (R327, R336, R348, R355). -/
def State.loseModules (s : State) (far : Nat → Bool) (hit : Plan → Bool) : State :=
  let own := s.modidx.toNat
  let s := s.pitches.foldl (fun s p => (s.failPlans p.id (fun q => q.present && hit q) 2).modPitch p.id
    fun p => p.released far) s
  let lost := s.abroad.filter fun m => far (msgTarget own m.target).1
  let s : State := { s with abroad := s.abroad.filter fun m => !far (msgTarget own m.target).1 }
  lost.foldl (fun s m => (s.countDone m.src.rank m.src).modTile m.src.rank fun t => { t with nacks := t.nacks ++ [.user m 0x04] }) s

/-- RETRAIN_TIMEOUT: a retrain beyond 50 µs takes the link DOWN with a named failure, part kind 4 (R379, R444). -/
def execRetrainTimeout (port : Nat) (s : State) : Out :=
  event s (portNumber port && (s.portLink port).state == .retrain) fun s =>
    let far (m : Nat) : Bool := s.routeTo m == some port
    let hit (q : Plan) : Bool := (q.legModules s.modidx.toNat).any far
    let ids := s.pitchesWith hit
    let s := s.modLink port Link.fallen
    (s.loseModules far hit).postNamed none 4 port 0 ids

/-- MODULE_TIMEOUT: a peer has been silent for 100 µs: named once, part kind 5 (R379). -/
def execModuleTimeout (mod : Nat) (s : State) : Out :=
  event s (mod != s.modidx.toNat && decide (mod < 256) && !s.silentModules.contains mod) fun s =>
    let far (m : Nat) : Bool := m == mod
    let hit (q : Plan) : Bool := (q.others s.modidx.toNat).any far
    let ids := s.pitchesWith hit
    ({ s with silentModules := insertNat s.silentModules mod }.loseModules far hit).postNamed none 5 mod 0 ids

/-- POD_MEMBER_TIMEOUT: the pod controller names a member silent for 1 ms, and the job fails (R379). -/
def execPodMemberTimeout (mod : Nat) (s : State) : Out :=
  event s (decide (mod < 256)) fun s => { s with jobFailed := true }

/-! ## Arriving packets (R447) -/

/-- The packet is one that a different VER rejects: a collective partial or delivery, a message, a reply (R447). What handle homes tell
one another travels as messages do (DEDUCED, log 31). -/
def versioned : PacketBody → Bool
  | .message _ _ | .reply _ _ _ _ _ _ _ | .partialSum _ _ _ _ _ _ _ _ | .delivery _ _ _ _ _ _ | .plan _ _ => true
  | .nack _ _ | .planNack _ _ _ | .homeNack _ _ _ | .beacon _ _ => false

/-- A message of another module: to a rank that is not there it is nacked; else it reaches the tile, and counts as sent
when the tile carries its pitch (R324, R327, R348, R450). -/
def State.messageCame (s : State) (m : UserMsg) (rank : Nat) : State :=
  if s.ranked ≤ rank then s.nackUser m 0x03
  else
    let s' := s.modTile rank fun t => t.arrive (.user m)
    if s.carries rank m.src then s'.modTile rank fun t => { t with msgSent := t.msgSent + 1 } else s'

/-- The message that a reply or nack answers, while it is unanswered. -/
def State.awaited (s : State) (rank : Nat) (ctx : CtxId) (tag : Nat) : Option UserMsg :=
  s.abroad.find? fun m => m.src.rank == rank && m.src.ctx == ctx && m.tag == tag

/-- A message is answered: it is on its way no more, and counts as completed at its sender (R327, log 29). -/
def State.answered (s : State) (m : UserMsg) : State := { s with abroad := s.abroad.erase m }.countDone m.src.rank m.src

/-- A rejected packet (R447): a plan's firing fails with FCAUSE 3, here when the packet is for this module, and its sender is
told; a message is nacked; a reply is dropped. -/
def State.rejected (s : State) (src dst : Nat) (body : PacketBody) : State :=
  let stale (cfg : Nat) (k : PlanKey) : State :=
    (match dst == s.modidx.toNat, s.remotePlan cfg k with
     | true, some (id, p) => s.failPlan id p 3
     | _, _ => s).sendPacket src (.planNack cfg k 3)
  match body with
  | .message m _ => s.nackUser m 0x04
  | .partialSum cfg k _ _ _ _ _ _ => stale cfg k
  | .delivery cfg k _ _ _ _ => stale cfg k
  | .plan cfg m => s.sendPacket src (.homeNack cfg dst m)
  | _ => s

/-- An accepted packet for this module (R333 to R337, R348 to R350, R353, R354, R443, R447, R450). -/
def State.accepted (s : State) (port src : Nat) (ver : Half) (body : PacketBody) : State :=
  match body with
  | .message m rank => s.messageCame m rank
  | .reply rank ctx answer tag value target pts =>
    (match s.awaited rank ctx tag with
     | none => s
     | some m =>
       let s := s.answered m
       if answer then s.modTile rank fun t => { t with replies := t.replies ++ [⟨ctx, tag, value, pts⟩] }
       else s.modCtx rank ctx fun c =>
         { c.meet pts with postedMsgs := c.postedMsgs.erase (msgTarget s.modidx.toNat target) })
  | .nack m detail =>
    (match s.awaited m.src.rank m.src.ctx m.tag with
     | none => s
     | some m => (s.answered m).modTile m.src.rank fun t => { t with nacks := t.nacks ++ [.user m detail] })
  | .partialSum cfg k firing node span total data pts => s.partialCame src cfg k firing node span total data pts
  | .delivery cfg k firing total data pts => s.deliveryCame src cfg k firing total data pts
  | .planNack cfg k cause => s.planNacked cfg k cause
  | .homeNack cfg to' m => s.homeNacked cfg to' m
  | .plan cfg m => s.told src cfg m
  | .beacon _ _ => s.modLink port fun l => { l with peerVer := ver }

/-- Forward another module's packet unchanged, by the active bank (R445). -/
def State.forward (s : State) (pkt : Packet) : State :=
  match s.routeTo pkt.dst with
  | some port => s.modLink port fun l => l.push pkt
  | none => s

/-- A whole packet has come in at a port: VER is compared on every packet, relays included; a rejected one counts on its port
(R447). -/
def State.packetCame (s : State) (port : Nat) (pkt : Packet) : State :=
  let s : State := { s with silentModules := s.silentModules.filter (· ≠ pkt.src) }
  if versioned pkt.body && pkt.ver != topoVer s.topo then
    (s.modLink port fun l => { l with stale := if l.stale = 0xFFFFFFFF then l.stale else l.stale + 1 }).rejected pkt.src
      pkt.dst pkt.body
  else if pkt.body.kind = 5 ∨ pkt.dst = s.modidx.toNat then s.accepted port pkt.src pkt.ver pkt.body
  else s.forward pkt

/-- A link meets a flit whose CRC is good (R443): what it acknowledges leaves the replay buffer; the flit is taken when it is the one
expected next, and dropped when it is not: one resent, or one behind a flit that was lost. -/
def Link.take (l : Link) (f : Flit) : Link :=
  let l := l.acknowledged f.ack
  if f.seq = l.expect then { l with expect := l.expect + 1 } else l

/-- SPEOSH_PACKET_RECEIVE: a flit comes in; the last flit of a packet brings the whole of it, in order (R443, R447). -/
def execSpeoshPacketReceive (port : Nat) (flit : Flit) (s : State) : Out :=
  event s (portNumber port && (s.portLink port).state == .up && flit.good) fun s =>
    let due := flit.seq == (s.portLink port).expect && flit.part == flit.pkt.body.len
    let s := s.modLink port fun l => l.take flit
    if due then s.packetCame port flit.pkt else s

end Sys2Proof.Machine
end

