-- ==== Sys2Proof/Machine/VectorMem.lean ====
section
/-! DEFINITION. Page 1: vector loads and stores (R192 to R195). -/

namespace Sys2Proof.Machine

/-! ## Contiguous forms -/

/-- The part of a 16-byte piece that holds its active lanes: offset and size; a read takes whole 8-byte words (R176, R373). -/
def pieceSpan (p : Word) (j : Nat) : Option (Nat × Nat) :=
  let on (k : Nat) := p.getLsbD (4 * j + k)
  match on 0 || on 1, on 2 || on 3 with
  | false, false => none
  | true, false => some (0, 8)
  | false, true => some (8, 8)
  | true, true => some (0, 16)

/-- The pieces of a contiguous read: first byte and place (R195). -/
def State.readSpans (s : State) (t : Target) (p : Word) (n : Nat) : List (Nat × Piece) :=
  (List.range n).filterMap fun j =>
    (pieceSpan p j).map fun e => (16 * j + e.1, s.pieceAt s.focus.rank t (16 * j + e.1) e.2)

/-- Bytes gathered at their offsets, as a register. -/
def gather (parts : List (Nat × BitVec 128)) : VWord :=
  parts.foldl (fun (v : VWord) e => v ||| ((e.2.setWidth 1024 : VWord) <<< (8 * e.1))) 0

/-- VLD and VLDH: `n` pieces; active lanes beyond them take zero (R192, R194). -/
def loadLanes (p : PReg) (d : VReg) (x : AReg) (imm : BitVec 64) (n : Nat) : State → Out :=
  runGroup .all false fun s => do
    let c := s.cur
    let m := c.getP p
    if m = 0 then return .on s
    let ea := c.ea x imm (16 * n)
    let t ← s.target .load ea (16 * n)
    let spans := s.readSpans t m n
    let r ← s.readPieces ea (spans.map (·.2))
    let v := gather ((spans.map (·.1)).zip r.2)
    return .on (r.1.modCur fun c => c.setV d (merge m (c.getV d) fun j => lane v j))

/-- VLD (R192). -/
def execVld (p : PReg) (d : VReg) (x : AReg) (imm : BitVec 64) (s : State) : Out := loadLanes p d x imm 8 s
/-- VLDH (R192). -/
def execVldh (p : PReg) (d : VReg) (x : AReg) (imm : BitVec 64) (s : State) : Out := loadLanes p d x imm 4 s

/-- The byte mask of the active lanes of a piece (R195). -/
def pieceMask (p : Word) (j : Nat) : Nat :=
  (List.range 4).foldl (fun m k => if p.getLsbD (4 * j + k) then m + 15 * 16 ^ k else m) 0

/-- VST and VSTH (R192, R195): the bytes of inactive lanes are not written. -/
def storeLanes (p : PReg) (d : VReg) (x : AReg) (imm : BitVec 64) (n : Nat) : State → Out :=
  runGroup .all false fun s => do
    let c := s.cur
    let m := c.getP p
    if m = 0 then return .on s
    let ea := c.ea x imm (16 * n)
    let t ← s.target .store ea (16 * n)
    let ps := ((List.range n).filter fun j => pieceMask m j != 0).map fun j =>
      ({ piece := s.pieceAt s.focus.rank t (16 * j) 16, data := (c.getV d).extractLsb' (128 * j) 128, mask := pieceMask m j } : StorePiece)
    let s' ← s.writePieces ps
    return .on s'

/-- VST (R192). -/
def execVst (p : PReg) (d : VReg) (x : AReg) (imm : BitVec 64) (s : State) : Out := storeLanes p d x imm 8 s
/-- VSTH (R192). -/
def execVsth (p : PReg) (d : VReg) (x : AReg) (imm : BitVec 64) (s : State) : Out := storeLanes p d x imm 4 s

/-- VLDB: one element, written to every active element (R192, R195). -/
def execVldb (t : EType) (p : PReg) (d : VReg) (x : AReg) (imm : BitVec 64) (s : State) : Out :=
  runGroup .all false (fun s => do
    let c := s.cur
    let m := c.getP p
    let n := t.width / 8
    if m = 0 then return .on s
    let ea := c.ea x imm n
    let g ← s.target .load ea n
    let r ← s.readPieces ea [g.piece n]
    return .on (r.1.modCur fun c => c.setV d (mergeElems t.width m (c.getV d) fun _ => (r.2.headD 0).toNat))) s

/-! ## Element forms -/

/-- The check of element `e` (R194). A skewed element, one after the first under a stride that is no multiple of its size, is misaligned
wherever it lies (R193). -/
def State.elemTarget (s : State) (u : Purpose) (n : Nat) (skew : Bool) (e : Nat) (ea : DWord) : Except Exit Target :=
  if skew && (spaceOf ea).isSome then .error (.trap 0x04 (BitVec.ofNat 8 e) ea)
  else
    match s.target u ea n with
    | .error (.trap code _ v) => .error (.trap code (BitVec.ofNat 8 e) v)
    | .error (.trapIn s' code _ v) => .error (.trapIn s' code (BitVec.ofNat 8 e) v)
    | t => t

/-- The elements of an element form: number, address, target, up to the first whose check fails, with what ends the group there, its
trap or the wait for its translation (R194). -/
def State.elemTargets (s : State) (u : Purpose) (n : Nat) (skew : Nat → Bool) :
    List (Nat × DWord) → List (Nat × DWord × Target) × Option Exit
  | [] => ([], none)
  | (e, ea) :: rest =>
    match s.elemTarget u n (skew e) e ea with
    | .error x => ([], some x)
    | .ok t =>
      let r := s.elemTargets u n skew rest
      ((e, ea, t) :: r.1, r.2)

/-- A check found a translation that is not there yet. -/
def Exit.waits : Option Exit → Bool
  | some (.wait _) => true
  | _ => false

/-- Load the elements at addresses, ascending: the lowest faulting element is reported with its index and address, bad data
included (R194). -/
def State.loadElems (s : State) (n : Nat) (skew : Nat → Bool) (addrs : List (Nat × DWord)) :
    Except Exit (State × List (Nat × Nat)) := do
  let ts := s.elemTargets .load n skew addrs
  if Exit.waits ts.2 then throw (.wait s)
  let blame (k : Nat) (code : Byte) : Exit :=
    match ts.1[k]? with
    | some e => .trap code (BitVec.ofNat 8 e.1) e.2.1
    | none => .trap code 0 0
  let r ← s.readEach blame (ts.1.map fun e => e.2.2.piece n)
  match ts.2 with
  | some e => throw e
  | none => return (r.1, (ts.1.map (·.1)).zip (r.2.map (·.toNat)))

/-- v[d] takes loaded elements. -/
def Ctx.putElems (c : Ctx) (w : Nat) (d : VReg) (vs : List (Nat × Nat)) : Ctx :=
  c.setV d (ofElems w fun e => ((vs.find? fun v => v.1 == e).map (·.2)).getD (elemOf w (c.getV d) e))

/-- A load of the elements that a context addresses (R192, R194). -/
def elemLoad (w : Nat) (p : PReg) (d : VReg) (addr : Ctx → Nat → DWord) (skew : Ctx → Nat → Bool) : State → Out :=
  runGroup .all false fun s => do
    let c := s.cur
    let es := activeElems (c.getP p) w
    if es.isEmpty then return .on s
    let r ← s.loadElems (w / 8) (skew c) (es.map fun e => (e, addr c e))
    return .on (r.1.modCur fun c => c.putElems w d r.2)

/-- A store of the elements that a context addresses: every check comes before any byte (R194). -/
def elemStore (w : Nat) (p : PReg) (d : VReg) (addr : Ctx → Nat → DWord) (skew : Ctx → Nat → Bool) : State → Out :=
  runGroup .all false fun s => do
    let c := s.cur
    let es := activeElems (c.getP p) w
    if es.isEmpty then return .on s
    let ts := s.elemTargets .store (w / 8) (skew c) (es.map fun e => (e, addr c e))
    match ts.2 with
    | some e => throw e
    | none => pure ()
    let s' ← s.writePieces (ts.1.map fun e =>
      ({ piece := e.2.2.piece (w / 8), data := BitVec.ofNat 128 (elemOf w (c.getV d) e.1) } : StorePiece))
    return .on s'

/-- Element `e` of a strided access (R192, R193). -/
def strideAddr (x : AReg) (imm : BitVec 64) (w : Nat) (c : Ctx) (e : Nat) : DWord :=
  c.ea x imm (w / 8) + BitVec.ofNat 64 e * c.vstride.signExtend 64

/-- Every element after element 0 is misaligned under a stride that is no multiple of the element's size (R193). -/
def strideSkew (w : Nat) (c : Ctx) (e : Nat) : Bool := e != 0 && c.vstride.toNat % (w / 8) != 0

/-- VLDS (R192). -/
def execVlds (t : EType) (p : PReg) (d : VReg) (x : AReg) (imm : BitVec 64) (s : State) : Out :=
  elemLoad t.width p d (strideAddr x imm t.width) (strideSkew t.width) s
/-- VSTS (R192). -/
def execVsts (t : EType) (p : PReg) (d : VReg) (x : AReg) (imm : BitVec 64) (s : State) : Out :=
  elemStore t.width p d (strideAddr x imm t.width) (strideSkew t.width) s

/-- Element `j` of an indexed access, with its index in lane `j` of `i` (R192). -/
def indexAddr (i : VReg) (x : AReg) (imm : BitVec 64) (c : Ctx) (j : Nat) : DWord :=
  c.ea x imm 4 + (lane (c.getV i) j).setWidth 64 * 4

/-- VGAT: the indices are the old v[d] (R192). -/
def execVgat (t : EType) (p : PReg) (d : VReg) (x : AReg) (imm : BitVec 64) (s : State) : Out :=
  elemLoad t.width p d (indexAddr d x imm) (fun _ _ => false) s
/-- VSCT: the indices are v[d+1] (R192). -/
def execVsct (t : EType) (p : PReg) (d : VReg) (x : AReg) (imm : BitVec 64) (s : State) : Out :=
  elemStore t.width p d (indexAddr (d + 1) x imm) (fun _ _ => false) s

/-! ## Lane-private memory (R192) -/

/-- The offset of VLDL and VSTL: in the lane-private window, with a lane field of zero, and aligned. -/
def laneOffset (ea : DWord) : Except Exit Nat :=
  match spaceOf ea with
  | some (.lane i) =>
    if 1024 ≤ i then .error (.trap 0x06 0 ea) else if i % 4 ≠ 0 then .error (.trap 0x04 0 ea) else .ok i
  | _ => .error (.trap 0x06 0 ea)

/-- The word of lane `j` at an offset. -/
def lanePiece (r off j : Nat) : Piece := { key := sramKey r .lane (1024 * j + off), size := 4, home := none }

/-- VLDL (R192, R194). -/
def execVldl (t : EType) (p : PReg) (d : VReg) (x : AReg) (imm : BitVec 64) (s : State) : Out :=
  runGroup .compute false (fun s => do
    let c := s.cur
    let es := activeElems (c.getP p) t.width
    if es.isEmpty then return .on s
    let ea := c.ea x imm 4
    let off ← laneOffset ea
    let r ← s.readPieces ea (es.map (lanePiece s.focus.rank off))
    return .on (r.1.modCur fun c => c.putElems t.width d (es.zip (r.2.map (·.toNat))))) s

/-- VSTL (R192, R194). -/
def execVstl (t : EType) (p : PReg) (d : VReg) (x : AReg) (imm : BitVec 64) (s : State) : Out :=
  runGroup .compute false (fun s => do
    let c := s.cur
    let es := activeElems (c.getP p) t.width
    if es.isEmpty then return .on s
    let off ← laneOffset (c.ea x imm 4)
    let s' ← s.writePieces (es.map fun e =>
      ({ piece := lanePiece s.focus.rank off e, data := BitVec.ofNat 128 (elemOf t.width (c.getV d) e) } : StorePiece))
    return .on s') s

end Sys2Proof.Machine
end

