-- ==== Sys2Proof/Machine/Watch.lean ====
section
/-! DEFINITION. Timeouts of links, routers and field managers; clocks and the tick grid (R378, R379, R415 to R417). -/

namespace Sys2Proof.Machine

/-! ## Mesh links (R379) -/

/-- MESH_BEACON: an idle link direction that leaves a tile sends a beacon. -/
def execMeshBeacon (r : Nat) (dir : BitVec 2) (s : State) : Out :=
  event s (decide (r < s.ranked) && (s.neighbour r dir.toNat).isSome) fun s =>
    s.modTile r fun t => { t with beacons := vecMod t.beacons dir.toNat (· + 1) }

/-- Where a participant's leg towards another one begins on this module: its own tile, or the edge router of the port that leads to its
module (R331, R333; the edge routers' places are free, log 30). -/
def State.legEnd (s : State) (e : Nat × Nat) : Option (Nat × Nat) :=
  if e.1 = s.modidx.toNat then some (s.xOf e.2, s.yOf e.2) else (s.routeTo e.1).map Config.speoshEdge

/-- The ends of a plan's legs on this module: a leg joins a participant to its parent in the tree (R331, R333). -/
def State.legs (s : State) (q : Plan) : List ((Nat × Nat) × (Nat × Nat)) :=
  let own := s.modidx.toNat
  (List.range q.parts.length).filterMap fun i =>
    if i = 0 then none
    else match q.parts[i]?, q.parts[parentOf i]? with
      | some a, some b =>
        if a.1 = own ∨ b.1 = own then (match s.legEnd a, s.legEnd b with
          | some u, some v => some (u, v)
          | _, _ => none)
        else none
      | _, _ => none

/-- A plan has a leg over a link direction of this module: partials cross it towards the parent and the result crosses it from there,
each in dimension order (R331, R333, R336). -/
def State.legCrosses (s : State) (q : Plan) (l : LinkDir) : Bool :=
  (s.legs q).any fun e => (routeLinks e.1 e.2).contains l || (routeLinks e.2 e.1).contains l

/-- A plan has a leg through the router of the tile at a position. -/
def State.legThrough (s : State) (q : Plan) (at' : Nat × Nat) : Bool :=
  (s.legs q).any fun e => e.1 == at' || e.2 == at' || (routeLinks e.1 e.2 ++ routeLinks e.2 e.1).any fun l => (l.1, l.2.1) == at'

/-- MESH_LINK_TIMEOUT: the router of tile `r` has seen neither flit nor beacon from direction `dir` for 256 cycles: the link
direction is down, and fatal to the pitches whose channels or plans use it (R336, R379). -/
def execMeshLinkTimeout (r : Nat) (dir : BitVec 2) (s : State) : Out :=
  match s.neighbour r dir.toNat with
  | none => .next s
  | some n => event s (decide (r < s.ranked) && !(s.tile r).meshDown.getLsbD dir.toNat) fun s =>
      let l : LinkDir := (s.xOf n, s.yOf n, (dir.toNat + 2) % 4)
      let onLeg (p : Pitch) (q : Plan) : Bool := p.active && q.present && s.legCrosses q l
      let ids := (s.pitches.filter fun p => p.active && (p.crosses l.1 l.2.1 l.2.2 || p.plans.any (onLeg p))).map (·.id)
      let s' := s.pitches.foldl (fun s' p => s'.failPlans p.id (onLeg p) 2) s
      (s'.modTile r fun t => { t with meshDown := t.meshDown ||| (1 <<< dir.toNat) }).postNamed (some r) 1 r dir.toNat ids

/-! ## Tiles and fields (R375, R379) -/

/-- A strike of a tile that a timeout names is due (R375). -/
def Tile.nameStrike (t : Tile) : Tile := if t.struck ∨ t.strikeDue.isSome then t else { t with strikeDue := some 0x33 }

/-- The ranks at which the lines of a page can have their home: of a page of MODE 1, every member (R264, R265). -/
def State.homesOf (s : State) (e : TlbEntry) (va : Nat) : List Nat :=
  if e.paOf va < flyEnd then [e.paOf va / 2 ^ 25]
  else if e.home.getLsbD 31 then (maskMembers (e.home.toNat % 65536)).filterMap (s.memberRank (natField e.home.toNat 16 13))
  else [natField e.home.toNat 0 17]

/-- Some listed page of a pitch has homes at tiles of some kind. -/
def State.homedAt (s : State) (p : Pitch) (f : Nat → Bool) : Bool :=
  p.listedPages.any fun g =>
    match s.walk p.image.root p.image.homes (g * 65536) with
    | .leaf e => (s.homesOf e (g * 65536)).any f
    | _ => false

/-- The pitches that depend on a tile: those whose region holds it, which their channels do not leave, those with listed pages homed there,
and those with a plan that has a leg through its router (R379). -/
def State.dependsOn (s : State) (r : Nat) : List PitchId :=
  (s.pitches.filter fun p => p.active && (p.covers (s.xOf r) (s.yOf r) || s.homedAt p (· == r) ||
    p.plans.any fun q => q.present && s.legThrough q (s.xOf r, s.yOf r))).map (·.id)

/-- The pitches that depend on a field: those with a tile, or with a home of a listed page, in it (R379). -/
def State.dependsOnField (s : State) (f : Nat) : List PitchId :=
  (s.pitches.filter fun p => p.active &&
    ((s.region p).any (fun r => s.fieldOf r == f) || s.homedAt p fun r => s.fieldOf r == f)).map (·.id)

/-- A tile fails as a whole: the named failure with part kind 2, and its strike (R379, R416). -/
def State.tileFails (s : State) (r : Nat) : State :=
  (s.modTile r Tile.nameStrike).postNamed (some r) 2 r 0 (s.dependsOn r)

/-- ROUTER_TIMEOUT: no progress for 20 µs (R379). -/
def execRouterTimeout (r : Nat) (s : State) : Out :=
  event s (decide (r < s.ranked) && !(s.tile r).struck && (s.tile r).strikeDue.isNone) fun s => s.tileFails r

/-- FIELD_MANAGER_TIMEOUT: no heartbeat for 200 µs: the field's pitches are killed, and its tiles refuse placement (R379). -/
def execFieldManagerTimeout (f : Nat) (s : State) : Out :=
  event s (decide (f < 48) && (s.field f).manager) fun s =>
    (s.modField f fun g => { g with manager := false }).postNamed none 3 f 0 (s.dependsOnField f)

/-! ## Clocks (R415, R416) -/

/-- Tile `q` has its clock through tile `r`, within `n` tiles. -/
def State.fedThrough (s : State) (r : Nat) : Nat → Nat → Bool
  | 0, _ => false
  | n + 1, q => q == r || (match s.clockSource q with
    | some u => s.fedThrough r n u
    | none => false)

/-- The tiles of a tile's field that have their clock through it, itself among them. -/
def State.subtree (s : State) (r : Nat) : List Nat :=
  (s.fieldRanks (s.fieldOf r)).filter fun q => s.fedThrough r 2400 q

/-- Change the clocks of a tile's subtree. -/
def State.modClocks (s : State) (r : Nat) (f : Clock → Clock) : State :=
  (s.subtree r).foldl (fun s' q => s'.modTile q fun t => { t with clock := f t.clock }) s

/-- A tile without a clock asserts hold: it and its subtree stand still (R416). -/
def State.assertHold (s : State) (r : Nat) : State := s.modClocks r fun c => if c = .good then .hold else c

/-- HOLD_ASSERTED: 10 ns after the last source edge (R416). -/
def execHoldAsserted (r : Nat) (s : State) : Out :=
  event s (decide (r < s.ranked) && (s.tile r).clock == .good) fun s => s.assertHold r

/-- The neighbours to try, in PREF order after CUR, wrapping once (R416). -/
def State.nextSources (s : State) (r : Nat) : List Nat :=
  let ps := s.prefs r
  match (s.tile r).clkCur, s.isRoot r with
  | none, true => ps
  | c, _ =>
    let cur := (c.map BitVec.toNat).getD (ps.headD 0)
    let i := (ps.findIdx? (· == cur)).getD 0
    (ps.drop (i + 1) ++ ps.take i).filter (· ≠ cur)

/-- A neighbour can feed a tile: not vacant, not struck, with a clock of its own (R416). -/
def State.canFeed (s : State) (r dir : Nat) : Bool :=
  match s.neighbour r dir with
  | none => false
  | some n => !s.vacated.contains (s.yOf n * waferX + s.xOf n) && !(s.tile n).struck && (s.tile n).clock == .good

/-- A tile is out of clock or out of time: its contexts stop with no group committed, it is named and struck (R416, R417). -/
def State.outOfClock (s : State) (r : Nat) : State :=
  (s.modTile r fun t => { t.stopAll with clock := .out }).tileFails r

/-- CLOCK_SOURCE_LOSS: no edge for 4 reference periods: the tile takes the next usable neighbour and realigns, or is out of
clock. A tile suspends its detection while its source asserts hold, which the source releases once it has realigned (R416). -/
def execClockSourceLoss (r : Nat) (s : State) : Out :=
  let held := match s.clockSource r with
    | some q => (s.tile q).clock == .hold || (s.tile q).clock == .realigning
    | none => false
  let c := (s.tile r).clock
  event s (decide (r < s.ranked) && !held && (c == .good || c == .hold)) fun s =>
    let s := s.assertHold r
    match (s.nextSources r).find? (s.canFeed r) with
    | some d => s.modTile r fun t => { t with clock := .realigning, clkCur := some (BitVec.ofNat 2 d), clkEvt := t.clkEvt + 1 }
    | none => s.outOfClock r

/-- CLOCK_REALIGNED: the phase is aligned, hold is released, execution resumes (R416). -/
def execClockRealigned (r : Nat) (s : State) : Out :=
  event s ((s.tile r).clock == .realigning) fun s =>
    (s.modTile r fun t => { t with clock := .good }).modClocks r fun c => if c = .hold then .good else c

/-! ## The tick grid (R417, R444) -/

/-- TICK_EDGE: TICK counts on, or takes the value that TSET left; the tiles that missed the edge of grid A count that of grid B
and stay with it. A topology switch that is due takes place with it (R446). -/
def execTickEdge (missed : List Nat) (s : State) : Out :=
  let s := missed.foldl (fun s r => s.modTile r fun t => { t with gridB := true }) s
  let s : State := match s.tset, s.tickSet with
    | some w, false => { s with tick := w, tickSet := true, tset := none }
    | _, _ => { s with tick := s.tick + 1, tset := none }
  .next s.autoSwitch

/-- OUT_OF_TIME: a tile that loses both grids is treated as out of clock (R417). -/
def execOutOfTime (r : Nat) (s : State) : Out :=
  event s (decide (r < s.ranked) && (s.tile r).clock != .out) fun s => s.outOfClock r

end Sys2Proof.Machine
end

