-- ==== Sys2Proof/Machine/Dispatch.lean ====
section
/-! DEFINITION. The one dispatch of the machine: one arm per constructor of `Instr`, each one direct call of that
instruction's meaning (spec/opcode_table.json). -/

namespace Sys2Proof.Machine

def exec (i : Instr) (s : State) : Host.Outcome State Fault Refusal :=
  match i with
  | .mov d x => Sys2Proof.Machine.execMov d x s
  | .not d x => Sys2Proof.Machine.execNot d x s
  | .neg d x => Sys2Proof.Machine.execNeg d x s
  | .abs d x => Sys2Proof.Machine.execAbs d x s
  | .clz d x => Sys2Proof.Machine.execClz d x s
  | .ctz d x => Sys2Proof.Machine.execCtz d x s
  | .popc d x => Sys2Proof.Machine.execPopc d x s
  | .brev d x => Sys2Proof.Machine.execBrev d x s
  | .sexb d x => Sys2Proof.Machine.execSexb d x s
  | .sexh d x => Sys2Proof.Machine.execSexh d x s
  | .zexb d x => Sys2Proof.Machine.execZexb d x s
  | .zexh d x => Sys2Proof.Machine.execZexh d x s
  | .glo d x => Sys2Proof.Machine.execGlo d x s
  | .ghi d x => Sys2Proof.Machine.execGhi d x s
  | .alo d x => Sys2Proof.Machine.execAlo d x s
  | .ahi d x => Sys2Proof.Machine.execAhi d x s
  | .add d x y => Sys2Proof.Machine.execAdd d x y s
  | .sub d x y => Sys2Proof.Machine.execSub d x y s
  | .and d x y => Sys2Proof.Machine.execAnd d x y s
  | .or d x y => Sys2Proof.Machine.execOr d x y s
  | .xor d x y => Sys2Proof.Machine.execXor d x y s
  | .sll d x y => Sys2Proof.Machine.execSll d x y s
  | .srl d x y => Sys2Proof.Machine.execSrl d x y s
  | .sra d x y => Sys2Proof.Machine.execSra d x y s
  | .mul d x y => Sys2Proof.Machine.execMul d x y s
  | .mulh d x y => Sys2Proof.Machine.execMulh d x y s
  | .mulhu d x y => Sys2Proof.Machine.execMulhu d x y s
  | .ror d x y => Sys2Proof.Machine.execRor d x y s
  | .div d x y => Sys2Proof.Machine.execDiv d x y s
  | .divu d x y => Sys2Proof.Machine.execDivu d x y s
  | .rem d x y => Sys2Proof.Machine.execRem d x y s
  | .remu d x y => Sys2Proof.Machine.execRemu d x y s
  | .slt d x y => Sys2Proof.Machine.execSlt d x y s
  | .sltu d x y => Sys2Proof.Machine.execSltu d x y s
  | .seq d x y => Sys2Proof.Machine.execSeq d x y s
  | .sne d x y => Sys2Proof.Machine.execSne d x y s
  | .min d x y => Sys2Proof.Machine.execMin d x y s
  | .max d x y => Sys2Proof.Machine.execMax d x y s
  | .minu d x y => Sys2Proof.Machine.execMinu d x y s
  | .maxu d x y => Sys2Proof.Machine.execMaxu d x y s
  | .addi d imm => Sys2Proof.Machine.execAddi d imm s
  | .li d imm => Sys2Proof.Machine.execLi d imm s
  | .andi d imm => Sys2Proof.Machine.execAndi d imm s
  | .ori d imm => Sys2Proof.Machine.execOri d imm s
  | .xori d imm => Sys2Proof.Machine.execXori d imm s
  | .slli d amount => Sys2Proof.Machine.execSlli d amount s
  | .srli d amount => Sys2Proof.Machine.execSrli d amount s
  | .srai d amount => Sys2Proof.Machine.execSrai d amount s
  | .rori d amount => Sys2Proof.Machine.execRori d amount s
  | .beqz x imm => Sys2Proof.Machine.execBeqz x imm s
  | .bnez x imm => Sys2Proof.Machine.execBnez x imm s
  | .bltz x imm => Sys2Proof.Machine.execBltz x imm s
  | .bgez x imm => Sys2Proof.Machine.execBgez x imm s
  | .bgtz x imm => Sys2Proof.Machine.execBgtz x imm s
  | .blez x imm => Sys2Proof.Machine.execBlez x imm s
  | .beq x y imm => Sys2Proof.Machine.execBeq x y imm s
  | .bne x y imm => Sys2Proof.Machine.execBne x y imm s
  | .blt x y imm => Sys2Proof.Machine.execBlt x y imm s
  | .bge x y imm => Sys2Proof.Machine.execBge x y imm s
  | .bltu x y imm => Sys2Proof.Machine.execBltu x y imm s
  | .bgeu x y imm => Sys2Proof.Machine.execBgeu x y imm s
  | .j imm => Sys2Proof.Machine.execJ imm s
  | .jal imm => Sys2Proof.Machine.execJal imm s
  | .jr x => Sys2Proof.Machine.execJr x s
  | .jalr d x => Sys2Proof.Machine.execJalr d x s
  | .ret => Sys2Proof.Machine.execRet s
  | .hend => Sys2Proof.Machine.execHend s
  | .halt => Sys2Proof.Machine.execHalt s
  | .nop => Sys2Proof.Machine.execNop s
  | .brk => Sys2Proof.Machine.execBrk s
  | .loop d len => Sys2Proof.Machine.execLoop d len s
  | .ldb d x imm => Sys2Proof.Machine.execLdb d x imm s
  | .ldbu d x imm => Sys2Proof.Machine.execLdbu d x imm s
  | .ldh d x imm => Sys2Proof.Machine.execLdh d x imm s
  | .ldhu d x imm => Sys2Proof.Machine.execLdhu d x imm s
  | .ldw d x imm => Sys2Proof.Machine.execLdw d x imm s
  | .lda d x imm => Sys2Proof.Machine.execLda d x imm s
  | .stb d x imm => Sys2Proof.Machine.execStb d x imm s
  | .sth d x imm => Sys2Proof.Machine.execSth d x imm s
  | .stw d x imm => Sys2Proof.Machine.execStw d x imm s
  | .sta d x imm => Sys2Proof.Machine.execSta d x imm s
  | .aadd d x y => Sys2Proof.Machine.execAadd d x y s
  | .aadds d x y => Sys2Proof.Machine.execAadds d x y s
  | .asub d x y => Sys2Proof.Machine.execAsub d x y s
  | .aeq d x y => Sys2Proof.Machine.execAeq d x y s
  | .aaddi d imm => Sys2Proof.Machine.execAaddi d imm s
  | .spt d x => Sys2Proof.Machine.execSpt d x s
  | .spcg d x => Sys2Proof.Machine.execSpcg d x s
  | .spcb d x => Sys2Proof.Machine.execSpcb d x s
  | .spcc d x => Sys2Proof.Machine.execSpcc d x s
  | .spcs d x => Sys2Proof.Machine.execSpcs d x s
  | .spcl d x => Sys2Proof.Machine.execSpcl d x s
  | .mks d x => Sys2Proof.Machine.execMks d x s
  | .mkc d x => Sys2Proof.Machine.execMkc d x s
  | .mkl d x => Sys2Proof.Machine.execMkl d x s
  | .amov d x => Sys2Proof.Machine.execAmov d x s
  | .azero d => Sys2Proof.Machine.execAzero d s
  | .fadd d x y => Sys2Proof.Machine.execFadd d x y s
  | .fsub d x y => Sys2Proof.Machine.execFsub d x y s
  | .fmul d x y => Sys2Proof.Machine.execFmul d x y s
  | .ffma d x y => Sys2Proof.Machine.execFfma d x y s
  | .fmin d x y => Sys2Proof.Machine.execFmin d x y s
  | .fmax d x y => Sys2Proof.Machine.execFmax d x y s
  | .fdiv d x y => Sys2Proof.Machine.execFdiv d x y s
  | .feq d x y => Sys2Proof.Machine.execFeq d x y s
  | .flt d x y => Sys2Proof.Machine.execFlt d x y s
  | .fle d x y => Sys2Proof.Machine.execFle d x y s
  | .fun d x y => Sys2Proof.Machine.execFun d x y s
  | .fsgn d x y => Sys2Proof.Machine.execFsgn d x y s
  | .fsqrt d x => Sys2Proof.Machine.execFsqrt d x s
  | .fabs d x => Sys2Proof.Machine.execFabs d x s
  | .fneg d x => Sys2Proof.Machine.execFneg d x s
  | .fclass d x => Sys2Proof.Machine.execFclass d x s
  | .fcvtws d x => Sys2Proof.Machine.execFcvtws d x s
  | .fcvtus d x => Sys2Proof.Machine.execFcvtus d x s
  | .fcvtsw d x => Sys2Proof.Machine.execFcvtsw d x s
  | .fcvtsu d x => Sys2Proof.Machine.execFcvtsu d x s
  | .fcvtbs d x => Sys2Proof.Machine.execFcvtbs d x s
  | .fcvtsb d x => Sys2Proof.Machine.execFcvtsb d x s
  | .fexp2 d x => Sys2Proof.Machine.execFexp2 d x s
  | .flog2 d x => Sys2Proof.Machine.execFlog2 d x s
  | .frcp d x => Sys2Proof.Machine.execFrcp d x s
  | .frsq d x => Sys2Proof.Machine.execFrsq d x s
  | .vadd t p d x y => Sys2Proof.Machine.execVadd t p d x y s
  | .vsub t p d x y => Sys2Proof.Machine.execVsub t p d x y s
  | .vmul t p d x y => Sys2Proof.Machine.execVmul t p d x y s
  | .vfma t p d x y => Sys2Proof.Machine.execVfma t p d x y s
  | .vmin t p d x y => Sys2Proof.Machine.execVmin t p d x y s
  | .vmax t p d x y => Sys2Proof.Machine.execVmax t p d x y s
  | .vdiv t p d x y => Sys2Proof.Machine.execVdiv t p d x y s
  | .vabd t p d x y => Sys2Proof.Machine.execVabd t p d x y s
  | .vand p d x y => Sys2Proof.Machine.execVand p d x y s
  | .vor p d x y => Sys2Proof.Machine.execVor p d x y s
  | .vxor p d x y => Sys2Proof.Machine.execVxor p d x y s
  | .vandn p d x y => Sys2Proof.Machine.execVandn p d x y s
  | .vshl t p d x y => Sys2Proof.Machine.execVshl t p d x y s
  | .vshr t p d x y => Sys2Proof.Machine.execVshr t p d x y s
  | .vsra t p d x y => Sys2Proof.Machine.execVsra t p d x y s
  | .vmulh t p d x y => Sys2Proof.Machine.execVmulh t p d x y s
  | .vceq t p d x y => Sys2Proof.Machine.execVceq t p d x y s
  | .vclt t p d x y => Sys2Proof.Machine.execVclt t p d x y s
  | .vcle t p d x y => Sys2Proof.Machine.execVcle t p d x y s
  | .vcne t p d x y => Sys2Proof.Machine.execVcne t p d x y s
  | .vsel p d x y => Sys2Proof.Machine.execVsel p d x y s
  | .vperm p d x y => Sys2Proof.Machine.execVperm p d x y s
  | .vseg t p d x n => Sys2Proof.Machine.execVseg t p d x n s
  | .vrot p d x y => Sys2Proof.Machine.execVrot p d x y s
  | .vmov p d x => Sys2Proof.Machine.execVmov p d x s
  | .vneg t p d x => Sys2Proof.Machine.execVneg t p d x s
  | .vabs t p d x => Sys2Proof.Machine.execVabs t p d x s
  | .vrcp t p d x => Sys2Proof.Machine.execVrcp t p d x s
  | .vrsq t p d x => Sys2Proof.Machine.execVrsq t p d x s
  | .vsqrt t p d x => Sys2Proof.Machine.execVsqrt t p d x s
  | .vexp2 t p d x => Sys2Proof.Machine.execVexp2 t p d x s
  | .vlog2 t p d x => Sys2Proof.Machine.execVlog2 t p d x s
  | .vexp t p d x => Sys2Proof.Machine.execVexp t p d x s
  | .vlog t p d x => Sys2Proof.Machine.execVlog t p d x s
  | .vtanh t p d x => Sys2Proof.Machine.execVtanh t p d x s
  | .vsig t p d x => Sys2Proof.Machine.execVsig t p d x s
  | .vsin t p d x => Sys2Proof.Machine.execVsin t p d x s
  | .vcos t p d x => Sys2Proof.Machine.execVcos t p d x s
  | .vflr t p d x => Sys2Proof.Machine.execVflr t p d x s
  | .vrnd t p d x => Sys2Proof.Machine.execVrnd t p d x s
  | .vcvt s0 t p d x => Sys2Proof.Machine.execVcvt s0 t p d x s
  | .vpk4 t d x => Sys2Proof.Machine.execVpk4 t d x s
  | .vup4 t d x => Sys2Proof.Machine.execVup4 t d x s
  | .vpkm t d x => Sys2Proof.Machine.execVpkm t d x s
  | .vupm t d x => Sys2Proof.Machine.execVupm t d x s
  | .vsrb p d x => Sys2Proof.Machine.execVsrb p d x s
  | .vbc t p d x => Sys2Proof.Machine.execVbc t p d x s
  | .vins p d x lane => Sys2Proof.Machine.execVins p d x lane s
  | .vext d x lane => Sys2Proof.Machine.execVext d x lane s
  | .viota t p d => Sys2Proof.Machine.execViota t p d s
  | .vzip t p d x => Sys2Proof.Machine.execVzip t p d x s
  | .vuzp t p d x => Sys2Proof.Machine.execVuzp t p d x s
  | .vld p d x imm => Sys2Proof.Machine.execVld p d x imm s
  | .vldh p d x imm => Sys2Proof.Machine.execVldh p d x imm s
  | .vlds t p d x imm => Sys2Proof.Machine.execVlds t p d x imm s
  | .vgat t p d x imm => Sys2Proof.Machine.execVgat t p d x imm s
  | .vldl t p d x imm => Sys2Proof.Machine.execVldl t p d x imm s
  | .vldb t p d x imm => Sys2Proof.Machine.execVldb t p d x imm s
  | .vst p d x imm => Sys2Proof.Machine.execVst p d x imm s
  | .vsth p d x imm => Sys2Proof.Machine.execVsth p d x imm s
  | .vsts t p d x imm => Sys2Proof.Machine.execVsts t p d x imm s
  | .vsct t p d x imm => Sys2Proof.Machine.execVsct t p d x imm s
  | .vstl t p d x imm => Sys2Proof.Machine.execVstl t p d x imm s
  | .pand d x => Sys2Proof.Machine.execPand d x s
  | .por d x => Sys2Proof.Machine.execPor d x s
  | .pxor d x => Sys2Proof.Machine.execPxor d x s
  | .pnot d x => Sys2Proof.Machine.execPnot d x s
  | .pcnt d x => Sys2Proof.Machine.execPcnt d x s
  | .pfst d x => Sys2Proof.Machine.execPfst d x s
  | .plt d x => Sys2Proof.Machine.execPlt d x s
  | .pmov d x => Sys2Proof.Machine.execPmov d x s
  | .vli t p d imm => Sys2Proof.Machine.execVli t p d imm s
  | .mma z x y acc bsrc chk => Sys2Proof.Machine.execMma z x y acc bsrc chk s
  | .mmag z x y acc bsrc chk => Sys2Proof.Machine.execMmag z x y acc bsrc chk s
  | .msh d x => Sys2Proof.Machine.execMsh d x s
  | .mfmt d x => Sys2Proof.Machine.execMfmt d x s
  | .mzero x => Sys2Proof.Machine.execMzero x s
  | .mwait x => Sys2Proof.Machine.execMwait x s
  | .mstat d => Sys2Proof.Machine.execMstat d s
  | .mtov p d x => Sys2Proof.Machine.execMtov p d x s
  | .vtom p d x => Sys2Proof.Machine.execVtom p d x s
  | .mst k d x imm => Sys2Proof.Machine.execMst k d x imm s
  | .mld k d x imm => Sys2Proof.Machine.execMld k d x imm s
  | .skinit t d x => Sys2Proof.Machine.execSkinit t d x s
  | .skseed d x => Sys2Proof.Machine.execSkseed d x s
  | .skclr d => Sys2Proof.Machine.execSkclr d s
  | .skcpy d x => Sys2Proof.Machine.execSkcpy d x s
  | .skmrg d x => Sys2Proof.Machine.execSkmrg d x s
  | .skadd t p d x => Sys2Proof.Machine.execSkadd t p d x s
  | .skq t d x y => Sys2Proof.Machine.execSkq t d x y s
  | .skr t d x y => Sys2Proof.Machine.execSkr t d x y s
  | .skhh t d x y => Sys2Proof.Machine.execSkhh t d x y s
  | .skhc d x y => Sys2Proof.Machine.execSkhc d x y s
  | .skcnt d x => Sys2Proof.Machine.execSkcnt d x s
  | .skcnh d x => Sys2Proof.Machine.execSkcnh d x s
  | .skdc t d x => Sys2Proof.Machine.execSkdc t d x s
  | .skmin t d x => Sys2Proof.Machine.execSkmin t d x s
  | .skmax t d x => Sys2Proof.Machine.execSkmax t d x s
  | .skmean t d x => Sys2Proof.Machine.execSkmean t d x s
  | .skvar t d x => Sys2Proof.Machine.execSkvar t d x s
  | .sksum t d x => Sys2Proof.Machine.execSksum t d x s
  | .sklse t d x => Sys2Proof.Machine.execSklse t d x s
  | .sknan d x => Sys2Proof.Machine.execSknan d x s
  | .skld d x imm => Sys2Proof.Machine.execSkld d x imm s
  | .skst d x imm => Sys2Proof.Machine.execSkst d x imm s
  | .skldh d x imm => Sys2Proof.Machine.execSkldh d x imm s
  | .recv d x => Sys2Proof.Machine.execRecv d x s
  | .peek d x => Sys2Proof.Machine.execPeek d x s
  | .qcnt d x => Sys2Proof.Machine.execQcnt d x s
  | .qfree d x => Sys2Proof.Machine.execQfree d x s
  | .qtag d x => Sys2Proof.Machine.execQtag d x s
  | .qmark d x => Sys2Proof.Machine.execQmark d x s
  | .drop x => Sys2Proof.Machine.execDrop x s
  | .vrecv d x => Sys2Proof.Machine.execVrecv d x s
  | .recva d x => Sys2Proof.Machine.execRecva d x s
  | .send d x tag => Sys2Proof.Machine.execSend d x tag s
  | .senda d x => Sys2Proof.Machine.execSenda d x s
  | .vsend d x => Sys2Proof.Machine.execVsend d x s
  | .sendm d x => Sys2Proof.Machine.execSendm d x s
  | .semw n sem => Sys2Proof.Machine.execSemw n sem s
  | .sems n sem => Sys2Proof.Machine.execSems n sem s
  | .semt d sem => Sys2Proof.Machine.execSemt d sem s
  | .bara d x => Sys2Proof.Machine.execBara d x s
  | .barw d x => Sys2Proof.Machine.execBarw d x s
  | .bars s0 d x => Sys2Proof.Machine.execBars s0 d x s
  | .barq d x => Sys2Proof.Machine.execBarq d x s
  | .fence s0 => Sys2Proof.Machine.execFence s0 s
  | .pub s0 d x => Sys2Proof.Machine.execPub s0 d x s
  | .pubw s0 d x => Sys2Proof.Machine.execPubw s0 d x s
  | .trig d x => Sys2Proof.Machine.execTrig d x s
  | .cinv x => Sys2Proof.Machine.execCinv x s
  | .ccln x => Sys2Proof.Machine.execCcln x s
  | .cfls => Sys2Proof.Machine.execCfls s
  | .tlbp d x => Sys2Proof.Machine.execTlbp d x s
  | .amoadd s0 d x y => Sys2Proof.Machine.execAmoadd s0 d x y s
  | .amoand s0 d x y => Sys2Proof.Machine.execAmoand s0 d x y s
  | .amoor s0 d x y => Sys2Proof.Machine.execAmoor s0 d x y s
  | .amoxor s0 d x y => Sys2Proof.Machine.execAmoxor s0 d x y s
  | .amomin s0 d x y => Sys2Proof.Machine.execAmomin s0 d x y s
  | .amomax s0 d x y => Sys2Proof.Machine.execAmomax s0 d x y s
  | .amominu s0 d x y => Sys2Proof.Machine.execAmominu s0 d x y s
  | .amomaxu s0 d x y => Sys2Proof.Machine.execAmomaxu s0 d x y s
  | .amoswp s0 d x y => Sys2Proof.Machine.execAmoswp s0 d x y s
  | .amocas s0 d x y => Sys2Proof.Machine.execAmocas s0 d x y s
  | .amofadd s0 d x y => Sys2Proof.Machine.execAmofadd s0 d x y s
  | .amofmax s0 d x y => Sys2Proof.Machine.execAmofmax s0 d x y s
  | .cpy d x y => Sys2Proof.Machine.execCpy d x y s
  | .cpyr d x y => Sys2Proof.Machine.execCpyr d x y s
  | .cpyw x => Sys2Proof.Machine.execCpyw x s
  | .cpys d x => Sys2Proof.Machine.execCpys d x s
  | .cpyxResume x => Sys2Proof.Machine.execCpyxResume x s
  | .cpyxCancel x => Sys2Proof.Machine.execCpyxCancel x s
  | .cpyxFlush x => Sys2Proof.Machine.execCpyxFlush x s
  | .ringb d x => Sys2Proof.Machine.execRingb d x s
  | .ringq d x => Sys2Proof.Machine.execRingq d x s
  | .amsg d x y => Sys2Proof.Machine.execAmsg d x y s
  | .mrpl x => Sys2Proof.Machine.execMrpl x s
  | .mhend x => Sys2Proof.Machine.execMhend x s
  | .colset s0 d x => Sys2Proof.Machine.execColset s0 d x s
  | .colfr x => Sys2Proof.Machine.execColfr x s
  | .colw d x => Sys2Proof.Machine.execColw d x s
  | .cols d x => Sys2Proof.Machine.execCols d x s
  | .tick d => Sys2Proof.Machine.execTick d s
  | .cyc d => Sys2Proof.Machine.execCyc d s
  | .waitt x => Sys2Proof.Machine.execWaitt x s
  | .waitc x => Sys2Proof.Machine.execWaitc x s
  | .trap d detail => Sys2Proof.Machine.execTrap d detail s
  | .mfk d kreg => Sys2Proof.Machine.execMfk d kreg s
  | .mtk d kreg => Sys2Proof.Machine.execMtk d kreg s
  | .eret => Sys2Proof.Machine.execEret s
  | .idle d => Sys2Proof.Machine.execIdle d s
  | .tlbi x => Sys2Proof.Machine.execTlbi x s
  | .tlba => Sys2Proof.Machine.execTlba s
  | .ctxs => Sys2Proof.Machine.execCtxs s
  | .ctxl => Sys2Proof.Machine.execCtxl s
  | .tqp x => Sys2Proof.Machine.execTqp x s
  | .ltrcRead d x => Sys2Proof.Machine.execLtrcRead d x s
  | .ltrcClearWindow d x => Sys2Proof.Machine.execLtrcClearWindow d x s
  | .ltrcClearSuspect d x => Sys2Proof.Machine.execLtrcClearSuspect d x s
  | .strk x => Sys2Proof.Machine.execStrk x s
  | .illegalInstruction code detail value len => Sys2Proof.Machine.execIllegalInstruction code detail value len s
  | .waitAtKResume r c => Sys2Proof.Machine.execWaitAtKResume r c s
  | .amodeWrite r c w => Sys2Proof.Machine.execAmodeWrite r c w s
  | .srseedWrite r c w => Sys2Proof.Machine.execSrseedWrite r c w s
  | .counterClear r n inc w => Sys2Proof.Machine.execCounterClear r n inc w s
  | .ltrlimLtrwinWrite r n w => Sys2Proof.Machine.execLtrlimLtrwinWrite r n w s
  | .marginWrite r w => Sys2Proof.Machine.execMarginWrite r w s
  | .logStatusRead r c n d => Sys2Proof.Machine.execLogStatusRead r c n d s
  | .registerWrite r c place w => Sys2Proof.Machine.execRegisterWrite r c place w s
  | .lateTransition r c place => Sys2Proof.Machine.execLateTransition r c place s
  | .escalationWindowEnd r => Sys2Proof.Machine.execEscalationWindowEnd r s
  | .marginStepSettle r => Sys2Proof.Machine.execMarginStepSettle r s
  | .handlerWatchdog r c => Sys2Proof.Machine.execHandlerWatchdog r c s
  | .handlerDispatch r k => Sys2Proof.Machine.execHandlerDispatch r k s
  | .channelWordTransfer w => Sys2Proof.Machine.execChannelWordTransfer w s
  | .memoryResponse r c n => Sys2Proof.Machine.execMemoryResponse r c n s
  | .read r n => Sys2Proof.Machine.execRead r n s
  | .write r n => Sys2Proof.Machine.execWrite r n s
  | .amo r n => Sys2Proof.Machine.execAmo r n s
  | .amo8 r n => Sys2Proof.Machine.execAmo8 r n s
  | .cas8 r n => Sys2Proof.Machine.execCas8 r n s
  | .line r n => Sys2Proof.Machine.execLine r n s
  | .renew r n => Sys2Proof.Machine.execRenew r n s
  | .cread r n => Sys2Proof.Machine.execCread r n s
  | .cwrite r n => Sys2Proof.Machine.execCwrite r n s
  | .camo r n => Sys2Proof.Machine.execCamo r n s
  | .barr r n => Sys2Proof.Machine.execBarr r n s
  | .comb r k span => Sys2Proof.Machine.execComb r k span s
  | .routerCombine r k span => Sys2Proof.Machine.execRouterCombine r k span s
  | .cdone r k => Sys2Proof.Machine.execCdone r k s
  | .automaticPub id handle => Sys2Proof.Machine.execAutomaticPub id handle s
  | .colsetRequest id => Sys2Proof.Machine.execColsetRequest id s
  | .planKillNotice mod cfg => Sys2Proof.Machine.execPlanKillNotice mod cfg s
  | .userMessageStart r n => Sys2Proof.Machine.execUserMessageStart r n s
  | .messageReply r c => Sys2Proof.Machine.execMessageReply r c s
  | .messageNack r n => Sys2Proof.Machine.execMessageNack r n s
  | .matrixCommandComplete r => Sys2Proof.Machine.execMatrixCommandComplete r s
  | .copyElement r => Sys2Proof.Machine.execCopyElement r s
  | .copyCommandComplete r => Sys2Proof.Machine.execCopyCommandComplete r s
  | .cpyrSlotTake r => Sys2Proof.Machine.execCpyrSlotTake r s
  | .copyFaultTrap r => Sys2Proof.Machine.execCopyFaultTrap r s
  | .lightsOutSweep id => Sys2Proof.Machine.execLightsOutSweep id s
  | .launch q record => Sys2Proof.Machine.execLaunch q record s
  | .join q record => Sys2Proof.Machine.execJoin q record s
  | .spliceInherit q record => Sys2Proof.Machine.execSpliceInherit q record s
  | .spliceNoInherit q record => Sys2Proof.Machine.execSpliceNoInherit q record s
  | .ingressToken q write => Sys2Proof.Machine.execIngressToken q write s
  | .ingressQueueErrClear q w => Sys2Proof.Machine.execIngressQueueErrClear q w s
  | .placement => Sys2Proof.Machine.execPlacement s
  | .loadAcknowledge id => Sys2Proof.Machine.execLoadAcknowledge id s
  | .pitchStart id => Sys2Proof.Machine.execPitchStart id s
  | .translationPreloadTimeout id => Sys2Proof.Machine.execTranslationPreloadTimeout id s
  | .hostKillRequest id => Sys2Proof.Machine.execHostKillRequest id s
  | .preemptDispatchStop id => Sys2Proof.Machine.execPreemptDispatchStop id s
  | .preemptFiringTimeout r c => Sys2Proof.Machine.execPreemptFiringTimeout r c s
  | .preemptResume id => Sys2Proof.Machine.execPreemptResume id s
  | .spliceSwitch r => Sys2Proof.Machine.execSpliceSwitch r s
  | .spliceSuccessorStart r => Sys2Proof.Machine.execSpliceSuccessorStart r s
  | .egressRingWrite id k => Sys2Proof.Machine.execEgressRingWrite id k s
  | .egressAtomicop id k => Sys2Proof.Machine.execEgressAtomicop id k s
  | .atomicopCompletion id k old error => Sys2Proof.Machine.execAtomicopCompletion id k old error s
  | .tsetWrite w => Sys2Proof.Machine.execTsetWrite w s
  | .topoWrite w => Sys2Proof.Machine.execTopoWrite w s
  | .topologySwitch => Sys2Proof.Machine.execTopologySwitch s
  | .staleCounterRead access => Sys2Proof.Machine.execStaleCounterRead access s
  | .attestationRequest nonce => Sys2Proof.Machine.execAttestationRequest nonce s
  | .attestationReportReady => Sys2Proof.Machine.execAttestationReportReady s
  | .speoshPacketReceive port flit => Sys2Proof.Machine.execSpeoshPacketReceive port flit s
  | .speoshBeacon port => Sys2Proof.Machine.execSpeoshBeacon port s
  | .lightDetected port => Sys2Proof.Machine.execLightDetected port s
  | .trainLock port => Sys2Proof.Machine.execTrainLock port s
  | .trainTimeout port => Sys2Proof.Machine.execTrainTimeout port s
  | .calibration port trip peerTick => Sys2Proof.Machine.execCalibration port trip peerTick s
  | .crcFailureBurst port => Sys2Proof.Machine.execCrcFailureBurst port s
  | .retrainLock port => Sys2Proof.Machine.execRetrainLock port s
  | .retrainTimeout port => Sys2Proof.Machine.execRetrainTimeout port s
  | .flitReplay port => Sys2Proof.Machine.execFlitReplay port s
  | .meshBeacon r dir => Sys2Proof.Machine.execMeshBeacon r dir s
  | .meshLinkTimeout r dir => Sys2Proof.Machine.execMeshLinkTimeout r dir s
  | .routerTimeout r => Sys2Proof.Machine.execRouterTimeout r s
  | .fieldManagerTimeout f => Sys2Proof.Machine.execFieldManagerTimeout f s
  | .speoshLinkTimeout port => Sys2Proof.Machine.execSpeoshLinkTimeout port s
  | .moduleTimeout mod => Sys2Proof.Machine.execModuleTimeout mod s
  | .podMemberTimeout mod => Sys2Proof.Machine.execPodMemberTimeout mod s
  | .clockSourceLoss r => Sys2Proof.Machine.execClockSourceLoss r s
  | .clockRealigned r => Sys2Proof.Machine.execClockRealigned r s
  | .tickEdge missed => Sys2Proof.Machine.execTickEdge missed s
  | .temperatureRefresh => Sys2Proof.Machine.execTemperatureRefresh s
  | .throttleWindowEnd r above => Sys2Proof.Machine.execThrottleWindowEnd r above s
  | .scrub place bad => Sys2Proof.Machine.execScrub place bad s
  | .poleGranuleTransfer r e => Sys2Proof.Machine.execPoleGranuleTransfer r e s
  | .eccWriteback r offset e => Sys2Proof.Machine.execEccWriteback r offset e s
  | .rowRemap r bank row => Sys2Proof.Machine.execRowRemap r bank row s
  | .rowRemapDone r bank => Sys2Proof.Machine.execRowRemapDone r bank s
  | .secondTierTimeout r n => Sys2Proof.Machine.execSecondTierTimeout r n s
  | .translationWalk r va => Sys2Proof.Machine.execTranslationWalk r va s
  | .tqpAnswer r c final => Sys2Proof.Machine.execTqpAnswer r c final s
  | .trapQueuePost f => Sys2Proof.Machine.execTrapQueuePost f s
  | .trapQueueRemove f => Sys2Proof.Machine.execTrapQueueRemove f s
  | .strikeTile r => Sys2Proof.Machine.execStrikeTile r s
  | .fieldDerate f code => Sys2Proof.Machine.execFieldDerate f code s
  | .moduleReset dead bands found => Sys2Proof.Machine.execModuleReset dead bands found s
  | .serviceProcessorFailover => Sys2Proof.Machine.execServiceProcessorFailover s
  | .imageFetched q image => Sys2Proof.Machine.execImageFetched q image s
  | .resolutionAnswer id ok => Sys2Proof.Machine.execResolutionAnswer id ok s
  | .powerDown => Sys2Proof.Machine.execPowerDown s
  | .secondTierLinkDown port => Sys2Proof.Machine.execSecondTierLinkDown port s
  | .outOfTime r => Sys2Proof.Machine.execOutOfTime r s
  | .holdAsserted r => Sys2Proof.Machine.execHoldAsserted r s
  | .routeBankWrite bank dst w => Sys2Proof.Machine.execRouteBankWrite bank dst w s

end Sys2Proof.Machine
end

