-- ==== Sys2Proof/Machine/Step.lean ====
section
/-! DEFINITION. One step of the machine: the next move of the agenda, or, when it is empty, the next group of the focused
context (log 2). -/

namespace Sys2Proof.Machine

/-- Carry out a turn. -/
def Turn.act : Turn → Host.Outcome State Fault Refusal
  | .done o => o
  | .run i s => exec i s

/-- The disagreements that a move names end with it. -/
def State.endCheck (s : State) : State := { s with focus := { s.focus with times := 0 } }

/-- What an outcome answers, with the move's disagreements ended. -/
def endCheck : Host.Outcome State Fault Refusal → Host.Outcome State Fault Refusal
  | .next s => .next s.endCheck
  | o => o

/-- One step. -/
noncomputable def step (s : State) : Host.Outcome State Fault Refusal :=
  match s.agenda with
  | [] => (s.turn 0).act
  | .group r i :: rest => (({ s with agenda := rest }.focusOn r i).turn 0).act
  | .mismatch r i n :: rest => endCheck (({ s with agenda := rest }.focusOn r i).turn n).act
  | .chunk r n :: rest => .next ({ s with agenda := rest }.chunkMismatch r n)
  | .piece r n :: rest => .next ({ s with agenda := rest }.matPiece r n)
  | .event e :: rest => exec e { s with agenda := rest }

/-- The state whose next step runs the instruction of a row of spec/opcode_table.json given by its bits (log 1, log 14). -/
def State.withFetchWord (s : State) (nbits w : Nat) : State := s.placeWords (tableHalves nbits w)

end Sys2Proof.Machine
end

