-- ==== Sys2Proof/Safety.lean ====
section
/-! DEFINITION. The terms of the claims: when a group may run, how the state after it differs from the state before it, what
a trap leaves, when an access is performed at once, and what every step keeps. -/

namespace Sys2Proof.Machine

/-! ## Groups -/

/-- The focused context may run an instruction with this core tie and privilege: it is at supervisor level where that is
demanded (R25), it is a context that may execute it (R52), the group does not cross the end of the innermost loop body
(R101), and its second firing agrees (R363). -/
def Ready (tie : Tie) (priv : Bool) (s : State) : Prop :=
  (priv = true → s.cur.sup = true) ∧ tie.allows s.focus.ctx = true ∧ s.cur.straddles s.after = false ∧ s.focus.times = 0

/-- The instruction is one that only the supervisor may run: the minors of page 4, major 4 (R25, R53). -/
def privileged (i : Instr) : Bool := (i.enc.map fun e => e.1.page == 4 && e.1.major == 4).getD false

/-- The contexts that an instruction is tied to (R52), by its place in the opcode map. -/
def tieOf (i : Instr) : Tie :=
  match i.enc with
  | some (⟨1, 9, 4⟩, _) | some (⟨1, 10, 4⟩, _) | some (⟨2, _, _⟩, _) => .compute
  | some (⟨3, 11, _⟩, _) | some (⟨3, 12, _⟩, _) => .stage
  | some (⟨3, 13, 1⟩, _) | some (⟨3, 13, 2⟩, _) => .message
  | _ => .all

/-- The two states differ in nothing but the focused tile's CYC and its context's watchdog count, which the cycles of a group
raise (R129, R171), and in the model's counter of free values. `u` is the state before they pass. -/
structure AfterCycles (u t : State) : Prop where
  rest : t = { u with tiles := t.tiles, free := t.free }
  others : ∀ r, r ≠ u.focus.rank → t.tile r = u.tile r
  tile : t.here = { u.here.setCtx u.focus.ctx t.cur with cyc := t.here.cyc }
  ctx : t.cur = { u.cur with wd := t.cur.wd }

/-- The group commits with the effect `u` and the context goes on at the group after it (R19, R101): everything but the
place it goes on at, CYC and the watchdog's count is as in `u`. -/
def Commits (s u t : State) : Prop := AfterCycles (u.modCtx s.focus.rank s.focus.ctx fun c => c.fall s.after) t

/-- The group commits with the effect `u` and the context goes on at the target (R45, R97, R101). -/
def JumpsTo (s u t : State) (target : Half) : Prop :=
  AfterCycles (u.modCtx s.focus.rank s.focus.ctx fun c => c.jumpTo target) t

/-- A group that sets its context's state itself commits with the effect `u`. -/
def Leaves (s u t : State) : Prop :=
  AfterCycles (u.modCtx s.focus.rank s.focus.ctx fun c => { c with waiting := false, replays := 0, hstep := 0, hreplays := 0, dueHeld := false }) t

/-- The group stays at K or X2 with nothing done: only the mark of the wait, CYC and the watchdog's count differ (R156). -/
def Waits (s t : State) : Prop := AfterCycles (s.modCur fun c => { c with waiting := true }) t

/-- `exec` answers a next state in which a group of one's own has committed with the effect `u`. -/
def Completes (i : Instr) (s u : State) : Prop := ∃ t, exec i s = .next t ∧ Commits s u t

/-- The same for a group that changes its own context alone, to `c`: the whole frame (R19). -/
def Yields (i : Instr) (s : State) (c : Ctx) : Prop := Completes i s (s.setCur c)

/-! ## Traps -/

/-- The focused context, at user level, has entered the supervisor (R27, R31 to R33): what the trap saves, where it goes on,
and that nothing else of the context, of the tile and of memory differs. `len` is the length of the group. -/
structure Trapped (s t : State) (code detail : Byte) (value : DWord) (len : Nat) : Prop where
  sup : t.cur.sup = true
  pc : t.cur.pc = s.cur.tvec.setWidth 16 &&& 0xFFFE
  tepc : t.cur.tepc = s.cur.pc.setWidth 32
  tcause : t.cur.tcause = (detail ++ code).setWidth 32
  tval : t.cur.tvalh ++ t.cur.tval = value
  tstat : t.cur.tstat = BitVec.ofNat 32 (len % 8 * 256 + s.cur.loops.length % 4 * 16)
  loops : t.cur.trapLoops = s.cur.loops ∧ t.cur.loops = []
  regs : t.cur.g = s.cur.g ∧ t.cur.gSup = s.cur.gSup ∧ t.cur.a = s.cur.a ∧ t.cur.a3Sup = s.cur.a3Sup ∧ t.cur.p = s.cur.p ∧
    t.cur.v = s.cur.v
  flags : t.cur.amode = s.cur.amode ∧ t.cur.fflags = s.cur.fflags ∧ t.cur.srseed = s.cur.srseed
  memory : t.mem = s.mem
  others : ∀ r, r ≠ s.focus.rank → t.tile r = s.tile r

/-- `exec` takes a trap. -/
def TakesTrap (i : Instr) (s : State) (code detail : Byte) (value : DWord) : Prop :=
  ∃ t, exec i s = .next t ∧ Trapped s t code detail value s.focus.len

/-- `exec` refuses the case with illegal instruction, DETAIL 0x0F (R88). -/
def Refuses (i : Instr) (s : State) : Prop := TakesTrap i s 0x01 0x0F s.baseValue

/-! ## Accesses -/

/-- The checks of an access pass, its translation is there, and it reaches the target (R104). -/
def Allowed (s : State) (u : Purpose) (ea : DWord) (n : Nat) (g : Target) : Prop :=
  s.checkAccess s.focus.rank (s.focus.ctx == .c) u ea n = .ok g ∧ s.targetDue s.focus.rank u ea = false

/-- The checks of an access end with a fault. Where that is one of its page (R104), no translation still to come stands before it (R270,
R394), and the walk meets no wrong cell or lane (R369, R371). -/
def Denied (s : State) (u : Purpose) (ea : DWord) (n : Nat) (code : Byte) : Prop :=
  s.checkAccess s.focus.rank (s.focus.ctx == .c) u ea n = .error code ∧
    (ofPage code = true → s.targetDue s.focus.rank u ea = false ∧ s.targetMeets s.focus.rank u ea = false)

/-- Everything that an access looks at before its translation passes, and the translation is still to come: its walk reads a bank that
a remap holds (R370), or it finds a page whose locked entry has been invalidated (R394), or one over a wrong cell or lane (R369, R371). -/
def Delayed (s : State) (u : Purpose) (ea : DWord) (n : Nat) : Prop :=
  s.targetDue s.focus.rank u ea = true ∧
    match s.checkAccess s.focus.rank (s.focus.ctx == .c) u ea n with
    | .ok _ => True
    | .error code => ofPage code = true

/-- The context has no access under way. -/
def Idle (s : State) : Prop := s.cur.xact = none ∧ s.cur.storing = [] ∧ s.cur.posted = []

/-- The pieces are the tile's own and free, no access of the context and no matrix command stands before them, and every cell and lane
of the fly that they cross is whole, so that they are read or written at once and meet nothing else (R105, R209, R282, R369, R371). -/
structure AtOnce (s : State) (ps : List Piece) : Prop where
  idle : Idle s
  own : ∀ p ∈ ps, p.home = none ∧ s.bankHeld p.key = false
  sound : s.here.fly.sound = true ∧ ∀ p ∈ ps, flyEnd ≤ p.key ∨ (s.tile (p.key / 2 ^ 25)).fly.sound = true
  matrix : s.focus.ctx = .c → ∀ p ∈ ps, s.here.matrix.touches p.key p.size = false

/-- No word of the pieces is bad (R373), and no port fails (R442). -/
def Good (s : State) (ps : List Piece) : Prop := ∀ p ∈ ps, s.poisoned p.key p.size = false ∧ s.portFails s.focus.rank p.key = false

/-- The bytes of the pieces can be written: no dead pole (R372), no port that fails (R442). -/
def Writable (s : State) (ps : List Piece) : Prop := ∀ p ∈ ps, s.deadPole p.key = false ∧ s.portFails s.focus.rank p.key = false

/-- Two states have the same bytes of memory outside the `n` bytes from `key`. -/
def SameMemoryBut (s t : State) (key n : Nat) : Prop := ∀ k, k < key ∨ key + n ≤ k → t.mem.get k = s.mem.get k

/-- The states agree but for the logical times of the focused context and tile (R284). -/
structure AfterMeeting (u t : State) : Prop where
  rest : t = { u with tiles := t.tiles }
  others : ∀ r, r ≠ u.focus.rank → t.tile r = u.tile r
  tile : t.here = { u.here.setCtx u.focus.ctx t.cur with leases := t.here.leases }
  ctx : t.cur = { u.cur with pts := t.cur.pts }

/-- `exec` answers a next state in which the group has committed with the effect `u` and the meeting of logical times that an
access brings. -/
def CompletesAccess (i : Instr) (s u : State) : Prop :=
  ∃ v t, exec i s = .next t ∧ AfterMeeting u v ∧ Commits s v t

/-- `exec` answers a next state that differs from `s` in memory alone, and there as `mem` says of each byte. -/
def StoresBytes (i : Instr) (s : State) (mem : Nat → Byte) : Prop :=
  ∃ u : State, u = { s with mem := u.mem, poison := u.poison, marks := u.marks } ∧ (∀ k, u.mem.get k = mem k) ∧ CompletesAccess i s u

/-! ## Vectors -/

/-- The group writes each active element of width `w` with what `f` gives, keeps the others, gathers the flags of the active
elements, and counts a skipped check (R176, R177, R365). -/
def WritesElems (i : Instr) (s : State) (w : Nat) (p : PReg) (d : VReg) (f : Nat → FRes) (skip : Nat → Bool) : Prop :=
  ∃ v : VWord,
    (∀ e, e < 1024 / w → elemOf w v e = if elemOn (s.cur.getP p) w e then (f e).bits % 2 ^ w else elemOf w (s.cur.getV d) e) ∧
    Completes i s ((s.setCur ((s.cur.setV d v).raise (orFlags ((activeElems (s.cur.getP p) w).map f)))).countSkip
      ((activeElems (s.cur.getP p) w).any skip))

/-- The group writes each active element with what `f` gives, and nothing else. -/
def WritesBits (i : Instr) (s : State) (w : Nat) (p : PReg) (d : VReg) (f : Nat → Nat) : Prop :=
  ∃ v : VWord,
    (∀ e, e < 1024 / w → elemOf w v e = if elemOn (s.cur.getP p) w e then f e % 2 ^ w else elemOf w (s.cur.getV d) e) ∧
    Yields i s (s.cur.setV d v)

/-- The group writes each active lane with what `f` gives, and nothing else. -/
def WritesLanes (i : Instr) (s : State) (p : PReg) (d : VReg) (f : Nat → Word) : Prop :=
  ∃ v : VWord,
    (∀ j, j < 32 → lane v j = if (s.cur.getP p).getLsbD j then f j else lane (s.cur.getV d) j) ∧
    Yields i s (s.cur.setV d v)

/-- Value `j` of level `l` of the pairwise tree over the inputs `x` (R84): each is that of two of the level below, the lower one on the
left. -/
def treeOf {α : Type} (f : α → α → α) (x : Nat → α) : Nat → Nat → α
  | 0, j => x j
  | l + 1, j => f (treeOf f x l (2 * j)) (treeOf f x l (2 * j + 1))

/-- The tree of sums in a float type: each is rounded, with its flags and those below it (R84, R177). -/
def treeSum (f : FFmt) (m : ArithMode) (x : Nat → Nat) : Nat → Nat → FRes :=
  treeOf (fun a b => let r := f.add m a.bits b.bits; ⟨r.bits, a.flags ||| b.flags ||| r.flags⟩) fun j => ⟨x j, 0⟩

/-! ## Summaries -/

/-- The pair of MEAN and M2 after a merge of `b`, of `cb` values, into `a`, of `ca` (R229). -/
def MomentMerged (ca : DWord) (a : Word × Word) (cb : DWord) (b r : Word × Word) : Prop :=
  (cb = 0 → r = a) ∧ (cb ≠ 0 → ca = 0 → r = b) ∧
  (cb ≠ 0 → ca ≠ 0 →
    let d := fsub b.1 a.1
    let w := fdiv (fnat cb.toNat) (fnat (ca.toNat + cb.toNat))
    r = (ffma d w a.1, fadd (fadd a.2 b.2) (fmul (fmul (fmul d d) (fnat ca.toNat)) w)))

/-- The pair of M and S after a merge (R231). -/
def LseMerged (ca : DWord) (a : Word × Word) (cb : DWord) (b r : Word × Word) : Prop :=
  (cb = 0 → r = a) ∧ (cb ≠ 0 → ca = 0 → r = b) ∧
  (cb ≠ 0 → ca ≠ 0 → r.1 = fmax a.1 b.1 ∧
    r.2 = if r.1 = 0xFF800000 then fadd a.2 b.2 else if r.1 = 0x7F800000 then 0x7FC00000
      else fadd (fmul a.2 (fexp2 (fsub a.1 r.1))) (fmul b.2 (fexp2 (fsub b.1 r.1))))

/-- The keys of two lists in ascending order. -/
def Ascending (s a b : List Nat) : Prop := s.Perm (a ++ b) ∧ s.Pairwise (· ≤ ·)

/-- Half of an ascending list by a coin, and the key that an odd one leaves over (R233). -/
def upper (b : Nat) (s : List Nat) : List Nat := (List.range (s.length / 2)).map fun i => s.getD (2 * i + b) 0
def left (s : List Nat) : List Nat := s.drop (s.length / 2 * 2)

/-- SEED after a coin has been taken (R228). -/
def stepped (seed : DWord) : DWord := (seed >>> 32).setWidth 32 ++ lfsrStep (seed.setWidth 32)

/-- Push of a list of keys into a level of a cairn (R233). -/
inductive Pushed : Nat → Cairn → List Nat → Cairn → Prop
  | fits (l : Nat) (c : Cairn) (keys s : List Nat) : Ascending s (c.levels.getD l []) keys → s.length ≤ 124 →
      Pushed l c keys { c with levels := c.levels.set l s }
  | up (l : Nat) (c d : Cairn) (keys s : List Nat) : Ascending s (c.levels.getD l []) keys → 124 < s.length → l < 7 →
      Pushed (l + 1) { c with levels := c.levels.set l (left s), cc := c.cc.set l (c.cc.getD l 0 + 1), cmp := c.cmp + 1, exact := false
                              seed := stepped c.seed } (upper (c.seed.toNat % 2) s) d →
      Pushed l c keys d
  | top (c d : Cairn) (keys s s' : List Nat) : Ascending s (c.levels.getD 7 []) keys → 124 < s.length →
      Ascending s' (upper (c.seed.toNat % 2) s) (left s) →
      Pushed 7 { c with levels := c.levels.set 7 s', cc := c.cc.set 7 (c.cc.getD 7 0 + 1), cmp := c.cmp + 1, exact := false
                        seed := stepped c.seed, tws := (c.tws + 1) % 256 } [] d →
      Pushed 7 c keys d

/-- A cairn thinned `n` times, with the coins of a seed and what is left of it (R234). -/
inductive Thinned : Nat → DWord → Cairn → DWord → Cairn → Prop
  | none (seed : DWord) (c : Cairn) : Thinned 0 seed c seed c
  | more (n : Nat) (seed seed' : DWord) (c d : Cairn) (s s' : List Nat) : Ascending s (c.levels.getD 7 []) [] →
      Ascending s' (upper (seed.toNat % 2) s) (left s) →
      Thinned n (stepped seed) { c with levels := c.levels.set 7 s', cc := c.cc.set 7 (c.cc.getD 7 0 + 1), cmp := c.cmp + 1
                                        exact := false, tws := (c.tws + 1) % 256 } seed' d →
      Thinned (n + 1) seed c seed' d

/-- A merge of cairns: the one of less weight is thinned, then the keys of B enter A level by level, and the counts add up (R232, R234). -/
def CairnMerged (a b c : Cairn) : Prop :=
  ∃ (a' b' : Cairn) (seed seed' : DWord) (f : Nat → Cairn),
    Thinned (b.tws - a.tws) a.seed a seed a' ∧ Thinned (a'.tws - b.tws) seed b seed' b' ∧ f 0 = { a' with seed := seed' } ∧
    (∀ l, l < 8 → Pushed l (f l) (b'.levels.getD l []) (f (l + 1))) ∧
    c = { f 8 with cc := (List.range 8).map fun l => (f 8).cc.getD l 0 + b'.cc.getD l 0
                   cmp := (f 8).cmp + b'.cmp, exact := (f 8).exact && b'.exact }

/-- CNT and ERR of a key, which an absent key has as 0 (R237). -/
def heavyCnt (l : List (Nat × Nat × Nat)) (k : Nat) : Nat := ((l.find? fun e => e.1 == k).map fun e => e.2.1).getD 0
def heavyErr (l : List (Nat × Nat × Nat)) (k : Nat) : Nat := ((l.find? fun e => e.1 == k).map fun e => e.2.2).getD 0

/-- Canonical order: CNT descending, ties by KEY ascending (R226). -/
def Canonical (l : List (Nat × Nat × Nat)) : Prop := l.Pairwise fun a b => b.2.1 < a.2.1 ∨ b.2.1 = a.2.1 ∧ a.1 ≤ b.1

/-- A merge of the entries `b` into `a`, which list no key twice: the entries after it, and the counts taken from all (R237). -/
def HeavyMerged (a b r : List (Nat × Nat × Nat)) (c : Nat) : Prop :=
  ∃ t : List (Nat × Nat × Nat), (t.map (·.1)).Nodup ∧ Canonical t ∧
    (∀ k, k ∈ t.map (·.1) ↔ k ∈ a.map (·.1) ∨ k ∈ b.map (·.1)) ∧
    (∀ e ∈ t, e.2.1 = min (heavyCnt a e.1 + heavyCnt b e.1) 0xFFFFFFFF ∧ e.2.2 = min (heavyErr a e.1 + heavyErr b e.1) 0xFFFFFFFF) ∧
    (t.length ≤ 320 → r = t ∧ c = 0) ∧
    (∀ e, t[320]? = some e → c = e.2.1 ∧
      r = (t.map fun x => (x.1, x.2.1 - c, min (x.2.2 + c) 0xFFFFFFFF)).filter fun x => x.2.1 != 0)

/-- What every merge of B into A does, and what its kind's rule does (R229 to R232, R234, R237, R238). -/
structure Merged (a b m : Summ) : Prop where
  kind : m.kind = a.kind ∧ m.ktype = a.ktype ∧ m.seed.extractLsb' 32 32 = a.seed.extractLsb' 32 32
  counts : m.count = a.count + b.count ∧ m.nan = a.nan + b.nan ∧ m.aidx = a.aidx + b.aidx
  keys : m.minKey = min a.minKey b.minKey ∧ m.maxKey = max a.maxKey b.maxKey
  small : a.kind ≠ 4 → m.tws = a.tws ∧ m.seed = a.seed ∧ (a.kind ≠ 5 → m.cmp = a.cmp ∧ m.exact = (a.exact && b.exact))
  moment : ∀ x y x' y', a.body = .moment x y → b.body = .moment x' y' →
    ∃ r, m.body = .moment r.1 r.2 ∧ MomentMerged a.count (x, y) b.count (x', y') r
  extreme : ∀ x y x' y', a.body = .extreme x y → b.body = .extreme x' y' → m.body =
    if b.count = 0 then .extreme x y else if a.count = 0 then .extreme (a.aidx + x') (a.aidx + y')
    else .extreme (if b.minKey < a.minKey then a.aidx + x' else x) (if a.maxKey < b.maxKey then a.aidx + y' else y)
  lse2 : ∀ x y x' y', a.body = .lse2 x y → b.body = .lse2 x' y' →
    ∃ r, m.body = .lse2 r.1 r.2 ∧ LseMerged a.count (x, y) b.count (x', y') r
  cairn : ∀ l cc l' cc', a.body = .cairn l cc → b.body = .cairn l' cc' →
    ∃ c, CairnMerged ⟨l, cc, a.tws, a.cmp, a.exact, a.seed⟩ ⟨l', cc', b.tws, b.cmp, b.exact, b.seed⟩ c ∧
      m.body = .cairn c.levels c.cc ∧ m.tws = c.tws ∧ m.cmp = c.cmp ∧ m.exact = c.exact ∧ m.seed = c.seed
  heavy : ∀ es es', a.body = .heavy es → b.body = .heavy es' → (es.map (·.1)).Nodup → (es'.map (·.1)).Nodup →
    ∃ r c, HeavyMerged es es' r c ∧ m.body = .heavy r ∧ m.cmp = a.cmp + b.cmp + BitVec.ofNat 64 c ∧
      m.exact = (a.exact && b.exact && (c == 0))
  distinct : ∀ rs rs', a.body = .distinct rs → b.body = .distinct rs' →
    ∃ r, m.body = .distinct r ∧ r.length = 4096 ∧ ∀ j, j < 4096 → r.getD j 0 = max (rs.getD j 0) (rs'.getD j 0)

/-- The absorption of one value of a key: the kind's rule of EXTREME, HEAVY and DISTINCT, then COUNT, MINKEY and MAXKEY (R227, R230, R236,
R238). Which entry of a key that HEAVY entries list twice counts is not said (log 28). -/
structure AbsorbedOne (a : Summ) (key : Nat) (index : DWord) (m : Summ) : Prop where
  rest : m = { a with count := a.count + 1, minKey := min a.minKey key, maxKey := max a.maxKey key, cmp := m.cmp, exact := m.exact
                      body := m.body }
  others : a.kind ≠ 5 → m.cmp = a.cmp ∧ m.exact = a.exact
  extreme : ∀ x y, a.body = .extreme x y → m.body =
    if a.count = 0 then .extreme index index
    else .extreme (if key < a.minKey then index else x) (if a.maxKey < key then index else y)
  heavy : ∀ es, a.body = .heavy es → ∃ r, m.body = .heavy r ∧ Canonical r ∧
    (key ∈ es.map (·.1) → m.cmp = a.cmp ∧ m.exact = a.exact ∧ ((es.map (·.1)).Nodup →
      r.Perm (es.map fun e => if e.1 = key then (e.1, min (e.2.1 + 1) 0xFFFFFFFF, e.2.2) else e))) ∧
    (key ∉ es.map (·.1) → es.length < 320 → r.Perm ((key, 1, 0) :: es) ∧ m.cmp = a.cmp ∧ m.exact = a.exact) ∧
    (key ∉ es.map (·.1) → 320 ≤ es.length →
      r.Perm ((es.map fun e => (e.1, e.2.1 - 1, min (e.2.2 + 1) 0xFFFFFFFF)).filter fun e => e.2.1 != 0) ∧
      m.cmp = a.cmp + 1 ∧ m.exact = false)
  distinct : ∀ rs, a.body = .distinct rs →
    let z0 : DWord := BitVec.ofNat 64 key ^^^ a.seed
    let z1 := (z0 ^^^ (z0 >>> 31)) * 0xB4E52C9D7A31F6C3
    let z2 := (z1 ^^^ (z1 >>> 29)) * 0x8F1D5A67C29BE417
    let z := z2 ^^^ (z2 >>> 32)
    ∃ (r : List Nat) (rho : Nat), m.body = .distinct r ∧ 1 ≤ rho ∧ rho ≤ 53 ∧ (∀ i, i + 1 < rho → z.getLsbD (51 - i) = false) ∧
      (rho ≤ 52 → z.getLsbD (52 - rho) = true) ∧
      ∀ j, j < 4096 → r.getD j 0 = if j = z.toNat / 2 ^ 52 then max (rs.getD j 0) rho else rs.getD j 0

/-- A tree of merges of the singletons of a vector: a leaf for each element, empty where the element is not absorbed, and the pair
after the tree's result is merged into the register (R229, R231). -/
def TreeAbsorbed (rule : DWord → Word × Word → DWord → Word × Word → Word × Word → Prop) (depth : Nat) (leaf : Nat → DWord × Word × Word)
    (count : DWord) (p r : Word × Word) : Prop :=
  ∃ node : Nat → Nat → DWord × Word × Word, (∀ j, j < 2 ^ depth → node 0 j = leaf j) ∧
    (∀ l j, l < depth → j < 2 ^ (depth - l - 1) → (node (l + 1) j).1 = (node l (2 * j)).1 + (node l (2 * j + 1)).1 ∧
      rule (node l (2 * j)).1 (node l (2 * j)).2 (node l (2 * j + 1)).1 (node l (2 * j + 1)).2 (node (l + 1) j).2) ∧
    rule count p (node depth 0).1 (node depth 0).2 r

/-- SKADD's absorption of the elements `es` of a vector, ascending (R227, R229 to R231, R233, R234, R236, R238). `widen` is the key and the
FP32 value of an element, none for a NaN (R86); the FP32 value of an integer is free (log 28). -/
structure Absorbed (a : Summ) (t : EType) (v : VWord) (es : List Nat) (m : Summ) : Prop where
  kind : m.kind = a.kind ∧ m.ktype = a.ktype ∧ m.seed.extractLsb' 32 32 = a.seed.extractLsb' 32 32
  counts : let got := es.filter fun e => (widen t (elemOf t.width v e)).isSome
    m.count = a.count + BitVec.ofNat 64 got.length ∧ m.nan = a.nan + BitVec.ofNat 64 (es.length - got.length) ∧
    m.aidx = a.aidx + BitVec.ofNat 64 es.length
  small : a.kind ≠ 4 → m.tws = a.tws ∧ m.seed = a.seed
  keys : let keys := (es.filterMap fun e => widen t (elemOf t.width v e)).map (·.1)
    m.minKey = keys.foldl min a.minKey ∧ m.maxKey = keys.foldl max a.maxKey
  moment : ∀ x y, a.body = .moment x y → ∃ r, m.body = .moment r.1 r.2 ∧ m.cmp = a.cmp ∧ m.exact = a.exact ∧
    ∀ depth, 2 ^ depth = t.count → TreeAbsorbed MomentMerged depth (fun e =>
      if e ∈ es then ((widen t (elemOf t.width v e)).map fun w => (1, w.2, 0)).getD (0, 0, 0) else (0, 0, 0)) a.count (x, y) r
  lse2 : ∀ x y, a.body = .lse2 x y → ∃ r, m.body = .lse2 r.1 r.2 ∧ m.cmp = a.cmp ∧ m.exact = a.exact ∧
    ∀ depth, 2 ^ depth = t.count → TreeAbsorbed LseMerged depth (fun e =>
      if e ∈ es then ((widen t (elemOf t.width v e)).map fun w => (1, w.2, 0x3F800000)).getD (0, 0xFF800000, 0)
      else (0, 0xFF800000, 0)) a.count (x, y) r
  cairn : ∀ l cc, a.body = .cairn l cc → ∃ c, m.body = .cairn c.levels c.cc ∧ m.tws = c.tws ∧ m.cmp = c.cmp ∧ m.exact = c.exact ∧
    m.seed = c.seed ∧
    Pushed 0 ⟨l, cc, a.tws, a.cmp, a.exact, a.seed⟩ ((es.filterMap fun e => widen t (elemOf t.width v e)).map (·.1)) c
  single : a.kind = 2 ∨ a.kind = 5 ∨ a.kind = 6 → ∃ st : Nat → Summ, st 0 = a ∧
    (∀ n e, es[n]? = some e → match widen t (elemOf t.width v e) with
      | some w => AbsorbedOne (st n) w.1 (a.aidx + BitVec.ofNat 64 n) (st (n + 1))
      | none => st (n + 1) = st n) ∧
    m = { st es.length with nan := m.nan, aidx := m.aidx }

/-! ## Events -/

/-- `exec` answers the next state `t`. -/
def Gives (i : Instr) (s t : State) : Prop := exec i s = .next t

/-! ## What every step keeps -/

/-- The stores of a tile, its accumulators and summary registers, are in the canonical form of memory, and so are those of the nodes
that it keeps saved. -/
def Tile.Canonical (t : Tile) : Prop :=
  (t.z.wf = true ∧ t.h.wf = true) ∧ ∀ e ∈ t.saved, e.2.z.wf = true ∧ e.2.h.wf = true

/-- Every store of bytes of the module is in its canonical form: its memory, and the stores of its tiles. -/
def State.Canonical (s : State) : Prop := s.mem.wf = true ∧ ∀ e ∈ s.tiles, e.2.Canonical

end Sys2Proof.Machine
end

