-- ==== Sys2Proof/Certificates/Slice0/Obligations.lean ====
section
/-! DEFINITION. The statements for the provers. Each docstring names the rules of spec/ that its statement formalises; what
rests on a choice of the model says so and names the log entry. -/

open Sys2Proof Sys2Proof.Machine

/-! ## Registers, reset, fetching and encoding -/

/-- R21, R25: g0 reads 0 and p0 all ones, and writes to them are discarded; every other register of the three files reads as
last written, and no write changes another register; at supervisor level g24 to g31 and a3 are registers apart from the
user's of those numbers, and a write at either level leaves the other level's registers of those numbers as they were. -/
def Obligations.RegistersReadAsWritten : Prop :=
  ∀ (c : Ctx) (w : Word) (v : DWord),
    c.getG 0 = 0 ∧ c.setG 0 w = c ∧ c.getP 0 = 0xFFFFFFFF ∧ c.setP 0 w = c ∧
    (∀ i : GReg, i ≠ 0 → (c.setG i w).getG i = w) ∧ (∀ i j : GReg, j ≠ i → (c.setG i w).getG j = c.getG j) ∧
    (∀ i : PReg, i ≠ 0 → (c.setP i w).getP i = w) ∧ (∀ i j : PReg, j ≠ i → (c.setP i w).getP j = c.getP j) ∧
    (∀ i : AReg, (c.setA i v).getA i = v) ∧ (∀ i j : AReg, j ≠ i → (c.setA i v).getA j = c.getA j) ∧
    (∀ i : GReg, c.sup = true → 24 ≤ i.toNat → i.toNat < 32 →
      ∀ j : GReg, ({ c.setG i w with sup := false } : Ctx).getG j = ({ c with sup := false } : Ctx).getG j) ∧
    (c.sup = true → ∀ j : AReg, ({ c.setA 3 v with sup := false } : Ctx).getA j = ({ c with sup := false } : Ctx).getA j) ∧
    (∀ i : GReg, c.sup = false → 24 ≤ i.toNat → i.toNat < 32 →
      ∀ j : GReg, ({ c.setG i w with sup := true } : Ctx).getG j = ({ c with sup := true } : Ctx).getG j) ∧
    (c.sup = false → ∀ j : AReg, ({ c.setA 3 v with sup := true } : Ctx).getA j = ({ c with sup := true } : Ctx).getA j)

/-- R26: after module reset every context of every tile is stopped and no pitch is loaded; of R402 to R404, STEP is 0, AUTO 1,
LTRLIM 3, LTRWIN 16 and the counters 0; the logs are empty (R405); TICK is 0 (R417). The model's choices: user level and the empty
loop stack of a stopped context, and the registers at their tables' reset before any load (log 4); and the canonical form of the
memory (log 3). -/
def Obligations.ResetState : Prop :=
  ∀ (r : Nat) (i : CtxId),
    ((State.reset.tile r).ctx i).run = .stopped ∧ ((State.reset.tile r).ctx i).sup = false ∧
    ((State.reset.tile r).ctx i).loops = [] ∧
    State.reset.tick = 0 ∧ State.reset.pitches = [] ∧
    State.reset.kread r i 0x040 = some 0x10 ∧ State.reset.kread r i 0x041 = some 0 ∧ State.reset.kread r i 0x042 = some 3 ∧
    State.reset.kread r i 0x043 = some 16 ∧ State.reset.kread r i 0x044 = some 0 ∧ State.reset.kread r i 0x045 = some 0 ∧
    State.reset.kread r i 0x060 = some 0 ∧ State.reset.kread r i 0x070 = some 0 ∧ State.reset.Canonical

/-- R151: CORE is 0 on the S core, 1 on the C core, 2 on the message thread; its other bits read 0; no write changes it. -/
def Obligations.CoreRegister : Prop :=
  ∀ (s : State) (r : Nat) (i : CtxId) (w : Word),
    s.kread r i 0x003 = some (match i with | .s => 0 | .c => 1 | .m => 2) ∧
    (s.kwrite r i 0x003 w).kread r i 0x003 = s.kread r i 0x003

/-- R404: LTRLIM and LTRWIN reset to 3 and 16; a supervisor's write stores bits [2:0] and [7:0], and 1 in place of 0; the
other bits read 0; both are read-write to the supervisor alone (R23). -/
def Obligations.LateTransitionLimits : Prop :=
  (∀ r i, State.reset.kread r i 0x042 = some 3 ∧ State.reset.kread r i 0x043 = some 16) ∧
  ∀ (s : State) (r : Nat) (i : CtxId) (w : Word),
    (((s.tile r).ctx i).sup = true →
      (s.kwrite r i 0x042 w).kread r i 0x042 = some (if w &&& 7 = 0 then 1 else w &&& 7) ∧
      (s.kwrite r i 0x043 w).kread r i 0x043 = some (if w &&& 0xFF = 0 then 1 else w &&& 0xFF)) ∧
    (((s.tile r).ctx i).sup = false →
      (s.kwrite r i 0x042 w).kread r i 0x042 = s.kread r i 0x042 ∧ (s.kwrite r i 0x043 w).kread r i 0x043 = s.kread r i 0x043)

/-- R15, R17: when a context's turn comes, its tile has a clock, no trap waits for it and the words at its PC decode to an
instruction whose words hold no uncorrectable error, a step is the execution of that instruction at that state, whose focus
records the length of the group and its base word, and that its second firing agrees (the model's own fields, log 13). A group that
waits at its place has been fetched, and runs again whatever its words have become (R156; log 13). -/
def Obligations.StepRunsTheDecodedInstruction : Prop :=
  ∀ (s : State) (i : Instr) (len : Nat) (base : Half),
    s.agenda = [] → s.focus.rank < s.ranked → s.here.clock = .good → s.cur.run = .running → s.waitingTrap = none →
    decode s.words = .ok i len base → s.badWord len = none ∨ s.cur.waiting = true →
    step s = exec i { s with focus := { s.focus with len := len, base := base, times := 0 } }

/-- R15, R54: a group that is no instruction raises illegal instruction (0x01) with the DETAIL of its first defect, and TVAL
holding the index of the reported word above the word itself. R16: a group that would extend past 0xFFFE raises fetch fault
(0x03), whose TVAL is the first byte address beyond the instruction memory; that TEPC shows the low 16 bits of a PC past 0xFFFE, and
that the fetch fault comes before an uncorrectable word, is DEDUCED in log 24 (R14, R16). R366: where the agenda (log 13)
says how often a group's second firing disagrees, a step runs the group with that number in its focus where the group is one that is
computed twice (R363; which those are is DEDUCED in log 13), and with 0 where it is not; a sum whose check
disagrees once commits as if it agreed, with CHKCNT one higher; one that disagrees twice takes check mismatch (0x22) at the
group, with its address in TVAL and CHKCNT two higher, and leaves no register changed. R365: a sum of floats that overflows or
underflows has no check to disagree, and commits as if it agreed. -/
def Obligations.GroupsThatTrapBeforeTheyRun : Prop :=
  (∀ (s : State) (why : Defect) (k : Nat) (w : Half) (len : Nat),
     s.agenda = [] → s.focus.rank < s.ranked → s.here.clock = .good → s.cur.run = .running → s.waitingTrap = none →
     s.cur.sup = false → decode s.words = .bad why k w len → s.badWord len = none →
     ∃ t, step s = .next t ∧
       Trapped s t 0x01 (BitVec.ofNat 8 why.detail) (BitVec.ofNat 64 (k * 65536 + w.toNat)) len) ∧
  (∀ (s : State),
     s.agenda = [] → s.focus.rank < s.ranked → s.here.clock = .good → s.cur.run = .running → s.waitingTrap = none →
     s.cur.sup = false → decode s.words = .short → ∃ t, step s = .next t ∧ Trapped s t 0x03 0 0x10000 0) ∧
  (∀ (s : State) (r : Nat) (c : CtxId) (i : Instr) (len : Nat) (base : Half) (l : List Move),
     let f := { s with agenda := l }.focusOn r c
     r < s.ranked → f.here.clock = .good → f.cur.run = .running → f.waitingTrap = none → decode f.words = .ok i len base →
     f.badWord len = none →
     let g (n : Nat) := { f with focus := { f.focus with len := len, base := base, times := n } }
     (∀ n t, s.agenda = .mismatch r c n :: l → exec i (g (if i.checked then n else 0)) = .next t →
       step s = .next { t with focus := { t.focus with times := 0 } }) ∧
     (∀ d x y, i = .add d x y → Ready .all false (g 0) → ∃ q, exec i (g 0) = .next q ∧
       (s.agenda = .mismatch r c 1 :: l → step s = .next (q.modTile r fun t => { t with chkcnt := t.chkcnt + 1 })) ∧
       (s.agenda = .mismatch r c 2 :: l → f.cur.sup = false → ∃ t, step s = .next t ∧
         Trapped (g 0) t 0x22 0 (f.cur.pc.setWidth 64) len ∧ (t.tile r).chkcnt = (f.tile r).chkcnt + 2)) ∧
     (∀ n d x y, i = .fadd d x y → Ready .all false (g 0) →
       (FFmt.f32.add f.cur.plainMode (f.cur.getG x).toNat (f.cur.getG y).toNat).flags &&& (fOF ||| fUF) ≠ 0 →
       s.agenda = .mismatch r c n :: l → step s = exec i (g 0)))

/-- R34, R38 to R53: words written out from the encodings of the spec decode to the instructions they stand for. -/
def Obligations.WordsDecode : Prop :=
  decode [0x0000#16] = .ok (.mov 0 0) 1 0x0000 ∧
  decode [0x8805#16] = .ok .nop 1 0x8805 ∧
  decode [0xFAC0#16, 0x6000#16] = .ok (.cpyw 0) 2 0x6000 ∧
  decode [0xFAC0#16, 0x5828#16] = .ok (.cpy 0 1 2) 2 0x5828 ∧
  decode [0xFAC0#16, 0xFD80#16, 0x75C0#16] = .ok (.colset .system 5 6) 3 0x75C0 ∧
  decode [0xF800#16, 0x8805#16] = .bad .surplusPrefix 0 0xF800 2

/-- R34 to R53, R63: for every instruction that the encodings admit, decoding the words that the encoder writes gives that
instruction back, with every operand at every value (CPYX and LTRC have one encoding for their actions, R343, R401: the
decoder gives the first), and the whole group is consumed. -/
def Obligations.EncodeThenDecode : Prop :=
  ∀ (i : Instr) (rest : List Half), i.wf = true →
    ∃ base, (encode i).getLast? = some base ∧ decode (encode i ++ rest) = .ok i.canon (encode i).length base

/-- R34 to R51, R53: a group that the encoder writes for one instruction, of any of the five pages, is written for no other: two
instructions with the same groups of words are one instruction for the decoder. -/
def Obligations.EncodingsDoNotOverlap : Prop :=
  ∀ (i j : Instr), i.wf = true → j.wf = true → encode i = encode j → i.canon = j.canon

/-! ## Page 0: integer and pointer registers -/

/-- R89: MOV, NOT, NEG, ABS, the bit counts, the reversal, the extensions; R90: the sums, products, logic, shifts (amount
g[y] mod 32), comparisons, minima and maxima; R91: division truncates toward zero and the remainder takes the sign of the
dividend, a divisor of 0 gives all ones and the dividend, the overflowing quotient is the dividend and its remainder 0; R92,
R93: the immediate forms, in which bits [31:0] of the sign-extended immediate act and a shift by 0 leaves g[d] as it is. Each
writes its value to g[d] and changes nothing else. -/
def Obligations.IntegerOperations : Prop :=
  (∀ (s : State) (d x : GReg), Ready .all false s →
     let v := s.cur.getG x
     Yields (.mov d x) s (s.cur.setG d v) ∧
     Yields (.not d x) s (s.cur.setG d (v ^^^ 0xFFFFFFFF)) ∧
     Yields (.neg d x) s (s.cur.setG d (0 - v)) ∧
     Yields (.abs d x) s (s.cur.setG d (if v.toInt < 0 then 0 - v else v)) ∧
     (∃ n, n ≤ 32 ∧ (∀ j, j < n → v.getLsbD (31 - j) = false) ∧ (n < 32 → v.getLsbD (31 - n) = true) ∧
       Yields (.clz d x) s (s.cur.setG d (BitVec.ofNat 32 n))) ∧
     (∃ n, n ≤ 32 ∧ (∀ j, j < n → v.getLsbD j = false) ∧ (n < 32 → v.getLsbD n = true) ∧
       Yields (.ctz d x) s (s.cur.setG d (BitVec.ofNat 32 n))) ∧
     Yields (.popc d x) s (s.cur.setG d (BitVec.ofNat 32 ((List.range 32).filter fun j => v.getLsbD j).length)) ∧
     (∃ w : Word, (∀ j, j < 32 → w.getLsbD j = v.getLsbD (31 - j)) ∧ Yields (.brev d x) s (s.cur.setG d w)) ∧
     Yields (.sexb d x) s (s.cur.setG d (BitVec.ofInt 32 (v.setWidth 8).toInt)) ∧
     Yields (.sexh d x) s (s.cur.setG d (BitVec.ofInt 32 (v.setWidth 16).toInt)) ∧
     Yields (.zexb d x) s (s.cur.setG d (BitVec.ofNat 32 (v.toNat % 256))) ∧
     Yields (.zexh d x) s (s.cur.setG d (BitVec.ofNat 32 (v.toNat % 65536)))) ∧
  (∀ (s : State) (d x y : GReg), Ready .all false s →
     let a := s.cur.getG x
     let b := s.cur.getG y
     let n := b.toNat % 32
     let gives (i : Instr) (w : Word) : Prop := Yields i s (s.cur.setG d w)
     gives (.add d x y) (BitVec.ofNat 32 (a.toNat + b.toNat)) ∧
     gives (.sub d x y) (BitVec.ofInt 32 (a.toInt - b.toInt)) ∧
     gives (.and d x y) (a &&& b) ∧ gives (.or d x y) (a ||| b) ∧ gives (.xor d x y) (a ^^^ b) ∧
     gives (.sll d x y) (BitVec.ofNat 32 (a.toNat * 2 ^ n)) ∧
     gives (.srl d x y) (BitVec.ofNat 32 (a.toNat / 2 ^ n)) ∧
     gives (.sra d x y) (BitVec.ofInt 32 (a.toInt / 2 ^ n)) ∧
     gives (.ror d x y) (BitVec.ofNat 32 (a.toNat / 2 ^ n + a.toNat * 2 ^ (32 - n))) ∧
     gives (.mul d x y) (BitVec.ofInt 32 (a.toInt * b.toInt)) ∧
     gives (.mulh d x y) (BitVec.ofInt 32 (a.toInt * b.toInt / 2 ^ 32)) ∧
     gives (.mulhu d x y) (BitVec.ofNat 32 (a.toNat * b.toNat / 2 ^ 32)) ∧
     gives (.slt d x y) (if a.toInt < b.toInt then 1 else 0) ∧ gives (.sltu d x y) (if a.toNat < b.toNat then 1 else 0) ∧
     gives (.seq d x y) (if a = b then 1 else 0) ∧ gives (.sne d x y) (if a = b then 0 else 1) ∧
     gives (.min d x y) (BitVec.ofInt 32 (min a.toInt b.toInt)) ∧ gives (.max d x y) (BitVec.ofInt 32 (max a.toInt b.toInt)) ∧
     gives (.minu d x y) (BitVec.ofNat 32 (min a.toNat b.toNat)) ∧ gives (.maxu d x y) (BitVec.ofNat 32 (max a.toNat b.toNat))) ∧
  (∀ (s : State) (d x y : GReg), Ready .all false s →
     let a := s.cur.getG x
     let b := s.cur.getG y
     let gives (i : Instr) (w : Word) : Prop := Yields i s (s.cur.setG d w)
     (b = 0 → gives (.div d x y) 0xFFFFFFFF ∧ gives (.divu d x y) 0xFFFFFFFF ∧ gives (.rem d x y) a ∧ gives (.remu d x y) a) ∧
     (b ≠ 0 →
       gives (.div d x y) (BitVec.ofInt 32 (a.toInt.tdiv b.toInt)) ∧
       gives (.rem d x y) (BitVec.ofInt 32 (a.toInt.tmod b.toInt)) ∧
       gives (.divu d x y) (BitVec.ofNat 32 (a.toNat / b.toNat)) ∧ gives (.remu d x y) (BitVec.ofNat 32 (a.toNat % b.toNat))) ∧
     (a = 0x80000000 → b = 0xFFFFFFFF → gives (.div d x y) 0x80000000 ∧ gives (.rem d x y) 0)) ∧
  (∀ (s : State) (d : GReg) (imm : BitVec 64) (n : BitVec 5), Ready .all false s →
     let a := s.cur.getG d
     let k : Word := imm.setWidth 32
     let gives (i : Instr) (w : Word) : Prop := Yields i s (s.cur.setG d w)
     gives (.addi d imm) (a + k) ∧ gives (.li d imm) k ∧ gives (.andi d imm) (a &&& k) ∧ gives (.ori d imm) (a ||| k) ∧
     gives (.xori d imm) (a ^^^ k) ∧
     gives (.slli d n) (BitVec.ofNat 32 (a.toNat * 2 ^ n.toNat)) ∧ gives (.srli d n) (BitVec.ofNat 32 (a.toNat / 2 ^ n.toNat)) ∧
     gives (.srai d n) (BitVec.ofInt 32 (a.toInt / 2 ^ n.toNat)) ∧
     gives (.rori d n) (BitVec.ofNat 32 (a.toNat / 2 ^ n.toNat + a.toNat * 2 ^ (32 - n.toNat))))

/-- R89, R106 to R108: the halves of a pointer, pointer sums and differences, copies; AADDS commits the sum when it is canonical
and in the window of a[x], and otherwise raises 0x05 with the sum in TVAL and changes no register. -/
def Obligations.PointerArithmetic : Prop :=
  (∀ (s : State) (d x y : AReg) (e z : GReg) (imm : BitVec 64), Ready .all false s →
     let a := s.cur.getA x
     let g := s.cur.getG z
     Yields (.glo e x) s (s.cur.setG e (BitVec.ofNat 32 (a.toNat % 2 ^ 32))) ∧
     Yields (.ghi e x) s (s.cur.setG e (BitVec.ofNat 32 (a.toNat / 2 ^ 32))) ∧
     Yields (.alo d z) s (s.cur.setA d (BitVec.ofNat 64 ((s.cur.getA d).toNat / 2 ^ 32 * 2 ^ 32 + g.toNat))) ∧
     Yields (.ahi d z) s (s.cur.setA d (BitVec.ofNat 64 (g.toNat * 2 ^ 32 + (s.cur.getA d).toNat % 2 ^ 32))) ∧
     Yields (.aadd d x z) s (s.cur.setA d (a + BitVec.ofInt 64 g.toInt)) ∧
     Yields (.aaddi d imm) s (s.cur.setA d (s.cur.getA d + imm)) ∧
     Yields (.asub e x y) s (s.cur.setG e (BitVec.ofInt 32 (max (-(2 ^ 31)) (min (2 ^ 31 - 1) (a - s.cur.getA y).toInt)))) ∧
     Yields (.aeq e x y) s (s.cur.setG e (if a = s.cur.getA y then 1 else 0)) ∧
     Yields (.amov d x) s (s.cur.setA d a) ∧ Yields (.azero d) s (s.cur.setA d 0)) ∧
  (∀ (s : State) (d x : AReg) (y : GReg), Ready .all false s →
     let a := s.cur.getA x
     let t := a + BitVec.ofInt 64 (s.cur.getG y).toInt
     ((spaceOf t).isSome = true ∧ t.toNat / 2 ^ 54 = a.toNat / 2 ^ 54 → Yields (.aadds d x y) s (s.cur.setA d t)) ∧
     (¬((spaceOf t).isSome = true ∧ t.toNat / 2 ^ 54 = a.toNat / 2 ^ 54) → s.cur.sup = false →
       TakesTrap (.aadds d x y) s 0x05 0 t))

/-- R108 to R111: the window code of a pointer; the casts keep a pointer of their window and give INV for any other, SPCG also
for a buffer pointer of a handle that is not declared or an offset beyond it; the made pointers hold the offset below their bound
and are INV beyond it. -/
def Obligations.PointerWindows : Prop :=
  ∀ (s : State) (d x : AReg) (e z : GReg), Ready .all false s →
    let a := s.cur.getA x
    let n := (s.cur.getG z).toNat
    let gives (i : Instr) (p : DWord) : Prop := Yields i s (s.cur.setA d p)
    let inv : DWord := 0xFFC0000000000000
    Yields (.spt e x) s (s.cur.setG e (match spaceOf a with
      | some (.global _) => 0 | some (.buffer _ _) => 1 | some (.cluster _) => 2 | some (.scratch _ _) => 3
      | some (.lane _) => 4 | none => 7)) ∧
    (∀ va, spaceOf a = some (.global va) → gives (.spcg d x) a) ∧
    (∀ h off, spaceOf a = some (.buffer h off) →
      (∀ p hd, s.pitchHere = some p → p.handles[h]? = some hd →
        gives (.spcg d x) (if off < hd.buffer.size then
          BitVec.ofNat 64 ((if hd.cur then hd.buffer.va1 else hd.buffer.va0) + off) else inv)) ∧
      (s.pitchHere = none ∨ (∃ p, s.pitchHere = some p ∧ p.handles[h]? = none) → gives (.spcg d x) inv)) ∧
    (∀ off, spaceOf a = some (.cluster off) → gives (.spcg d x) inv) ∧
    (∀ o off, spaceOf a = some (.scratch o off) → gives (.spcg d x) inv) ∧
    (∀ off, spaceOf a = some (.lane off) → gives (.spcg d x) inv) ∧ (spaceOf a = none → gives (.spcg d x) inv) ∧
    gives (.spcb d x) (match spaceOf a with | some (.buffer _ _) => a | _ => inv) ∧
    gives (.spcc d x) (match spaceOf a with | some (.cluster _) => a | _ => inv) ∧
    gives (.spcs d x) (match spaceOf a with | some (.scratch o _) => if o = s.focus.rank then a else inv | _ => inv) ∧
    gives (.spcl d x) (match spaceOf a with | some (.lane _) => if s.focus.ctx = .c then a else inv | _ => inv) ∧
    gives (.mks d z) (if n < 2 ^ 20 then BitVec.ofNat 64 (0x3FD * 2 ^ 54 + s.focus.rank * 2 ^ 36) ||| BitVec.ofNat 64 n else inv) ∧
    gives (.mkc d z) (if n < 2 ^ 22 then BitVec.ofNat 64 (0x3FC * 2 ^ 54 + n) else inv) ∧
    gives (.mkl d z) (if n < 2 ^ 15 then BitVec.ofNat 64 (0x3FE * 2 ^ 54 + n) else inv)

/-! ## Page 0: control flow -/

/-- R45: the target of a PC-relative transfer is the address of the group's first word plus twice the offset, formed without
wrap. A taken branch or jump goes there when it lies in 0x0000 to 0xFFFE, and else raises fetch fault (0x03) with TVAL and
TVALH holding the target as a signed 64-bit value; a branch that is not taken raises nothing. JAL writes the address after the
group to lr (R96). -/
def Obligations.RelativeTransfers : Prop :=
  ∀ (s : State) (x y : GReg) (imm : BitVec 64), Ready .all false s →
    let t : Int := (s.cur.pc.toNat : Int) + 2 * imm.toInt
    let a := (s.cur.getG x).toInt
    let b := (s.cur.getG y).toInt
    let u := (s.cur.getG x).toNat
    let v := (s.cur.getG y).toNat
    let acts (i : Instr) (taken : Prop) : Prop :=
      (taken → 0 ≤ t → t ≤ 0xFFFE → ∃ q, exec i s = .next q ∧ JumpsTo s s q (BitVec.ofInt 16 t)) ∧
      (taken → t < 0 ∨ 0xFFFE < t → s.cur.sup = false → TakesTrap i s 0x03 0 (BitVec.ofInt 64 t)) ∧
      (¬taken → Completes i s s)
    acts (.beqz x imm) (a = 0) ∧ acts (.bnez x imm) (a ≠ 0) ∧ acts (.bltz x imm) (a < 0) ∧ acts (.bgez x imm) (0 ≤ a) ∧
    acts (.bgtz x imm) (0 < a) ∧ acts (.blez x imm) (a ≤ 0) ∧
    acts (.beq x y imm) (a = b) ∧ acts (.bne x y imm) (a ≠ b) ∧ acts (.blt x y imm) (a < b) ∧ acts (.bge x y imm) (b ≤ a) ∧
    acts (.bltu x y imm) (u < v) ∧ acts (.bgeu x y imm) (v ≤ u) ∧ acts (.j imm) True ∧
    (0 ≤ t → t ≤ 0xFFFE → ∃ q, exec (.jal imm) s = .next q ∧
      JumpsTo s (s.setCur (s.cur.setG 62 (BitVec.ofNat 32 (s.cur.pc.toNat + 2 * s.focus.len)))) q (BitVec.ofInt 16 t)) ∧
    (t < 0 ∨ 0xFFFE < t → s.cur.sup = false → TakesTrap (.jal imm) s 0x03 0 (BitVec.ofInt 64 t))

/-- R97: JR, JALR and RET jump to an even register value up
to 0xFFFE, JALR to the old one; an odd or greater value raises 0x03 with the value in TVAL and writes nothing; NOP has no
effect. -/
def Obligations.RegisterTransfers : Prop :=
  ∀ (s : State) (d x : GReg), Ready .all false s →
    let next : Word := BitVec.ofNat 32 (s.cur.pc.toNat + 2 * s.focus.len)
    let linked (r : GReg) := s.setCur (s.cur.setG r next)
    let acts (i : Instr) (u : State) (w : Word) : Prop :=
      (w.toNat % 2 = 0 → w.toNat ≤ 0xFFFE → ∃ q, exec i s = .next q ∧ JumpsTo s u q (w.setWidth 16)) ∧
      (w.toNat % 2 = 1 ∨ 0xFFFE < w.toNat → s.cur.sup = false → TakesTrap i s 0x03 0 (w.setWidth 64))
    acts (.jr x) s (s.cur.getG x) ∧ acts (.jalr d x) (linked d) (s.cur.getG x) ∧ acts .ret s (s.cur.getG 62) ∧
    Completes .nop s s

/-- R100: LOOP pushes the body of `len` words after it with the count g[d], or goes on after the body when the count is 0;
with two loops running, or a body that ends beyond the innermost one's end, it is refused. R101: a group that ends before
the innermost body's end goes on at the next group; at the end, with more than one pass left, one pass fewer is left and
the body starts again; with one left, the entry is dropped. A transfer leaves the bodies that do not hold its target. Every
instruction that passes privilege and core tie (R54) and whose group begins inside the innermost body and has its last word beyond
the body's end raises illegal instruction (0x01) with DETAIL 0x0F and does nothing. That a pass or a skipped body that ends above
0xFFFF leaves the low 16 bits of its end in the PC is DEDUCED in log 24 (R100). -/
def Obligations.HardwareLoops : Prop :=
  (∀ (s : State) (d : GReg) (len : BitVec 8), Ready .all false s →
     let start := s.cur.pc.toNat + 2 * s.focus.len
     let stop := start + 2 * len.toNat
     let fits := s.cur.loops.length < 2 ∧ ∀ e, s.cur.loops.head? = some e → stop ≤ e.stop
     (fits → s.cur.getG d ≠ 0 →
       Yields (.loop d len) s { s.cur with loops := ⟨start, stop, s.cur.getG d⟩ :: s.cur.loops }) ∧
     (fits → s.cur.getG d = 0 → ∃ t, exec (.loop d len) s = .next t ∧
       AfterCycles (s.modCur fun c => c.fall stop) t) ∧
     (¬fits → s.cur.sup = false → Refuses (.loop d len) s)) ∧
  (∀ (c : Ctx) (e : LoopEntry) (l : List LoopEntry) (stop : Nat) (q : Half), c.loops = e :: l →
     (stop ≠ e.stop → (c.fall stop).loops = e :: l ∧ (c.fall stop).pc = BitVec.ofNat 16 stop) ∧
     (stop = e.stop → 1 < e.count.toNat →
       (c.fall stop).loops = { e with count := e.count - 1 } :: l ∧ (c.fall stop).pc = BitVec.ofNat 16 e.start) ∧
     (stop = e.stop → e.count = 1 → c.fall stop = { c with loops := l }.fall stop) ∧
     (e.start ≤ q.toNat → q.toNat < e.stop → (c.jumpTo q).loops = e :: l) ∧
     (q.toNat < e.start ∨ e.stop ≤ q.toNat → (c.jumpTo q).loops = ({ c with loops := l }.jumpTo q).loops) ∧
     (c.jumpTo q).pc = q) ∧
  (∀ (s : State) (e : LoopEntry) (l : List LoopEntry) (i : Instr), s.cur.loops = e :: l → e.start ≤ s.cur.pc.toNat →
     s.cur.pc.toNat < e.stop → e.stop < s.cur.pc.toNat + 2 * s.focus.len → s.cur.sup = false → i.wf = true →
     privileged i = false → (tieOf i).allows s.focus.ctx = true → Refuses i s)

/-- R98: HEND at user level ends the firing: the loop stack is empty, the core is in dispatch, registers, memory and the engines'
queues are as they were, and (R126) the running slot is examined again as an idle one: a slot other than slot 0 whose conditions
(R124) hold is ready, since before or from now on, and any other is idle. R99: HALT, once the core's own engine queue is empty, halts
the core with its loop stack empty and every slot idle; until then it waits, and no cycle of the wait counts for the watchdog (R129). On the message thread HEND ends the message once the context's stores are performed
(R350), and HALT is refused (R88). At supervisor level both are refused. -/
def Obligations.EndOfFiring : Prop :=
  ∀ (s : State), Ready .all false s →
    (∀ k : CoreId, s.focus.ctx = k.ctx → s.cur.sup = false →
      let empty := match k with | .s => s.here.copy.queue = [] | .c => s.here.matrix.queue = []
      (∃ t, exec .hend s = .next t ∧ Leaves s ((s.modHere fun t => t.endFiring k .dispatch).settle s.focus.rank k) t ∧
        t.cur.run = .dispatch ∧ t.cur.loops = [] ∧ t.cur.g = s.cur.g ∧ t.cur.a = s.cur.a ∧ t.cur.p = s.cur.p ∧ t.cur.v = s.cur.v ∧
        t.mem = s.mem ∧ t.here.copy.queue = s.here.copy.queue ∧ t.here.matrix.queue = s.here.matrix.queue ∧
        ∀ (j : Nat) (st : SlotState) (sl : Slot), (s.here.core k).states[j]? = some st → (s.here.core k).slots[j]? = some sl →
          (t.here.core k).states[j]? = some (
            if j ≠ 0 ∧ (s.here.core k).conditions false sl = true then
              (match st with | .ready since pass => .ready since pass | _ => .ready s.free 0)
            else .idle)) ∧
      (empty → ∃ t, exec .halt s = .next t ∧ Leaves s (s.modHere fun t => t.endFiring k .halted) t ∧
        t.cur.run = .halted ∧ t.cur.loops = [] ∧ ∀ j, j < 32 → (t.here.core k).states[j]? = some .idle) ∧
      (¬empty → ∃ t, exec .halt s = .next t ∧ Waits s t ∧ t.cur.wd = s.cur.wd)) ∧
    (s.focus.ctx = .m → s.cur.sup = false →
      (s.cur.storing = [] → ∃ t, exec .hend s = .next t ∧ Leaves s (s.endMessage s.focus.rank 0) t ∧
        t.cur.run = .dispatch ∧ t.cur.loops = [] ∧ t.here.current = none) ∧
      (s.cur.storing ≠ [] → ∃ t, exec .hend s = .next t ∧ Waits s t) ∧
      Refuses .halt s) ∧
    (s.cur.sup = true → ∀ i, i = Instr.hend ∨ i = .halt → ∃ t, exec i s = .next t ∧ t.cur = s.cur.doubleTrap)

/-- R97, R390: BRK takes 0x24 with DETAIL 0 and TVAL 0; TRAP takes 0x0F with its DETAIL and g[d] in TVAL; R54: a group that is
no instruction takes the trap of its first defect. R25, R54: at user level every privileged instruction raises 0x01 with
DETAIL 0x0D; R52: every instruction of page 2, VLDL and VSTL outside the C core, the copy and ring instructions on the C core, and
MRPL and MHEND outside the message thread raise 0x02 with DETAIL 0, before any operand is looked at. -/
def Obligations.SoftwareTrapsAndPrivilege : Prop :=
  (∀ (s : State) (d : GReg) (detail code : Byte) (value : DWord) (len : Nat), s.cur.sup = false →
     (Ready .all false s → TakesTrap .brk s 0x24 0 0 ∧
       TakesTrap (.trap d detail) s 0x0F detail (BitVec.ofNat 64 (s.cur.getG d).toNat)) ∧
     ∃ t, exec (.illegalInstruction code detail value len) s = .next t ∧ Trapped s t code detail value len) ∧
  (∀ (s : State) (d x : GReg) (a : AReg) (v : VReg) (p : PReg) (h h' : HReg) (o : BitVec 2) (b b' b'' : Bool) (imm : BitVec 64)
     (t : EType) (k : MstKind) (m : MldKind), s.cur.sup = false →
     (∀ i, i ∈ [Instr.eret, .idle d, .tlbi a, .tlba, .ctxs, .ctxl, .tqp x, .ltrcRead d x, .ltrcClearWindow d x,
         .ltrcClearSuspect d x, .strk x] → TakesTrap i s 0x01 0x0D s.baseValue) ∧
     (s.focus.ctx ≠ .c → ∀ i, i ∈ [Instr.mma o a a b b' b'', .mmag o a a b b' b'', .msh d x, .mfmt d x, .mzero x, .mwait x,
         .mstat d, .mtov p v x, .vtom p v x, .mst k d a imm, .mld m d a imm, .vldl t p v a imm, .vstl t p v a imm, .skinit t h x,
         .skseed h a, .skclr h, .skcpy h h', .skmrg h h', .skadd t p h v, .skq t d h x, .skr t d h x, .skhh t d h x, .skhc d h x,
         .skcnt d h, .skcnh d h, .skdc t d h, .skmin t d h, .skmax t d h, .skmean t d h, .skvar t d h, .sksum t d h, .sklse t d h,
         .sknan d h, .skld h a imm, .skst h a imm, .skldh h a imm] → TakesTrap i s 0x02 0 s.baseValue) ∧
     (s.focus.ctx = .c → ∀ i, i ∈ [Instr.cpy a a x, .cpyr d a x, .cpyw x, .cpys d x, .cpyxResume x, .cpyxCancel x, .cpyxFlush x,
         .ringb d x, .ringq d x] → TakesTrap i s 0x02 0 s.baseValue) ∧
     (s.focus.ctx ≠ .m → ∀ i, i ∈ [Instr.mrpl x, .mhend x] → TakesTrap i s 0x02 0 s.baseValue))

/-- R27, R31 to R33: what taking a trap at user level saves and where the context goes on. R320: one taken in dispatch or halt shows
TEPC 0 and TSTAT.IDL. R29: a trap at supervisor level keeps the first trap's registers, sets TSTAT.DBL and stops the context, and a
fatal record with DBL is posted; that the record stands among the field's posts in the same step is the model's (log 10). -/
def Obligations.TrapEntry : Prop :=
  ∀ (s : State) (code detail : Byte) (value : DWord) (len : Nat) (idl : Bool),
    let t := s.trap s.focus.rank s.focus.ctx code detail value len idl
    (s.cur.sup = false → idl = false → Trapped s t code detail value len) ∧
    (s.cur.sup = false → idl = true →
      t.cur.sup = true ∧ t.cur.pc = s.cur.tvec.setWidth 16 &&& 0xFFFE ∧ t.cur.tepc = 0 ∧ t.cur.tstat.getLsbD 6 = true ∧
      t.cur.left = s.cur.run ∧ t.cur.tval = value.setWidth 32 ∧ t.cur.tvalh = (value >>> 32).setWidth 32) ∧
    (s.cur.sup = true →
      t.cur = { s.cur with tstat := s.cur.tstat ||| 0x800, run := .stopped, waiting := false, xact := none } ∧
      ∃ p : Post, (t.field (s.fieldOf s.focus.rank)).posts = (s.field (s.fieldOf s.focus.rank)).posts ++ [p] ∧
        p.record.cause = s.cur.tcause.setWidth 8 ∧ p.record.flags.getLsbD 0 = true ∧ p.record.flags.getLsbD 2 = true ∧
        p.record.flags.getLsbD 3 = true ∧
        p.record.value = s.cur.tvalh ++ s.cur.tval)

/-- R28, R392: ERET returns to user level. With TSTAT.IDL the context goes back to the state that the trap left; otherwise it goes
on at TEPC with the saved loop stack, of which the bodies that do not hold TEPC are dropped; at the end of the innermost body
with passes left, the next pass begins. Where a supervisor has set IDL itself, the state gone back to is DEDUCED in log 24. -/
def Obligations.ReturnFromTrap : Prop :=
  ∀ (s : State), Ready .all true s →
    (∃ t, exec .eret s = .next t ∧ Leaves s (s.setCur s.cur.eret) t) ∧
    s.cur.eret.sup = false ∧
    (s.cur.tstat.getLsbD 6 = true → s.cur.eret.run = s.cur.left ∧ s.cur.eret.tstat.getLsbD 6 = false ∧ s.cur.eret.loops = []) ∧
    (s.cur.tstat.getLsbD 6 = false → s.cur.trapLoops = [] → s.cur.tepc.toNat < 65536 →
      s.cur.eret = { s.cur with sup := false, pc := s.cur.tepc.setWidth 16, past := false, loops := [] }) ∧
    (∀ e l, s.cur.tstat.getLsbD 6 = false → s.cur.trapLoops = e :: l → e.start ≤ s.cur.tepc.toNat → s.cur.tepc.toNat < e.stop →
      s.cur.eret.loops = e :: l ∧ s.cur.eret.pc = BitVec.ofNat 16 s.cur.tepc.toNat) ∧
    (∀ e l, s.cur.tstat.getLsbD 6 = false → s.cur.trapLoops = e :: l → s.cur.tepc.toNat = e.stop → e.start < e.stop →
      1 < e.count.toNat → s.cur.eret.loops = { e with count := e.count - 1 } :: l ∧ s.cur.eret.pc = BitVec.ofNat 16 e.start) ∧
    (∀ e l, s.cur.tstat.getLsbD 6 = false → s.cur.trapLoops = e :: l → s.cur.tepc.toNat < e.start ∨ e.stop < s.cur.tepc.toNat →
      s.cur.eret.loops = ({ s.cur with trapLoops := l } : Ctx).eret.loops)

/-! ## Memory -/

/-- R102 to R105, R373: a load of bytes of the tile's own writes its register with the little-endian value, sign- or
zero-extended, and nothing else; a failed check traps with the effective address, bad data with 0x20 or 0x21; while the translation
is still to come (R370, R394), the group waits with nothing done (log 11). -/
def Obligations.ScalarLoads : Prop :=
  ∀ (s : State) (d : GReg) (a x : AReg) (imm : BitVec 64), Ready .all false s →
    let loads (i : Instr) (n : Nat) (c : Nat → Ctx) : Prop :=
      let ea := s.cur.getA x + imm * BitVec.ofNat 64 n
      (∀ g, Allowed s .load ea n g → AtOnce s [g.piece n] →
        (Good s [g.piece n] → CompletesAccess i s (s.setCur (c (s.mem.readNat g.key n)))) ∧
        (s.poisoned g.key n = true → s.portFails s.focus.rank g.key = false → s.cur.sup = false →
          TakesTrap i s (if g.key < 2 ^ 52 then 0x21 else 0x20) 0 ea)) ∧
      (∀ code, Denied s .load ea n code → s.cur.sup = false → TakesTrap i s code 0 ea) ∧
      (Delayed s .load ea n → ∃ t, exec i s = .next t ∧ Waits s t)
    loads (.ldb d x imm) 1 (fun v => s.cur.setG d (BitVec.ofInt 32 (BitVec.ofNat 8 v).toInt)) ∧
    loads (.ldbu d x imm) 1 (fun v => s.cur.setG d (BitVec.ofNat 32 v)) ∧
    loads (.ldh d x imm) 2 (fun v => s.cur.setG d (BitVec.ofInt 32 (BitVec.ofNat 16 v).toInt)) ∧
    loads (.ldhu d x imm) 2 (fun v => s.cur.setG d (BitVec.ofNat 32 v)) ∧
    loads (.ldw d x imm) 4 (fun v => s.cur.setG d (BitVec.ofNat 32 v)) ∧
    loads (.lda a x imm) 8 (fun v => s.cur.setA a (BitVec.ofNat 64 v))

/-- R102 to R105: a store writes the low bytes of its register at the effective address, lowest byte first, and leaves every other
byte and every register as it was; a failed check traps with the address and stores nothing; while the translation is still to come
(R370, R394), the group waits with nothing done (log 11). What happens before the stored bytes (R278) is the writer's. -/
def Obligations.ScalarStores : Prop :=
  ∀ (s : State) (d : GReg) (a x : AReg) (imm : BitVec 64), Ready .all false s →
    let stores (i : Instr) (n : Nat) (v : Nat) : Prop :=
      let ea := s.cur.getA x + imm * BitVec.ofNat 64 n
      (∀ g, Allowed s .store ea n g → AtOnce s [g.piece n] → Writable s [g.piece n] →
        let u := s.store g.key n (BitVec.ofNat 128 v) s.cur.pts.known
        CompletesAccess i s u ∧ SameMemoryBut s u g.key n ∧ u.mem.readNat g.key n = v % 256 ^ n) ∧
      (∀ code, Denied s .store ea n code → s.cur.sup = false → TakesTrap i s code 0 ea) ∧
      (Delayed s .store ea n → ∃ t, exec i s = .next t ∧ Waits s t)
    stores (.stb d x imm) 1 (s.cur.getG d).toNat ∧ stores (.sth d x imm) 2 (s.cur.getG d).toNat ∧
    stores (.stw d x imm) 4 (s.cur.getG d).toNat ∧ stores (.sta a x imm) 8 (s.cur.getA a).toNat

/-- R104, R109: the checks of an access in their order: canonical (0x05), aligned (0x04), the lane-private window to the C core
alone (0x06), another tile's scratch (0x07), a store into the buffer window (0x0A), an offset beyond the portion (0x06). -/
def Obligations.AccessChecks : Prop :=
  ∀ (s : State) (r : Nat) (isC : Bool) (u : Purpose) (ea : DWord) (n : Nat), u = .load ∨ u = .store ∨ u = .atomic →
    let c := s.checkAccess r isC u ea n
    (spaceOf ea = none → c = .error 0x05) ∧
    (spaceOf ea ≠ none → ea.toNat % n ≠ 0 → c = .error 0x04) ∧
    (∀ i, spaceOf ea = some (.lane i) → ea.toNat % n = 0 → u = .atomic ∨ isC = false → c = .error 0x06) ∧
    (∀ i, spaceOf ea = some (.lane i) → ea.toNat % n = 0 → u ≠ .atomic → isC = true →
      ∃ g, c = .ok g ∧ g.key = sramKey r .lane i ∧ g.home = none) ∧
    (∀ o off, spaceOf ea = some (.scratch o off) → ea.toNat % n = 0 → o ≠ r → c = .error 0x07) ∧
    (∀ off, spaceOf ea = some (.scratch r off) → ea.toNat % n = 0 →
      ((s.tile r).scratchSize < off + n → c = .error 0x06) ∧
      (off + n ≤ (s.tile r).scratchSize → ∃ g, c = .ok g ∧ g.key = sramKey r .scratch off ∧ g.home = none)) ∧
    (∀ h off, spaceOf ea = some (.buffer h off) → ea.toNat % n = 0 → u ≠ .load → c = .error 0x0A) ∧
    (∀ va, spaceOf ea = some (.global va) → ea.toNat % n = 0 → (s.tile r).pitch = none → c = .error 0x09)

/-- R105, R282, R325: an access to another tile's bytes travels. A load stays at its group, marked as waiting with no register
changed, and the request for its first piece stands last among the messages at the home: a READ, a CREAD for the cluster's shared
portions (R258), or, where the tile keeps lines (R274), a LINE. A store commits, and a WRITE or CWRITE with its bytes stands there. An
atomic whose home lies within its scope (R303) stands there as an AMO or CAMO of its operation: the group of a returning one waits, and
a posted one commits and is tracked. VLD to VSCT travel so too, piece by piece (R195) and element by element. -/
def Obligations.RemoteAccessesTravel : Prop :=
  ∀ (s : State) (d y : GReg) (a x : AReg) (v : VReg) (pr : PReg) (ty : EType) (sc : Scope) (imm : BitVec 64) (g : Target) (h : Nat),
    Ready .all false s → Idle s → h ≠ s.focus.rank →
    let free (k n : Nat) : Prop := s.focus.ctx = .c → s.here.matrix.touches k n = false
    let stands (q : Req) (t : State) : Prop := (t.tile h).messages = (s.tile h).messages ++ [.builtin q]
    let stays (t : State) : Prop := t.cur.waiting = true ∧ t.cur.pc = s.cur.pc ∧ t.cur.g = s.cur.g ∧ t.cur.a = s.cur.a ∧
      t.cur.v = s.cur.v ∧ t.mem = s.mem
    let passes (t : State) : Prop := t.cur.pc = (s.cur.fall s.after).pc ∧ t.cur.g = s.cur.g ∧ t.cur.a = s.cur.a ∧
      t.cur.v = s.cur.v ∧ t.mem = s.mem
    let asks (i : Instr) (k n : Nat) : Prop :=
      ∃ t q, exec i s = .next t ∧ stays t ∧ stands q t ∧ q.key = k ∧ q.size = n ∧ q.src = s.sender s.focus.rank s.focus.ctx ∧
        q.posted = false ∧ q.kind = (if k < 2 ^ 52 then (if s.here.caches then .line else .read) else .cread)
    let sends (i : Instr) (k n : Nat) (data : Nat) (on : Nat → Bool) : Prop :=
      ∃ t q, exec i s = .next t ∧ passes t ∧ stands q t ∧ q.key = k ∧ q.size = n ∧ q.src = s.sender s.focus.rank s.focus.ctx ∧
        q.data.toNat % 256 ^ n = data % 256 ^ n ∧ (∀ b, b < n → q.cmp.getLsbD b = on b) ∧
        q.kind = (if k < 2 ^ 52 then .write else .cwrite)
    let loads (i : Instr) (n : Nat) : Prop := g.home = some h → free g.key n → s.here.lines = [] →
      Allowed s .load (s.cur.getA x + imm * BitVec.ofNat 64 n) n g → asks i g.key n
    let stores (i : Instr) (n data : Nat) : Prop := g.home = some h → free g.key n →
      Allowed s .store (s.cur.getA x + imm * BitVec.ofNat 64 n) n g → sends i g.key n data fun _ => true
    let atomic (i : Instr) (op : Nat) : Prop := g.home = some h → free g.key 4 → Allowed s .atomic (s.cur.getA x) 4 g →
      s.within sc s.focus.rank h = true →
      ∃ t q, exec i s = .next t ∧ stands q t ∧ q.key = g.key ∧ q.size = 4 ∧ q.src = s.sender s.focus.rank s.focus.ctx ∧
        q.data = BitVec.ofNat 128 (s.cur.getG y).toNat ∧ q.cmp = BitVec.ofNat 64 (s.cur.getG d).toNat ∧ q.posted = (d == 0) ∧
        q.kind = (if g.key < 2 ^ 52 then .amo op else .camo op) ∧ (d ≠ 0 → stays t) ∧
        (d = 0 → passes t ∧ t.cur.posted = [(g.key / 8, h)])
    let m := s.cur.getP pr
    let w := ty.width
    let n := w / 8
    let rowLoad (i : Instr) (k : Nat) : Prop := ∀ (p : Piece) (ps : List Piece), m ≠ 0 → s.here.lines = [] →
      Allowed s .load (s.cur.getA x + imm * BitVec.ofNat 64 (16 * k)) (16 * k) g →
      (s.readSpans g m k).map (·.2) = p :: ps → (∀ e ∈ p :: ps, free e.key e.size) → p.home = some h → asks i p.key p.size
    let rowStore (i : Instr) (k : Nat) : Prop := ∀ (j : Nat), j < k → (∀ l, l < 4 * j → m.getLsbD l = false) →
      (∃ l, l < 4 ∧ m.getLsbD (4 * j + l) = true) →
      Allowed s .store (s.cur.getA x + imm * BitVec.ofNat 64 (16 * k)) (16 * k) g →
      (∀ e, e < k → let p := s.pieceAt s.focus.rank g (16 * e) 16
        free p.key 16 ∧ (p.home = none → s.bankHeld p.key = false)) →
      (s.pieceAt s.focus.rank g (16 * j) 16).home = some h →
      sends i (g.key + 16 * j) 16 ((s.cur.getV v).extractLsb' (128 * j) 128).toNat fun b => m.getLsbD (4 * j + b / 4)
    let elems (u : Purpose) (addr : Nat → DWord) (skew : Nat → Prop) (does : Nat → Nat → Prop) : Prop :=
      ∀ (f : Nat → Target) (e : Nat) (es : List Nat), activeElems m w = e :: es →
        (∀ j ∈ e :: es, Allowed s u (addr j) n (f j) ∧ ¬skew j ∧ free (f j).key n ∧ ((f j).home = none → s.bankHeld (f j).key = false)) →
        (u = .load → s.here.lines = []) → (f e).home = some h → does e (f e).key
    let strided (e : Nat) := s.cur.getA x + imm * BitVec.ofNat 64 n + BitVec.ofNat 64 e * s.cur.vstride.signExtend 64
    let indexed (i : VReg) (e : Nat) := s.cur.getA x + imm * 4 + (lane (s.cur.getV i) e).setWidth 64 * 4
    let skew (e : Nat) : Prop := e ≠ 0 ∧ s.cur.vstride.toNat % n ≠ 0
    loads (.ldb d x imm) 1 ∧ loads (.ldbu d x imm) 1 ∧ loads (.ldh d x imm) 2 ∧ loads (.ldhu d x imm) 2 ∧ loads (.ldw d x imm) 4 ∧
    loads (.lda a x imm) 8 ∧
    stores (.stb d x imm) 1 (s.cur.getG d).toNat ∧ stores (.sth d x imm) 2 (s.cur.getG d).toNat ∧
    stores (.stw d x imm) 4 (s.cur.getG d).toNat ∧ stores (.sta a x imm) 8 (s.cur.getA a).toNat ∧
    atomic (.amoadd sc d x y) 0 ∧ atomic (.amoand sc d x y) 1 ∧ atomic (.amoor sc d x y) 2 ∧ atomic (.amoxor sc d x y) 3 ∧
    atomic (.amomin sc d x y) 4 ∧ atomic (.amomax sc d x y) 5 ∧ atomic (.amominu sc d x y) 6 ∧ atomic (.amomaxu sc d x y) 7 ∧
    atomic (.amoswp sc d x y) 8 ∧ atomic (.amocas sc d x y) 9 ∧ atomic (.amofadd sc d x y) 10 ∧ atomic (.amofmax sc d x y) 11 ∧
    rowLoad (.vld pr v x imm) 8 ∧ rowLoad (.vldh pr v x imm) 4 ∧
    (g.home = some h → free g.key n → s.here.lines = [] → m ≠ 0 →
      Allowed s .load (s.cur.getA x + imm * BitVec.ofNat 64 n) n g → asks (.vldb ty pr v x imm) g.key n) ∧
    elems .load strided skew (fun _ k => asks (.vlds ty pr v x imm) k n) ∧
    (w = 32 → elems .load (indexed v) (fun _ => False) fun _ k => asks (.vgat ty pr v x imm) k n) ∧
    rowStore (.vst pr v x imm) 8 ∧ rowStore (.vsth pr v x imm) 4 ∧
    elems .store strided skew (fun e k => sends (.vsts ty pr v x imm) k n (elemOf w (s.cur.getV v) e) fun _ => true) ∧
    (w = 32 → elems .store (indexed (v + 1)) (fun _ => False) fun e k =>
      sends (.vsct ty pr v x imm) k n (elemOf w (s.cur.getV v) e) fun _ => true)

/-! ## Page 0: floating point -/

/-- R113 to R116, R81, R82: each operation writes the bits that its format's exact operation and one rounding give, gathers its
flags in FFLAGS, and counts a skipped check for the sum, product and comparison classes (R364, R365; log 21); a stochastic mode
acts as RNE but in FCVTBS (R71). The bit operations set no flag. FCLASS sets the bit of its operand's class, by sign, exponent and
fraction (R116); that FCVTSB sets no flag is log 26. -/
def Obligations.ScalarFloat : Prop :=
  ∀ (s : State) (d x y : GReg), Ready .all false s →
    let c := s.cur
    let m := c.plainMode
    let a := (c.getG x).toNat
    let b := (c.getG y).toNat
    let z := (c.getG d).toNat
    let gives (i : Instr) (r : FRes) (skip : Bool) : Prop :=
      Completes i s ((s.setCur ((c.setG d (BitVec.ofNat 32 r.bits)).raise r.flags)).countSkip skip)
    let checked (i : Instr) (r : FRes) (ins : List Nat) : Prop :=
      gives i r ((r.flags &&& (fOF ||| fUF) != 0) || FFmt.f32.isSubnormal r.bits || (m.daz && ins.any FFmt.f32.isSubnormal))
    let compared (i : Instr) (k : FCmp) : Prop :=
      let r := FFmt.f32.compare k m.daz a b
      gives i ⟨r.1.toNat, r.2⟩ (m.daz && [a, b].any FFmt.f32.isSubnormal)
    checked (.fadd d x y) (FFmt.f32.add m a b) [a, b] ∧ checked (.fsub d x y) (FFmt.f32.sub m a b) [a, b] ∧
    checked (.fmul d x y) (FFmt.f32.mul m a b) [a, b] ∧ checked (.ffma d x y) (FFmt.f32.fma m a b z) [a, b, z] ∧
    checked (.fmin d x y) (FFmt.f32.minMax false m a b) [a, b] ∧ checked (.fmax d x y) (FFmt.f32.minMax true m a b) [a, b] ∧
    checked (.fdiv d x y) (FFmt.f32.div m a b) [a, b] ∧
    compared (.feq d x y) .eq ∧ compared (.flt d x y) .lt ∧ compared (.fle d x y) .le ∧ compared (.fun d x y) .un ∧
    gives (.fsqrt d x) (FFmt.f32.sqrt m a) false ∧
    gives (.fcvtws d x) (floatToInt 32 true m.rm (FFmt.f32.input m.daz a)) false ∧
    gives (.fcvtus d x) (floatToInt 32 false m.rm (FFmt.f32.input m.daz a)) false ∧
    gives (.fcvtsw d x) (FFmt.f32.convertTo m (.fin (Ex.ofInt (c.getG x).toInt))) false ∧
    gives (.fcvtsu d x) (FFmt.f32.convertTo m (.fin (Ex.ofNat a))) false ∧
    gives (.fcvtsb d x) ⟨(FFmt.f32.convertTo m (FFmt.bf16.input m.daz (a % 65536))).bits, 0⟩ false ∧
    gives (.fexp2 d x) (FFmt.f32.special1 m .exp2 a) false ∧ gives (.flog2 d x) (FFmt.f32.special1 m .log2 a) false ∧
    gives (.frcp d x) (FFmt.f32.special1 m .rcp a) false ∧ gives (.frsq d x) (FFmt.f32.special1 m .rsq a) false ∧
    (let v := FFmt.f32.input c.mode.daz a
     let r := FFmt.bf16.convertTo c.mode v
     Yields (.fcvtbs d x) s { (c.setG d (BitVec.ofNat 32 r.bits)).raise r.flags with
       srseed := if c.stochastic && FFmt.bf16.takesBits v then lfsrSteps 16 c.srseed else c.srseed }) ∧
    Yields (.fsgn d x y) s (c.setG d (BitVec.ofBool ((c.getG y).getLsbD 31) ++ (c.getG x).setWidth 31)) ∧
    Yields (.fabs d x) s (c.setG d (BitVec.ofBool false ++ (c.getG x).setWidth 31)) ∧
    Yields (.fneg d x) s (c.setG d (BitVec.ofBool (!(c.getG x).getLsbD 31) ++ (c.getG x).setWidth 31)) ∧
    (let neg := 2 ^ 31 ≤ a
     let e := a / 2 ^ 23 % 256
     let f := a % 2 ^ 23
     let k := if e = 255 then (if f = 0 then (if neg then 0 else 7) else if f < 2 ^ 22 then 8 else 9)
       else if e = 0 then (if f = 0 then (if neg then 3 else 4) else if neg then 2 else 5)
       else if neg then 1 else 6
     Yields (.fclass d x) s (c.setG d (BitVec.ofNat 32 (2 ^ k))))

/-- R76: the rounding of |v| to a whole number of units: toward zero the greatest not above it; to nearest one within half a unit,
the even one of two equally near; up and down by the sign; stochastically the next one when the first 16 bits of the rest and
r reach 2^16. The answer says whether anything was discarded. -/
def Obligations.Rounding : Prop :=
  ∀ (v : Ex) (q : Int), 0 < v.den →
    let n := v.num * scaleUp (v.exp - q)
    let d := v.den * scaleDown (v.exp - q)
    let at' (m : RMode) := (v.roundAt m q).1
    (at' .rtz * d ≤ n ∧ n < (at' .rtz + 1) * d) ∧
    (2 * n ≤ (2 * at' .rne + 1) * d ∧ 2 * at' .rne * d ≤ 2 * n + d) ∧
    (2 * n = (2 * at' .rne + 1) * d ∨ 2 * at' .rne * d = 2 * n + d → at' .rne % 2 = 0) ∧
    (v.neg = false → n ≤ at' .rup * d ∧ at' .rup * d < n + d ∧ at' .rdn = at' .rtz) ∧
    (v.neg = true → n ≤ at' .rdn * d ∧ at' .rdn * d < n + d ∧ at' .rup = at' .rtz) ∧
    (∀ r, at' (.sr r) = if 2 ^ 16 ≤ n % d * 2 ^ 16 / d + r then at' .rtz + 1 else at' .rtz) ∧
    (∀ m, (v.roundAt m q).2 = decide (at' .rtz * d ≠ n))

/-- R66, R76: a finite value that a format represents rounds to itself in every mode, with no flag. -/
def Obligations.RepresentableValuesStay : Prop :=
  ∀ (f : FFmt) (b : Nat) (v : Ex) (mode : RMode) (nsat : Bool), b < 2 ^ f.width → f.decode b = .fin v →
    (∀ r, mode = .sr r → r < 2 ^ 16) → f.roundFin v mode nsat = ⟨b, 0⟩

/-! ## Page 1: vectors -/

/-- R179, R180: element arithmetic, R83, R114, R180: fused products, minima, shifts by the low bits of Y, high products. Active
elements take the result, modulo the element's width for integers and rounded once for floats, whose flags and skipped checks
gather (R177, R365; log 21); inactive elements keep their bits (R176). -/
def Obligations.VectorArithmetic : Prop :=
  ∀ (s : State) (t : EType) (p : PReg) (d x y : VReg), Ready .all false s →
    let w := t.width
    let m := s.cur.plainMode
    let a (e : Nat) := elemOf w (s.cur.getV x) e
    let b (e : Nat) := elemOf w (s.cur.getV y) e
    let c (e : Nat) := elemOf w (s.cur.getV d) e
    let int (raw : Nat) : Int := if t = .u32 ∨ raw < 2 ^ (w - 1) then raw else (raw : Int) - 2 ^ w
    let bits (i : Instr) (f : Nat → Int) : Prop := WritesBits i s w p d fun e => (f e % 2 ^ w).toNat
    (t.float? = none →
      bits (.vadd t p d x y) (fun e => int (a e) + int (b e)) ∧ bits (.vsub t p d x y) (fun e => int (a e) - int (b e)) ∧
      bits (.vmul t p d x y) (fun e => int (a e) * int (b e)) ∧
      bits (.vfma t p d x y) (fun e => int (a e) * int (b e) + int (c e)) ∧
      bits (.vmin t p d x y) (fun e => min (int (a e)) (int (b e))) ∧
      bits (.vmax t p d x y) (fun e => max (int (a e)) (int (b e))) ∧
      bits (.vabd t p d x y) (fun e => (int (a e) - int (b e)).natAbs) ∧
      bits (.vshl t p d x y) (fun e => a e * 2 ^ (b e % w)) ∧ bits (.vshr t p d x y) (fun e => a e / 2 ^ (b e % w)) ∧
      bits (.vsra t p d x y) (fun e => int (a e) / 2 ^ (b e % w)) ∧
      bits (.vmulh t p d x y) (fun e => int (a e) * int (b e) / 2 ^ w)) ∧
    (∀ f, t.float? = some f →
      let fl (i : Instr) (r : Nat → FRes) (ins : Nat → List Nat) : Prop :=
        WritesElems i s w p d r fun e => skipsCheck f m.daz (ins e) (r e)
      let two (e : Nat) := [a e, b e]
      fl (.vadd t p d x y) (fun e => f.add m (a e) (b e)) two ∧ fl (.vsub t p d x y) (fun e => f.sub m (a e) (b e)) two ∧
      fl (.vmul t p d x y) (fun e => f.mul m (a e) (b e)) two ∧
      fl (.vfma t p d x y) (fun e => f.fma m (a e) (b e) (c e)) (fun e => [a e, b e, c e]) ∧
      fl (.vmin t p d x y) (fun e => f.minMax false m (a e) (b e)) two ∧
      fl (.vmax t p d x y) (fun e => f.minMax true m (a e) (b e)) two ∧
      fl (.vdiv t p d x y) (fun e => f.div m (a e) (b e)) two ∧ fl (.vabd t p d x y) (fun e => f.absDiff m (a e) (b e)) two)

/-- R180, R181: the lane logic; a compare writes one bit for each active lane, 0 for the others, gathers the flags of floats, and
counts a check that DAZ makes skipped (R365). -/
def Obligations.VectorLogicAndCompare : Prop :=
  ∀ (s : State) (t : EType) (p q : PReg) (d x y : VReg), Ready .all false s →
    let a (j : Nat) := lane (s.cur.getV x) j
    let b (j : Nat) := lane (s.cur.getV y) j
    let on (j : Nat) := (s.cur.getP p).getLsbD j
    let daz := s.cur.plainMode.daz
    WritesLanes (.vand p d x y) s p d (fun j => a j &&& b j) ∧ WritesLanes (.vor p d x y) s p d (fun j => a j ||| b j) ∧
    WritesLanes (.vxor p d x y) s p d (fun j => a j ^^^ b j) ∧ WritesLanes (.vandn p d x y) s p d (fun j => a j &&& ~~~(b j)) ∧
    (t = .i32 ∨ t = .u32 →
      let int (w : Word) : Int := if t = .u32 then w.toNat else w.toInt
      let cmp (i : Instr) (f : Int → Int → Prop) : Prop :=
        ∃ w : Word, (∀ j, j < 32 → (w.getLsbD j = true ↔ on j = true ∧ f (int (a j)) (int (b j)))) ∧
          Yields i s (s.cur.setP q w)
      cmp (.vceq t p q x y) (· = ·) ∧ cmp (.vclt t p q x y) (· < ·) ∧ cmp (.vcle t p q x y) (· ≤ ·) ∧ cmp (.vcne t p q x y) (· ≠ ·)) ∧
    (t = .f32 →
      let cmp (i : Instr) (k : FCmp) : Prop :=
        let r (j : Nat) := FFmt.f32.compare k daz (a j).toNat (b j).toNat
        ∃ w : Word, (∀ j, j < 32 → (w.getLsbD j = true ↔ on j = true ∧ (r j).1 = true)) ∧
          Completes i s ((s.setCur ((s.cur.setP q w).raise (orFlags ((activeLanes (s.cur.getP p)).map fun j => ⟨0, (r j).2⟩)))).countSkip
            (daz && (activeLanes (s.cur.getP p)).any fun j => FFmt.f32.isSubnormal (a j).toNat || FFmt.f32.isSubnormal (b j).toNat))
      cmp (.vceq t p q x y) .eq ∧ cmp (.vclt t p q x y) .lt ∧ cmp (.vcle t p q x y) .le ∧ cmp (.vcne t p q x y) .ne)

/-- R182, R184, R189, R190: selection, permutation, rotation, copies, broadcasts, the lane moves, the element numbers, zips, the
immediate. -/
def Obligations.VectorRearrangement : Prop :=
  ∀ (s : State) (t : EType) (p : PReg) (d x y : VReg) (g : GReg) (n : BitVec 5) (imm : BitVec 64), Ready .all false s →
    let w := t.width
    let a (j : Nat) := lane (s.cur.getV x) j
    let k := (s.cur.getG g).toNat
    let ex (e : Nat) := elemOf w (s.cur.getV x) e
    let ed (e : Nat) := elemOf w (s.cur.getV d) e
    (∃ v : VWord, (∀ j, j < 32 → lane v j = if (s.cur.getP p).getLsbD j then a j else lane (s.cur.getV y) j) ∧
      Yields (.vsel p d x y) s (s.cur.setV d v)) ∧
    WritesLanes (.vperm p d x y) s p d (fun j => a ((lane (s.cur.getV y) j).toNat % 32)) ∧
    WritesLanes (.vrot p d x g) s p d (fun j => a ((j + k) % 32)) ∧
    WritesLanes (.vmov p d x) s p d a ∧
    WritesBits (.vbc t p d g) s w p d (fun _ => k) ∧
    (∃ v : VWord, (∀ j, j < 32 → lane v j =
        if j = n.toNat ∧ (s.cur.getP p).getLsbD j = true then s.cur.getG g else lane (s.cur.getV d) j) ∧
      Yields (.vins p d g n) s (s.cur.setV d v)) ∧
    Yields (.vext g x n) s (s.cur.setG g (a n.toNat)) ∧
    WritesBits (.viota t p d) s w p d (fun e => e) ∧
    WritesBits (.vzip t p d x) s w p d (fun e => if e % 2 = 0 then ed (e / 2) else ex (e / 2)) ∧
    WritesBits (.vuzp t p d x) s w p d (fun e => if e < 512 / w then ed (2 * e) else ex (2 * (e - 512 / w))) ∧
    WritesBits (.vli t p d imm) s w p d (fun _ => imm.toNat)

/-- R184: negation and magnitude on the sign bit of floats and modulo the width of integers; the special functions, the root and
the two roundings to an integral value, by R82 and AMODE. Which value within the bound of R82 a special function gives is free (log 5);
the flags of the two roundings are log 26, and that none of these counts a skipped check (R365) is log 21. -/
def Obligations.VectorUnary : Prop :=
  ∀ (s : State) (t : EType) (p : PReg) (d x : VReg), Ready .all false s →
    let w := t.width
    let m := s.cur.plainMode
    let a (e : Nat) := elemOf w (s.cur.getV x) e
    (t.float? = none → t ≠ .u32 →
      let int (raw : Nat) : Int := if raw < 2 ^ (w - 1) then raw else (raw : Int) - 2 ^ w
      WritesBits (.vneg t p d x) s w p d (fun e => (-(int (a e)) % 2 ^ w).toNat) ∧
      WritesBits (.vabs t p d x) s w p d (fun e => (int (a e)).natAbs)) ∧
    (∀ f, t.float? = some f →
      let fl (i : Instr) (g : Nat → FRes) : Prop := WritesElems i s w p d (fun e => g (a e)) fun _ => false
      WritesBits (.vneg t p d x) s w p d (fun e => if a e < 2 ^ (w - 1) then a e + 2 ^ (w - 1) else a e - 2 ^ (w - 1)) ∧
      WritesBits (.vabs t p d x) s w p d (fun e => a e % 2 ^ (w - 1)) ∧
      fl (.vsqrt t p d x) (f.sqrt m) ∧ fl (.vrcp t p d x) (f.special1 m .rcp) ∧ fl (.vrsq t p d x) (f.special1 m .rsq) ∧
      fl (.vexp2 t p d x) (f.special1 m .exp2) ∧ fl (.vlog2 t p d x) (f.special1 m .log2) ∧
      fl (.vexp t p d x) (f.special1 m .exp) ∧ fl (.vlog t p d x) (f.special1 m .log) ∧
      fl (.vtanh t p d x) (f.special1 m .tanh) ∧ fl (.vsig t p d x) (f.special1 m .sig) ∧
      fl (.vsin t p d x) (f.special1 m .sin) ∧ fl (.vcos t p d x) (f.special1 m .cos) ∧
      fl (.vflr t p d x) (f.integral m .rdn false) ∧ fl (.vrnd t p d x) (f.integral m m.rm true))

/-- R84, R183: VSEG sums groups of 2^(n+1) elements by the pairwise tree, in which each sum of a level is that of two neighbours of the
level below, the lower one on the left, rounded, and gathers their flags; the first element of a group takes the sum, the others
zero; an inactive element counts as zero, in a float type as −0 (under RDN its sum with +0 is −0: DEDUCED, log 26). Which float sums
count a skipped check (R365) is log 21. -/
def Obligations.SegmentedSums : Prop :=
  ∀ (s : State) (t : EType) (p : PReg) (d x : VReg) (n : BitVec 3), Ready .all false s → 2 ^ (n.toNat + 1) ≤ t.count →
    let w := t.width
    let size := 2 ^ (n.toNat + 1)
    let input (none0 e : Nat) := if elemOn (s.cur.getP p) w e then elemOf w (s.cur.getV x) e else none0
    let group (none0 e : Nat) := (List.range size).map fun j => input none0 (e + j)
    (t.float? = none → ∃ v : VWord,
      (∀ e, e < t.count → elemOf w v e = if e % size = 0 then (group 0 e).foldl (· + ·) 0 % 2 ^ w else 0) ∧
      Yields (.vseg t p d x n) s (s.cur.setV d v)) ∧
    (∀ f, t.float? = some f →
      let sum (e : Nat) := treeSum f s.cur.plainMode (fun j => input (f.signBit true) (e + j)) (n.toNat + 1) 0
      let firsts := (List.range t.count).filter fun e => e % size == 0
      ∃ v : VWord,
        (∀ e, e < t.count → elemOf w v e = if e % size = 0 then (sum e).bits % 2 ^ w else 0) ∧
        Completes (.vseg t p d x n) s ((s.setCur ((s.cur.setV d v).raise (orFlags (firsts.map sum)))).countSkip
          (firsts.any fun e => skipsCheck f s.cur.plainMode.daz (group (f.signBit true) e) (sum e))))

/-- R81, R185, R186: VCVT converts the active elements; elements beyond the source are zero, inactive ones keep their bits. R71, R78:
a stochastic rounding finds the seed that 16 steps of the generator for each earlier element that is rounded so have left, and takes
16 steps itself; VSRB rounds so whatever RM is. Which elements are rounded so is DEDUCED in log 22. -/
def Obligations.VectorConversions : Prop :=
  ∀ (s : State) (src dst : EType) (p : PReg) (d x : VReg), Ready .all false s →
    let conv (i : Instr) (src dst : EType) (sto : Bool) : Prop :=
      let w := dst.width
      let n := min src.count dst.count
      let raw (e : Nat) := elemOf src.width (s.cur.getV x) e
      let on := (List.range n).filter (elemOn (s.cur.getP p) w)
      let takes (e : Nat) := (sto || s.cur.stochastic) && convertTakes src dst (s.cur.amode.getLsbD 3) (raw e)
      let seed (e : Nat) := lfsrSteps (16 * (on.filter fun f => decide (f < e) && takes f).length) s.cur.srseed
      let mode (e : Nat) := arithMode s.cur.amode (seed e)
      let result (e : Nat) := convertElem src dst { mode e with rm := if sto then .sr ((seed e).toNat % 65536) else (mode e).rm } (raw e)
      ∃ v : VWord,
        (∀ e, e < dst.count → n ≤ e → elemOf w v e = 0) ∧
        (∀ e, e < n → elemOf w v e = if elemOn (s.cur.getP p) w e then (result e).bits % 2 ^ w else elemOf w (s.cur.getV d) e) ∧
        Yields i s { (s.cur.setV d v).raise (orFlags (on.map result)) with
          srseed := lfsrSteps (16 * (on.filter takes).length) s.cur.srseed }
    conv (.vcvt src dst p d x) src dst false ∧ conv (.vsrb p d x) .f32 .bf16 true

/-- R68, R187, R188: packing and unpacking of the block formats: the element nibbles from byte 0 and one scale for each block from
byte 32. The scale of a DX4 block is 0 when its finite elements are all zeros, and else the smallest E3M5 value whose sixfold reaches
them all, or 0xFF; each element is the rounded quotient by it. An MXFP4 block with a NaN or an infinity has the scale 0xFF and zeros
and sets NV, one of zeros the scale 0x7F, and any other the exponent of its greatest magnitude less 2. Unpacking multiplies each nibble
by its block's scale and rounds once; that it sets the flags of that rounding is log 26. -/
def Obligations.BlockFormats : Prop :=
  ∀ (s : State) (t : EType) (f : FFmt) (d x : VReg), Ready .all false s → t.float? = some f → t = .f32 ∨ t = .bf16 →
    let m := s.cur.plainMode
    let vs := (List.range t.count).map fun e => f.input m.daz (elemOf t.width (s.cur.getV x) e)
    let zero (l : List FVal) : Prop := ∀ y, FVal.fin y ∈ l → y.isZero = true
    let dx4 (l : List FVal) (b : Block) : Prop :=
      let six (c : Nat) := (Ex.ofNat 6).mul (e3m5 c)
      let elem (v : FVal) : FRes := match v with
        | .nan _ _ _ => ⟨0, fNV⟩
        | .inf neg => ⟨if neg then 15 else 7, fNV⟩
        | .fin y => if b.scale = 0 then ⟨if y.neg then 8 else 0, 0⟩ else FFmt.e2m1.roundFin (y.div (e3m5 b.scale)) m.rm false
      (zero l → b.scale = 0) ∧
      (¬zero l → b.scale < 256 ∧ (∀ c, c < b.scale → ∃ y, FVal.fin y ∈ l ∧ (six c).absLt y = true) ∧
        (b.scale = 255 ∨ ∀ y, FVal.fin y ∈ l → (six b.scale).absLt y = false)) ∧
      b.nibbles = (l.map elem).map (·.bits) ∧ b.flags = orFlags (l.map elem)
    let mx (l : List FVal) (b : Block) : Prop :=
      ((∃ v ∈ l, ∀ y, v ≠ .fin y) → b.scale = 255 ∧ b.nibbles = l.map (fun _ => 0) ∧ b.flags = fNV) ∧
      ((∀ v ∈ l, ∃ y, v = .fin y) →
        (zero l → b.scale = 127 ∧ b.flags = 0 ∧
          ∀ (j : Nat) (y : Ex), l[j]? = some (.fin y) → b.nibbles[j]? = some (if y.neg then 8 else 0)) ∧
        (¬zero l → ∃ g : Int, (∃ y, FVal.fin y ∈ l ∧ y.absLt ⟨false, 1, 1, g⟩ = false) ∧
          (∀ y, FVal.fin y ∈ l → y.absLt ⟨false, 1, 1, g + 1⟩ = true) ∧
          (b.scale : Int) = max 0 (min 254 (g - 2 + 127)) ∧
          let elem (v : FVal) : FRes := match v with
            | .fin y => FFmt.e2m1.roundFin { y with exp := y.exp - ((b.scale : Int) - 127) } m.rm false
            | _ => ⟨0, 0⟩
          b.nibbles = (l.map elem).map (·.bits) ∧ b.flags = orFlags (l.map elem)))
    let packs (i : Instr) (size : Nat) (rule : List FVal → Block → Prop) : Prop :=
      ∃ (block : Nat → Block) (v : VWord),
        (∀ k, k < t.count / size → rule ((vs.drop (size * k)).take size) (block k)) ∧
        (∀ e, e < t.count → elemOf 4 v e = ((block (e / size)).nibbles.getD (e % size) 0) % 16) ∧
        (∀ k, k < t.count / size → elemOf 8 v (32 + k) = (block k).scale % 256) ∧
        (∀ k, t.count / 2 ≤ k → k < 32 → elemOf 8 v k = 0) ∧
        (∀ k, 32 + t.count / size ≤ k → k < 128 → elemOf 8 v k = 0) ∧
        Yields i s ((s.cur.setV d v).raise (((List.range (t.count / size)).map block).foldl (fun fl b => fl ||| b.flags) 0))
    let unpacks (i : Instr) (size : Nat) (scale : Nat → Option Ex) : Prop :=
      let r (e : Nat) : FRes := match scale (elemOf 8 (s.cur.getV x) (32 + e / size)) with
        | none => ⟨f.canonNaN, 0⟩
        | some k => f.convertTo m (.fin ((e2m1 (elemOf 4 (s.cur.getV x) e)).mul k))
      ∃ v : VWord,
        (∀ e, e < t.count → elemOf t.width v e = (r e).bits % 2 ^ t.width) ∧
        Yields i s ((s.cur.setV d v).raise (orFlags ((List.range t.count).map r)))
    packs (.vpk4 t d x) 8 dx4 ∧ packs (.vpkm t d x) 32 mx ∧
    unpacks (.vup4 t d x) 8 (fun b => some (e3m5 b)) ∧ unpacks (.vupm t d x) 32 e8m0

/-- R191: the operations on predicates; a write of p0 is discarded. -/
def Obligations.PredicateOperations : Prop :=
  ∀ (s : State) (d x : PReg) (e g : GReg), Ready .all false s →
    let a := s.cur.getP d
    let b := s.cur.getP x
    Yields (.pand d x) s (s.cur.setP d (a &&& b)) ∧ Yields (.por d x) s (s.cur.setP d (a ||| b)) ∧
    Yields (.pxor d x) s (s.cur.setP d (a ^^^ b)) ∧ Yields (.pnot d x) s (s.cur.setP d (b ^^^ 0xFFFFFFFF)) ∧
    Yields (.pmov d x) s (s.cur.setP d b) ∧
    Yields (.pcnt e x) s (s.cur.setG e (BitVec.ofNat 32 ((List.range 32).filter fun j => b.getLsbD j).length)) ∧
    (∃ k, k ≤ 32 ∧ (∀ j, j < k → b.getLsbD j = false) ∧ (k < 32 → b.getLsbD k = true) ∧
      Yields (.pfst e x) s (s.cur.setG e (BitVec.ofNat 32 k))) ∧
    (∃ w : Word, (∀ j, j < 32 → w.getLsbD j = decide (j < (s.cur.getG g).toNat)) ∧ Yields (.plt d g) s (s.cur.setP d w))

/-- R192 to R195: the vector loads from bytes of the tile's own: contiguous ones by lane (VLDH gives zero above lane 15), one element
to all, strided and gather ones by element, and the lane-private form; inactive lanes keep their bits and are not read, but that a
contiguous form reads the whole 8-byte words of its active lanes, so that bad data in the inactive half of one is met, is DEDUCED in
log 27. R194: with
no active lane nothing is read and nothing raised; a contiguous form or VLDL that fails its check traps with its address and DETAIL
0; an element form traps at its lowest failing element, bad data included (R373), with that element's address, its number in
DETAIL, and v[d] as it was. R193: elements after element 0 are misaligned under a stride that is no multiple of their size. -/
def Obligations.VectorLoads : Prop :=
  ∀ (s : State) (t : EType) (p : PReg) (d : VReg) (x : AReg) (imm : BitVec 64), Ready .all false s →
    let w := t.width
    let n := w / 8
    let m := s.cur.getP p
    let es := activeElems m w
    let ready (ps : List Piece) := AtOnce s ps ∧ Good s ps
    let strided (e : Nat) := s.cur.getA x + imm * BitVec.ofNat 64 n + BitVec.ofNat 64 e * s.cur.vstride.signExtend 64
    let indexed (e : Nat) := s.cur.getA x + imm * 4 + (lane (s.cur.getV d) e).setWidth 64 * 4
    let skew (e : Nat) : Prop := e ≠ 0 ∧ s.cur.vstride.toNat % n ≠ 0
    let rows (i : Instr) (k : Nat) : Prop :=
      let ea := s.cur.getA x + imm * BitVec.ofNat 64 (16 * k)
      (∀ g, m ≠ 0 → Allowed s .load ea (16 * k) g → ready ((s.readSpans g m k).map (·.2)) → ∃ v : VWord,
        (∀ j, j < 32 → lane v j = if m.getLsbD j then (if j < 4 * k then BitVec.ofNat 32 (s.mem.readNat (g.key + 4 * j) 4) else 0)
          else lane (s.cur.getV d) j) ∧ CompletesAccess i s (s.setCur (s.cur.setV d v))) ∧
      (∀ code, m ≠ 0 → Denied s .load ea (16 * k) code → s.cur.sup = false → TakesTrap i s code 0 ea) ∧
      (∀ (g : Target) (low high : List Piece) (q : Piece), m ≠ 0 → Allowed s .load ea (16 * k) g →
        (s.readSpans g m k).map (·.2) = low ++ q :: high → AtOnce s (low ++ q :: high) → Good s low → s.poisoned q.key q.size = true →
        s.portFails s.focus.rank q.key = false → s.cur.sup = false →
        TakesTrap i s (if q.key < 2 ^ 52 then 0x21 else 0x20) 0 ea) ∧
      (m = 0 → Completes i s s)
    let elems (i : Instr) (addr : Nat → DWord) (skew : Nat → Prop) : Prop :=
      let allowed (g : Nat → Target) (l : List Nat) : Prop := ∀ e ∈ l, Allowed s .load (addr e) n (g e) ∧ ¬skew e
      let pieces (g : Nat → Target) (l : List Nat) := l.map fun e => (g e).piece n
      (∀ g : Nat → Target, es ≠ [] → allowed g es → ready (pieces g es) → ∃ v : VWord,
        (∀ e, e < t.count → elemOf w v e = if elemOn m w e then s.mem.readNat (g e).key n else elemOf w (s.cur.getV d) e) ∧
        CompletesAccess i s (s.setCur (s.cur.setV d v))) ∧
      (∀ (g : Nat → Target) (low high : List Nat) (e : Nat), es = low ++ e :: high → s.cur.sup = false →
        allowed g low → ready (pieces g low) → AtOnce s [] →
        (∀ code, ¬skew e ∨ spaceOf (addr e) = none → Denied s .load (addr e) n code → TakesTrap i s code (BitVec.ofNat 8 e) (addr e)) ∧
        (skew e → (spaceOf (addr e)).isSome = true → TakesTrap i s 0x04 (BitVec.ofNat 8 e) (addr e)) ∧
        (allowed g (e :: high) → AtOnce s (pieces g es) → s.poisoned (g e).key n = true →
          s.portFails s.focus.rank (g e).key = false →
          TakesTrap i s (if (g e).key < 2 ^ 52 then 0x21 else 0x20) (BitVec.ofNat 8 e) (addr e))) ∧
      (es = [] → Completes i s s)
    rows (.vld p d x imm) 8 ∧ rows (.vldh p d x imm) 4 ∧
    (let ea := s.cur.getA x + imm * BitVec.ofNat 64 n
     (∀ g, m ≠ 0 → Allowed s .load ea n g → ready [g.piece n] → ∃ v : VWord,
       (∀ e, e < t.count → elemOf w v e = if elemOn m w e then s.mem.readNat g.key n else elemOf w (s.cur.getV d) e) ∧
       CompletesAccess (.vldb t p d x imm) s (s.setCur (s.cur.setV d v))) ∧
     (∀ code, m ≠ 0 → Denied s .load ea n code → s.cur.sup = false → TakesTrap (.vldb t p d x imm) s code 0 ea) ∧
     (m = 0 → Completes (.vldb t p d x imm) s s)) ∧
    elems (.vlds t p d x imm) strided skew ∧
    (w = 32 → elems (.vgat t p d x imm) indexed fun _ => False) ∧
    (w = 32 → s.focus.ctx = .c →
      let ea := s.cur.getA x + imm * 4
      (∀ off, spaceOf ea = some (.lane off) → off < 1024 → off % 4 = 0 →
        let place (e : Nat) := sramKey s.focus.rank .lane (1024 * e + off)
        es ≠ [] → ready (es.map fun e => ⟨place e, 4, none, none⟩) → ∃ v : VWord,
          (∀ e, e < t.count → elemOf w v e = if elemOn m w e then s.mem.readNat (place e) 4 else elemOf w (s.cur.getV d) e) ∧
          CompletesAccess (.vldl t p d x imm) s (s.setCur (s.cur.setV d v))) ∧
      (es ≠ [] → s.cur.sup = false →
        ((∀ off, spaceOf ea = some (.lane off) → 1024 ≤ off) → TakesTrap (.vldl t p d x imm) s 0x06 0 ea) ∧
        (∀ off, spaceOf ea = some (.lane off) → off < 1024 → off % 4 ≠ 0 → TakesTrap (.vldl t p d x imm) s 0x04 0 ea)) ∧
      (es = [] → Completes (.vldl t p d x imm) s s))

/-- R192 to R195: the vector stores to bytes of the tile's own: the bytes of active lanes or elements are written, every other byte
stays, and no register changes. Where elements of VSTS or VSCT overlap, the statement is of an element that no later one meets. R193,
R194: with no active lane nothing is written and nothing raised; a check that fails traps as a load's does, an element form at its
lowest failing element, and nothing has been written. -/
def Obligations.VectorStores : Prop :=
  ∀ (s : State) (t : EType) (p : PReg) (d : VReg) (x : AReg) (imm : BitVec 64), Ready .all false s →
    let w := t.width
    let n := w / 8
    let m := s.cur.getP p
    let es := activeElems m w
    let ready (ps : List Piece) := AtOnce s ps ∧ Writable s ps
    let strided (e : Nat) := s.cur.getA x + imm * BitVec.ofNat 64 n + BitVec.ofNat 64 e * s.cur.vstride.signExtend 64
    let indexed (e : Nat) := s.cur.getA x + imm * 4 + (lane (s.cur.getV (d + 1)) e).setWidth 64 * 4
    let skew (e : Nat) : Prop := e ≠ 0 ∧ s.cur.vstride.toNat % n ≠ 0
    let rows (i : Instr) (k : Nat) : Prop :=
      let ea := s.cur.getA x + imm * BitVec.ofNat 64 (16 * k)
      (∀ g, m ≠ 0 → Allowed s .store ea (16 * k) g → ready ((List.range k).map fun j => s.pieceAt s.focus.rank g (16 * j) 16) →
        StoresBytes i s fun b =>
          if g.key ≤ b ∧ b < g.key + 16 * k ∧ m.getLsbD ((b - g.key) / 4) = true then
            (s.cur.getV d).extractLsb' (8 * (b - g.key)) 8 else s.mem.get b) ∧
      (∀ code, m ≠ 0 → Denied s .store ea (16 * k) code → s.cur.sup = false → TakesTrap i s code 0 ea) ∧
      (m = 0 → Completes i s s)
    let leaves (i : Instr) (place : Nat → Nat) : Prop :=
      ∃ u : State, u = { s with mem := u.mem, poison := u.poison, marks := u.marks } ∧ CompletesAccess i s u ∧
        (∀ b, (∀ e ∈ es, b < place e ∨ place e + n ≤ b) → u.mem.get b = s.mem.get b) ∧
        (∀ e ∈ es, (∀ f ∈ es, e < f → place f + n ≤ place e ∨ place e + n ≤ place f) →
          u.mem.readNat (place e) n = elemOf w (s.cur.getV d) e)
    let elems (i : Instr) (addr : Nat → DWord) (skew : Nat → Prop) : Prop :=
      let allowed (g : Nat → Target) (l : List Nat) : Prop := ∀ e ∈ l, Allowed s .store (addr e) n (g e) ∧ ¬skew e
      (∀ g : Nat → Target, es ≠ [] → allowed g es → ready (es.map fun e => (g e).piece n) → leaves i fun e => (g e).key) ∧
      (∀ (g : Nat → Target) (low high : List Nat) (e : Nat), es = low ++ e :: high → s.cur.sup = false → allowed g low →
        (∀ code, ¬skew e ∨ spaceOf (addr e) = none → Denied s .store (addr e) n code → TakesTrap i s code (BitVec.ofNat 8 e) (addr e)) ∧
        (skew e → (spaceOf (addr e)).isSome = true → TakesTrap i s 0x04 (BitVec.ofNat 8 e) (addr e))) ∧
      (es = [] → Completes i s s)
    rows (.vst p d x imm) 8 ∧ rows (.vsth p d x imm) 4 ∧
    elems (.vsts t p d x imm) strided skew ∧
    (w = 32 → elems (.vsct t p d x imm) indexed fun _ => False) ∧
    (w = 32 → s.focus.ctx = .c →
      let ea := s.cur.getA x + imm * 4
      (∀ off, spaceOf ea = some (.lane off) → off < 1024 → off % 4 = 0 →
        let place (e : Nat) := sramKey s.focus.rank .lane (1024 * e + off)
        es ≠ [] → ready (es.map fun e => ⟨place e, 4, none, none⟩) → leaves (.vstl t p d x imm) place) ∧
      (es ≠ [] → s.cur.sup = false →
        ((∀ off, spaceOf ea = some (.lane off) → 1024 ≤ off) → TakesTrap (.vstl t p d x imm) s 0x06 0 ea) ∧
        (∀ off, spaceOf ea = some (.lane off) → off < 1024 → off % 4 ≠ 0 → TakesTrap (.vstl t p d x imm) s 0x04 0 ea)) ∧
      (es = [] → Completes (.vstl t p d x imm) s s))

/-! ## Page 2: the matrix unit and the summary unit -/

/-- R214, R216, R217: MSH and MFMT exchange the shape and the format, and refuse an illegal one with 0x11 and the word in TVAL; MWAIT
waits until at most g[x] commands are left; MSTAT gives the status word; MTOV and VTOM move a row of cells once no command is
left, by the active lanes. -/
def Obligations.MatrixRegisters : Prop :=
  ∀ (s : State) (d x : GReg) (p : PReg) (v : VReg), Ready .all false s → s.focus.ctx = .c →
    let w := s.cur.getG x
    let m := s.here.matrix
    let legalShape := w &&& 0xC800C0C0 = 0 ∧ w.toNat % 64 ≤ 32 ∧ w.toNat / 2 ^ 8 % 64 ≤ 32 ∧ w.toNat / 2 ^ 16 % 2 ^ 11 ≤ 1024
    let legalFormat := w &&& 0x0000FC00 = 0 ∧ w.toNat % 8 ≤ 4 ∧ w.toNat / 8 % 8 ≤ 4 ∧ w.toNat / 64 % 4 ≠ 3
    (legalShape → Yields (.msh d x) s { s.cur.setG d s.cur.mshape with mshape := w }) ∧
    (¬legalShape → s.cur.sup = false →
      TakesTrap (.msh d x) s 0x11 (if w &&& 0xC800C0C0 = 0 then 1 else 3) (BitVec.ofNat 64 w.toNat)) ∧
    (legalFormat → Yields (.mfmt d x) s { s.cur.setG d s.cur.fmt with fmt := w }) ∧
    (¬legalFormat → s.cur.sup = false → TakesTrap (.mfmt d x) s 0x11 3 (BitVec.ofNat 64 w.toNat)) ∧
    (m.queue.length ≤ w.toNat → Yields (.mwait x) s (s.cur.meetTime m.pts)) ∧
    (w.toNat < m.queue.length → ∃ t, exec (.mwait x) s = .next t ∧ Waits s t) ∧
    Yields (.mstat d) s (s.cur.setG d (BitVec.ofNat 32 (m.done.toNat * 2 ^ 24 + m.cause.toNat * 2 ^ 16 + m.abort.toNat * 256 +
      (if m.queue = [] then 0 else 16) + m.queue.length % 16))) ∧
    (m.queue = [] → WritesLanes (.mtov p v x) s p v (fun j => s.here.cell (w.toNat % 32) j)) ∧
    (m.queue = [] → ∃ z, Completes (.vtom p v x) s (s.modHere fun t => { t with z := z }) ∧
      ∀ i j, i < 32 → j < 32 → ({ s.here with z := z } : Tile).cell i j =
        if i = w.toNat % 32 ∧ (s.cur.getP p).getLsbD j = true then lane (s.cur.getV v) j else s.here.cell i j) ∧
    (m.queue ≠ [] → ∃ t, exec (.mtov p v x) s = .next t ∧ Waits s t) ∧
    (m.queue ≠ [] → ∃ t, exec (.vtom p v x) s = .next t ∧ Waits s t)

/-- R215: MZERO puts one command in the queue, with a mask of 0 as well; when it executes, every cell of each register zj whose bit
j of g[x] is set becomes 0 and every other cell stays, bits 31 to 4 are ignored, and the command completes. -/
def Obligations.MatrixZero : Prop :=
  (∀ (s : State) (x : GReg), Ready .all false s → s.focus.ctx = .c → Idle s → s.here.matrix.queue.length < 8 →
    ∃ c, c.op = .mzero ∧ c.gang = [] ∧ c.stride = (s.cur.getG x).toNat % 16 ∧
      Completes (.mzero x) s (s.matIssue.enqueue s.focus.rank c)) ∧
  ∀ (s : State) (r : Nat) (c : MatCmd) (l : List MatCmd), (s.tile r).matrix.queue = c :: l → c.op = .mzero → c.gang = [] →
    (s.tile r).clocked = true →
    ∃ t, exec (.matrixCommandComplete r) s = .next t ∧ (t.tile r).matrix.queue = l ∧
      (t.tile r).matrix.done = (s.tile r).matrix.done + 1 ∧ t.mem = s.mem ∧
      ∀ i j, i < 32 → j < 32 → (t.tile r).cell i j =
        if c.stride.testBit (2 * (i / 16) + j / 16) then 0 else (s.tile r).cell i j

/-- R204 to R206, R208 to R210, R218 to R220: a command that passes its checks enters the queue with what it captured, MMAG in the
queue of every member; a configuration defect traps with 0x11, its DETAIL, and FMT and MSHAPE in TVAL, a wrong GANG with DETAIL
0x07; then a wrong stride of MST or MLD with 0x04, DETAIL 3 and the stride; then an operand that fails a check of R204 with that
check's code, the operand's DETAIL and its pointer (that this is the effective pointer, and not a byte address, is DEDUCED in log 24);
a full queue, or earlier accesses not yet performed, make the group wait. A
command that writes a published buffer is numbered, which the model does for R288 (log 18). -/
def Obligations.MatrixIssue : Prop :=
  ∀ (s : State) (z : ZReg) (x y : AReg) (d : GReg) (imm : BitVec 64) (acc bsrc chk : Bool) (ks : MstKind) (kl : MldKind),
    Ready .all false s → s.focus.ctx = .c →
    let c := s.cur
    let f := c.fmt
    let w := c.mshape
    let reads := shapeM w ≠ 0 ∧ shapeN w ≠ 0 ∧ shapeK w ≠ 0
    let aExt := extentOf (aRows f w) ((pitchFor (aRows f w) (fmtAld f)).getD 0)
    let bExt := extentOf (bRows f w) ((pitchFor (bRows f w) (fmtBld f)).getD 0)
    let room (q : Nat) := (s.tile q).matrix.queue.length < 8
    let waits (i : Instr) : Prop := ∃ t, exec i s = .next t ∧ Waits s t
    let still := s.cur.storing = [] ∧ s.cur.posted = []
    let opA := s.matOperand 1 .sram 64 (c.getA x) aExt
    let opB := s.matOperand 2 (if bsrc then .fly else .sram) 64 (c.getA y) bExt
    let captured (e : MatCmd) (a b : MatPlace) : Prop :=
      e.op = .mma ∧ e.fmt = f ∧ e.mshape = w ∧ e.amode = c.amode ∧ e.origin = z ∧ e.acc = acc ∧ e.bsrc = bsrc ∧ e.a = a ∧ e.b = b ∧
      (chk = true → e.chk = true)
    let operands (a b : MatPlace) : Prop := (reads → opA = .ok a ∧ opB = .ok b) ∧ (¬reads → a = .none ∧ b = .none)
    (∀ k, s.cur.sup = false → s.matDefect f w z true false false = some k → TakesTrap (.mma z x y acc bsrc chk) s 0x11 k (w ++ f)) ∧
    (∀ k, s.cur.sup = false → s.matDefect f w z true true false = some k → TakesTrap (.mmag z x y acc bsrc chk) s 0x11 k (w ++ f)) ∧
    (s.cur.sup = false → s.matDefect f w z true false false = none → s.gangOf s.focus.rank c.gang = none →
      TakesTrap (.mmag z x y acc bsrc chk) s 0x11 0x07 (w ++ f)) ∧
    (∀ i, s.cur.sup = false → reads → i = .mma z x y acc bsrc chk ∧ s.matDefect f w z true false false = none ∨
        i = .mmag z x y acc bsrc chk ∧ s.matDefect f w z true true false = none →
      (∀ code detail v, opA = .error (.trap code detail v) → TakesTrap i s code detail v) ∧
      (∀ a code detail v, opA = .ok a → opB = .error (.trap code detail v) → TakesTrap i s code detail v)) ∧
    (∀ (detail : Byte) (accepts : Accepts) (align ext : Nat) (ptr : DWord),
      let at' := s.matOperand detail accepts align ptr ext
      let bad (code : Byte) : Prop := at' = .error (.trap code detail ptr)
      let r := s.focus.rank
      (spaceOf ptr = none → bad 0x05) ∧
      (∀ sp, spaceOf ptr = some sp →
        (ptr.toNat % align ≠ 0 → bad 0x04) ∧
        (ptr.toNat % align = 0 → accepts.takes sp = false → bad 0x06) ∧
        (ptr.toNat % align = 0 → accepts.takes sp = true →
          (∀ o off, sp = .scratch o off → (o ≠ r → bad 0x07) ∧ (o = r → s.here.scratchSize < off + ext → bad 0x06) ∧
            (o = r → off + ext ≤ s.here.scratchSize → at' = .ok (.at (sramKey r .scratch off)))) ∧
          (∀ o, sp = .cluster o → clusterMember o ≠ s.memberOf r ∨ 32768 * s.here.shared.toNat < clusterLocal o + ext → bad 0x06) ∧
          (∀ h off, sp = .buffer h off → s.pitchHere.bind (fun p => p.handles[h]?) = none → bad 0x06) ∧
          (∀ h off hd, sp = .buffer h off → s.pitchHere.bind (fun p => p.handles[h]?) = some hd → hd.buffer.size < off + ext →
            bad 0x06) ∧
          (∀ va p e g, sp = .global va → s.pitchHere = some p → pagesOf va ext = [g] →
            s.walkDue r p.image.root p.image.homes (max va (g * 65536)) = false →
            let found := s.translate r p.image.root p.image.homes (max va (g * 65536))
            (s.walkMeets r p.image.root p.image.homes (max va (g * 65536)) = false →
              (found = .bad → bad 0x21) ∧ (found ≠ .bad → (∀ l, found ≠ .leaf l) → bad 0x09)) ∧
            (found = .leaf e → ∀ h, s.homeOf e.home (e.paOf (g * 65536)) = some h →
              (s.within e.scope h r = false → bad 0x08) ∧
              (s.within e.scope h r = true → e.paOf (g * 65536) / 2 ^ 25 ≠ r →
                at' = .error (.trap 0x0B detail (BitVec.ofNat 64 (max va (g * 65536))))) ∧
              (s.within e.scope h r = true → e.paOf (g * 65536) / 2 ^ 25 = r →
                at' = .ok (.fly va [(g, e.paOf (g * 65536))])))))) ) ∧
    (∀ a b, s.matDefect f w z true false false = none → operands a b → Idle s →
      (room s.focus.rank → ∃ e, captured e a b ∧ e.gang = [] ∧
        Completes (.mma z x y acc bsrc chk) s ({ s.matIssue with reqs := s.reqs + 1 }.enqueue s.focus.rank e)) ∧
      (¬room s.focus.rank → waits (.mma z x y acc bsrc chk))) ∧
    (∀ a b, s.matDefect f w z true false false = none → operands a b → ¬still → waits (.mma z x y acc bsrc chk)) ∧
    (∀ a b ranks, s.matDefect f w z true true false = none → s.gangOf s.focus.rank c.gang = some ranks → operands a b →
      (∃ q ∈ ranks, ¬room q) ∨ ¬still → waits (.mmag z x y acc bsrc chk)) ∧
    (∀ a b ranks, s.matDefect f w z true true false = none → s.gangOf s.focus.rank c.gang = some ranks → ranks.Nodup →
      operands a b → Idle s → (∀ q ∈ ranks, room q) →
      ∃ t, exec (.mmag z x y acc bsrc chk) s = .next t ∧ t.mem = s.mem ∧ t.cur.g = s.cur.g ∧ t.cur.pc = (s.cur.fall s.after).pc ∧
        ∀ q ∈ ranks, ∃ e, captured e (if q = s.focus.rank then a else s.partnerPlace q aExt a) b ∧ e.gang = ranks ∧ e.tag = s.reqs ∧
          (t.tile q).matrix.queue = (s.tile q).matrix.queue ++ [e]) ∧
    (let moves := shapeM w ≠ 0 ∧ shapeN w ≠ 0
     let moved (i : Instr) (op : MatOp) (size : Nat) (bad : Bool) (acc : Accepts) (put : Ctx → Ctx) : Prop :=
       (∀ k, s.cur.sup = false → s.matDefect f w (shapeSO w) false false bad = some k → TakesTrap i s 0x11 k (w ++ f)) ∧
       (s.cur.sup = false → s.matDefect f w (shapeSO w) false false bad = none → moves → c.getG d ≠ 0 →
         (c.getG d).toNat % 16 ≠ 0 ∨ (c.getG d).toNat < shapeN w * size → TakesTrap i s 0x04 0x03 ((c.getG d).setWidth 64)) ∧
       (∀ stride code detail v, s.cur.sup = false → s.matDefect f w (shapeSO w) false false bad = none → moves →
         matStride (shapeN w) size (c.getG d) = some stride →
         s.matOperand 3 acc 16 (c.getA x + imm * 16) ((shapeM w - 1) * stride + shapeN w * size) = .error (.trap code detail v) →
         TakesTrap i s code detail v) ∧
       ∀ place stride, s.matDefect f w (shapeSO w) false false bad = none →
         (moves → matStride (shapeN w) size (c.getG d) = some stride ∧
           s.matOperand 3 acc 16 (c.getA x + imm * 16) ((shapeM w - 1) * stride + shapeN w * size) = .ok place) →
         (¬moves → place = .none) →
         (¬room s.focus.rank ∨ ¬still → waits i) ∧
         (Idle s → room s.focus.rank →
           ∃ e, e.op = op ∧ e.fmt = f ∧ e.mshape = w ∧ e.amode = c.amode ∧ e.seed = c.srseed ∧ e.a = place ∧ (moves → e.stride = stride) ∧
             Completes i s (((s.matIssue.enqueue s.focus.rank e).numbered place.isBuffer).modCur put))
     moved (.mst ks d x imm) (.mst ks) (mstSize ks) (mstInt ks != fmtAct f) .scratchOrBuffer (fun c =>
       if ks = .bf16sr then { c with srseed := lfsrSteps (16 * (shapeM w * shapeN w)) c.srseed } else c) ∧
     moved (.mld kl d x imm) (.mld kl) (mldSize kl) (kl == .bf16 && fmtAct f) .sramOrFly fun c => c)

/-- R206, R208, R85: when a multiply of the head of a queue executes on good data, each covered cell becomes the old one, or 0 without
ACC, plus the sum of products along K: modulo 2^32 for integers, by chunks for floats; the other cells stay, the command
completes, and memory is not written. R209: every byte of the operands that enters a chunk is a value that the unit has read of it
since the command's start, or what it holds now (log 19). -/
def Obligations.MatrixProducts : Prop :=
  ∀ (s : State) (r : Nat) (c : MatCmd) (l : List MatCmd), (s.tile r).matrix.queue = c :: l → c.op = .mma → c.gang = [] →
    c.lost = none → c.bdata = none → (∀ k, c.a ≠ .bad k) → s.heldKeys c.bKeys = false → s.badKey (c.aKeys ++ c.bKeys) = none →
    (s.tile r).clocked = true →
    (∀ row ∈ c.aKeys ++ c.bKeys, ∀ k ∈ row, k < flyEnd → (s.tile (k / 2 ^ 25)).fly.sound = true) →
    originRow c.origin + shapeM c.mshape ≤ 32 → originCol c.origin + shapeN c.mshape ≤ 32 →
    let old (i j : Nat) := if c.acc then (s.tile r).cell i j else 0
    let read (rows : Rows) (keys : List (List Nat)) : Prop := ∀ (m n j i k key : Nat) (row : List Nat), keys[i]? = some row → row[k]? = some key →
      ∃ v ∈ s.readings c.reads key, ((rows m n j).getD i [])[k]? = some v
    ∃ t a b, exec (.matrixCommandComplete r) s = .next t ∧ read a c.aKeys ∧ read b c.bKeys ∧ (t.tile r).matrix.queue = l ∧
      (t.tile r).matrix.done = (s.tile r).matrix.done + 1 ∧ t.mem = s.mem ∧
      (∀ i j, i < 32 → j < 32 →
        ¬(originRow c.origin ≤ i ∧ i < originRow c.origin + shapeM c.mshape ∧ originCol c.origin ≤ j ∧
          j < originCol c.origin + shapeN c.mshape) → (t.tile r).cell i j = (s.tile r).cell i j) ∧
      (∀ m n, m < shapeM c.mshape → n < shapeN c.mshape →
        let i := originRow c.origin + m
        let j := originCol c.origin + n
        (fmtAct c.fmt = true → (t.tile r).cell i j = old i j + BitVec.ofInt 32 (((List.range (shapeK c.mshape)).map fun k =>
          (((a m n (k / chunkOf c.fmt)).getD m []).getD k 0).toInt * (((b m n (k / chunkOf c.fmt)).getD k []).getD n 0).toInt).sum)) ∧
        (fmtAct c.fmt = false → (t.tile r).cell i j = (cellSums c.fmt c.mshape a b m n).foldl accumulate (old i j)))

/-- R224 to R227, R242 to R245: setting up, clearing, copying, seeding, merging and absorbing. SKMRG writes the summary that R232 and the
kind's rule of merging give (R229 to R231, R234, R237, R238: `Merged`, field by field), SKADD the one that R227 and the kind's rule of
absorbing give (R229 to R231, R233, R236, R238: `Absorbed`). A register without a valid kind traps with
0x10, DETAIL 0x01, and the first words in TVAL. The FP32 value of an integer element is free, and what a merge does with a key that one
image lists twice is log 28. The registers hold no word that is bad data; one whose first word is, traps with
0x20 where the register is read, and its value 0 is DEDUCED in log 37. -/
def Obligations.SummaryUpdates : Prop :=
  (∀ (s : State) (p : PReg) (t : EType) (d x : HReg) (v : VReg), Ready .all false s → s.focus.ctx = .c → s.cur.sup = false →
    512 * d.toNat ∈ s.here.hbad → ∀ i ∈ [Instr.skclr d, .skcpy x d, .skmrg d x, .skadd t p d v], TakesTrap i s 0x20 0 0) ∧
  ∀ (s : State) (t : EType) (p : PReg) (d x : HReg) (g : GReg) (a : AReg) (v : VReg), Ready .all false s → s.focus.ctx = .c →
    s.here.hbad = [] →
    let A := s.here.summ d
    let B := s.here.summ x
    let k := (s.cur.getG g).toNat
    let heads := (s.summHead x ++ s.summHead d : BitVec 64)
    let head : DWord := (s.summHead d).setWidth 64
    let es := activeElems (s.cur.getP p) t.width
    let trap (i : Instr) (detail : Byte) (value : DWord) : Prop := s.cur.sup = false → TakesTrap i s 0x10 detail value
    (1 ≤ k → k ≤ 6 → (k = 1 ∨ k = 3 → t.float?.isSome) → Completes (.skinit t d g) s
      (s.setSumm d (emptySumm k (familyOf t) (seedStored (BitVec.ofNat 64 (imgNat (s.here.summBytes d) 8 8)))))) ∧
    (k = 0 ∨ 6 < k → trap (.skinit t d g) 0x04 head) ∧
    (k = 1 ∨ k = 3 → t.float? = none → trap (.skinit t d g) 0x03 head) ∧
    (∃ h : Mem, Completes (.skseed d a) s (s.modHere fun u => { u with h := h }) ∧ ∀ n, h.get n =
      if 4096 * d.toNat + 8 ≤ n ∧ n < 4096 * d.toNat + 16 then
        (seedStored (s.cur.getA a)).extractLsb' (8 * (n - (4096 * d.toNat + 8))) 8 else s.here.h.get n) ∧
    (1 ≤ A.kind → A.kind ≤ 6 → Completes (.skclr d) s (s.setSumm d (emptySumm A.kind A.ktype A.seed))) ∧
    (A.kind = 0 ∨ 6 < A.kind → trap (.skclr d) 0x01 head ∧ trap (.skmrg d x) 0x01 heads ∧ trap (.skadd t p d v) 0x01 head) ∧
    (∃ h : Mem, Completes (.skcpy d x) s (s.modHere fun u => { u with h := h }) ∧ ∀ n, h.get n =
      if 4096 * d.toNat ≤ n ∧ n < 4096 * d.toNat + 4096 then s.here.h.get (n - 4096 * d.toNat + 4096 * x.toNat) else s.here.h.get n) ∧
    (1 ≤ A.kind → A.kind ≤ 6 → B.kind = 0 ∨ 6 < B.kind → trap (.skmrg d x) 0x01 heads) ∧
    (1 ≤ A.kind → A.kind ≤ 6 → 1 ≤ B.kind → B.kind ≤ 6 →
      (A.kind = B.kind → A.ktype = B.ktype → (A.kind = 6 → A.seed = B.seed) →
        ∃ m, Merged A B m ∧ Completes (.skmrg d x) s (s.setSumm d m)) ∧
      (A.kind ≠ B.kind ∨ A.ktype ≠ B.ktype → trap (.skmrg d x) 0x02 heads) ∧
      (A.kind = 6 → B.kind = 6 → A.ktype = B.ktype → A.seed ≠ B.seed → trap (.skmrg d x) 0x05 heads)) ∧
    (1 ≤ A.kind → A.kind ≤ 6 →
      (familyTakes A.ktype t = true → es ≠ [] →
        ∃ m, Absorbed A t (s.cur.getV v) es m ∧ Completes (.skadd t p d v) s (s.setSumm d m)) ∧
      (familyTakes A.ktype t = true → es = [] → Completes (.skadd t p d v) s s) ∧
      (familyTakes A.ktype t = false → trap (.skadd t p d v) 0x03 head))

/-- R235, R239, R242, R246, R247: each query writes its value to g[d] when the register holds the kind that it asks, and traps with 0x10,
DETAIL 0x01, otherwise; a type of another family traps with DETAIL 0x03, but that SKDC, SKMEAN, SKVAR, SKSUM and SKLSE answer whatever
the type's family is DEDUCED in log 28, as an infinite result in E4M3 is there. The register holds no word that is bad data; with one,
the query traps with 0x20, and its value 0 is DEDUCED in log 37. -/
def Obligations.SummaryQueries : Prop :=
  (∀ (s : State) (d : GReg) (x : HReg), Ready .all false s → s.focus.ctx = .c → s.cur.sup = false → 512 * x.toNat ∈ s.here.hbad →
    TakesTrap (.skcnt d x) s 0x20 0 0 ∧ TakesTrap (.sknan d x) s 0x20 0 0) ∧
  ∀ (s : State) (t : EType) (d y : GReg) (x : HReg), Ready .all false s → s.focus.ctx = .c → s.here.hbad = [] →
    let A := s.here.summ x
    let head : DWord := (s.summHead x).setWidth 64
    let q := s.cur.getG y
    let n := fnat A.count.toNat
    let valid := 1 ≤ A.kind ∧ A.kind ≤ 6
    let fst : Word := match A.body with | .moment m _ => m | .lse2 m _ => m | _ => 0
    let snd : Word := match A.body with | .moment _ v => v | .lse2 _ v => v | _ => 0
    let of (w : Word) : Word := if A.count = 0 then queryEmpty t else queryFp t w
    let asks (i : Instr) (kinds : Prop) (value : Word) : Prop :=
      (kinds → Yields i s (s.cur.setG d value)) ∧ (¬kinds → s.cur.sup = false → TakesTrap i s 0x10 0x01 head)
    let typed (i : Instr) (kinds : Prop) (value : Word) : Prop :=
      (familyTakes A.ktype t = true → asks i kinds value) ∧
      (kinds → familyTakes A.ktype t = false → s.cur.sup = false → TakesTrap i s 0x10 0x03 head)
    typed (.skq t d x y) (A.kind = 4) (match A.quantile q with | some k => queryKey t k | none => queryEmpty t) ∧
    typed (.skr t d x y) (A.kind = 4) (A.rankOf ((widen t (q.toNat % 2 ^ t.width)).map (·.1))) ∧
    typed (.skhh t d x y) (A.kind = 5) (match A.entry q.toNat with | some e => queryKey t e.1 | none => queryEmpty t) ∧
    asks (.skhc d x y) (A.kind = 5) (match A.entry q.toNat with | some e => BitVec.ofNat 32 e.2.1 | none => 0) ∧
    asks (.skcnt d x) valid (BitVec.ofNat 32 (A.count.toNat % 2 ^ 32)) ∧
    asks (.skcnh d x) valid (BitVec.ofNat 32 (A.count.toNat / 2 ^ 32)) ∧
    asks (.sknan d x) valid (BitVec.ofNat 32 (A.nan.toNat % 2 ^ 32)) ∧
    asks (.skdc t d x) (A.kind = 6) (queryFp t (match A.body with | .distinct rs => distinctEstimate rs | _ => 0)) ∧
    typed (.skmin t d x) valid (if A.count = 0 then queryEmpty t else queryKey t A.minKey) ∧
    typed (.skmax t d x) valid (if A.count = 0 then queryEmpty t else queryKey t A.maxKey) ∧
    asks (.skmean t d x) (A.kind = 1) (of fst) ∧ asks (.skvar t d x) (A.kind = 1) (of (fdiv snd n)) ∧
    asks (.sksum t d x) (A.kind = 1) (of (fmul fst n)) ∧
    asks (.sklse t d x) (A.kind = 3) (queryFp t (if A.count = 0 then 0xFF800000 else fadd fst (flog2 snd)))

/-- R226, R242, R248: SKST writes the image of the register, SKLD reads a valid one into it, which the register then holds, SKLDH merges
one (`Merged`: R229 to R232, R234, R237, R238). Each checks in its
order: SKST and SKLDH the register's kind (0x10, DETAIL 0x01); the pointer (0x05), its alignment to the image's size (0x04), a load
of 4,096 bytes to 4,096 once the first 128 bytes show the kind, and the window and page of R104; then an image that breaks R226
(DETAIL 0x06); then, of SKLDH, KIND and KTYPE (DETAIL 0x02) and SEED (DETAIL 0x05). That the first of these traps shows 0 for the image,
which is not read yet, is DEDUCED in log 28. The registers hold no word that is bad data
(log 37 has those). -/
def Obligations.SummaryImages : Prop :=
  ∀ (s : State) (d : HReg) (x : AReg) (imm : BitVec 64) (ps : List Piece), Ready .all false s → s.focus.ctx = .c → AtOnce s ps →
    s.here.hbad = [] →
    let ea := s.cur.getA x + imm * 128
    let A := s.here.summ d
    let valid := 1 ≤ A.kind ∧ A.kind ≤ 6
    let img := ps.flatMap fun p => bytesOfNat 16 (s.mem.readNat p.key p.size)
    let n := imageSize (imgNat img 0 1)
    let head : DWord := (s.summHead d).setWidth 64
    let values (w : Word) : DWord := (w ++ s.summHead d : BitVec 64)
    let user := s.cur.sup = false
    let load (i : Instr) : Prop := i = .skld d x imm ∨ i = .skldh d x imm ∧ valid
    (valid → (spaceOf ea).isSome = true → ea.toNat % imageSize A.kind = 0 → Writable s ps →
      s.imagePieces .store ea 0 (imageSize A.kind) = .ok ps →
      ∃ u : State, u = { s with mem := u.mem, poison := u.poison, marks := u.marks } ∧ CompletesAccess (.skst d x imm) s u ∧
        (∀ b, (∀ p ∈ ps, b < p.key ∨ p.key + p.size ≤ b) → u.mem.get b = s.mem.get b) ∧
        ∀ j p, ps[j]? = some p → (∀ k q, j < k → ps[k]? = some q → q.key + 16 ≤ p.key ∨ p.key + 16 ≤ q.key) →
          u.mem.readNat p.key 16 = imgNat (s.here.summImage d) (16 * j) 16) ∧
    (user →
      (¬valid → TakesTrap (.skst d x imm) s 0x10 0x01 head ∧ TakesTrap (.skldh d x imm) s 0x10 0x01 head) ∧
      (valid → spaceOf ea = none → TakesTrap (.skst d x imm) s 0x05 0 ea) ∧
      (valid → spaceOf ea ≠ none → ea.toNat % imageSize A.kind ≠ 0 → TakesTrap (.skst d x imm) s 0x04 0 ea) ∧
      (∀ code, valid → spaceOf ea ≠ none → ea.toNat % imageSize A.kind = 0 → Denied s .store ea 16 code →
        TakesTrap (.skst d x imm) s code 0 ea)) ∧
    ((spaceOf ea).isSome = true → ea.toNat % n = 0 → Good s ps → s.imagePieces .load ea 0 n = .ok ps →
      let B := readImage img
      (imageOk img = true → CompletesAccess (.skld d x imm) s (s.setSumm d B) ∧ (s.setSumm d B).here.summ d = B) ∧
      (∀ i, user → load i → imageOk img = false → TakesTrap i s 0x10 0x06 (values (headWordOf img))) ∧
      (valid → imageOk img = true →
        (A.kind = B.kind → A.ktype = B.ktype → (A.kind = 6 → A.seed = B.seed) →
          ∃ m, Merged A B m ∧ CompletesAccess (.skldh d x imm) s (s.setSumm d m)) ∧
        (user → A.kind ≠ B.kind ∨ A.ktype ≠ B.ktype → TakesTrap (.skldh d x imm) s 0x10 0x02 (values (headWordOf img))) ∧
        (user → A.kind = B.kind → A.ktype = B.ktype → A.kind = 6 → A.seed ≠ B.seed →
          TakesTrap (.skldh d x imm) s 0x10 0x05 (values (headWordOf img))))) ∧
    (∀ i, user → load i →
      (spaceOf ea = none → TakesTrap i s 0x05 0 ea) ∧ (spaceOf ea ≠ none → ea.toNat % 128 ≠ 0 → TakesTrap i s 0x04 0 ea) ∧
      (∀ code, spaceOf ea ≠ none → ea.toNat % 128 = 0 → Denied s .load ea 16 code → TakesTrap i s code 0 ea) ∧
      (spaceOf ea ≠ none → ea.toNat % 128 = 0 → ea.toNat % 4096 ≠ 0 → s.imagePieces .load ea 0 128 = .ok ps → Good s ps →
        n = 4096 → TakesTrap i s 0x04 0 ea))

/-! ## Page 3: channels, semaphores, barriers, time -/

/-- R157 to R162: the reads of a queue's head word and of queue and port counts; the removals, which give TAGIN the word's marker and
tag, but at supervisor level (R153, DEDUCED in log 24); the sends, which append to the port's staging slots; and the waits: for the words
of a declared queue, 16 of them for VRECV, for free slots, for the context's stores. A queue that is not declared traps with 0x0C, a port
without a channel refuses. On the message thread every read of a queue traps with 0x0C, the counts read 0, and every send is refused. The
removal of a word that a stateless pitch keeps for replay is noted for R382 (log 17). -/
def Obligations.ChannelOperations : Prop :=
  (∀ (s : State) (d : GReg) (a : AReg) (v : VReg) (q : QReg) (o : OReg) (tag : Byte), Ready .all false s → s.focus.ctx = .m →
    Yields (.qcnt d q) s (s.cur.setG d 0) ∧ Yields (.qfree d o) s (s.cur.setG d 0) ∧
    (s.cur.sup = false →
      (∀ i ∈ [Instr.recv d q, .peek d q, .qtag d q, .qmark d q, .drop q, .recva a q, .vrecv v q],
        TakesTrap i s 0x0C 0 (BitVec.ofNat 64 q.toNat)) ∧
      ∀ i ∈ [Instr.send o d tag, .senda o a, .sendm o d, .vsend o v], Refuses i s)) ∧
  ∀ (s : State) (k : CoreId) (d : GReg) (a : AReg) (v : VReg) (q : QReg) (o : OReg) (tag : Byte), Ready .all false s →
    s.focus.ctx = k.ctx →
    let r := s.focus.rank
    let ws := ((s.here.core k).queues[q.toNat]'q.isLt).words
    let port := (s.here.core k).ports[o.toNat]'o.isLt
    let peeks (i : Instr) (c : Token → Ctx) : Prop := ∀ w l, ws = w :: l → Yields i s (c w)
    let takes (i : Instr) (n : Nat) (c : List Token → Ctx) : Prop := n ≤ ws.length → ∀ last, ws[n - 1]? = some last →
      let u := (s.modHere fun t => t.setCore k { t.core k with queues := vecMod (t.core k).queues q.toNat fun u =>
        { u with words := ws.drop n } }).setCur { (ws.take n).foldl (fun c w => c.meet w.pts) (c (ws.take n)) with
          tagin := if s.cur.sup then s.cur.tagin else BitVec.ofNat 32 (last.mark.toNat * 256 + last.tag.toNat) }
      Completes i s (((ws.take n).foldl State.noteRemoval u).settle r k) ∧
      ((∀ w ∈ ws.take n, w.serial = 0) → Completes i s (u.settle r k))
    let sends (i : Instr) (new : List Token) : Prop :=
      (port.dests ≠ [] → new.length ≤ port.stage - port.words.length → s.cur.storing = [] →
        Completes i s ((s.modHere fun t => { t.setCore k { t.core k with ports := vecMod (t.core k).ports o.toNat fun p =>
          { p with words := p.words ++ new } } with sent := t.sent + BitVec.ofNat 48 (new.length * port.dests.length) }).settle r k)) ∧
      (port.dests ≠ [] → port.stage - port.words.length < new.length ∨ s.cur.storing ≠ [] → ∃ t, exec i s = .next t ∧ Waits s t) ∧
      (port.dests = [] → s.cur.sup = false → Refuses i s)
    let word (p : DWord) (tag : Byte) (mark : BitVec 2) : Token := { payload := p, tag := tag, mark := mark, pts := s.cur.pts }
    let out := s.cur.tagout.setWidth 8
    peeks (.peek d q) (fun w => s.cur.setG d (w.payload.setWidth 32)) ∧
    peeks (.qtag d q) (fun w => s.cur.setG d (w.tag.setWidth 32)) ∧ peeks (.qmark d q) (fun w => s.cur.setG d (w.mark.setWidth 32)) ∧
    Yields (.qcnt d q) s (s.cur.setG d (BitVec.ofNat 32 ws.length)) ∧
    Yields (.qfree d o) s (s.cur.setG d (BitVec.ofNat 32 (if port.dests = [] then 0 else port.stage - port.words.length))) ∧
    takes (.recv d q) 1 (fun l => s.cur.setG d ((l.head?.map fun w => w.payload.setWidth 32).getD 0)) ∧
    takes (.drop q) 1 (fun _ => s.cur) ∧
    takes (.recva a q) 1 (fun l => s.cur.setA a ((l.head?.map (·.payload)).getD 0)) ∧
    (∃ x : List Token → VWord, (∀ l j, j < 32 → lane (x l) j = ((l[j / 2]?).map fun w => w.payload.extractLsb' (32 * (j % 2)) 32).getD 0) ∧
      takes (.vrecv v q) 16 fun l => s.cur.setV v (x l)) ∧
    (ws = [] → s.declares k q = true → ∀ i ∈ [Instr.recv d q, .peek d q, .qtag d q, .qmark d q, .drop q, .recva a q, .vrecv v q],
      ∃ t, exec i s = .next t ∧ Waits s t) ∧
    (ws = [] → s.declares k q = false → s.cur.sup = false →
      ∀ i ∈ [Instr.recv d q, .peek d q, .qtag d q, .qmark d q, .drop q, .recva a q, .vrecv v q],
        TakesTrap i s 0x0C 0 (BitVec.ofNat 64 q.toNat)) ∧
    (ws.length < 16 →
      (s.declares k q = true → ∃ t, exec (.vrecv v q) s = .next t ∧ Waits s t) ∧
      (s.declares k q = false → s.cur.sup = false → TakesTrap (.vrecv v q) s 0x0C 0 (BitVec.ofNat 64 q.toNat))) ∧
    sends (.send o d tag) [word ((s.cur.getG d).setWidth 64) tag 0] ∧ sends (.senda o a) [word (s.cur.getA a) out 0] ∧
    sends (.sendm o d) [word ((s.cur.getG d).setWidth 64) out ((s.cur.tagout >>> 8).setWidth 2)] ∧
    sends (.vsend o v) ((List.range 16).map fun j => word ((s.cur.getV v).extractLsb' (64 * j) 64) out 0)

/-- R118, R163, R164, R171, R172: SEMW takes 1 to 8 once the counter holds them and waits before; SEMS adds them once the context's
stores are performed, and traps with 0x0E where the counter would pass 0xFFFF; SEMT takes one if there is one; TICK and CYC
are read; WAITT and WAITC wait for their value and then go on. -/
def Obligations.SemaphoresAndTime : Prop :=
  ∀ (s : State) (n : BitVec 3) (m : SemReg) (d : GReg) (a : AReg), Ready .all false s →
    let sem := s.here.sem m
    let k := n.toNat + 1
    let with' (c : Nat) (pts : Time) := s.modHere fun t => t.modSem m fun _ => { count := BitVec.ofNat 16 c, pts := pts }
    (k ≤ sem.count.toNat → Completes (.semw n m) s ((with' (sem.count.toNat - k) sem.pts).modCur (·.meet sem.pts))) ∧
    (sem.count.toNat < k → ∃ t, exec (.semw n m) s = .next t ∧ Waits s t) ∧
    (s.cur.storing = [] →
      (sem.count.toNat + k ≤ 0xFFFF → Completes (.sems n m) s (with' (sem.count.toNat + k) (Time.join sem.pts s.cur.pts))) ∧
      (0xFFFF < sem.count.toNat + k → s.cur.sup = false → TakesTrap (.sems n m) s 0x0E 0 (BitVec.ofNat 64 m.toNat))) ∧
    (s.cur.storing ≠ [] → ∃ t, exec (.sems n m) s = .next t ∧ Waits s t) ∧
    (sem.count = 0 → Yields (.semt d m) s (s.cur.setG d 0)) ∧
    (sem.count ≠ 0 → Completes (.semt d m) s ((with' (sem.count.toNat - 1) sem.pts).modCur fun c => (c.meet sem.pts).setG d 1)) ∧
    Yields (.tick a) s (s.cur.setA a s.tick) ∧ Yields (.cyc a) s (s.cur.setA a s.here.cyc) ∧
    (s.cur.getA a ≤ s.tick → Completes (.waitt a) s s) ∧ (s.tick < s.cur.getA a → ∃ t, exec (.waitt a) s = .next t ∧ Waits s t) ∧
    (s.cur.getA a ≤ s.here.cyc → Completes (.waitc a) s s) ∧
    (s.here.cyc < s.cur.getA a → ∃ t, exec (.waitc a) s = .next t ∧ Waits s t)

/-- R119, R166 to R170: BARS configures a barrier with its scope and count and clears every context's SEEN bit of it; BARA arrives, the
last arrival completing the generation with the fault mask; BARW goes on at a completion that the context has not seen, and
waits before; BARQ gives the status. BARS is refused for a count of 0 or above 32, a bit above the count, and the scopes lane and
core; BARA for a reserved bit, a TRANK of a local arrival, a target rank that the module does not have, and of a local arrival an
unconfigured barrier or a MEMBER that is not below the count; an arrival waits for the context's stores. -/
def Obligations.Barriers : Prop :=
  ∀ (s : State) (sc : Scope) (d : BReg) (g x : GReg), Ready .all false s →
    let b := s.here.bar d
    let w := s.cur.getG x
    let seen := s.cur.seen.getLsbD d.toNat
    let member := w.toNat % 32
    let legal := w &&& 0x7E000060 = 0 ∧ w.getLsbD 31 = false ∧ w.toNat / 256 % 2 ^ 17 = 0 ∧ b.configured = true ∧ member < b.members
    (1 ≤ w.toNat → w.toNat ≤ 32 → sc ≠ .lane → sc ≠ .core → ∃ u, Completes (.bars sc d x) s (s.modHere fun _ => u) ∧
      u.bar d = { configured := true, scope := sc, members := w.toNat } ∧ (∀ e, e ≠ d → u.bar e = s.here.bar e) ∧
      u = { s.here with bars := u.bars, s := { s.here.s with seen := u.s.seen }, c := { s.here.c with seen := u.c.seen },
                        m := { s.here.m with seen := u.m.seen } } ∧
      ∀ i j, (u.ctx i).seen.getLsbD j = if j = d.toNat then false else (s.here.ctx i).seen.getLsbD j) ∧
    (w.toNat = 0 ∨ 32 < w.toNat ∨ sc = .lane ∨ sc = .core → s.cur.sup = false → Refuses (.bars sc d x) s) ∧
    (legal → s.cur.storing = [] → ∃ e, Completes (.bara d x) s (s.modHere fun t => t.modBar d fun _ => e) ∧
      (b.arrset.getLsbD member = true → e = { b with err := true }) ∧
      (b.arrset.getLsbD member = false → e.configured = true ∧ e.scope = b.scope ∧ e.members = b.members ∧ e.err = b.err) ∧
      (b.arrset.getLsbD member = false → b.arrived + 1 = b.members →
        e.gen = (!b.gen) ∧ e.arrived = 0 ∧ e.arrset = 0 ∧ e.flt = 0 ∧ e.lastflt.getLsbD member = w.getLsbD 7 ∧
        ∀ j, j ≠ member → e.lastflt.getLsbD j = b.flt.getLsbD j) ∧
      (b.arrset.getLsbD member = false → b.arrived + 1 ≠ b.members →
        e.gen = b.gen ∧ e.arrived = b.arrived + 1 ∧ e.lastflt = b.lastflt ∧ e.arrset.getLsbD member = true ∧
        e.flt.getLsbD member = w.getLsbD 7)) ∧
    (w &&& 0x7E000060 = 0 → w.getLsbD 31 = true → w.toNat / 256 % 2 ^ 17 < s.ranked → s.cur.storing = [] →
      Completes (.bara d x) s (s.sendArrival s.focus.rank s.focus.ctx (w.toNat / 256 % 2 ^ 17) d w s.cur.pts)) ∧
    (w &&& 0x7E000060 ≠ 0 ∨ w.getLsbD 31 = true ∧ s.ranked ≤ w.toNat / 256 % 2 ^ 17 ∨
      w.getLsbD 31 = false ∧ (w.toNat / 256 % 2 ^ 17 ≠ 0 ∨ b.configured = false ∨ b.members ≤ member) → s.cur.sup = false →
      Refuses (.bara d x) s) ∧
    (legal ∨ w &&& 0x7E000060 = 0 ∧ w.getLsbD 31 = true ∧ w.toNat / 256 % 2 ^ 17 < s.ranked → s.cur.storing ≠ [] →
      ∃ t, exec (.bara d x) s = .next t ∧ Waits s t) ∧
    (b.configured = true → b.gen ≠ seen → Yields (.barw g d) s (((s.cur.setSeen d b.gen).meet b.last).setG g b.lastflt)) ∧
    (b.configured = true → b.gen = seen → ∃ t, exec (.barw g d) s = .next t ∧ Waits s t) ∧
    (b.configured = false → s.cur.sup = false → Refuses (.barw g d) s) ∧
    Yields (.barq g d) s (s.cur.setG g (if b.configured then BitVec.ofNat 32 (2 ^ 31 + b.gen.toNat * 2 ^ 30 + b.err.toNat * 2 ^ 29 +
      b.scope.code * 2 ^ 26 + b.arrived % 64 * 2 ^ 16 + b.members % 64 * 2 ^ 8 + seen.toNat) else 0))

/-! ## Page 3: ordering, atomics, engines, messages, collectives -/

/-- R293 to R299: FENCE goes on once everything of its scope is performed; PUB, once its context's stores and the engine writes to the
handle that happen before it are performed (log 18), exchanges the handle's backings, counts its
generation and gives it; PUBW waits for a generation other than g[d]; both trap with 0x06 for a handle that is not declared and with
0x08 for a handle home outside the scope, PUB with 0x0A for read-only backings; the cache operations remove lines of a global or
current buffer address, and trap with 0x05 or 0x06 elsewhere; TLBP probes without a trap. A translation still to come is waited for, and a
bad table entry that TLBP meets is recorded (log 11). -/
def Obligations.Publishing : Prop :=
  ∀ (s : State) (sc : Scope) (d x : GReg) (a : AReg), Ready .all false s →
    let h := s.cur.getG x
    let ea := s.cur.getA a
    let waits (i : Instr) : Prop := ∃ t, exec i s = .next t ∧ Waits s t
    let user := s.cur.sup = false
    let r := s.focus.rank
    let due := s.targetDue r .load ea = true
    let bad := s.atWalk r .load ea (fun r root homes va => s.translate r root homes va == .bad)
    let clean := s.targetDue r .load ea = false ∧ s.targetMeets r .load ea = false ∧ bad = false
    (s.fenced sc = true → Yields (.fence sc) s ((s.cur.meetTime s.here.matrix.pts).meetTime s.here.copy.pts)) ∧
    (s.fenced sc = false → waits (.fence sc)) ∧ (sc = .lane ∨ sc = .core → s.fenced sc = true) ∧
    (∀ p hd, s.pitchHere = some p → p.handles[h.toNat]? = some hd →
      (s.within sc s.focus.rank (s.handleHome p) = true ∨ s.handleHome p = s.focus.rank →
        let late := ∃ g ∈ pagesOf hd.buffer.va0 hd.buffer.size ++ pagesOf hd.buffer.va1 hd.buffer.size,
          s.walkDue r p.image.root p.image.homes (g * 65536) = true
        let ready := s.cur.storing = [] ∧ s.engineWrites sc p.id h.toNat = false ∧ ¬late
        (s.readOnlyBuffer h.toNat = false → ready →
          let e := s.publish p.id h.toNat s.cur.pts
          e.2 = hd.gen + 1 ∧ Completes (.pub sc d x) s (e.1.modCur fun c => (c.meetTime hd.pts.time).setG d e.2) ∧
          ∃ hd', (e.1.pitch? p.id).bind (fun q => q.handles[h.toNat]?) = some hd' ∧ hd'.cur = !hd.cur ∧ hd'.gen = hd.gen + 1 ∧
            hd'.buffer = hd.buffer) ∧
        (s.readOnlyBuffer h.toNat = false → ¬ready → waits (.pub sc d x)) ∧ (late → waits (.pub sc d x)) ∧
        (s.readOnlyBuffer h.toNat = true → ¬late → user → TakesTrap (.pub sc d x) s 0x0A 0 (h.setWidth 64)) ∧
        (hd.gen ≠ s.cur.getG d → Yields (.pubw sc d x) s ((s.cur.meet hd.pts).setG d hd.gen)) ∧
        (hd.gen = s.cur.getG d → waits (.pubw sc d x))) ∧
      (s.within sc s.focus.rank (s.handleHome p) = false → s.handleHome p ≠ s.focus.rank → user →
        TakesTrap (.pub sc d x) s 0x08 0 (h.setWidth 64) ∧ TakesTrap (.pubw sc d x) s 0x08 0 (h.setWidth 64))) ∧
    (s.pitchHere = none ∨ (∃ p, s.pitchHere = some p ∧ p.handles.length ≤ h.toNat) → user →
      TakesTrap (.pub sc d x) s 0x06 0 (h.setWidth 64) ∧ TakesTrap (.pubw sc d x) s 0x06 0 (h.setWidth 64)) ∧
    (let drops (i : Instr) (va : Nat) (page : Bool) : Prop := clean → ∃ lines, Completes i s (s.modHere fun t => { t with lines := lines }) ∧
       ∀ l, l ∈ lines ↔ l ∈ s.here.lines ∧ ∀ g, s.cachedRange va page = some g → l.key < g.1 ∨ g.2 ≤ l.key
     (∀ va, spaceOf ea = some (.global va) → drops (.cinv a) va false ∧ drops (.ccln a) va true) ∧
     (∀ k off p hd, spaceOf ea = some (.buffer k off) → s.pitchHere = some p → p.handles[k]? = some hd → off < hd.buffer.size →
       let va := (if hd.cur then hd.buffer.va1 else hd.buffer.va0) + off
       drops (.cinv a) va false ∧ drops (.ccln a) va true) ∧
     (∀ k off p hd, spaceOf ea = some (.buffer k off) → s.pitchHere = some p → p.handles[k]? = some hd → hd.buffer.size ≤ off →
       Completes (.cinv a) s s ∧ Completes (.ccln a) s s ∧ Yields (.tlbp d a) s (s.cur.setG d 0xA0000000)) ∧
     (due → (∀ k off p hd, spaceOf ea = some (.buffer k off) → s.pitchHere = some p → p.handles[k]? = some hd → off < hd.buffer.size) →
       waits (.cinv a) ∧ waits (.ccln a) ∧ waits (.tlbp d a))) ∧
    (user → (spaceOf ea = none → TakesTrap (.cinv a) s 0x05 0 ea ∧ TakesTrap (.ccln a) s 0x05 0 ea) ∧
      (((∃ off, spaceOf ea = some (.cluster off)) ∨ (∃ o off, spaceOf ea = some (.scratch o off)) ∨
        ∃ i, spaceOf ea = some (.lane i)) → TakesTrap (.cinv a) s 0x06 0 ea ∧ TakesTrap (.ccln a) s 0x06 0 ea)) ∧
    Completes .cfls s (s.modHere fun t => { t with lines := [] }) ∧
    ((∀ k off p hd, spaceOf ea = some (.buffer k off) → s.pitchHere = some p → p.handles[k]? = some hd → off < hd.buffer.size) →
      s.targetDue r .load ea = false → s.targetMeets r .load ea = false → bad = true →
      ∃ u p, Completes (.tlbp d a) s (u.setCur (s.cur.setG d 0x60000000)) ∧ u = s.modField (s.fieldOf r) (fun f => { f with posts := f.posts ++ [p] }) ∧
        p.pitch = s.here.pitch ∧ p.record.cause = 0x21 ∧ p.record.flags.getLsbD 0 = true) ∧
    (clean → ∃ w, Yields (.tlbp d a) s (s.cur.setG d w) ∧
      (∀ va p, spaceOf ea = some (.global va) → s.pitchHere = some p → w = s.probe p va) ∧
      (∀ k off p hd, spaceOf ea = some (.buffer k off) → s.pitchHere = some p → p.handles[k]? = some hd → off < hd.buffer.size →
        w = s.probe p ((if hd.cur then hd.buffer.va1 else hd.buffer.va0) + off)) ∧
      (spaceOf ea = none → w = 0xA0000000))

/-- R300 to R303: an atomic on bytes of the tile's own gives the old value to g[d] and writes the new one, in one step; AMOCAS writes
only on a match; with d = g0 nothing is given. A failed check traps with its code, a target outside the scope with 0x08, DETAIL 0x01.
What happens before the old value happens before the new one (R278). -/
def Obligations.Atomics : Prop :=
  ∀ (s : State) (sc : Scope) (d y : GReg) (x : AReg) (g : Target), Ready .all false s →
    Allowed s .atomic (s.cur.getA x) 4 g →
    let old := s.mem.readNat g.key 4
    let a : Word := BitVec.ofNat 32 old
    let b := s.cur.getG y
    let acts (i : Instr) (new : Option Word) : Prop :=
      (s.within sc s.focus.rank (g.homeFrom s.focus.rank) = false → s.cur.sup = false → TakesTrap i s 0x08 0x01 (s.cur.getA x)) ∧
      (s.within sc s.focus.rank s.focus.rank = true → AtOnce s [g.piece 4] → Good s [g.piece 4] →
        let known := unionNat s.cur.pts.known (s.knownAt g.key 4)
        let u := match new with | some w => s.store g.key 4 w known | none => s
        CompletesAccess i s (u.setCur (s.cur.setG d a)) ∧ SameMemoryBut s u g.key 4)
    acts (.amoadd sc d x y) (some (a + b)) ∧ acts (.amoand sc d x y) (some (a &&& b)) ∧ acts (.amoor sc d x y) (some (a ||| b)) ∧
    acts (.amoxor sc d x y) (some (a ^^^ b)) ∧
    acts (.amomin sc d x y) (some (BitVec.ofInt 32 (min a.toInt b.toInt))) ∧
    acts (.amomax sc d x y) (some (BitVec.ofInt 32 (max a.toInt b.toInt))) ∧
    acts (.amominu sc d x y) (some (BitVec.ofNat 32 (min a.toNat b.toNat))) ∧
    acts (.amomaxu sc d x y) (some (BitVec.ofNat 32 (max a.toNat b.toNat))) ∧
    acts (.amoswp sc d x y) (some b) ∧ acts (.amocas sc d x y) (if a = s.cur.getG d then some b else none) ∧
    acts (.amofadd sc d x y) (some (BitVec.ofNat 32 (FFmt.f32.add {} old b.toNat).bits)) ∧
    acts (.amofmax sc d x y) (some (BitVec.ofNat 32 (FFmt.f32.minMax true {} old b.toNat).bits))

/-- R314, R315, R322, R339 to R344: CPY and CPYR put a checked command in the engine's queue and wait while it is full; CPYW waits for
it; CPYS gives a status word; CPYX resumes, cancels or flushes; RINGB takes a filled slot of a ring; RINGQ shows the ring. A ring whose
offset is no multiple of 16 traps with 0x04, one that does not lie in the scratch with 0x06, and a descriptor that breaks R322 is
refused, by CPYR after its nest descriptor. A command that writes a published buffer is numbered, which the model does for R288 (log 18). -/
def Obligations.CopyAndRings : Prop :=
  ∀ (s : State) (d x : GReg) (a b : AReg) (ring : RingRef) (wix rix : Nat), Ready .all false s → s.focus.ctx ≠ .c →
    let o := (s.cur.getG x).toNat
    let e := s.here.copy
    let desc : BitVec 512 := s.scratchRead 512 o 64
    let buffer (p : DWord) : Bool := match spaceOf p with
      | some (.buffer _ _) => true
      | _ => false
    let queued (i : Instr) (c : CopyCmd) (published : Bool) : Prop :=
      (s.scratchOffset o 64 64 = .ok () →
        (descBad desc = false → e.queue.length < 8 → Completes i s ((s.modHere fun t =>
          { t with copy := { e with pts := maxTime e.pts s.cur.pts.time, queue := e.queue ++ [c] } }).numbered published)) ∧
        (descBad desc = false → 8 ≤ e.queue.length → ∃ t, exec i s = .next t ∧ Waits s t) ∧
        (descBad desc = true → s.cur.sup = false → Refuses i s)) ∧
      (s.cur.sup = false → (o % 64 ≠ 0 → TakesTrap i s 0x04 0 (BitVec.ofNat 64 o)) ∧
        (o % 64 = 0 → s.here.scratchSize < o + 64 → TakesTrap i s 0x06 0 (BitVec.ofNat 64 o)))
    let command : CopyCmd := { ctx := s.focus.ctx, desc := desc, src := s.cur.getA b, dst := s.cur.getA a
                               known := s.cur.pts.known, born := s.newEvent }
    let acts (i : Instr) : Prop :=
      (o = 0 → e.stop ≠ none → Completes i s (s.modHere fun t => { t with copy := { e with stop := none } })) ∧
      (o = 1 → e.stop ≠ none → Completes i s (s.modHere fun t => { t with copy :=
        { e with queue := e.queue.tail, stop := none, done := e.done + 1 } })) ∧
      (o = 2 → Completes i s (s.modHere fun t => { t with copy :=
        { e with queue := [], stop := none, done := e.done + BitVec.ofNat 8 e.queue.length } })) ∧
      (2 < o ∨ o < 2 ∧ e.stop = none → s.cur.sup = false → Refuses i s)
    let ring? (o : Nat) (i : Instr) : Prop :=
      let f (b w : Nat) := (s.scratchRead 128 o 16 : BitVec 128).toNat / 2 ^ (8 * b) % 2 ^ w
      let broken := f 0 32 % 16 ≠ 0 ∨ f 4 16 % 16 ≠ 0 ∨ f 4 16 = 0 ∨ f 6 16 = 0 ∨ 1024 < f 6 16 ∨ 32 ≤ f 8 8 ∨ 32 ≤ f 9 8 ∨ f 8 8 = f 9 8 ∨
        f 6 16 ≤ f 10 16 ∨ f 6 16 ≤ f 12 16 ∨ f 14 16 ≠ 0 ∨ s.here.scratchSize < f 0 32 + f 4 16 * f 6 16
      (o % 16 ≠ 0 → TakesTrap i s 0x04 0 (BitVec.ofNat 64 o)) ∧
      (o % 16 = 0 → s.here.scratchSize < o + 16 → TakesTrap i s 0x06 0 (BitVec.ofNat 64 o)) ∧
      (s.scratchOffset o 16 16 = .ok () → broken → Refuses i s)
    (s.cur.sup = false → ring? o (.ringb d x) ∧ ring? o (.ringq d x) ∧
      (s.scratchOffset o 64 64 = .ok () → descBad desc = false → ring? (s.cur.getG d).toNat (.cpyr d b x))) ∧
    queued (.cpy a b x) command (buffer (s.cur.getA a)) ∧
    (s.ringAt (s.cur.getG d).toNat = .ok (ring, wix, rix) → queued (.cpyr d b x) { command with dst := 0, ring := some ring } false) ∧
    (e.queue.length ≤ o → Yields (.cpyw x) s (s.cur.meetTime e.pts)) ∧
    (o < e.queue.length → ∃ t, exec (.cpyw x) s = .next t ∧ Waits s t) ∧
    (o < 7 → Yields (.cpys d x) s (s.cur.setG d (e.status o))) ∧ (7 ≤ o → s.cur.sup = false → Refuses (.cpys d x) s) ∧
    acts (.cpyxResume x) ∧ acts (.cpyxCancel x) ∧ acts (.cpyxFlush x) ∧
    (s.ringAt o = .ok (ring, wix, rix) →
      let m := s.here.sem ring.filled
      Yields (.ringq d x) s (s.cur.setG d (BitVec.ofNat 32 (rix * 65536 + m.count.toNat))) ∧
      (m.count = 0 → ∃ t, exec (.ringb d x) s = .next t ∧ Waits s t) ∧
      (m.count ≠ 0 → Completes (.ringb d x) s
        (((s.modHere fun t => t.modSem ring.filled fun m => { m with count := m.count - 1 }).store
          (sramKey s.focus.rank .scratch (ring.place + 12)) 2 (BitVec.ofNat 16 ((rix + 1) % ring.count))).modCur fun c =>
            (c.meet m.pts).setG d (BitVec.ofNat 32 (ring.base + rix * ring.slot)))))

/-- R345 to R350: a posted user message is sent and the group goes on; with a destination register the message is sent and the group
waits, and goes on with the reply, or traps with 0x31 on a nack; the doubleword kinds act on bytes of the tile's own; a wrong
control word is refused. MRPL answers the running message once; MHEND ends it. -/
def Obligations.Messages : Prop :=
  ∀ (s : State) (d x y : GReg) (a : AReg), Ready .all false s →
    let w := s.cur.getG y
    let k := w.toNat / 2 ^ 24
    let p := s.cur.getA a
    let user := amsgBad w p = false ∧ y.toNat + amsgArgs w ≤ 63 ∧ 32 ≤ k ∧ (d ≠ 0 → s.focus.ctx ≠ .m) ∧
      (p.getLsbD 56 = false → natField p.toNat 0 17 < s.ranked)
    (amsgBad w p = true → s.cur.sup = false → Refuses (.amsg d a y) s) ∧
    (user → s.cur.storing = [] → s.cur.reply = .none →
      (d = 0 → Completes (.amsg d a y) s ((s.sendUser (s.userMsg d a y)).modCur fun c =>
        { c with postedMsgs := c.postedMsgs ++ [msgTarget s.modidx.toNat p] })) ∧
      (d ≠ 0 → ∃ t, exec (.amsg d a y) s = .next t ∧ AfterCycles ((s.sendUser (s.userMsg d a y)).modCur fun c =>
        { c with reply := .waiting, replyTag := s.reqs, waiting := true }) t)) ∧
    (user → s.cur.reply = .waiting ∨ s.cur.reply = .none ∧ s.cur.storing ≠ [] → ∃ t, exec (.amsg d a y) s = .next t ∧ Waits s t) ∧
    (user → ∀ v, s.cur.reply = .value v → Yields (.amsg d a y) s { s.cur.setG d v with reply := .none }) ∧
    (user → ∀ c, s.cur.reply = .nack c → s.cur.sup = false → TakesTrap (.amsg d a y) s 0x31 c p) ∧
    (amsgBad w p = false → y.toNat + amsgArgs w ≤ 63 → d ≠ 63 → ∀ g, Allowed s .atomic p 8 g →
      AtOnce s [g.piece 8] → Good s [g.piece 8] →
      let old : DWord := BitVec.ofNat 64 (s.mem.readNat g.key 8)
      let pair (i : GReg) : DWord := s.cur.getG (i + 1) ++ s.cur.getG i
      let gives (c : Ctx) : Ctx := if d = 0 then c else (c.setG d (old.setWidth 32)).setG (d + 1) ((old >>> 32).setWidth 32)
      let known := unionNat s.cur.pts.known (s.knownAt g.key 8)
      (k = 3 → CompletesAccess (.amsg d a y) s
        ((s.store g.key 8 (amoInt (natField w.toNat 18 4) old (pair (y + 1))) known).setCur (gives s.cur))) ∧
      (k = 4 → CompletesAccess (.amsg d a y) s
        ((if old = pair (y + 1) then s.store g.key 8 (pair (y + 3)) known else s).setCur (gives s.cur)))) ∧
    (s.focus.ctx = .m → ∀ c, s.here.current = some c →
      (c.rpl = true → c.answered = false → s.cur.storing = [] → Completes (.mrpl x) s (s.reply c (s.cur.getG x))) ∧
      (c.rpl = false ∨ c.answered = true → s.cur.sup = false → Refuses (.mrpl x) s) ∧
      (s.cur.sup = false → s.cur.storing = [] → ∃ t, exec (.mhend x) s = .next t ∧
        Leaves s (s.endMessage s.focus.rank (if c.rpl then s.cur.getG x else 0)) t ∧ t.here.current = none ∧ t.cur.run = .dispatch))

/-- R297, R330, R334, R351 to R355: COLSET hands its descriptor to the handle home and waits, and gives the answer once it has come; TRIG
contributes to the firing of its slot's plan, whose contribution fails the firing where it is no valid summary (R332, R336), and
traps for an address without a plan, for a second trigger, and for bad data; COLW waits for the firing, COLS shows its state, COLFR
releases the plan. Where other modules take part, TRIG and COLFR first wait until these know of it, as log 30 says; that COLW of a handle
that names no plan gives 0, and takes 0x32 after its plan was released, is DEDUCED in log 30; that TRIG's 0x20 shows the address of the
bad word of the slot is DEDUCED in log 24; that a contribution to a published buffer is numbered is log 18. -/
def Obligations.Collectives : Prop :=
  ∀ (s : State) (sc : Scope) (d x : GReg) (a : AReg), Ready .all false s →
    let o := (s.cur.getG x).toNat
    let h := s.cur.getG x
    let r := s.focus.rank
    let own := s.modidx.toNat
    let ea := s.cur.getA a
    let desc : BitVec 512 := s.scratchRead 512 o 64
    let list := if planWhole desc then ([], false) else s.planList desc
    let waits (i : Instr) : Prop := ∃ t, exec i s = .next t ∧ Waits s t
    let tells (i : Instr) : Prop := ∃ t, exec i s = .next t ∧ t.cur.waiting = true ∧ t.cur.pc = s.cur.pc ∧ t.cur.g = s.cur.g ∧
      t.cur.a = s.cur.a ∧ t.mem = s.mem
    let dropped (id : PitchId) (k : PlanKey) : State :=
      s.modPitch id fun p => { p with plans := p.plans.filterMap fun o => if o.key = k then o.retired else some o }
    (∀ v, s.cur.colset = .value v → Yields (.colset sc d x) s { s.cur.setG d v with colset := .none }) ∧
    (s.cur.colset = .waiting → waits (.colset sc d x)) ∧
    (∀ id, s.cur.colset = .none → s.scratchOffset o 64 64 = .ok () →
      (planWhole desc = false → s.scratchOffset (planLoff desc) 4 (4 * planPart desc) = .ok ()) →
      (planReserved desc = true → s.cur.sup = false → Refuses (.colset sc d x) s) ∧
      (planReserved desc = false → list.2 = false → sc ∈ [Scope.cluster, .field, .wafer, .system] → planLimit desc list.1 = false →
        (if planWhole desc then planMask desc own && !s.here.struck else list.1.contains (own, r)) = true →
        s.here.pitch = some id → ∃ t, exec (.colset sc d x) s = .next t ∧
          AfterCycles ((({ s with reqs := s.reqs + 1 } : State).modPitch id fun p => { p with colsets := p.colsets ++
            [{ rank := r, ctx := s.focus.ctx, desc := desc, list := list.1, scope := sc, round := s.reqs }] }).modCur fun c =>
              { c with colset := .waiting, waiting := true }) t)) ∧
    (∀ p, s.pitchHere = some p →
      (∀ q, s.planOf p r h = some q → Yields (.cols d x) s (s.cur.setG d (q.statusWord r)) ∧
        (q.others own = [] →
          (q.busy = true → waits (.colfr x)) ∧
          (q.busy = false → Completes (.colfr x) s (dropped p.id q.key))) ∧
        (q.others own ≠ [] → q.freeing = false → tells (.colfr x)) ∧
        (q.others own ≠ [] → q.freeing = true → (∀ m ∈ q.others own, q.freedHeard.contains m = true) →
          Completes (.colfr x) s (dropped p.id q.key))) ∧
      (s.planOf p r h = none → Completes (.colfr x) s s ∧ Yields (.cols d x) s (s.cur.setG d 0)) ∧
      (let found := p.plans.find? fun q => !q.pending && q.handle.setWidth 32 == h && (q.ranksOn own).contains r
       (∀ q, found = some q →
         let st := q.statusOf r
         (st.trigd = false → Yields (.colw d x) s ((s.cur.meet q.pts).setG d (if q.live then q.statusWord r else 0))) ∧
         (st.trigd = true → q.failed = false → waits (.colw d x)) ∧
         (st.trigd = true → q.failed = true → s.cur.sup = false → TakesTrap (.colw d x) s 0x32 0x03 (h.setWidth 64))) ∧
       (found = none → Yields (.colw d x) s (s.cur.setG d 0)))) ∧
    (s.pitchHere = none → Completes (.colfr x) s s ∧ Yields (.cols d x) s (s.cur.setG d 0) ∧ Yields (.colw d x) s (s.cur.setG d 0)) ∧
    (∀ off k, spaceOf ea = some (.scratch r off) → off = 0xFF000 + 8 * k → k < 16 →
      (s.slotPlan r k = none → s.cur.sup = false → TakesTrap (.trig a x) s 0x32 0x01 ea) ∧
      (∀ id q, s.slotPlan r k = some (id, q) → s.cur.storing = [] →
        let n := q.count * collectiveSize q.op
        let data := s.mem.bytes (sramKey r .scratch q.src) n
        let st := q.statusOf r
        let known := q.failed = true ∨ (q.others own = [] ∧ q.lockedFor = []) ∨
          (st.trigger = some s.focus.ctx ∧ ∀ m ∈ q.others own, st.heard.contains m = true)
        let valid := q.op = 12 ∨ q.op = 13 → ∀ e ∈ blocksOf (collectiveSize q.op) q.count data, contributionOk q.op e = true
        let st' (e : PartStatus) : PartStatus := { e with
          trigd := true, done := false, arg := h.setWidth 16, trigger := none, heard := []
          born := if q.buffer.isSome then s.newEvent else 0 }
        let q' := { q.modStatus r st' with pts := Time.join q.pts s.cur.pts }
        let u := (s.modPlan id q.key fun _ => q').numbered q.buffer.isSome
        (st.trigd = true → s.cur.sup = false → TakesTrap (.trig a x) s 0x32 0x02 ea) ∧
        (∀ w, st.trigd = false → st.trigger = none → s.badContribution q.src n = some w → s.cur.sup = false →
          TakesTrap (.trig a x) s 0x20 0 (scratchPtr r w)) ∧
        (st.trigd = false → s.badContribution q.src n = none →
          (¬known → tells (.trig a x)) ∧
          (known → valid → Completes (.trig a x) s (u.addPartial id q' ⟨(q.number own r).getD 0, 1, data⟩)) ∧
          (known → ¬valid → Completes (.trig a x) s (u.failPlan id q' 5))))) ∧
    (s.cur.sup = false → (spaceOf ea = none → TakesTrap (.trig a x) s 0x05 0 ea) ∧
      (spaceOf ea ≠ none → ea.toNat % 8 ≠ 0 → TakesTrap (.trig a x) s 0x04 0 ea))

/-! ## Page 4: the system -/

/-- R23, R391 to R400: MFK gives a register that exists and is visible, MTK writes what the level may write, both trap with 0x01 DETAIL
0x0E elsewhere; IDLE waits for the runtime's answer; TLBI and TLBA drop translations; TQP posts the record of an image and
STRK the strike, which stops the tile, and both wait their turn while the queue has no room for an ordinary record (R376); CTXS
saves the node in its save area and CTXL restores it in save mode, a fatal record with the address of a word that neither can read, of
cause 0x20 or 0x21, or 0x34 for a dead pole, standing in its place, and each is refused outside it. Where the image stands, and what its
area counts as, is log 20, that a record has been taken in the same step log 10. -/
def Obligations.SystemInstructions : Prop :=
  ∀ (s : State) (d x : GReg) (a : AReg) (n : KReg),
    let r := s.focus.rank
    let hidden := 0x030 ≤ n.toNat ∧ n.toNat ≤ 0x035 ∧ s.cur.sup = false
    let compute := (n = 0x018 ∨ n = 0x019) ∧ s.focus.ctx ≠ .c
    let o := (s.cur.getG x).toNat
    let flags := (s.scratchRead 8 (o + 2) 1 : Byte).toNat
    let me := (r, s.focus.ctx)
    let refused (i : Instr) : Prop := ∃ t, exec i s = .next t ∧ t.cur = s.cur.doubleTrap
    let posts (i : Instr) (p : Post) (after : State → State) : Prop :=
      let f := s.field (s.fieldOf r)
      let first := ∀ w, f.posts.find? (fun q => q.held) = some w → w.group = some me
      (p.record.flags.getLsbD 0 = true ∨ first → ∀ u, s.acceptPost (s.fieldOf r) p = some u →
        Completes i s (after (u.forgetPosts fun g => g == me))) ∧
      (p.record.flags.getLsbD 0 = false → ¬first ∨ 255 ≤ f.queue.length → ∃ t, exec i s = .next t ∧ t.cur.waiting = true ∧
        t.cur.pc = s.cur.pc ∧ t.cur.g = s.cur.g ∧ t.mem = s.mem ∧ (t.field (s.fieldOf r)).queue = f.queue ∧
        (t.field (s.fieldOf r)).posts = if f.posts.any (fun w => w.group == some me) then f.posts
          else f.posts ++ [{ p with held := true, group := some me }])
    (Ready .all false s →
      (∀ w, s.kread r s.focus.ctx n.toNat = some w → ¬hidden → ¬compute →
        (s.cur.sup = false ∨ n ≠ 0x060 ∧ n ≠ 0x070 → Yields (.mfk d n) s (s.cur.setG d w)) ∧
        (s.cur.sup = true → Completes (.mfk d n) s ((s.setCur (s.cur.setG d w)).modHere fun t => t.clearLog n.toNat)) ∧
        Completes (.mtk d n) s (s.kwrite r s.focus.ctx n.toNat (s.cur.getG d))) ∧
      (∀ w, s.kread r s.focus.ctx n.toNat = some w → ¬hidden → compute → s.cur.sup = false →
        TakesTrap (.mfk d n) s 0x02 0 s.baseValue ∧ TakesTrap (.mtk d n) s 0x02 0 s.baseValue) ∧
      (s.kread r s.focus.ctx n.toNat = none ∨ hidden → s.cur.sup = false →
        TakesTrap (.mfk d n) s 0x01 0x0E (BitVec.ofNat 64 n.toNat) ∧ TakesTrap (.mtk d n) s 0x01 0x0E (BitVec.ofNat 64 n.toNat))) ∧
    (Ready .all true s →
      (∀ w, s.cur.answer = .came w → Yields (.idle d) s { s.cur.setG d w with answer := .none }) ∧
      (s.cur.answer = .due → ∃ t, exec (.idle d) s = .next t ∧ Waits s t) ∧
      (s.cur.storing = [] →
        (∀ va p, spaceOf (s.cur.getA a) = some (.global va) → s.pitchHere = some p →
          Completes (.tlbi a) s (s.invalidate fun c => TlbEntry.maps c p.image.root va)) ∧
        Completes .tlba s (s.invalidate fun _ => true)) ∧
      (s.scratchOffset o 64 64 = .ok () →
        (3 < flags → refused (.tqp x)) ∧ (flags = 2 → s.cur.answer ≠ .none → refused (.tqp x)) ∧
        (flags < 2 ∨ flags = 3 → posts (.tqp x) { record := s.tqpRecord o, pitch := s.here.pitch } fun u => u) ∧
        (flags = 2 → s.cur.answer = .none → posts (.tqp x) { record := s.tqpRecord o, pitch := s.here.pitch } fun u =>
          u.modCur fun c => { c with answer := .due })) ∧
      (s.here.struck = true ∨ s.here.strikeDue ≠ none → Completes (.strk x) s s) ∧
      (s.here.struck = false → s.here.strikeDue = none →
        posts (.strk x) { record := s.strkRecord ((s.cur.getG x).setWidth 8), pitch := s.here.pitch } fun u =>
          u.modHere fun t => { t with s := { t.s with run := .stopped }, c := { t.c with run := .stopped }
                                      m := { t.m with run := .stopped }, strikeDue := some 0x25 }) ∧
      (s.focus.ctx = .s → s.here.saveMode = true →
        (let w := s.saveCross r
         (s.here.hbad = [] → (∀ k ∈ s.poison, 8 * k < sramKey r .scratch 0 ∨ sramKey r .lane (2 ^ 15) ≤ 8 * k) → w.deadPole (saveArea r) = false →
           Completes .ctxs s (w.saveNode r)) ∧
         (s.saveBad r = none → w.deadPole (saveArea r) = true →
           Completes .ctxs s (w.post r (w.hwRecord r none 0x34 0 0 true false ((w.tile r).fly.abandoned.setWidth 256)))) ∧
         (∀ a, s.saveBad r = some a → Completes .ctxs s (s.post r (s.hwRecord r none 0x20 0 a true false 0)))) ∧
        (let w := s.restoreRead r
         (w.restoreBad r = none → ∀ m, w.savedNode r = some m → ∃ t, exec .ctxl s = .next t ∧ Leaves s (w.restoreNode r m) t) ∧
         (∀ a, w.restoreBad r = some a → Completes .ctxl s (w.post r (w.hwRecord r none 0x21 0 a true false 0))) ∧
         (∀ k, k ∈ w.poison → saveArea r ≤ 8 * k → 8 * k < saveArea r + saveBytes → ∃ a, w.restoreBad r = some a))) ∧
      (s.focus.ctx ≠ .s ∨ s.here.saveMode = false → ∀ i, i = Instr.ctxs ∨ i = .ctxl →
        ∃ t, exec i s = .next t ∧ t.cur = s.cur.doubleTrap))

/-- R401: LTRC gives SUSP in bit 31 and the window's stretch count in bits 7 to 0, as they are before the action; action 1 clears the
count, action 2 clears SUSP and leaves AUTO; an action above 2 is refused, at supervisor level with a double trap. -/
def Obligations.LateTransitionControl : Prop :=
  ∀ (s : State) (d x : GReg) (i : Instr), i ∈ [Instr.ltrcRead d x, .ltrcClearWindow d x, .ltrcClearSuspect d x] → Ready .all true s →
    let w : Word := BitVec.ofNat 32 (s.here.susp.toNat * 2 ^ 31 + s.here.stretches % 256)
    let u := s.setCur (s.cur.setG d w)
    (s.cur.getG x = 0 → Completes i s u) ∧
    (s.cur.getG x = 1 → Completes i s (u.modHere fun t => { t with stretches := 0 })) ∧
    (s.cur.getG x = 2 → Completes i s (u.modHere fun t => { t with susp := false })) ∧
    (2 < (s.cur.getG x).toNat → ∃ t, exec i s = .next t ∧ t.cur = s.cur.doubleTrap)


/-! ## The module's own steps -/

/-- R258, R282, R284, R303, R324, R325, R369 to R373: a home takes a message of its queue, which counts as completed, and performs it
where its bank is free and its fly's cells and lanes are whole: a read answers with the bytes, a write writes those of its mask, an
atomic answers with the old value and writes the new one if it writes, LINE and RENEW answer with the line's 64 bytes and a lease, a
line with a poisoned word as a plain read; a dead pole takes no write and its tile posts a record. R442: an access at a second-tier
port that is down or does not answer in 1 ms completes as poisoned data. R168: a remote arrival arrives at the barrier, or is nacked
where the tile carries another pitch. Which message is next is log 16, what a message carries of R278 log 18, the times of a line that
nothing is recorded of log 12. A read through a window that a PUB has switched since is answered with nothing and is sent anew (R261,
R288; log 18). -/
def Obligations.HomeServices : Prop :=
  ∀ (s : State) (r n : Nat),
    ((s.tile r).messages.length ≤ n → Gives (.secondTierTimeout r n) s (s.modTile r fun t => { t with late := true })) ∧
    ∀ q : Req, (s.tile r).mayTake n = some (.builtin q) →
      let u := s.takeMsg r n q.src
      let whole (k : Nat) : Prop := flyEnd ≤ k ∨ (s.tile (k / 2 ^ 25)).fly.sound = true
      let here := s.bankHeld q.key = false ∧ s.resolved q = true
      let ready := here ∧ s.portFails r q.key = false ∧ whole q.key ∧ whole (lineOf q.key)
      let published : Time := ((q.window.bind fun w => ((s.pitch? q.src.pitch).bind fun p => p.handles[w.1]?)).map (·.pts)).getD {}
      let known := s.knownAt q.key q.size
      let old : DWord := s.mem.read 64 q.key q.size
      let new := q.kind.apply old (q.data.setWidth 64) q.cmp
      let answer := if q.posted = true ∨ q.kind = .write ∨ q.kind = .cwrite then q.resp else { q.resp with bad := some 0x21 }
      let fails := ((u.modTile r fun t => { t with late := false }).postFromHome r 0x21 q.src q.key).respond q answer
      let down (i : Instr) : Prop := (here → s.portFails r q.key = true → Gives i s fails) ∧
        (s.bankHeld q.key = false → s.resolved q = false → Gives i s (u.respond q { q.resp with again := true }))
      let plainRead (i : Instr) (p : Resp) : Prop :=
        (s.poisoned q.key q.size = true → Gives i s (u.respond q { p with bad := some (badCode q.key) })) ∧
        (s.poisoned q.key q.size = false →
          let l := u.stampRead r q.key q.pts.time 0
          Gives i s (l.1.respond q { p with
            data := s.mem.read 512 q.key q.size, wts := l.2.1, rts := l.2.2, known := known, met := published }))
      let reads (i : Instr) : Prop := down i ∧ (ready → plainRead i q.resp)
      let stores (i : Instr) : Prop := down i ∧ (ready →
        (s.deadPole q.key = true → Gives i s ((u.postDeadPole r).respond q { q.resp with wts := q.pts.time })) ∧
        (s.deadPole q.key = false →
          let w := u.stampWrite r q.key q.pts.time
          Gives i s ((w.1.storeMasked q.key q.size q.data q.cmp.toNat q.pts.known).respond q { q.resp with wts := w.2 })))
      let updates (i : Instr) : Prop := down i ∧ (ready →
        (s.poisoned q.key q.size = true → q.posted = false → Gives i s (u.respond q { q.resp with bad := some (badCode q.key) })) ∧
        (s.poisoned q.key q.size = true → q.posted = true →
          Gives i s ((u.postFromHome r (badCode q.key) q.src q.key).respond q q.resp)) ∧
        (s.poisoned q.key q.size = false →
          let p (t : DWord) : Resp := { q.resp with data := old.setWidth 512, wts := t, known := if q.posted then [] else known }
          (∀ v, new = some v →
            let w := u.stampWrite r q.key q.pts.time
            Gives i s ((w.1.storeMasked q.key q.size (v.setWidth 128) 0xFFFF (unionNat q.pts.known known)).respond q (p w.2))) ∧
          (new = none →
            let l := u.stampRead r q.key q.pts.time 0
            Gives i s (l.1.respond q (p l.2.1)))))
      let lines (i : Instr) : Prop := down i ∧ (ready →
        (s.poisoned (lineOf q.key) 64 = true → plainRead i { q.resp with kind := .read }) ∧
        (s.poisoned (lineOf q.key) 64 = false →
          let l := u.stampRead r q.key q.pts.time ((u.tile q.src.rank).lease.setWidth 64)
          Gives i s (l.1.respond q { q.resp with
            data := s.mem.read 512 (lineOf q.key) 64, wts := l.2.1, rts := l.2.2
            marks := s.marks.filter fun e => lineOf q.key ≤ e.1 && e.1 < lineOf q.key + 64, met := published })))
      (q.kind = .read → reads (.read r n)) ∧ (q.kind = .cread → reads (.cread r n)) ∧
      (q.kind = .write → stores (.write r n)) ∧ (q.kind = .cwrite → stores (.cwrite r n)) ∧
      (∀ o, q.kind = .amo o → updates (.amo r n)) ∧ (∀ o, q.kind = .amo8 o → updates (.amo8 r n)) ∧
      (q.kind = .cas8 → updates (.cas8 r n)) ∧ (∀ o, q.kind = .camo o → updates (.camo r n)) ∧
      (q.kind = .line → lines (.line r n)) ∧ (q.kind = .renew → lines (.renew r n)) ∧
      (q.kind = .barr →
        let w : Word := q.data.setWidth 32
        (s.resolved q = true → u.carries r q.src = true → Gives (.barr r n) s (u.modTile r fun t => t.modBar (BitVec.ofNat 3 q.key) fun b =>
          b.arriveFrom (u.within b.scope r q.src.rank) (arrMember w) (arrFault w) q.pts)) ∧
        (s.resolved q = true → u.carries r q.src = false → Gives (.barr r n) s (u.modTile q.src.rank fun t =>
          { t with nacks := t.nacks ++ [.barr q.src.ctx w] }))) ∧
      (q.kind ≠ .barr → 2 ^ 46 ≤ q.key → q.key < 2 ^ 50 → Gives (.secondTierTimeout r n) s fails)

/-- R282, R303: a response ends the tracking of a posted atomic, lets a store's next piece go, or brings a read's result, good or bad,
to the group that waits for it. R326, R348: a user message is nacked at a struck tile, at one of another pitch, and where its kind
has no handler, or begins on the idle message thread with its arguments and sender in g1 to g5. R347 to R349: a reply comes to the
AMSG that waits for it; a nack makes it trap, and a posted message's nack posts a record. R416: nothing of this on a tile without a
clock. The order of responses, of messages and of nacks is log 16, what a response carries of R278, and that
a read whose handle was published in between is sent anew, log 18. -/
def Obligations.MessagesAndResponses : Prop :=
  ∀ (s : State) (r n : Nat) (c : CtxId),
    let t := s.tile r
    (∀ p : Resp, t.resps[n]? = some p → p.ctx = c → t.clocked = true →
      let u := s.modTile r fun t => { t with resps := t.resps.eraseIdx n }
      let v := u.modTile r fun t => t.takeResult p
      (p.posted = true → Gives (.memoryResponse r c n) s (u.modCtx r c fun x =>
        { x.meetTime p.wts with posted := x.posted.eraseP fun e => e.1 == p.key / 8 })) ∧
      (p.posted = false → ∀ e l, ((u.tile r).ctx c).storing = e :: l → e.piece.home ≠ none → e.tag = p.tag →
        Gives (.memoryResponse r c n) s ((u.modCtx r c fun x => x.meetTime p.wts).advanceStore r c l)) ∧
      (p.posted = false → ∀ e l, ((u.tile r).ctx c).storing = e :: l → e.piece.home = none ∨ e.tag ≠ p.tag →
        Gives (.memoryResponse r c n) s v) ∧
      (p.posted = false → ((u.tile r).ctx c).storing = [] → ((v.tile r).ctx c).waiting = true →
        Gives (.memoryResponse r c n) s { v with agenda := .group r c :: v.agenda }) ∧
      (p.posted = false → ((u.tile r).ctx c).storing = [] → ((v.tile r).ctx c).waiting = false →
        Gives (.memoryResponse r c n) s v) ∧
      (∀ x, (t.ctx c).xact = some x → x.sent = true → x.tag = p.tag →
        (∀ code, p.again = false → p.bad = some code →
          (v.tile r).ctx c = { t.ctx c with xact := some { x with todo := [], sent := false, bad := some code } }) ∧
        (p.again = true → (v.tile r).ctx c = { t.ctx c with xact := some { x with sent := false } }) ∧
        (p.again = false → p.bad = none →
          let key := (x.todo.head?.map (·.key)).getD p.key
          let size := (x.todo.head?.map (·.size)).getD 0
          let before := (p.marks.filter fun e => key ≤ e.1 && e.1 < key + size).foldl (fun l e => unionNat l e.2) []
          let put (d : BitVec 128) : Prop :=
            (v.tile r).ctx c = { (t.ctx c).meet (Time.join p.met ⟨p.wts, unionNat p.known before⟩) with
              xact := some { x with todo := x.todo.tail, sent := false, done := x.done ++ [d] } }
          (p.kind ≠ .line → p.kind ≠ .renew → put (p.data.setWidth 128) ∧ (v.tile r).lines = t.lines) ∧
          (p.kind = .line ∨ p.kind = .renew → put (((p.data >>> (8 * (key % 64))).setWidth (8 * size)).setWidth 128) ∧
            (v.tile r).lines = (⟨lineOf key, p.data, p.wts, p.rts, p.marks, []⟩ ::
              t.lines.filter fun l => l.key ≠ lineOf key).take (1024 * t.cache.toNat))))) ∧
    (∀ m : UserMsg, t.mayTake n = some (.user m) →
      let u := s.takeMsg r n m.src
      (t.struck = true → Gives (.userMessageStart r n) s (u.nackUser m 0x02)) ∧
      (t.struck = false → s.carries r m.src = false → Gives (.userMessageStart r n) s (u.nackUser m 0x03)) ∧
      (t.struck = false → s.carries r m.src = true → t.kinds.find? (·.kind = m.kind) = none →
        Gives (.userMessageStart r n) s ((u.invalidKind r m).nackUser m 0x01)) ∧
      (∀ k, t.struck = false → s.carries r m.src = true → t.kinds.find? (·.kind = m.kind) = some k → t.m.run = .dispatch →
        t.held = false → t.switching = false → t.m.due = none → ∃ v, Gives (.userMessageStart r n) s v ∧
          (∀ q, q ≠ r → v.tile q = s.tile q) ∧ v.mem = s.mem ∧ (v.tile r).inbox = (t.leaveInbox n).inbox ∧
          (v.tile r).router = (t.leaveInbox n).router ∧
          (v.tile r).m.run = .running ∧ (v.tile r).m.sup = false ∧ (v.tile r).m.pc = k.start &&& 0xFFFE ∧
          (v.tile r).m.hcur = BitVec.ofNat 32 m.kind ∧ (v.tile r).m.getG 1 = m.args.getD 0 0 ∧
          (v.tile r).m.getG 2 = m.args.getD 1 0 ∧ (v.tile r).m.getG 3 = m.args.getD 2 0 ∧
          (v.tile r).m.getG 4 = senderWord m.src ∧ (v.tile r).m.getG 5 = BitVec.ofNat 32 m.src.mod)) ∧
    (∀ m : ReplyMsg, t.replies.find? (·.ctx = c) = some m →
      let u := s.modTile r fun t => { t with replies := t.replies.erase m }
      t.clocked = true → ((u.tile r).ctx c).reply = .waiting → ((u.tile r).ctx c).replyTag = m.tag →
      Gives (.messageReply r c) s { u.modCtx r c fun x => { x.meet m.pts with reply := .value m.word } with
        agenda := .group r c :: s.agenda }) ∧
    (t.clocked = true → let u := s.modTile r fun t => { t with nacks := t.nacks.eraseIdx n }
     (∀ m d, t.nacks[n]? = some (.user m d) → m.answer = true → ((u.tile r).ctx m.src.ctx).reply = .waiting →
       ((u.tile r).ctx m.src.ctx).replyTag = m.tag →
       Gives (.messageNack r n) s { u.modCtx r m.src.ctx fun x => { x with reply := .nack d } with
         agenda := .group r m.src.ctx :: s.agenda }) ∧
     (∀ m d, t.nacks[n]? = some (.user m d) → m.answer = false → Gives (.messageNack r n) s (u.postNack r m d)) ∧
     (∀ k w, t.nacks[n]? = some (.barr k w) → Gives (.messageNack r n) s (u.post r (u.hwRecord r none 0x31 0x03 (w.setWidth 64)
       true false (messagePayload (u.sender r k) 10 (arrRank w) u.modidx.toNat)))))

/-- R124 to R129: a core in dispatch starts the slot it picks, at its START with its number in HCUR; a firing over its limit traps with
0x0D, once (log 15); R156: a waiting group is examined again. R134, R382, R436: a staged word, or the head of an ingress stream,
enters every destination at once when all have room; a stateless pitch keeps it (log 17); a stream end that another bound queue
overtakes is consumed. R316 to R323: the copy engine moves an element, stops before one that it may not move, takes a ring's slot,
completes a command with its signal, reports a stop to the S core; a stop at bad data posts a record besides (log 29). R333, R335, R336: the nodes of a plan combine, deliveries are
written and signalled, and the automatic PUB follows the writes; R337: a kill on another module ends the plans that reach it; R353:
the handle home serves a request with participants on this module alone. R416: nothing of this on a tile without a clock. Groups that
had an effect elsewhere commit first (R291, log 16); what other modules are told of a plan is log 30, what happens before a removal or
a PUB log 17 and log 18, a piece's time log 12. -/
def Obligations.EnginesAndHandlers : Prop :=
  ∀ (s : State) (r : Nat),
    let t := s.tile r
    let own := s.modidx.toNat
    let whole (k : Nat) : Prop := flyEnd ≤ k ∨ (s.tile (k / 2 ^ 25)).fly.sound = true
    let shadowAt (h off n base : Nat) : Prop := ∀ j, j < n → ∃ g o va,
      s.spaceTarget r .engineWrite 1 (.buffer h (off + j)) = .ok g ∧ g.key = base + j ∧ whole g.key ∧
      s.deadPole g.key = false ∧ s.portFails (g.homeFrom r) g.key = false ∧ t.pitch.bind s.pitch? = some o ∧
      ((o.handles[h]?).map fun d => d.va true (off + j)) = some va ∧ (s.cached r o.image.root va).isSome = true
    (∀ (k : CoreId) (j : Nat) (sl : Slot), let u := s.settle r k
      let b := (u.tile r).ctx k.ctx
      ((u.tile r).core k).pick = some j → ((u.tile r).core k).slots[j]? = some sl → b.run = .dispatch → b.due = none →
      (u.tile r).held = false → (u.tile r).struck = false → (u.tile r).switching = false → (u.tile r).clocked = true →
      ∃ v, Gives (.handlerDispatch r k) s v ∧ (∀ q, q ≠ r → v.tile q = s.tile q) ∧ v.mem = s.mem ∧
        let a := (v.tile r).ctx k.ctx
        a.run = .running ∧ a.sup = false ∧ a.pc = sl.start &&& 0xFFFE ∧ a.hcur = BitVec.ofNat 32 j ∧ a.loops = [] ∧ a.wd = 0 ∧
        a.amode = amodeStored ((if sl.aovr then sl.aoval else ((u.tile r).core k).amode).setWidth 32) ∧
        (∀ w, j ≠ 0 → ((u.tile r).core k).headWord sl = some w → a.tagin = (w.mark ++ w.tag).setWidth 32) ∧ a.g = b.g ∧ a.a = b.a) ∧
    (∀ c, (t.ctx c).run = .running → (t.ctx c).sup = false → (t.ctx c).wdFired = false → 2 ^ t.wdexp c < (t.ctx c).wd →
      s.bound r c = false → t.clocked = true → Gives (.handlerWatchdog r c) s (((s.withdraw r c).modCtx r c fun x => { x with wdFired := true }).trap
        r c 0x0D 0 (BitVec.ofNat 64 (2 ^ t.wdexp c + 1)) (s.focusOn r c).groupLen false)) ∧
    (∀ c, (t.ctx c).waiting = true → t.clocked = true → Gives (.waitAtKResume r c) s
      { s with agenda := .group r c :: s.agenda }) ∧
    (∀ (k : CoreId) (o : OReg) (p : Port) (id : PitchId) (w : Token) (ws : List Token),
      (t.core k).ports[o.toNat]? = some p → t.pitch = some id → p.words = w :: ws → t.clocked = true →
      p.dests.all (s.hasRoom id) = true →
      Gives (.channelWordTransfer (.port r k o)) s (((s.modTile r fun t => t.setCore k { t.core k with
        ports := vecMod (t.core k).ports o.toNat fun p => { p with words := ws } }).deliverAll id w p.dests).settle r k)) ∧
    (∀ (p : Pitch) (k : Nat) (g : Ingress) (e : Option Nat × Token) (ws : List (Option Nat × Token)),
      s.pitch? p.id = some p → p.ingress[k]? = some g → g.words = e :: ws → p.state = .running →
      let keeps := p.image.depth.isSome
      let w := { e.2 with serial := if keeps then 256 * (s.events + 1) + own else 0 }
      let kept := if keeps then g.retained ++ [{ word := w }] else g.retained
      let left : Ingress := { g with
        words := ws, ended := g.ended || e.2.mark == 3, sent := g.sent + g.dests.length, retained := kept
        bound := if e.2.mark = 3 then [] else g.bound, broken := keeps && decide (p.image.depth.getD 0 < 8 * kept.length) }
      ((e.2.mark = 3 → ∀ b ∈ g.bound, some b = e.1) → g.dests.all (s.hasRoom p.id) = true →
        Gives (.channelWordTransfer (.ingress p.id k)) s ((({ s with events := s.events + 1 }.modPitch p.id fun p =>
          { p with ingress := vecMod p.ingress k fun _ => left }).leaveEdge e).deliverAll p.id w g.dests)) ∧
      (e.2.mark = 3 → (∃ b ∈ g.bound, some b ≠ e.1) →
        Gives (.channelWordTransfer (.ingress p.id k)) s ((s.modPitch p.id fun p => { p with ingress := vecMod p.ingress k fun x =>
          { x with words := ws, bound := g.bound.filter fun b => some b != e.1 } }).leaveEdge e))) ∧
    (∀ c, s.copyHead r = some c →
      let n := descSize c.desc
      let at' (base : DWord) (stride : Nat → DWord) : DWord := base + (BitVec.ofNat 64 c.i0 * stride 0 +
        BitVec.ofNat 64 c.i1 * stride 1 + BitVec.ofNat 64 c.i2 * stride 2 + BitVec.ofNat 64 c.i3 * stride 3)
      let es := at' c.src (descSS c.desc)
      let ed := at' (c.taken.getD c.dst) (descDS c.desc)
      let due := s.targetDue r .engineRead es = true ∨ s.targetDue r .engineWrite ed = true
      let reach (u : Purpose) (ea : DWord) := s.checkAccess r false u ea n
      let fits := ∀ g, c.ring = some g → (c.taken.getD c.dst).toNat ≤ ed.toNat ∧ ed.toNat + n ≤ (c.taken.getD c.dst).toNat + g.slot
      let stops (u : State) (code : Byte) (at' : DWord) : State :=
        (if code = 0x20 ∨ code = 0x21 ∨ code = 0x22 then u.post r (u.hwRecord r none code 0 at' true false 0) else u).modTile r
          fun t => { t with copy := { t.copy with stop := some at', cause := code, report := t.copy.report ++ [(code, at')] } }
      let walked (use : Purpose) (ea : DWord) (code : Byte) : State :=
        if (code = 0x08 ∨ code = 0x09 ∨ code = 0x0A ∨ code = 0x21) ∧ s.targetMeets r use ea = true then s.targetRead r use ea else s
      let next : CopyCmd :=
        if c.i0 + 1 < descCount c.desc 0 then { c with i0 := c.i0 + 1 }
        else if c.i1 + 1 < descCount c.desc 1 then { c with i0 := 0, i1 := c.i1 + 1 }
        else if c.i2 + 1 < descCount c.desc 2 then { c with i0 := 0, i1 := 0, i2 := c.i2 + 1 }
        else { c with i0 := 0, i1 := 0, i2 := 0, i3 := c.i3 + 1 }
      let finished (t : Tile) : Tile := { t with copy := { t.copy with queue := t.copy.queue.tail, done := t.copy.done + 1 } }
      let signals (i : Instr) (u : State) (m : SemReg) : Prop :=
        ((t.sem m).count ≠ 0xFFFF → Gives i s (u.modTile r fun t => finished (t.modSem m fun x =>
          { count := x.count + 1, pts := Time.join x.pts ⟨t.copy.pts, c.known⟩ }))) ∧
        ((t.sem m).count = 0xFFFF → Gives i s (stops (u.modTile r fun t => { t with copy := { t.copy with queue :=
          { c with i0 := 0, i1 := 0, i2 := 0, i3 := descCount c.desc 3, signalDue := true } :: t.copy.queue.tail } }) 0x0E (m.setWidth 64)))
      (c.exhausted = false → c.ring = none ∨ c.taken ≠ none →
        (due → Gives (.copyElement r) s s) ∧
        (¬due →
          (∀ code, reach .engineRead es = .error code → Gives (.copyElement r) s (stops (walked .engineRead es code) code es)) ∧
          (∀ a code, reach .engineRead es = .ok a → reach .engineWrite ed = .error code →
            Gives (.copyElement r) s (stops (walked .engineWrite ed code) code ed)) ∧
          (∀ a b, reach .engineRead es = .ok a → reach .engineWrite ed = .ok b →
            let free := s.bankHeld a.key = false ∧ s.bankHeld b.key = false
            let even := ∀ h off, spaceOf ed = some (.buffer h off) → shadowAt h off n b.key
            (¬fits → Gives (.copyElement r) s (stops s 0x06 ed)) ∧
            (fits → ¬free → Gives (.copyElement r) s s) ∧
            let silent := s.portFails (a.homeFrom r) a.key
            (fits → free → silent = true → Gives (.copyElement r) s (stops ((s.modTile (a.homeFrom r) fun t =>
              { t with late := false }).postPort (a.homeFrom r) a.key (r, none)) 0x21 es)) ∧
            (fits → free → silent = false → whole a.key → s.poisoned a.key n = true →
              Gives (.copyElement r) s (stops s (badCode a.key) es)) ∧
            (fits → free → silent = false → whole a.key → s.poisoned a.key n = false → whole b.key → s.deadPole b.key = false →
              s.portFails (b.homeFrom r) b.key = false → n ≤ 16 ∨ even → ∃ v, Gives (.copyElement r) s v ∧
                (∀ k, v.mem.get k = if b.key ≤ k ∧ k < b.key + n then s.mem.get (a.key + (k - b.key)) else s.mem.get k) ∧
                (v.tile r).copy.queue = next :: t.copy.queue.tail ∧ (v.tile r).copy.stop = none ∧ (v.tile r).copy.done = t.copy.done ∧
                (v.tile r).s = t.s ∧ (v.tile r).c = t.c ∧ (v.tile r).m = t.m ∧ (v.tile r).sems = t.sems)))) ∧
      (∀ g, c.ring = some g → c.taken = none → (t.sem g.free).count ≠ 0 →
        let wix := s.mem.readNat (sramKey r .scratch (g.place + 10)) 2
        let lost := s.poisoned (sramKey r .scratch (g.place + 10)) 2
        (lost = true → Gives (.cpyrSlotTake r) s (stops s 0x20 (scratchPtr r (g.place + 10)))) ∧
        (lost = false → Gives (.cpyrSlotTake r) s (((s.modTile r fun t => t.modSem g.free fun m => { m with count := m.count - 1 }).modCopy r fun e =>
          { e with pts := maxTime e.pts (t.sem g.free).pts.time }).modHead r fun c =>
            { c with taken := some (scratchPtr r (g.base + wix * g.slot)) }))) ∧
      (c.exhausted = true → c.ring = none → descSig c.desc = none → Gives (.copyCommandComplete r) s (s.modTile r finished)) ∧
      (c.exhausted = true → c.ring = none → ∀ m, descSig c.desc = some m → signals (.copyCommandComplete r) s m) ∧
      (∀ g, c.exhausted = true → c.ring = some g → c.taken ≠ none →
        let key := sramKey r .scratch (g.place + 10)
        (c.signalDue = false → s.poisoned key 2 = true →
          Gives (.copyCommandComplete r) s (stops s 0x20 (scratchPtr r (g.place + 10)))) ∧
        (c.signalDue = true ∨ s.poisoned key 2 = false → signals (.copyCommandComplete r) (if c.signalDue then s
          else s.store key 2 (BitVec.ofNat 16 ((s.mem.readNat key 2 + 1) % g.count))) g.filled))) ∧
    (∀ code value l, t.copy.report = (code, value) :: l → t.s.sup = false → t.clocked = true →
      let u := s.modCopy r fun e => { e with report := l }
      (t.s.run = .running → t.s.replays < 8 → s.bound r .s = false →
        Gives (.copyFaultTrap r) s ((u.withdraw r .s).trap r .s 0x30 code value (s.focusOn r .s).groupLen false)) ∧
      (t.s.run = .dispatch ∨ t.s.run = .halted → Gives (.copyFaultTrap r) s (u.trap r .s 0x30 code value 0 true))) ∧
    (∀ (k span i : Nat) (id : PitchId) (p : Plan), s.slotPlan r k = some (id, p) → p.failed = false →
      (s.pitch? id).bind (fun q => q.plan? p.key) = some p →
      let data := p.result.getD []
      (p.number own r = some i → span ≠ 0 → i % (2 * span) = 0 → i + span < p.parts.length → ∀ a b,
        p.partials.find? (fun x => x.node == i && x.span == span) = some a →
        p.partials.find? (fun x => x.node == i + span && x.span == min span (p.parts.length - i - span)) = some b →
        let gives (u : State) : Prop := (p.routed.contains (i, span) = false → Gives (.comb r k span) s u) ∧
          (p.routed.contains (i, span) = true → Gives (.routerCombine r k span) s u)
        (∀ d, combineAll p.op p.count a.data b.data = some d →
          let q := { p with partials := (p.partials.erase a).erase b }
          gives ((s.modPlan id p.key fun _ => q).addPartial id q ⟨i, span + b.span, d⟩)) ∧
        (combineAll p.op p.count a.data b.data = none → gives (s.failPlan id p 5))) ∧
      (p.writesDue.contains r = true → s.destFaults r p data.length = true → Gives (.cdone r k) s (s.failPlan id p 4)) ∧
      (p.writesDue.contains r = true → s.destFaults r p data.length = false → s.deliveryHeld r p data.length = false →
        let wrote (v : State) (base : Nat) : Prop :=
          (∀ j, v.mem.get j = if base ≤ j ∧ j < base + data.length then data.getD (j - base) 0 else s.mem.get j) ∧
          ∀ q, (v.pitch? id).bind (fun o => o.plan? p.key) = some q → q.writesDue.contains r = false
        (p.buffer = none → ∃ v, Gives (.cdone r k) s v ∧ wrote v (sramKey r .scratch p.dst)) ∧
        (∀ h base, p.buffer = some h → shadowAt h p.dst data.length base → ∃ v, Gives (.cdone r k) s v ∧ wrote v base)) ∧
      (p.writesDue.contains r = false → p.signalsDue.contains r = true →
        p.writesDue = [] ∧ p.pubDue = false ∨ p.reduce = false ∧ p.buffer = none →
        let signalled := if p.barrier then s.modTile r fun t => t.modBar (p.target.setWidth 3) fun b =>
            b.arriveFrom true p.member false p.pts
          else s.modTile r fun t => t.modSem p.target fun m => { count := m.count + 1, pts := Time.join m.pts p.pts }
        (p.barrier = false → (t.sem p.target).count = 0xFFFF → Gives (.cdone r k) s (s.failPlan id p 4)) ∧
        (p.barrier = true ∨ (t.sem p.target).count ≠ 0xFFFF →
          (p.signalsDue.filter (· ≠ r) ≠ [] ∨ p.writesDue ≠ [] ∨ p.pubDue = true ∨ p.told = true → Gives (.cdone r k) s
            (signalled.modPlan id p.key fun q => { q with signalsDue := q.signalsDue.filter (· ≠ r) })) ∧
          (p.signalsDue.filter (· ≠ r) = [] → p.writesDue = [] → p.pubDue = false → p.told = false → p.others own = [] →
            p.key.lead.1 = own → ∃ v q, Gives (.cdone r k) s v ∧ (∀ x, v.tile x = signalled.tile x) ∧
              (v.pitch? id).bind (fun o => o.plan? p.key) = some q ∧
              q.status = (p.status.map fun e => if e.trigd then { e with trigd := false, done := true, fcnt := e.fcnt + 1 } else e) ∧
              q.firing = p.firing + 1 ∧ q.partials = [] ∧ q.result = none)))) ∧
    (∀ (p : Pitch) (q : Plan) (h : Half), s.pitch? p.id = some p →
      p.plans.find? (fun o => o.handle == h && o.pubDue) = some q → q.writesDue = [] → q.failed = false →
      (∀ o ∈ p.plans, o.pubDue = true → o.writesDue = [] → q.buffer.getD 0 ≤ o.buffer.getD 0) →
      Gives (.automaticPub p.id h) s ((((s.publish p.id (q.buffer.getD 0) q.pts).1.modPlan p.id q.key fun q =>
        { q with pubDue := false }).afterWrites p.id q.key))) ∧
    (∀ (p : Pitch) (q : ColsetReq) (l : List ColsetReq), s.pitch? p.id = some p → p.colsets = q :: l → p.asks = [] → p.setup = none →
      q.others own = [] → q.asked = none → q.plan = none → ((s.tile q.rank).ctx q.ctx).colset = .waiting →
      let a := { q with answers := [s.answerFor p q.desc false (q.list.map (·.2))] }
      let answered (v : State) (w : Word) (o : Pitch) : Prop := Gives (.colsetRequest p.id) s v ∧ v.pitch? p.id = some o ∧
        ((v.tile q.rank).ctx q.ctx).colset = .value w ∧ v.agenda = .group q.rank q.ctx :: s.agenda ∧
        o.colsets = p.colsets.filter fun o => !(o.rank == q.rank && o.ctx == q.ctx)
      (∀ f, s.firstFailure a = some f → ∃ v o, answered v (BitVec.ofNat 32 (2 ^ 31 + f)) o ∧ o.plans = p.plans ∧ v.mem = s.mem) ∧
      (s.firstFailure a = none → a.slot = none → ∃ v o, answered v 0x80000001 o ∧ o.plans = p.plans ∧ v.mem = s.mem) ∧
      (∀ k, s.firstFailure a = none → a.slot = some k →
        let h : Half := (p.serial + 1) ++ BitVec.ofNat 4 k
        let plan := planFrom q.desc h q.scope a.parts
        ∃ v o, answered v (h.setWidth 32) o ∧ o.serial = p.serial + 1 ∧
          (∃ l, o.plans = (p.plans.filter fun o => o.key ≠ plan.key) ++ [{ plan with live := true, pending := false, routed := l }]) ∧
          (planHoff q.desc = none → v.mem = s.mem) ∧
          ∀ x f, (own, x) ∈ a.parts → planHoff q.desc = some f → v.mem.readNat (sramKey x .scratch f) 4 = h.toNat)) ∧
    (∀ (m cfg : Nat) (p : Pitch), m ≠ own → s.pitches.filter (fun p => p.id.cfg == cfg) = [p] → p.colsets = [] →
      Gives (.planKillNotice m cfg) s (s.modPitch p.id fun p => { p with
        setup := if (p.setup.map (·.1)) = some m then none else p.setup
        asks := p.asks.filter fun a => a.mod != m
        plans := p.plans.filterMap fun q =>
          if !(q.parts.any fun e => e.1 == m) then some q else if q.present then (q.fail 6).retired else some q }))

/-- R12, R70, R77, R402 to R405: the writes of a context's and a tile's registers by a step of their own. R357 to R361: the replay
ladder of a group, a matrix chunk and a summary step, what a stretch leads to, the escalation window, the supply; R427 to R429: the
throttle, the refresh. R368 to R373, R405, R406: the scrubber, the pole, the array's corrections and row remaps; R269 to R273, R280,
R394, R442: walks fill the caches, power-down changes no contents, a second-tier link goes down. R374 to R377, R393: records and
answers move, a tile is struck. R414, R448: a field is derated, the other service processor takes over; R26, R421, R442: the module is
reset. What comes of stuck lanes and flipped cells is log 37, when a record arrives log 10, walks log 11, the counts of the ladder and
the windows log 34, THR and the first refresh log 7, the map of the second tier log 35. -/
def Obligations.CareOfTheModule : Prop :=
  ∀ (s : State) (r : Nat) (c : CtxId) (w : Word),
    let t := s.tile r
    let x := t.ctx c
    let f := s.fieldOf r
    let tile (i : Instr) (g : Tile → Tile) : Prop := Gives i s (s.modTile r g)
    let fly (i : Instr) (g : Fly → Fly) : Prop := tile i fun t => { t with fly := g t.fly }
    Gives (.amodeWrite r c w) s (s.modCtx r c fun x => { x with amode := amodeStored w }) ∧
    Gives (.srseedWrite r c w) s (s.modCtx r c fun x => { x with srseed := srseedStored w }) ∧
    (∀ n (v : DWord), Gives (.registerWrite r c (.kreg n) v) s (s.kwrite r c n.toNat (v.setWidth 32))) ∧
    tile (.counterClear r 0x041 false w) (fun t => { t with ltrcnt := t.ltrcnt &&& ~~~w }) ∧
    tile (.counterClear r 0x041 true w) (fun t => { t with ltrcnt := (t.ltrcnt + 1) &&& ~~~w }) ∧
    tile (.counterClear r 0x044 false w) (fun t => { t with chkcnt := t.chkcnt &&& ~~~w }) ∧
    tile (.counterClear r 0x044 true w) (fun t => { t with chkcnt := (t.chkcnt + 1) &&& ~~~w }) ∧
    tile (.counterClear r 0x045 false w) (fun t => { t with chkskip := t.chkskip &&& ~~~w }) ∧
    tile (.counterClear r 0x045 true w) (fun t => { t with chkskip := (t.chkskip + 1) &&& ~~~w }) ∧
    tile (.ltrlimLtrwinWrite r 0x042 w) (fun t => { t with ltrlim := if w &&& 7 = 0 then 1 else w.setWidth 3 }) ∧
    tile (.ltrlimLtrwinWrite r 0x043 w) (fun t => { t with ltrwin := if w &&& 0xFF = 0 then 1 else w.setWidth 8 }) ∧
    (t.susp = false → tile (.marginWrite r w) fun t =>
      { t with step := w.setWidth 4, auto := w.getLsbD 4, tgt := (w >>> 8).setWidth 4
               supply := if t.supply ≤ w.setWidth 4 then t.supply else w.setWidth 4 }) ∧
    (t.susp = true → tile (.marginWrite r w) fun t =>
      { t with step := if w &&& 15 = 0 then 0 else t.step, tgt := (w >>> 8).setWidth 4
               supply := if w &&& 15 = 0 then 0 else t.supply }) ∧
    (x.sup = true → ∀ d, Gives (.logStatusRead r c 0x060 d) s ((s.modCtx r c fun x => x.setG d t.fly.poleStatus).modTile r fun t =>
        { t with fly := { t.fly with pole := {} } }) ∧
      Gives (.logStatusRead r c 0x070 d) s ((s.modCtx r c fun x => x.setG d t.fly.arrayStatus).modTile r fun t =>
        { t with fly := { t.fly with array := {} } })) ∧
    (let counted := s.modTile r fun t => { t with ltrcnt := t.ltrcnt + 1, winReplays := t.winReplays + 1 }
     let n := t.stretches + 1
     let stretches (i : Instr) (who : CtxId) (unit : Bool) (u : State) : Prop :=
       let v := u.modTile r fun t => { t with stretches := n, winStretched := true }
       (n ≤ t.ltrwin.toNat → Gives i s v) ∧
       (t.ltrwin.toNat < n → t.step ≠ 0 → Gives i s (v.modTile r fun t => { t with
         step := t.step - 1, supply := if t.step - 1 < t.supply then t.step - 1 else t.supply, mev := t.mev + 1, stretches := 0 })) ∧
       (t.ltrwin.toNat < n → t.step = 0 →
         let suspect := v.modTile r fun t => { t with susp := true, auto := false, winPosted := true }
         (t.winPosted = true → Gives i s suspect) ∧
         (t.winPosted = false → (t.ctx who).sup = false → Gives i s (suspect.modCtx r who fun x =>
           { x with due := some ⟨0x23, 0, BitVec.ofNat 64 n⟩, dueHeld := x.due.isNone && !unit })) ∧
         (t.winPosted = false → (t.ctx who).sup = true → Gives i s (suspect.post r (suspect.hwRecord r (some who) 0x23 0
           (BitVec.ofNat 64 n) false false (payload2 (suspect.tile r).ltrcnt (suspect.tile r).margin)))))
     let ladder (i : Instr) (who : CtxId) (unit : Bool) (at' replays n : Nat) (put : Nat → State) : Prop :=
       let k := if n = at' then replays else 0
       (n < at' ∨ t.ltrlim.toNat ≤ k → Gives i s s) ∧
       (at' ≤ n → k + 1 < t.ltrlim.toNat → Gives i s (put (k + 1))) ∧
       (at' ≤ n → k + 1 = t.ltrlim.toNat → stretches i who unit (put 8))
     (x.run = .running → x.waiting = false → t.clock = .good →
       ladder (.lateTransition r c .group) c false 0 x.replays 0 fun k =>
         (counted.modTile r fun t => { t with cyc := t.cyc + 6 }).modCtx r c fun x =>
           { x with replays := k, wd := if x.sup then x.wd else x.wd + 6 }) ∧
     (∀ n m, t.matrix.queue.head? = some m → n < m.chunks → t.clock = .good →
       ladder (.lateTransition r c (.matrix n)) .c true t.matrix.chunk t.matrix.replays n fun k =>
         counted.modTile r fun t => { t with matrix := { t.matrix with chunk := n, replays := k } }) ∧
     (∀ n, x.run = .running → t.clock = .good → s.atSummary r c = true →
       ladder (.lateTransition r c (.summary n)) c false x.hstep x.hreplays n fun k =>
         counted.modCtx r c fun x => { x with hstep := n, hreplays := k })) ∧
    (t.window < t.cyc.toNat / 2 ^ 20 →
      let st := if t.auto = false then t.step
        else if t.winStretched = true ∨ 2 * 2 ^ t.tgt.toNat < t.winReplays then (if t.step = 0 then 0 else t.step - 1)
        else if 2 * t.winReplays < 2 ^ t.tgt.toNat then (if t.step = 15 then 15 else t.step + 1) else t.step
      tile (.escalationWindowEnd r) fun t =>
        { t with step := st, supply := if st < t.supply then st else t.supply, window := t.window + 1
                 stretches := 0, winReplays := 0, winStretched := false, winPosted := false }) ∧
    (t.cyc.toNat / 2 ^ 20 ≤ t.window → Gives (.escalationWindowEnd r) s s) ∧
    tile (.marginStepSettle r) (fun t => { t with supply := t.step }) ∧
    (∀ b, (t.thrWindow < t.cyc.toNat / 65536 → tile (.throttleWindowEnd r b) fun t =>
        { t with thrWindow := t.thrWindow + 1, thr := t.throttled, throttled := b }) ∧
      (t.cyc.toNat / 65536 ≤ t.thrWindow → Gives (.throttleWindowEnd r b) s s)) ∧
    (s.refreshed = 0 ∨ s.tick.toNat / 1024 ≠ s.refreshSpan → Gives .temperatureRefresh s
      { s with refreshes := s.refreshes + 1, refreshSpan := s.tick.toNat / 1024 }) ∧
    (s.refreshed ≠ 0 → s.tick.toNat / 1024 = s.refreshSpan → Gives .temperatureRefresh s s) ∧
    (∀ place, Gives (.scrub place false) s s) ∧
    (∀ key, 2 ^ 60 ≤ key ∨ 2 ^ 46 ≤ key ∧ key < 2 ^ 50 → Gives (.scrub (.sram r key) true) s { s with poison := insertNat s.poison (key / 8) }) ∧
    (∀ key word, word < 8 → tile (.scrub (.line r key word) true) fun t => { t with lines := t.lines.map fun l =>
      if l.key = key / 64 * 64 then { l with bad := insertNat l.bad word } else l }) ∧
    (∀ word, word < 2048 → tile (.scrub (.summary r word) true) fun t => { t with hbad := insertNat t.hbad word }) ∧
    (t.pitch ≠ none → Gives (.scrub (.parity r) true) s (s.post r (s.hwRecord r none 0x20 0 0 true false 0))) ∧
    Gives (.poleGranuleTransfer r none) s s ∧
    (∀ lane high, lane < 132 → fly (.poleGranuleTransfer r (some (.sticks lane high))) fun f =>
      { f with stuck := (f.stuck.filter fun e => e.1 != lane) ++ [(lane, high)] }) ∧
    (∀ p, troubleOk t.fly p = true →
      ((t.fly.transfer p).abandoned ≠ 15 ∨ t.struck = true ∨ t.strikeDue ≠ none →
        fly (.poleGranuleTransfer r (some (.trouble p))) fun f => f.transfer p) ∧
      ((t.fly.transfer p).abandoned = 15 → t.struck = false → t.strikeDue = none →
        tile (.poleGranuleTransfer r (some (.trouble p))) fun t => { t with fly := t.fly.transfer p, strikeDue := some 0x34 })) ∧
    (∀ o : BitVec 25, let off := o.toNat / 8 * 8
      (t.fly.fixing.contains off = true → fly (.eccWriteback r o .writeback) fun f =>
        { f with fixing := f.fixing.filter (· != off), weak := f.weak.filter fun e => e.1 != off }) ∧
      (∀ b : BitVec 7, b.toNat < 72 →
        (t.fly.weak.contains (off, b.toNat) = false → fly (.eccWriteback r o (.flip b)) fun f =>
          { f with weak := f.weak ++ [(off, b.toNat)] }) ∧
        (t.fly.weak.contains (off, b.toNat) = true → fly (.eccWriteback r o (.flip b)) fun f =>
          { f with weak := f.weak.filter (· != (off, b.toNat)) }))) ∧
    (∀ (b : BitVec 4) (row : BitVec 10), let k := (b.toNat, row.toNat)
      4 ≤ t.fly.fixesOf k → k ∉ t.fly.remapped → k ∉ t.fly.kept → (∀ e ∈ t.fly.held, e.1 ≠ b.toNat) →
      ((t.fly.remapped.filter fun e => e.1 = b.toNat).length < 16 → fly (.rowRemap r b row) fun f => { f with held := f.held ++ [k] }) ∧
      (16 ≤ (t.fly.remapped.filter fun e => e.1 = b.toNat).length → fly (.rowRemap r b row) fun f =>
        { f with kept := f.kept ++ [k], array := f.array.add (arrayEntry 4 (rowOffset k.1 k.2) 0) })) ∧
    (∀ (b : BitVec 4) (k : Nat × Nat), t.fly.held.find? (fun e => e.1 == b.toNat) = some k → Gives (.rowRemapDone r b) s
      ((s.modTile r fun t => { t with fly := { t.fly with held := t.fly.held.erase k, remapped := t.fly.remapped ++ [k]
                                                          array := t.fly.array.add (arrayEntry 3 (rowOffset k.1 k.2) 0) } }).storesGoOn r)) ∧
    (∀ port, port < 16 → Gives (.secondTierLinkDown port) s { s with tier2Down := insertNat s.tier2Down port }) ∧
    (∀ (va : BitVec 54) p, t.pitch.bind s.pitch? = some p →
      let walk := s.walk p.image.root p.image.homes va.toNat
      let places := s.walkKeys p.image.homes va.toNat walkLevels p.image.root
      ((∃ k ∈ places, s.bankHeld k = true) → Gives (.translationWalk r va) s s) ∧
      ((∀ k ∈ places, s.bankHeld k = false) → (∀ k ∈ places, flyEnd ≤ k ∨ (s.tile (k / 2 ^ 25)).fly.sound = true) →
        (∀ e, walk = .leaf e → t.tlb = [] → (s.field f).cache = [] →
          let e := { e with locked := (s.field f).locks.any fun k => k.root == e.root && k.page == e.page && k.big == e.big }
          Gives (.translationWalk r va) s ((s.modField f fun g => { g with cache := [e] }).modTile r fun t => { t with tlb := [e] })) ∧
        (walk = .bad → Gives (.translationWalk r va) s (s.modField f fun g => { g with posts := g.posts ++ [{
          record := { s.hwRecord r none 0x21 0 (va.setWidth 64) true false 0 with pitch := pitchWord p.id }, pitch := some p.id }] })) ∧
        (walk = .final ∨ walk = .resolvable ∨ walk = .malformed → Gives (.translationWalk r va) s s))) ∧
    Gives .powerDown s s ∧
    (x.answer = .due → ∀ b, Gives (.tqpAnswer r c b) s
      (s.modCtx r c fun x => { x with answer := .came (if b then 1 else 0) })) ∧
    (∀ f p l, (s.field f).posts = p :: l → p.held = false → p.group = none → (∀ w ∈ l, w.held = false) →
      let n := (s.field f).queue.length
      let entry : Record := { p.record with tick := s.tick }
      (p.record.flags.getLsbD 0 = false → n < 255 → ∃ v, Gives (.trapQueuePost f) s v ∧ v.mem = s.mem ∧ v.pitches = s.pitches ∧
        (v.field f).posts = l ∧ (v.field f).queue = (s.field f).queue ++ [entry] ∧
        (p.record.cause ≠ 0x23 → p.record.cause ≠ 0x34 → ∀ q, v.tile q = s.tile q) ∧
        (p.record.cause = 0x23 → (s.tile p.record.rank).struck = false → (s.tile p.record.rank).strikeDue = none →
          (v.tile p.record.rank).strikeDue = some 0x23)) ∧
      (p.record.flags.getLsbD 0 = false → 255 ≤ n → Gives (.trapQueuePost f) s
        (s.modField f fun g => { g with posts := { p with held := true } :: l })) ∧
      (p.record.flags.getLsbD 0 = true → ∃ v, Gives (.trapQueuePost f) s v ∧
        (n < 256 → (v.field f).queue = (s.field f).queue ++ [entry] ∧ (v.field f).overflow = (s.field f).overflow) ∧
        (256 ≤ n → (v.field f).queue = (s.field f).queue ∧ (v.field f).overflow = (s.field f).overflow + 1) ∧
        (∀ id q, p.pitch = some id → s.pitch? id = some q → q.state = .running → ∃ q', v.pitch? id = some q' ∧ q'.state = .killed))) ∧
    (∀ f n p g, (s.field f).posts.findIdx? (·.held) = some n → (s.field f).posts[n]? = some p → p.group = some g →
      (s.field f).queue.length < 255 → Gives (.trapQueuePost f) s { s with agenda := .group g.1 g.2 :: s.agenda }) ∧
    (∀ f, (s.field f).manager = true → Gives (.trapQueueRemove f) s (s.modField f fun f => { f with queue := f.queue.tail })) ∧
    (∀ cause, t.strikeDue = some cause → t.struck = false → (s.field f).manager = true → s.beingKilled r = false →
      s.boundTile r = false → let v := s.strikeTile r cause
      Gives (.strikeTile r) s v ∧ (v.tile r).struck = true ∧ (v.tile r).strikeDue = none ∧ (v.tile r).s.run = .stopped ∧
      (v.tile r).c.run = .stopped ∧ (v.tile r).m.run = .stopped ∧ (v.tile r).copy.queue = [] ∧ (v.tile r).current = none ∧
      s.physOf r ∈ v.retired ∧ s.physOf r ∈ v.struckTiles) ∧
    (∀ f (code : BitVec 4), f < 48 → (s.field f).band ≠ 15 → code < (s.field f).band →
      (∀ e ∈ s.tiles, e.2.pitch = none ∨ s.fieldOf e.1 ≠ f) →
      Gives (.fieldDerate f code) s (s.modField f fun g => { g with band := code })) ∧
    (∀ dead bands bad devices, devicesOk devices = true → ∃ v, Gives (.moduleReset dead bands ⟨bad, devices⟩) s v ∧ v.tick = 0 ∧
      v.pitches = [] ∧ v.agenda = s.agenda ∧ v.retired = s.retired ∧ v.tier2 = tier2Of devices ∧ v.tier2Down = [] ∧
      (∀ q, v.tile q = { State.reset.tile q with fly := { stuck := (s.tile q).fly.stuck, weak := (s.tile q).fly.weak } }) ∧
      (∀ f, f < 48 → (v.field f).manager = !bad.contains f ∧ (v.field f).queue = [] ∧
        let b := bands.getD f 15
        let was := s.shipped.getD f 15
        (v.field f).band = if bad.contains f ∨ b = 15 ∨ was = 15 then 15 else if was < b then was else b) ∧
      (s.tier2 = tier2Of devices → ∀ e, e ∈ v.mem ↔ e ∈ s.mem ∧ e.1 < 2 ^ 60)) ∧
    (∀ dead bands bad devices, devicesOk devices = false → Gives (.moduleReset dead bands ⟨bad, devices⟩) s s) ∧
    Gives .serviceProcessorFailover s { s with standby := !s.standby, attestKeyLoads := s.attestKeyLoads + 1 }

/-- R137 to R140, R273: the head pitch of the highest class that has one is placed at its first fit, which takes the region's tiles, or
the youngest pitch of the lowest class in its way is pre-empted; nothing is placed before TICK is set and temperatures refreshed. Its
pages resolved, every node is loaded and it is armed 64 ticks ahead, and starts then; a page finally absent or unanswered refuses it.
R140, R144, R380 to R384: a kill stops every context, empties engines, queues and ports and drops the plans; a wavefront's pair dies
together (R142); what two matching sweeps lead to: struck, with its streams closed, its queues refusing and a failure record, or
replayed, with its streams rewound, on its region or from its class queue. R386, R388, R400: a pre-emption holds every tile, stops what
still runs after 65,536 cycles, saves each node and frees the region; its resumption brings contexts, shared state and scratch back; bad
data on the way posts the record that kills it. R141, R142: a splice changes a tile from the predecessor to the successor, which inherits
registers and SRAM or not; with its last tile the predecessor is struck. The first refresh is log 7, the order of the loader's scans, the
tie of killed pitches to their region, lists that do not fit any more and the pair that a pre-emption saved log 33, the saved image and
the addresses of bad words log 20, walks, pages and banks that are waited for log 11. -/
def Obligations.PitchLifetimes : Prop :=
  ∀ (s : State) (p : Pitch) (r : Nat) (c : CtxId), s.pitch? p.id = some p →
    let id := p.id
    let gives (i : Instr) (f : Pitch → Pitch) : Prop := Gives i s (s.modPitch id f)
    let loads := p.state = .loading ∧ p.stopping = false
    let waits := p.state = .loading ∨ ∃ t, p.state = .armed t
    let alone := p.successor = none ∧ p.behind = none
    let sweeps := s.sweepOf p
    let twice := p.sweep = some sweeps ∧ sweeps.quiet = true ∧ sweeps.sent = sweeps.recvd ∧ sweeps.msgSent = sweeps.msgDone
    let places := s.tickSet = true ∧ s.refreshed ≠ 0 ∧ s.headPitch = some p
    let struckAs (o : Pitch) (v : State) (err : Option Byte) (out : Egress → Egress) : Prop :=
      (∃ q, v.pitch? o.id = some q ∧ q.state = .struck ∧ q.plans = [] ∧ q.colsets = [] ∧ q.asks = [] ∧ q.setup = none ∧
        q.successor = none ∧ q.behind = none ∧ q.saved = false ∧ q.egress = o.egress.map fun e =>
          if e.fed && !e.closed then { out e with words := (out e).words ++ [endToken], closed := true } else out e) ∧
      (∀ x, (v.tile x).pitch ≠ some o.id) ∧ (∀ l ∈ v.classes.toList, o.id ∉ l) ∧ (∀ f, ∀ k ∈ (v.field f).locks, k.pitch ≠ o.id) ∧
      v.hostRecords = s.hostRecords ++ err.toList.map (fun e => (o.id, e)) ∧
      ∀ e x, err = some e → x ∈ o.boundQueues → (v.hostQueue x).state = .refused ∧ (v.hostQueue x).err = e
    let strikes (i : Instr) (err : Option Byte) : Prop := ∃ v, Gives i s v ∧ struckAs p v err (fun e => e)
    let silenced (e : Egress) : Egress := { e with words := [], firstHalf := none }
    let killed (i : Instr) : Prop := ∃ v q, Gives i s v ∧ v.pitch? id = some q ∧ q.state = .killed ∧ q.kills = p.kills + 1 ∧
      q.plans = [] ∧ q.colsets = [] ∧ q.asks = [] ∧ q.setup = none ∧ q.saved = false ∧ q.stopping = false ∧ q.sweep = none ∧
      q.egress = p.egress.map silenced ∧
      ∀ x, (s.tile x).pitch = some id → let t := v.tile x
        t.pitch = some id ∧ t.s.run = .stopped ∧ t.c.run = .stopped ∧ t.m.run = .stopped ∧ t.copy.queue = [] ∧ t.matrix.queue = [] ∧
        t.current = none ∧ ∀ k : CoreId, (t.core k).queues.all (·.words.isEmpty) = true ∧ (t.core k).ports.all (·.words.isEmpty) = true
    let again (kills : Nat) : Prop := p.image.depth ≠ none ∧ (∀ g ∈ p.ingress.toList, g.broken = false) ∧ kills < 4
    let code (kills : Nat) : Byte :=
      if p.image.depth.isSome && p.ingress.toList.any (·.broken) && decide (kills < 4) then 8 else 7
    let rewound (q : Pitch) : Prop := q.saved = false ∧ q.sweep = none ∧
      q.ingress = (p.ingress.map fun g => { g with
        words := g.retained.map (fun k => (none, k.word)) ++ g.words, retained := [], sent := 0
        ended := g.ended && !g.retained.any fun k => k.word.mark == 3 }) ∧
      q.egress = p.egress.map fun e => { e with
        words := [], firstHalf := e.baseHalf, suppress := e.emitted, goal := e.crc, recheck := 0xFFFFFFFF, received := 0, closed := false }
    let queued (i : Instr) (q' : Pitch → Prop) : Prop := ∃ v q, Gives i s v ∧ v.pitch? id = some q ∧ q.state = .queued ∧ q' q ∧
      (∀ x, (v.tile x).pitch ≠ some id) ∧ ∀ k (h : k < 4), k = p.cls → (v.classes[k]).head? = some id
    let taken (o : Pitch) (u : State) : Prop := ∃ v q, Gives .placement s v ∧ v.pitch? id = some q ∧ v.mem = s.mem ∧
      q.state = .loading ∧ q.x0 = o.x0 ∧ q.y0 = o.y0 ∧ q.sweep = none ∧ q.image = p.image ∧
      v.classes = s.classes.map (fun l => l.filter (· ≠ id)) ∧ v.rotor = (o.y0 / 4 * 80 + o.x0 / 4 + 1) % 7200 ∧
      (∀ x ∈ s.region o, (v.tile x).pitch = some id ∧ (v.tile x).ballast = 0 ∧
        (v.tile x).pclass = (nodeAt p.image (s.xOf x - o.x0) (s.yOf x - o.y0)).power) ∧
      (∀ x, x ∉ s.region o → v.tile x = u.tile x) ∧
      (∀ k ch, k < 16 → p.image.channels.find? (fun ch => ch.src == .ingress k) = some ch →
        ∃ g, q.ingress[k]? = some g ∧ g.dests = s.endsOf o ch ∧ g.used = true)
    let preempts (v : Pitch) : Prop :=
      (v.state ≠ .running → Gives .placement s s) ∧
      (v.state = .running → Gives .placement s ((s.pairOf v).foldl (fun s id => s.modPitch id fun q =>
        { q with state := .preempting, preemptAt := s.tick + 16, sweep := none }) s))
    let listRecord (o : Pitch) (v : State) : Prop := ∀ g l, s.badPages o = g :: l →
      ∃ x ∈ (v.field (s.fieldOf (s.handleHome o))).posts, x.pitch = some o.id ∧ x.record.cause = 0x21 ∧
        x.record.value = BitVec.ofNat 64 (g * 65536) ∧ x.record.flags.getLsbD 0 = true
    let started (o : Pitch) (n : NodeImage) (t : Tile) : Prop :=
      t.pitch = some o.id ∧ t.pitchReg = pitchWord o.id ∧ t.kinds = n.kinds ∧ t.bars = Vector.replicate 8 {} ∧ t.matrix.queue = [] ∧
      t.copy.queue = [] ∧ t.current = none ∧ t.cache = BitVec.ofNat 3 n.cache ∧ t.shared = BitVec.ofNat 4 n.shared ∧
      t.lease = n.lease ∧ t.pclass = n.power ∧ t.held = false ∧ t.switching = false ∧
      ∀ k : CoreId, let im := match k with | .s => n.s | .c => n.c
        (∀ j, j < 32 → (t.core k).slots[j]? = some (slotOf (im.slots.getD j 0))) ∧
        (∀ q ∈ (t.core k).queues, q.words = []) ∧ (∀ q ∈ (t.core k).ports, q.words = []) ∧
        (t.ctx k.ctx).sup = false ∧ (t.ctx k.ctx).tvec = (im.tvec &&& 0xFFFE).setWidth 32
    (s.tickSet = false ∨ s.refreshed = 0 ∨ s.headPitch = none → Gives .placement s s) ∧
    (places → p.saved = false →
      (∀ e, s.firstFit p 7200 s.rotor = some e → taken e.1 e.2) ∧
      (∀ b v, s.firstFit p 7200 s.rotor = none → s.bestFor p 7200 s.rotor none = some b →
        youngestLowest (s.victims b.2) = some v → preempts v) ∧
      (s.firstFit p 7200 s.rotor = none → s.bestFor p 7200 s.rotor none = none → Gives .placement s s)) ∧
    (places → p.saved = true →
      (s.regionBroken p = true → p.state = .queued → alone →
        (again (p.kills + 1) → queued .placement fun q => q.kills = p.kills + 1 ∧ q.saved = false ∧ q.sweep = none) ∧
        (¬again (p.kills + 1) → ∃ v, Gives .placement s v ∧ struckAs p v (some (code (p.kills + 1))) silenced)) ∧
      (s.regionBroken p = false →
        (∀ v, s.candidate p = some v → taken p v) ∧
        (∀ v, s.candidate p = none → s.freeWithout p = true → youngestLowest (s.victims p) = some v → preempts v))) ∧
    (loads → p.saved = false → p.resolving = false → s.listHeld p = false → let i := Instr.loadAcknowledge id
      ((s.listState p).1 = true → ∃ v, Gives i s v ∧ struckAs p v (some 2) (fun e => e) ∧ listRecord p v) ∧
      (s.listState p = (false, true) → ∃ v, Gives i s v ∧ v.pitch? id = some { p with resolving := true }) ∧
      (s.listState p = (false, false) → s.locksFit p = false → p.behind = none →
        queued i fun q => q.saved = false ∧ q.resolving = false ∧ q.sweep = none) ∧
      (s.listState p = (false, false) → s.locksFit p = true → (s.region p).Nodup → ∃ v, Gives i s v ∧
        v.pitch? id = some { p with state := .armed (s.tick + 64) } ∧
        ∀ x ∈ s.region p, started p (nodeAt p.image (s.xOf x - p.x0) (s.yOf x - p.y0)) (v.tile x) ∧ (v.tile x).s.run = .stopped ∧
          (v.tile x).c.run = .stopped ∧ (v.tile x).m.run = .stopped ∧ (v.tile x).s.g = ({} : Ctx).g ∧ (v.tile x).c.v = ({} : Ctx).v ∧
          (v.tile x).z = [] ∧ (v.tile x).h = [] ∧ (v.tile x).sent = 0 ∧ (v.tile x).recvd = 0)) ∧
    (loads ∨ p.behind ≠ none → p.resolving = true →
      gives (.resolutionAnswer id true) (fun p => { p with resolving := false }) ∧
      strikes (.resolutionAnswer id false) (some 2) ∧ strikes (.translationPreloadTimeout id) (some 2)) ∧
    (∀ tick, p.state = .armed tick → p.stopping = false → tick ≤ s.tick →
      (s.repliesBound p = true → Gives (.pitchStart id) s ((s.region p).foldl (fun s r => s.modTile r Tile.beginAll)
        (s.modPitch id fun p => { p with state := .running, sweep := none }))) ∧
      (s.repliesBound p = false → strikes (.pitchStart id) (some 6))) ∧
    (p.state = .queued →
      (p.saved = false ∨ p.behind = none → (∀ n q, p.successor = some n → s.pitch? n.1 = some q → q.saved = false) →
        strikes (.hostKillRequest id) (some 7)) ∧
      (p.saved = true → ∀ b, p.behind = some b.id → s.pitch? b.id = some b → b.id ≠ id → ∃ v q o, Gives (.hostKillRequest id) s v ∧
        v.pitch? id = some q ∧ q.state = .struck ∧ v.pitch? b.id = some o ∧ o.state =
          if b.image.depth.isSome && b.ingress.toList.all (fun g => !g.broken) && decide (b.kills + 1 < 4) then .queued else .struck)) ∧
    (p.state = .running →
      (alone → killed (.hostKillRequest id)) ∧
      (∀ o, (p.successor.map (·.1)) = some o.id ∧ s.wavefront p = true ∨ p.behind = some o.id ∧ s.wavefront o = true →
        s.pitch? o.id = some o → ∃ v q u, Gives (.hostKillRequest id) s v ∧ v.pitch? id = some q ∧ q.state = .killed ∧
          v.pitch? o.id = some u ∧ u.state = .killed)) ∧
    (waits → gives (.hostKillRequest id) fun p => { p with stopping := true, sweep := none }) ∧
    (p.state = .running → p.successor = none →
      (p.behind = none → twice → p.ended = true ∨ s.allHalted id = true → strikes (.lightsOutSweep id) none) ∧
      (p.behind ≠ none ∨ ¬twice ∨ p.ended = false ∧ s.allHalted id = false →
        gives (.lightsOutSweep id) fun p => { p with sweep := some sweeps })) ∧
    (p.state = .killed → alone →
      (¬twice → gives (.lightsOutSweep id) fun p => { p with sweep := some sweeps }) ∧
      (twice → (∀ x ∈ s.tilesOf id, (s.tile x).strikeDue = none ∨ (s.tile x).struck = true) → let i := Instr.lightsOutSweep id
        (¬again p.kills → strikes i (some (code p.kills))) ∧
        (again p.kills → s.regionBroken p = true → queued i rewound) ∧
        (again p.kills → s.regionBroken p = false → s.balance p = none → Gives i s s) ∧
        (∀ u, again p.kills → s.regionBroken p = false → s.balance p = some u → ∃ v q, Gives i s v ∧ v.pitch? id = some q ∧
          q.state = .loading ∧ rewound q ∧ ∀ x ∈ s.tilesOf id, (v.tile x).sent = 0 ∧ (v.tile x).recvd = 0 ∧ (v.tile x).msgSent = 0 ∧
            (v.tile x).msgDone = 0))) ∧
    (p.state = .preempting → alone →
      (s.fatalDue id = true ∨ s.pairRests [id] = false → Gives (.lightsOutSweep id) s s) ∧
      (s.fatalDue id = false → s.pairRests [id] = true →
      ((∃ q ∈ s.tilesOf id, (s.tile q).saveMode = false) → Gives (.lightsOutSweep id) s
        ((s.tilesOf id).foldl (fun s r => s.modTile r fun t => { t with saveMode := true }) s)) ∧
      ((∀ q ∈ s.tilesOf id, (s.tile q).saveMode = true) → (∀ q ∈ s.tilesOf id, q < s.ranked ∧ (s.tile q).pitch = some id) →
        (∀ q ∈ s.tilesOf id, ∀ a, s.saveBad q = some a → ∃ v, Gives (.lightsOutSweep id) s v ∧ v.pitches = s.pitches ∧
          ∃ x ∈ (v.field (s.fieldOf q)).posts, x.pitch = some id ∧ x.record.cause = 0x20 ∧ x.record.value = a ∧
            x.record.flags.getLsbD 0 = true) ∧
        ((∀ q ∈ s.tilesOf id, s.saveBad q = none ∧ (s.tile q).fly.sound = true ∧ s.deadPole (saveArea q) = false) →
          (s.tilesOf id).Nodup → ∃ v, Gives (.lightsOutSweep id) s v ∧ v.mem = s.mem ∧
            v.classes = vecMod s.classes p.cls (fun l => id :: l) ∧
            v.pitch? id = some { p with
              state := .queued, saved := true, sweep := none, plans := p.plans.map fun q => { q with routed := [] }
              ingress := p.ingress.map fun g => { g with sent := 0 }, egress := p.egress.map fun e => { e with received := 0 } } ∧
            ∀ q ∈ s.tilesOf id, (v.tile q).pitch = none ∧ (v.tile q).s.run = .stopped ∧ (v.tile q).c.run = .stopped ∧
              (v.tile q).saved.find? (fun e => e.1 == id) = some (id, s.saveImage q))))) ∧
    (waits → p.stopping = true → p.successor = none →
      (twice → strikes (.lightsOutSweep id) (some 7)) ∧ (¬twice → gives (.lightsOutSweep id) fun p => { p with sweep := some sweeps })) ∧
    (p.state = .preempting → p.preemptAt ≤ s.tick → ∃ v, Gives (.preemptDispatchStop id) s v ∧ v.mem = s.mem ∧ v.pitches = s.pitches ∧
      (∀ x, x ∉ s.tilesOf id → v.tile x = s.tile x) ∧
      ∀ x ∈ s.tilesOf id, let t := s.tile x
        let idle (k : Core) : Core := { k with states := k.states.map fun st => if st = .running then .running else .idle }
        v.tile x = if t.held then t else { t with held := true, heldAt := t.cyc, coreS := idle t.coreS, coreC := idle t.coreC }) ∧
    ((s.tile r).held = true → ((s.tile r).ctx c).run = .running → 65536 ≤ (s.tile r).cyc.toNat - (s.tile r).heldAt.toNat →
      s.bound r c = false →
      Gives (.preemptFiringTimeout r c) s (((s.withdraw r c).forgetPosts fun g => g == (r, c)).modCtx r c fun x => { x with
        run := .stopped, resume := some .running, waiting := false, xact := none, reply := .none, colset := .none })) ∧
    (loads → p.saved = true → p.resolving = false → alone → s.listHeld p = false → s.fatalDue id = false → let i := Instr.preemptResume id
      (s.regionBroken p = true → killed i) ∧
      (s.regionBroken p = false →
        ((s.listState p).1 = true → ∃ v, Gives i s v ∧ struckAs p v (some 2) (fun e => e) ∧ listRecord p v) ∧
        (s.listState p = (false, true) → ∃ v, Gives i s v ∧ v.pitch? id = some { p with resolving := true }) ∧
        (s.listState p = (false, false) → s.locksFit p = false → queued i fun q => q = { p with state := .queued, sweep := none }) ∧
        (s.listState p = (false, false) → s.locksFit p = true → (∀ q ∈ s.savedTiles p, (s.tile q).fly.sound = true) →
          (∀ q ∈ s.savedTiles p, ∀ a, s.restoreBad q = some a → ∃ v, Gives i s v ∧ v.pitches = s.pitches ∧
            ∃ x ∈ (v.field (s.fieldOf q)).posts, x.pitch = (s.tile q).pitch ∧ x.record.cause = 0x21 ∧ x.record.value = a ∧
              x.record.flags.getLsbD 0 = true) ∧
        ((∀ q ∈ s.savedTiles p, s.restoreBad q = none) → (s.region p).Nodup →
          ∃ v o, Gives i s v ∧ v.pitch? id = some o ∧ o.state = .running ∧ o.saved = false ∧ o.sweep = none ∧
            ∀ q ∈ s.savedTiles p, ∀ n, (s.tile q).saved.find? (fun e => e.1 == id) = some (id, n) →
              (v.tile q).pitch = some id ∧ (v.tile q).sems = n.sems ∧ (v.tile q).bars = n.bars ∧ (v.tile q).z = n.z ∧
              (v.tile q).h = n.h ∧ (v.tile q).copy.queue = n.copy.queue ∧ (v.tile q).current = n.current ∧ (v.tile q).matrix = n.matrix ∧
              (∀ i, let saved : Ctx := match i with | .s => n.s | .c => n.c | .m => n.m
                (∀ run, saved.resume = some run → (v.tile q).ctx i = { saved with run := run, resume := none }) ∧
                (saved.resume = none → ((v.tile q).ctx i).run = if saved.run = .halted then .halted else .dispatch)) ∧
              ((∀ x ∈ s.savedTiles p, ∀ m, (x, m) ∈ (s.savedTiles p).filterMap (fun x => ((s.tile x).saved.find? fun e => e.1 == id).map
                  fun e => (x, e.2)) → m.scratch.wf = true ∧ (∀ e ∈ m.scratch, e.1 < 2 ^ 20) ∧ (∀ e ∈ m.shared, e.1 < 2 ^ 20) ∧
                    ∀ e ∈ m.lane, e.1 < 2 ^ 20) →
                ∀ a, a < 2 ^ 20 → v.mem.get (sramKey q .scratch a) = n.scratch.get a))))) ∧
    (∀ a b keep, s.splicing r = some (a, b, keep) → b.id ≠ a.id →
      (a.runs = true → a.behind = none → s.tileQuiet r = true → (s.tile r).switching = false → (s.tile r).struck = false →
        (s.tile r).streamsEnded = true ∨ emptyAt b.image (s.xOf r - b.x0) (s.yOf r - b.y0) = true →
        Gives (.spliceSwitch r) s (s.modTile r fun t => { t with switching := true })) ∧
      ((s.tile r).switching = true → (s.tile r).held = true ∨ a.runs = false ∨ b.resolving = true → Gives (.spliceSuccessorStart r) s s) ∧
      ((s.tile r).switching = true → (s.tile r).held = false → a.runs = true → b.resolving = false → b.runs = true ∨ b.state = .queued →
        let i := Instr.spliceSuccessorStart r
        (s.wavefront a = false → s.listHeld b = true → Gives i s s) ∧
        (s.wavefront a = false → s.listHeld b = false → (s.listState b).1 = true →
          ∃ v, Gives i s v ∧ struckAs b v (some 2) (fun e => e) ∧ listRecord b v) ∧
        (s.wavefront a = false → s.listHeld b = false → s.listState b = (false, true) →
          ∃ v, Gives i s v ∧ v.pitch? b.id = some { b with resolving := true } ∧ (v.tile r).switching = true) ∧
        (s.wavefront a = false → s.listHeld b = false → s.listState b = (false, false) → s.locksFit b = false →
          ∃ v, Gives i s v ∧ v.pitch? b.id = some b ∧ v.pitch? a.id = some { a with successor := none } ∧
            (v.tile r).switching = false) ∧
        (s.wavefront a = true ∨ s.listHeld b = false ∧ s.listState b = (false, false) ∧ s.locksFit b = true ∧
            (∀ g ∈ b.listedPages, s.walkUnsound b.image.root b.image.homes (g * 65536) = false) →
          let n := nodeAt b.image (s.xOf r - b.x0) (s.yOf r - b.y0)
          ∃ v o, Gives i s v ∧ v.pitch? b.id = some o ∧ o.state = .running ∧ started b n (v.tile r) ∧
            (v.tile r).m.run = .dispatch ∧
            (∀ k : CoreId, let im := match k with | .s => n.s | .c => n.c
              let first := slotOf (im.slots.getD 0 0)
              let x := (v.tile r).ctx k.ctx
              (first.valid = true → x.run = .running ∧ x.pc = first.start &&& 0xFFFE ∧ x.hcur = 0) ∧
              (first.valid = false → x.run = .dispatch)) ∧
            (keep = true → (∀ j, j < 2 ^ 61 → v.mem.get j = s.mem.get j) ∧ (v.tile r).sems = (s.tile r).sems ∧
              (v.tile r).z = (s.tile r).z ∧ (v.tile r).h = (s.tile r).h ∧
              ∀ j, ((v.tile r).ctx j).g = ((s.tile r).ctx j).g ∧ ((v.tile r).ctx j).a = ((s.tile r).ctx j).a ∧
                ((v.tile r).ctx j).p = ((s.tile r).ctx j).p ∧ ((v.tile r).ctx j).v = ((s.tile r).ctx j).v) ∧
            ((∃ e ∈ v.tiles, e.2.pitch = some a.id) → v.pitch? a.id = some a ∧ o.behind = b.behind) ∧
            ((∀ e ∈ v.tiles, e.2.pitch ≠ some a.id) → o.behind = none ∧ ∃ q, v.pitch? a.id = some q ∧ q.state = .struck))))

/-- R432 to R441: an idle queue takes a record, whose launch or splice queues a new pitch with its queue bound, or refuses it; a bound
one takes tokens; ERR is cleared by ones. R440: egress words become ring tokens or AtomicOp requests, or are checked during a replay;
completions write host memory and bring the old value back. R12, R433, R444 to R446: what reads and writes of BAR0 do, TSET, TOPO, the
topology switch, the route banks; R449: attestation. R443, R444, R447: the states of a Speosh link, its flits and replays, beacons, what
each kind of packet does here, forwarding. R379: timeouts of links, modules, routers and field managers; R415 to R417: clocks and the
tick grid. The image that comes, tokens that come early and AtomicOp at the host are log 32, the tokens kept log 17, BAR0 accesses
log 14, plans and their packets log 30, flits, and that what handle homes tell one another is version-checked, nacked and told again log 31, clock trees log 7. -/
def Obligations.HostEdgeAndLinks : Prop :=
  ∀ (s : State) (q k port r : Nat) (c : CtxId) (rd : BitVec 512) (id : PitchId),
    let own := s.modidx.toNat
    let h := s.hostQueue q
    let eg (s : State) (f : Egress → Egress) : State := s.modPitch id fun p => { p with egress := vecMod p.egress k f }
    let link (i : Instr) (st : LinkState) (f : Link → Link) : Prop := port < 96 → (s.portLink port).state = st →
      Gives i s (s.modLink port f)
    let refused (i : Instr) (e : Byte) : Prop := ∃ v, Gives i s v ∧ v.mem = s.mem ∧ (∀ x, v.tile x = s.tile x) ∧
      v.hostQueue q = { h with state := .refused, err := e, stream := none, record := none, early := [] }
    let entry := assocGet ({} : DirEntry) s.directory (recCfg rd)
    let starts (i : Instr) (im : Image) : Prop :=
      let im := { im with cfg := recCfg rd }
      let base := entry.portal.toNat
      let before := assocGet 0 s.launches (recCfg rd)
      let new : PitchId := ⟨recCfg rd, if before = 65535 then 1 else before + 1⟩
      let ready := ({ s with images := assocPut s.images im.cfg im } : State).addPitch im (recClass rd) base
      let queued (v : State) (o : Pitch) : Prop := Gives i s v ∧ v.mem = s.mem ∧ v.pitch? new = some o ∧ o.state = .queued ∧
        o.cls = recClass rd ∧ o.age = s.born ∧ o.image = im ∧ o.portal = base ∧ v.born = s.born + 1 ∧
        assocGet 0 v.launches (recCfg rd) = new.inst ∧
        (∃ g, o.ingress[recStream rd]? = some g ∧ g.used = true ∧ g.bound = (if h.state = .closed then [] else [q]) ∧
          g.words = recParams rd ++ h.early.map fun w => (some q, w)) ∧
        v.hostQueue q = { h with state := if h.state = .closed then .closed else .bound, stream := some (new, recStream rd)
                                 record := none, early := [] }
      (imageGood im = false → refused i 2) ∧
      (imageGood im = true → s.portalsOk im base = false → refused i 6) ∧
      (imageGood im = true → s.portalsOk im base = true →
        (recOp rd = 0 → ∃ v o, queued v o ∧ v.classes = vecMod s.classes (recClass rd) fun l => l ++ [new]) ∧
        (recOp rd ≠ 0 → s.spliceTarget rd = none → refused i 5) ∧
        (∀ p, recOp rd ≠ 0 → s.spliceTarget rd = some p → p.id ≠ new → ∃ v o, queued v o ∧ v.classes = s.classes ∧ o.behind = some p.id ∧
          (ready.1.spliceFits p ready.2 (recOp rd == 2) = true → o.x0 = p.x0 ∧ o.y0 = p.y0 ∧
            (v.pitch? p.id).map (·.successor) = some (some (new, recOp rd == 2)))))
    let takes (i : Instr) : Prop := q < 65536 → h.state = .idle →
      (recordOk rd = false → refused i 4) ∧
      (recordOk rd = true →
        (entry.valid = false → refused i 1) ∧
        (entry.valid = true → recOp rd ≠ 0 → s.spliceTarget rd = none → refused i 5) ∧
        (entry.valid = true → recOp rd = 0 ∨ s.spliceTarget rd ≠ none →
          (∀ im, assocFind s.images (recCfg rd) = some im → starts i im) ∧
          (assocFind s.images (recCfg rd) = none → Gives i s (s.modQueue q fun h =>
            { h with state := .bound, record := some rd, stream := none, early := [] }))))
    (recOp rd = 0 → takes (.launch q rd)) ∧ (recOp rd = 2 → takes (.spliceInherit q rd)) ∧
    (recOp rd = 3 → takes (.spliceNoInherit q rd)) ∧
    (recOp rd = 1 → q < 65536 → h.state = .idle →
      (recordOk rd = false → refused (.join q rd) 4) ∧
      (recordOk rd = true → s.pitch? ⟨recCfg rd, recInst rd⟩ = none → refused (.join q rd) 5) ∧
      (∀ p g, recordOk rd = true → s.pitch? ⟨recCfg rd, recInst rd⟩ = some p → p.ingress[recStream rd]? = some g →
        (p.state = .struck ∨ recInst rd = 0 ∨ g.over = true → refused (.join q rd) 5) ∧
        (p.state ≠ .struck → recInst rd ≠ 0 → g.over = false → ∃ v o, Gives (.join q rd) s v ∧ v.mem = s.mem ∧ v.pitch? p.id = some o ∧
          o.ingress[recStream rd]? = some { g with
            used := true, bound := g.bound ++ [q]
            words := (g.words.filter fun e => e.2.mark != 3) ++ recParams rd ++ h.early.map fun w => (some q, w) } ∧
          (v.hostQueue q).state = .bound ∧ (v.hostQueue q).stream = some (p.id, recStream rd)))) ∧
    (∀ im, h.record = some rd → recordOk rd = true → starts (.imageFetched q im) im) ∧
    (∀ off bs, q < 65536 → h.state = .bound ∨ h.state = .closed →
      let i : Instr := .ingressToken q ⟨off, bs⟩
      let right := (bs.length = 16 ∨ bs.length = 32 ∨ bs.length = 64) ∧ off < 64 ∧ off % bs.length = 0 ∧ (tokensOf bs).all tokenOk = true
      (¬right → refused i 4) ∧
      (right → Gives i s ((tokensOf bs).foldl (fun s t => s.takeToken q (tokenOf t)) s)) ∧
      (right → bs.length = 16 → h.state = .closed → refused i 4) ∧
      (right → bs.length = 16 → h.state = .bound →
        let w := tokenOf bs
        (s.fedStruck h = true → refused i 9) ∧
        (s.fedStruck h = false → h.credit = 0 → refused i 3) ∧
        (s.fedStruck h = false → h.credit ≠ 0 → w.mark ≠ 3 → h.stream = none → Gives i s (s.modQueue q fun h =>
          { h with credit := h.credit - 1, early := h.early ++ [w] })) ∧
        (s.fedStruck h = false → h.credit ≠ 0 → ∀ to' j, h.stream = some (to', j) →
          let stream (s : State) (f : Ingress → Ingress) : State := s.modPitch to' fun p => { p with ingress := vecMod p.ingress j f }
          let out := stream s fun g => { g with bound := g.bound.filter (· ≠ q) }
          (w.mark ≠ 3 → Gives i s (stream (s.modQueue q fun h => { h with credit := h.credit - 1 }) fun g =>
            { g with words := g.words ++ [(some q, w)] })) ∧
          (w.mark = 3 → s.otherBound q h = true → Gives i s (out.modQueue q fun h => { h with state := .idle, stream := none })) ∧
          (w.mark = 3 → s.otherBound q h = false → Gives i s (stream (out.modQueue q fun h =>
            { h with credit := h.credit - 1, state := .closed }) fun g => { g with words := g.words ++ [(some q, w)] }))))) ∧
    (∀ off bs, q < 65536 → h.state = .idle → ¬(bs.length = 64 ∧ off = 0) → refused (.ingressToken q ⟨off, bs⟩) 4) ∧
    (∀ w, q < 65536 → Gives (.ingressQueueErrClear q w) s (s.modQueue q fun h =>
      let err := h.err &&& ~~~(w.extractLsb' 20 8)
      { h with err := err, state := if h.state = .refused ∧ err = 0 then .idle else h.state
               credit := if h.state = .refused ∧ err = 0 then 256 else h.credit })) ∧
    (∀ e w portal, s.egressHead id k = some (e, w, portal) →
      let op := portal.op.toNat
      let served := ((s.pitch? id).map (·.portal)).getD 0 + k
      let unanswered := s.pitches.foldl (fun n p => p.egress.toList.zipIdx.foldl (fun n x =>
        if p.portal + x.2 = served then n + x.1.pending.length else n) n) 0
      (portal.mode = 2 → w.mark ≠ 3 → 256 ≤ unanswered → Gives (.egressAtomicop id k) s s) ∧
      (e.suppress = 0 →
        let out := eg s fun e => { e with words := e.words.tail, emitted := e.emitted + 1, crc := crcToken e.crc w }
        let ring := eg out fun e => { e with written := e.written + 1, firstHalf := none }
        let request (tag : Byte) (v cmp : DWord) : AtomReq :=
          { tag := tag, op := op, addr := portal.haddr.toNat + atomicSize op * tag.toNat
            v := atomicOperand op v, cmp := atomicOperand op cmp }
        let leaves (half : Option Token) (pending : List AtomReq) : Prop := ∃ v p x, Gives (.egressAtomicop id k) s v ∧ v.mem = s.mem ∧
          v.pitch? id = some p ∧ p.egress[k]? = some x ∧ x.words = e.words.tail ∧ x.emitted = e.emitted + 1 ∧ x.firstHalf = half ∧
          x.pending = pending
        (portal.mode = 1 → Gives (.egressRingWrite id k) s { ring with
          mem := s.mem.putBytes (portal.haddr.toNat + 16 * (e.written % portal.ring.toNat)) (tokenBytes w) }) ∧
        (portal.mode = 2 → w.mark = 3 → Gives (.egressRingWrite id k) s { ring with
          mem := s.mem.putBytes portal.haddr.toNat (tokenBytes w) }) ∧
        (portal.mode = 2 → w.mark ≠ 3 → unanswered < 256 →
          (op < 4 → Gives (.egressAtomicop id k) s (eg out fun e => { e with pending := e.pending ++ [request w.tag w.payload 0] })) ∧
          (4 ≤ op → e.firstHalf = none → leaves (some w) e.pending) ∧
          (∀ f, 4 ≤ op → e.firstHalf = some f → leaves none (e.pending ++ [request f.tag w.payload f.payload])))) ∧
      (e.suppress ≠ 0 →
        let crc := crcToken e.recheck w
        let skips (i : Instr) (cas : Bool) : Prop :=
          let out := eg s fun x => { x with
            words := x.words.tail, suppress := x.suppress - 1, recheck := crc
            firstHalf := if cas && x.firstHalf.isNone then some w else none }
          (e.suppress ≠ 1 ∨ crc = e.goal → Gives i s out) ∧ (e.suppress = 1 → crc ≠ e.goal → Gives i s (out.failPitch id))
        (portal.mode = 1 ∨ portal.mode = 2 ∧ w.mark = 3 → skips (.egressRingWrite id k) false) ∧
        (portal.mode = 2 → w.mark ≠ 3 → unanswered < 256 → skips (.egressAtomicop id k) (decide (4 ≤ op))))) ∧
    (∀ p e a l old, s.pitch? id = some p → p.egress[k]? = some e → e.pending = a :: l →
      let queue := (s.portalOf p k).rq.toNat
      let u := eg s fun e => { e with pending := e.pending.tail }
      Gives (.atomicopCompletion id k old true) s ((u.queueErr queue 7).failPitch id) ∧
      let h := s.hostQueue queue
      let done : State := { u with mem := s.mem.write a.addr (atomicSize a.op) (a.new old) }
      let token : Token := { payload := atomicOperand a.op old, tag := a.tag, mark := 0 }
      let i : Instr := .atomicopCompletion id k old false
      (∀ o j, h.stream = some (o, j) →
        ((∀ x, s.pitch? o = some x → x.state ≠ .struck) → s.pitch? o ≠ none → Gives i s (done.toStream o j [(none, token)])) ∧
        (∀ x, s.pitch? o = some x → x.state = .struck → Gives i s (done.queueErr queue 9))) ∧
      (h.stream = none → h.state = .bound → Gives i s (done.modQueue queue fun h => { h with early := h.early ++ [token] })) ∧
      (h.stream = none → h.state ≠ .bound → Gives i s done)) ∧
    (∀ w, (s.tickSet = false → own = 0 ∨ s.linkUsed = false → Gives (.tsetWrite w) s { s with tset := some w }) ∧
      (s.tickSet = true ∨ own ≠ 0 ∧ s.linkUsed = true → Gives (.tsetWrite w) s s)) ∧
    (let switched (nver : Half) (nbank : Bool) : DWord := topoWord nver nver false nbank nbank
     let now := switched (topoNver s.topo) (topoNbank s.topo)
     (∀ w,
       let arm := topoArm w && topoNbank w != topoBank s.topo && topoNver w != topoVer s.topo
       (arm = false ∨ s.tick < s.swtick → Gives (.topoWrite w) s
         { s with topo := topoWord (topoNver w) (topoVer s.topo) arm (topoNbank w) (topoBank s.topo) }) ∧
       (arm = true → s.swtick ≤ s.tick → Gives (.topoWrite w) s { s with topo := switched (topoNver w) (topoNbank w) })) ∧
     (topoArm s.topo = true → s.swtick ≤ s.tick → Gives .topologySwitch s { s with topo := now }) ∧
     (∀ w, (topoArm s.topo = false ∨ s.tick < w → Gives (.registerWrite r c (.bar0 ⟨0x1008, 8⟩) w) s { s with swtick := w }) ∧
       (topoArm s.topo = true → w ≤ s.tick → Gives (.registerWrite r c (.bar0 ⟨0x1008, 8⟩) w) s { s with swtick := w, topo := now })) ∧
     (s.tset = none ∨ s.tickSet = true →
       (topoArm s.topo = false ∨ s.tick + 1 < s.swtick → Gives (.tickEdge []) s { s with tick := s.tick + 1, tset := none }) ∧
       (topoArm s.topo = true → s.swtick ≤ s.tick + 1 →
         Gives (.tickEdge []) s { s with tick := s.tick + 1, tset := none, topo := now })) ∧
     (∀ w, s.tset = some w → s.tickSet = false → topoArm s.topo = false ∨ w < s.swtick →
       Gives (.tickEdge []) s { s with tick := w, tickSet := true, tset := none })) ∧
    (∀ dst w, (topoArm s.topo = false → topoBank s.topo = true → Gives (.routeBankWrite false dst w) s
        { s with bankA := s.bankA.set dst.toNat (w &&& 0x807F) dst.isLt }) ∧
      (topoArm s.topo = false → topoBank s.topo = false → Gives (.routeBankWrite true dst w) s
        { s with bankB := s.bankB.set dst.toNat (w &&& 0x807F) dst.isLt }) ∧
      ∀ bank, topoArm s.topo = true ∨ bank = topoBank s.topo → Gives (.routeBankWrite bank dst w) s s) ∧
    (port < 96 → Gives (.staleCounterRead ⟨0x11000 + 4 * port, 4⟩) s
      { s.modLink port fun l => { l with stale := 0 } with hostData := (s.portLink port).stale.setWidth 64 }) ∧
    Gives (.staleCounterRead ⟨0x1000, 8⟩) s { s with hostData := s.topo } ∧
    (∀ w : DWord, let bar (off : Nat) (t : State) : Prop := Gives (.registerWrite r c (.bar0 ⟨off, 8⟩) w) s t
      (s.linkTrained = false → Gives (.registerWrite r c (.bar0 ⟨0, 4⟩) w) s { s with modidx := w.setWidth 8 }) ∧
      (s.linkTrained = true → Gives (.registerWrite r c (.bar0 ⟨0, 4⟩) w) s s) ∧
      Gives (.registerWrite r c (.bar0 ⟨4, 4⟩) w) s { s with atomcap := w.setWidth 6 } ∧
      (∀ n, n < 65536 → let e := assocGet ({} : DirEntry) s.directory n
        let put (e : DirEntry) : State := { s with directory := assocPut s.directory n e }
        bar (0x100000 + 16 * n) (put { e with pa := w }) ∧
        bar (0x100008 + 16 * n)
          (put { e with length := w.setWidth 32, portal := (w >>> 32).setWidth 16, valid := w.getLsbD 48 })) ∧
      (∀ n, n < 4096 → let e := assocGet ({} : Portal) s.portals n
        let put (e : Portal) : State := { s with portals := assocPut s.portals n e }
        bar (0x300000 + 32 * n) (put { e with haddr := w }) ∧
        bar (0x300008 + 32 * n) (put
          { e with mode := w.setWidth 8, op := (w >>> 8).setWidth 8, rq := (w >>> 16).setWidth 16, ring := (w >>> 32).setWidth 32 })) ∧
      (∀ off, 0x1010 ≤ off → off < 0x10000 ∨ 0x10400 ≤ off ∧ off < 0x100000 → bar off s)) ∧
    (∀ nonce, Gives (.attestationRequest nonce) s { s with mailbox := { nonce := nonce, control := 1, report := [] } }) ∧
    (s.mailbox.control = 1 → Gives .attestationReportReady s
      { s with mailbox := { s.mailbox with control := 2, report := s.attestation s.mailbox.nonce } }) ∧
    (port < 96 → (s.portLink port).state = .down → Gives (.lightDetected port) s
      { s.modLink port fun l => { l with state := .train } with linkUsed := true }) ∧
    link (.trainLock port) .train (fun l => { l with state := .cal }) ∧
    (let down (l : Link) : Link := { l with state := .down, waiting := [], unacked := [], next := 0, expect := 0 }
     let again (l : Link) : Link := { l with wire := l.wire ++ l.unacked.map fun f => { f with ack := l.expect } }
     let up (trip : Nat) : State := { s.modLink port (fun l => { l with trip := trip }.goUp) with linkTrained := true }
     link (.trainTimeout port) .train down ∧
     (∀ trip, port < 96 → (s.portLink port).state = .cal →
       (∀ tick, s.tickSet = true ∨ own = 0 → Gives (.calibration port trip (some tick)) s (up trip)) ∧
       Gives (.calibration port trip none) s (up trip) ∧
       (∀ tick, s.tickSet = false → own ≠ 0 → topoArm s.topo = false → Gives (.calibration port trip (some tick)) s
         { up trip with tick := tick + BitVec.ofNat 64 ((trip + 63) / 64), tickSet := true })) ∧
     link (.crcFailureBurst port) .up (fun l => { l with state := .retrain }) ∧
     link (.speoshLinkTimeout port) .up (fun l => { l with state := .retrain }) ∧
     link (.retrainLock port) .retrain (fun l => (again l).goUp) ∧
     link (.flitReplay port) .up again ∧
     ((s.portLink port).waiting = [] → (s.portLink port).unacked.length < 512 → link (.speoshBeacon port) .up fun l =>
       let f : Flit := { seq := l.next, ack := l.expect, part := 0
                         pkt := { ver := topoVer s.topo, dst := own, src := own, body := .beacon s.tick port } }
       { l with next := l.next + 1, unacked := l.unacked ++ [f], wire := l.wire ++ [f] }) ∧
     (port < 96 → (s.portLink port).state = .retrain →
       let far (m : Nat) : Bool := s.routeTo m == some port
       let hit (q : Plan) : Bool := (q.legModules own).any far
       Gives (.retrainTimeout port) s (((s.modLink port down).loseModules far hit).postNamed none 4 port 0
         ((s.pitches.filter fun p => p.active && p.plans.any fun q => q.present && hit q).map (·.id))))) ∧
    (∀ f : Flit, port < 96 → (s.portLink port).state = .up → f.good = true →
      let i : Instr := .speoshPacketReceive port f
      let l := s.portLink port
      let got := s.modLink port fun l => l.take f
      let src := f.pkt.src
      let u : State := { got with silentModules := s.silentModules.filter (· ≠ src) }
      let due := f.seq = l.expect ∧ f.part = f.pkt.body.len
      let old := versioned f.pkt.body = true ∧ f.pkt.ver ≠ topoVer s.topo
      let mine := f.pkt.dst = own
      let stale := u.modLink port fun l => { l with stale := if l.stale = 0xFFFFFFFF then l.stale else l.stale + 1 }
      let answered (m : UserMsg) : State := ({ u with abroad := u.abroad.erase m } : State).countDone m.src.rank m.src
      (l.take f).expect = (if f.seq = l.expect then l.expect + 1 else l.expect) ∧
      (∀ a t, l.unacked = a :: t → l.waiting = [] → (f.ack - a.seq).toNat ≤ l.unacked.length →
        (l.take f).unacked = l.unacked.drop (f.ack - a.seq).toNat) ∧
      (¬due → Gives i s got) ∧
      (due → old →
        (∀ m x, f.pkt.body = .message m x → Gives i s (stale.nackUser m 0x04)) ∧
        (∀ x y b t v g pt, f.pkt.body = .reply x y b t v g pt → Gives i s stale) ∧
        (∀ cfg m, f.pkt.body = .plan cfg m → Gives i s (stale.sendPacket src (.homeNack cfg f.pkt.dst m))) ∧
        (∀ cfg key, (∃ n x y t d pt, f.pkt.body = .partialSum cfg key n x y t d pt) ∨ (∃ n t d pt, f.pkt.body = .delivery cfg key n t d pt) →
          (¬mine ∨ stale.remotePlan cfg key = none → Gives i s (stale.sendPacket src (.planNack cfg key 3))) ∧
          (∀ o p, mine → stale.remotePlan cfg key = some (o, p) →
            Gives i s ((stale.failPlan o p 3).sendPacket src (.planNack cfg key 3))))) ∧
      (due → ¬old → ¬mine → f.pkt.body.kind ≠ 5 →
        (u.routeTo f.pkt.dst = none → Gives i s u) ∧
        (∀ o, u.routeTo f.pkt.dst = some o → Gives i s (u.modLink o fun l => l.push f.pkt))) ∧
      (due → (∃ tick n, f.pkt.body = .beacon tick n) → Gives i s (u.modLink port fun l => { l with peerVer := f.pkt.ver })) ∧
      (due → ¬old → mine →
        (∀ m x, f.pkt.body = .message m x →
          (s.ranked ≤ x → Gives i s (u.nackUser m 0x03)) ∧
          (x < s.ranked → s.carries x m.src = false → Gives i s (u.modTile x fun t => t.arrive (.user m))) ∧
          (x < s.ranked → s.carries x m.src = true → Gives i s ((u.modTile x fun t => t.arrive (.user m)).modTile x fun t =>
            { t with msgSent := t.msgSent + 1 }))) ∧
        (∀ x y b t v g pt, f.pkt.body = .reply x y b t v g pt →
          (u.awaited x y t = none → Gives i s u) ∧
          (∀ m, u.awaited x y t = some m → b = true → Gives i s ((answered m).modTile x fun z =>
            { z with replies := z.replies ++ [⟨y, t, v, pt⟩] })) ∧
          (∀ m, u.awaited x y t = some m → b = false → Gives i s ((answered m).modCtx x y fun c =>
            { c.meet pt with postedMsgs := c.postedMsgs.erase (msgTarget own g) }))) ∧
        (∀ m d, f.pkt.body = .nack m d →
          (u.awaited m.src.rank m.src.ctx m.tag = none → Gives i s u) ∧
          (∀ o, u.awaited m.src.rank m.src.ctx m.tag = some o → Gives i s ((answered o).modTile o.src.rank fun t =>
            { t with nacks := t.nacks ++ [.user o d] }))) ∧
        (∀ cfg key cause, f.pkt.body = .planNack cfg key cause →
          (u.remotePlan cfg key = none → Gives i s u) ∧
          (∀ o p, u.remotePlan cfg key = some (o, p) → Gives i s (u.failPlan o p cause))) ∧
        (∀ cfg m to', f.pkt.body = .homeNack cfg to' m →
          (u.stillSays to' cfg m = true → Gives i s (u.sendPacket to' (.plan cfg m))) ∧ (u.stillSays to' cfg m = false → Gives i s u)) ∧
        (∀ cfg m, f.pkt.body = .plan cfg m → Gives i s (u.told src cfg m)) ∧
        (∀ cfg key firing, (∃ x y t d pt, f.pkt.body = .partialSum cfg key firing x y t d pt) ∨
            (∃ t d pt, f.pkt.body = .delivery cfg key firing t d pt) →
          (u.remotePlan cfg key = none → Gives i s (u.sendPacket src (.planNack cfg key 6))) ∧
          ∀ o p, u.remotePlan cfg key = some (o, p) → (u.pitch? o).bind (fun x => x.plan? key) = some p →
            (p.failed = true ∨ firing < p.firing → Gives i s u) ∧
            (p.failed = false → firing = p.firing → p.arriving = [] →
              let becomes (c : Plan → Prop) : Prop := ∃ v p', Gives i s v ∧ v.mem = s.mem ∧ (∀ x, v.tile x = s.tile x) ∧
                (v.pitch? o).bind (fun x => x.plan? key) = some p' ∧ c p'
              (∀ x y t d pt, f.pkt.body = .partialSum cfg key firing x y t d pt → t = d.length →
                ¬(x = 0 ∧ y = p.parts.length) → ¬(y = p.wholeSpan x ∧ p.modOf (parentOf x) ≠ own) →
                becomes fun p' => p'.partials = p.partials ++ [⟨x, y, d⟩] ∧ p'.result = p.result) ∧
              (∀ t d pt, f.pkt.body = .delivery cfg key firing t d pt → t = d.length → becomes fun p' =>
                p'.signalsDue = p.ranksOn own ∧ (t ≠ 0 → p'.result = some d ∧ p'.pubDue = p.buffer.isSome ∧
                  p'.writesDue = if p.reduce then (p.ranksOn own).take 1 else p.ranksOn own)))))) ∧
    (∀ m, m ≠ own → m < 256 → m ∉ s.silentModules →
      let hit (q : Plan) : Bool := (q.others own).any fun x => x == m
      let u : State := { s with silentModules := insertNat s.silentModules m }
      Gives (.moduleTimeout m) s ((u.loseModules (fun x => x == m) hit).postNamed none 5 m 0
        ((s.pitches.filter fun p => p.active && p.plans.any fun q => q.present && hit q).map (·.id)))) ∧
    (∀ m, m < 256 → Gives (.podMemberTimeout m) s { s with jobFailed := true }) ∧
    (∀ (dir : BitVec 2) n, r < s.ranked → s.neighbour r dir.toNat = some n →
      Gives (.meshBeacon r dir) s (s.modTile r fun t => { t with beacons := vecMod t.beacons dir.toNat (· + 1) }) ∧
      ((s.tile r).meshDown.getLsbD dir.toNat = false →
        let l : LinkDir := (s.xOf n, s.yOf n, (dir.toNat + 2) % 4)
        let down (s : State) : State := s.modTile r fun t => { t with meshDown := t.meshDown ||| (1 <<< dir.toNat) }
        (s.pitches = [] → Gives (.meshLinkTimeout r dir) s (down s)) ∧
        (∀ p, s.pitches = [p] → p.active = true → p.plans = [] →
          (p.crosses l.1 l.2.1 l.2.2 = true → Gives (.meshLinkTimeout r dir) s ((down s).postNamed (some r) 1 r dir.toNat [p.id])) ∧
          (p.crosses l.1 l.2.1 l.2.2 = false → Gives (.meshLinkTimeout r dir) s (down s))) ∧
        (∀ p o, s.pitches = [p] → p.active = true → p.plans = [o] → o.present = true → s.legCrosses o l = true →
          Gives (.meshLinkTimeout r dir) s ((down (s.failPlan p.id o 2)).postNamed (some r) 1 r dir.toNat [p.id])))) ∧
    (let needs (s : State) : List PitchId := (s.pitches.filter fun p => p.active && (p.covers (s.xOf r) (s.yOf r) ||
        s.homedAt p (· == r) || p.plans.any fun q => q.present && s.legThrough q (s.xOf r, s.yOf r))).map (·.id)
     let fails (s : State) : State := (s.modTile r fun t =>
       { t with strikeDue := if t.struck = true ∨ t.strikeDue.isSome = true then t.strikeDue else some 0x33 }).postNamed (some r) 2 r 0
         (needs s)
     let out (s : State) : State := fails (s.modTile r fun t => { t with
       s := { t.s with run := .stopped }, c := { t.c with run := .stopped }, m := { t.m with run := .stopped }, clock := .out })
     let clocks (s : State) (old new : Clock) : State := (s.subtree r).foldl (fun v x => v.modTile x fun t =>
       { t with clock := if t.clock = old then new else t.clock }) s
     (r < s.ranked → (s.tile r).struck = false → (s.tile r).strikeDue = none → Gives (.routerTimeout r) s (fails s)) ∧
     (r < s.ranked → (s.tile r).clock = .good →
       let u := clocks s .good .hold
       let held := ∃ a, s.clockSource r = some a ∧ ((s.tile a).clock = .hold ∨ (s.tile a).clock = .realigning)
       Gives (.holdAsserted r) s u ∧ Gives (.outOfTime r) s (out s) ∧
       (held → Gives (.clockSourceLoss r) s s) ∧
       (¬held →
         (∀ d, (u.nextSources r).find? (u.canFeed r) = some d → Gives (.clockSourceLoss r) s (u.modTile r fun t =>
           { t with clock := .realigning, clkCur := some (BitVec.ofNat 2 d), clkEvt := t.clkEvt + 1 })) ∧
         ((u.nextSources r).find? (u.canFeed r) = none → Gives (.clockSourceLoss r) s (out u)))) ∧
     ((s.tile r).clock = .realigning →
       Gives (.clockRealigned r) s (clocks (s.modTile r fun t => { t with clock := .good }) .hold .good))) ∧
    (∀ f, f < 48 → (s.field f).manager = true → Gives (.fieldManagerTimeout f) s
      ((s.modField f fun g => { g with manager := false }).postNamed none 3 f 0 ((s.pitches.filter fun p => p.active &&
        ((s.region p).any (fun r => s.fieldOf r == f) || s.homedAt p fun r => s.fieldOf r == f)).map (·.id))))

/-! ## What every step keeps -/

/-- R14, R252, R262, R197, R224 (the model's form of every store of bytes, log 3): a step from a state whose memory, accumulators and
summary registers, those of saved nodes too, are in canonical form answers, where it answers a next state, one in which they are. -/
def Obligations.StepKeepsMemoryCanonical : Prop :=
  ∀ (s t : State), s.Canonical → step s = .next t → t.Canonical
end

