-- ==== Sys2Proof/Laws/State.lean ====
section
/-! SUPPORT. One lemma per field per update of the state, a tile and a context. -/

namespace Sys2Proof.Machine


/-! ## Updates of the state -/

@[simp] theorem State.setTile_mem (s : State) (r : Nat) (t : Tile) : (s.setTile r t).mem = s.mem := rfl
@[simp] theorem State.setTile_poison (s : State) (r : Nat) (t : Tile) : (s.setTile r t).poison = s.poison := rfl
@[simp] theorem State.setTile_marks (s : State) (r : Nat) (t : Tile) : (s.setTile r t).marks = s.marks := rfl
@[simp] theorem State.setTile_fields (s : State) (r : Nat) (t : Tile) : (s.setTile r t).fields = s.fields := rfl
@[simp] theorem State.setTile_pitches (s : State) (r : Nat) (t : Tile) : (s.setTile r t).pitches = s.pitches := rfl
@[simp] theorem State.setTile_agenda (s : State) (r : Nat) (t : Tile) : (s.setTile r t).agenda = s.agenda := rfl
@[simp] theorem State.setTile_focus (s : State) (r : Nat) (t : Tile) : (s.setTile r t).focus = s.focus := rfl
@[simp] theorem State.setTile_free (s : State) (r : Nat) (t : Tile) : (s.setTile r t).free = s.free := rfl
@[simp] theorem State.setTile_reqs (s : State) (r : Nat) (t : Tile) : (s.setTile r t).reqs = s.reqs := rfl
@[simp] theorem State.setTile_events (s : State) (r : Nat) (t : Tile) : (s.setTile r t).events = s.events := rfl
@[simp] theorem State.setTile_tick (s : State) (r : Nat) (t : Tile) : (s.setTile r t).tick = s.tick := rfl
@[simp] theorem State.setTile_tickSet (s : State) (r : Nat) (t : Tile) : (s.setTile r t).tickSet = s.tickSet := rfl
@[simp] theorem State.setTile_tset (s : State) (r : Nat) (t : Tile) : (s.setTile r t).tset = s.tset := rfl
@[simp] theorem State.setTile_dead (s : State) (r : Nat) (t : Tile) : (s.setTile r t).dead = s.dead := rfl
@[simp] theorem State.setTile_struckTiles (s : State) (r : Nat) (t : Tile) : (s.setTile r t).struckTiles = s.struckTiles := rfl
@[simp] theorem State.setTile_retired (s : State) (r : Nat) (t : Tile) : (s.setTile r t).retired = s.retired := rfl
@[simp] theorem State.setTile_vacant (s : State) (r : Nat) (t : Tile) : (s.setTile r t).vacant = s.vacant := rfl
@[simp] theorem State.setTile_vacated (s : State) (r : Nat) (t : Tile) : (s.setTile r t).vacated = s.vacated := rfl
@[simp] theorem State.setTile_shipped (s : State) (r : Nat) (t : Tile) : (s.setTile r t).shipped = s.shipped := rfl
@[simp] theorem State.setTile_shippedRanked (s : State) (r : Nat) (t : Tile) : (s.setTile r t).shippedRanked = s.shippedRanked := rfl
@[simp] theorem State.setTile_standby (s : State) (r : Nat) (t : Tile) : (s.setTile r t).standby = s.standby := rfl
@[simp] theorem State.setTile_attestKeyLoads (s : State) (r : Nat) (t : Tile) : (s.setTile r t).attestKeyLoads = s.attestKeyLoads := rfl
@[simp] theorem State.setTile_images (s : State) (r : Nat) (t : Tile) : (s.setTile r t).images = s.images := rfl
@[simp] theorem State.setTile_directory (s : State) (r : Nat) (t : Tile) : (s.setTile r t).directory = s.directory := rfl
@[simp] theorem State.setTile_launches (s : State) (r : Nat) (t : Tile) : (s.setTile r t).launches = s.launches := rfl
@[simp] theorem State.setTile_classes (s : State) (r : Nat) (t : Tile) : (s.setTile r t).classes = s.classes := rfl
@[simp] theorem State.setTile_rotor (s : State) (r : Nat) (t : Tile) : (s.setTile r t).rotor = s.rotor := rfl
@[simp] theorem State.setTile_born (s : State) (r : Nat) (t : Tile) : (s.setTile r t).born = s.born := rfl
@[simp] theorem State.setTile_queues (s : State) (r : Nat) (t : Tile) : (s.setTile r t).queues = s.queues := rfl
@[simp] theorem State.setTile_portals (s : State) (r : Nat) (t : Tile) : (s.setTile r t).portals = s.portals := rfl
@[simp] theorem State.setTile_atomcap (s : State) (r : Nat) (t : Tile) : (s.setTile r t).atomcap = s.atomcap := rfl
@[simp] theorem State.setTile_modidx (s : State) (r : Nat) (t : Tile) : (s.setTile r t).modidx = s.modidx := rfl
@[simp] theorem State.setTile_hostRecords (s : State) (r : Nat) (t : Tile) : (s.setTile r t).hostRecords = s.hostRecords := rfl
@[simp] theorem State.setTile_msix (s : State) (r : Nat) (t : Tile) : (s.setTile r t).msix = s.msix := rfl
@[simp] theorem State.setTile_hostData (s : State) (r : Nat) (t : Tile) : (s.setTile r t).hostData = s.hostData := rfl
@[simp] theorem State.setTile_topo (s : State) (r : Nat) (t : Tile) : (s.setTile r t).topo = s.topo := rfl
@[simp] theorem State.setTile_swtick (s : State) (r : Nat) (t : Tile) : (s.setTile r t).swtick = s.swtick := rfl
@[simp] theorem State.setTile_bankA (s : State) (r : Nat) (t : Tile) : (s.setTile r t).bankA = s.bankA := rfl
@[simp] theorem State.setTile_bankB (s : State) (r : Nat) (t : Tile) : (s.setTile r t).bankB = s.bankB := rfl
@[simp] theorem State.setTile_links (s : State) (r : Nat) (t : Tile) : (s.setTile r t).links = s.links := rfl
@[simp] theorem State.setTile_linkUsed (s : State) (r : Nat) (t : Tile) : (s.setTile r t).linkUsed = s.linkUsed := rfl
@[simp] theorem State.setTile_linkTrained (s : State) (r : Nat) (t : Tile) : (s.setTile r t).linkTrained = s.linkTrained := rfl
@[simp] theorem State.setTile_mailbox (s : State) (r : Nat) (t : Tile) : (s.setTile r t).mailbox = s.mailbox := rfl
@[simp] theorem State.setTile_refreshes (s : State) (r : Nat) (t : Tile) : (s.setTile r t).refreshes = s.refreshes := rfl
@[simp] theorem State.setTile_refreshBase (s : State) (r : Nat) (t : Tile) : (s.setTile r t).refreshBase = s.refreshBase := rfl
@[simp] theorem State.setTile_refreshSpan (s : State) (r : Nat) (t : Tile) : (s.setTile r t).refreshSpan = s.refreshSpan := rfl
@[simp] theorem State.setTile_tier2 (s : State) (r : Nat) (t : Tile) : (s.setTile r t).tier2 = s.tier2 := rfl
@[simp] theorem State.setTile_tier2Down (s : State) (r : Nat) (t : Tile) : (s.setTile r t).tier2Down = s.tier2Down := rfl
@[simp] theorem State.setTile_abroad (s : State) (r : Nat) (t : Tile) : (s.setTile r t).abroad = s.abroad := rfl
@[simp] theorem State.setTile_silentModules (s : State) (r : Nat) (t : Tile) : (s.setTile r t).silentModules = s.silentModules := rfl
@[simp] theorem State.setTile_jobFailed (s : State) (r : Nat) (t : Tile) : (s.setTile r t).jobFailed = s.jobFailed := rfl
@[simp] theorem State.modTile_mem (s : State) (r : Nat) (f : Tile → Tile) : (s.modTile r f).mem = s.mem := rfl
@[simp] theorem State.modTile_poison (s : State) (r : Nat) (f : Tile → Tile) : (s.modTile r f).poison = s.poison := rfl
@[simp] theorem State.modTile_marks (s : State) (r : Nat) (f : Tile → Tile) : (s.modTile r f).marks = s.marks := rfl
@[simp] theorem State.modTile_fields (s : State) (r : Nat) (f : Tile → Tile) : (s.modTile r f).fields = s.fields := rfl
@[simp] theorem State.modTile_pitches (s : State) (r : Nat) (f : Tile → Tile) : (s.modTile r f).pitches = s.pitches := rfl
@[simp] theorem State.modTile_agenda (s : State) (r : Nat) (f : Tile → Tile) : (s.modTile r f).agenda = s.agenda := rfl
@[simp] theorem State.modTile_focus (s : State) (r : Nat) (f : Tile → Tile) : (s.modTile r f).focus = s.focus := rfl
@[simp] theorem State.modTile_free (s : State) (r : Nat) (f : Tile → Tile) : (s.modTile r f).free = s.free := rfl
@[simp] theorem State.modTile_reqs (s : State) (r : Nat) (f : Tile → Tile) : (s.modTile r f).reqs = s.reqs := rfl
@[simp] theorem State.modTile_events (s : State) (r : Nat) (f : Tile → Tile) : (s.modTile r f).events = s.events := rfl
@[simp] theorem State.modTile_tick (s : State) (r : Nat) (f : Tile → Tile) : (s.modTile r f).tick = s.tick := rfl
@[simp] theorem State.modTile_tickSet (s : State) (r : Nat) (f : Tile → Tile) : (s.modTile r f).tickSet = s.tickSet := rfl
@[simp] theorem State.modTile_tset (s : State) (r : Nat) (f : Tile → Tile) : (s.modTile r f).tset = s.tset := rfl
@[simp] theorem State.modTile_dead (s : State) (r : Nat) (f : Tile → Tile) : (s.modTile r f).dead = s.dead := rfl
@[simp] theorem State.modTile_struckTiles (s : State) (r : Nat) (f : Tile → Tile) : (s.modTile r f).struckTiles = s.struckTiles := rfl
@[simp] theorem State.modTile_retired (s : State) (r : Nat) (f : Tile → Tile) : (s.modTile r f).retired = s.retired := rfl
@[simp] theorem State.modTile_vacant (s : State) (r : Nat) (f : Tile → Tile) : (s.modTile r f).vacant = s.vacant := rfl
@[simp] theorem State.modTile_vacated (s : State) (r : Nat) (f : Tile → Tile) : (s.modTile r f).vacated = s.vacated := rfl
@[simp] theorem State.modTile_shipped (s : State) (r : Nat) (f : Tile → Tile) : (s.modTile r f).shipped = s.shipped := rfl
@[simp] theorem State.modTile_shippedRanked (s : State) (r : Nat) (f : Tile → Tile) : (s.modTile r f).shippedRanked = s.shippedRanked := rfl
@[simp] theorem State.modTile_standby (s : State) (r : Nat) (f : Tile → Tile) : (s.modTile r f).standby = s.standby := rfl
@[simp] theorem State.modTile_attestKeyLoads (s : State) (r : Nat) (f : Tile → Tile) : (s.modTile r f).attestKeyLoads = s.attestKeyLoads := rfl
@[simp] theorem State.modTile_images (s : State) (r : Nat) (f : Tile → Tile) : (s.modTile r f).images = s.images := rfl
@[simp] theorem State.modTile_directory (s : State) (r : Nat) (f : Tile → Tile) : (s.modTile r f).directory = s.directory := rfl
@[simp] theorem State.modTile_launches (s : State) (r : Nat) (f : Tile → Tile) : (s.modTile r f).launches = s.launches := rfl
@[simp] theorem State.modTile_classes (s : State) (r : Nat) (f : Tile → Tile) : (s.modTile r f).classes = s.classes := rfl
@[simp] theorem State.modTile_rotor (s : State) (r : Nat) (f : Tile → Tile) : (s.modTile r f).rotor = s.rotor := rfl
@[simp] theorem State.modTile_born (s : State) (r : Nat) (f : Tile → Tile) : (s.modTile r f).born = s.born := rfl
@[simp] theorem State.modTile_queues (s : State) (r : Nat) (f : Tile → Tile) : (s.modTile r f).queues = s.queues := rfl
@[simp] theorem State.modTile_portals (s : State) (r : Nat) (f : Tile → Tile) : (s.modTile r f).portals = s.portals := rfl
@[simp] theorem State.modTile_atomcap (s : State) (r : Nat) (f : Tile → Tile) : (s.modTile r f).atomcap = s.atomcap := rfl
@[simp] theorem State.modTile_modidx (s : State) (r : Nat) (f : Tile → Tile) : (s.modTile r f).modidx = s.modidx := rfl
@[simp] theorem State.modTile_hostRecords (s : State) (r : Nat) (f : Tile → Tile) : (s.modTile r f).hostRecords = s.hostRecords := rfl
@[simp] theorem State.modTile_msix (s : State) (r : Nat) (f : Tile → Tile) : (s.modTile r f).msix = s.msix := rfl
@[simp] theorem State.modTile_hostData (s : State) (r : Nat) (f : Tile → Tile) : (s.modTile r f).hostData = s.hostData := rfl
@[simp] theorem State.modTile_topo (s : State) (r : Nat) (f : Tile → Tile) : (s.modTile r f).topo = s.topo := rfl
@[simp] theorem State.modTile_swtick (s : State) (r : Nat) (f : Tile → Tile) : (s.modTile r f).swtick = s.swtick := rfl
@[simp] theorem State.modTile_bankA (s : State) (r : Nat) (f : Tile → Tile) : (s.modTile r f).bankA = s.bankA := rfl
@[simp] theorem State.modTile_bankB (s : State) (r : Nat) (f : Tile → Tile) : (s.modTile r f).bankB = s.bankB := rfl
@[simp] theorem State.modTile_links (s : State) (r : Nat) (f : Tile → Tile) : (s.modTile r f).links = s.links := rfl
@[simp] theorem State.modTile_linkUsed (s : State) (r : Nat) (f : Tile → Tile) : (s.modTile r f).linkUsed = s.linkUsed := rfl
@[simp] theorem State.modTile_linkTrained (s : State) (r : Nat) (f : Tile → Tile) : (s.modTile r f).linkTrained = s.linkTrained := rfl
@[simp] theorem State.modTile_mailbox (s : State) (r : Nat) (f : Tile → Tile) : (s.modTile r f).mailbox = s.mailbox := rfl
@[simp] theorem State.modTile_refreshes (s : State) (r : Nat) (f : Tile → Tile) : (s.modTile r f).refreshes = s.refreshes := rfl
@[simp] theorem State.modTile_refreshBase (s : State) (r : Nat) (f : Tile → Tile) : (s.modTile r f).refreshBase = s.refreshBase := rfl
@[simp] theorem State.modTile_refreshSpan (s : State) (r : Nat) (f : Tile → Tile) : (s.modTile r f).refreshSpan = s.refreshSpan := rfl
@[simp] theorem State.modTile_tier2 (s : State) (r : Nat) (f : Tile → Tile) : (s.modTile r f).tier2 = s.tier2 := rfl
@[simp] theorem State.modTile_tier2Down (s : State) (r : Nat) (f : Tile → Tile) : (s.modTile r f).tier2Down = s.tier2Down := rfl
@[simp] theorem State.modTile_abroad (s : State) (r : Nat) (f : Tile → Tile) : (s.modTile r f).abroad = s.abroad := rfl
@[simp] theorem State.modTile_silentModules (s : State) (r : Nat) (f : Tile → Tile) : (s.modTile r f).silentModules = s.silentModules := rfl
@[simp] theorem State.modTile_jobFailed (s : State) (r : Nat) (f : Tile → Tile) : (s.modTile r f).jobFailed = s.jobFailed := rfl
@[simp] theorem State.modCtx_mem (s : State) (r : Nat) (i : CtxId) (f : Ctx → Ctx) : (s.modCtx r i f).mem = s.mem := rfl
@[simp] theorem State.modCtx_poison (s : State) (r : Nat) (i : CtxId) (f : Ctx → Ctx) : (s.modCtx r i f).poison = s.poison := rfl
@[simp] theorem State.modCtx_marks (s : State) (r : Nat) (i : CtxId) (f : Ctx → Ctx) : (s.modCtx r i f).marks = s.marks := rfl
@[simp] theorem State.modCtx_fields (s : State) (r : Nat) (i : CtxId) (f : Ctx → Ctx) : (s.modCtx r i f).fields = s.fields := rfl
@[simp] theorem State.modCtx_pitches (s : State) (r : Nat) (i : CtxId) (f : Ctx → Ctx) : (s.modCtx r i f).pitches = s.pitches := rfl
@[simp] theorem State.modCtx_agenda (s : State) (r : Nat) (i : CtxId) (f : Ctx → Ctx) : (s.modCtx r i f).agenda = s.agenda := rfl
@[simp] theorem State.modCtx_focus (s : State) (r : Nat) (i : CtxId) (f : Ctx → Ctx) : (s.modCtx r i f).focus = s.focus := rfl
@[simp] theorem State.modCtx_free (s : State) (r : Nat) (i : CtxId) (f : Ctx → Ctx) : (s.modCtx r i f).free = s.free := rfl
@[simp] theorem State.modCtx_reqs (s : State) (r : Nat) (i : CtxId) (f : Ctx → Ctx) : (s.modCtx r i f).reqs = s.reqs := rfl
@[simp] theorem State.modCtx_events (s : State) (r : Nat) (i : CtxId) (f : Ctx → Ctx) : (s.modCtx r i f).events = s.events := rfl
@[simp] theorem State.modCtx_tick (s : State) (r : Nat) (i : CtxId) (f : Ctx → Ctx) : (s.modCtx r i f).tick = s.tick := rfl
@[simp] theorem State.modCtx_tickSet (s : State) (r : Nat) (i : CtxId) (f : Ctx → Ctx) : (s.modCtx r i f).tickSet = s.tickSet := rfl
@[simp] theorem State.modCtx_tset (s : State) (r : Nat) (i : CtxId) (f : Ctx → Ctx) : (s.modCtx r i f).tset = s.tset := rfl
@[simp] theorem State.modCtx_dead (s : State) (r : Nat) (i : CtxId) (f : Ctx → Ctx) : (s.modCtx r i f).dead = s.dead := rfl
@[simp] theorem State.modCtx_struckTiles (s : State) (r : Nat) (i : CtxId) (f : Ctx → Ctx) : (s.modCtx r i f).struckTiles = s.struckTiles := rfl
@[simp] theorem State.modCtx_retired (s : State) (r : Nat) (i : CtxId) (f : Ctx → Ctx) : (s.modCtx r i f).retired = s.retired := rfl
@[simp] theorem State.modCtx_vacant (s : State) (r : Nat) (i : CtxId) (f : Ctx → Ctx) : (s.modCtx r i f).vacant = s.vacant := rfl
@[simp] theorem State.modCtx_vacated (s : State) (r : Nat) (i : CtxId) (f : Ctx → Ctx) : (s.modCtx r i f).vacated = s.vacated := rfl
@[simp] theorem State.modCtx_shipped (s : State) (r : Nat) (i : CtxId) (f : Ctx → Ctx) : (s.modCtx r i f).shipped = s.shipped := rfl
@[simp] theorem State.modCtx_shippedRanked (s : State) (r : Nat) (i : CtxId) (f : Ctx → Ctx) : (s.modCtx r i f).shippedRanked = s.shippedRanked := rfl
@[simp] theorem State.modCtx_standby (s : State) (r : Nat) (i : CtxId) (f : Ctx → Ctx) : (s.modCtx r i f).standby = s.standby := rfl
@[simp] theorem State.modCtx_attestKeyLoads (s : State) (r : Nat) (i : CtxId) (f : Ctx → Ctx) : (s.modCtx r i f).attestKeyLoads = s.attestKeyLoads := rfl
@[simp] theorem State.modCtx_images (s : State) (r : Nat) (i : CtxId) (f : Ctx → Ctx) : (s.modCtx r i f).images = s.images := rfl
@[simp] theorem State.modCtx_directory (s : State) (r : Nat) (i : CtxId) (f : Ctx → Ctx) : (s.modCtx r i f).directory = s.directory := rfl
@[simp] theorem State.modCtx_launches (s : State) (r : Nat) (i : CtxId) (f : Ctx → Ctx) : (s.modCtx r i f).launches = s.launches := rfl
@[simp] theorem State.modCtx_classes (s : State) (r : Nat) (i : CtxId) (f : Ctx → Ctx) : (s.modCtx r i f).classes = s.classes := rfl
@[simp] theorem State.modCtx_rotor (s : State) (r : Nat) (i : CtxId) (f : Ctx → Ctx) : (s.modCtx r i f).rotor = s.rotor := rfl
@[simp] theorem State.modCtx_born (s : State) (r : Nat) (i : CtxId) (f : Ctx → Ctx) : (s.modCtx r i f).born = s.born := rfl
@[simp] theorem State.modCtx_queues (s : State) (r : Nat) (i : CtxId) (f : Ctx → Ctx) : (s.modCtx r i f).queues = s.queues := rfl
@[simp] theorem State.modCtx_portals (s : State) (r : Nat) (i : CtxId) (f : Ctx → Ctx) : (s.modCtx r i f).portals = s.portals := rfl
@[simp] theorem State.modCtx_atomcap (s : State) (r : Nat) (i : CtxId) (f : Ctx → Ctx) : (s.modCtx r i f).atomcap = s.atomcap := rfl
@[simp] theorem State.modCtx_modidx (s : State) (r : Nat) (i : CtxId) (f : Ctx → Ctx) : (s.modCtx r i f).modidx = s.modidx := rfl
@[simp] theorem State.modCtx_hostRecords (s : State) (r : Nat) (i : CtxId) (f : Ctx → Ctx) : (s.modCtx r i f).hostRecords = s.hostRecords := rfl
@[simp] theorem State.modCtx_msix (s : State) (r : Nat) (i : CtxId) (f : Ctx → Ctx) : (s.modCtx r i f).msix = s.msix := rfl
@[simp] theorem State.modCtx_hostData (s : State) (r : Nat) (i : CtxId) (f : Ctx → Ctx) : (s.modCtx r i f).hostData = s.hostData := rfl
@[simp] theorem State.modCtx_topo (s : State) (r : Nat) (i : CtxId) (f : Ctx → Ctx) : (s.modCtx r i f).topo = s.topo := rfl
@[simp] theorem State.modCtx_swtick (s : State) (r : Nat) (i : CtxId) (f : Ctx → Ctx) : (s.modCtx r i f).swtick = s.swtick := rfl
@[simp] theorem State.modCtx_bankA (s : State) (r : Nat) (i : CtxId) (f : Ctx → Ctx) : (s.modCtx r i f).bankA = s.bankA := rfl
@[simp] theorem State.modCtx_bankB (s : State) (r : Nat) (i : CtxId) (f : Ctx → Ctx) : (s.modCtx r i f).bankB = s.bankB := rfl
@[simp] theorem State.modCtx_links (s : State) (r : Nat) (i : CtxId) (f : Ctx → Ctx) : (s.modCtx r i f).links = s.links := rfl
@[simp] theorem State.modCtx_linkUsed (s : State) (r : Nat) (i : CtxId) (f : Ctx → Ctx) : (s.modCtx r i f).linkUsed = s.linkUsed := rfl
@[simp] theorem State.modCtx_linkTrained (s : State) (r : Nat) (i : CtxId) (f : Ctx → Ctx) : (s.modCtx r i f).linkTrained = s.linkTrained := rfl
@[simp] theorem State.modCtx_mailbox (s : State) (r : Nat) (i : CtxId) (f : Ctx → Ctx) : (s.modCtx r i f).mailbox = s.mailbox := rfl
@[simp] theorem State.modCtx_refreshes (s : State) (r : Nat) (i : CtxId) (f : Ctx → Ctx) : (s.modCtx r i f).refreshes = s.refreshes := rfl
@[simp] theorem State.modCtx_refreshBase (s : State) (r : Nat) (i : CtxId) (f : Ctx → Ctx) : (s.modCtx r i f).refreshBase = s.refreshBase := rfl
@[simp] theorem State.modCtx_refreshSpan (s : State) (r : Nat) (i : CtxId) (f : Ctx → Ctx) : (s.modCtx r i f).refreshSpan = s.refreshSpan := rfl
@[simp] theorem State.modCtx_tier2 (s : State) (r : Nat) (i : CtxId) (f : Ctx → Ctx) : (s.modCtx r i f).tier2 = s.tier2 := rfl
@[simp] theorem State.modCtx_tier2Down (s : State) (r : Nat) (i : CtxId) (f : Ctx → Ctx) : (s.modCtx r i f).tier2Down = s.tier2Down := rfl
@[simp] theorem State.modCtx_abroad (s : State) (r : Nat) (i : CtxId) (f : Ctx → Ctx) : (s.modCtx r i f).abroad = s.abroad := rfl
@[simp] theorem State.modCtx_silentModules (s : State) (r : Nat) (i : CtxId) (f : Ctx → Ctx) : (s.modCtx r i f).silentModules = s.silentModules := rfl
@[simp] theorem State.modCtx_jobFailed (s : State) (r : Nat) (i : CtxId) (f : Ctx → Ctx) : (s.modCtx r i f).jobFailed = s.jobFailed := rfl
@[simp] theorem State.modHere_mem (s : State) (f : Tile → Tile) : (s.modHere f).mem = s.mem := rfl
@[simp] theorem State.modHere_poison (s : State) (f : Tile → Tile) : (s.modHere f).poison = s.poison := rfl
@[simp] theorem State.modHere_marks (s : State) (f : Tile → Tile) : (s.modHere f).marks = s.marks := rfl
@[simp] theorem State.modHere_fields (s : State) (f : Tile → Tile) : (s.modHere f).fields = s.fields := rfl
@[simp] theorem State.modHere_pitches (s : State) (f : Tile → Tile) : (s.modHere f).pitches = s.pitches := rfl
@[simp] theorem State.modHere_agenda (s : State) (f : Tile → Tile) : (s.modHere f).agenda = s.agenda := rfl
@[simp] theorem State.modHere_focus (s : State) (f : Tile → Tile) : (s.modHere f).focus = s.focus := rfl
@[simp] theorem State.modHere_free (s : State) (f : Tile → Tile) : (s.modHere f).free = s.free := rfl
@[simp] theorem State.modHere_reqs (s : State) (f : Tile → Tile) : (s.modHere f).reqs = s.reqs := rfl
@[simp] theorem State.modHere_events (s : State) (f : Tile → Tile) : (s.modHere f).events = s.events := rfl
@[simp] theorem State.modHere_tick (s : State) (f : Tile → Tile) : (s.modHere f).tick = s.tick := rfl
@[simp] theorem State.modHere_tickSet (s : State) (f : Tile → Tile) : (s.modHere f).tickSet = s.tickSet := rfl
@[simp] theorem State.modHere_tset (s : State) (f : Tile → Tile) : (s.modHere f).tset = s.tset := rfl
@[simp] theorem State.modHere_dead (s : State) (f : Tile → Tile) : (s.modHere f).dead = s.dead := rfl
@[simp] theorem State.modHere_struckTiles (s : State) (f : Tile → Tile) : (s.modHere f).struckTiles = s.struckTiles := rfl
@[simp] theorem State.modHere_retired (s : State) (f : Tile → Tile) : (s.modHere f).retired = s.retired := rfl
@[simp] theorem State.modHere_vacant (s : State) (f : Tile → Tile) : (s.modHere f).vacant = s.vacant := rfl
@[simp] theorem State.modHere_vacated (s : State) (f : Tile → Tile) : (s.modHere f).vacated = s.vacated := rfl
@[simp] theorem State.modHere_shipped (s : State) (f : Tile → Tile) : (s.modHere f).shipped = s.shipped := rfl
@[simp] theorem State.modHere_shippedRanked (s : State) (f : Tile → Tile) : (s.modHere f).shippedRanked = s.shippedRanked := rfl
@[simp] theorem State.modHere_standby (s : State) (f : Tile → Tile) : (s.modHere f).standby = s.standby := rfl
@[simp] theorem State.modHere_attestKeyLoads (s : State) (f : Tile → Tile) : (s.modHere f).attestKeyLoads = s.attestKeyLoads := rfl
@[simp] theorem State.modHere_images (s : State) (f : Tile → Tile) : (s.modHere f).images = s.images := rfl
@[simp] theorem State.modHere_directory (s : State) (f : Tile → Tile) : (s.modHere f).directory = s.directory := rfl
@[simp] theorem State.modHere_launches (s : State) (f : Tile → Tile) : (s.modHere f).launches = s.launches := rfl
@[simp] theorem State.modHere_classes (s : State) (f : Tile → Tile) : (s.modHere f).classes = s.classes := rfl
@[simp] theorem State.modHere_rotor (s : State) (f : Tile → Tile) : (s.modHere f).rotor = s.rotor := rfl
@[simp] theorem State.modHere_born (s : State) (f : Tile → Tile) : (s.modHere f).born = s.born := rfl
@[simp] theorem State.modHere_queues (s : State) (f : Tile → Tile) : (s.modHere f).queues = s.queues := rfl
@[simp] theorem State.modHere_portals (s : State) (f : Tile → Tile) : (s.modHere f).portals = s.portals := rfl
@[simp] theorem State.modHere_atomcap (s : State) (f : Tile → Tile) : (s.modHere f).atomcap = s.atomcap := rfl
@[simp] theorem State.modHere_modidx (s : State) (f : Tile → Tile) : (s.modHere f).modidx = s.modidx := rfl
@[simp] theorem State.modHere_hostRecords (s : State) (f : Tile → Tile) : (s.modHere f).hostRecords = s.hostRecords := rfl
@[simp] theorem State.modHere_msix (s : State) (f : Tile → Tile) : (s.modHere f).msix = s.msix := rfl
@[simp] theorem State.modHere_hostData (s : State) (f : Tile → Tile) : (s.modHere f).hostData = s.hostData := rfl
@[simp] theorem State.modHere_topo (s : State) (f : Tile → Tile) : (s.modHere f).topo = s.topo := rfl
@[simp] theorem State.modHere_swtick (s : State) (f : Tile → Tile) : (s.modHere f).swtick = s.swtick := rfl
@[simp] theorem State.modHere_bankA (s : State) (f : Tile → Tile) : (s.modHere f).bankA = s.bankA := rfl
@[simp] theorem State.modHere_bankB (s : State) (f : Tile → Tile) : (s.modHere f).bankB = s.bankB := rfl
@[simp] theorem State.modHere_links (s : State) (f : Tile → Tile) : (s.modHere f).links = s.links := rfl
@[simp] theorem State.modHere_linkUsed (s : State) (f : Tile → Tile) : (s.modHere f).linkUsed = s.linkUsed := rfl
@[simp] theorem State.modHere_linkTrained (s : State) (f : Tile → Tile) : (s.modHere f).linkTrained = s.linkTrained := rfl
@[simp] theorem State.modHere_mailbox (s : State) (f : Tile → Tile) : (s.modHere f).mailbox = s.mailbox := rfl
@[simp] theorem State.modHere_refreshes (s : State) (f : Tile → Tile) : (s.modHere f).refreshes = s.refreshes := rfl
@[simp] theorem State.modHere_refreshBase (s : State) (f : Tile → Tile) : (s.modHere f).refreshBase = s.refreshBase := rfl
@[simp] theorem State.modHere_refreshSpan (s : State) (f : Tile → Tile) : (s.modHere f).refreshSpan = s.refreshSpan := rfl
@[simp] theorem State.modHere_tier2 (s : State) (f : Tile → Tile) : (s.modHere f).tier2 = s.tier2 := rfl
@[simp] theorem State.modHere_tier2Down (s : State) (f : Tile → Tile) : (s.modHere f).tier2Down = s.tier2Down := rfl
@[simp] theorem State.modHere_abroad (s : State) (f : Tile → Tile) : (s.modHere f).abroad = s.abroad := rfl
@[simp] theorem State.modHere_silentModules (s : State) (f : Tile → Tile) : (s.modHere f).silentModules = s.silentModules := rfl
@[simp] theorem State.modHere_jobFailed (s : State) (f : Tile → Tile) : (s.modHere f).jobFailed = s.jobFailed := rfl
@[simp] theorem State.modCur_mem (s : State) (f : Ctx → Ctx) : (s.modCur f).mem = s.mem := rfl
@[simp] theorem State.modCur_poison (s : State) (f : Ctx → Ctx) : (s.modCur f).poison = s.poison := rfl
@[simp] theorem State.modCur_marks (s : State) (f : Ctx → Ctx) : (s.modCur f).marks = s.marks := rfl
@[simp] theorem State.modCur_fields (s : State) (f : Ctx → Ctx) : (s.modCur f).fields = s.fields := rfl
@[simp] theorem State.modCur_pitches (s : State) (f : Ctx → Ctx) : (s.modCur f).pitches = s.pitches := rfl
@[simp] theorem State.modCur_agenda (s : State) (f : Ctx → Ctx) : (s.modCur f).agenda = s.agenda := rfl
@[simp] theorem State.modCur_focus (s : State) (f : Ctx → Ctx) : (s.modCur f).focus = s.focus := rfl
@[simp] theorem State.modCur_free (s : State) (f : Ctx → Ctx) : (s.modCur f).free = s.free := rfl
@[simp] theorem State.modCur_reqs (s : State) (f : Ctx → Ctx) : (s.modCur f).reqs = s.reqs := rfl
@[simp] theorem State.modCur_events (s : State) (f : Ctx → Ctx) : (s.modCur f).events = s.events := rfl
@[simp] theorem State.modCur_tick (s : State) (f : Ctx → Ctx) : (s.modCur f).tick = s.tick := rfl
@[simp] theorem State.modCur_tickSet (s : State) (f : Ctx → Ctx) : (s.modCur f).tickSet = s.tickSet := rfl
@[simp] theorem State.modCur_tset (s : State) (f : Ctx → Ctx) : (s.modCur f).tset = s.tset := rfl
@[simp] theorem State.modCur_dead (s : State) (f : Ctx → Ctx) : (s.modCur f).dead = s.dead := rfl
@[simp] theorem State.modCur_struckTiles (s : State) (f : Ctx → Ctx) : (s.modCur f).struckTiles = s.struckTiles := rfl
@[simp] theorem State.modCur_retired (s : State) (f : Ctx → Ctx) : (s.modCur f).retired = s.retired := rfl
@[simp] theorem State.modCur_vacant (s : State) (f : Ctx → Ctx) : (s.modCur f).vacant = s.vacant := rfl
@[simp] theorem State.modCur_vacated (s : State) (f : Ctx → Ctx) : (s.modCur f).vacated = s.vacated := rfl
@[simp] theorem State.modCur_shipped (s : State) (f : Ctx → Ctx) : (s.modCur f).shipped = s.shipped := rfl
@[simp] theorem State.modCur_shippedRanked (s : State) (f : Ctx → Ctx) : (s.modCur f).shippedRanked = s.shippedRanked := rfl
@[simp] theorem State.modCur_standby (s : State) (f : Ctx → Ctx) : (s.modCur f).standby = s.standby := rfl
@[simp] theorem State.modCur_attestKeyLoads (s : State) (f : Ctx → Ctx) : (s.modCur f).attestKeyLoads = s.attestKeyLoads := rfl
@[simp] theorem State.modCur_images (s : State) (f : Ctx → Ctx) : (s.modCur f).images = s.images := rfl
@[simp] theorem State.modCur_directory (s : State) (f : Ctx → Ctx) : (s.modCur f).directory = s.directory := rfl
@[simp] theorem State.modCur_launches (s : State) (f : Ctx → Ctx) : (s.modCur f).launches = s.launches := rfl
@[simp] theorem State.modCur_classes (s : State) (f : Ctx → Ctx) : (s.modCur f).classes = s.classes := rfl
@[simp] theorem State.modCur_rotor (s : State) (f : Ctx → Ctx) : (s.modCur f).rotor = s.rotor := rfl
@[simp] theorem State.modCur_born (s : State) (f : Ctx → Ctx) : (s.modCur f).born = s.born := rfl
@[simp] theorem State.modCur_queues (s : State) (f : Ctx → Ctx) : (s.modCur f).queues = s.queues := rfl
@[simp] theorem State.modCur_portals (s : State) (f : Ctx → Ctx) : (s.modCur f).portals = s.portals := rfl
@[simp] theorem State.modCur_atomcap (s : State) (f : Ctx → Ctx) : (s.modCur f).atomcap = s.atomcap := rfl
@[simp] theorem State.modCur_modidx (s : State) (f : Ctx → Ctx) : (s.modCur f).modidx = s.modidx := rfl
@[simp] theorem State.modCur_hostRecords (s : State) (f : Ctx → Ctx) : (s.modCur f).hostRecords = s.hostRecords := rfl
@[simp] theorem State.modCur_msix (s : State) (f : Ctx → Ctx) : (s.modCur f).msix = s.msix := rfl
@[simp] theorem State.modCur_hostData (s : State) (f : Ctx → Ctx) : (s.modCur f).hostData = s.hostData := rfl
@[simp] theorem State.modCur_topo (s : State) (f : Ctx → Ctx) : (s.modCur f).topo = s.topo := rfl
@[simp] theorem State.modCur_swtick (s : State) (f : Ctx → Ctx) : (s.modCur f).swtick = s.swtick := rfl
@[simp] theorem State.modCur_bankA (s : State) (f : Ctx → Ctx) : (s.modCur f).bankA = s.bankA := rfl
@[simp] theorem State.modCur_bankB (s : State) (f : Ctx → Ctx) : (s.modCur f).bankB = s.bankB := rfl
@[simp] theorem State.modCur_links (s : State) (f : Ctx → Ctx) : (s.modCur f).links = s.links := rfl
@[simp] theorem State.modCur_linkUsed (s : State) (f : Ctx → Ctx) : (s.modCur f).linkUsed = s.linkUsed := rfl
@[simp] theorem State.modCur_linkTrained (s : State) (f : Ctx → Ctx) : (s.modCur f).linkTrained = s.linkTrained := rfl
@[simp] theorem State.modCur_mailbox (s : State) (f : Ctx → Ctx) : (s.modCur f).mailbox = s.mailbox := rfl
@[simp] theorem State.modCur_refreshes (s : State) (f : Ctx → Ctx) : (s.modCur f).refreshes = s.refreshes := rfl
@[simp] theorem State.modCur_refreshBase (s : State) (f : Ctx → Ctx) : (s.modCur f).refreshBase = s.refreshBase := rfl
@[simp] theorem State.modCur_refreshSpan (s : State) (f : Ctx → Ctx) : (s.modCur f).refreshSpan = s.refreshSpan := rfl
@[simp] theorem State.modCur_tier2 (s : State) (f : Ctx → Ctx) : (s.modCur f).tier2 = s.tier2 := rfl
@[simp] theorem State.modCur_tier2Down (s : State) (f : Ctx → Ctx) : (s.modCur f).tier2Down = s.tier2Down := rfl
@[simp] theorem State.modCur_abroad (s : State) (f : Ctx → Ctx) : (s.modCur f).abroad = s.abroad := rfl
@[simp] theorem State.modCur_silentModules (s : State) (f : Ctx → Ctx) : (s.modCur f).silentModules = s.silentModules := rfl
@[simp] theorem State.modCur_jobFailed (s : State) (f : Ctx → Ctx) : (s.modCur f).jobFailed = s.jobFailed := rfl
@[simp] theorem State.setCur_mem (s : State) (c : Ctx) : (s.setCur c).mem = s.mem := rfl
@[simp] theorem State.setCur_poison (s : State) (c : Ctx) : (s.setCur c).poison = s.poison := rfl
@[simp] theorem State.setCur_marks (s : State) (c : Ctx) : (s.setCur c).marks = s.marks := rfl
@[simp] theorem State.setCur_fields (s : State) (c : Ctx) : (s.setCur c).fields = s.fields := rfl
@[simp] theorem State.setCur_pitches (s : State) (c : Ctx) : (s.setCur c).pitches = s.pitches := rfl
@[simp] theorem State.setCur_agenda (s : State) (c : Ctx) : (s.setCur c).agenda = s.agenda := rfl
@[simp] theorem State.setCur_focus (s : State) (c : Ctx) : (s.setCur c).focus = s.focus := rfl
@[simp] theorem State.setCur_free (s : State) (c : Ctx) : (s.setCur c).free = s.free := rfl
@[simp] theorem State.setCur_reqs (s : State) (c : Ctx) : (s.setCur c).reqs = s.reqs := rfl
@[simp] theorem State.setCur_events (s : State) (c : Ctx) : (s.setCur c).events = s.events := rfl
@[simp] theorem State.setCur_tick (s : State) (c : Ctx) : (s.setCur c).tick = s.tick := rfl
@[simp] theorem State.setCur_tickSet (s : State) (c : Ctx) : (s.setCur c).tickSet = s.tickSet := rfl
@[simp] theorem State.setCur_tset (s : State) (c : Ctx) : (s.setCur c).tset = s.tset := rfl
@[simp] theorem State.setCur_dead (s : State) (c : Ctx) : (s.setCur c).dead = s.dead := rfl
@[simp] theorem State.setCur_struckTiles (s : State) (c : Ctx) : (s.setCur c).struckTiles = s.struckTiles := rfl
@[simp] theorem State.setCur_retired (s : State) (c : Ctx) : (s.setCur c).retired = s.retired := rfl
@[simp] theorem State.setCur_vacant (s : State) (c : Ctx) : (s.setCur c).vacant = s.vacant := rfl
@[simp] theorem State.setCur_vacated (s : State) (c : Ctx) : (s.setCur c).vacated = s.vacated := rfl
@[simp] theorem State.setCur_shipped (s : State) (c : Ctx) : (s.setCur c).shipped = s.shipped := rfl
@[simp] theorem State.setCur_shippedRanked (s : State) (c : Ctx) : (s.setCur c).shippedRanked = s.shippedRanked := rfl
@[simp] theorem State.setCur_standby (s : State) (c : Ctx) : (s.setCur c).standby = s.standby := rfl
@[simp] theorem State.setCur_attestKeyLoads (s : State) (c : Ctx) : (s.setCur c).attestKeyLoads = s.attestKeyLoads := rfl
@[simp] theorem State.setCur_images (s : State) (c : Ctx) : (s.setCur c).images = s.images := rfl
@[simp] theorem State.setCur_directory (s : State) (c : Ctx) : (s.setCur c).directory = s.directory := rfl
@[simp] theorem State.setCur_launches (s : State) (c : Ctx) : (s.setCur c).launches = s.launches := rfl
@[simp] theorem State.setCur_classes (s : State) (c : Ctx) : (s.setCur c).classes = s.classes := rfl
@[simp] theorem State.setCur_rotor (s : State) (c : Ctx) : (s.setCur c).rotor = s.rotor := rfl
@[simp] theorem State.setCur_born (s : State) (c : Ctx) : (s.setCur c).born = s.born := rfl
@[simp] theorem State.setCur_queues (s : State) (c : Ctx) : (s.setCur c).queues = s.queues := rfl
@[simp] theorem State.setCur_portals (s : State) (c : Ctx) : (s.setCur c).portals = s.portals := rfl
@[simp] theorem State.setCur_atomcap (s : State) (c : Ctx) : (s.setCur c).atomcap = s.atomcap := rfl
@[simp] theorem State.setCur_modidx (s : State) (c : Ctx) : (s.setCur c).modidx = s.modidx := rfl
@[simp] theorem State.setCur_hostRecords (s : State) (c : Ctx) : (s.setCur c).hostRecords = s.hostRecords := rfl
@[simp] theorem State.setCur_msix (s : State) (c : Ctx) : (s.setCur c).msix = s.msix := rfl
@[simp] theorem State.setCur_hostData (s : State) (c : Ctx) : (s.setCur c).hostData = s.hostData := rfl
@[simp] theorem State.setCur_topo (s : State) (c : Ctx) : (s.setCur c).topo = s.topo := rfl
@[simp] theorem State.setCur_swtick (s : State) (c : Ctx) : (s.setCur c).swtick = s.swtick := rfl
@[simp] theorem State.setCur_bankA (s : State) (c : Ctx) : (s.setCur c).bankA = s.bankA := rfl
@[simp] theorem State.setCur_bankB (s : State) (c : Ctx) : (s.setCur c).bankB = s.bankB := rfl
@[simp] theorem State.setCur_links (s : State) (c : Ctx) : (s.setCur c).links = s.links := rfl
@[simp] theorem State.setCur_linkUsed (s : State) (c : Ctx) : (s.setCur c).linkUsed = s.linkUsed := rfl
@[simp] theorem State.setCur_linkTrained (s : State) (c : Ctx) : (s.setCur c).linkTrained = s.linkTrained := rfl
@[simp] theorem State.setCur_mailbox (s : State) (c : Ctx) : (s.setCur c).mailbox = s.mailbox := rfl
@[simp] theorem State.setCur_refreshes (s : State) (c : Ctx) : (s.setCur c).refreshes = s.refreshes := rfl
@[simp] theorem State.setCur_refreshBase (s : State) (c : Ctx) : (s.setCur c).refreshBase = s.refreshBase := rfl
@[simp] theorem State.setCur_refreshSpan (s : State) (c : Ctx) : (s.setCur c).refreshSpan = s.refreshSpan := rfl
@[simp] theorem State.setCur_tier2 (s : State) (c : Ctx) : (s.setCur c).tier2 = s.tier2 := rfl
@[simp] theorem State.setCur_tier2Down (s : State) (c : Ctx) : (s.setCur c).tier2Down = s.tier2Down := rfl
@[simp] theorem State.setCur_abroad (s : State) (c : Ctx) : (s.setCur c).abroad = s.abroad := rfl
@[simp] theorem State.setCur_silentModules (s : State) (c : Ctx) : (s.setCur c).silentModules = s.silentModules := rfl
@[simp] theorem State.setCur_jobFailed (s : State) (c : Ctx) : (s.setCur c).jobFailed = s.jobFailed := rfl
@[simp] theorem State.elapse_mem (s : State) (r : Nat) (i : CtxId) (w : Bool) : (s.elapse r i w).mem = s.mem := rfl
@[simp] theorem State.elapse_poison (s : State) (r : Nat) (i : CtxId) (w : Bool) : (s.elapse r i w).poison = s.poison := rfl
@[simp] theorem State.elapse_marks (s : State) (r : Nat) (i : CtxId) (w : Bool) : (s.elapse r i w).marks = s.marks := rfl
@[simp] theorem State.elapse_fields (s : State) (r : Nat) (i : CtxId) (w : Bool) : (s.elapse r i w).fields = s.fields := rfl
@[simp] theorem State.elapse_pitches (s : State) (r : Nat) (i : CtxId) (w : Bool) : (s.elapse r i w).pitches = s.pitches := rfl
@[simp] theorem State.elapse_agenda (s : State) (r : Nat) (i : CtxId) (w : Bool) : (s.elapse r i w).agenda = s.agenda := rfl
@[simp] theorem State.elapse_focus (s : State) (r : Nat) (i : CtxId) (w : Bool) : (s.elapse r i w).focus = s.focus := rfl
@[simp] theorem State.elapse_reqs (s : State) (r : Nat) (i : CtxId) (w : Bool) : (s.elapse r i w).reqs = s.reqs := rfl
@[simp] theorem State.elapse_events (s : State) (r : Nat) (i : CtxId) (w : Bool) : (s.elapse r i w).events = s.events := rfl
@[simp] theorem State.elapse_tick (s : State) (r : Nat) (i : CtxId) (w : Bool) : (s.elapse r i w).tick = s.tick := rfl
@[simp] theorem State.elapse_tickSet (s : State) (r : Nat) (i : CtxId) (w : Bool) : (s.elapse r i w).tickSet = s.tickSet := rfl
@[simp] theorem State.elapse_tset (s : State) (r : Nat) (i : CtxId) (w : Bool) : (s.elapse r i w).tset = s.tset := rfl
@[simp] theorem State.elapse_dead (s : State) (r : Nat) (i : CtxId) (w : Bool) : (s.elapse r i w).dead = s.dead := rfl
@[simp] theorem State.elapse_struckTiles (s : State) (r : Nat) (i : CtxId) (w : Bool) : (s.elapse r i w).struckTiles = s.struckTiles := rfl
@[simp] theorem State.elapse_retired (s : State) (r : Nat) (i : CtxId) (w : Bool) : (s.elapse r i w).retired = s.retired := rfl
@[simp] theorem State.elapse_vacant (s : State) (r : Nat) (i : CtxId) (w : Bool) : (s.elapse r i w).vacant = s.vacant := rfl
@[simp] theorem State.elapse_vacated (s : State) (r : Nat) (i : CtxId) (w : Bool) : (s.elapse r i w).vacated = s.vacated := rfl
@[simp] theorem State.elapse_shipped (s : State) (r : Nat) (i : CtxId) (w : Bool) : (s.elapse r i w).shipped = s.shipped := rfl
@[simp] theorem State.elapse_shippedRanked (s : State) (r : Nat) (i : CtxId) (w : Bool) : (s.elapse r i w).shippedRanked = s.shippedRanked := rfl
@[simp] theorem State.elapse_standby (s : State) (r : Nat) (i : CtxId) (w : Bool) : (s.elapse r i w).standby = s.standby := rfl
@[simp] theorem State.elapse_attestKeyLoads (s : State) (r : Nat) (i : CtxId) (w : Bool) : (s.elapse r i w).attestKeyLoads = s.attestKeyLoads := rfl
@[simp] theorem State.elapse_images (s : State) (r : Nat) (i : CtxId) (w : Bool) : (s.elapse r i w).images = s.images := rfl
@[simp] theorem State.elapse_directory (s : State) (r : Nat) (i : CtxId) (w : Bool) : (s.elapse r i w).directory = s.directory := rfl
@[simp] theorem State.elapse_launches (s : State) (r : Nat) (i : CtxId) (w : Bool) : (s.elapse r i w).launches = s.launches := rfl
@[simp] theorem State.elapse_classes (s : State) (r : Nat) (i : CtxId) (w : Bool) : (s.elapse r i w).classes = s.classes := rfl
@[simp] theorem State.elapse_rotor (s : State) (r : Nat) (i : CtxId) (w : Bool) : (s.elapse r i w).rotor = s.rotor := rfl
@[simp] theorem State.elapse_born (s : State) (r : Nat) (i : CtxId) (w : Bool) : (s.elapse r i w).born = s.born := rfl
@[simp] theorem State.elapse_queues (s : State) (r : Nat) (i : CtxId) (w : Bool) : (s.elapse r i w).queues = s.queues := rfl
@[simp] theorem State.elapse_portals (s : State) (r : Nat) (i : CtxId) (w : Bool) : (s.elapse r i w).portals = s.portals := rfl
@[simp] theorem State.elapse_atomcap (s : State) (r : Nat) (i : CtxId) (w : Bool) : (s.elapse r i w).atomcap = s.atomcap := rfl
@[simp] theorem State.elapse_modidx (s : State) (r : Nat) (i : CtxId) (w : Bool) : (s.elapse r i w).modidx = s.modidx := rfl
@[simp] theorem State.elapse_hostRecords (s : State) (r : Nat) (i : CtxId) (w : Bool) : (s.elapse r i w).hostRecords = s.hostRecords := rfl
@[simp] theorem State.elapse_msix (s : State) (r : Nat) (i : CtxId) (w : Bool) : (s.elapse r i w).msix = s.msix := rfl
@[simp] theorem State.elapse_hostData (s : State) (r : Nat) (i : CtxId) (w : Bool) : (s.elapse r i w).hostData = s.hostData := rfl
@[simp] theorem State.elapse_topo (s : State) (r : Nat) (i : CtxId) (w : Bool) : (s.elapse r i w).topo = s.topo := rfl
@[simp] theorem State.elapse_swtick (s : State) (r : Nat) (i : CtxId) (w : Bool) : (s.elapse r i w).swtick = s.swtick := rfl
@[simp] theorem State.elapse_bankA (s : State) (r : Nat) (i : CtxId) (w : Bool) : (s.elapse r i w).bankA = s.bankA := rfl
@[simp] theorem State.elapse_bankB (s : State) (r : Nat) (i : CtxId) (w : Bool) : (s.elapse r i w).bankB = s.bankB := rfl
@[simp] theorem State.elapse_links (s : State) (r : Nat) (i : CtxId) (w : Bool) : (s.elapse r i w).links = s.links := rfl
@[simp] theorem State.elapse_linkUsed (s : State) (r : Nat) (i : CtxId) (w : Bool) : (s.elapse r i w).linkUsed = s.linkUsed := rfl
@[simp] theorem State.elapse_linkTrained (s : State) (r : Nat) (i : CtxId) (w : Bool) : (s.elapse r i w).linkTrained = s.linkTrained := rfl
@[simp] theorem State.elapse_mailbox (s : State) (r : Nat) (i : CtxId) (w : Bool) : (s.elapse r i w).mailbox = s.mailbox := rfl
@[simp] theorem State.elapse_refreshes (s : State) (r : Nat) (i : CtxId) (w : Bool) : (s.elapse r i w).refreshes = s.refreshes := rfl
@[simp] theorem State.elapse_refreshBase (s : State) (r : Nat) (i : CtxId) (w : Bool) : (s.elapse r i w).refreshBase = s.refreshBase := rfl
@[simp] theorem State.elapse_refreshSpan (s : State) (r : Nat) (i : CtxId) (w : Bool) : (s.elapse r i w).refreshSpan = s.refreshSpan := rfl
@[simp] theorem State.elapse_tier2 (s : State) (r : Nat) (i : CtxId) (w : Bool) : (s.elapse r i w).tier2 = s.tier2 := rfl
@[simp] theorem State.elapse_tier2Down (s : State) (r : Nat) (i : CtxId) (w : Bool) : (s.elapse r i w).tier2Down = s.tier2Down := rfl
@[simp] theorem State.elapse_abroad (s : State) (r : Nat) (i : CtxId) (w : Bool) : (s.elapse r i w).abroad = s.abroad := rfl
@[simp] theorem State.elapse_silentModules (s : State) (r : Nat) (i : CtxId) (w : Bool) : (s.elapse r i w).silentModules = s.silentModules := rfl
@[simp] theorem State.elapse_jobFailed (s : State) (r : Nat) (i : CtxId) (w : Bool) : (s.elapse r i w).jobFailed = s.jobFailed := rfl
@[simp] theorem State.modField_tiles (s : State) (n : Nat) (f : Field → Field) : (s.modField n f).tiles = s.tiles := rfl
@[simp] theorem State.modField_mem (s : State) (n : Nat) (f : Field → Field) : (s.modField n f).mem = s.mem := rfl
@[simp] theorem State.modField_poison (s : State) (n : Nat) (f : Field → Field) : (s.modField n f).poison = s.poison := rfl
@[simp] theorem State.modField_marks (s : State) (n : Nat) (f : Field → Field) : (s.modField n f).marks = s.marks := rfl
@[simp] theorem State.modField_pitches (s : State) (n : Nat) (f : Field → Field) : (s.modField n f).pitches = s.pitches := rfl
@[simp] theorem State.modField_agenda (s : State) (n : Nat) (f : Field → Field) : (s.modField n f).agenda = s.agenda := rfl
@[simp] theorem State.modField_focus (s : State) (n : Nat) (f : Field → Field) : (s.modField n f).focus = s.focus := rfl
@[simp] theorem State.modField_free (s : State) (n : Nat) (f : Field → Field) : (s.modField n f).free = s.free := rfl
@[simp] theorem State.modField_reqs (s : State) (n : Nat) (f : Field → Field) : (s.modField n f).reqs = s.reqs := rfl
@[simp] theorem State.modField_events (s : State) (n : Nat) (f : Field → Field) : (s.modField n f).events = s.events := rfl
@[simp] theorem State.modField_tick (s : State) (n : Nat) (f : Field → Field) : (s.modField n f).tick = s.tick := rfl
@[simp] theorem State.modField_tickSet (s : State) (n : Nat) (f : Field → Field) : (s.modField n f).tickSet = s.tickSet := rfl
@[simp] theorem State.modField_tset (s : State) (n : Nat) (f : Field → Field) : (s.modField n f).tset = s.tset := rfl
@[simp] theorem State.modField_dead (s : State) (n : Nat) (f : Field → Field) : (s.modField n f).dead = s.dead := rfl
@[simp] theorem State.modField_struckTiles (s : State) (n : Nat) (f : Field → Field) : (s.modField n f).struckTiles = s.struckTiles := rfl
@[simp] theorem State.modField_retired (s : State) (n : Nat) (f : Field → Field) : (s.modField n f).retired = s.retired := rfl
@[simp] theorem State.modField_vacant (s : State) (n : Nat) (f : Field → Field) : (s.modField n f).vacant = s.vacant := rfl
@[simp] theorem State.modField_vacated (s : State) (n : Nat) (f : Field → Field) : (s.modField n f).vacated = s.vacated := rfl
@[simp] theorem State.modField_shipped (s : State) (n : Nat) (f : Field → Field) : (s.modField n f).shipped = s.shipped := rfl
@[simp] theorem State.modField_shippedRanked (s : State) (n : Nat) (f : Field → Field) : (s.modField n f).shippedRanked = s.shippedRanked := rfl
@[simp] theorem State.modField_standby (s : State) (n : Nat) (f : Field → Field) : (s.modField n f).standby = s.standby := rfl
@[simp] theorem State.modField_attestKeyLoads (s : State) (n : Nat) (f : Field → Field) : (s.modField n f).attestKeyLoads = s.attestKeyLoads := rfl
@[simp] theorem State.modField_images (s : State) (n : Nat) (f : Field → Field) : (s.modField n f).images = s.images := rfl
@[simp] theorem State.modField_directory (s : State) (n : Nat) (f : Field → Field) : (s.modField n f).directory = s.directory := rfl
@[simp] theorem State.modField_launches (s : State) (n : Nat) (f : Field → Field) : (s.modField n f).launches = s.launches := rfl
@[simp] theorem State.modField_classes (s : State) (n : Nat) (f : Field → Field) : (s.modField n f).classes = s.classes := rfl
@[simp] theorem State.modField_rotor (s : State) (n : Nat) (f : Field → Field) : (s.modField n f).rotor = s.rotor := rfl
@[simp] theorem State.modField_born (s : State) (n : Nat) (f : Field → Field) : (s.modField n f).born = s.born := rfl
@[simp] theorem State.modField_queues (s : State) (n : Nat) (f : Field → Field) : (s.modField n f).queues = s.queues := rfl
@[simp] theorem State.modField_portals (s : State) (n : Nat) (f : Field → Field) : (s.modField n f).portals = s.portals := rfl
@[simp] theorem State.modField_atomcap (s : State) (n : Nat) (f : Field → Field) : (s.modField n f).atomcap = s.atomcap := rfl
@[simp] theorem State.modField_modidx (s : State) (n : Nat) (f : Field → Field) : (s.modField n f).modidx = s.modidx := rfl
@[simp] theorem State.modField_hostRecords (s : State) (n : Nat) (f : Field → Field) : (s.modField n f).hostRecords = s.hostRecords := rfl
@[simp] theorem State.modField_msix (s : State) (n : Nat) (f : Field → Field) : (s.modField n f).msix = s.msix := rfl
@[simp] theorem State.modField_hostData (s : State) (n : Nat) (f : Field → Field) : (s.modField n f).hostData = s.hostData := rfl
@[simp] theorem State.modField_topo (s : State) (n : Nat) (f : Field → Field) : (s.modField n f).topo = s.topo := rfl
@[simp] theorem State.modField_swtick (s : State) (n : Nat) (f : Field → Field) : (s.modField n f).swtick = s.swtick := rfl
@[simp] theorem State.modField_bankA (s : State) (n : Nat) (f : Field → Field) : (s.modField n f).bankA = s.bankA := rfl
@[simp] theorem State.modField_bankB (s : State) (n : Nat) (f : Field → Field) : (s.modField n f).bankB = s.bankB := rfl
@[simp] theorem State.modField_links (s : State) (n : Nat) (f : Field → Field) : (s.modField n f).links = s.links := rfl
@[simp] theorem State.modField_linkUsed (s : State) (n : Nat) (f : Field → Field) : (s.modField n f).linkUsed = s.linkUsed := rfl
@[simp] theorem State.modField_linkTrained (s : State) (n : Nat) (f : Field → Field) : (s.modField n f).linkTrained = s.linkTrained := rfl
@[simp] theorem State.modField_mailbox (s : State) (n : Nat) (f : Field → Field) : (s.modField n f).mailbox = s.mailbox := rfl
@[simp] theorem State.modField_refreshes (s : State) (n : Nat) (f : Field → Field) : (s.modField n f).refreshes = s.refreshes := rfl
@[simp] theorem State.modField_refreshBase (s : State) (n : Nat) (f : Field → Field) : (s.modField n f).refreshBase = s.refreshBase := rfl
@[simp] theorem State.modField_refreshSpan (s : State) (n : Nat) (f : Field → Field) : (s.modField n f).refreshSpan = s.refreshSpan := rfl
@[simp] theorem State.modField_tier2 (s : State) (n : Nat) (f : Field → Field) : (s.modField n f).tier2 = s.tier2 := rfl
@[simp] theorem State.modField_tier2Down (s : State) (n : Nat) (f : Field → Field) : (s.modField n f).tier2Down = s.tier2Down := rfl
@[simp] theorem State.modField_abroad (s : State) (n : Nat) (f : Field → Field) : (s.modField n f).abroad = s.abroad := rfl
@[simp] theorem State.modField_silentModules (s : State) (n : Nat) (f : Field → Field) : (s.modField n f).silentModules = s.silentModules := rfl
@[simp] theorem State.modField_jobFailed (s : State) (n : Nat) (f : Field → Field) : (s.modField n f).jobFailed = s.jobFailed := rfl
@[simp] theorem State.post_tiles (s : State) (r : Nat) (e : Record) : (s.post r e).tiles = s.tiles := rfl
@[simp] theorem State.post_mem (s : State) (r : Nat) (e : Record) : (s.post r e).mem = s.mem := rfl
@[simp] theorem State.post_poison (s : State) (r : Nat) (e : Record) : (s.post r e).poison = s.poison := rfl
@[simp] theorem State.post_marks (s : State) (r : Nat) (e : Record) : (s.post r e).marks = s.marks := rfl
@[simp] theorem State.post_pitches (s : State) (r : Nat) (e : Record) : (s.post r e).pitches = s.pitches := rfl
@[simp] theorem State.post_agenda (s : State) (r : Nat) (e : Record) : (s.post r e).agenda = s.agenda := rfl
@[simp] theorem State.post_focus (s : State) (r : Nat) (e : Record) : (s.post r e).focus = s.focus := rfl
@[simp] theorem State.post_free (s : State) (r : Nat) (e : Record) : (s.post r e).free = s.free := rfl
@[simp] theorem State.post_reqs (s : State) (r : Nat) (e : Record) : (s.post r e).reqs = s.reqs := rfl
@[simp] theorem State.post_events (s : State) (r : Nat) (e : Record) : (s.post r e).events = s.events := rfl
@[simp] theorem State.post_tick (s : State) (r : Nat) (e : Record) : (s.post r e).tick = s.tick := rfl
@[simp] theorem State.post_tickSet (s : State) (r : Nat) (e : Record) : (s.post r e).tickSet = s.tickSet := rfl
@[simp] theorem State.post_tset (s : State) (r : Nat) (e : Record) : (s.post r e).tset = s.tset := rfl
@[simp] theorem State.post_dead (s : State) (r : Nat) (e : Record) : (s.post r e).dead = s.dead := rfl
@[simp] theorem State.post_struckTiles (s : State) (r : Nat) (e : Record) : (s.post r e).struckTiles = s.struckTiles := rfl
@[simp] theorem State.post_retired (s : State) (r : Nat) (e : Record) : (s.post r e).retired = s.retired := rfl
@[simp] theorem State.post_vacant (s : State) (r : Nat) (e : Record) : (s.post r e).vacant = s.vacant := rfl
@[simp] theorem State.post_vacated (s : State) (r : Nat) (e : Record) : (s.post r e).vacated = s.vacated := rfl
@[simp] theorem State.post_shipped (s : State) (r : Nat) (e : Record) : (s.post r e).shipped = s.shipped := rfl
@[simp] theorem State.post_shippedRanked (s : State) (r : Nat) (e : Record) : (s.post r e).shippedRanked = s.shippedRanked := rfl
@[simp] theorem State.post_standby (s : State) (r : Nat) (e : Record) : (s.post r e).standby = s.standby := rfl
@[simp] theorem State.post_attestKeyLoads (s : State) (r : Nat) (e : Record) : (s.post r e).attestKeyLoads = s.attestKeyLoads := rfl
@[simp] theorem State.post_images (s : State) (r : Nat) (e : Record) : (s.post r e).images = s.images := rfl
@[simp] theorem State.post_directory (s : State) (r : Nat) (e : Record) : (s.post r e).directory = s.directory := rfl
@[simp] theorem State.post_launches (s : State) (r : Nat) (e : Record) : (s.post r e).launches = s.launches := rfl
@[simp] theorem State.post_classes (s : State) (r : Nat) (e : Record) : (s.post r e).classes = s.classes := rfl
@[simp] theorem State.post_rotor (s : State) (r : Nat) (e : Record) : (s.post r e).rotor = s.rotor := rfl
@[simp] theorem State.post_born (s : State) (r : Nat) (e : Record) : (s.post r e).born = s.born := rfl
@[simp] theorem State.post_queues (s : State) (r : Nat) (e : Record) : (s.post r e).queues = s.queues := rfl
@[simp] theorem State.post_portals (s : State) (r : Nat) (e : Record) : (s.post r e).portals = s.portals := rfl
@[simp] theorem State.post_atomcap (s : State) (r : Nat) (e : Record) : (s.post r e).atomcap = s.atomcap := rfl
@[simp] theorem State.post_modidx (s : State) (r : Nat) (e : Record) : (s.post r e).modidx = s.modidx := rfl
@[simp] theorem State.post_hostRecords (s : State) (r : Nat) (e : Record) : (s.post r e).hostRecords = s.hostRecords := rfl
@[simp] theorem State.post_msix (s : State) (r : Nat) (e : Record) : (s.post r e).msix = s.msix := rfl
@[simp] theorem State.post_hostData (s : State) (r : Nat) (e : Record) : (s.post r e).hostData = s.hostData := rfl
@[simp] theorem State.post_topo (s : State) (r : Nat) (e : Record) : (s.post r e).topo = s.topo := rfl
@[simp] theorem State.post_swtick (s : State) (r : Nat) (e : Record) : (s.post r e).swtick = s.swtick := rfl
@[simp] theorem State.post_bankA (s : State) (r : Nat) (e : Record) : (s.post r e).bankA = s.bankA := rfl
@[simp] theorem State.post_bankB (s : State) (r : Nat) (e : Record) : (s.post r e).bankB = s.bankB := rfl
@[simp] theorem State.post_links (s : State) (r : Nat) (e : Record) : (s.post r e).links = s.links := rfl
@[simp] theorem State.post_linkUsed (s : State) (r : Nat) (e : Record) : (s.post r e).linkUsed = s.linkUsed := rfl
@[simp] theorem State.post_linkTrained (s : State) (r : Nat) (e : Record) : (s.post r e).linkTrained = s.linkTrained := rfl
@[simp] theorem State.post_mailbox (s : State) (r : Nat) (e : Record) : (s.post r e).mailbox = s.mailbox := rfl
@[simp] theorem State.post_refreshes (s : State) (r : Nat) (e : Record) : (s.post r e).refreshes = s.refreshes := rfl
@[simp] theorem State.post_refreshBase (s : State) (r : Nat) (e : Record) : (s.post r e).refreshBase = s.refreshBase := rfl
@[simp] theorem State.post_refreshSpan (s : State) (r : Nat) (e : Record) : (s.post r e).refreshSpan = s.refreshSpan := rfl
@[simp] theorem State.post_tier2 (s : State) (r : Nat) (e : Record) : (s.post r e).tier2 = s.tier2 := rfl
@[simp] theorem State.post_tier2Down (s : State) (r : Nat) (e : Record) : (s.post r e).tier2Down = s.tier2Down := rfl
@[simp] theorem State.post_abroad (s : State) (r : Nat) (e : Record) : (s.post r e).abroad = s.abroad := rfl
@[simp] theorem State.post_silentModules (s : State) (r : Nat) (e : Record) : (s.post r e).silentModules = s.silentModules := rfl
@[simp] theorem State.post_jobFailed (s : State) (r : Nat) (e : Record) : (s.post r e).jobFailed = s.jobFailed := rfl
@[simp] theorem State.modPitch_tiles (s : State) (d : PitchId) (f : Pitch → Pitch) : (s.modPitch d f).tiles = s.tiles := rfl
@[simp] theorem State.modPitch_mem (s : State) (d : PitchId) (f : Pitch → Pitch) : (s.modPitch d f).mem = s.mem := rfl
@[simp] theorem State.modPitch_poison (s : State) (d : PitchId) (f : Pitch → Pitch) : (s.modPitch d f).poison = s.poison := rfl
@[simp] theorem State.modPitch_marks (s : State) (d : PitchId) (f : Pitch → Pitch) : (s.modPitch d f).marks = s.marks := rfl
@[simp] theorem State.modPitch_fields (s : State) (d : PitchId) (f : Pitch → Pitch) : (s.modPitch d f).fields = s.fields := rfl
@[simp] theorem State.modPitch_agenda (s : State) (d : PitchId) (f : Pitch → Pitch) : (s.modPitch d f).agenda = s.agenda := rfl
@[simp] theorem State.modPitch_focus (s : State) (d : PitchId) (f : Pitch → Pitch) : (s.modPitch d f).focus = s.focus := rfl
@[simp] theorem State.modPitch_free (s : State) (d : PitchId) (f : Pitch → Pitch) : (s.modPitch d f).free = s.free := rfl
@[simp] theorem State.modPitch_reqs (s : State) (d : PitchId) (f : Pitch → Pitch) : (s.modPitch d f).reqs = s.reqs := rfl
@[simp] theorem State.modPitch_events (s : State) (d : PitchId) (f : Pitch → Pitch) : (s.modPitch d f).events = s.events := rfl
@[simp] theorem State.modPitch_tick (s : State) (d : PitchId) (f : Pitch → Pitch) : (s.modPitch d f).tick = s.tick := rfl
@[simp] theorem State.modPitch_tickSet (s : State) (d : PitchId) (f : Pitch → Pitch) : (s.modPitch d f).tickSet = s.tickSet := rfl
@[simp] theorem State.modPitch_tset (s : State) (d : PitchId) (f : Pitch → Pitch) : (s.modPitch d f).tset = s.tset := rfl
@[simp] theorem State.modPitch_dead (s : State) (d : PitchId) (f : Pitch → Pitch) : (s.modPitch d f).dead = s.dead := rfl
@[simp] theorem State.modPitch_struckTiles (s : State) (d : PitchId) (f : Pitch → Pitch) : (s.modPitch d f).struckTiles = s.struckTiles := rfl
@[simp] theorem State.modPitch_retired (s : State) (d : PitchId) (f : Pitch → Pitch) : (s.modPitch d f).retired = s.retired := rfl
@[simp] theorem State.modPitch_vacant (s : State) (d : PitchId) (f : Pitch → Pitch) : (s.modPitch d f).vacant = s.vacant := rfl
@[simp] theorem State.modPitch_vacated (s : State) (d : PitchId) (f : Pitch → Pitch) : (s.modPitch d f).vacated = s.vacated := rfl
@[simp] theorem State.modPitch_shipped (s : State) (d : PitchId) (f : Pitch → Pitch) : (s.modPitch d f).shipped = s.shipped := rfl
@[simp] theorem State.modPitch_shippedRanked (s : State) (d : PitchId) (f : Pitch → Pitch) : (s.modPitch d f).shippedRanked = s.shippedRanked := rfl
@[simp] theorem State.modPitch_standby (s : State) (d : PitchId) (f : Pitch → Pitch) : (s.modPitch d f).standby = s.standby := rfl
@[simp] theorem State.modPitch_attestKeyLoads (s : State) (d : PitchId) (f : Pitch → Pitch) : (s.modPitch d f).attestKeyLoads = s.attestKeyLoads := rfl
@[simp] theorem State.modPitch_images (s : State) (d : PitchId) (f : Pitch → Pitch) : (s.modPitch d f).images = s.images := rfl
@[simp] theorem State.modPitch_directory (s : State) (d : PitchId) (f : Pitch → Pitch) : (s.modPitch d f).directory = s.directory := rfl
@[simp] theorem State.modPitch_launches (s : State) (d : PitchId) (f : Pitch → Pitch) : (s.modPitch d f).launches = s.launches := rfl
@[simp] theorem State.modPitch_classes (s : State) (d : PitchId) (f : Pitch → Pitch) : (s.modPitch d f).classes = s.classes := rfl
@[simp] theorem State.modPitch_rotor (s : State) (d : PitchId) (f : Pitch → Pitch) : (s.modPitch d f).rotor = s.rotor := rfl
@[simp] theorem State.modPitch_born (s : State) (d : PitchId) (f : Pitch → Pitch) : (s.modPitch d f).born = s.born := rfl
@[simp] theorem State.modPitch_queues (s : State) (d : PitchId) (f : Pitch → Pitch) : (s.modPitch d f).queues = s.queues := rfl
@[simp] theorem State.modPitch_portals (s : State) (d : PitchId) (f : Pitch → Pitch) : (s.modPitch d f).portals = s.portals := rfl
@[simp] theorem State.modPitch_atomcap (s : State) (d : PitchId) (f : Pitch → Pitch) : (s.modPitch d f).atomcap = s.atomcap := rfl
@[simp] theorem State.modPitch_modidx (s : State) (d : PitchId) (f : Pitch → Pitch) : (s.modPitch d f).modidx = s.modidx := rfl
@[simp] theorem State.modPitch_hostRecords (s : State) (d : PitchId) (f : Pitch → Pitch) : (s.modPitch d f).hostRecords = s.hostRecords := rfl
@[simp] theorem State.modPitch_msix (s : State) (d : PitchId) (f : Pitch → Pitch) : (s.modPitch d f).msix = s.msix := rfl
@[simp] theorem State.modPitch_hostData (s : State) (d : PitchId) (f : Pitch → Pitch) : (s.modPitch d f).hostData = s.hostData := rfl
@[simp] theorem State.modPitch_topo (s : State) (d : PitchId) (f : Pitch → Pitch) : (s.modPitch d f).topo = s.topo := rfl
@[simp] theorem State.modPitch_swtick (s : State) (d : PitchId) (f : Pitch → Pitch) : (s.modPitch d f).swtick = s.swtick := rfl
@[simp] theorem State.modPitch_bankA (s : State) (d : PitchId) (f : Pitch → Pitch) : (s.modPitch d f).bankA = s.bankA := rfl
@[simp] theorem State.modPitch_bankB (s : State) (d : PitchId) (f : Pitch → Pitch) : (s.modPitch d f).bankB = s.bankB := rfl
@[simp] theorem State.modPitch_links (s : State) (d : PitchId) (f : Pitch → Pitch) : (s.modPitch d f).links = s.links := rfl
@[simp] theorem State.modPitch_linkUsed (s : State) (d : PitchId) (f : Pitch → Pitch) : (s.modPitch d f).linkUsed = s.linkUsed := rfl
@[simp] theorem State.modPitch_linkTrained (s : State) (d : PitchId) (f : Pitch → Pitch) : (s.modPitch d f).linkTrained = s.linkTrained := rfl
@[simp] theorem State.modPitch_mailbox (s : State) (d : PitchId) (f : Pitch → Pitch) : (s.modPitch d f).mailbox = s.mailbox := rfl
@[simp] theorem State.modPitch_refreshes (s : State) (d : PitchId) (f : Pitch → Pitch) : (s.modPitch d f).refreshes = s.refreshes := rfl
@[simp] theorem State.modPitch_refreshBase (s : State) (d : PitchId) (f : Pitch → Pitch) : (s.modPitch d f).refreshBase = s.refreshBase := rfl
@[simp] theorem State.modPitch_refreshSpan (s : State) (d : PitchId) (f : Pitch → Pitch) : (s.modPitch d f).refreshSpan = s.refreshSpan := rfl
@[simp] theorem State.modPitch_tier2 (s : State) (d : PitchId) (f : Pitch → Pitch) : (s.modPitch d f).tier2 = s.tier2 := rfl
@[simp] theorem State.modPitch_tier2Down (s : State) (d : PitchId) (f : Pitch → Pitch) : (s.modPitch d f).tier2Down = s.tier2Down := rfl
@[simp] theorem State.modPitch_abroad (s : State) (d : PitchId) (f : Pitch → Pitch) : (s.modPitch d f).abroad = s.abroad := rfl
@[simp] theorem State.modPitch_silentModules (s : State) (d : PitchId) (f : Pitch → Pitch) : (s.modPitch d f).silentModules = s.silentModules := rfl
@[simp] theorem State.modPitch_jobFailed (s : State) (d : PitchId) (f : Pitch → Pitch) : (s.modPitch d f).jobFailed = s.jobFailed := rfl
@[simp] theorem State.next_tiles (s : State) (ms : List Move) : (s.next ms).tiles = s.tiles := rfl
@[simp] theorem State.next_mem (s : State) (ms : List Move) : (s.next ms).mem = s.mem := rfl
@[simp] theorem State.next_poison (s : State) (ms : List Move) : (s.next ms).poison = s.poison := rfl
@[simp] theorem State.next_marks (s : State) (ms : List Move) : (s.next ms).marks = s.marks := rfl
@[simp] theorem State.next_fields (s : State) (ms : List Move) : (s.next ms).fields = s.fields := rfl
@[simp] theorem State.next_pitches (s : State) (ms : List Move) : (s.next ms).pitches = s.pitches := rfl
@[simp] theorem State.next_focus (s : State) (ms : List Move) : (s.next ms).focus = s.focus := rfl
@[simp] theorem State.next_free (s : State) (ms : List Move) : (s.next ms).free = s.free := rfl
@[simp] theorem State.next_reqs (s : State) (ms : List Move) : (s.next ms).reqs = s.reqs := rfl
@[simp] theorem State.next_events (s : State) (ms : List Move) : (s.next ms).events = s.events := rfl
@[simp] theorem State.next_tick (s : State) (ms : List Move) : (s.next ms).tick = s.tick := rfl
@[simp] theorem State.next_tickSet (s : State) (ms : List Move) : (s.next ms).tickSet = s.tickSet := rfl
@[simp] theorem State.next_tset (s : State) (ms : List Move) : (s.next ms).tset = s.tset := rfl
@[simp] theorem State.next_dead (s : State) (ms : List Move) : (s.next ms).dead = s.dead := rfl
@[simp] theorem State.next_struckTiles (s : State) (ms : List Move) : (s.next ms).struckTiles = s.struckTiles := rfl
@[simp] theorem State.next_retired (s : State) (ms : List Move) : (s.next ms).retired = s.retired := rfl
@[simp] theorem State.next_vacant (s : State) (ms : List Move) : (s.next ms).vacant = s.vacant := rfl
@[simp] theorem State.next_vacated (s : State) (ms : List Move) : (s.next ms).vacated = s.vacated := rfl
@[simp] theorem State.next_shipped (s : State) (ms : List Move) : (s.next ms).shipped = s.shipped := rfl
@[simp] theorem State.next_shippedRanked (s : State) (ms : List Move) : (s.next ms).shippedRanked = s.shippedRanked := rfl
@[simp] theorem State.next_standby (s : State) (ms : List Move) : (s.next ms).standby = s.standby := rfl
@[simp] theorem State.next_attestKeyLoads (s : State) (ms : List Move) : (s.next ms).attestKeyLoads = s.attestKeyLoads := rfl
@[simp] theorem State.next_images (s : State) (ms : List Move) : (s.next ms).images = s.images := rfl
@[simp] theorem State.next_directory (s : State) (ms : List Move) : (s.next ms).directory = s.directory := rfl
@[simp] theorem State.next_launches (s : State) (ms : List Move) : (s.next ms).launches = s.launches := rfl
@[simp] theorem State.next_classes (s : State) (ms : List Move) : (s.next ms).classes = s.classes := rfl
@[simp] theorem State.next_rotor (s : State) (ms : List Move) : (s.next ms).rotor = s.rotor := rfl
@[simp] theorem State.next_born (s : State) (ms : List Move) : (s.next ms).born = s.born := rfl
@[simp] theorem State.next_queues (s : State) (ms : List Move) : (s.next ms).queues = s.queues := rfl
@[simp] theorem State.next_portals (s : State) (ms : List Move) : (s.next ms).portals = s.portals := rfl
@[simp] theorem State.next_atomcap (s : State) (ms : List Move) : (s.next ms).atomcap = s.atomcap := rfl
@[simp] theorem State.next_modidx (s : State) (ms : List Move) : (s.next ms).modidx = s.modidx := rfl
@[simp] theorem State.next_hostRecords (s : State) (ms : List Move) : (s.next ms).hostRecords = s.hostRecords := rfl
@[simp] theorem State.next_msix (s : State) (ms : List Move) : (s.next ms).msix = s.msix := rfl
@[simp] theorem State.next_hostData (s : State) (ms : List Move) : (s.next ms).hostData = s.hostData := rfl
@[simp] theorem State.next_topo (s : State) (ms : List Move) : (s.next ms).topo = s.topo := rfl
@[simp] theorem State.next_swtick (s : State) (ms : List Move) : (s.next ms).swtick = s.swtick := rfl
@[simp] theorem State.next_bankA (s : State) (ms : List Move) : (s.next ms).bankA = s.bankA := rfl
@[simp] theorem State.next_bankB (s : State) (ms : List Move) : (s.next ms).bankB = s.bankB := rfl
@[simp] theorem State.next_links (s : State) (ms : List Move) : (s.next ms).links = s.links := rfl
@[simp] theorem State.next_linkUsed (s : State) (ms : List Move) : (s.next ms).linkUsed = s.linkUsed := rfl
@[simp] theorem State.next_linkTrained (s : State) (ms : List Move) : (s.next ms).linkTrained = s.linkTrained := rfl
@[simp] theorem State.next_mailbox (s : State) (ms : List Move) : (s.next ms).mailbox = s.mailbox := rfl
@[simp] theorem State.next_refreshes (s : State) (ms : List Move) : (s.next ms).refreshes = s.refreshes := rfl
@[simp] theorem State.next_refreshBase (s : State) (ms : List Move) : (s.next ms).refreshBase = s.refreshBase := rfl
@[simp] theorem State.next_refreshSpan (s : State) (ms : List Move) : (s.next ms).refreshSpan = s.refreshSpan := rfl
@[simp] theorem State.next_tier2 (s : State) (ms : List Move) : (s.next ms).tier2 = s.tier2 := rfl
@[simp] theorem State.next_tier2Down (s : State) (ms : List Move) : (s.next ms).tier2Down = s.tier2Down := rfl
@[simp] theorem State.next_abroad (s : State) (ms : List Move) : (s.next ms).abroad = s.abroad := rfl
@[simp] theorem State.next_silentModules (s : State) (ms : List Move) : (s.next ms).silentModules = s.silentModules := rfl
@[simp] theorem State.next_jobFailed (s : State) (ms : List Move) : (s.next ms).jobFailed = s.jobFailed := rfl

/-! ## A context in a tile -/

@[simp] theorem Tile.setCtx_pitch (t : Tile) (i : CtxId) (c : Ctx) : (t.setCtx i c).pitch = t.pitch := by cases i <;> rfl
@[simp] theorem Tile.setCtx_pitchReg (t : Tile) (i : CtxId) (c : Ctx) : (t.setCtx i c).pitchReg = t.pitchReg := by cases i <;> rfl
@[simp] theorem Tile.setCtx_node (t : Tile) (i : CtxId) (c : Ctx) : (t.setCtx i c).node = t.node := by cases i <;> rfl
@[simp] theorem Tile.setCtx_coreS (t : Tile) (i : CtxId) (c : Ctx) : (t.setCtx i c).coreS = t.coreS := by cases i <;> rfl
@[simp] theorem Tile.setCtx_coreC (t : Tile) (i : CtxId) (c : Ctx) : (t.setCtx i c).coreC = t.coreC := by cases i <;> rfl
@[simp] theorem Tile.setCtx_kinds (t : Tile) (i : CtxId) (c : Ctx) : (t.setCtx i c).kinds = t.kinds := by cases i <;> rfl
@[simp] theorem Tile.setCtx_sems (t : Tile) (i : CtxId) (c : Ctx) : (t.setCtx i c).sems = t.sems := by cases i <;> rfl
@[simp] theorem Tile.setCtx_bars (t : Tile) (i : CtxId) (c : Ctx) : (t.setCtx i c).bars = t.bars := by cases i <;> rfl
@[simp] theorem Tile.setCtx_z (t : Tile) (i : CtxId) (c : Ctx) : (t.setCtx i c).z = t.z := by cases i <;> rfl
@[simp] theorem Tile.setCtx_h (t : Tile) (i : CtxId) (c : Ctx) : (t.setCtx i c).h = t.h := by cases i <;> rfl
@[simp] theorem Tile.setCtx_matrix (t : Tile) (i : CtxId) (c : Ctx) : (t.setCtx i c).matrix = t.matrix := by cases i <;> rfl
@[simp] theorem Tile.setCtx_copy (t : Tile) (i : CtxId) (c : Ctx) : (t.setCtx i c).copy = t.copy := by cases i <;> rfl
@[simp] theorem Tile.setCtx_inbox (t : Tile) (i : CtxId) (c : Ctx) : (t.setCtx i c).inbox = t.inbox := by cases i <;> rfl
@[simp] theorem Tile.setCtx_router (t : Tile) (i : CtxId) (c : Ctx) : (t.setCtx i c).router = t.router := by cases i <;> rfl
@[simp] theorem Tile.setCtx_current (t : Tile) (i : CtxId) (c : Ctx) : (t.setCtx i c).current = t.current := by cases i <;> rfl
@[simp] theorem Tile.setCtx_resps (t : Tile) (i : CtxId) (c : Ctx) : (t.setCtx i c).resps = t.resps := by cases i <;> rfl
@[simp] theorem Tile.setCtx_replies (t : Tile) (i : CtxId) (c : Ctx) : (t.setCtx i c).replies = t.replies := by cases i <;> rfl
@[simp] theorem Tile.setCtx_nacks (t : Tile) (i : CtxId) (c : Ctx) : (t.setCtx i c).nacks = t.nacks := by cases i <;> rfl
@[simp] theorem Tile.setCtx_cache (t : Tile) (i : CtxId) (c : Ctx) : (t.setCtx i c).cache = t.cache := by cases i <;> rfl
@[simp] theorem Tile.setCtx_shared (t : Tile) (i : CtxId) (c : Ctx) : (t.setCtx i c).shared = t.shared := by cases i <;> rfl
@[simp] theorem Tile.setCtx_sharedOf (t : Tile) (i : CtxId) (c : Ctx) : (t.setCtx i c).sharedOf = t.sharedOf := by cases i <;> rfl
@[simp] theorem Tile.setCtx_lease (t : Tile) (i : CtxId) (c : Ctx) : (t.setCtx i c).lease = t.lease := by cases i <;> rfl
@[simp] theorem Tile.setCtx_tlb (t : Tile) (i : CtxId) (c : Ctx) : (t.setCtx i c).tlb = t.tlb := by cases i <;> rfl
@[simp] theorem Tile.setCtx_lines (t : Tile) (i : CtxId) (c : Ctx) : (t.setCtx i c).lines = t.lines := by cases i <;> rfl
@[simp] theorem Tile.setCtx_leases (t : Tile) (i : CtxId) (c : Ctx) : (t.setCtx i c).leases = t.leases := by cases i <;> rfl
@[simp] theorem Tile.setCtx_sent (t : Tile) (i : CtxId) (c : Ctx) : (t.setCtx i c).sent = t.sent := by cases i <;> rfl
@[simp] theorem Tile.setCtx_recvd (t : Tile) (i : CtxId) (c : Ctx) : (t.setCtx i c).recvd = t.recvd := by cases i <;> rfl
@[simp] theorem Tile.setCtx_msgSent (t : Tile) (i : CtxId) (c : Ctx) : (t.setCtx i c).msgSent = t.msgSent := by cases i <;> rfl
@[simp] theorem Tile.setCtx_msgDone (t : Tile) (i : CtxId) (c : Ctx) : (t.setCtx i c).msgDone = t.msgDone := by cases i <;> rfl
@[simp] theorem Tile.setCtx_prior (t : Tile) (i : CtxId) (c : Ctx) : (t.setCtx i c).prior = t.prior := by cases i <;> rfl
@[simp] theorem Tile.setCtx_hbad (t : Tile) (i : CtxId) (c : Ctx) : (t.setCtx i c).hbad = t.hbad := by cases i <;> rfl
@[simp] theorem Tile.setCtx_cyc (t : Tile) (i : CtxId) (c : Ctx) : (t.setCtx i c).cyc = t.cyc := by cases i <;> rfl
@[simp] theorem Tile.setCtx_held (t : Tile) (i : CtxId) (c : Ctx) : (t.setCtx i c).held = t.held := by cases i <;> rfl
@[simp] theorem Tile.setCtx_heldAt (t : Tile) (i : CtxId) (c : Ctx) : (t.setCtx i c).heldAt = t.heldAt := by cases i <;> rfl
@[simp] theorem Tile.setCtx_saveMode (t : Tile) (i : CtxId) (c : Ctx) : (t.setCtx i c).saveMode = t.saveMode := by cases i <;> rfl
@[simp] theorem Tile.setCtx_saved (t : Tile) (i : CtxId) (c : Ctx) : (t.setCtx i c).saved = t.saved := by cases i <;> rfl
@[simp] theorem Tile.setCtx_switching (t : Tile) (i : CtxId) (c : Ctx) : (t.setCtx i c).switching = t.switching := by cases i <;> rfl
@[simp] theorem Tile.setCtx_step (t : Tile) (i : CtxId) (c : Ctx) : (t.setCtx i c).step = t.step := by cases i <;> rfl
@[simp] theorem Tile.setCtx_auto (t : Tile) (i : CtxId) (c : Ctx) : (t.setCtx i c).auto = t.auto := by cases i <;> rfl
@[simp] theorem Tile.setCtx_tgt (t : Tile) (i : CtxId) (c : Ctx) : (t.setCtx i c).tgt = t.tgt := by cases i <;> rfl
@[simp] theorem Tile.setCtx_susp (t : Tile) (i : CtxId) (c : Ctx) : (t.setCtx i c).susp = t.susp := by cases i <;> rfl
@[simp] theorem Tile.setCtx_mev (t : Tile) (i : CtxId) (c : Ctx) : (t.setCtx i c).mev = t.mev := by cases i <;> rfl
@[simp] theorem Tile.setCtx_supply (t : Tile) (i : CtxId) (c : Ctx) : (t.setCtx i c).supply = t.supply := by cases i <;> rfl
@[simp] theorem Tile.setCtx_ltrcnt (t : Tile) (i : CtxId) (c : Ctx) : (t.setCtx i c).ltrcnt = t.ltrcnt := by cases i <;> rfl
@[simp] theorem Tile.setCtx_ltrlim (t : Tile) (i : CtxId) (c : Ctx) : (t.setCtx i c).ltrlim = t.ltrlim := by cases i <;> rfl
@[simp] theorem Tile.setCtx_ltrwin (t : Tile) (i : CtxId) (c : Ctx) : (t.setCtx i c).ltrwin = t.ltrwin := by cases i <;> rfl
@[simp] theorem Tile.setCtx_chkcnt (t : Tile) (i : CtxId) (c : Ctx) : (t.setCtx i c).chkcnt = t.chkcnt := by cases i <;> rfl
@[simp] theorem Tile.setCtx_chkskip (t : Tile) (i : CtxId) (c : Ctx) : (t.setCtx i c).chkskip = t.chkskip := by cases i <;> rfl
@[simp] theorem Tile.setCtx_window (t : Tile) (i : CtxId) (c : Ctx) : (t.setCtx i c).window = t.window := by cases i <;> rfl
@[simp] theorem Tile.setCtx_stretches (t : Tile) (i : CtxId) (c : Ctx) : (t.setCtx i c).stretches = t.stretches := by cases i <;> rfl
@[simp] theorem Tile.setCtx_winReplays (t : Tile) (i : CtxId) (c : Ctx) : (t.setCtx i c).winReplays = t.winReplays := by cases i <;> rfl
@[simp] theorem Tile.setCtx_winStretched (t : Tile) (i : CtxId) (c : Ctx) : (t.setCtx i c).winStretched = t.winStretched := by cases i <;> rfl
@[simp] theorem Tile.setCtx_winPosted (t : Tile) (i : CtxId) (c : Ctx) : (t.setCtx i c).winPosted = t.winPosted := by cases i <;> rfl
@[simp] theorem Tile.setCtx_fly (t : Tile) (i : CtxId) (c : Ctx) : (t.setCtx i c).fly = t.fly := by cases i <;> rfl
@[simp] theorem Tile.setCtx_clock (t : Tile) (i : CtxId) (c : Ctx) : (t.setCtx i c).clock = t.clock := by cases i <;> rfl
@[simp] theorem Tile.setCtx_clkEvt (t : Tile) (i : CtxId) (c : Ctx) : (t.setCtx i c).clkEvt = t.clkEvt := by cases i <;> rfl
@[simp] theorem Tile.setCtx_clkCur (t : Tile) (i : CtxId) (c : Ctx) : (t.setCtx i c).clkCur = t.clkCur := by cases i <;> rfl
@[simp] theorem Tile.setCtx_thrWindow (t : Tile) (i : CtxId) (c : Ctx) : (t.setCtx i c).thrWindow = t.thrWindow := by cases i <;> rfl
@[simp] theorem Tile.setCtx_throttled (t : Tile) (i : CtxId) (c : Ctx) : (t.setCtx i c).throttled = t.throttled := by cases i <;> rfl
@[simp] theorem Tile.setCtx_thr (t : Tile) (i : CtxId) (c : Ctx) : (t.setCtx i c).thr = t.thr := by cases i <;> rfl
@[simp] theorem Tile.setCtx_ballast (t : Tile) (i : CtxId) (c : Ctx) : (t.setCtx i c).ballast = t.ballast := by cases i <;> rfl
@[simp] theorem Tile.setCtx_pclass (t : Tile) (i : CtxId) (c : Ctx) : (t.setCtx i c).pclass = t.pclass := by cases i <;> rfl
@[simp] theorem Tile.setCtx_gridB (t : Tile) (i : CtxId) (c : Ctx) : (t.setCtx i c).gridB = t.gridB := by cases i <;> rfl
@[simp] theorem Tile.setCtx_struck (t : Tile) (i : CtxId) (c : Ctx) : (t.setCtx i c).struck = t.struck := by cases i <;> rfl
@[simp] theorem Tile.setCtx_strikeDue (t : Tile) (i : CtxId) (c : Ctx) : (t.setCtx i c).strikeDue = t.strikeDue := by cases i <;> rfl
@[simp] theorem Tile.setCtx_fatal20 (t : Tile) (i : CtxId) (c : Ctx) : (t.setCtx i c).fatal20 = t.fatal20 := by cases i <;> rfl
@[simp] theorem Tile.setCtx_fatal22 (t : Tile) (i : CtxId) (c : Ctx) : (t.setCtx i c).fatal22 = t.fatal22 := by cases i <;> rfl
@[simp] theorem Tile.setCtx_late (t : Tile) (i : CtxId) (c : Ctx) : (t.setCtx i c).late = t.late := by cases i <;> rfl
@[simp] theorem Tile.setCtx_meshDown (t : Tile) (i : CtxId) (c : Ctx) : (t.setCtx i c).meshDown = t.meshDown := by cases i <;> rfl
@[simp] theorem Tile.setCtx_beacons (t : Tile) (i : CtxId) (c : Ctx) : (t.setCtx i c).beacons = t.beacons := by cases i <;> rfl
@[simp] theorem Tile.setCore_pitch (t : Tile) (i : CoreId) (k : Core) : (t.setCore i k).pitch = t.pitch := by cases i <;> rfl
@[simp] theorem Tile.setCore_pitchReg (t : Tile) (i : CoreId) (k : Core) : (t.setCore i k).pitchReg = t.pitchReg := by cases i <;> rfl
@[simp] theorem Tile.setCore_node (t : Tile) (i : CoreId) (k : Core) : (t.setCore i k).node = t.node := by cases i <;> rfl
@[simp] theorem Tile.setCore_s (t : Tile) (i : CoreId) (k : Core) : (t.setCore i k).s = t.s := by cases i <;> rfl
@[simp] theorem Tile.setCore_c (t : Tile) (i : CoreId) (k : Core) : (t.setCore i k).c = t.c := by cases i <;> rfl
@[simp] theorem Tile.setCore_m (t : Tile) (i : CoreId) (k : Core) : (t.setCore i k).m = t.m := by cases i <;> rfl
@[simp] theorem Tile.setCore_kinds (t : Tile) (i : CoreId) (k : Core) : (t.setCore i k).kinds = t.kinds := by cases i <;> rfl
@[simp] theorem Tile.setCore_sems (t : Tile) (i : CoreId) (k : Core) : (t.setCore i k).sems = t.sems := by cases i <;> rfl
@[simp] theorem Tile.setCore_bars (t : Tile) (i : CoreId) (k : Core) : (t.setCore i k).bars = t.bars := by cases i <;> rfl
@[simp] theorem Tile.setCore_z (t : Tile) (i : CoreId) (k : Core) : (t.setCore i k).z = t.z := by cases i <;> rfl
@[simp] theorem Tile.setCore_h (t : Tile) (i : CoreId) (k : Core) : (t.setCore i k).h = t.h := by cases i <;> rfl
@[simp] theorem Tile.setCore_matrix (t : Tile) (i : CoreId) (k : Core) : (t.setCore i k).matrix = t.matrix := by cases i <;> rfl
@[simp] theorem Tile.setCore_copy (t : Tile) (i : CoreId) (k : Core) : (t.setCore i k).copy = t.copy := by cases i <;> rfl
@[simp] theorem Tile.setCore_inbox (t : Tile) (i : CoreId) (k : Core) : (t.setCore i k).inbox = t.inbox := by cases i <;> rfl
@[simp] theorem Tile.setCore_router (t : Tile) (i : CoreId) (k : Core) : (t.setCore i k).router = t.router := by cases i <;> rfl
@[simp] theorem Tile.setCore_current (t : Tile) (i : CoreId) (k : Core) : (t.setCore i k).current = t.current := by cases i <;> rfl
@[simp] theorem Tile.setCore_resps (t : Tile) (i : CoreId) (k : Core) : (t.setCore i k).resps = t.resps := by cases i <;> rfl
@[simp] theorem Tile.setCore_replies (t : Tile) (i : CoreId) (k : Core) : (t.setCore i k).replies = t.replies := by cases i <;> rfl
@[simp] theorem Tile.setCore_nacks (t : Tile) (i : CoreId) (k : Core) : (t.setCore i k).nacks = t.nacks := by cases i <;> rfl
@[simp] theorem Tile.setCore_cache (t : Tile) (i : CoreId) (k : Core) : (t.setCore i k).cache = t.cache := by cases i <;> rfl
@[simp] theorem Tile.setCore_shared (t : Tile) (i : CoreId) (k : Core) : (t.setCore i k).shared = t.shared := by cases i <;> rfl
@[simp] theorem Tile.setCore_sharedOf (t : Tile) (i : CoreId) (k : Core) : (t.setCore i k).sharedOf = t.sharedOf := by cases i <;> rfl
@[simp] theorem Tile.setCore_lease (t : Tile) (i : CoreId) (k : Core) : (t.setCore i k).lease = t.lease := by cases i <;> rfl
@[simp] theorem Tile.setCore_tlb (t : Tile) (i : CoreId) (k : Core) : (t.setCore i k).tlb = t.tlb := by cases i <;> rfl
@[simp] theorem Tile.setCore_lines (t : Tile) (i : CoreId) (k : Core) : (t.setCore i k).lines = t.lines := by cases i <;> rfl
@[simp] theorem Tile.setCore_leases (t : Tile) (i : CoreId) (k : Core) : (t.setCore i k).leases = t.leases := by cases i <;> rfl
@[simp] theorem Tile.setCore_sent (t : Tile) (i : CoreId) (k : Core) : (t.setCore i k).sent = t.sent := by cases i <;> rfl
@[simp] theorem Tile.setCore_recvd (t : Tile) (i : CoreId) (k : Core) : (t.setCore i k).recvd = t.recvd := by cases i <;> rfl
@[simp] theorem Tile.setCore_msgSent (t : Tile) (i : CoreId) (k : Core) : (t.setCore i k).msgSent = t.msgSent := by cases i <;> rfl
@[simp] theorem Tile.setCore_msgDone (t : Tile) (i : CoreId) (k : Core) : (t.setCore i k).msgDone = t.msgDone := by cases i <;> rfl
@[simp] theorem Tile.setCore_prior (t : Tile) (i : CoreId) (k : Core) : (t.setCore i k).prior = t.prior := by cases i <;> rfl
@[simp] theorem Tile.setCore_hbad (t : Tile) (i : CoreId) (k : Core) : (t.setCore i k).hbad = t.hbad := by cases i <;> rfl
@[simp] theorem Tile.setCore_cyc (t : Tile) (i : CoreId) (k : Core) : (t.setCore i k).cyc = t.cyc := by cases i <;> rfl
@[simp] theorem Tile.setCore_held (t : Tile) (i : CoreId) (k : Core) : (t.setCore i k).held = t.held := by cases i <;> rfl
@[simp] theorem Tile.setCore_heldAt (t : Tile) (i : CoreId) (k : Core) : (t.setCore i k).heldAt = t.heldAt := by cases i <;> rfl
@[simp] theorem Tile.setCore_saveMode (t : Tile) (i : CoreId) (k : Core) : (t.setCore i k).saveMode = t.saveMode := by cases i <;> rfl
@[simp] theorem Tile.setCore_saved (t : Tile) (i : CoreId) (k : Core) : (t.setCore i k).saved = t.saved := by cases i <;> rfl
@[simp] theorem Tile.setCore_switching (t : Tile) (i : CoreId) (k : Core) : (t.setCore i k).switching = t.switching := by cases i <;> rfl
@[simp] theorem Tile.setCore_step (t : Tile) (i : CoreId) (k : Core) : (t.setCore i k).step = t.step := by cases i <;> rfl
@[simp] theorem Tile.setCore_auto (t : Tile) (i : CoreId) (k : Core) : (t.setCore i k).auto = t.auto := by cases i <;> rfl
@[simp] theorem Tile.setCore_tgt (t : Tile) (i : CoreId) (k : Core) : (t.setCore i k).tgt = t.tgt := by cases i <;> rfl
@[simp] theorem Tile.setCore_susp (t : Tile) (i : CoreId) (k : Core) : (t.setCore i k).susp = t.susp := by cases i <;> rfl
@[simp] theorem Tile.setCore_mev (t : Tile) (i : CoreId) (k : Core) : (t.setCore i k).mev = t.mev := by cases i <;> rfl
@[simp] theorem Tile.setCore_supply (t : Tile) (i : CoreId) (k : Core) : (t.setCore i k).supply = t.supply := by cases i <;> rfl
@[simp] theorem Tile.setCore_ltrcnt (t : Tile) (i : CoreId) (k : Core) : (t.setCore i k).ltrcnt = t.ltrcnt := by cases i <;> rfl
@[simp] theorem Tile.setCore_ltrlim (t : Tile) (i : CoreId) (k : Core) : (t.setCore i k).ltrlim = t.ltrlim := by cases i <;> rfl
@[simp] theorem Tile.setCore_ltrwin (t : Tile) (i : CoreId) (k : Core) : (t.setCore i k).ltrwin = t.ltrwin := by cases i <;> rfl
@[simp] theorem Tile.setCore_chkcnt (t : Tile) (i : CoreId) (k : Core) : (t.setCore i k).chkcnt = t.chkcnt := by cases i <;> rfl
@[simp] theorem Tile.setCore_chkskip (t : Tile) (i : CoreId) (k : Core) : (t.setCore i k).chkskip = t.chkskip := by cases i <;> rfl
@[simp] theorem Tile.setCore_window (t : Tile) (i : CoreId) (k : Core) : (t.setCore i k).window = t.window := by cases i <;> rfl
@[simp] theorem Tile.setCore_stretches (t : Tile) (i : CoreId) (k : Core) : (t.setCore i k).stretches = t.stretches := by cases i <;> rfl
@[simp] theorem Tile.setCore_winReplays (t : Tile) (i : CoreId) (k : Core) : (t.setCore i k).winReplays = t.winReplays := by cases i <;> rfl
@[simp] theorem Tile.setCore_winStretched (t : Tile) (i : CoreId) (k : Core) : (t.setCore i k).winStretched = t.winStretched := by cases i <;> rfl
@[simp] theorem Tile.setCore_winPosted (t : Tile) (i : CoreId) (k : Core) : (t.setCore i k).winPosted = t.winPosted := by cases i <;> rfl
@[simp] theorem Tile.setCore_fly (t : Tile) (i : CoreId) (k : Core) : (t.setCore i k).fly = t.fly := by cases i <;> rfl
@[simp] theorem Tile.setCore_clock (t : Tile) (i : CoreId) (k : Core) : (t.setCore i k).clock = t.clock := by cases i <;> rfl
@[simp] theorem Tile.setCore_clkEvt (t : Tile) (i : CoreId) (k : Core) : (t.setCore i k).clkEvt = t.clkEvt := by cases i <;> rfl
@[simp] theorem Tile.setCore_clkCur (t : Tile) (i : CoreId) (k : Core) : (t.setCore i k).clkCur = t.clkCur := by cases i <;> rfl
@[simp] theorem Tile.setCore_thrWindow (t : Tile) (i : CoreId) (k : Core) : (t.setCore i k).thrWindow = t.thrWindow := by cases i <;> rfl
@[simp] theorem Tile.setCore_throttled (t : Tile) (i : CoreId) (k : Core) : (t.setCore i k).throttled = t.throttled := by cases i <;> rfl
@[simp] theorem Tile.setCore_thr (t : Tile) (i : CoreId) (k : Core) : (t.setCore i k).thr = t.thr := by cases i <;> rfl
@[simp] theorem Tile.setCore_ballast (t : Tile) (i : CoreId) (k : Core) : (t.setCore i k).ballast = t.ballast := by cases i <;> rfl
@[simp] theorem Tile.setCore_pclass (t : Tile) (i : CoreId) (k : Core) : (t.setCore i k).pclass = t.pclass := by cases i <;> rfl
@[simp] theorem Tile.setCore_gridB (t : Tile) (i : CoreId) (k : Core) : (t.setCore i k).gridB = t.gridB := by cases i <;> rfl
@[simp] theorem Tile.setCore_struck (t : Tile) (i : CoreId) (k : Core) : (t.setCore i k).struck = t.struck := by cases i <;> rfl
@[simp] theorem Tile.setCore_strikeDue (t : Tile) (i : CoreId) (k : Core) : (t.setCore i k).strikeDue = t.strikeDue := by cases i <;> rfl
@[simp] theorem Tile.setCore_fatal20 (t : Tile) (i : CoreId) (k : Core) : (t.setCore i k).fatal20 = t.fatal20 := by cases i <;> rfl
@[simp] theorem Tile.setCore_fatal22 (t : Tile) (i : CoreId) (k : Core) : (t.setCore i k).fatal22 = t.fatal22 := by cases i <;> rfl
@[simp] theorem Tile.setCore_late (t : Tile) (i : CoreId) (k : Core) : (t.setCore i k).late = t.late := by cases i <;> rfl
@[simp] theorem Tile.setCore_meshDown (t : Tile) (i : CoreId) (k : Core) : (t.setCore i k).meshDown = t.meshDown := by cases i <;> rfl
@[simp] theorem Tile.setCore_beacons (t : Tile) (i : CoreId) (k : Core) : (t.setCore i k).beacons = t.beacons := by cases i <;> rfl

/-! ## Registers in a context -/

@[simp] theorem Ctx.setG_run (c : Ctx) (i : GReg) (w : Word) : (c.setG i w).run = c.run := by unfold Ctx.setG; split <;> (try split) <;> rfl
@[simp] theorem Ctx.setG_sup (c : Ctx) (i : GReg) (w : Word) : (c.setG i w).sup = c.sup := by unfold Ctx.setG; split <;> (try split) <;> rfl
@[simp] theorem Ctx.setG_pc (c : Ctx) (i : GReg) (w : Word) : (c.setG i w).pc = c.pc := by unfold Ctx.setG; split <;> (try split) <;> rfl
@[simp] theorem Ctx.setG_past (c : Ctx) (i : GReg) (w : Word) : (c.setG i w).past = c.past := by unfold Ctx.setG; split <;> (try split) <;> rfl
@[simp] theorem Ctx.setG_a (c : Ctx) (i : GReg) (w : Word) : (c.setG i w).a = c.a := by unfold Ctx.setG; split <;> (try split) <;> rfl
@[simp] theorem Ctx.setG_a3Sup (c : Ctx) (i : GReg) (w : Word) : (c.setG i w).a3Sup = c.a3Sup := by unfold Ctx.setG; split <;> (try split) <;> rfl
@[simp] theorem Ctx.setG_p (c : Ctx) (i : GReg) (w : Word) : (c.setG i w).p = c.p := by unfold Ctx.setG; split <;> (try split) <;> rfl
@[simp] theorem Ctx.setG_v (c : Ctx) (i : GReg) (w : Word) : (c.setG i w).v = c.v := by unfold Ctx.setG; split <;> (try split) <;> rfl
@[simp] theorem Ctx.setG_loops (c : Ctx) (i : GReg) (w : Word) : (c.setG i w).loops = c.loops := by unfold Ctx.setG; split <;> (try split) <;> rfl
@[simp] theorem Ctx.setG_trapLoops (c : Ctx) (i : GReg) (w : Word) : (c.setG i w).trapLoops = c.trapLoops := by unfold Ctx.setG; split <;> (try split) <;> rfl
@[simp] theorem Ctx.setG_left (c : Ctx) (i : GReg) (w : Word) : (c.setG i w).left = c.left := by unfold Ctx.setG; split <;> (try split) <;> rfl
@[simp] theorem Ctx.setG_hcur (c : Ctx) (i : GReg) (w : Word) : (c.setG i w).hcur = c.hcur := by unfold Ctx.setG; split <;> (try split) <;> rfl
@[simp] theorem Ctx.setG_tagin (c : Ctx) (i : GReg) (w : Word) : (c.setG i w).tagin = c.tagin := by unfold Ctx.setG; split <;> (try split) <;> rfl
@[simp] theorem Ctx.setG_tagout (c : Ctx) (i : GReg) (w : Word) : (c.setG i w).tagout = c.tagout := by unfold Ctx.setG; split <;> (try split) <;> rfl
@[simp] theorem Ctx.setG_amode (c : Ctx) (i : GReg) (w : Word) : (c.setG i w).amode = c.amode := by unfold Ctx.setG; split <;> (try split) <;> rfl
@[simp] theorem Ctx.setG_fflags (c : Ctx) (i : GReg) (w : Word) : (c.setG i w).fflags = c.fflags := by unfold Ctx.setG; split <;> (try split) <;> rfl
@[simp] theorem Ctx.setG_srseed (c : Ctx) (i : GReg) (w : Word) : (c.setG i w).srseed = c.srseed := by unfold Ctx.setG; split <;> (try split) <;> rfl
@[simp] theorem Ctx.setG_fmt (c : Ctx) (i : GReg) (w : Word) : (c.setG i w).fmt = c.fmt := by unfold Ctx.setG; split <;> (try split) <;> rfl
@[simp] theorem Ctx.setG_mshape (c : Ctx) (i : GReg) (w : Word) : (c.setG i w).mshape = c.mshape := by unfold Ctx.setG; split <;> (try split) <;> rfl
@[simp] theorem Ctx.setG_gang (c : Ctx) (i : GReg) (w : Word) : (c.setG i w).gang = c.gang := by unfold Ctx.setG; split <;> (try split) <;> rfl
@[simp] theorem Ctx.setG_vstride (c : Ctx) (i : GReg) (w : Word) : (c.setG i w).vstride = c.vstride := by unfold Ctx.setG; split <;> (try split) <;> rfl
@[simp] theorem Ctx.setG_tvec (c : Ctx) (i : GReg) (w : Word) : (c.setG i w).tvec = c.tvec := by unfold Ctx.setG; split <;> (try split) <;> rfl
@[simp] theorem Ctx.setG_tcause (c : Ctx) (i : GReg) (w : Word) : (c.setG i w).tcause = c.tcause := by unfold Ctx.setG; split <;> (try split) <;> rfl
@[simp] theorem Ctx.setG_tepc (c : Ctx) (i : GReg) (w : Word) : (c.setG i w).tepc = c.tepc := by unfold Ctx.setG; split <;> (try split) <;> rfl
@[simp] theorem Ctx.setG_tval (c : Ctx) (i : GReg) (w : Word) : (c.setG i w).tval = c.tval := by unfold Ctx.setG; split <;> (try split) <;> rfl
@[simp] theorem Ctx.setG_tvalh (c : Ctx) (i : GReg) (w : Word) : (c.setG i w).tvalh = c.tvalh := by unfold Ctx.setG; split <;> (try split) <;> rfl
@[simp] theorem Ctx.setG_tstat (c : Ctx) (i : GReg) (w : Word) : (c.setG i w).tstat = c.tstat := by unfold Ctx.setG; split <;> (try split) <;> rfl
@[simp] theorem Ctx.setG_seen (c : Ctx) (i : GReg) (w : Word) : (c.setG i w).seen = c.seen := by unfold Ctx.setG; split <;> (try split) <;> rfl
@[simp] theorem Ctx.setG_wd (c : Ctx) (i : GReg) (w : Word) : (c.setG i w).wd = c.wd := by unfold Ctx.setG; split <;> (try split) <;> rfl
@[simp] theorem Ctx.setG_wdFired (c : Ctx) (i : GReg) (w : Word) : (c.setG i w).wdFired = c.wdFired := by unfold Ctx.setG; split <;> (try split) <;> rfl
@[simp] theorem Ctx.setG_waiting (c : Ctx) (i : GReg) (w : Word) : (c.setG i w).waiting = c.waiting := by unfold Ctx.setG; split <;> (try split) <;> rfl
@[simp] theorem Ctx.setG_pts (c : Ctx) (i : GReg) (w : Word) : (c.setG i w).pts = c.pts := by unfold Ctx.setG; split <;> (try split) <;> rfl
@[simp] theorem Ctx.setG_xact (c : Ctx) (i : GReg) (w : Word) : (c.setG i w).xact = c.xact := by unfold Ctx.setG; split <;> (try split) <;> rfl
@[simp] theorem Ctx.setG_storing (c : Ctx) (i : GReg) (w : Word) : (c.setG i w).storing = c.storing := by unfold Ctx.setG; split <;> (try split) <;> rfl
@[simp] theorem Ctx.setG_posted (c : Ctx) (i : GReg) (w : Word) : (c.setG i w).posted = c.posted := by unfold Ctx.setG; split <;> (try split) <;> rfl
@[simp] theorem Ctx.setG_postedMsgs (c : Ctx) (i : GReg) (w : Word) : (c.setG i w).postedMsgs = c.postedMsgs := by unfold Ctx.setG; split <;> (try split) <;> rfl
@[simp] theorem Ctx.setG_reply (c : Ctx) (i : GReg) (w : Word) : (c.setG i w).reply = c.reply := by unfold Ctx.setG; split <;> (try split) <;> rfl
@[simp] theorem Ctx.setG_replyTag (c : Ctx) (i : GReg) (w : Word) : (c.setG i w).replyTag = c.replyTag := by unfold Ctx.setG; split <;> (try split) <;> rfl
@[simp] theorem Ctx.setG_colset (c : Ctx) (i : GReg) (w : Word) : (c.setG i w).colset = c.colset := by unfold Ctx.setG; split <;> (try split) <;> rfl
@[simp] theorem Ctx.setG_answer (c : Ctx) (i : GReg) (w : Word) : (c.setG i w).answer = c.answer := by unfold Ctx.setG; split <;> (try split) <;> rfl
@[simp] theorem Ctx.setG_due (c : Ctx) (i : GReg) (w : Word) : (c.setG i w).due = c.due := by unfold Ctx.setG; split <;> (try split) <;> rfl
@[simp] theorem Ctx.setG_dueHeld (c : Ctx) (i : GReg) (w : Word) : (c.setG i w).dueHeld = c.dueHeld := by unfold Ctx.setG; split <;> (try split) <;> rfl
@[simp] theorem Ctx.setG_replays (c : Ctx) (i : GReg) (w : Word) : (c.setG i w).replays = c.replays := by unfold Ctx.setG; split <;> (try split) <;> rfl
@[simp] theorem Ctx.setG_hstep (c : Ctx) (i : GReg) (w : Word) : (c.setG i w).hstep = c.hstep := by unfold Ctx.setG; split <;> (try split) <;> rfl
@[simp] theorem Ctx.setG_hreplays (c : Ctx) (i : GReg) (w : Word) : (c.setG i w).hreplays = c.hreplays := by unfold Ctx.setG; split <;> (try split) <;> rfl
@[simp] theorem Ctx.setG_resume (c : Ctx) (i : GReg) (w : Word) : (c.setG i w).resume = c.resume := by unfold Ctx.setG; split <;> (try split) <;> rfl
@[simp] theorem Ctx.setA_run (c : Ctx) (i : AReg) (w : DWord) : (c.setA i w).run = c.run := by unfold Ctx.setA; split <;> (try split) <;> rfl
@[simp] theorem Ctx.setA_sup (c : Ctx) (i : AReg) (w : DWord) : (c.setA i w).sup = c.sup := by unfold Ctx.setA; split <;> (try split) <;> rfl
@[simp] theorem Ctx.setA_pc (c : Ctx) (i : AReg) (w : DWord) : (c.setA i w).pc = c.pc := by unfold Ctx.setA; split <;> (try split) <;> rfl
@[simp] theorem Ctx.setA_past (c : Ctx) (i : AReg) (w : DWord) : (c.setA i w).past = c.past := by unfold Ctx.setA; split <;> (try split) <;> rfl
@[simp] theorem Ctx.setA_g (c : Ctx) (i : AReg) (w : DWord) : (c.setA i w).g = c.g := by unfold Ctx.setA; split <;> (try split) <;> rfl
@[simp] theorem Ctx.setA_gSup (c : Ctx) (i : AReg) (w : DWord) : (c.setA i w).gSup = c.gSup := by unfold Ctx.setA; split <;> (try split) <;> rfl
@[simp] theorem Ctx.setA_p (c : Ctx) (i : AReg) (w : DWord) : (c.setA i w).p = c.p := by unfold Ctx.setA; split <;> (try split) <;> rfl
@[simp] theorem Ctx.setA_v (c : Ctx) (i : AReg) (w : DWord) : (c.setA i w).v = c.v := by unfold Ctx.setA; split <;> (try split) <;> rfl
@[simp] theorem Ctx.setA_loops (c : Ctx) (i : AReg) (w : DWord) : (c.setA i w).loops = c.loops := by unfold Ctx.setA; split <;> (try split) <;> rfl
@[simp] theorem Ctx.setA_trapLoops (c : Ctx) (i : AReg) (w : DWord) : (c.setA i w).trapLoops = c.trapLoops := by unfold Ctx.setA; split <;> (try split) <;> rfl
@[simp] theorem Ctx.setA_left (c : Ctx) (i : AReg) (w : DWord) : (c.setA i w).left = c.left := by unfold Ctx.setA; split <;> (try split) <;> rfl
@[simp] theorem Ctx.setA_hcur (c : Ctx) (i : AReg) (w : DWord) : (c.setA i w).hcur = c.hcur := by unfold Ctx.setA; split <;> (try split) <;> rfl
@[simp] theorem Ctx.setA_tagin (c : Ctx) (i : AReg) (w : DWord) : (c.setA i w).tagin = c.tagin := by unfold Ctx.setA; split <;> (try split) <;> rfl
@[simp] theorem Ctx.setA_tagout (c : Ctx) (i : AReg) (w : DWord) : (c.setA i w).tagout = c.tagout := by unfold Ctx.setA; split <;> (try split) <;> rfl
@[simp] theorem Ctx.setA_amode (c : Ctx) (i : AReg) (w : DWord) : (c.setA i w).amode = c.amode := by unfold Ctx.setA; split <;> (try split) <;> rfl
@[simp] theorem Ctx.setA_fflags (c : Ctx) (i : AReg) (w : DWord) : (c.setA i w).fflags = c.fflags := by unfold Ctx.setA; split <;> (try split) <;> rfl
@[simp] theorem Ctx.setA_srseed (c : Ctx) (i : AReg) (w : DWord) : (c.setA i w).srseed = c.srseed := by unfold Ctx.setA; split <;> (try split) <;> rfl
@[simp] theorem Ctx.setA_fmt (c : Ctx) (i : AReg) (w : DWord) : (c.setA i w).fmt = c.fmt := by unfold Ctx.setA; split <;> (try split) <;> rfl
@[simp] theorem Ctx.setA_mshape (c : Ctx) (i : AReg) (w : DWord) : (c.setA i w).mshape = c.mshape := by unfold Ctx.setA; split <;> (try split) <;> rfl
@[simp] theorem Ctx.setA_gang (c : Ctx) (i : AReg) (w : DWord) : (c.setA i w).gang = c.gang := by unfold Ctx.setA; split <;> (try split) <;> rfl
@[simp] theorem Ctx.setA_vstride (c : Ctx) (i : AReg) (w : DWord) : (c.setA i w).vstride = c.vstride := by unfold Ctx.setA; split <;> (try split) <;> rfl
@[simp] theorem Ctx.setA_tvec (c : Ctx) (i : AReg) (w : DWord) : (c.setA i w).tvec = c.tvec := by unfold Ctx.setA; split <;> (try split) <;> rfl
@[simp] theorem Ctx.setA_tcause (c : Ctx) (i : AReg) (w : DWord) : (c.setA i w).tcause = c.tcause := by unfold Ctx.setA; split <;> (try split) <;> rfl
@[simp] theorem Ctx.setA_tepc (c : Ctx) (i : AReg) (w : DWord) : (c.setA i w).tepc = c.tepc := by unfold Ctx.setA; split <;> (try split) <;> rfl
@[simp] theorem Ctx.setA_tval (c : Ctx) (i : AReg) (w : DWord) : (c.setA i w).tval = c.tval := by unfold Ctx.setA; split <;> (try split) <;> rfl
@[simp] theorem Ctx.setA_tvalh (c : Ctx) (i : AReg) (w : DWord) : (c.setA i w).tvalh = c.tvalh := by unfold Ctx.setA; split <;> (try split) <;> rfl
@[simp] theorem Ctx.setA_tstat (c : Ctx) (i : AReg) (w : DWord) : (c.setA i w).tstat = c.tstat := by unfold Ctx.setA; split <;> (try split) <;> rfl
@[simp] theorem Ctx.setA_seen (c : Ctx) (i : AReg) (w : DWord) : (c.setA i w).seen = c.seen := by unfold Ctx.setA; split <;> (try split) <;> rfl
@[simp] theorem Ctx.setA_wd (c : Ctx) (i : AReg) (w : DWord) : (c.setA i w).wd = c.wd := by unfold Ctx.setA; split <;> (try split) <;> rfl
@[simp] theorem Ctx.setA_wdFired (c : Ctx) (i : AReg) (w : DWord) : (c.setA i w).wdFired = c.wdFired := by unfold Ctx.setA; split <;> (try split) <;> rfl
@[simp] theorem Ctx.setA_waiting (c : Ctx) (i : AReg) (w : DWord) : (c.setA i w).waiting = c.waiting := by unfold Ctx.setA; split <;> (try split) <;> rfl
@[simp] theorem Ctx.setA_pts (c : Ctx) (i : AReg) (w : DWord) : (c.setA i w).pts = c.pts := by unfold Ctx.setA; split <;> (try split) <;> rfl
@[simp] theorem Ctx.setA_xact (c : Ctx) (i : AReg) (w : DWord) : (c.setA i w).xact = c.xact := by unfold Ctx.setA; split <;> (try split) <;> rfl
@[simp] theorem Ctx.setA_storing (c : Ctx) (i : AReg) (w : DWord) : (c.setA i w).storing = c.storing := by unfold Ctx.setA; split <;> (try split) <;> rfl
@[simp] theorem Ctx.setA_posted (c : Ctx) (i : AReg) (w : DWord) : (c.setA i w).posted = c.posted := by unfold Ctx.setA; split <;> (try split) <;> rfl
@[simp] theorem Ctx.setA_postedMsgs (c : Ctx) (i : AReg) (w : DWord) : (c.setA i w).postedMsgs = c.postedMsgs := by unfold Ctx.setA; split <;> (try split) <;> rfl
@[simp] theorem Ctx.setA_reply (c : Ctx) (i : AReg) (w : DWord) : (c.setA i w).reply = c.reply := by unfold Ctx.setA; split <;> (try split) <;> rfl
@[simp] theorem Ctx.setA_replyTag (c : Ctx) (i : AReg) (w : DWord) : (c.setA i w).replyTag = c.replyTag := by unfold Ctx.setA; split <;> (try split) <;> rfl
@[simp] theorem Ctx.setA_colset (c : Ctx) (i : AReg) (w : DWord) : (c.setA i w).colset = c.colset := by unfold Ctx.setA; split <;> (try split) <;> rfl
@[simp] theorem Ctx.setA_answer (c : Ctx) (i : AReg) (w : DWord) : (c.setA i w).answer = c.answer := by unfold Ctx.setA; split <;> (try split) <;> rfl
@[simp] theorem Ctx.setA_due (c : Ctx) (i : AReg) (w : DWord) : (c.setA i w).due = c.due := by unfold Ctx.setA; split <;> (try split) <;> rfl
@[simp] theorem Ctx.setA_dueHeld (c : Ctx) (i : AReg) (w : DWord) : (c.setA i w).dueHeld = c.dueHeld := by unfold Ctx.setA; split <;> (try split) <;> rfl
@[simp] theorem Ctx.setA_replays (c : Ctx) (i : AReg) (w : DWord) : (c.setA i w).replays = c.replays := by unfold Ctx.setA; split <;> (try split) <;> rfl
@[simp] theorem Ctx.setA_hstep (c : Ctx) (i : AReg) (w : DWord) : (c.setA i w).hstep = c.hstep := by unfold Ctx.setA; split <;> (try split) <;> rfl
@[simp] theorem Ctx.setA_hreplays (c : Ctx) (i : AReg) (w : DWord) : (c.setA i w).hreplays = c.hreplays := by unfold Ctx.setA; split <;> (try split) <;> rfl
@[simp] theorem Ctx.setA_resume (c : Ctx) (i : AReg) (w : DWord) : (c.setA i w).resume = c.resume := by unfold Ctx.setA; split <;> (try split) <;> rfl
@[simp] theorem Ctx.setP_run (c : Ctx) (i : PReg) (w : Word) : (c.setP i w).run = c.run := by unfold Ctx.setP; split <;> (try split) <;> rfl
@[simp] theorem Ctx.setP_sup (c : Ctx) (i : PReg) (w : Word) : (c.setP i w).sup = c.sup := by unfold Ctx.setP; split <;> (try split) <;> rfl
@[simp] theorem Ctx.setP_pc (c : Ctx) (i : PReg) (w : Word) : (c.setP i w).pc = c.pc := by unfold Ctx.setP; split <;> (try split) <;> rfl
@[simp] theorem Ctx.setP_past (c : Ctx) (i : PReg) (w : Word) : (c.setP i w).past = c.past := by unfold Ctx.setP; split <;> (try split) <;> rfl
@[simp] theorem Ctx.setP_g (c : Ctx) (i : PReg) (w : Word) : (c.setP i w).g = c.g := by unfold Ctx.setP; split <;> (try split) <;> rfl
@[simp] theorem Ctx.setP_gSup (c : Ctx) (i : PReg) (w : Word) : (c.setP i w).gSup = c.gSup := by unfold Ctx.setP; split <;> (try split) <;> rfl
@[simp] theorem Ctx.setP_a (c : Ctx) (i : PReg) (w : Word) : (c.setP i w).a = c.a := by unfold Ctx.setP; split <;> (try split) <;> rfl
@[simp] theorem Ctx.setP_a3Sup (c : Ctx) (i : PReg) (w : Word) : (c.setP i w).a3Sup = c.a3Sup := by unfold Ctx.setP; split <;> (try split) <;> rfl
@[simp] theorem Ctx.setP_v (c : Ctx) (i : PReg) (w : Word) : (c.setP i w).v = c.v := by unfold Ctx.setP; split <;> (try split) <;> rfl
@[simp] theorem Ctx.setP_loops (c : Ctx) (i : PReg) (w : Word) : (c.setP i w).loops = c.loops := by unfold Ctx.setP; split <;> (try split) <;> rfl
@[simp] theorem Ctx.setP_trapLoops (c : Ctx) (i : PReg) (w : Word) : (c.setP i w).trapLoops = c.trapLoops := by unfold Ctx.setP; split <;> (try split) <;> rfl
@[simp] theorem Ctx.setP_left (c : Ctx) (i : PReg) (w : Word) : (c.setP i w).left = c.left := by unfold Ctx.setP; split <;> (try split) <;> rfl
@[simp] theorem Ctx.setP_hcur (c : Ctx) (i : PReg) (w : Word) : (c.setP i w).hcur = c.hcur := by unfold Ctx.setP; split <;> (try split) <;> rfl
@[simp] theorem Ctx.setP_tagin (c : Ctx) (i : PReg) (w : Word) : (c.setP i w).tagin = c.tagin := by unfold Ctx.setP; split <;> (try split) <;> rfl
@[simp] theorem Ctx.setP_tagout (c : Ctx) (i : PReg) (w : Word) : (c.setP i w).tagout = c.tagout := by unfold Ctx.setP; split <;> (try split) <;> rfl
@[simp] theorem Ctx.setP_amode (c : Ctx) (i : PReg) (w : Word) : (c.setP i w).amode = c.amode := by unfold Ctx.setP; split <;> (try split) <;> rfl
@[simp] theorem Ctx.setP_fflags (c : Ctx) (i : PReg) (w : Word) : (c.setP i w).fflags = c.fflags := by unfold Ctx.setP; split <;> (try split) <;> rfl
@[simp] theorem Ctx.setP_srseed (c : Ctx) (i : PReg) (w : Word) : (c.setP i w).srseed = c.srseed := by unfold Ctx.setP; split <;> (try split) <;> rfl
@[simp] theorem Ctx.setP_fmt (c : Ctx) (i : PReg) (w : Word) : (c.setP i w).fmt = c.fmt := by unfold Ctx.setP; split <;> (try split) <;> rfl
@[simp] theorem Ctx.setP_mshape (c : Ctx) (i : PReg) (w : Word) : (c.setP i w).mshape = c.mshape := by unfold Ctx.setP; split <;> (try split) <;> rfl
@[simp] theorem Ctx.setP_gang (c : Ctx) (i : PReg) (w : Word) : (c.setP i w).gang = c.gang := by unfold Ctx.setP; split <;> (try split) <;> rfl
@[simp] theorem Ctx.setP_vstride (c : Ctx) (i : PReg) (w : Word) : (c.setP i w).vstride = c.vstride := by unfold Ctx.setP; split <;> (try split) <;> rfl
@[simp] theorem Ctx.setP_tvec (c : Ctx) (i : PReg) (w : Word) : (c.setP i w).tvec = c.tvec := by unfold Ctx.setP; split <;> (try split) <;> rfl
@[simp] theorem Ctx.setP_tcause (c : Ctx) (i : PReg) (w : Word) : (c.setP i w).tcause = c.tcause := by unfold Ctx.setP; split <;> (try split) <;> rfl
@[simp] theorem Ctx.setP_tepc (c : Ctx) (i : PReg) (w : Word) : (c.setP i w).tepc = c.tepc := by unfold Ctx.setP; split <;> (try split) <;> rfl
@[simp] theorem Ctx.setP_tval (c : Ctx) (i : PReg) (w : Word) : (c.setP i w).tval = c.tval := by unfold Ctx.setP; split <;> (try split) <;> rfl
@[simp] theorem Ctx.setP_tvalh (c : Ctx) (i : PReg) (w : Word) : (c.setP i w).tvalh = c.tvalh := by unfold Ctx.setP; split <;> (try split) <;> rfl
@[simp] theorem Ctx.setP_tstat (c : Ctx) (i : PReg) (w : Word) : (c.setP i w).tstat = c.tstat := by unfold Ctx.setP; split <;> (try split) <;> rfl
@[simp] theorem Ctx.setP_seen (c : Ctx) (i : PReg) (w : Word) : (c.setP i w).seen = c.seen := by unfold Ctx.setP; split <;> (try split) <;> rfl
@[simp] theorem Ctx.setP_wd (c : Ctx) (i : PReg) (w : Word) : (c.setP i w).wd = c.wd := by unfold Ctx.setP; split <;> (try split) <;> rfl
@[simp] theorem Ctx.setP_wdFired (c : Ctx) (i : PReg) (w : Word) : (c.setP i w).wdFired = c.wdFired := by unfold Ctx.setP; split <;> (try split) <;> rfl
@[simp] theorem Ctx.setP_waiting (c : Ctx) (i : PReg) (w : Word) : (c.setP i w).waiting = c.waiting := by unfold Ctx.setP; split <;> (try split) <;> rfl
@[simp] theorem Ctx.setP_pts (c : Ctx) (i : PReg) (w : Word) : (c.setP i w).pts = c.pts := by unfold Ctx.setP; split <;> (try split) <;> rfl
@[simp] theorem Ctx.setP_xact (c : Ctx) (i : PReg) (w : Word) : (c.setP i w).xact = c.xact := by unfold Ctx.setP; split <;> (try split) <;> rfl
@[simp] theorem Ctx.setP_storing (c : Ctx) (i : PReg) (w : Word) : (c.setP i w).storing = c.storing := by unfold Ctx.setP; split <;> (try split) <;> rfl
@[simp] theorem Ctx.setP_posted (c : Ctx) (i : PReg) (w : Word) : (c.setP i w).posted = c.posted := by unfold Ctx.setP; split <;> (try split) <;> rfl
@[simp] theorem Ctx.setP_postedMsgs (c : Ctx) (i : PReg) (w : Word) : (c.setP i w).postedMsgs = c.postedMsgs := by unfold Ctx.setP; split <;> (try split) <;> rfl
@[simp] theorem Ctx.setP_reply (c : Ctx) (i : PReg) (w : Word) : (c.setP i w).reply = c.reply := by unfold Ctx.setP; split <;> (try split) <;> rfl
@[simp] theorem Ctx.setP_replyTag (c : Ctx) (i : PReg) (w : Word) : (c.setP i w).replyTag = c.replyTag := by unfold Ctx.setP; split <;> (try split) <;> rfl
@[simp] theorem Ctx.setP_colset (c : Ctx) (i : PReg) (w : Word) : (c.setP i w).colset = c.colset := by unfold Ctx.setP; split <;> (try split) <;> rfl
@[simp] theorem Ctx.setP_answer (c : Ctx) (i : PReg) (w : Word) : (c.setP i w).answer = c.answer := by unfold Ctx.setP; split <;> (try split) <;> rfl
@[simp] theorem Ctx.setP_due (c : Ctx) (i : PReg) (w : Word) : (c.setP i w).due = c.due := by unfold Ctx.setP; split <;> (try split) <;> rfl
@[simp] theorem Ctx.setP_dueHeld (c : Ctx) (i : PReg) (w : Word) : (c.setP i w).dueHeld = c.dueHeld := by unfold Ctx.setP; split <;> (try split) <;> rfl
@[simp] theorem Ctx.setP_replays (c : Ctx) (i : PReg) (w : Word) : (c.setP i w).replays = c.replays := by unfold Ctx.setP; split <;> (try split) <;> rfl
@[simp] theorem Ctx.setP_hstep (c : Ctx) (i : PReg) (w : Word) : (c.setP i w).hstep = c.hstep := by unfold Ctx.setP; split <;> (try split) <;> rfl
@[simp] theorem Ctx.setP_hreplays (c : Ctx) (i : PReg) (w : Word) : (c.setP i w).hreplays = c.hreplays := by unfold Ctx.setP; split <;> (try split) <;> rfl
@[simp] theorem Ctx.setP_resume (c : Ctx) (i : PReg) (w : Word) : (c.setP i w).resume = c.resume := by unfold Ctx.setP; split <;> (try split) <;> rfl
@[simp] theorem Ctx.setV_run (c : Ctx) (i : VReg) (w : VWord) : (c.setV i w).run = c.run := rfl
@[simp] theorem Ctx.setV_sup (c : Ctx) (i : VReg) (w : VWord) : (c.setV i w).sup = c.sup := rfl
@[simp] theorem Ctx.setV_pc (c : Ctx) (i : VReg) (w : VWord) : (c.setV i w).pc = c.pc := rfl
@[simp] theorem Ctx.setV_past (c : Ctx) (i : VReg) (w : VWord) : (c.setV i w).past = c.past := rfl
@[simp] theorem Ctx.setV_g (c : Ctx) (i : VReg) (w : VWord) : (c.setV i w).g = c.g := rfl
@[simp] theorem Ctx.setV_gSup (c : Ctx) (i : VReg) (w : VWord) : (c.setV i w).gSup = c.gSup := rfl
@[simp] theorem Ctx.setV_a (c : Ctx) (i : VReg) (w : VWord) : (c.setV i w).a = c.a := rfl
@[simp] theorem Ctx.setV_a3Sup (c : Ctx) (i : VReg) (w : VWord) : (c.setV i w).a3Sup = c.a3Sup := rfl
@[simp] theorem Ctx.setV_p (c : Ctx) (i : VReg) (w : VWord) : (c.setV i w).p = c.p := rfl
@[simp] theorem Ctx.setV_loops (c : Ctx) (i : VReg) (w : VWord) : (c.setV i w).loops = c.loops := rfl
@[simp] theorem Ctx.setV_trapLoops (c : Ctx) (i : VReg) (w : VWord) : (c.setV i w).trapLoops = c.trapLoops := rfl
@[simp] theorem Ctx.setV_left (c : Ctx) (i : VReg) (w : VWord) : (c.setV i w).left = c.left := rfl
@[simp] theorem Ctx.setV_hcur (c : Ctx) (i : VReg) (w : VWord) : (c.setV i w).hcur = c.hcur := rfl
@[simp] theorem Ctx.setV_tagin (c : Ctx) (i : VReg) (w : VWord) : (c.setV i w).tagin = c.tagin := rfl
@[simp] theorem Ctx.setV_tagout (c : Ctx) (i : VReg) (w : VWord) : (c.setV i w).tagout = c.tagout := rfl
@[simp] theorem Ctx.setV_amode (c : Ctx) (i : VReg) (w : VWord) : (c.setV i w).amode = c.amode := rfl
@[simp] theorem Ctx.setV_fflags (c : Ctx) (i : VReg) (w : VWord) : (c.setV i w).fflags = c.fflags := rfl
@[simp] theorem Ctx.setV_srseed (c : Ctx) (i : VReg) (w : VWord) : (c.setV i w).srseed = c.srseed := rfl
@[simp] theorem Ctx.setV_fmt (c : Ctx) (i : VReg) (w : VWord) : (c.setV i w).fmt = c.fmt := rfl
@[simp] theorem Ctx.setV_mshape (c : Ctx) (i : VReg) (w : VWord) : (c.setV i w).mshape = c.mshape := rfl
@[simp] theorem Ctx.setV_gang (c : Ctx) (i : VReg) (w : VWord) : (c.setV i w).gang = c.gang := rfl
@[simp] theorem Ctx.setV_vstride (c : Ctx) (i : VReg) (w : VWord) : (c.setV i w).vstride = c.vstride := rfl
@[simp] theorem Ctx.setV_tvec (c : Ctx) (i : VReg) (w : VWord) : (c.setV i w).tvec = c.tvec := rfl
@[simp] theorem Ctx.setV_tcause (c : Ctx) (i : VReg) (w : VWord) : (c.setV i w).tcause = c.tcause := rfl
@[simp] theorem Ctx.setV_tepc (c : Ctx) (i : VReg) (w : VWord) : (c.setV i w).tepc = c.tepc := rfl
@[simp] theorem Ctx.setV_tval (c : Ctx) (i : VReg) (w : VWord) : (c.setV i w).tval = c.tval := rfl
@[simp] theorem Ctx.setV_tvalh (c : Ctx) (i : VReg) (w : VWord) : (c.setV i w).tvalh = c.tvalh := rfl
@[simp] theorem Ctx.setV_tstat (c : Ctx) (i : VReg) (w : VWord) : (c.setV i w).tstat = c.tstat := rfl
@[simp] theorem Ctx.setV_seen (c : Ctx) (i : VReg) (w : VWord) : (c.setV i w).seen = c.seen := rfl
@[simp] theorem Ctx.setV_wd (c : Ctx) (i : VReg) (w : VWord) : (c.setV i w).wd = c.wd := rfl
@[simp] theorem Ctx.setV_wdFired (c : Ctx) (i : VReg) (w : VWord) : (c.setV i w).wdFired = c.wdFired := rfl
@[simp] theorem Ctx.setV_waiting (c : Ctx) (i : VReg) (w : VWord) : (c.setV i w).waiting = c.waiting := rfl
@[simp] theorem Ctx.setV_pts (c : Ctx) (i : VReg) (w : VWord) : (c.setV i w).pts = c.pts := rfl
@[simp] theorem Ctx.setV_xact (c : Ctx) (i : VReg) (w : VWord) : (c.setV i w).xact = c.xact := rfl
@[simp] theorem Ctx.setV_storing (c : Ctx) (i : VReg) (w : VWord) : (c.setV i w).storing = c.storing := rfl
@[simp] theorem Ctx.setV_posted (c : Ctx) (i : VReg) (w : VWord) : (c.setV i w).posted = c.posted := rfl
@[simp] theorem Ctx.setV_postedMsgs (c : Ctx) (i : VReg) (w : VWord) : (c.setV i w).postedMsgs = c.postedMsgs := rfl
@[simp] theorem Ctx.setV_reply (c : Ctx) (i : VReg) (w : VWord) : (c.setV i w).reply = c.reply := rfl
@[simp] theorem Ctx.setV_replyTag (c : Ctx) (i : VReg) (w : VWord) : (c.setV i w).replyTag = c.replyTag := rfl
@[simp] theorem Ctx.setV_colset (c : Ctx) (i : VReg) (w : VWord) : (c.setV i w).colset = c.colset := rfl
@[simp] theorem Ctx.setV_answer (c : Ctx) (i : VReg) (w : VWord) : (c.setV i w).answer = c.answer := rfl
@[simp] theorem Ctx.setV_due (c : Ctx) (i : VReg) (w : VWord) : (c.setV i w).due = c.due := rfl
@[simp] theorem Ctx.setV_dueHeld (c : Ctx) (i : VReg) (w : VWord) : (c.setV i w).dueHeld = c.dueHeld := rfl
@[simp] theorem Ctx.setV_replays (c : Ctx) (i : VReg) (w : VWord) : (c.setV i w).replays = c.replays := rfl
@[simp] theorem Ctx.setV_hstep (c : Ctx) (i : VReg) (w : VWord) : (c.setV i w).hstep = c.hstep := rfl
@[simp] theorem Ctx.setV_hreplays (c : Ctx) (i : VReg) (w : VWord) : (c.setV i w).hreplays = c.hreplays := rfl
@[simp] theorem Ctx.setV_resume (c : Ctx) (i : VReg) (w : VWord) : (c.setV i w).resume = c.resume := rfl

/-! ## The other updates of a context -/

@[simp] theorem Ctx.fall_run (c : Ctx) (stop : Nat) : (c.fall stop).run = c.run := rfl
@[simp] theorem Ctx.fall_sup (c : Ctx) (stop : Nat) : (c.fall stop).sup = c.sup := rfl
@[simp] theorem Ctx.fall_g (c : Ctx) (stop : Nat) : (c.fall stop).g = c.g := rfl
@[simp] theorem Ctx.fall_gSup (c : Ctx) (stop : Nat) : (c.fall stop).gSup = c.gSup := rfl
@[simp] theorem Ctx.fall_a (c : Ctx) (stop : Nat) : (c.fall stop).a = c.a := rfl
@[simp] theorem Ctx.fall_a3Sup (c : Ctx) (stop : Nat) : (c.fall stop).a3Sup = c.a3Sup := rfl
@[simp] theorem Ctx.fall_p (c : Ctx) (stop : Nat) : (c.fall stop).p = c.p := rfl
@[simp] theorem Ctx.fall_v (c : Ctx) (stop : Nat) : (c.fall stop).v = c.v := rfl
@[simp] theorem Ctx.fall_trapLoops (c : Ctx) (stop : Nat) : (c.fall stop).trapLoops = c.trapLoops := rfl
@[simp] theorem Ctx.fall_left (c : Ctx) (stop : Nat) : (c.fall stop).left = c.left := rfl
@[simp] theorem Ctx.fall_hcur (c : Ctx) (stop : Nat) : (c.fall stop).hcur = c.hcur := rfl
@[simp] theorem Ctx.fall_tagin (c : Ctx) (stop : Nat) : (c.fall stop).tagin = c.tagin := rfl
@[simp] theorem Ctx.fall_tagout (c : Ctx) (stop : Nat) : (c.fall stop).tagout = c.tagout := rfl
@[simp] theorem Ctx.fall_amode (c : Ctx) (stop : Nat) : (c.fall stop).amode = c.amode := rfl
@[simp] theorem Ctx.fall_fflags (c : Ctx) (stop : Nat) : (c.fall stop).fflags = c.fflags := rfl
@[simp] theorem Ctx.fall_srseed (c : Ctx) (stop : Nat) : (c.fall stop).srseed = c.srseed := rfl
@[simp] theorem Ctx.fall_fmt (c : Ctx) (stop : Nat) : (c.fall stop).fmt = c.fmt := rfl
@[simp] theorem Ctx.fall_mshape (c : Ctx) (stop : Nat) : (c.fall stop).mshape = c.mshape := rfl
@[simp] theorem Ctx.fall_gang (c : Ctx) (stop : Nat) : (c.fall stop).gang = c.gang := rfl
@[simp] theorem Ctx.fall_vstride (c : Ctx) (stop : Nat) : (c.fall stop).vstride = c.vstride := rfl
@[simp] theorem Ctx.fall_tvec (c : Ctx) (stop : Nat) : (c.fall stop).tvec = c.tvec := rfl
@[simp] theorem Ctx.fall_tcause (c : Ctx) (stop : Nat) : (c.fall stop).tcause = c.tcause := rfl
@[simp] theorem Ctx.fall_tepc (c : Ctx) (stop : Nat) : (c.fall stop).tepc = c.tepc := rfl
@[simp] theorem Ctx.fall_tval (c : Ctx) (stop : Nat) : (c.fall stop).tval = c.tval := rfl
@[simp] theorem Ctx.fall_tvalh (c : Ctx) (stop : Nat) : (c.fall stop).tvalh = c.tvalh := rfl
@[simp] theorem Ctx.fall_tstat (c : Ctx) (stop : Nat) : (c.fall stop).tstat = c.tstat := rfl
@[simp] theorem Ctx.fall_seen (c : Ctx) (stop : Nat) : (c.fall stop).seen = c.seen := rfl
@[simp] theorem Ctx.fall_wd (c : Ctx) (stop : Nat) : (c.fall stop).wd = c.wd := rfl
@[simp] theorem Ctx.fall_wdFired (c : Ctx) (stop : Nat) : (c.fall stop).wdFired = c.wdFired := rfl
@[simp] theorem Ctx.fall_pts (c : Ctx) (stop : Nat) : (c.fall stop).pts = c.pts := rfl
@[simp] theorem Ctx.fall_xact (c : Ctx) (stop : Nat) : (c.fall stop).xact = c.xact := rfl
@[simp] theorem Ctx.fall_storing (c : Ctx) (stop : Nat) : (c.fall stop).storing = c.storing := rfl
@[simp] theorem Ctx.fall_posted (c : Ctx) (stop : Nat) : (c.fall stop).posted = c.posted := rfl
@[simp] theorem Ctx.fall_postedMsgs (c : Ctx) (stop : Nat) : (c.fall stop).postedMsgs = c.postedMsgs := rfl
@[simp] theorem Ctx.fall_reply (c : Ctx) (stop : Nat) : (c.fall stop).reply = c.reply := rfl
@[simp] theorem Ctx.fall_replyTag (c : Ctx) (stop : Nat) : (c.fall stop).replyTag = c.replyTag := rfl
@[simp] theorem Ctx.fall_colset (c : Ctx) (stop : Nat) : (c.fall stop).colset = c.colset := rfl
@[simp] theorem Ctx.fall_answer (c : Ctx) (stop : Nat) : (c.fall stop).answer = c.answer := rfl
@[simp] theorem Ctx.fall_due (c : Ctx) (stop : Nat) : (c.fall stop).due = c.due := rfl
@[simp] theorem Ctx.fall_resume (c : Ctx) (stop : Nat) : (c.fall stop).resume = c.resume := rfl
@[simp] theorem Ctx.jumpTo_run (c : Ctx) (q : Half) : (c.jumpTo q).run = c.run := rfl
@[simp] theorem Ctx.jumpTo_sup (c : Ctx) (q : Half) : (c.jumpTo q).sup = c.sup := rfl
@[simp] theorem Ctx.jumpTo_g (c : Ctx) (q : Half) : (c.jumpTo q).g = c.g := rfl
@[simp] theorem Ctx.jumpTo_gSup (c : Ctx) (q : Half) : (c.jumpTo q).gSup = c.gSup := rfl
@[simp] theorem Ctx.jumpTo_a (c : Ctx) (q : Half) : (c.jumpTo q).a = c.a := rfl
@[simp] theorem Ctx.jumpTo_a3Sup (c : Ctx) (q : Half) : (c.jumpTo q).a3Sup = c.a3Sup := rfl
@[simp] theorem Ctx.jumpTo_p (c : Ctx) (q : Half) : (c.jumpTo q).p = c.p := rfl
@[simp] theorem Ctx.jumpTo_v (c : Ctx) (q : Half) : (c.jumpTo q).v = c.v := rfl
@[simp] theorem Ctx.jumpTo_trapLoops (c : Ctx) (q : Half) : (c.jumpTo q).trapLoops = c.trapLoops := rfl
@[simp] theorem Ctx.jumpTo_left (c : Ctx) (q : Half) : (c.jumpTo q).left = c.left := rfl
@[simp] theorem Ctx.jumpTo_hcur (c : Ctx) (q : Half) : (c.jumpTo q).hcur = c.hcur := rfl
@[simp] theorem Ctx.jumpTo_tagin (c : Ctx) (q : Half) : (c.jumpTo q).tagin = c.tagin := rfl
@[simp] theorem Ctx.jumpTo_tagout (c : Ctx) (q : Half) : (c.jumpTo q).tagout = c.tagout := rfl
@[simp] theorem Ctx.jumpTo_amode (c : Ctx) (q : Half) : (c.jumpTo q).amode = c.amode := rfl
@[simp] theorem Ctx.jumpTo_fflags (c : Ctx) (q : Half) : (c.jumpTo q).fflags = c.fflags := rfl
@[simp] theorem Ctx.jumpTo_srseed (c : Ctx) (q : Half) : (c.jumpTo q).srseed = c.srseed := rfl
@[simp] theorem Ctx.jumpTo_fmt (c : Ctx) (q : Half) : (c.jumpTo q).fmt = c.fmt := rfl
@[simp] theorem Ctx.jumpTo_mshape (c : Ctx) (q : Half) : (c.jumpTo q).mshape = c.mshape := rfl
@[simp] theorem Ctx.jumpTo_gang (c : Ctx) (q : Half) : (c.jumpTo q).gang = c.gang := rfl
@[simp] theorem Ctx.jumpTo_vstride (c : Ctx) (q : Half) : (c.jumpTo q).vstride = c.vstride := rfl
@[simp] theorem Ctx.jumpTo_tvec (c : Ctx) (q : Half) : (c.jumpTo q).tvec = c.tvec := rfl
@[simp] theorem Ctx.jumpTo_tcause (c : Ctx) (q : Half) : (c.jumpTo q).tcause = c.tcause := rfl
@[simp] theorem Ctx.jumpTo_tepc (c : Ctx) (q : Half) : (c.jumpTo q).tepc = c.tepc := rfl
@[simp] theorem Ctx.jumpTo_tval (c : Ctx) (q : Half) : (c.jumpTo q).tval = c.tval := rfl
@[simp] theorem Ctx.jumpTo_tvalh (c : Ctx) (q : Half) : (c.jumpTo q).tvalh = c.tvalh := rfl
@[simp] theorem Ctx.jumpTo_tstat (c : Ctx) (q : Half) : (c.jumpTo q).tstat = c.tstat := rfl
@[simp] theorem Ctx.jumpTo_seen (c : Ctx) (q : Half) : (c.jumpTo q).seen = c.seen := rfl
@[simp] theorem Ctx.jumpTo_wd (c : Ctx) (q : Half) : (c.jumpTo q).wd = c.wd := rfl
@[simp] theorem Ctx.jumpTo_wdFired (c : Ctx) (q : Half) : (c.jumpTo q).wdFired = c.wdFired := rfl
@[simp] theorem Ctx.jumpTo_pts (c : Ctx) (q : Half) : (c.jumpTo q).pts = c.pts := rfl
@[simp] theorem Ctx.jumpTo_xact (c : Ctx) (q : Half) : (c.jumpTo q).xact = c.xact := rfl
@[simp] theorem Ctx.jumpTo_storing (c : Ctx) (q : Half) : (c.jumpTo q).storing = c.storing := rfl
@[simp] theorem Ctx.jumpTo_posted (c : Ctx) (q : Half) : (c.jumpTo q).posted = c.posted := rfl
@[simp] theorem Ctx.jumpTo_postedMsgs (c : Ctx) (q : Half) : (c.jumpTo q).postedMsgs = c.postedMsgs := rfl
@[simp] theorem Ctx.jumpTo_reply (c : Ctx) (q : Half) : (c.jumpTo q).reply = c.reply := rfl
@[simp] theorem Ctx.jumpTo_replyTag (c : Ctx) (q : Half) : (c.jumpTo q).replyTag = c.replyTag := rfl
@[simp] theorem Ctx.jumpTo_colset (c : Ctx) (q : Half) : (c.jumpTo q).colset = c.colset := rfl
@[simp] theorem Ctx.jumpTo_answer (c : Ctx) (q : Half) : (c.jumpTo q).answer = c.answer := rfl
@[simp] theorem Ctx.jumpTo_due (c : Ctx) (q : Half) : (c.jumpTo q).due = c.due := rfl
@[simp] theorem Ctx.jumpTo_resume (c : Ctx) (q : Half) : (c.jumpTo q).resume = c.resume := rfl
@[simp] theorem Ctx.countWd_run (c : Ctx) (n : Nat) : (c.countWd n).run = c.run := by unfold Ctx.countWd; split <;> rfl
@[simp] theorem Ctx.countWd_sup (c : Ctx) (n : Nat) : (c.countWd n).sup = c.sup := by unfold Ctx.countWd; split <;> rfl
@[simp] theorem Ctx.countWd_pc (c : Ctx) (n : Nat) : (c.countWd n).pc = c.pc := by unfold Ctx.countWd; split <;> rfl
@[simp] theorem Ctx.countWd_past (c : Ctx) (n : Nat) : (c.countWd n).past = c.past := by unfold Ctx.countWd; split <;> rfl
@[simp] theorem Ctx.countWd_g (c : Ctx) (n : Nat) : (c.countWd n).g = c.g := by unfold Ctx.countWd; split <;> rfl
@[simp] theorem Ctx.countWd_gSup (c : Ctx) (n : Nat) : (c.countWd n).gSup = c.gSup := by unfold Ctx.countWd; split <;> rfl
@[simp] theorem Ctx.countWd_a (c : Ctx) (n : Nat) : (c.countWd n).a = c.a := by unfold Ctx.countWd; split <;> rfl
@[simp] theorem Ctx.countWd_a3Sup (c : Ctx) (n : Nat) : (c.countWd n).a3Sup = c.a3Sup := by unfold Ctx.countWd; split <;> rfl
@[simp] theorem Ctx.countWd_p (c : Ctx) (n : Nat) : (c.countWd n).p = c.p := by unfold Ctx.countWd; split <;> rfl
@[simp] theorem Ctx.countWd_v (c : Ctx) (n : Nat) : (c.countWd n).v = c.v := by unfold Ctx.countWd; split <;> rfl
@[simp] theorem Ctx.countWd_loops (c : Ctx) (n : Nat) : (c.countWd n).loops = c.loops := by unfold Ctx.countWd; split <;> rfl
@[simp] theorem Ctx.countWd_trapLoops (c : Ctx) (n : Nat) : (c.countWd n).trapLoops = c.trapLoops := by unfold Ctx.countWd; split <;> rfl
@[simp] theorem Ctx.countWd_left (c : Ctx) (n : Nat) : (c.countWd n).left = c.left := by unfold Ctx.countWd; split <;> rfl
@[simp] theorem Ctx.countWd_hcur (c : Ctx) (n : Nat) : (c.countWd n).hcur = c.hcur := by unfold Ctx.countWd; split <;> rfl
@[simp] theorem Ctx.countWd_tagin (c : Ctx) (n : Nat) : (c.countWd n).tagin = c.tagin := by unfold Ctx.countWd; split <;> rfl
@[simp] theorem Ctx.countWd_tagout (c : Ctx) (n : Nat) : (c.countWd n).tagout = c.tagout := by unfold Ctx.countWd; split <;> rfl
@[simp] theorem Ctx.countWd_amode (c : Ctx) (n : Nat) : (c.countWd n).amode = c.amode := by unfold Ctx.countWd; split <;> rfl
@[simp] theorem Ctx.countWd_fflags (c : Ctx) (n : Nat) : (c.countWd n).fflags = c.fflags := by unfold Ctx.countWd; split <;> rfl
@[simp] theorem Ctx.countWd_srseed (c : Ctx) (n : Nat) : (c.countWd n).srseed = c.srseed := by unfold Ctx.countWd; split <;> rfl
@[simp] theorem Ctx.countWd_fmt (c : Ctx) (n : Nat) : (c.countWd n).fmt = c.fmt := by unfold Ctx.countWd; split <;> rfl
@[simp] theorem Ctx.countWd_mshape (c : Ctx) (n : Nat) : (c.countWd n).mshape = c.mshape := by unfold Ctx.countWd; split <;> rfl
@[simp] theorem Ctx.countWd_gang (c : Ctx) (n : Nat) : (c.countWd n).gang = c.gang := by unfold Ctx.countWd; split <;> rfl
@[simp] theorem Ctx.countWd_vstride (c : Ctx) (n : Nat) : (c.countWd n).vstride = c.vstride := by unfold Ctx.countWd; split <;> rfl
@[simp] theorem Ctx.countWd_tvec (c : Ctx) (n : Nat) : (c.countWd n).tvec = c.tvec := by unfold Ctx.countWd; split <;> rfl
@[simp] theorem Ctx.countWd_tcause (c : Ctx) (n : Nat) : (c.countWd n).tcause = c.tcause := by unfold Ctx.countWd; split <;> rfl
@[simp] theorem Ctx.countWd_tepc (c : Ctx) (n : Nat) : (c.countWd n).tepc = c.tepc := by unfold Ctx.countWd; split <;> rfl
@[simp] theorem Ctx.countWd_tval (c : Ctx) (n : Nat) : (c.countWd n).tval = c.tval := by unfold Ctx.countWd; split <;> rfl
@[simp] theorem Ctx.countWd_tvalh (c : Ctx) (n : Nat) : (c.countWd n).tvalh = c.tvalh := by unfold Ctx.countWd; split <;> rfl
@[simp] theorem Ctx.countWd_tstat (c : Ctx) (n : Nat) : (c.countWd n).tstat = c.tstat := by unfold Ctx.countWd; split <;> rfl
@[simp] theorem Ctx.countWd_seen (c : Ctx) (n : Nat) : (c.countWd n).seen = c.seen := by unfold Ctx.countWd; split <;> rfl
@[simp] theorem Ctx.countWd_wdFired (c : Ctx) (n : Nat) : (c.countWd n).wdFired = c.wdFired := by unfold Ctx.countWd; split <;> rfl
@[simp] theorem Ctx.countWd_waiting (c : Ctx) (n : Nat) : (c.countWd n).waiting = c.waiting := by unfold Ctx.countWd; split <;> rfl
@[simp] theorem Ctx.countWd_pts (c : Ctx) (n : Nat) : (c.countWd n).pts = c.pts := by unfold Ctx.countWd; split <;> rfl
@[simp] theorem Ctx.countWd_xact (c : Ctx) (n : Nat) : (c.countWd n).xact = c.xact := by unfold Ctx.countWd; split <;> rfl
@[simp] theorem Ctx.countWd_storing (c : Ctx) (n : Nat) : (c.countWd n).storing = c.storing := by unfold Ctx.countWd; split <;> rfl
@[simp] theorem Ctx.countWd_posted (c : Ctx) (n : Nat) : (c.countWd n).posted = c.posted := by unfold Ctx.countWd; split <;> rfl
@[simp] theorem Ctx.countWd_postedMsgs (c : Ctx) (n : Nat) : (c.countWd n).postedMsgs = c.postedMsgs := by unfold Ctx.countWd; split <;> rfl
@[simp] theorem Ctx.countWd_reply (c : Ctx) (n : Nat) : (c.countWd n).reply = c.reply := by unfold Ctx.countWd; split <;> rfl
@[simp] theorem Ctx.countWd_replyTag (c : Ctx) (n : Nat) : (c.countWd n).replyTag = c.replyTag := by unfold Ctx.countWd; split <;> rfl
@[simp] theorem Ctx.countWd_colset (c : Ctx) (n : Nat) : (c.countWd n).colset = c.colset := by unfold Ctx.countWd; split <;> rfl
@[simp] theorem Ctx.countWd_answer (c : Ctx) (n : Nat) : (c.countWd n).answer = c.answer := by unfold Ctx.countWd; split <;> rfl
@[simp] theorem Ctx.countWd_due (c : Ctx) (n : Nat) : (c.countWd n).due = c.due := by unfold Ctx.countWd; split <;> rfl
@[simp] theorem Ctx.countWd_dueHeld (c : Ctx) (n : Nat) : (c.countWd n).dueHeld = c.dueHeld := by unfold Ctx.countWd; split <;> rfl
@[simp] theorem Ctx.countWd_replays (c : Ctx) (n : Nat) : (c.countWd n).replays = c.replays := by unfold Ctx.countWd; split <;> rfl
@[simp] theorem Ctx.countWd_hstep (c : Ctx) (n : Nat) : (c.countWd n).hstep = c.hstep := by unfold Ctx.countWd; split <;> rfl
@[simp] theorem Ctx.countWd_hreplays (c : Ctx) (n : Nat) : (c.countWd n).hreplays = c.hreplays := by unfold Ctx.countWd; split <;> rfl
@[simp] theorem Ctx.countWd_resume (c : Ctx) (n : Nat) : (c.countWd n).resume = c.resume := by unfold Ctx.countWd; split <;> rfl

end Sys2Proof.Machine
end

