-- ==== Sys2Proof/Laws/Group.lean ====
section
/-! SUPPORT. What reading a changed tile or context gives, and what the frame of a group can do. -/

namespace Sys2Proof.Machine

/-! ## Association lists -/

@[simp] theorem assocGet_assocPut_same {α : Type} (d : α) (l : List (Nat × α)) (n : Nat) (a : α) :
    assocGet d (assocPut l n a) n = a := by
  induction l with
  | nil => simp [assocPut, assocGet]
  | cons e l ih =>
    obtain ⟨k, b⟩ := e
    unfold assocPut
    split
    · simp [assocGet]
    · split
      · simp [assocGet]
      · next h => simp [assocGet, ih, Ne.symm h]

theorem assocGet_assocPut_other {α : Type} (d : α) (l : List (Nat × α)) {n m : Nat} (h : m ≠ n) (a : α) :
    assocGet d (assocPut l n a) m = assocGet d l m := by
  induction l with
  | nil => simp [assocPut, assocGet, Ne.symm h]
  | cons e l ih =>
    obtain ⟨k, b⟩ := e
    unfold assocPut
    split
    · simp [assocGet, Ne.symm h]
    · split
      · next h' => subst h'; simp [assocGet, Ne.symm h]
      · simp [assocGet, ih]

/-! ## Tiles and contexts -/

@[simp] theorem State.tile_setTile (s : State) (r : Nat) (t : Tile) : (s.setTile r t).tile r = t := by
  simp [State.tile, State.setTile]

theorem State.tile_setTile_other (s : State) {r q : Nat} (h : q ≠ r) (t : Tile) : (s.setTile r t).tile q = s.tile q := by
  simp [State.tile, State.setTile, assocGet_assocPut_other _ _ h]

@[simp] theorem State.tile_modTile (s : State) (r : Nat) (f : Tile → Tile) : (s.modTile r f).tile r = f (s.tile r) := by
  simp [State.modTile]

theorem State.tile_modTile_other (s : State) {r q : Nat} (h : q ≠ r) (f : Tile → Tile) :
    (s.modTile r f).tile q = s.tile q := by
  simp [State.modTile, State.tile_setTile_other _ h]

@[simp] theorem Tile.ctx_setCtx (t : Tile) (i : CtxId) (c : Ctx) : (t.setCtx i c).ctx i = c := by cases i <;> rfl

@[simp] theorem Tile.setCtx_setCtx (t : Tile) (i : CtxId) (c d : Ctx) : (t.setCtx i c).setCtx i d = t.setCtx i d := by
  cases i <;> rfl

@[simp] theorem Tile.setCtx_ctx (t : Tile) (i : CtxId) : t.setCtx i (t.ctx i) = t := by cases i <;> rfl

theorem Tile.ctx_setCtx_other (t : Tile) {i j : CtxId} (h : j ≠ i) (c : Ctx) : (t.setCtx i c).ctx j = t.ctx j := by
  cases i <;> cases j <;> first | rfl | exact absurd rfl h

@[simp] theorem State.tile_modCtx (s : State) (r : Nat) (i : CtxId) (f : Ctx → Ctx) :
    (s.modCtx r i f).tile r = (s.tile r).setCtx i (f ((s.tile r).ctx i)) := by simp [State.modCtx]

theorem State.tile_modCtx_other (s : State) {r q : Nat} (h : q ≠ r) (i : CtxId) (f : Ctx → Ctx) :
    (s.modCtx r i f).tile q = s.tile q := by simp [State.modCtx, State.tile_modTile_other _ h]

@[simp] theorem State.here_modCur (s : State) (f : Ctx → Ctx) : (s.modCur f).here = s.here.setCtx s.focus.ctx (f s.cur) := by
  simp [State.here, State.modCur, State.cur]

@[simp] theorem State.cur_modCur (s : State) (f : Ctx → Ctx) : (s.modCur f).cur = f s.cur := by
  simp [State.cur]

@[simp] theorem State.here_modHere (s : State) (f : Tile → Tile) : (s.modHere f).here = f s.here := by
  simp [State.here, State.modHere]

theorem State.modCur_eq_setCur (s : State) (f : Ctx → Ctx) : s.modCur f = s.setCur (f s.cur) := by
  simp [State.setCur, State.modCur, State.modCtx, State.modTile, State.cur, State.here]

/-! ## The passing of cycles -/

theorem Tile.ctx_with_cyc (t : Tile) (i : CtxId) (n : DWord) : ({ t with cyc := n } : Tile).ctx i = t.ctx i := by
  cases i <;> rfl

theorem Ctx.countWd_eq (c : Ctx) (n : Nat) : c.countWd n = { c with wd := (c.countWd n).wd } := by
  unfold Ctx.countWd
  split <;> rfl

/-- The focused tile after cycles have passed. -/
theorem State.here_elapse (u : State) (wd : Bool) : ∃ c n, (c = u.cur ∨ ∃ k, c = u.cur.countWd k) ∧
    (u.elapse u.focus.rank u.focus.ctx wd).here = { u.here.setCtx u.focus.ctx c with cyc := n } := by
  refine ⟨if wd then u.cur.countWd (1 + Config.stall u.free) else u.cur, u.here.cyc + BitVec.ofNat 64 (1 + Config.stall u.free),
    ?_, ?_⟩
  · cases wd
    · exact .inl rfl
    · exact .inr ⟨_, rfl⟩
  · rw [State.here, State.elapse_focus, State.elapse, State.tile_modTile]
    rfl

/-- Cycles change CYC, the watchdog's count and the model's counter, and nothing else. -/
theorem afterCycles_elapse (u : State) (wd : Bool) : AfterCycles u (u.elapse u.focus.rank u.focus.ctx wd) := by
  obtain ⟨c, n, hc, hh⟩ := State.here_elapse u wd
  have hcur : (u.elapse u.focus.rank u.focus.ctx wd).cur = c := by
    rw [State.cur, State.elapse_focus, hh, Tile.ctx_with_cyc, Tile.ctx_setCtx]
  refine ⟨rfl, fun r h => State.tile_modTile_other _ h _, ?_, ?_⟩
  · rw [hcur, hh]
  · rw [hcur]
    obtain h | ⟨k, h⟩ := hc
    · rw [h]
    · rw [h]; exact Ctx.countWd_eq _ _

/-! ## Groups -/

theorem ready_iff (tie : Tie) (priv : Bool) (s : State) :
    Ready tie priv s ↔ s.groupDefect tie priv = none ∧ s.focus.times = 0 := by
  unfold Ready State.groupDefect
  cases priv <;> cases s.cur.sup <;> cases tie.allows s.focus.ctx <;> cases s.cur.straddles s.after <;> simp

/-- A ready group does what its body says. -/
theorem runGroup_ready {tie : Tie} {priv : Bool} {s : State} (h : Ready tie priv s) (body : Body) :
    runGroup tie priv body s =
      match body s with
      | .error e => .next (s.leaveGroup e)
      | .ok f => .next (commitGroup s.focus.rank s.focus.ctx s.after (!s.cur.sup) f) := by
  obtain ⟨e, ht⟩ := (ready_iff tie priv s).1 h
  cases hb : body s <;> simp only [runGroup, e, hb, ht, if_true]

/-- With no disagreement there is nothing to keep from showing. -/
@[simp] theorem State.unchecked_of_agrees {s : State} (h : s.focus.times = 0) (all : Bool) : s.unchecked all = s := by
  simp [State.unchecked, h]

/-- A ready group whose body goes on commits with the body's effect. -/
theorem runGroup_commits {tie : Tie} {priv : Bool} {s u : State} {body : Body} (h : Ready tie priv s) (hb : body s = .ok (.on u))
    (hf : u.focus = s.focus) : ∃ t, runGroup tie priv body s = .next t ∧ Commits s u t := by
  refine ⟨_, by rw [runGroup_ready h, hb], ?_⟩
  have := afterCycles_elapse (u.modCtx s.focus.rank s.focus.ctx fun c => c.fall s.after) (!s.cur.sup)
  simpa [Commits, commitGroup, hf] using this

/-- A ready group whose body jumps commits with the body's effect. -/
theorem runGroup_jumps {tie : Tie} {priv : Bool} {s u : State} {q : Half} {body : Body} (h : Ready tie priv s)
    (hb : body s = .ok (.jump u q)) (hf : u.focus = s.focus) :
    ∃ t, runGroup tie priv body s = .next t ∧ JumpsTo s u t q := by
  refine ⟨_, by rw [runGroup_ready h, hb], ?_⟩
  have := afterCycles_elapse (u.modCtx s.focus.rank s.focus.ctx fun c => c.jumpTo q) (!s.cur.sup)
  simpa [JumpsTo, commitGroup, hf] using this

/-- A ready group whose body sets the context's state itself. -/
theorem runGroup_leaves {tie : Tie} {priv : Bool} {s u : State} {body : Body} (h : Ready tie priv s)
    (hb : body s = .ok (.leave u)) (hf : u.focus = s.focus) : ∃ t, runGroup tie priv body s = .next t ∧ Leaves s u t := by
  refine ⟨_, by rw [runGroup_ready h, hb], ?_⟩
  have := afterCycles_elapse (u.modCtx s.focus.rank s.focus.ctx fun c => { c with waiting := false, replays := 0, hstep := 0, hreplays := 0, dueHeld := false }) (!s.cur.sup)
  simpa [Leaves, commitGroup, hf] using this

/-- A ready group that waits with nothing done. -/
theorem runGroup_waits {tie : Tie} {priv : Bool} {s : State} {body : Body} (h : Ready tie priv s)
    (hb : body s = .error (.wait s)) : ∃ t, runGroup tie priv body s = .next t ∧ Waits s t := by
  refine ⟨_, by rw [runGroup_ready h, hb], ?_⟩
  exact afterCycles_elapse (s.modCur fun c => { c with waiting := true }) true

/-- A group that changes its own context alone. -/
theorem plain_commits {s : State} (h : Ready .all false s) (f : Ctx → Ctx) :
    ∃ t, plain f s = .next t ∧ Commits s (s.setCur (f s.cur)) t := by
  unfold plain
  exact runGroup_commits h (by simp [onCtx, State.modCur_eq_setCur]) rfl

/-! ## Traps -/

theorem State.tile_congr {s t : State} (h : s.tiles = t.tiles) (r : Nat) : s.tile r = t.tile r := by
  unfold State.tile; rw [h]

/-- A trap at user level changes its own context; beside it only a record may be posted. -/
theorem State.trap_user (s : State) (r : Nat) (i : CtxId) (code detail : Byte) (value : DWord) (len : Nat) (idl : Bool)
    (h : ((s.tile r).ctx i).sup = false) :
    (s.trap r i code detail value len idl).tiles = (s.modCtx r i fun c => c.enterTrap code detail value len idl).tiles ∧
    (s.trap r i code detail value len idl).mem = s.mem ∧ (s.trap r i code detail value len idl).focus = s.focus := by
  unfold State.trap
  simp only [h]
  split
  · contradiction
  · split
    · exact ⟨rfl, rfl, rfl⟩
    · split <;> exact ⟨rfl, rfl, rfl⟩

/-- A 64-bit value from its halves. -/
theorem joinHalves (v : DWord) : (((v >>> 32).setWidth 32 : Word) ++ (v.setWidth 32 : Word) : DWord) = v := by
  apply BitVec.eq_of_getLsbD_eq
  intro i hi
  simp only [BitVec.getLsbD_append, BitVec.getLsbD_setWidth, BitVec.getLsbD_ushiftRight]
  by_cases h : i < 32
  · simp [h]
  · simp [h, show i - 32 < 32 by omega, show 32 + (i - 32) = i by omega]

/-- A group at user level that traps leaves what R27 says. -/
theorem leaveGroup_trapped (s : State) (code detail : Byte) (value : DWord) (h : s.cur.sup = false) :
    Trapped s (s.leaveGroup (.trap code detail value)) code detail value s.focus.len := by
  have ac := afterCycles_elapse s true
  have hcur : ((s.elapse s.focus.rank s.focus.ctx).tile s.focus.rank).ctx s.focus.ctx = (s.elapse s.focus.rank s.focus.ctx).cur := rfl
  obtain ⟨e1, e2, e3⟩ := State.trap_user (s.elapse s.focus.rank s.focus.ctx) s.focus.rank s.focus.ctx code detail value
    s.focus.len false (by rw [hcur, ac.ctx]; exact h)
  have ht : ∀ r, (s.leaveGroup (.trap code detail value)).tile r = _ := fun r => State.tile_congr e1 r
  have hc : (s.leaveGroup (.trap code detail value)).cur =
      ({ s.cur with wd := (s.elapse s.focus.rank s.focus.ctx).cur.wd } : Ctx).enterTrap code detail value s.focus.len false := by
    have : (s.leaveGroup (.trap code detail value)).focus = s.focus := e3
    unfold State.cur State.here
    rw [this, ht]
    simp only [State.tile_modCtx, Tile.ctx_setCtx]
    rw [hcur, ac.ctx]; rfl
  constructor
  · rw [hc]; rfl
  · rw [hc]; rfl
  · rw [hc]; rfl
  · rw [hc]; rfl
  · rw [hc]
    exact joinHalves value
  · rw [hc]; simp [Ctx.enterTrap]
  · rw [hc]; exact ⟨rfl, rfl⟩
  · rw [hc]; exact ⟨rfl, rfl, rfl, rfl, rfl, rfl⟩
  · rw [hc]; exact ⟨rfl, rfl, rfl⟩
  · exact e2
  · intro r hr
    rw [ht, State.tile_modCtx_other _ hr]
    exact ac.others r hr

/-- A ready group at user level whose body traps. -/
theorem runGroup_traps {tie : Tie} {priv : Bool} {s : State} {code detail : Byte} {value : DWord} {body : Body}
    (h : Ready tie priv s) (hu : s.cur.sup = false) (hb : body s = .error (.trap code detail value)) :
    ∃ t, runGroup tie priv body s = .next t ∧ Trapped s t code detail value s.focus.len := by
  exact ⟨_, by rw [runGroup_ready h, hb], leaveGroup_trapped s code detail value hu⟩

end Sys2Proof.Machine
end

