-- ==== Sys2Proof/Laws/Memory.lean ====
section
/-! SUPPORT. Every memory operation keeps the canonical form, and what reading after writing gives. -/

namespace Sys2Proof.Machine

/-! ## The canonical form -/

theorem Mem.wf_cons (k : Nat) (b : Byte) (m : Mem) :
    Mem.wf ((k, b) :: m) = true ↔ b ≠ fillByte k ∧ (∀ c ∈ m, k < c.1) ∧ Mem.wf m = true := by
  induction m generalizing k b with
  | nil => simp [Mem.wf]
  | cons e m ih =>
    obtain ⟨k', b'⟩ := e
    simp only [Mem.wf, Bool.and_eq_true, bne_iff_ne, ne_eq, decide_eq_true_eq, List.mem_cons, forall_eq_or_imp]
    constructor
    · rintro ⟨⟨h1, h2⟩, h3⟩
      exact ⟨h1, ⟨h2, fun c hc => Nat.lt_trans h2 (((ih k' b').1 h3).2.1 c hc)⟩, h3⟩
    · rintro ⟨h1, ⟨h2, -⟩, h3⟩
      exact ⟨⟨h1, h2⟩, h3⟩

theorem Mem.wf_filter (m : Mem) (p : Host.Cell → Bool) (h : m.wf = true) : Mem.wf (m.filter p) = true := by
  induction m with
  | nil => rfl
  | cons e m ih =>
    obtain ⟨a, c⟩ := e
    obtain ⟨h1, h2, h3⟩ := (Mem.wf_cons a c m).1 h
    rw [List.filter_cons]
    split
    · exact (Mem.wf_cons _ _ _).2 ⟨h1, fun x hx => h2 x (List.mem_filter.1 hx).1, ih h3⟩
    · exact ih h3

theorem Mem.mem_unlist {m : Mem} {k : Nat} {c : Host.Cell} (h : c ∈ m.unlist k) : c ∈ m := (List.mem_filter.1 h).1

theorem Mem.put_above {j k : Nat} (m : Mem) (b : Byte) (h : ∀ c ∈ m, j < c.1) (hk : j < k) : ∀ c ∈ m.put k b, j < c.1 := by
  induction m with
  | nil =>
    intro c hc
    unfold Mem.put at hc
    split at hc
    · simp at hc
    · simp at hc; subst hc; exact hk
  | cons e m ih =>
    obtain ⟨a, c⟩ := e
    have ha : j < a := h (a, c) (by simp)
    have hm : ∀ c ∈ m, j < c.1 := fun c hc => h c (by simp [hc])
    intro x hx
    unfold Mem.put at hx
    split at hx
    · split at hx
      · exact h x (Mem.mem_unlist hx)
      · rcases List.mem_cons.1 hx with rfl | hx
        · exact hk
        · exact h x hx
    · split at hx
      · split at hx
        · exact hm x (Mem.mem_unlist hx)
        · rcases List.mem_cons.1 hx with rfl | hx
          · exact hk
          · exact hm x hx
      · rcases List.mem_cons.1 hx with rfl | hx
        · exact ha
        · exact ih hm x hx

/-- Writing a byte keeps the canonical form. -/
theorem Mem.wf_put (m : Mem) (k : Nat) (b : Byte) (h : m.wf = true) : (m.put k b).wf = true := by
  induction m with
  | nil => unfold Mem.put; split <;> simp_all [Mem.wf]
  | cons e m ih =>
    obtain ⟨a, c⟩ := e
    obtain ⟨h1, h2, h3⟩ := (Mem.wf_cons a c m).1 h
    unfold Mem.put
    split
    · next hk =>
      split
      · exact Mem.wf_filter _ _ h
      · next hb =>
        refine (Mem.wf_cons _ _ _).2 ⟨hb, fun x hx => ?_, h⟩
        rcases List.mem_cons.1 hx with rfl | hx
        · exact hk
        · exact Nat.lt_trans hk (h2 x hx)
    · next hk =>
      split
      · next he =>
        subst he
        split
        · exact Mem.wf_filter _ _ h3
        · next hb => exact (Mem.wf_cons _ _ _).2 ⟨hb, h2, h3⟩
      · next he => exact (Mem.wf_cons _ _ _).2 ⟨h1, Mem.put_above m b h2 (by omega), ih h3⟩

theorem Mem.wf_writeNat (m : Mem) (k n v : Nat) (h : m.wf = true) : (m.writeNat k n v).wf = true := by
  induction n generalizing m k v with
  | zero => exact h
  | succ n ih => exact ih _ _ _ (Mem.wf_put m k _ h)

theorem Mem.wf_write {w : Nat} (m : Mem) (k n : Nat) (v : BitVec w) (h : m.wf = true) : (m.write k n v).wf = true :=
  Mem.wf_writeNat m k n _ h

theorem Mem.wf_writeMasked (m : Mem) (k n v mask : Nat) (h : m.wf = true) : (m.writeMasked k n v mask).wf = true := by
  induction n generalizing m k v mask with
  | zero => exact h
  | succ n ih =>
    unfold Mem.writeMasked
    split
    · exact ih _ _ _ _ (Mem.wf_put m k _ h)
    · exact ih _ _ _ _ h

theorem Mem.wf_clear (m : Mem) (lo hi : Nat) (h : m.wf = true) : (m.clear lo hi).wf = true := Mem.wf_filter m _ h

theorem Mem.wf_fillFrom (m : Mem) (base : Nat) (cells : List (Nat × Byte)) (h : m.wf = true) :
    (m.fillFrom base cells).wf = true := by
  unfold Mem.fillFrom
  induction cells generalizing m with
  | nil => exact h
  | cons c cs ih => exact ih _ (Mem.wf_put m _ _ h)

theorem Mem.wf_putBytes (m : Mem) (k : Nat) (bs : List Byte) (h : m.wf = true) : (m.putBytes k bs).wf = true := by
  induction bs generalizing m k with
  | nil => exact h
  | cons b bs ih => exact ih _ _ (Mem.wf_put m k b h)

theorem State.store_canonical {w : Nat} (s : State) (k n : Nat) (v : BitVec w) (h : s.mem.wf = true) :
    (s.store k n v).mem.wf = true := Mem.wf_write _ _ _ _ h

theorem State.storeMasked_canonical {w : Nat} (s : State) (k n : Nat) (v : BitVec w) (mask : Nat) (h : s.mem.wf = true) :
    (s.storeMasked k n v mask).mem.wf = true := by
  unfold State.storeMasked
  split
  · exact s.store_canonical k n v h
  · exact Mem.wf_writeMasked _ _ _ _ _ h

/-! ## Reading after writing -/

theorem Mem.get_unlist_same (m : Mem) (k : Nat) : (m.unlist k).get k = fillByte k := by
  unfold Mem.unlist
  induction m with
  | nil => rfl
  | cons e m ih =>
    obtain ⟨a, c⟩ := e
    by_cases h : a = k
    · simp [h, ih]
    · simp [h, Mem.get, ih]

theorem Mem.get_unlist_other (m : Mem) {j k : Nat} (h : j ≠ k) : (m.unlist k).get j = m.get j := by
  unfold Mem.unlist
  induction m with
  | nil => rfl
  | cons e m ih =>
    obtain ⟨a, c⟩ := e
    by_cases ha : a = k
    · simp [ha, ih, Mem.get, Ne.symm h]
    · simp [ha, Mem.get, ih]

/-- A byte reads as it was written. -/
theorem Mem.get_put_same (m : Mem) (k : Nat) (b : Byte) : (m.put k b).get k = b := by
  induction m with
  | nil =>
    unfold Mem.put
    split
    · next hb => rw [hb]; rfl
    · simp [Mem.get]
  | cons e m ih =>
    obtain ⟨a, c⟩ := e
    unfold Mem.put
    split
    · split
      · next hb => rw [hb]; exact Mem.get_unlist_same _ _
      · simp [Mem.get]
    · split
      · split
        · next hb => rw [hb]; exact Mem.get_unlist_same _ _
        · simp [Mem.get]
      · next he => simp [Mem.get, Ne.symm he, ih]

/-- Writing a byte leaves every other byte alone. -/
theorem Mem.get_put_other (m : Mem) {j k : Nat} (h : j ≠ k) (b : Byte) : (m.put k b).get j = m.get j := by
  induction m with
  | nil =>
    unfold Mem.put
    split
    · rfl
    · simp [Mem.get, Ne.symm h]
  | cons e m ih =>
    obtain ⟨a, c⟩ := e
    unfold Mem.put
    split
    · split
      · exact Mem.get_unlist_other _ h
      · simp [Mem.get, Ne.symm h]
    · split
      · next he =>
        subst he
        split
        · simp [Mem.get, Ne.symm h, Mem.get_unlist_other _ h]
        · simp [Mem.get, Ne.symm h]
      · simp only [Mem.get, ih]

theorem Mem.get_writeNat_other (m : Mem) (k n v : Nat) {j : Nat} (h : j < k ∨ k + n ≤ j) :
    (m.writeNat k n v).get j = m.get j := by
  induction n generalizing m k v with
  | zero => rfl
  | succ n ih =>
    unfold Mem.writeNat
    rw [ih _ _ _ (by omega), Mem.get_put_other _ (by omega)]

/-- A write leaves every byte outside it alone. -/
theorem Mem.get_write_other {w : Nat} (m : Mem) (k n : Nat) (v : BitVec w) {j : Nat} (h : j < k ∨ k + n ≤ j) :
    (m.write k n v).get j = m.get j := Mem.get_writeNat_other m k n _ h

theorem Mem.readNat_congr {m m' : Mem} {k n : Nat} (h : ∀ j, k ≤ j → j < k + n → m.get j = m'.get j) :
    m.readNat k n = m'.readNat k n := by
  induction n generalizing k with
  | zero => rfl
  | succ n ih =>
    unfold Mem.readNat
    rw [h k (by omega) (by omega), ih fun j h1 h2 => h j (by omega) (by omega)]

theorem Mem.readNat_writeNat (m : Mem) (k n v : Nat) :
    (m.writeNat k n v).readNat k n = v % 256 ^ n := by
  induction n generalizing m k v with
  | zero => simp [Mem.readNat, Nat.mod_one]
  | succ n ih =>
    unfold Mem.writeNat Mem.readNat
    rw [Mem.get_writeNat_other _ _ _ _ (by omega), Mem.get_put_same, ih]
    rw [BitVec.toNat_ofNat, Nat.pow_succ 256, Nat.mul_comm (256 ^ n) 256, Nat.mod_mul]

/-- The bytes of a write read back. -/
theorem Mem.read_write {w : Nat} (m : Mem) (k n : Nat) (v : BitVec w) (hw : w ≤ 8 * n) :
    (m.write k n v).read w k n = v := by
  unfold Mem.read Mem.write
  rw [Mem.readNat_writeNat]
  apply BitVec.eq_of_toNat_eq
  have : v.toNat < 256 ^ n := Nat.lt_of_lt_of_le v.isLt (by
    rw [show (256 : Nat) = 2 ^ 8 by rfl, ← Nat.pow_mul]
    exact Nat.pow_le_pow_right (by omega) hw)
  rw [BitVec.toNat_ofNat, Nat.mod_eq_of_lt this, Nat.mod_eq_of_lt v.isLt]

end Sys2Proof.Machine
end

