-- ==== Sys2Proof/Laws/Access.lean ====
section
/-! SUPPORT. Accesses that are performed at once: what reading and writing the tile's own bytes answers, and that logical times
apart nothing else changes. -/

namespace Sys2Proof.Machine

/-! ## The meeting of logical times -/

theorem AfterMeeting.refl (s : State) : AfterMeeting s s := by
  refine ⟨rfl, fun _ _ => rfl, ?_, rfl⟩
  exact (Tile.setCtx_ctx s.here s.focus.ctx).symm ▸ rfl

theorem AfterMeeting.focus {u t : State} (h : AfterMeeting u t) : t.focus = u.focus := by rw [h.rest]
theorem AfterMeeting.mem {u t : State} (h : AfterMeeting u t) : t.mem = u.mem := by rw [h.rest]

theorem Tile.ctx_with_leases (t : Tile) (i : CtxId) (l : List Lease) : ({ t with leases := l } : Tile).ctx i = t.ctx i := by
  cases i <;> rfl

theorem Tile.setCtx_with_leases (t : Tile) (i : CtxId) (l : List Lease) (c : Ctx) :
    ({ t with leases := l } : Tile).setCtx i c = { t.setCtx i c with leases := l } := by
  cases i <;> rfl

/-- A change of the focused tile's leases and of its context's logical time. -/
theorem AfterMeeting.of_modHere {u : State} (f : Tile → Tile) (l : List Lease) (p : Time)
    (h : f u.here = { u.here.setCtx u.focus.ctx { u.cur with pts := p } with leases := l }) : AfterMeeting u (u.modHere f) := by
  have hh : (u.modHere f).here = _ := (State.here_modHere u f).trans h
  have hc : (u.modHere f).cur = { u.cur with pts := p } := by
    show (u.modHere f).here.ctx u.focus.ctx = _
    rw [hh, Tile.ctx_with_leases, Tile.ctx_setCtx]
  refine ⟨rfl, fun r hr => State.tile_modTile_other _ hr _, ?_, ?_⟩
  · rw [hc, hh]
  · rw [hc]

theorem AfterMeeting.trans {u v t : State} (h : AfterMeeting u v) (k : AfterMeeting v t) : AfterMeeting u t := by
  refine ⟨?_, fun r hr => ?_, ?_, ?_⟩
  · rw [k.rest, h.rest]
  · rw [k.others r (by rw [h.focus]; exact hr), h.others r hr]
  · rw [k.tile, h.focus, h.tile, Tile.setCtx_with_leases, Tile.setCtx_setCtx]
  · rw [k.ctx, h.ctx]

theorem Tile.setCtx_pts (u : Tile) (i : CtxId) (p : Time) :
    u.setCtx i { u.ctx i with pts := p } = { u.setCtx i { u.ctx i with pts := p } with leases := u.leases } := by
  cases i <;> rfl

theorem afterMeeting_meet (s : State) (t : Time) : AfterMeeting s (s.modCur (·.meet t)) :=
  AfterMeeting.of_modHere (fun u => u.setCtx s.focus.ctx ((u.ctx s.focus.ctx).meet t)) s.here.leases (Time.join s.cur.pts t)
    (Tile.setCtx_pts _ _ _)

theorem afterMeeting_meetTime (s : State) (t : DWord) : AfterMeeting s (s.modCur (·.meetTime t)) :=
  AfterMeeting.of_modHere (fun u => u.setCtx s.focus.ctx ((u.ctx s.focus.ctx).meetTime t)) s.here.leases
    { s.cur.pts with time := maxTime s.cur.pts.time t } (Tile.setCtx_pts _ _ _)

theorem Tile.eq_setCtx_pts (t : Tile) (i : CtxId) (l : List Lease) :
    ({ t with leases := l } : Tile) = { t.setCtx i { t.ctx i with pts := (t.ctx i).pts } with leases := l } := by
  cases i <;> rfl

theorem afterMeeting_setLease (s : State) (l : Lease) : AfterMeeting s (s.modHere fun t => t.setLease l) :=
  AfterMeeting.of_modHere _ _ s.cur.pts (Tile.eq_setCtx_pts _ _ _)

theorem afterMeeting_stampRead (s : State) (key : Nat) (pts len : DWord) :
    AfterMeeting s (s.stampRead s.focus.rank key pts len).1 := by
  unfold State.stampRead
  split
  · split
    · exact .refl s
    · exact afterMeeting_setLease s _
  · exact afterMeeting_setLease s _

theorem afterMeeting_stampWrite (s : State) (key : Nat) (pts : DWord) :
    AfterMeeting s (s.stampWrite s.focus.rank key pts).1 := by
  unfold State.stampWrite
  split
  · split
    · exact .refl s
    · exact afterMeeting_setLease s _
  · exact afterMeeting_setLease s _

/-- What the meeting leaves of every tile. -/
theorem AfterMeeting.fly {u t : State} (h : AfterMeeting u t) (r : Nat) : (t.tile r).fly = (u.tile r).fly := by
  by_cases e : r = u.focus.rank
  · subst e
    have := h.tile
    unfold State.here at this
    rw [h.focus] at this
    rw [this]; cases u.focus.ctx <;> rfl
  · rw [h.others r e]

theorem AfterMeeting.matrix {u t : State} (h : AfterMeeting u t) : t.here.matrix = u.here.matrix := by
  rw [h.tile]; cases u.focus.ctx <;> rfl

theorem AfterMeeting.poisoned {u t : State} (h : AfterMeeting u t) (key n : Nat) : t.poisoned key n = u.poisoned key n := by
  unfold State.poisoned
  rw [h.fly]
  conv_lhs => rw [h.rest]
  rfl

theorem AfterMeeting.bankHeld {u t : State} (h : AfterMeeting u t) (key : Nat) : t.bankHeld key = u.bankHeld key := by
  unfold State.bankHeld; rw [h.fly]

theorem AfterMeeting.deadPole {u t : State} (h : AfterMeeting u t) (key : Nat) : t.deadPole key = u.deadPole key := by
  unfold State.deadPole; rw [h.fly]

theorem AfterMeeting.late {u t : State} (h : AfterMeeting u t) (r : Nat) : (t.tile r).late = (u.tile r).late := by
  by_cases e : r = u.focus.rank
  · subst e
    have := h.tile
    unfold State.here at this
    rw [h.focus] at this
    rw [this]; cases u.focus.ctx <;> rfl
  · rw [h.others r e]

theorem AfterMeeting.portFails {u t : State} (h : AfterMeeting u t) (r key : Nat) : t.portFails r key = u.portFails r key := by
  have : t.portDown key = u.portDown key := by rw [h.rest]; rfl
  unfold State.portFails; rw [this, h.late]

theorem AfterMeeting.here_fly {u t : State} (h : AfterMeeting u t) : t.here.fly = u.here.fly := by
  unfold State.here; rw [h.focus]; exact h.fly _

theorem AfterMeeting.idle {u t : State} (h : AfterMeeting u t) (hi : Idle u) : Idle t := by
  unfold Idle at *; rw [h.ctx]; exact hi

theorem AfterMeeting.good {u t : State} (h : AfterMeeting u t) {ps : List Piece} (hg : Good u ps) : Good t ps :=
  fun p hp => ⟨(h.poisoned p.key p.size).trans (hg p hp).1, by rw [h.focus, h.portFails]; exact (hg p hp).2⟩

theorem AfterMeeting.writable {u t : State} (h : AfterMeeting u t) {ps : List Piece} (hg : Writable u ps) : Writable t ps :=
  fun p hp => ⟨(h.deadPole p.key).trans (hg p hp).1, by rw [h.focus, h.portFails]; exact (hg p hp).2⟩

theorem AfterMeeting.atOnce {u t : State} (h : AfterMeeting u t) {ps : List Piece} (ha : AtOnce u ps) : AtOnce t ps := by
  refine ⟨h.idle ha.idle, fun p hp => ?_, ⟨?_, fun p hp => ?_⟩, fun hc p hp => ?_⟩
  · rw [h.bankHeld]; exact ha.own p hp
  · rw [h.here_fly]; exact ha.sound.1
  · rw [h.fly]; exact ha.sound.2 p hp
  · rw [h.matrix]; exact ha.matrix (by rw [← h.focus]; exact hc) p hp

/-! ## Accesses performed at once -/

theorem AtOnce.tail {s : State} {p : Piece} {ps : List Piece} (h : AtOnce s (p :: ps)) : AtOnce s ps :=
  ⟨h.idle, fun q hq => h.own q (.tail _ hq), ⟨h.sound.1, fun q hq => h.sound.2 q (.tail _ hq)⟩, fun hc q hq => h.matrix hc q (.tail _ hq)⟩

/-- A read of bytes whose fly is whole meets nothing (R369, R371). -/
theorem readSeen_sound {s : State} {key n : Nat} (h : flyEnd ≤ key ∨ (s.tile (key / 2 ^ 25)).fly.sound = true) :
    s.readSeen key n = (s, s.mem) := by
  have : flyEnd ≤ key ∨ (s.tile (key / 2 ^ 25)).fly.sound := h
  simp only [State.readSeen, State.meetFly, this, if_true]

/-- A write of bytes whose fly is whole meets nothing (R369, R371). -/
theorem writeSeen_sound {s : State} {key n : Nat} (h : flyEnd ≤ key ∨ (s.tile (key / 2 ^ 25)).fly.sound = true) :
    s.writeSeen key n = s := by
  have : flyEnd ≤ key ∨ (s.tile (key / 2 ^ 25)).fly.sound := h
  simp only [State.writeSeen, this, if_true]

theorem AtOnce.mayAccess {s : State} {ps : List Piece} (h : AtOnce s ps) : s.mayAccess (ps.map fun p => (p.key, p.size)) = true := by
  obtain ⟨-, h2, h3⟩ := h.idle
  unfold State.mayAccess
  rw [h2, h3]
  simp only [List.isEmpty_nil, List.any_nil, Bool.not_false, Bool.true_and, List.all_map, List.all_eq_true, Function.comp]
  intro p hp
  cases hc : s.focus.ctx == .c
  · simp
  · simp [h.matrix (by simpa using hc) p hp]

/-- The tile's own good pieces are read at once. -/
theorem advanceRead_own : ∀ (ps : List Piece) (s : State) (x : Xact), AtOnce s ps → Good s ps → x.bad = none →
    ∃ v, s.advanceRead s.focus.rank s.focus.ctx x ps =
        (v, { x with todo := [], sent := false, done := x.done ++ ps.map fun p => s.mem.read 128 p.key p.size }) ∧ AfterMeeting s v
  | [], s, x, _, _, _ => ⟨s, by simp [State.advanceRead], .refl s⟩
  | p :: ps, s, x, ha, hg, hb => by
    obtain ⟨ho, hk⟩ := ha.own p (.head _)
    have hp := hg p (.head _)
    have h1 := afterMeeting_stampRead s p.key s.cur.pts.time 0
    have hs := readSeen_sound (n := p.size) (ha.sound.2 p (.head _))
    let w := s.stampRead s.focus.rank p.key s.cur.pts.time 0
    let m : Time := Time.join (s.published s.focus.rank p.window) ⟨w.2.1, s.knownAt p.key p.size⟩
    have h2 : AfterMeeting s (w.1.modCur (·.meet m)) := h1.trans (afterMeeting_meet w.1 m)
    obtain ⟨v, e, hv⟩ := advanceRead_own ps _ { x with done := x.done ++ [s.mem.read 128 p.key p.size] } (h2.atOnce ha.tail)
      (h2.good fun q hq => hg q (.tail _ hq)) hb
    refine ⟨v, ?_, h2.trans hv⟩
    rw [h2.focus] at e
    have hf : w.1.focus = s.focus := h1.focus
    have hm : w.1.modCur (·.meet m) = w.1.modCtx s.focus.rank s.focus.ctx (·.meet m) := by rw [State.modCur, hf]
    have hd : (w.1.modCur (·.meet m)).mem = s.mem := h2.mem
    rw [hd, hm] at e
    simp only [State.advanceRead, ho, hk, hs, hp.1, hp.2, Bool.false_eq_true, if_false, List.map_cons]
    exact e.trans (by simp)

/-- Clearing an access that is not under way changes nothing. -/
theorem State.clear_xact {s : State} (h : s.cur.xact = none) :
    s.modCtx s.focus.rank s.focus.ctx (fun c => { c with xact := none }) = s.modCur id := by
  have : ({ s.cur with xact := none } : Ctx) = s.cur := by rw [← h]
  rw [State.modCur_eq_setCur]
  show s.modCur _ = _
  rw [State.modCur_eq_setCur, this]; rfl

/-- The values of the tile's own good pieces. -/
theorem readEach_own {ps : List Piece} {s : State} (ha : AtOnce s ps) (hg : Good s ps) (blame : Nat → Byte → Exit) :
    ∃ v, s.readEach blame ps = .ok (v, ps.map fun p => s.mem.read 128 p.key p.size) ∧ AfterMeeting s v := by
  obtain ⟨v, e, hv⟩ := advanceRead_own ps s { todo := ps } ha hg rfl
  have hx : s.cur.xact = none := ha.idle.1
  have hw : v.cur.xact = none := (hv.idle ha.idle).1
  refine ⟨v.modCtx s.focus.rank s.focus.ctx fun c => { c with xact := none }, ?_, ?_⟩
  · unfold State.readEach
    simp [hx, ha.mayAccess, e]
  · rw [← hv.focus, State.clear_xact hw]
    refine hv.trans ?_
    exact AfterMeeting.of_modHere _ v.here.leases v.cur.pts ((Tile.setCtx_ctx _ _).trans (Tile.eq_setCtx_pts _ _ _))

/-- The same of an access at a pointer. -/
theorem readPieces_own {ps : List Piece} {s : State} (ha : AtOnce s ps) (hg : Good s ps) (ea : DWord) :
    ∃ v, s.readPieces ea ps = .ok (v, ps.map fun p => s.mem.read 128 p.key p.size) ∧ AfterMeeting s v :=
  readEach_own ha hg _

/-- A load of bytes of the tile's own. -/
theorem load_own {s : State} {ea : DWord} {n : Nat} {g : Target} (hc : s.target .load ea n = .ok g)
    (ha : AtOnce s [g.piece n]) (hg : Good s [g.piece n]) :
    ∃ v, s.load ea n = .ok (v, s.mem.read 128 g.key n) ∧ AfterMeeting s v := by
  obtain ⟨v, e, hv⟩ := readPieces_own ha hg ea
  refine ⟨v, ?_, hv⟩
  simp only [State.load, hc, bind, Except.bind, e]
  rfl

/-- An allowed access reaches its target. -/
theorem Allowed.target {s : State} {u : Purpose} {ea : DWord} {n : Nat} {g : Target} (h : Allowed s u ea n g) :
    s.target u ea n = .ok g := by
  simp [State.target, State.targetAt, h.1, h.2]

/-- A check that fails traps with the address, unless the translation is still to come. -/
theorem target_checked {s : State} {u : Purpose} {ea : DWord} {n : Nat} {code : Byte}
    (hc : s.checkAccess s.focus.rank (s.focus.ctx == .c) u ea n = .error code)
    (hd : ofPage code = true → s.targetDue s.focus.rank u ea = false ∧ s.targetMeets s.focus.rank u ea = false) :
    s.target u ea n = .error (.trap code 0 ea) := by
  simp only [State.target, State.targetAt, hc]
  cases h : ofPage code
  · simp
  · simp [hd h]

theorem Denied.target {s : State} {u : Purpose} {ea : DWord} {n : Nat} {code : Byte} (h : Denied s u ea n code) :
    s.target u ea n = .error (.trap code 0 ea) := target_checked h.1 h.2

/-- An access whose translation is still to come waits with nothing done. -/
theorem Delayed.target {s : State} {u : Purpose} {ea : DWord} {n : Nat} (h : Delayed s u ea n) :
    s.target u ea n = .error (.wait s) := by
  obtain ⟨h1, h2⟩ := h
  simp only [State.target, State.targetAt]
  split <;> rename_i e <;> simp_all

/-- A load whose check fails. -/
theorem load_checked {s : State} {ea : DWord} {n : Nat} {e : Exit} (hc : s.target .load ea n = .error e) :
    s.load ea n = .error e := by
  simp only [State.load, hc, bind, Except.bind]

/-- A load that meets bad data traps with the address. -/
theorem load_bad {s : State} {ea : DWord} {n : Nat} {g : Target} (hc : s.target .load ea n = .ok g)
    (ha : AtOnce s [g.piece n]) (hg : s.poisoned g.key n = true) (hf : s.portFails s.focus.rank g.key = false) :
    s.load ea n = .error (.trap (badCode g.key) 0 ea) := by
  obtain ⟨ho, hk⟩ := ha.own _ (.head _)
  change g.home = none at ho
  change s.bankHeld g.key = false at hk
  have hs := readSeen_sound (n := n) (ha.sound.2 (g.piece n) (.head _))
  change s.readSeen g.key n = (s, s.mem) at hs
  have hx := ha.idle.1
  have hmay := ha.mayAccess
  have hw : s.meetsNothing s.focus.rank [⟨g.key, n, none, g.window⟩] = true := by
    have := ha.sound.1
    unfold State.here at this
    simp [State.meetsNothing, this, hf]
  rw [Target.piece, ho] at hmay
  simp only [State.load, hc, Target.piece, bind, Except.bind, State.readPieces, State.readEach, hx, hmay,
    State.advanceRead, ho, hk, hs, hg, hf, hw, Option.isNone_none, Bool.not_true, Bool.and_false, Bool.false_eq_true, if_false,
    if_true]

/-- A write of memory changes none of these. -/
theorem State.storeMasked_fields (s : State) (k n m : Nat) (v : BitVec 128) (known : List Nat) :
    (s.storeMasked k n v m known).tiles = s.tiles ∧ (s.storeMasked k n v m known).focus = s.focus ∧
      (s.storeMasked k n v m known).tier2 = s.tier2 ∧ (s.storeMasked k n v m known).tier2Down = s.tier2Down := by
  unfold State.storeMasked; split <;> exact ⟨rfl, rfl, rfl, rfl⟩

/-- A write at a logical time changes none of these. -/
theorem State.stampWrite_fly (s : State) (r key : Nat) (pts : DWord) (q : Nat) :
    ((s.stampWrite r key pts).1.tile q).fly = (s.tile q).fly := by
  have step (l : Lease) : ((s.modTile r fun t => t.setLease l).tile q).fly = (s.tile q).fly := by
    by_cases h : q = r
    · subst h; rw [State.tile_modTile]; rfl
    · rw [State.tile_modTile_other _ h]
  unfold State.stampWrite
  split
  · split
    · rfl
    · exact step _
  · exact step _

/-- Writing bytes that no pole and no port refuses, and whose fly is whole. -/
theorem performWrite_ok {s : State} {home key size : Nat} {data : BitVec 128} {pts : Time} {who : Nat × Option CtxId} {mask : Nat}
    (h1 : s.deadPole key = false) (h2 : s.portFails home key = false)
    (h3 : flyEnd ≤ key ∨ (s.tile (key / 2 ^ 25)).fly.sound = true) :
    s.performWrite home key size data pts who mask =
      ((s.stampWrite home key pts.time).1.storeMasked key size data mask pts.known, (s.stampWrite home key pts.time).2) := by
  have ht : ∀ q, (((s.stampWrite home key pts.time).1.storeMasked key size data mask pts.known).tile q).fly = (s.tile q).fly := fun q => by
    rw [State.tile_congr (State.storeMasked_fields _ _ _ _ _ _).1, State.stampWrite_fly]
  have h4 : ((s.stampWrite home key pts.time).1.storeMasked key size data mask pts.known).deadPole key = false := by
    unfold State.deadPole at *; rw [ht]; exact h1
  have h5 := writeSeen_sound (s := (s.stampWrite home key pts.time).1.storeMasked key size data mask pts.known) (key := key) (n := size)
    (by rw [ht]; exact h3)
  simp only [State.performWrite, h1, h2, Prod.map, h5, h4, Bool.false_eq_true, if_false, id]

/-- The tile's own pieces are written at once, in order; logical times aside, memory is all that changes, and what happens before
the bytes' values. -/
def State.storePieces (s : State) (ps : List StorePiece) (known : List Nat) : State :=
  ps.foldl (fun s p => s.storeMasked p.piece.key p.piece.size p.data p.mask known) s

theorem AfterMeeting.storeMasked {u t : State} (h : AfterMeeting u t) (k n m : Nat) (v : BitVec 128) (known : List Nat) :
    AfterMeeting (u.storeMasked k n v m known) (t.storeMasked k n v m known) := by
  obtain ⟨e1, f1, -, -⟩ := u.storeMasked_fields k n m v known
  obtain ⟨e2, f2, -, -⟩ := t.storeMasked_fields k n m v known
  have t1 := State.tile_congr e1
  have t2 := State.tile_congr e2
  refine ⟨?_, fun r hr => ?_, ?_, ?_⟩
  · rw [e2]
    have e := h.rest
    unfold State.storeMasked State.store
    split <;> rw [e]
  · rw [t1, t2]; exact h.others r (by rw [← f1]; exact hr)
  · have := h.tile
    unfold State.cur State.here at *
    rw [f1, f2, t1, t2]; exact this
  · have := h.ctx
    unfold State.cur State.here at *
    rw [f1, f2, t1, t2]; exact this

theorem AfterMeeting.storePieces {u t : State} (h : AfterMeeting u t) (ps : List StorePiece) (known : List Nat) :
    AfterMeeting (u.storePieces ps known) (t.storePieces ps known) := by
  induction ps generalizing u t with
  | nil => exact h
  | cons p ps ih => exact ih (h.storeMasked _ _ _ _ _)

/-- What may be accessed at once may be so after a write of memory. -/
theorem AtOnce.storeMasked {s : State} {ps : List Piece} (h : AtOnce s ps) (k n m : Nat) (v : BitVec 128) (known : List Nat) :
    AtOnce (s.storeMasked k n v m known) ps := by
  obtain ⟨ht, hf, -, -⟩ := s.storeMasked_fields k n m v known
  have t := State.tile_congr ht
  have hh : (s.storeMasked k n v m known).here = s.here := by unfold State.here; rw [hf, t]
  refine ⟨?_, fun p hp => ?_, ⟨?_, fun p hp => ?_⟩, fun hc p hp => ?_⟩
  · have := h.idle; unfold Idle State.cur at *; rw [hf, hh]; exact this
  · have := h.own p hp; unfold State.bankHeld at *; rw [t]; exact this
  · rw [hh]; exact h.sound.1
  · rw [t]; exact h.sound.2 p hp
  · rw [hh]; exact h.matrix (by rw [← hf]; exact hc) p hp

theorem Writable.storeMasked {s : State} {ps : List Piece} (h : Writable s ps) (k n m : Nat) (v : BitVec 128) (known : List Nat) :
    Writable (s.storeMasked k n v m known) ps := by
  obtain ⟨ht, hf, h2, h3⟩ := s.storeMasked_fields k n m v known
  intro p hp
  have := h p hp
  unfold State.deadPole State.portFails State.portDown State.tier2Port at *
  rw [hf, State.tile_congr ht, State.tile_congr ht, h2, h3]; exact this

/-- The tile's own pieces are written at once, in order. -/
theorem advanceStore_own : ∀ (ps : List StorePiece) (s : State), AtOnce s (ps.map (·.piece)) → Writable s (ps.map (·.piece)) →
    AfterMeeting (s.storePieces ps s.cur.pts.known) (s.advanceStore s.focus.rank s.focus.ctx ps)
  | [], s, ha, _ => by
    have : ({ s.cur with storing := [] } : Ctx) = s.cur := by rw [← ha.idle.2.1]
    have e : s.advanceStore s.focus.rank s.focus.ctx [] = s.modCur id := by
      show s.modCur _ = _
      rw [State.modCur_eq_setCur, this, State.modCur_eq_setCur]; rfl
    rw [e]
    exact AfterMeeting.of_modHere _ s.here.leases s.cur.pts ((Tile.setCtx_ctx _ _).trans (Tile.eq_setCtx_pts _ _ _))
  | p :: ps, s, ha, hw => by
    obtain ⟨ho, hb⟩ := ha.own p.piece (.head _)
    obtain ⟨h1, h2⟩ := hw p.piece (.head _)
    have h3 := ha.sound.2 p.piece (.head _)
    let w := s.stampWrite s.focus.rank p.piece.key s.cur.pts.time
    let n := s.cur.pts.known
    let u := w.1.storeMasked p.piece.key p.piece.size p.data p.mask n
    have m1 : AfterMeeting (s.storeMasked p.piece.key p.piece.size p.data p.mask n) u :=
      (afterMeeting_stampWrite s p.piece.key s.cur.pts.time).storeMasked _ _ _ _ _
    have f0 := (s.storeMasked_fields p.piece.key p.piece.size p.mask p.data n).2.1
    have f1 : u.focus = s.focus := m1.focus.trans f0
    have m2 := m1.trans (afterMeeting_meetTime u w.2)
    have ih := advanceStore_own ps _ (m2.atOnce (ha.tail.storeMasked _ _ _ _ _))
      (m2.writable (Writable.storeMasked (fun q hq => hw q (.tail _ hq)) _ _ _ _ _))
    have f2 := m2.focus.trans f0
    have hk : (u.modCur (·.meetTime w.2)).cur.pts.known = n := by
      rw [State.cur_modCur]
      show u.cur.pts.known = n
      have e1 : u.cur = w.1.cur := by
        unfold State.cur State.here
        rw [(State.storeMasked_fields _ _ _ _ _ _).2.1, State.tile_congr (State.storeMasked_fields _ _ _ _ _ _).1]
      rw [e1]
      show w.1.cur.pts.known = s.cur.pts.known
      have keep (l : Lease) : (s.modHere fun t => t.setLease l).cur.pts = s.cur.pts := by
        unfold State.cur
        rw [State.here_modHere]
        show ((s.here.setLease l).ctx s.focus.ctx).pts = _
        cases s.focus.ctx <;> rfl
      show (State.stampWrite s s.focus.rank p.piece.key s.cur.pts.time).1.cur.pts.known = _
      unfold State.stampWrite
      split
      · split
        · rfl
        · exact congrArg Time.known (keep _)
      · exact congrArg Time.known (keep _)
    rw [f2, hk] at ih
    have e : s.advanceStore s.focus.rank s.focus.ctx (p :: ps) =
        (u.modCur (·.meetTime w.2)).advanceStore s.focus.rank s.focus.ctx ps := by
      rw [State.modCur, f1]
      simp only [State.advanceStore, ho, hb, Bool.false_eq_true, if_false]
      have := performWrite_ok (size := p.piece.size) (data := p.data) (pts := s.cur.pts) (who := (s.focus.rank, some s.focus.ctx))
        (mask := p.mask) h1 h2 h3
      rw [show ((s.tile s.focus.rank).ctx s.focus.ctx).pts = s.cur.pts from rfl, this]
    rw [e]
    exact (AfterMeeting.storePieces m2 ps n).trans ih

/-- The tile's own pieces are written at once. -/
theorem writePieces_own {s : State} {ps : List StorePiece} (ha : AtOnce s (ps.map (·.piece))) (hw : Writable s (ps.map (·.piece))) :
    ∃ v, s.writePieces ps = .ok v ∧ AfterMeeting (s.storePieces ps s.cur.pts.known) v := by
  refine ⟨_, ?_, advanceStore_own ps s ha hw⟩
  have h1 := ha.mayAccess
  rw [List.map_map] at h1
  have h2 : (ps.any fun p => p.piece.home.isNone && s.bankHeld p.piece.key) = false := by
    rw [List.any_eq_false]
    intro p hp
    simp [ha.own p.piece (List.mem_map_of_mem hp)]
  unfold State.writePieces
  rw [h2]
  simp only [Function.comp_def] at h1
  simp [h1]

/-- A write of all its bytes is a store. -/
theorem State.storeMasked_whole (s : State) {k n : Nat} (v : BitVec 128) (known : List Nat) (h : n ≤ 16) :
    s.storeMasked k n v 0xFFFF known = s.store k n v known := by
  have : 0xFFFF % 2 ^ n = 2 ^ n - 1 := by interval_cases n <;> rfl
  simp [State.storeMasked, this]

/-- A store of bytes of the tile's own. -/
theorem storeTo_own {s : State} {ea : DWord} {n : Nat} {g : Target} (data : BitVec 128) (hn : n ≤ 16)
    (hc : s.target .store ea n = .ok g) (ha : AtOnce s [g.piece n]) (hw : Writable s [g.piece n]) :
    ∃ v, s.storeTo ea n data = .ok v ∧ AfterMeeting (s.store g.key n data s.cur.pts.known) v := by
  obtain ⟨v, e, hv⟩ := writePieces_own (s := s) (ps := [{ piece := g.piece n, data := data }]) ha hw
  refine ⟨v, ?_, ?_⟩
  · simp only [State.storeTo, hc, bind, Except.bind, e]
  · have : s.storePieces [{ piece := g.piece n, data := data }] s.cur.pts.known = s.store g.key n data s.cur.pts.known :=
      s.storeMasked_whole data _ hn
    rw [← this]; exact hv

/-- A store whose check fails. -/
theorem storeTo_checked {s : State} {ea : DWord} {n : Nat} {e : Exit} (data : BitVec 128) (hc : s.target .store ea n = .error e) :
    s.storeTo ea n data = .error e := by
  simp only [State.storeTo, hc, bind, Except.bind]

/-- A ready group whose body performs its access and goes on. -/
theorem runGroup_accesses {tie : Tie} {priv : Bool} {s u w : State} {i : Instr} {body : Body} (h : Ready tie priv s)
    (e : exec i s = runGroup tie priv body s) (hb : body s = .ok (.on w)) (hu : u.focus = s.focus) (hm : AfterMeeting u w) :
    CompletesAccess i s u := by
  obtain ⟨t, h1, h2⟩ := runGroup_commits h hb (hm.focus.trans hu)
  exact ⟨w, t, e.trans h1, hm, h2⟩

/-- A change of the context that does not look at its logical time, after the meeting. -/
theorem AfterMeeting.modCur {u t : State} (h : AfterMeeting u t) (f : Ctx → Ctx)
    (hf : ∀ c p, f { c with pts := p } = { f c with pts := p }) :
    AfterMeeting (u.setCur (f u.cur)) (t.modCur f) := by
  have hfo := h.focus
  have e1 : f t.cur = { f u.cur with pts := t.cur.pts } := by rw [h.ctx]; exact hf _ _
  refine ⟨?_, fun r hr => ?_, ?_, ?_⟩
  · have hr : ∀ l, ({ t with tiles := l } : State) = { u with tiles := l } := fun l => by rw [h.rest]
    exact hr (t.modCur f).tiles
  · have hr' : r ≠ u.focus.rank := hr
    rw [State.modCur, State.tile_modCtx_other _ (by rw [hfo]; exact hr'), State.setCur, State.modCur, State.tile_modCtx_other _ hr']
    exact h.others r hr'
  · rw [State.here_modCur, State.cur_modCur, State.setCur, State.here_modCur, h.tile, hfo]
    rw [e1, show ∀ g, (u.modCur g).focus = u.focus from fun _ => rfl]
    generalize u.focus.ctx = i
    cases i <;> rfl
  · rw [State.cur_modCur, State.setCur, State.cur_modCur, e1]

end Sys2Proof.Machine
end

