-- ==== Sys2Proof/Laws/Canonical.lean ====
section
/-! SUPPORT. The shared operations keep every store of bytes in its canonical form. -/

namespace Sys2Proof.Machine

/-! ## Lists by number -/

theorem assocGet_all {α : Type} {P : α → Prop} {d : α} (hd : P d) {l : List (Nat × α)} (h : ∀ e ∈ l, P e.2) (n : Nat) :
    P (assocGet d l n) := by
  induction l with
  | nil => exact hd
  | cons e l ih =>
    obtain ⟨k, a⟩ := e
    unfold assocGet
    split
    · exact h (k, a) (by simp)
    · exact ih fun e he => h e (by simp [he])

theorem assocPut_all {α : Type} {P : α → Prop} {l : List (Nat × α)} (h : ∀ e ∈ l, P e.2) {n : Nat} {a : α} (ha : P a) :
    ∀ e ∈ assocPut l n a, P e.2 := by
  induction l with
  | nil => simpa [assocPut] using ha
  | cons e l ih =>
    obtain ⟨k, b⟩ := e
    have hl := ih fun e he => h e (by simp [he])
    have hb : P b := h (k, b) (by simp)
    have ht : ∀ e ∈ l, P e.2 := fun e he => h e (by simp [he])
    unfold assocPut
    intro x hx
    split at hx
    · rcases List.mem_cons.1 hx with rfl | hx
      · exact ha
      · exact h x hx
    · split at hx <;> rcases List.mem_cons.1 hx with rfl | hx
      · exact ha
      · exact ht x hx
      · exact hb
      · exact hl x hx

/-! ## Tiles -/

theorem Tile.canonical_default : ({} : Tile).Canonical := ⟨⟨rfl, rfl⟩, by simp⟩

/-- A tile with the same stores and saved nodes. -/
theorem Tile.Canonical.congr {t u : Tile} (h : t.Canonical) (hz : u.z = t.z) (hh : u.h = t.h) (hs : u.saved = t.saved) :
    u.Canonical := by
  unfold Tile.Canonical
  rw [hz, hh, hs]
  exact h

theorem Tile.setCtx_canonical {t : Tile} (h : t.Canonical) (i : CtxId) (c : Ctx) : (t.setCtx i c).Canonical := by
  cases i <;> exact h.congr rfl rfl rfl

theorem Tile.setCell_canonical {t : Tile} (h : t.Canonical) (r c : Nat) (w : Word) : (t.setCell r c w).Canonical :=
  ⟨⟨Mem.wf_write _ _ _ _ h.1.1, h.1.2⟩, h.2⟩

theorem Tile.fillCells_canonical {t : Tile} (h : t.Canonical) (o : BitVec 2) (m n : Nat) (f : Nat → Nat → Word) :
    (t.fillCells o m n f).Canonical := by
  unfold Tile.fillCells
  generalize cellsOf m n = l
  induction l generalizing t with
  | nil => exact h
  | cons e l ih => exact ih (t.setCell_canonical h _ _ _)

theorem Tile.setSumm_canonical {t : Tile} (h : t.Canonical) (d : HReg) (x : Summ) : (t.setSumm d x).Canonical :=
  ⟨⟨h.1.1, Mem.wf_putBytes _ _ _ h.1.2⟩, h.2⟩

/-! ## The module -/

theorem State.reset_canonical : State.reset.Canonical := ⟨rfl, by simp [State.reset]⟩

/-- A state with the same memory and the same tiles. -/
theorem State.Canonical.congr {s t : State} (h : s.Canonical) (hm : t.mem = s.mem) (ht : t.tiles = s.tiles) : t.Canonical := by
  unfold State.Canonical
  rw [hm, ht]
  exact h

theorem State.tile_canonical {s : State} (h : s.Canonical) (r : Nat) : (s.tile r).Canonical :=
  assocGet_all Tile.canonical_default h.2 r

theorem State.setTile_canonical {s : State} (h : s.Canonical) (r : Nat) {t : Tile} (ht : t.Canonical) : (s.setTile r t).Canonical :=
  ⟨h.1, assocPut_all h.2 ht⟩

/-- A change of a tile that keeps the form of its stores. -/
theorem State.modTile_canonical {s : State} (h : s.Canonical) (r : Nat) {f : Tile → Tile} (hf : ∀ t, t.Canonical → (f t).Canonical) :
    (s.modTile r f).Canonical := s.setTile_canonical h r (hf _ (s.tile_canonical h r))

theorem State.modCtx_canonical {s : State} (h : s.Canonical) (r : Nat) (i : CtxId) (f : Ctx → Ctx) : (s.modCtx r i f).Canonical :=
  s.modTile_canonical h r fun t ht => t.setCtx_canonical ht i _

theorem State.mem_canonical {s : State} (h : s.Canonical) {m : Mem} (hm : m.wf = true) : ({ s with mem := m } : State).Canonical :=
  ⟨hm, h.2⟩

/-! ## Saved nodes -/

theorem Tile.arrive_stores (t : Tile) (m : Msg) : (t.arrive m).z = t.z ∧ (t.arrive m).h = t.h ∧ (t.arrive m).saved = t.saved := by
  unfold Tile.arrive
  split <;> exact ⟨rfl, rfl, rfl⟩

theorem Tile.arriveAll_stores (t : Tile) (ms : List Msg) :
    (ms.foldl Tile.arrive t).z = t.z ∧ (ms.foldl Tile.arrive t).h = t.h ∧ (ms.foldl Tile.arrive t).saved = t.saved := by
  induction ms generalizing t with
  | nil => exact ⟨rfl, rfl, rfl⟩
  | cons m ms ih =>
    obtain ⟨h1, h2, h3⟩ := ih (t.arrive m)
    obtain ⟨g1, g2, g3⟩ := t.arrive_stores m
    exact ⟨h1.trans g1, h2.trans g2, h3.trans g3⟩

theorem State.saveNode_canonical {s : State} (h : s.Canonical) (r : Nat) : (s.saveNode r).Canonical := by
  refine s.modTile_canonical h r fun t ht => ?_
  refine ⟨ht.1, fun e he => ?_⟩
  rcases List.mem_cons.1 he with rfl | he
  · exact (s.tile_canonical h r).1
  · exact ht.2 e (List.mem_filter.1 he).1

theorem State.restoreNode_canonical {s : State} (h : s.Canonical) (r : Nat) {n : SavedNode} (hn : n.z.wf = true ∧ n.h.wf = true) :
    (s.restoreNode r n).Canonical := by
  refine State.modTile_canonical (s := { s with mem := _ }) ?_ r fun t ht => ⟨hn, ?_⟩
  · exact s.mem_canonical h (Mem.wf_fillFrom _ _ _ (Mem.wf_fillFrom _ _ _ (Mem.wf_fillFrom _ _ _ (Mem.wf_clear _ _ _ h.1))))
  · intro e he
    have := (Tile.arriveAll_stores { t with s := t.s.restore n.s, c := t.c.restore n.c, m := t.m.restore n.m } n.msgs).2.2
    exact ht.2 e (this ▸ he)

end Sys2Proof.Machine
end

