-- ==== Sys2Proof/Laws/Events.lean ====
section
/-! SUPPORT. What an event does when its condition holds and when it does not, and what a home does with a message. -/

namespace Sys2Proof.Machine

/-- An event whose condition holds has its effect. -/
theorem event_eq {s t : State} {g : Bool} {f : State → State} (h : g = true) (e : f s = t) : event s g f = .next t := by
  simp [event, h, e]

/-- An event whose condition does not hold changes nothing (log 2). -/
theorem event_stutters {s : State} {g : Bool} {f : State → State} (h : g = false) : event s g f = .next s := by
  simp [event, h]

/-- An event answers a next state, whatever its condition is. -/
theorem event_answers (s : State) (g : Bool) (f : State → State) : ∃ t, event s g f = .next t := by
  cases g <;> exact ⟨_, rfl⟩

/-- A message for bytes behind a port that fails completes as poisoned data (R442). -/
theorem serve_down {r n : Nat} {a : ReqKind → Bool} {f : State → Req → State} {s : State} {q : Req}
    (hq : (s.tile r).mayTake n = some (.builtin q)) (ha : a q.kind = true) (hk : q.kind ≠ .barr)
    (hb : s.bankHeld q.key = false) (hr : s.resolved q = true) (hp : s.portFails r q.key = true) :
    serve r n a f s = .next ((s.takeMsg r n q.src).failAtPort r q) := by
  have hk' : (q.kind != ReqKind.barr) = true := by simpa using hk
  simp only [serve, hq]
  refine event_eq (by simp [ha, hb]) ?_
  simp only [hr, Bool.not_true, Bool.false_eq_true, if_false, hk', hp, Bool.and_self, if_true]

/-- A message for bytes that can be reached is performed (R282). -/
theorem serve_up {r n : Nat} {a : ReqKind → Bool} {f : State → Req → State} {s : State} {q : Req}
    (hq : (s.tile r).mayTake n = some (.builtin q)) (ha : a q.kind = true)
    (hb : s.bankHeld q.key = false) (hr : s.resolved q = true) (hp : s.portFails r q.key = false) :
    serve r n a f s = .next (f (s.takeMsg r n q.src) q) := by
  simp only [serve, hq]
  refine event_eq (by simp [ha, hb]) ?_
  simp only [hr, Bool.not_true, hp, Bool.and_false, Bool.false_eq_true, if_false]

/-- A read through a window whose handle's current backing has changed on its way is answered with that, and reads nothing (R261). -/
theorem serve_again {r n : Nat} {a : ReqKind → Bool} {f : State → Req → State} {s : State} {q : Req}
    (hq : (s.tile r).mayTake n = some (.builtin q)) (ha : a q.kind = true)
    (hb : s.bankHeld q.key = false) (hr : s.resolved q = false) :
    serve r n a f s = .next ((s.takeMsg r n q.src).respond q { q.resp with again := true }) := by
  simp only [serve, hq]
  refine event_eq (by simp [ha, hb]) ?_
  simp only [hr, Bool.not_false, if_true]

end Sys2Proof.Machine
end

