-- ==== Sys2Proof/Laws/PerInstr.lean ====
section
/-! SUPPORT. What is true of every instruction as syntax, made instruction by instruction. -/

namespace Sys2Proof.Laws

/-- A field widened to its place in the operand fields and narrowed again is the field. -/
theorem narrow {n m : Nat} (x : BitVec n) (h : n ≤ m) : (x.setWidth m).setWidth n = x := by
  rw [BitVec.setWidth_setWidth_of_le x h, BitVec.setWidth_eq]

/-- An instruction that the encodings admit has a place in the opcode map and operand fields, and the
decoder builds the instruction from them (R34, R50, R53). An event has no words. -/
def Encoding.Statement (i : Instr) : Prop :=
  i.wf = true → ∃ k o, i.enc = some (k, o) ∧ Instr.build k o = some i.canon

theorem Encoding.mov (d : GReg) (x : GReg) : Encoding.Statement (.mov d x) := fun _ => ⟨_, _, rfl, rfl⟩
theorem Encoding.not (d : GReg) (x : GReg) : Encoding.Statement (.not d x) := fun _ => ⟨_, _, rfl, rfl⟩
theorem Encoding.neg (d : GReg) (x : GReg) : Encoding.Statement (.neg d x) := fun _ => ⟨_, _, rfl, rfl⟩
theorem Encoding.abs (d : GReg) (x : GReg) : Encoding.Statement (.abs d x) := fun _ => ⟨_, _, rfl, rfl⟩
theorem Encoding.clz (d : GReg) (x : GReg) : Encoding.Statement (.clz d x) := fun _ => ⟨_, _, rfl, rfl⟩
theorem Encoding.ctz (d : GReg) (x : GReg) : Encoding.Statement (.ctz d x) := fun _ => ⟨_, _, rfl, rfl⟩
theorem Encoding.popc (d : GReg) (x : GReg) : Encoding.Statement (.popc d x) := fun _ => ⟨_, _, rfl, rfl⟩
theorem Encoding.brev (d : GReg) (x : GReg) : Encoding.Statement (.brev d x) := fun _ => ⟨_, _, rfl, rfl⟩
theorem Encoding.sexb (d : GReg) (x : GReg) : Encoding.Statement (.sexb d x) := fun _ => ⟨_, _, rfl, rfl⟩
theorem Encoding.sexh (d : GReg) (x : GReg) : Encoding.Statement (.sexh d x) := fun _ => ⟨_, _, rfl, rfl⟩
theorem Encoding.zexb (d : GReg) (x : GReg) : Encoding.Statement (.zexb d x) := fun _ => ⟨_, _, rfl, rfl⟩
theorem Encoding.zexh (d : GReg) (x : GReg) : Encoding.Statement (.zexh d x) := fun _ => ⟨_, _, rfl, rfl⟩
theorem Encoding.glo (d : GReg) (x : AReg) : Encoding.Statement (.glo d x) :=
  fun _ => ⟨_, _, rfl, Eq.trans (b := some (.glo d ((x.setWidth 6).setWidth 3))) rfl (by rw [narrow x (by decide)]; rfl)⟩
theorem Encoding.ghi (d : GReg) (x : AReg) : Encoding.Statement (.ghi d x) :=
  fun _ => ⟨_, _, rfl, Eq.trans (b := some (.ghi d ((x.setWidth 6).setWidth 3))) rfl (by rw [narrow x (by decide)]; rfl)⟩
theorem Encoding.alo (d : AReg) (x : GReg) : Encoding.Statement (.alo d x) :=
  fun _ => ⟨_, _, rfl, Eq.trans (b := some (.alo ((d.setWidth 6).setWidth 3) x)) rfl (by rw [narrow d (by decide)]; rfl)⟩
theorem Encoding.ahi (d : AReg) (x : GReg) : Encoding.Statement (.ahi d x) :=
  fun _ => ⟨_, _, rfl, Eq.trans (b := some (.ahi ((d.setWidth 6).setWidth 3) x)) rfl (by rw [narrow d (by decide)]; rfl)⟩
theorem Encoding.add (d : GReg) (x : GReg) (y : GReg) : Encoding.Statement (.add d x y) := fun _ => ⟨_, _, rfl, rfl⟩
theorem Encoding.sub (d : GReg) (x : GReg) (y : GReg) : Encoding.Statement (.sub d x y) := fun _ => ⟨_, _, rfl, rfl⟩
theorem Encoding.and (d : GReg) (x : GReg) (y : GReg) : Encoding.Statement (.and d x y) := fun _ => ⟨_, _, rfl, rfl⟩
theorem Encoding.or (d : GReg) (x : GReg) (y : GReg) : Encoding.Statement (.or d x y) := fun _ => ⟨_, _, rfl, rfl⟩
theorem Encoding.xor (d : GReg) (x : GReg) (y : GReg) : Encoding.Statement (.xor d x y) := fun _ => ⟨_, _, rfl, rfl⟩
theorem Encoding.sll (d : GReg) (x : GReg) (y : GReg) : Encoding.Statement (.sll d x y) := fun _ => ⟨_, _, rfl, rfl⟩
theorem Encoding.srl (d : GReg) (x : GReg) (y : GReg) : Encoding.Statement (.srl d x y) := fun _ => ⟨_, _, rfl, rfl⟩
theorem Encoding.sra (d : GReg) (x : GReg) (y : GReg) : Encoding.Statement (.sra d x y) := fun _ => ⟨_, _, rfl, rfl⟩
theorem Encoding.mul (d : GReg) (x : GReg) (y : GReg) : Encoding.Statement (.mul d x y) := fun _ => ⟨_, _, rfl, rfl⟩
theorem Encoding.mulh (d : GReg) (x : GReg) (y : GReg) : Encoding.Statement (.mulh d x y) := fun _ => ⟨_, _, rfl, rfl⟩
theorem Encoding.mulhu (d : GReg) (x : GReg) (y : GReg) : Encoding.Statement (.mulhu d x y) := fun _ => ⟨_, _, rfl, rfl⟩
theorem Encoding.ror (d : GReg) (x : GReg) (y : GReg) : Encoding.Statement (.ror d x y) := fun _ => ⟨_, _, rfl, rfl⟩
theorem Encoding.div (d : GReg) (x : GReg) (y : GReg) : Encoding.Statement (.div d x y) := fun _ => ⟨_, _, rfl, rfl⟩
theorem Encoding.divu (d : GReg) (x : GReg) (y : GReg) : Encoding.Statement (.divu d x y) := fun _ => ⟨_, _, rfl, rfl⟩
theorem Encoding.rem (d : GReg) (x : GReg) (y : GReg) : Encoding.Statement (.rem d x y) := fun _ => ⟨_, _, rfl, rfl⟩
theorem Encoding.remu (d : GReg) (x : GReg) (y : GReg) : Encoding.Statement (.remu d x y) := fun _ => ⟨_, _, rfl, rfl⟩
theorem Encoding.slt (d : GReg) (x : GReg) (y : GReg) : Encoding.Statement (.slt d x y) := fun _ => ⟨_, _, rfl, rfl⟩
theorem Encoding.sltu (d : GReg) (x : GReg) (y : GReg) : Encoding.Statement (.sltu d x y) := fun _ => ⟨_, _, rfl, rfl⟩
theorem Encoding.seq (d : GReg) (x : GReg) (y : GReg) : Encoding.Statement (.seq d x y) := fun _ => ⟨_, _, rfl, rfl⟩
theorem Encoding.sne (d : GReg) (x : GReg) (y : GReg) : Encoding.Statement (.sne d x y) := fun _ => ⟨_, _, rfl, rfl⟩
theorem Encoding.min (d : GReg) (x : GReg) (y : GReg) : Encoding.Statement (.min d x y) := fun _ => ⟨_, _, rfl, rfl⟩
theorem Encoding.max (d : GReg) (x : GReg) (y : GReg) : Encoding.Statement (.max d x y) := fun _ => ⟨_, _, rfl, rfl⟩
theorem Encoding.minu (d : GReg) (x : GReg) (y : GReg) : Encoding.Statement (.minu d x y) := fun _ => ⟨_, _, rfl, rfl⟩
theorem Encoding.maxu (d : GReg) (x : GReg) (y : GReg) : Encoding.Statement (.maxu d x y) := fun _ => ⟨_, _, rfl, rfl⟩
theorem Encoding.addi (d : GReg) (imm : BitVec 64) : Encoding.Statement (.addi d imm) := fun _ => ⟨_, _, rfl, rfl⟩
theorem Encoding.li (d : GReg) (imm : BitVec 64) : Encoding.Statement (.li d imm) := fun _ => ⟨_, _, rfl, rfl⟩
theorem Encoding.andi (d : GReg) (imm : BitVec 64) : Encoding.Statement (.andi d imm) := fun _ => ⟨_, _, rfl, rfl⟩
theorem Encoding.ori (d : GReg) (imm : BitVec 64) : Encoding.Statement (.ori d imm) := fun _ => ⟨_, _, rfl, rfl⟩
theorem Encoding.xori (d : GReg) (imm : BitVec 64) : Encoding.Statement (.xori d imm) := fun _ => ⟨_, _, rfl, rfl⟩
theorem Encoding.slli (d : GReg) (amount : BitVec 5) : Encoding.Statement (.slli d amount) :=
  fun _ => ⟨_, _, rfl, Eq.trans (b := some (.slli d ((amount.setWidth 64).setWidth 5))) rfl (by rw [narrow amount (by decide)]; rfl)⟩
theorem Encoding.srli (d : GReg) (amount : BitVec 5) : Encoding.Statement (.srli d amount) :=
  fun _ => ⟨_, _, rfl, Eq.trans (b := some (.srli d ((amount.setWidth 64).setWidth 5))) rfl (by rw [narrow amount (by decide)]; rfl)⟩
theorem Encoding.srai (d : GReg) (amount : BitVec 5) : Encoding.Statement (.srai d amount) :=
  fun _ => ⟨_, _, rfl, Eq.trans (b := some (.srai d ((amount.setWidth 64).setWidth 5))) rfl (by rw [narrow amount (by decide)]; rfl)⟩
theorem Encoding.rori (d : GReg) (amount : BitVec 5) : Encoding.Statement (.rori d amount) :=
  fun _ => ⟨_, _, rfl, Eq.trans (b := some (.rori d ((amount.setWidth 64).setWidth 5))) rfl (by rw [narrow amount (by decide)]; rfl)⟩
theorem Encoding.beqz (x : GReg) (imm : BitVec 64) : Encoding.Statement (.beqz x imm) := fun _ => ⟨_, _, rfl, rfl⟩
theorem Encoding.bnez (x : GReg) (imm : BitVec 64) : Encoding.Statement (.bnez x imm) := fun _ => ⟨_, _, rfl, rfl⟩
theorem Encoding.bltz (x : GReg) (imm : BitVec 64) : Encoding.Statement (.bltz x imm) := fun _ => ⟨_, _, rfl, rfl⟩
theorem Encoding.bgez (x : GReg) (imm : BitVec 64) : Encoding.Statement (.bgez x imm) := fun _ => ⟨_, _, rfl, rfl⟩
theorem Encoding.bgtz (x : GReg) (imm : BitVec 64) : Encoding.Statement (.bgtz x imm) := fun _ => ⟨_, _, rfl, rfl⟩
theorem Encoding.blez (x : GReg) (imm : BitVec 64) : Encoding.Statement (.blez x imm) := fun _ => ⟨_, _, rfl, rfl⟩
theorem Encoding.beq (x : GReg) (y : GReg) (imm : BitVec 64) : Encoding.Statement (.beq x y imm) := fun _ => ⟨_, _, rfl, rfl⟩
theorem Encoding.bne (x : GReg) (y : GReg) (imm : BitVec 64) : Encoding.Statement (.bne x y imm) := fun _ => ⟨_, _, rfl, rfl⟩
theorem Encoding.blt (x : GReg) (y : GReg) (imm : BitVec 64) : Encoding.Statement (.blt x y imm) := fun _ => ⟨_, _, rfl, rfl⟩
theorem Encoding.bge (x : GReg) (y : GReg) (imm : BitVec 64) : Encoding.Statement (.bge x y imm) := fun _ => ⟨_, _, rfl, rfl⟩
theorem Encoding.bltu (x : GReg) (y : GReg) (imm : BitVec 64) : Encoding.Statement (.bltu x y imm) := fun _ => ⟨_, _, rfl, rfl⟩
theorem Encoding.bgeu (x : GReg) (y : GReg) (imm : BitVec 64) : Encoding.Statement (.bgeu x y imm) := fun _ => ⟨_, _, rfl, rfl⟩
theorem Encoding.j (imm : BitVec 64) : Encoding.Statement (.j imm) := fun _ => ⟨_, _, rfl, rfl⟩
theorem Encoding.jal (imm : BitVec 64) : Encoding.Statement (.jal imm) := fun _ => ⟨_, _, rfl, rfl⟩
theorem Encoding.jr (x : GReg) : Encoding.Statement (.jr x) := fun _ => ⟨_, _, rfl, rfl⟩
theorem Encoding.jalr (d : GReg) (x : GReg) : Encoding.Statement (.jalr d x) := fun _ => ⟨_, _, rfl, rfl⟩
theorem Encoding.ret : Encoding.Statement (.ret) := fun _ => ⟨_, _, rfl, rfl⟩
theorem Encoding.hend : Encoding.Statement (.hend) := fun _ => ⟨_, _, rfl, rfl⟩
theorem Encoding.halt : Encoding.Statement (.halt) := fun _ => ⟨_, _, rfl, rfl⟩
theorem Encoding.nop : Encoding.Statement (.nop) := fun _ => ⟨_, _, rfl, rfl⟩
theorem Encoding.brk : Encoding.Statement (.brk) := fun _ => ⟨_, _, rfl, rfl⟩
theorem Encoding.loop (d : GReg) (len : BitVec 8) : Encoding.Statement (.loop d len) :=
  fun _ => ⟨_, _, rfl, Eq.trans (b := some (.loop d ((len.setWidth 64).setWidth 8))) rfl (by rw [narrow len (by decide)]; rfl)⟩
theorem Encoding.ldb (d : GReg) (x : AReg) (imm : BitVec 64) : Encoding.Statement (.ldb d x imm) :=
  fun _ => ⟨_, _, rfl, Eq.trans (b := some (.ldb d ((x.setWidth 6).setWidth 3) imm)) rfl (by rw [narrow x (by decide)]; rfl)⟩
theorem Encoding.ldbu (d : GReg) (x : AReg) (imm : BitVec 64) : Encoding.Statement (.ldbu d x imm) :=
  fun _ => ⟨_, _, rfl, Eq.trans (b := some (.ldbu d ((x.setWidth 6).setWidth 3) imm)) rfl (by rw [narrow x (by decide)]; rfl)⟩
theorem Encoding.ldh (d : GReg) (x : AReg) (imm : BitVec 64) : Encoding.Statement (.ldh d x imm) :=
  fun _ => ⟨_, _, rfl, Eq.trans (b := some (.ldh d ((x.setWidth 6).setWidth 3) imm)) rfl (by rw [narrow x (by decide)]; rfl)⟩
theorem Encoding.ldhu (d : GReg) (x : AReg) (imm : BitVec 64) : Encoding.Statement (.ldhu d x imm) :=
  fun _ => ⟨_, _, rfl, Eq.trans (b := some (.ldhu d ((x.setWidth 6).setWidth 3) imm)) rfl (by rw [narrow x (by decide)]; rfl)⟩
theorem Encoding.ldw (d : GReg) (x : AReg) (imm : BitVec 64) : Encoding.Statement (.ldw d x imm) :=
  fun _ => ⟨_, _, rfl, Eq.trans (b := some (.ldw d ((x.setWidth 6).setWidth 3) imm)) rfl (by rw [narrow x (by decide)]; rfl)⟩
theorem Encoding.lda (d : AReg) (x : AReg) (imm : BitVec 64) : Encoding.Statement (.lda d x imm) :=
  fun _ => ⟨_, _, rfl, Eq.trans (b := some (.lda ((d.setWidth 6).setWidth 3) ((x.setWidth 6).setWidth 3) imm)) rfl (by rw [narrow d (by decide), narrow x (by decide)]; rfl)⟩
theorem Encoding.stb (d : GReg) (x : AReg) (imm : BitVec 64) : Encoding.Statement (.stb d x imm) :=
  fun _ => ⟨_, _, rfl, Eq.trans (b := some (.stb d ((x.setWidth 6).setWidth 3) imm)) rfl (by rw [narrow x (by decide)]; rfl)⟩
theorem Encoding.sth (d : GReg) (x : AReg) (imm : BitVec 64) : Encoding.Statement (.sth d x imm) :=
  fun _ => ⟨_, _, rfl, Eq.trans (b := some (.sth d ((x.setWidth 6).setWidth 3) imm)) rfl (by rw [narrow x (by decide)]; rfl)⟩
theorem Encoding.stw (d : GReg) (x : AReg) (imm : BitVec 64) : Encoding.Statement (.stw d x imm) :=
  fun _ => ⟨_, _, rfl, Eq.trans (b := some (.stw d ((x.setWidth 6).setWidth 3) imm)) rfl (by rw [narrow x (by decide)]; rfl)⟩
theorem Encoding.sta (d : AReg) (x : AReg) (imm : BitVec 64) : Encoding.Statement (.sta d x imm) :=
  fun _ => ⟨_, _, rfl, Eq.trans (b := some (.sta ((d.setWidth 6).setWidth 3) ((x.setWidth 6).setWidth 3) imm)) rfl (by rw [narrow d (by decide), narrow x (by decide)]; rfl)⟩
theorem Encoding.aadd (d : AReg) (x : AReg) (y : GReg) : Encoding.Statement (.aadd d x y) :=
  fun _ => ⟨_, _, rfl, Eq.trans (b := some (.aadd ((d.setWidth 6).setWidth 3) ((x.setWidth 6).setWidth 3) y)) rfl (by rw [narrow d (by decide), narrow x (by decide)]; rfl)⟩
theorem Encoding.aadds (d : AReg) (x : AReg) (y : GReg) : Encoding.Statement (.aadds d x y) :=
  fun _ => ⟨_, _, rfl, Eq.trans (b := some (.aadds ((d.setWidth 6).setWidth 3) ((x.setWidth 6).setWidth 3) y)) rfl (by rw [narrow d (by decide), narrow x (by decide)]; rfl)⟩
theorem Encoding.asub (d : GReg) (x : AReg) (y : AReg) : Encoding.Statement (.asub d x y) :=
  fun _ => ⟨_, _, rfl, Eq.trans (b := some (.asub d ((x.setWidth 6).setWidth 3) ((y.setWidth 6).setWidth 3))) rfl (by rw [narrow x (by decide), narrow y (by decide)]; rfl)⟩
theorem Encoding.aeq (d : GReg) (x : AReg) (y : AReg) : Encoding.Statement (.aeq d x y) :=
  fun _ => ⟨_, _, rfl, Eq.trans (b := some (.aeq d ((x.setWidth 6).setWidth 3) ((y.setWidth 6).setWidth 3))) rfl (by rw [narrow x (by decide), narrow y (by decide)]; rfl)⟩
theorem Encoding.aaddi (d : AReg) (imm : BitVec 64) : Encoding.Statement (.aaddi d imm) :=
  fun _ => ⟨_, _, rfl, Eq.trans (b := some (.aaddi ((d.setWidth 6).setWidth 3) imm)) rfl (by rw [narrow d (by decide)]; rfl)⟩
theorem Encoding.spt (d : GReg) (x : AReg) : Encoding.Statement (.spt d x) :=
  fun _ => ⟨_, _, rfl, Eq.trans (b := some (.spt d ((x.setWidth 6).setWidth 3))) rfl (by rw [narrow x (by decide)]; rfl)⟩
theorem Encoding.spcg (d : AReg) (x : AReg) : Encoding.Statement (.spcg d x) :=
  fun _ => ⟨_, _, rfl, Eq.trans (b := some (.spcg ((d.setWidth 6).setWidth 3) ((x.setWidth 6).setWidth 3))) rfl (by rw [narrow d (by decide), narrow x (by decide)]; rfl)⟩
theorem Encoding.spcb (d : AReg) (x : AReg) : Encoding.Statement (.spcb d x) :=
  fun _ => ⟨_, _, rfl, Eq.trans (b := some (.spcb ((d.setWidth 6).setWidth 3) ((x.setWidth 6).setWidth 3))) rfl (by rw [narrow d (by decide), narrow x (by decide)]; rfl)⟩
theorem Encoding.spcc (d : AReg) (x : AReg) : Encoding.Statement (.spcc d x) :=
  fun _ => ⟨_, _, rfl, Eq.trans (b := some (.spcc ((d.setWidth 6).setWidth 3) ((x.setWidth 6).setWidth 3))) rfl (by rw [narrow d (by decide), narrow x (by decide)]; rfl)⟩
theorem Encoding.spcs (d : AReg) (x : AReg) : Encoding.Statement (.spcs d x) :=
  fun _ => ⟨_, _, rfl, Eq.trans (b := some (.spcs ((d.setWidth 6).setWidth 3) ((x.setWidth 6).setWidth 3))) rfl (by rw [narrow d (by decide), narrow x (by decide)]; rfl)⟩
theorem Encoding.spcl (d : AReg) (x : AReg) : Encoding.Statement (.spcl d x) :=
  fun _ => ⟨_, _, rfl, Eq.trans (b := some (.spcl ((d.setWidth 6).setWidth 3) ((x.setWidth 6).setWidth 3))) rfl (by rw [narrow d (by decide), narrow x (by decide)]; rfl)⟩
theorem Encoding.mks (d : AReg) (x : GReg) : Encoding.Statement (.mks d x) :=
  fun _ => ⟨_, _, rfl, Eq.trans (b := some (.mks ((d.setWidth 6).setWidth 3) x)) rfl (by rw [narrow d (by decide)]; rfl)⟩
theorem Encoding.mkc (d : AReg) (x : GReg) : Encoding.Statement (.mkc d x) :=
  fun _ => ⟨_, _, rfl, Eq.trans (b := some (.mkc ((d.setWidth 6).setWidth 3) x)) rfl (by rw [narrow d (by decide)]; rfl)⟩
theorem Encoding.mkl (d : AReg) (x : GReg) : Encoding.Statement (.mkl d x) :=
  fun _ => ⟨_, _, rfl, Eq.trans (b := some (.mkl ((d.setWidth 6).setWidth 3) x)) rfl (by rw [narrow d (by decide)]; rfl)⟩
theorem Encoding.amov (d : AReg) (x : AReg) : Encoding.Statement (.amov d x) :=
  fun _ => ⟨_, _, rfl, Eq.trans (b := some (.amov ((d.setWidth 6).setWidth 3) ((x.setWidth 6).setWidth 3))) rfl (by rw [narrow d (by decide), narrow x (by decide)]; rfl)⟩
theorem Encoding.azero (d : AReg) : Encoding.Statement (.azero d) :=
  fun _ => ⟨_, _, rfl, Eq.trans (b := some (.azero ((d.setWidth 6).setWidth 3))) rfl (by rw [narrow d (by decide)]; rfl)⟩
theorem Encoding.fadd (d : GReg) (x : GReg) (y : GReg) : Encoding.Statement (.fadd d x y) := fun _ => ⟨_, _, rfl, rfl⟩
theorem Encoding.fsub (d : GReg) (x : GReg) (y : GReg) : Encoding.Statement (.fsub d x y) := fun _ => ⟨_, _, rfl, rfl⟩
theorem Encoding.fmul (d : GReg) (x : GReg) (y : GReg) : Encoding.Statement (.fmul d x y) := fun _ => ⟨_, _, rfl, rfl⟩
theorem Encoding.ffma (d : GReg) (x : GReg) (y : GReg) : Encoding.Statement (.ffma d x y) := fun _ => ⟨_, _, rfl, rfl⟩
theorem Encoding.fmin (d : GReg) (x : GReg) (y : GReg) : Encoding.Statement (.fmin d x y) := fun _ => ⟨_, _, rfl, rfl⟩
theorem Encoding.fmax (d : GReg) (x : GReg) (y : GReg) : Encoding.Statement (.fmax d x y) := fun _ => ⟨_, _, rfl, rfl⟩
theorem Encoding.fdiv (d : GReg) (x : GReg) (y : GReg) : Encoding.Statement (.fdiv d x y) := fun _ => ⟨_, _, rfl, rfl⟩
theorem Encoding.feq (d : GReg) (x : GReg) (y : GReg) : Encoding.Statement (.feq d x y) := fun _ => ⟨_, _, rfl, rfl⟩
theorem Encoding.flt (d : GReg) (x : GReg) (y : GReg) : Encoding.Statement (.flt d x y) := fun _ => ⟨_, _, rfl, rfl⟩
theorem Encoding.fle (d : GReg) (x : GReg) (y : GReg) : Encoding.Statement (.fle d x y) := fun _ => ⟨_, _, rfl, rfl⟩
theorem Encoding.fun (d : GReg) (x : GReg) (y : GReg) : Encoding.Statement (.fun d x y) := fun _ => ⟨_, _, rfl, rfl⟩
theorem Encoding.fsgn (d : GReg) (x : GReg) (y : GReg) : Encoding.Statement (.fsgn d x y) := fun _ => ⟨_, _, rfl, rfl⟩
theorem Encoding.fsqrt (d : GReg) (x : GReg) : Encoding.Statement (.fsqrt d x) := fun _ => ⟨_, _, rfl, rfl⟩
theorem Encoding.fabs (d : GReg) (x : GReg) : Encoding.Statement (.fabs d x) := fun _ => ⟨_, _, rfl, rfl⟩
theorem Encoding.fneg (d : GReg) (x : GReg) : Encoding.Statement (.fneg d x) := fun _ => ⟨_, _, rfl, rfl⟩
theorem Encoding.fclass (d : GReg) (x : GReg) : Encoding.Statement (.fclass d x) := fun _ => ⟨_, _, rfl, rfl⟩
theorem Encoding.fcvtws (d : GReg) (x : GReg) : Encoding.Statement (.fcvtws d x) := fun _ => ⟨_, _, rfl, rfl⟩
theorem Encoding.fcvtus (d : GReg) (x : GReg) : Encoding.Statement (.fcvtus d x) := fun _ => ⟨_, _, rfl, rfl⟩
theorem Encoding.fcvtsw (d : GReg) (x : GReg) : Encoding.Statement (.fcvtsw d x) := fun _ => ⟨_, _, rfl, rfl⟩
theorem Encoding.fcvtsu (d : GReg) (x : GReg) : Encoding.Statement (.fcvtsu d x) := fun _ => ⟨_, _, rfl, rfl⟩
theorem Encoding.fcvtbs (d : GReg) (x : GReg) : Encoding.Statement (.fcvtbs d x) := fun _ => ⟨_, _, rfl, rfl⟩
theorem Encoding.fcvtsb (d : GReg) (x : GReg) : Encoding.Statement (.fcvtsb d x) := fun _ => ⟨_, _, rfl, rfl⟩
theorem Encoding.fexp2 (d : GReg) (x : GReg) : Encoding.Statement (.fexp2 d x) := fun _ => ⟨_, _, rfl, rfl⟩
theorem Encoding.flog2 (d : GReg) (x : GReg) : Encoding.Statement (.flog2 d x) := fun _ => ⟨_, _, rfl, rfl⟩
theorem Encoding.frcp (d : GReg) (x : GReg) : Encoding.Statement (.frcp d x) := fun _ => ⟨_, _, rfl, rfl⟩
theorem Encoding.frsq (d : GReg) (x : GReg) : Encoding.Statement (.frsq d x) := fun _ => ⟨_, _, rfl, rfl⟩
theorem Encoding.vadd (t : EType) (p : PReg) (d : VReg) (x : VReg) (y : VReg) : Encoding.Statement (.vadd t p d x y) :=
  fun _ => ⟨_, _, rfl, Eq.trans (b := some (.vadd t p ((d.setWidth 6).setWidth 5) ((x.setWidth 6).setWidth 5) ((y.setWidth 6).setWidth 5))) rfl (by rw [narrow d (by decide), narrow x (by decide), narrow y (by decide)]; rfl)⟩
theorem Encoding.vsub (t : EType) (p : PReg) (d : VReg) (x : VReg) (y : VReg) : Encoding.Statement (.vsub t p d x y) :=
  fun _ => ⟨_, _, rfl, Eq.trans (b := some (.vsub t p ((d.setWidth 6).setWidth 5) ((x.setWidth 6).setWidth 5) ((y.setWidth 6).setWidth 5))) rfl (by rw [narrow d (by decide), narrow x (by decide), narrow y (by decide)]; rfl)⟩
theorem Encoding.vmul (t : EType) (p : PReg) (d : VReg) (x : VReg) (y : VReg) : Encoding.Statement (.vmul t p d x y) :=
  fun _ => ⟨_, _, rfl, Eq.trans (b := some (.vmul t p ((d.setWidth 6).setWidth 5) ((x.setWidth 6).setWidth 5) ((y.setWidth 6).setWidth 5))) rfl (by rw [narrow d (by decide), narrow x (by decide), narrow y (by decide)]; rfl)⟩
theorem Encoding.vfma (t : EType) (p : PReg) (d : VReg) (x : VReg) (y : VReg) : Encoding.Statement (.vfma t p d x y) :=
  fun _ => ⟨_, _, rfl, Eq.trans (b := some (.vfma t p ((d.setWidth 6).setWidth 5) ((x.setWidth 6).setWidth 5) ((y.setWidth 6).setWidth 5))) rfl (by rw [narrow d (by decide), narrow x (by decide), narrow y (by decide)]; rfl)⟩
theorem Encoding.vmin (t : EType) (p : PReg) (d : VReg) (x : VReg) (y : VReg) : Encoding.Statement (.vmin t p d x y) :=
  fun _ => ⟨_, _, rfl, Eq.trans (b := some (.vmin t p ((d.setWidth 6).setWidth 5) ((x.setWidth 6).setWidth 5) ((y.setWidth 6).setWidth 5))) rfl (by rw [narrow d (by decide), narrow x (by decide), narrow y (by decide)]; rfl)⟩
theorem Encoding.vmax (t : EType) (p : PReg) (d : VReg) (x : VReg) (y : VReg) : Encoding.Statement (.vmax t p d x y) :=
  fun _ => ⟨_, _, rfl, Eq.trans (b := some (.vmax t p ((d.setWidth 6).setWidth 5) ((x.setWidth 6).setWidth 5) ((y.setWidth 6).setWidth 5))) rfl (by rw [narrow d (by decide), narrow x (by decide), narrow y (by decide)]; rfl)⟩
theorem Encoding.vdiv (t : EType) (p : PReg) (d : VReg) (x : VReg) (y : VReg) : Encoding.Statement (.vdiv t p d x y) :=
  fun _ => ⟨_, _, rfl, Eq.trans (b := some (.vdiv t p ((d.setWidth 6).setWidth 5) ((x.setWidth 6).setWidth 5) ((y.setWidth 6).setWidth 5))) rfl (by rw [narrow d (by decide), narrow x (by decide), narrow y (by decide)]; rfl)⟩
theorem Encoding.vabd (t : EType) (p : PReg) (d : VReg) (x : VReg) (y : VReg) : Encoding.Statement (.vabd t p d x y) :=
  fun _ => ⟨_, _, rfl, Eq.trans (b := some (.vabd t p ((d.setWidth 6).setWidth 5) ((x.setWidth 6).setWidth 5) ((y.setWidth 6).setWidth 5))) rfl (by rw [narrow d (by decide), narrow x (by decide), narrow y (by decide)]; rfl)⟩
theorem Encoding.vand (p : PReg) (d : VReg) (x : VReg) (y : VReg) : Encoding.Statement (.vand p d x y) :=
  fun _ => ⟨_, _, rfl, Eq.trans (b := some (.vand p ((d.setWidth 6).setWidth 5) ((x.setWidth 6).setWidth 5) ((y.setWidth 6).setWidth 5))) rfl (by rw [narrow d (by decide), narrow x (by decide), narrow y (by decide)]; rfl)⟩
theorem Encoding.vor (p : PReg) (d : VReg) (x : VReg) (y : VReg) : Encoding.Statement (.vor p d x y) :=
  fun _ => ⟨_, _, rfl, Eq.trans (b := some (.vor p ((d.setWidth 6).setWidth 5) ((x.setWidth 6).setWidth 5) ((y.setWidth 6).setWidth 5))) rfl (by rw [narrow d (by decide), narrow x (by decide), narrow y (by decide)]; rfl)⟩
theorem Encoding.vxor (p : PReg) (d : VReg) (x : VReg) (y : VReg) : Encoding.Statement (.vxor p d x y) :=
  fun _ => ⟨_, _, rfl, Eq.trans (b := some (.vxor p ((d.setWidth 6).setWidth 5) ((x.setWidth 6).setWidth 5) ((y.setWidth 6).setWidth 5))) rfl (by rw [narrow d (by decide), narrow x (by decide), narrow y (by decide)]; rfl)⟩
theorem Encoding.vandn (p : PReg) (d : VReg) (x : VReg) (y : VReg) : Encoding.Statement (.vandn p d x y) :=
  fun _ => ⟨_, _, rfl, Eq.trans (b := some (.vandn p ((d.setWidth 6).setWidth 5) ((x.setWidth 6).setWidth 5) ((y.setWidth 6).setWidth 5))) rfl (by rw [narrow d (by decide), narrow x (by decide), narrow y (by decide)]; rfl)⟩
theorem Encoding.vshl (t : EType) (p : PReg) (d : VReg) (x : VReg) (y : VReg) : Encoding.Statement (.vshl t p d x y) :=
  fun _ => ⟨_, _, rfl, Eq.trans (b := some (.vshl t p ((d.setWidth 6).setWidth 5) ((x.setWidth 6).setWidth 5) ((y.setWidth 6).setWidth 5))) rfl (by rw [narrow d (by decide), narrow x (by decide), narrow y (by decide)]; rfl)⟩
theorem Encoding.vshr (t : EType) (p : PReg) (d : VReg) (x : VReg) (y : VReg) : Encoding.Statement (.vshr t p d x y) :=
  fun _ => ⟨_, _, rfl, Eq.trans (b := some (.vshr t p ((d.setWidth 6).setWidth 5) ((x.setWidth 6).setWidth 5) ((y.setWidth 6).setWidth 5))) rfl (by rw [narrow d (by decide), narrow x (by decide), narrow y (by decide)]; rfl)⟩
theorem Encoding.vsra (t : EType) (p : PReg) (d : VReg) (x : VReg) (y : VReg) : Encoding.Statement (.vsra t p d x y) :=
  fun _ => ⟨_, _, rfl, Eq.trans (b := some (.vsra t p ((d.setWidth 6).setWidth 5) ((x.setWidth 6).setWidth 5) ((y.setWidth 6).setWidth 5))) rfl (by rw [narrow d (by decide), narrow x (by decide), narrow y (by decide)]; rfl)⟩
theorem Encoding.vmulh (t : EType) (p : PReg) (d : VReg) (x : VReg) (y : VReg) : Encoding.Statement (.vmulh t p d x y) :=
  fun _ => ⟨_, _, rfl, Eq.trans (b := some (.vmulh t p ((d.setWidth 6).setWidth 5) ((x.setWidth 6).setWidth 5) ((y.setWidth 6).setWidth 5))) rfl (by rw [narrow d (by decide), narrow x (by decide), narrow y (by decide)]; rfl)⟩
theorem Encoding.vceq (t : EType) (p : PReg) (d : PReg) (x : VReg) (y : VReg) : Encoding.Statement (.vceq t p d x y) :=
  fun _ => ⟨_, _, rfl, Eq.trans (b := some (.vceq t p ((d.setWidth 6).setWidth 3) ((x.setWidth 6).setWidth 5) ((y.setWidth 6).setWidth 5))) rfl (by rw [narrow d (by decide), narrow x (by decide), narrow y (by decide)]; rfl)⟩
theorem Encoding.vclt (t : EType) (p : PReg) (d : PReg) (x : VReg) (y : VReg) : Encoding.Statement (.vclt t p d x y) :=
  fun _ => ⟨_, _, rfl, Eq.trans (b := some (.vclt t p ((d.setWidth 6).setWidth 3) ((x.setWidth 6).setWidth 5) ((y.setWidth 6).setWidth 5))) rfl (by rw [narrow d (by decide), narrow x (by decide), narrow y (by decide)]; rfl)⟩
theorem Encoding.vcle (t : EType) (p : PReg) (d : PReg) (x : VReg) (y : VReg) : Encoding.Statement (.vcle t p d x y) :=
  fun _ => ⟨_, _, rfl, Eq.trans (b := some (.vcle t p ((d.setWidth 6).setWidth 3) ((x.setWidth 6).setWidth 5) ((y.setWidth 6).setWidth 5))) rfl (by rw [narrow d (by decide), narrow x (by decide), narrow y (by decide)]; rfl)⟩
theorem Encoding.vcne (t : EType) (p : PReg) (d : PReg) (x : VReg) (y : VReg) : Encoding.Statement (.vcne t p d x y) :=
  fun _ => ⟨_, _, rfl, Eq.trans (b := some (.vcne t p ((d.setWidth 6).setWidth 3) ((x.setWidth 6).setWidth 5) ((y.setWidth 6).setWidth 5))) rfl (by rw [narrow d (by decide), narrow x (by decide), narrow y (by decide)]; rfl)⟩
theorem Encoding.vsel (p : PReg) (d : VReg) (x : VReg) (y : VReg) : Encoding.Statement (.vsel p d x y) :=
  fun _ => ⟨_, _, rfl, Eq.trans (b := some (.vsel p ((d.setWidth 6).setWidth 5) ((x.setWidth 6).setWidth 5) ((y.setWidth 6).setWidth 5))) rfl (by rw [narrow d (by decide), narrow x (by decide), narrow y (by decide)]; rfl)⟩
theorem Encoding.vperm (p : PReg) (d : VReg) (x : VReg) (y : VReg) : Encoding.Statement (.vperm p d x y) :=
  fun _ => ⟨_, _, rfl, Eq.trans (b := some (.vperm p ((d.setWidth 6).setWidth 5) ((x.setWidth 6).setWidth 5) ((y.setWidth 6).setWidth 5))) rfl (by rw [narrow d (by decide), narrow x (by decide), narrow y (by decide)]; rfl)⟩
theorem Encoding.vseg (t : EType) (p : PReg) (d : VReg) (x : VReg) (n : BitVec 3) : Encoding.Statement (.vseg t p d x n) :=
  fun _ => ⟨_, _, rfl, Eq.trans (b := some (.vseg t p ((d.setWidth 6).setWidth 5) ((x.setWidth 6).setWidth 5) ((n.setWidth 6).setWidth 3))) rfl (by rw [narrow d (by decide), narrow x (by decide), narrow n (by decide)]; rfl)⟩
theorem Encoding.vrot (p : PReg) (d : VReg) (x : VReg) (y : GReg) : Encoding.Statement (.vrot p d x y) :=
  fun _ => ⟨_, _, rfl, Eq.trans (b := some (.vrot p ((d.setWidth 6).setWidth 5) ((x.setWidth 6).setWidth 5) y)) rfl (by rw [narrow d (by decide), narrow x (by decide)]; rfl)⟩
theorem Encoding.vmov (p : PReg) (d : VReg) (x : VReg) : Encoding.Statement (.vmov p d x) :=
  fun _ => ⟨_, _, rfl, Eq.trans (b := some (.vmov p ((d.setWidth 6).setWidth 5) ((x.setWidth 6).setWidth 5))) rfl (by rw [narrow d (by decide), narrow x (by decide)]; rfl)⟩
theorem Encoding.vneg (t : EType) (p : PReg) (d : VReg) (x : VReg) : Encoding.Statement (.vneg t p d x) :=
  fun _ => ⟨_, _, rfl, Eq.trans (b := some (.vneg t p ((d.setWidth 6).setWidth 5) ((x.setWidth 6).setWidth 5))) rfl (by rw [narrow d (by decide), narrow x (by decide)]; rfl)⟩
theorem Encoding.vabs (t : EType) (p : PReg) (d : VReg) (x : VReg) : Encoding.Statement (.vabs t p d x) :=
  fun _ => ⟨_, _, rfl, Eq.trans (b := some (.vabs t p ((d.setWidth 6).setWidth 5) ((x.setWidth 6).setWidth 5))) rfl (by rw [narrow d (by decide), narrow x (by decide)]; rfl)⟩
theorem Encoding.vrcp (t : EType) (p : PReg) (d : VReg) (x : VReg) : Encoding.Statement (.vrcp t p d x) :=
  fun _ => ⟨_, _, rfl, Eq.trans (b := some (.vrcp t p ((d.setWidth 6).setWidth 5) ((x.setWidth 6).setWidth 5))) rfl (by rw [narrow d (by decide), narrow x (by decide)]; rfl)⟩
theorem Encoding.vrsq (t : EType) (p : PReg) (d : VReg) (x : VReg) : Encoding.Statement (.vrsq t p d x) :=
  fun _ => ⟨_, _, rfl, Eq.trans (b := some (.vrsq t p ((d.setWidth 6).setWidth 5) ((x.setWidth 6).setWidth 5))) rfl (by rw [narrow d (by decide), narrow x (by decide)]; rfl)⟩
theorem Encoding.vsqrt (t : EType) (p : PReg) (d : VReg) (x : VReg) : Encoding.Statement (.vsqrt t p d x) :=
  fun _ => ⟨_, _, rfl, Eq.trans (b := some (.vsqrt t p ((d.setWidth 6).setWidth 5) ((x.setWidth 6).setWidth 5))) rfl (by rw [narrow d (by decide), narrow x (by decide)]; rfl)⟩
theorem Encoding.vexp2 (t : EType) (p : PReg) (d : VReg) (x : VReg) : Encoding.Statement (.vexp2 t p d x) :=
  fun _ => ⟨_, _, rfl, Eq.trans (b := some (.vexp2 t p ((d.setWidth 6).setWidth 5) ((x.setWidth 6).setWidth 5))) rfl (by rw [narrow d (by decide), narrow x (by decide)]; rfl)⟩
theorem Encoding.vlog2 (t : EType) (p : PReg) (d : VReg) (x : VReg) : Encoding.Statement (.vlog2 t p d x) :=
  fun _ => ⟨_, _, rfl, Eq.trans (b := some (.vlog2 t p ((d.setWidth 6).setWidth 5) ((x.setWidth 6).setWidth 5))) rfl (by rw [narrow d (by decide), narrow x (by decide)]; rfl)⟩
theorem Encoding.vexp (t : EType) (p : PReg) (d : VReg) (x : VReg) : Encoding.Statement (.vexp t p d x) :=
  fun _ => ⟨_, _, rfl, Eq.trans (b := some (.vexp t p ((d.setWidth 6).setWidth 5) ((x.setWidth 6).setWidth 5))) rfl (by rw [narrow d (by decide), narrow x (by decide)]; rfl)⟩
theorem Encoding.vlog (t : EType) (p : PReg) (d : VReg) (x : VReg) : Encoding.Statement (.vlog t p d x) :=
  fun _ => ⟨_, _, rfl, Eq.trans (b := some (.vlog t p ((d.setWidth 6).setWidth 5) ((x.setWidth 6).setWidth 5))) rfl (by rw [narrow d (by decide), narrow x (by decide)]; rfl)⟩
theorem Encoding.vtanh (t : EType) (p : PReg) (d : VReg) (x : VReg) : Encoding.Statement (.vtanh t p d x) :=
  fun _ => ⟨_, _, rfl, Eq.trans (b := some (.vtanh t p ((d.setWidth 6).setWidth 5) ((x.setWidth 6).setWidth 5))) rfl (by rw [narrow d (by decide), narrow x (by decide)]; rfl)⟩
theorem Encoding.vsig (t : EType) (p : PReg) (d : VReg) (x : VReg) : Encoding.Statement (.vsig t p d x) :=
  fun _ => ⟨_, _, rfl, Eq.trans (b := some (.vsig t p ((d.setWidth 6).setWidth 5) ((x.setWidth 6).setWidth 5))) rfl (by rw [narrow d (by decide), narrow x (by decide)]; rfl)⟩
theorem Encoding.vsin (t : EType) (p : PReg) (d : VReg) (x : VReg) : Encoding.Statement (.vsin t p d x) :=
  fun _ => ⟨_, _, rfl, Eq.trans (b := some (.vsin t p ((d.setWidth 6).setWidth 5) ((x.setWidth 6).setWidth 5))) rfl (by rw [narrow d (by decide), narrow x (by decide)]; rfl)⟩
theorem Encoding.vcos (t : EType) (p : PReg) (d : VReg) (x : VReg) : Encoding.Statement (.vcos t p d x) :=
  fun _ => ⟨_, _, rfl, Eq.trans (b := some (.vcos t p ((d.setWidth 6).setWidth 5) ((x.setWidth 6).setWidth 5))) rfl (by rw [narrow d (by decide), narrow x (by decide)]; rfl)⟩
theorem Encoding.vflr (t : EType) (p : PReg) (d : VReg) (x : VReg) : Encoding.Statement (.vflr t p d x) :=
  fun _ => ⟨_, _, rfl, Eq.trans (b := some (.vflr t p ((d.setWidth 6).setWidth 5) ((x.setWidth 6).setWidth 5))) rfl (by rw [narrow d (by decide), narrow x (by decide)]; rfl)⟩
theorem Encoding.vrnd (t : EType) (p : PReg) (d : VReg) (x : VReg) : Encoding.Statement (.vrnd t p d x) :=
  fun _ => ⟨_, _, rfl, Eq.trans (b := some (.vrnd t p ((d.setWidth 6).setWidth 5) ((x.setWidth 6).setWidth 5))) rfl (by rw [narrow d (by decide), narrow x (by decide)]; rfl)⟩
theorem Encoding.vcvt (s : EType) (t : EType) (p : PReg) (d : VReg) (x : VReg) : Encoding.Statement (.vcvt s t p d x) := by
  intro h
  cases t <;> first
    | exact (Bool.false_ne_true h).elim
    | exact ⟨_, _, rfl, Eq.trans (b := some (.vcvt s _ p ((d.setWidth 6).setWidth 5) ((x.setWidth 6).setWidth 5))) rfl (by rw [narrow d (by decide), narrow x (by decide)]; rfl)⟩
    | exact ⟨_, _, rfl, Eq.trans (b := some (.vcvt s _ p ((d.setWidth 6).setWidth 5) ((x.setWidth 6).setWidth 5))) rfl (by rw [narrow d (by decide), narrow x (by decide)])⟩
theorem Encoding.vpk4 (t : EType) (d : VReg) (x : VReg) : Encoding.Statement (.vpk4 t d x) :=
  fun _ => ⟨_, _, rfl, Eq.trans (b := some (.vpk4 t ((d.setWidth 6).setWidth 5) ((x.setWidth 6).setWidth 5))) rfl (by rw [narrow d (by decide), narrow x (by decide)]; rfl)⟩
theorem Encoding.vup4 (t : EType) (d : VReg) (x : VReg) : Encoding.Statement (.vup4 t d x) :=
  fun _ => ⟨_, _, rfl, Eq.trans (b := some (.vup4 t ((d.setWidth 6).setWidth 5) ((x.setWidth 6).setWidth 5))) rfl (by rw [narrow d (by decide), narrow x (by decide)]; rfl)⟩
theorem Encoding.vpkm (t : EType) (d : VReg) (x : VReg) : Encoding.Statement (.vpkm t d x) :=
  fun _ => ⟨_, _, rfl, Eq.trans (b := some (.vpkm t ((d.setWidth 6).setWidth 5) ((x.setWidth 6).setWidth 5))) rfl (by rw [narrow d (by decide), narrow x (by decide)]; rfl)⟩
theorem Encoding.vupm (t : EType) (d : VReg) (x : VReg) : Encoding.Statement (.vupm t d x) :=
  fun _ => ⟨_, _, rfl, Eq.trans (b := some (.vupm t ((d.setWidth 6).setWidth 5) ((x.setWidth 6).setWidth 5))) rfl (by rw [narrow d (by decide), narrow x (by decide)]; rfl)⟩
theorem Encoding.vsrb (p : PReg) (d : VReg) (x : VReg) : Encoding.Statement (.vsrb p d x) :=
  fun _ => ⟨_, _, rfl, Eq.trans (b := some (.vsrb p ((d.setWidth 6).setWidth 5) ((x.setWidth 6).setWidth 5))) rfl (by rw [narrow d (by decide), narrow x (by decide)]; rfl)⟩
theorem Encoding.vbc (t : EType) (p : PReg) (d : VReg) (x : GReg) : Encoding.Statement (.vbc t p d x) :=
  fun _ => ⟨_, _, rfl, Eq.trans (b := some (.vbc t p ((d.setWidth 6).setWidth 5) x)) rfl (by rw [narrow d (by decide)]; rfl)⟩
theorem Encoding.vins (p : PReg) (d : VReg) (x : GReg) (lane : BitVec 5) : Encoding.Statement (.vins p d x lane) :=
  fun _ => ⟨_, _, rfl, Eq.trans (b := some (.vins p ((d.setWidth 6).setWidth 5) x ((lane.setWidth 64).setWidth 5))) rfl (by rw [narrow d (by decide), narrow lane (by decide)]; rfl)⟩
theorem Encoding.vext (d : GReg) (x : VReg) (lane : BitVec 5) : Encoding.Statement (.vext d x lane) :=
  fun _ => ⟨_, _, rfl, Eq.trans (b := some (.vext d ((x.setWidth 6).setWidth 5) ((lane.setWidth 64).setWidth 5))) rfl (by rw [narrow x (by decide), narrow lane (by decide)]; rfl)⟩
theorem Encoding.viota (t : EType) (p : PReg) (d : VReg) : Encoding.Statement (.viota t p d) :=
  fun _ => ⟨_, _, rfl, Eq.trans (b := some (.viota t p ((d.setWidth 6).setWidth 5))) rfl (by rw [narrow d (by decide)]; rfl)⟩
theorem Encoding.vzip (t : EType) (p : PReg) (d : VReg) (x : VReg) : Encoding.Statement (.vzip t p d x) :=
  fun _ => ⟨_, _, rfl, Eq.trans (b := some (.vzip t p ((d.setWidth 6).setWidth 5) ((x.setWidth 6).setWidth 5))) rfl (by rw [narrow d (by decide), narrow x (by decide)]; rfl)⟩
theorem Encoding.vuzp (t : EType) (p : PReg) (d : VReg) (x : VReg) : Encoding.Statement (.vuzp t p d x) :=
  fun _ => ⟨_, _, rfl, Eq.trans (b := some (.vuzp t p ((d.setWidth 6).setWidth 5) ((x.setWidth 6).setWidth 5))) rfl (by rw [narrow d (by decide), narrow x (by decide)]; rfl)⟩
theorem Encoding.vld (p : PReg) (d : VReg) (x : AReg) (imm : BitVec 64) : Encoding.Statement (.vld p d x imm) :=
  fun _ => ⟨_, _, rfl, Eq.trans (b := some (.vld p ((d.setWidth 6).setWidth 5) ((x.setWidth 6).setWidth 3) imm)) rfl (by rw [narrow d (by decide), narrow x (by decide)]; rfl)⟩
theorem Encoding.vldh (p : PReg) (d : VReg) (x : AReg) (imm : BitVec 64) : Encoding.Statement (.vldh p d x imm) :=
  fun _ => ⟨_, _, rfl, Eq.trans (b := some (.vldh p ((d.setWidth 6).setWidth 5) ((x.setWidth 6).setWidth 3) imm)) rfl (by rw [narrow d (by decide), narrow x (by decide)]; rfl)⟩
theorem Encoding.vlds (t : EType) (p : PReg) (d : VReg) (x : AReg) (imm : BitVec 64) : Encoding.Statement (.vlds t p d x imm) :=
  fun _ => ⟨_, _, rfl, Eq.trans (b := some (.vlds t p ((d.setWidth 6).setWidth 5) ((x.setWidth 6).setWidth 3) imm)) rfl (by rw [narrow d (by decide), narrow x (by decide)]; rfl)⟩
theorem Encoding.vgat (t : EType) (p : PReg) (d : VReg) (x : AReg) (imm : BitVec 64) : Encoding.Statement (.vgat t p d x imm) :=
  fun _ => ⟨_, _, rfl, Eq.trans (b := some (.vgat t p ((d.setWidth 6).setWidth 5) ((x.setWidth 6).setWidth 3) imm)) rfl (by rw [narrow d (by decide), narrow x (by decide)]; rfl)⟩
theorem Encoding.vldl (t : EType) (p : PReg) (d : VReg) (x : AReg) (imm : BitVec 64) : Encoding.Statement (.vldl t p d x imm) :=
  fun _ => ⟨_, _, rfl, Eq.trans (b := some (.vldl t p ((d.setWidth 6).setWidth 5) ((x.setWidth 6).setWidth 3) imm)) rfl (by rw [narrow d (by decide), narrow x (by decide)]; rfl)⟩
theorem Encoding.vldb (t : EType) (p : PReg) (d : VReg) (x : AReg) (imm : BitVec 64) : Encoding.Statement (.vldb t p d x imm) :=
  fun _ => ⟨_, _, rfl, Eq.trans (b := some (.vldb t p ((d.setWidth 6).setWidth 5) ((x.setWidth 6).setWidth 3) imm)) rfl (by rw [narrow d (by decide), narrow x (by decide)]; rfl)⟩
theorem Encoding.vst (p : PReg) (d : VReg) (x : AReg) (imm : BitVec 64) : Encoding.Statement (.vst p d x imm) :=
  fun _ => ⟨_, _, rfl, Eq.trans (b := some (.vst p ((d.setWidth 6).setWidth 5) ((x.setWidth 6).setWidth 3) imm)) rfl (by rw [narrow d (by decide), narrow x (by decide)]; rfl)⟩
theorem Encoding.vsth (p : PReg) (d : VReg) (x : AReg) (imm : BitVec 64) : Encoding.Statement (.vsth p d x imm) :=
  fun _ => ⟨_, _, rfl, Eq.trans (b := some (.vsth p ((d.setWidth 6).setWidth 5) ((x.setWidth 6).setWidth 3) imm)) rfl (by rw [narrow d (by decide), narrow x (by decide)]; rfl)⟩
theorem Encoding.vsts (t : EType) (p : PReg) (d : VReg) (x : AReg) (imm : BitVec 64) : Encoding.Statement (.vsts t p d x imm) :=
  fun _ => ⟨_, _, rfl, Eq.trans (b := some (.vsts t p ((d.setWidth 6).setWidth 5) ((x.setWidth 6).setWidth 3) imm)) rfl (by rw [narrow d (by decide), narrow x (by decide)]; rfl)⟩
theorem Encoding.vsct (t : EType) (p : PReg) (d : VReg) (x : AReg) (imm : BitVec 64) : Encoding.Statement (.vsct t p d x imm) :=
  fun _ => ⟨_, _, rfl, Eq.trans (b := some (.vsct t p ((d.setWidth 6).setWidth 5) ((x.setWidth 6).setWidth 3) imm)) rfl (by rw [narrow d (by decide), narrow x (by decide)]; rfl)⟩
theorem Encoding.vstl (t : EType) (p : PReg) (d : VReg) (x : AReg) (imm : BitVec 64) : Encoding.Statement (.vstl t p d x imm) :=
  fun _ => ⟨_, _, rfl, Eq.trans (b := some (.vstl t p ((d.setWidth 6).setWidth 5) ((x.setWidth 6).setWidth 3) imm)) rfl (by rw [narrow d (by decide), narrow x (by decide)]; rfl)⟩
theorem Encoding.pand (d : PReg) (x : PReg) : Encoding.Statement (.pand d x) :=
  fun _ => ⟨_, _, rfl, Eq.trans (b := some (.pand ((d.setWidth 6).setWidth 3) ((x.setWidth 6).setWidth 3))) rfl (by rw [narrow d (by decide), narrow x (by decide)]; rfl)⟩
theorem Encoding.por (d : PReg) (x : PReg) : Encoding.Statement (.por d x) :=
  fun _ => ⟨_, _, rfl, Eq.trans (b := some (.por ((d.setWidth 6).setWidth 3) ((x.setWidth 6).setWidth 3))) rfl (by rw [narrow d (by decide), narrow x (by decide)]; rfl)⟩
theorem Encoding.pxor (d : PReg) (x : PReg) : Encoding.Statement (.pxor d x) :=
  fun _ => ⟨_, _, rfl, Eq.trans (b := some (.pxor ((d.setWidth 6).setWidth 3) ((x.setWidth 6).setWidth 3))) rfl (by rw [narrow d (by decide), narrow x (by decide)]; rfl)⟩
theorem Encoding.pnot (d : PReg) (x : PReg) : Encoding.Statement (.pnot d x) :=
  fun _ => ⟨_, _, rfl, Eq.trans (b := some (.pnot ((d.setWidth 6).setWidth 3) ((x.setWidth 6).setWidth 3))) rfl (by rw [narrow d (by decide), narrow x (by decide)]; rfl)⟩
theorem Encoding.pcnt (d : GReg) (x : PReg) : Encoding.Statement (.pcnt d x) :=
  fun _ => ⟨_, _, rfl, Eq.trans (b := some (.pcnt d ((x.setWidth 6).setWidth 3))) rfl (by rw [narrow x (by decide)]; rfl)⟩
theorem Encoding.pfst (d : GReg) (x : PReg) : Encoding.Statement (.pfst d x) :=
  fun _ => ⟨_, _, rfl, Eq.trans (b := some (.pfst d ((x.setWidth 6).setWidth 3))) rfl (by rw [narrow x (by decide)]; rfl)⟩
theorem Encoding.plt (d : PReg) (x : GReg) : Encoding.Statement (.plt d x) :=
  fun _ => ⟨_, _, rfl, Eq.trans (b := some (.plt ((d.setWidth 6).setWidth 3) x)) rfl (by rw [narrow d (by decide)]; rfl)⟩
theorem Encoding.pmov (d : PReg) (x : PReg) : Encoding.Statement (.pmov d x) :=
  fun _ => ⟨_, _, rfl, Eq.trans (b := some (.pmov ((d.setWidth 6).setWidth 3) ((x.setWidth 6).setWidth 3))) rfl (by rw [narrow d (by decide), narrow x (by decide)]; rfl)⟩
theorem Encoding.vli (t : EType) (p : PReg) (d : VReg) (imm : BitVec 64) : Encoding.Statement (.vli t p d imm) :=
  fun _ => ⟨_, _, rfl, Eq.trans (b := some (.vli t p ((d.setWidth 6).setWidth 5) imm)) rfl (by rw [narrow d (by decide)]; rfl)⟩
theorem Encoding.mma (z : ZReg) (x : AReg) (y : AReg) (acc : Bool) (bsrc : Bool) (chk : Bool) : Encoding.Statement (.mma z x y acc bsrc chk) :=
  fun _ => ⟨_, _, rfl, Eq.trans (b := some (.mma z ((x.setWidth 6).setWidth 3) ((y.setWidth 6).setWidth 3) acc bsrc chk)) rfl (by rw [narrow x (by decide), narrow y (by decide)]; rfl)⟩
theorem Encoding.mmag (z : ZReg) (x : AReg) (y : AReg) (acc : Bool) (bsrc : Bool) (chk : Bool) : Encoding.Statement (.mmag z x y acc bsrc chk) :=
  fun _ => ⟨_, _, rfl, Eq.trans (b := some (.mmag z ((x.setWidth 6).setWidth 3) ((y.setWidth 6).setWidth 3) acc bsrc chk)) rfl (by rw [narrow x (by decide), narrow y (by decide)]; rfl)⟩
theorem Encoding.msh (d : GReg) (x : GReg) : Encoding.Statement (.msh d x) := fun _ => ⟨_, _, rfl, rfl⟩
theorem Encoding.mfmt (d : GReg) (x : GReg) : Encoding.Statement (.mfmt d x) := fun _ => ⟨_, _, rfl, rfl⟩
theorem Encoding.mzero (x : GReg) : Encoding.Statement (.mzero x) := fun _ => ⟨_, _, rfl, rfl⟩
theorem Encoding.mwait (x : GReg) : Encoding.Statement (.mwait x) := fun _ => ⟨_, _, rfl, rfl⟩
theorem Encoding.mstat (d : GReg) : Encoding.Statement (.mstat d) := fun _ => ⟨_, _, rfl, rfl⟩
theorem Encoding.mtov (p : PReg) (d : VReg) (x : GReg) : Encoding.Statement (.mtov p d x) :=
  fun _ => ⟨_, _, rfl, Eq.trans (b := some (.mtov p ((d.setWidth 6).setWidth 5) x)) rfl (by rw [narrow d (by decide)]; rfl)⟩
theorem Encoding.vtom (p : PReg) (d : VReg) (x : GReg) : Encoding.Statement (.vtom p d x) :=
  fun _ => ⟨_, _, rfl, Eq.trans (b := some (.vtom p ((d.setWidth 6).setWidth 5) x)) rfl (by rw [narrow d (by decide)]; rfl)⟩
theorem Encoding.mst (k : MstKind) (d : GReg) (x : AReg) (imm : BitVec 64) : Encoding.Statement (.mst k d x imm) := by
  intro h
  cases k <;> first
    | exact (Bool.false_ne_true h).elim
    | exact ⟨_, _, rfl, Eq.trans (b := some (.mst _ d ((x.setWidth 6).setWidth 3) imm)) rfl (by rw [narrow x (by decide)]; rfl)⟩
    | exact ⟨_, _, rfl, Eq.trans (b := some (.mst _ d ((x.setWidth 6).setWidth 3) imm)) rfl (by rw [narrow x (by decide)])⟩
theorem Encoding.mld (k : MldKind) (d : GReg) (x : AReg) (imm : BitVec 64) : Encoding.Statement (.mld k d x imm) := by
  intro h
  cases k <;> first
    | exact (Bool.false_ne_true h).elim
    | exact ⟨_, _, rfl, Eq.trans (b := some (.mld _ d ((x.setWidth 6).setWidth 3) imm)) rfl (by rw [narrow x (by decide)]; rfl)⟩
    | exact ⟨_, _, rfl, Eq.trans (b := some (.mld _ d ((x.setWidth 6).setWidth 3) imm)) rfl (by rw [narrow x (by decide)])⟩
theorem Encoding.skinit (t : EType) (d : HReg) (x : GReg) : Encoding.Statement (.skinit t d x) :=
  fun _ => ⟨_, _, rfl, Eq.trans (b := some (.skinit t ((d.setWidth 6).setWidth 2) x)) rfl (by rw [narrow d (by decide)]; rfl)⟩
theorem Encoding.skseed (d : HReg) (x : AReg) : Encoding.Statement (.skseed d x) :=
  fun _ => ⟨_, _, rfl, Eq.trans (b := some (.skseed ((d.setWidth 6).setWidth 2) ((x.setWidth 6).setWidth 3))) rfl (by rw [narrow d (by decide), narrow x (by decide)]; rfl)⟩
theorem Encoding.skclr (d : HReg) : Encoding.Statement (.skclr d) :=
  fun _ => ⟨_, _, rfl, Eq.trans (b := some (.skclr ((d.setWidth 6).setWidth 2))) rfl (by rw [narrow d (by decide)]; rfl)⟩
theorem Encoding.skcpy (d : HReg) (x : HReg) : Encoding.Statement (.skcpy d x) :=
  fun _ => ⟨_, _, rfl, Eq.trans (b := some (.skcpy ((d.setWidth 6).setWidth 2) ((x.setWidth 6).setWidth 2))) rfl (by rw [narrow d (by decide), narrow x (by decide)]; rfl)⟩
theorem Encoding.skmrg (d : HReg) (x : HReg) : Encoding.Statement (.skmrg d x) :=
  fun _ => ⟨_, _, rfl, Eq.trans (b := some (.skmrg ((d.setWidth 6).setWidth 2) ((x.setWidth 6).setWidth 2))) rfl (by rw [narrow d (by decide), narrow x (by decide)]; rfl)⟩
theorem Encoding.skadd (t : EType) (p : PReg) (d : HReg) (x : VReg) : Encoding.Statement (.skadd t p d x) :=
  fun _ => ⟨_, _, rfl, Eq.trans (b := some (.skadd t p ((d.setWidth 6).setWidth 2) ((x.setWidth 6).setWidth 5))) rfl (by rw [narrow d (by decide), narrow x (by decide)]; rfl)⟩
theorem Encoding.skq (t : EType) (d : GReg) (x : HReg) (y : GReg) : Encoding.Statement (.skq t d x y) :=
  fun _ => ⟨_, _, rfl, Eq.trans (b := some (.skq t d ((x.setWidth 6).setWidth 2) y)) rfl (by rw [narrow x (by decide)]; rfl)⟩
theorem Encoding.skr (t : EType) (d : GReg) (x : HReg) (y : GReg) : Encoding.Statement (.skr t d x y) :=
  fun _ => ⟨_, _, rfl, Eq.trans (b := some (.skr t d ((x.setWidth 6).setWidth 2) y)) rfl (by rw [narrow x (by decide)]; rfl)⟩
theorem Encoding.skhh (t : EType) (d : GReg) (x : HReg) (y : GReg) : Encoding.Statement (.skhh t d x y) :=
  fun _ => ⟨_, _, rfl, Eq.trans (b := some (.skhh t d ((x.setWidth 6).setWidth 2) y)) rfl (by rw [narrow x (by decide)]; rfl)⟩
theorem Encoding.skhc (d : GReg) (x : HReg) (y : GReg) : Encoding.Statement (.skhc d x y) :=
  fun _ => ⟨_, _, rfl, Eq.trans (b := some (.skhc d ((x.setWidth 6).setWidth 2) y)) rfl (by rw [narrow x (by decide)]; rfl)⟩
theorem Encoding.skcnt (d : GReg) (x : HReg) : Encoding.Statement (.skcnt d x) :=
  fun _ => ⟨_, _, rfl, Eq.trans (b := some (.skcnt d ((x.setWidth 6).setWidth 2))) rfl (by rw [narrow x (by decide)]; rfl)⟩
theorem Encoding.skcnh (d : GReg) (x : HReg) : Encoding.Statement (.skcnh d x) :=
  fun _ => ⟨_, _, rfl, Eq.trans (b := some (.skcnh d ((x.setWidth 6).setWidth 2))) rfl (by rw [narrow x (by decide)]; rfl)⟩
theorem Encoding.skdc (t : EType) (d : GReg) (x : HReg) : Encoding.Statement (.skdc t d x) :=
  fun _ => ⟨_, _, rfl, Eq.trans (b := some (.skdc t d ((x.setWidth 6).setWidth 2))) rfl (by rw [narrow x (by decide)]; rfl)⟩
theorem Encoding.skmin (t : EType) (d : GReg) (x : HReg) : Encoding.Statement (.skmin t d x) :=
  fun _ => ⟨_, _, rfl, Eq.trans (b := some (.skmin t d ((x.setWidth 6).setWidth 2))) rfl (by rw [narrow x (by decide)]; rfl)⟩
theorem Encoding.skmax (t : EType) (d : GReg) (x : HReg) : Encoding.Statement (.skmax t d x) :=
  fun _ => ⟨_, _, rfl, Eq.trans (b := some (.skmax t d ((x.setWidth 6).setWidth 2))) rfl (by rw [narrow x (by decide)]; rfl)⟩
theorem Encoding.skmean (t : EType) (d : GReg) (x : HReg) : Encoding.Statement (.skmean t d x) :=
  fun _ => ⟨_, _, rfl, Eq.trans (b := some (.skmean t d ((x.setWidth 6).setWidth 2))) rfl (by rw [narrow x (by decide)]; rfl)⟩
theorem Encoding.skvar (t : EType) (d : GReg) (x : HReg) : Encoding.Statement (.skvar t d x) :=
  fun _ => ⟨_, _, rfl, Eq.trans (b := some (.skvar t d ((x.setWidth 6).setWidth 2))) rfl (by rw [narrow x (by decide)]; rfl)⟩
theorem Encoding.sksum (t : EType) (d : GReg) (x : HReg) : Encoding.Statement (.sksum t d x) :=
  fun _ => ⟨_, _, rfl, Eq.trans (b := some (.sksum t d ((x.setWidth 6).setWidth 2))) rfl (by rw [narrow x (by decide)]; rfl)⟩
theorem Encoding.sklse (t : EType) (d : GReg) (x : HReg) : Encoding.Statement (.sklse t d x) :=
  fun _ => ⟨_, _, rfl, Eq.trans (b := some (.sklse t d ((x.setWidth 6).setWidth 2))) rfl (by rw [narrow x (by decide)]; rfl)⟩
theorem Encoding.sknan (d : GReg) (x : HReg) : Encoding.Statement (.sknan d x) :=
  fun _ => ⟨_, _, rfl, Eq.trans (b := some (.sknan d ((x.setWidth 6).setWidth 2))) rfl (by rw [narrow x (by decide)]; rfl)⟩
theorem Encoding.skld (d : HReg) (x : AReg) (imm : BitVec 64) : Encoding.Statement (.skld d x imm) :=
  fun _ => ⟨_, _, rfl, Eq.trans (b := some (.skld ((d.setWidth 6).setWidth 2) ((x.setWidth 6).setWidth 3) imm)) rfl (by rw [narrow d (by decide), narrow x (by decide)]; rfl)⟩
theorem Encoding.skst (d : HReg) (x : AReg) (imm : BitVec 64) : Encoding.Statement (.skst d x imm) :=
  fun _ => ⟨_, _, rfl, Eq.trans (b := some (.skst ((d.setWidth 6).setWidth 2) ((x.setWidth 6).setWidth 3) imm)) rfl (by rw [narrow d (by decide), narrow x (by decide)]; rfl)⟩
theorem Encoding.skldh (d : HReg) (x : AReg) (imm : BitVec 64) : Encoding.Statement (.skldh d x imm) :=
  fun _ => ⟨_, _, rfl, Eq.trans (b := some (.skldh ((d.setWidth 6).setWidth 2) ((x.setWidth 6).setWidth 3) imm)) rfl (by rw [narrow d (by decide), narrow x (by decide)]; rfl)⟩
theorem Encoding.recv (d : GReg) (x : QReg) : Encoding.Statement (.recv d x) :=
  fun _ => ⟨_, _, rfl, Eq.trans (b := some (.recv d ((x.setWidth 6).setWidth 3))) rfl (by rw [narrow x (by decide)]; rfl)⟩
theorem Encoding.peek (d : GReg) (x : QReg) : Encoding.Statement (.peek d x) :=
  fun _ => ⟨_, _, rfl, Eq.trans (b := some (.peek d ((x.setWidth 6).setWidth 3))) rfl (by rw [narrow x (by decide)]; rfl)⟩
theorem Encoding.qcnt (d : GReg) (x : QReg) : Encoding.Statement (.qcnt d x) :=
  fun _ => ⟨_, _, rfl, Eq.trans (b := some (.qcnt d ((x.setWidth 6).setWidth 3))) rfl (by rw [narrow x (by decide)]; rfl)⟩
theorem Encoding.qfree (d : GReg) (x : OReg) : Encoding.Statement (.qfree d x) :=
  fun _ => ⟨_, _, rfl, Eq.trans (b := some (.qfree d ((x.setWidth 6).setWidth 3))) rfl (by rw [narrow x (by decide)]; rfl)⟩
theorem Encoding.qtag (d : GReg) (x : QReg) : Encoding.Statement (.qtag d x) :=
  fun _ => ⟨_, _, rfl, Eq.trans (b := some (.qtag d ((x.setWidth 6).setWidth 3))) rfl (by rw [narrow x (by decide)]; rfl)⟩
theorem Encoding.qmark (d : GReg) (x : QReg) : Encoding.Statement (.qmark d x) :=
  fun _ => ⟨_, _, rfl, Eq.trans (b := some (.qmark d ((x.setWidth 6).setWidth 3))) rfl (by rw [narrow x (by decide)]; rfl)⟩
theorem Encoding.drop (x : QReg) : Encoding.Statement (.drop x) :=
  fun _ => ⟨_, _, rfl, Eq.trans (b := some (.drop ((x.setWidth 6).setWidth 3))) rfl (by rw [narrow x (by decide)]; rfl)⟩
theorem Encoding.vrecv (d : VReg) (x : QReg) : Encoding.Statement (.vrecv d x) :=
  fun _ => ⟨_, _, rfl, Eq.trans (b := some (.vrecv ((d.setWidth 6).setWidth 5) ((x.setWidth 6).setWidth 3))) rfl (by rw [narrow d (by decide), narrow x (by decide)]; rfl)⟩
theorem Encoding.recva (d : AReg) (x : QReg) : Encoding.Statement (.recva d x) :=
  fun _ => ⟨_, _, rfl, Eq.trans (b := some (.recva ((d.setWidth 6).setWidth 3) ((x.setWidth 6).setWidth 3))) rfl (by rw [narrow d (by decide), narrow x (by decide)]; rfl)⟩
theorem Encoding.send (d : OReg) (x : GReg) (tag : BitVec 8) : Encoding.Statement (.send d x tag) :=
  fun _ => ⟨_, _, rfl, Eq.trans (b := some (.send ((d.setWidth 6).setWidth 3) x ((tag.setWidth 64).setWidth 8))) rfl (by rw [narrow d (by decide), narrow tag (by decide)]; rfl)⟩
theorem Encoding.senda (d : OReg) (x : AReg) : Encoding.Statement (.senda d x) :=
  fun _ => ⟨_, _, rfl, Eq.trans (b := some (.senda ((d.setWidth 6).setWidth 3) ((x.setWidth 6).setWidth 3))) rfl (by rw [narrow d (by decide), narrow x (by decide)]; rfl)⟩
theorem Encoding.vsend (d : OReg) (x : VReg) : Encoding.Statement (.vsend d x) :=
  fun _ => ⟨_, _, rfl, Eq.trans (b := some (.vsend ((d.setWidth 6).setWidth 3) ((x.setWidth 6).setWidth 5))) rfl (by rw [narrow d (by decide), narrow x (by decide)]; rfl)⟩
theorem Encoding.sendm (d : OReg) (x : GReg) : Encoding.Statement (.sendm d x) :=
  fun _ => ⟨_, _, rfl, Eq.trans (b := some (.sendm ((d.setWidth 6).setWidth 3) x)) rfl (by rw [narrow d (by decide)]; rfl)⟩
theorem Encoding.semw (n : BitVec 3) (sem : SemReg) : Encoding.Statement (.semw n sem) :=
  fun _ => ⟨_, _, rfl, Eq.trans (b := some (.semw ((n.setWidth 6).setWidth 3) ((sem.setWidth 64).setWidth 5))) rfl (by rw [narrow n (by decide), narrow sem (by decide)]; rfl)⟩
theorem Encoding.sems (n : BitVec 3) (sem : SemReg) : Encoding.Statement (.sems n sem) :=
  fun _ => ⟨_, _, rfl, Eq.trans (b := some (.sems ((n.setWidth 6).setWidth 3) ((sem.setWidth 64).setWidth 5))) rfl (by rw [narrow n (by decide), narrow sem (by decide)]; rfl)⟩
theorem Encoding.semt (d : GReg) (sem : SemReg) : Encoding.Statement (.semt d sem) :=
  fun _ => ⟨_, _, rfl, Eq.trans (b := some (.semt d ((sem.setWidth 64).setWidth 5))) rfl (by rw [narrow sem (by decide)]; rfl)⟩
theorem Encoding.bara (d : BReg) (x : GReg) : Encoding.Statement (.bara d x) :=
  fun _ => ⟨_, _, rfl, Eq.trans (b := some (.bara ((d.setWidth 6).setWidth 3) x)) rfl (by rw [narrow d (by decide)]; rfl)⟩
theorem Encoding.barw (d : GReg) (x : BReg) : Encoding.Statement (.barw d x) :=
  fun _ => ⟨_, _, rfl, Eq.trans (b := some (.barw d ((x.setWidth 6).setWidth 3))) rfl (by rw [narrow x (by decide)]; rfl)⟩
theorem Encoding.bars (s : Scope) (d : BReg) (x : GReg) : Encoding.Statement (.bars s d x) :=
  fun _ => ⟨_, _, rfl, Eq.trans (b := some (.bars s ((d.setWidth 6).setWidth 3) x)) rfl (by rw [narrow d (by decide)]; rfl)⟩
theorem Encoding.barq (d : GReg) (x : BReg) : Encoding.Statement (.barq d x) :=
  fun _ => ⟨_, _, rfl, Eq.trans (b := some (.barq d ((x.setWidth 6).setWidth 3))) rfl (by rw [narrow x (by decide)]; rfl)⟩
theorem Encoding.fence (s : Scope) : Encoding.Statement (.fence s) := fun _ => ⟨_, _, rfl, rfl⟩
theorem Encoding.pub (s : Scope) (d : GReg) (x : GReg) : Encoding.Statement (.pub s d x) := fun _ => ⟨_, _, rfl, rfl⟩
theorem Encoding.pubw (s : Scope) (d : GReg) (x : GReg) : Encoding.Statement (.pubw s d x) := fun _ => ⟨_, _, rfl, rfl⟩
theorem Encoding.trig (d : AReg) (x : GReg) : Encoding.Statement (.trig d x) :=
  fun _ => ⟨_, _, rfl, Eq.trans (b := some (.trig ((d.setWidth 6).setWidth 3) x)) rfl (by rw [narrow d (by decide)]; rfl)⟩
theorem Encoding.cinv (x : AReg) : Encoding.Statement (.cinv x) :=
  fun _ => ⟨_, _, rfl, Eq.trans (b := some (.cinv ((x.setWidth 6).setWidth 3))) rfl (by rw [narrow x (by decide)]; rfl)⟩
theorem Encoding.ccln (x : AReg) : Encoding.Statement (.ccln x) :=
  fun _ => ⟨_, _, rfl, Eq.trans (b := some (.ccln ((x.setWidth 6).setWidth 3))) rfl (by rw [narrow x (by decide)]; rfl)⟩
theorem Encoding.cfls : Encoding.Statement (.cfls) := fun _ => ⟨_, _, rfl, rfl⟩
theorem Encoding.tlbp (d : GReg) (x : AReg) : Encoding.Statement (.tlbp d x) :=
  fun _ => ⟨_, _, rfl, Eq.trans (b := some (.tlbp d ((x.setWidth 6).setWidth 3))) rfl (by rw [narrow x (by decide)]; rfl)⟩
theorem Encoding.amoadd (s : Scope) (d : GReg) (x : AReg) (y : GReg) : Encoding.Statement (.amoadd s d x y) :=
  fun _ => ⟨_, _, rfl, Eq.trans (b := some (.amoadd s d ((x.setWidth 6).setWidth 3) y)) rfl (by rw [narrow x (by decide)]; rfl)⟩
theorem Encoding.amoand (s : Scope) (d : GReg) (x : AReg) (y : GReg) : Encoding.Statement (.amoand s d x y) :=
  fun _ => ⟨_, _, rfl, Eq.trans (b := some (.amoand s d ((x.setWidth 6).setWidth 3) y)) rfl (by rw [narrow x (by decide)]; rfl)⟩
theorem Encoding.amoor (s : Scope) (d : GReg) (x : AReg) (y : GReg) : Encoding.Statement (.amoor s d x y) :=
  fun _ => ⟨_, _, rfl, Eq.trans (b := some (.amoor s d ((x.setWidth 6).setWidth 3) y)) rfl (by rw [narrow x (by decide)]; rfl)⟩
theorem Encoding.amoxor (s : Scope) (d : GReg) (x : AReg) (y : GReg) : Encoding.Statement (.amoxor s d x y) :=
  fun _ => ⟨_, _, rfl, Eq.trans (b := some (.amoxor s d ((x.setWidth 6).setWidth 3) y)) rfl (by rw [narrow x (by decide)]; rfl)⟩
theorem Encoding.amomin (s : Scope) (d : GReg) (x : AReg) (y : GReg) : Encoding.Statement (.amomin s d x y) :=
  fun _ => ⟨_, _, rfl, Eq.trans (b := some (.amomin s d ((x.setWidth 6).setWidth 3) y)) rfl (by rw [narrow x (by decide)]; rfl)⟩
theorem Encoding.amomax (s : Scope) (d : GReg) (x : AReg) (y : GReg) : Encoding.Statement (.amomax s d x y) :=
  fun _ => ⟨_, _, rfl, Eq.trans (b := some (.amomax s d ((x.setWidth 6).setWidth 3) y)) rfl (by rw [narrow x (by decide)]; rfl)⟩
theorem Encoding.amominu (s : Scope) (d : GReg) (x : AReg) (y : GReg) : Encoding.Statement (.amominu s d x y) :=
  fun _ => ⟨_, _, rfl, Eq.trans (b := some (.amominu s d ((x.setWidth 6).setWidth 3) y)) rfl (by rw [narrow x (by decide)]; rfl)⟩
theorem Encoding.amomaxu (s : Scope) (d : GReg) (x : AReg) (y : GReg) : Encoding.Statement (.amomaxu s d x y) :=
  fun _ => ⟨_, _, rfl, Eq.trans (b := some (.amomaxu s d ((x.setWidth 6).setWidth 3) y)) rfl (by rw [narrow x (by decide)]; rfl)⟩
theorem Encoding.amoswp (s : Scope) (d : GReg) (x : AReg) (y : GReg) : Encoding.Statement (.amoswp s d x y) :=
  fun _ => ⟨_, _, rfl, Eq.trans (b := some (.amoswp s d ((x.setWidth 6).setWidth 3) y)) rfl (by rw [narrow x (by decide)]; rfl)⟩
theorem Encoding.amocas (s : Scope) (d : GReg) (x : AReg) (y : GReg) : Encoding.Statement (.amocas s d x y) :=
  fun _ => ⟨_, _, rfl, Eq.trans (b := some (.amocas s d ((x.setWidth 6).setWidth 3) y)) rfl (by rw [narrow x (by decide)]; rfl)⟩
theorem Encoding.amofadd (s : Scope) (d : GReg) (x : AReg) (y : GReg) : Encoding.Statement (.amofadd s d x y) :=
  fun _ => ⟨_, _, rfl, Eq.trans (b := some (.amofadd s d ((x.setWidth 6).setWidth 3) y)) rfl (by rw [narrow x (by decide)]; rfl)⟩
theorem Encoding.amofmax (s : Scope) (d : GReg) (x : AReg) (y : GReg) : Encoding.Statement (.amofmax s d x y) :=
  fun _ => ⟨_, _, rfl, Eq.trans (b := some (.amofmax s d ((x.setWidth 6).setWidth 3) y)) rfl (by rw [narrow x (by decide)]; rfl)⟩
theorem Encoding.cpy (d : AReg) (x : AReg) (y : GReg) : Encoding.Statement (.cpy d x y) :=
  fun _ => ⟨_, _, rfl, Eq.trans (b := some (.cpy ((d.setWidth 6).setWidth 3) ((x.setWidth 6).setWidth 3) y)) rfl (by rw [narrow d (by decide), narrow x (by decide)]; rfl)⟩
theorem Encoding.cpyr (d : GReg) (x : AReg) (y : GReg) : Encoding.Statement (.cpyr d x y) :=
  fun _ => ⟨_, _, rfl, Eq.trans (b := some (.cpyr d ((x.setWidth 6).setWidth 3) y)) rfl (by rw [narrow x (by decide)]; rfl)⟩
theorem Encoding.cpyw (x : GReg) : Encoding.Statement (.cpyw x) := fun _ => ⟨_, _, rfl, rfl⟩
theorem Encoding.cpys (d : GReg) (x : GReg) : Encoding.Statement (.cpys d x) := fun _ => ⟨_, _, rfl, rfl⟩
theorem Encoding.cpyxResume (x : GReg) : Encoding.Statement (.cpyxResume x) := fun _ => ⟨_, _, rfl, rfl⟩
theorem Encoding.cpyxCancel (x : GReg) : Encoding.Statement (.cpyxCancel x) := fun _ => ⟨_, _, rfl, rfl⟩
theorem Encoding.cpyxFlush (x : GReg) : Encoding.Statement (.cpyxFlush x) := fun _ => ⟨_, _, rfl, rfl⟩
theorem Encoding.ringb (d : GReg) (x : GReg) : Encoding.Statement (.ringb d x) := fun _ => ⟨_, _, rfl, rfl⟩
theorem Encoding.ringq (d : GReg) (x : GReg) : Encoding.Statement (.ringq d x) := fun _ => ⟨_, _, rfl, rfl⟩
theorem Encoding.amsg (d : GReg) (x : AReg) (y : GReg) : Encoding.Statement (.amsg d x y) :=
  fun _ => ⟨_, _, rfl, Eq.trans (b := some (.amsg d ((x.setWidth 6).setWidth 3) y)) rfl (by rw [narrow x (by decide)]; rfl)⟩
theorem Encoding.mrpl (x : GReg) : Encoding.Statement (.mrpl x) := fun _ => ⟨_, _, rfl, rfl⟩
theorem Encoding.mhend (x : GReg) : Encoding.Statement (.mhend x) := fun _ => ⟨_, _, rfl, rfl⟩
theorem Encoding.colset (s : Scope) (d : GReg) (x : GReg) : Encoding.Statement (.colset s d x) := fun _ => ⟨_, _, rfl, rfl⟩
theorem Encoding.colfr (x : GReg) : Encoding.Statement (.colfr x) := fun _ => ⟨_, _, rfl, rfl⟩
theorem Encoding.colw (d : GReg) (x : GReg) : Encoding.Statement (.colw d x) := fun _ => ⟨_, _, rfl, rfl⟩
theorem Encoding.cols (d : GReg) (x : GReg) : Encoding.Statement (.cols d x) := fun _ => ⟨_, _, rfl, rfl⟩
theorem Encoding.tick (d : AReg) : Encoding.Statement (.tick d) :=
  fun _ => ⟨_, _, rfl, Eq.trans (b := some (.tick ((d.setWidth 6).setWidth 3))) rfl (by rw [narrow d (by decide)]; rfl)⟩
theorem Encoding.cyc (d : AReg) : Encoding.Statement (.cyc d) :=
  fun _ => ⟨_, _, rfl, Eq.trans (b := some (.cyc ((d.setWidth 6).setWidth 3))) rfl (by rw [narrow d (by decide)]; rfl)⟩
theorem Encoding.waitt (x : AReg) : Encoding.Statement (.waitt x) :=
  fun _ => ⟨_, _, rfl, Eq.trans (b := some (.waitt ((x.setWidth 6).setWidth 3))) rfl (by rw [narrow x (by decide)]; rfl)⟩
theorem Encoding.waitc (x : AReg) : Encoding.Statement (.waitc x) :=
  fun _ => ⟨_, _, rfl, Eq.trans (b := some (.waitc ((x.setWidth 6).setWidth 3))) rfl (by rw [narrow x (by decide)]; rfl)⟩
theorem Encoding.trap (d : GReg) (detail : BitVec 8) : Encoding.Statement (.trap d detail) :=
  fun _ => ⟨_, _, rfl, Eq.trans (b := some (.trap d ((detail.setWidth 64).setWidth 8))) rfl (by rw [narrow detail (by decide)]; rfl)⟩
theorem Encoding.mfk (d : GReg) (kreg : BitVec 10) : Encoding.Statement (.mfk d kreg) :=
  fun _ => ⟨_, _, rfl, Eq.trans (b := some (.mfk d ((kreg.setWidth 64).setWidth 10))) rfl (by rw [narrow kreg (by decide)]; rfl)⟩
theorem Encoding.mtk (d : GReg) (kreg : BitVec 10) : Encoding.Statement (.mtk d kreg) :=
  fun _ => ⟨_, _, rfl, Eq.trans (b := some (.mtk d ((kreg.setWidth 64).setWidth 10))) rfl (by rw [narrow kreg (by decide)]; rfl)⟩
theorem Encoding.eret : Encoding.Statement (.eret) := fun _ => ⟨_, _, rfl, rfl⟩
theorem Encoding.idle (d : GReg) : Encoding.Statement (.idle d) := fun _ => ⟨_, _, rfl, rfl⟩
theorem Encoding.tlbi (x : AReg) : Encoding.Statement (.tlbi x) :=
  fun _ => ⟨_, _, rfl, Eq.trans (b := some (.tlbi ((x.setWidth 6).setWidth 3))) rfl (by rw [narrow x (by decide)]; rfl)⟩
theorem Encoding.tlba : Encoding.Statement (.tlba) := fun _ => ⟨_, _, rfl, rfl⟩
theorem Encoding.ctxs : Encoding.Statement (.ctxs) := fun _ => ⟨_, _, rfl, rfl⟩
theorem Encoding.ctxl : Encoding.Statement (.ctxl) := fun _ => ⟨_, _, rfl, rfl⟩
theorem Encoding.tqp (x : GReg) : Encoding.Statement (.tqp x) := fun _ => ⟨_, _, rfl, rfl⟩
theorem Encoding.ltrcRead (d : GReg) (x : GReg) : Encoding.Statement (.ltrcRead d x) := fun _ => ⟨_, _, rfl, rfl⟩
theorem Encoding.ltrcClearWindow (d : GReg) (x : GReg) : Encoding.Statement (.ltrcClearWindow d x) := fun _ => ⟨_, _, rfl, rfl⟩
theorem Encoding.ltrcClearSuspect (d : GReg) (x : GReg) : Encoding.Statement (.ltrcClearSuspect d x) := fun _ => ⟨_, _, rfl, rfl⟩
theorem Encoding.strk (x : GReg) : Encoding.Statement (.strk x) := fun _ => ⟨_, _, rfl, rfl⟩
theorem Encoding.illegalInstruction (code : Byte) (detail : Byte) (value : DWord) (len : Nat) : Encoding.Statement (.illegalInstruction code detail value len) := fun h => (Bool.false_ne_true h).elim
theorem Encoding.waitAtKResume (r : Nat) (c : CtxId) : Encoding.Statement (.waitAtKResume r c) := fun h => (Bool.false_ne_true h).elim
theorem Encoding.amodeWrite (r : Nat) (c : CtxId) (w : Word) : Encoding.Statement (.amodeWrite r c w) := fun h => (Bool.false_ne_true h).elim
theorem Encoding.srseedWrite (r : Nat) (c : CtxId) (w : Word) : Encoding.Statement (.srseedWrite r c w) := fun h => (Bool.false_ne_true h).elim
theorem Encoding.counterClear (r : Nat) (n : KReg) (inc : Bool) (w : Word) : Encoding.Statement (.counterClear r n inc w) := fun h => (Bool.false_ne_true h).elim
theorem Encoding.ltrlimLtrwinWrite (r : Nat) (n : KReg) (w : Word) : Encoding.Statement (.ltrlimLtrwinWrite r n w) := fun h => (Bool.false_ne_true h).elim
theorem Encoding.marginWrite (r : Nat) (w : Word) : Encoding.Statement (.marginWrite r w) := fun h => (Bool.false_ne_true h).elim
theorem Encoding.logStatusRead (r : Nat) (c : CtxId) (n : KReg) (d : GReg) : Encoding.Statement (.logStatusRead r c n d) := fun h => (Bool.false_ne_true h).elim
theorem Encoding.registerWrite (r : Nat) (c : CtxId) (place : RegPlace) (w : DWord) : Encoding.Statement (.registerWrite r c place w) := fun h => (Bool.false_ne_true h).elim
theorem Encoding.lateTransition (r : Nat) (c : CtxId) (place : LatePlace) : Encoding.Statement (.lateTransition r c place) := fun h => (Bool.false_ne_true h).elim
theorem Encoding.escalationWindowEnd (r : Nat) : Encoding.Statement (.escalationWindowEnd r) := fun h => (Bool.false_ne_true h).elim
theorem Encoding.marginStepSettle (r : Nat) : Encoding.Statement (.marginStepSettle r) := fun h => (Bool.false_ne_true h).elim
theorem Encoding.handlerWatchdog (r : Nat) (c : CtxId) : Encoding.Statement (.handlerWatchdog r c) := fun h => (Bool.false_ne_true h).elim
theorem Encoding.handlerDispatch (r : Nat) (k : CoreId) : Encoding.Statement (.handlerDispatch r k) := fun h => (Bool.false_ne_true h).elim
theorem Encoding.channelWordTransfer (w : Staged) : Encoding.Statement (.channelWordTransfer w) := fun h => (Bool.false_ne_true h).elim
theorem Encoding.memoryResponse (r : Nat) (c : CtxId) (n : Nat) : Encoding.Statement (.memoryResponse r c n) := fun h => (Bool.false_ne_true h).elim
theorem Encoding.read (r : Nat) (n : Nat) : Encoding.Statement (.read r n) := fun h => (Bool.false_ne_true h).elim
theorem Encoding.write (r : Nat) (n : Nat) : Encoding.Statement (.write r n) := fun h => (Bool.false_ne_true h).elim
theorem Encoding.amo (r : Nat) (n : Nat) : Encoding.Statement (.amo r n) := fun h => (Bool.false_ne_true h).elim
theorem Encoding.amo8 (r : Nat) (n : Nat) : Encoding.Statement (.amo8 r n) := fun h => (Bool.false_ne_true h).elim
theorem Encoding.cas8 (r : Nat) (n : Nat) : Encoding.Statement (.cas8 r n) := fun h => (Bool.false_ne_true h).elim
theorem Encoding.line (r : Nat) (n : Nat) : Encoding.Statement (.line r n) := fun h => (Bool.false_ne_true h).elim
theorem Encoding.renew (r : Nat) (n : Nat) : Encoding.Statement (.renew r n) := fun h => (Bool.false_ne_true h).elim
theorem Encoding.cread (r : Nat) (n : Nat) : Encoding.Statement (.cread r n) := fun h => (Bool.false_ne_true h).elim
theorem Encoding.cwrite (r : Nat) (n : Nat) : Encoding.Statement (.cwrite r n) := fun h => (Bool.false_ne_true h).elim
theorem Encoding.camo (r : Nat) (n : Nat) : Encoding.Statement (.camo r n) := fun h => (Bool.false_ne_true h).elim
theorem Encoding.barr (r : Nat) (n : Nat) : Encoding.Statement (.barr r n) := fun h => (Bool.false_ne_true h).elim
theorem Encoding.comb (r : Nat) (k : Nat) (span : Nat) : Encoding.Statement (.comb r k span) := fun h => (Bool.false_ne_true h).elim
theorem Encoding.routerCombine (r : Nat) (k : Nat) (span : Nat) : Encoding.Statement (.routerCombine r k span) := fun h => (Bool.false_ne_true h).elim
theorem Encoding.cdone (r : Nat) (k : Nat) : Encoding.Statement (.cdone r k) := fun h => (Bool.false_ne_true h).elim
theorem Encoding.automaticPub (id : PitchId) (handle : Half) : Encoding.Statement (.automaticPub id handle) := fun h => (Bool.false_ne_true h).elim
theorem Encoding.colsetRequest (id : PitchId) : Encoding.Statement (.colsetRequest id) := fun h => (Bool.false_ne_true h).elim
theorem Encoding.planKillNotice (mod : Nat) (cfg : Nat) : Encoding.Statement (.planKillNotice mod cfg) := fun h => (Bool.false_ne_true h).elim
theorem Encoding.userMessageStart (r : Nat) (n : Nat) : Encoding.Statement (.userMessageStart r n) := fun h => (Bool.false_ne_true h).elim
theorem Encoding.messageReply (r : Nat) (c : CtxId) : Encoding.Statement (.messageReply r c) := fun h => (Bool.false_ne_true h).elim
theorem Encoding.messageNack (r : Nat) (n : Nat) : Encoding.Statement (.messageNack r n) := fun h => (Bool.false_ne_true h).elim
theorem Encoding.matrixCommandComplete (r : Nat) : Encoding.Statement (.matrixCommandComplete r) := fun h => (Bool.false_ne_true h).elim
theorem Encoding.copyElement (r : Nat) : Encoding.Statement (.copyElement r) := fun h => (Bool.false_ne_true h).elim
theorem Encoding.copyCommandComplete (r : Nat) : Encoding.Statement (.copyCommandComplete r) := fun h => (Bool.false_ne_true h).elim
theorem Encoding.cpyrSlotTake (r : Nat) : Encoding.Statement (.cpyrSlotTake r) := fun h => (Bool.false_ne_true h).elim
theorem Encoding.copyFaultTrap (r : Nat) : Encoding.Statement (.copyFaultTrap r) := fun h => (Bool.false_ne_true h).elim
theorem Encoding.lightsOutSweep (id : PitchId) : Encoding.Statement (.lightsOutSweep id) := fun h => (Bool.false_ne_true h).elim
theorem Encoding.launch (q : Nat) (record : BitVec 512) : Encoding.Statement (.launch q record) := fun h => (Bool.false_ne_true h).elim
theorem Encoding.join (q : Nat) (record : BitVec 512) : Encoding.Statement (.join q record) := fun h => (Bool.false_ne_true h).elim
theorem Encoding.spliceInherit (q : Nat) (record : BitVec 512) : Encoding.Statement (.spliceInherit q record) := fun h => (Bool.false_ne_true h).elim
theorem Encoding.spliceNoInherit (q : Nat) (record : BitVec 512) : Encoding.Statement (.spliceNoInherit q record) := fun h => (Bool.false_ne_true h).elim
theorem Encoding.ingressToken (q : Nat) (write : WindowWrite) : Encoding.Statement (.ingressToken q write) := fun h => (Bool.false_ne_true h).elim
theorem Encoding.ingressQueueErrClear (q : Nat) (w : Word) : Encoding.Statement (.ingressQueueErrClear q w) := fun h => (Bool.false_ne_true h).elim
theorem Encoding.placement : Encoding.Statement (.placement) := fun h => (Bool.false_ne_true h).elim
theorem Encoding.loadAcknowledge (id : PitchId) : Encoding.Statement (.loadAcknowledge id) := fun h => (Bool.false_ne_true h).elim
theorem Encoding.pitchStart (id : PitchId) : Encoding.Statement (.pitchStart id) := fun h => (Bool.false_ne_true h).elim
theorem Encoding.translationPreloadTimeout (id : PitchId) : Encoding.Statement (.translationPreloadTimeout id) := fun h => (Bool.false_ne_true h).elim
theorem Encoding.hostKillRequest (id : PitchId) : Encoding.Statement (.hostKillRequest id) := fun h => (Bool.false_ne_true h).elim
theorem Encoding.preemptDispatchStop (id : PitchId) : Encoding.Statement (.preemptDispatchStop id) := fun h => (Bool.false_ne_true h).elim
theorem Encoding.preemptFiringTimeout (r : Nat) (c : CtxId) : Encoding.Statement (.preemptFiringTimeout r c) := fun h => (Bool.false_ne_true h).elim
theorem Encoding.preemptResume (id : PitchId) : Encoding.Statement (.preemptResume id) := fun h => (Bool.false_ne_true h).elim
theorem Encoding.spliceSwitch (r : Nat) : Encoding.Statement (.spliceSwitch r) := fun h => (Bool.false_ne_true h).elim
theorem Encoding.spliceSuccessorStart (r : Nat) : Encoding.Statement (.spliceSuccessorStart r) := fun h => (Bool.false_ne_true h).elim
theorem Encoding.egressRingWrite (id : PitchId) (k : Nat) : Encoding.Statement (.egressRingWrite id k) := fun h => (Bool.false_ne_true h).elim
theorem Encoding.egressAtomicop (id : PitchId) (k : Nat) : Encoding.Statement (.egressAtomicop id k) := fun h => (Bool.false_ne_true h).elim
theorem Encoding.atomicopCompletion (id : PitchId) (k : Nat) (old : DWord) (error : Bool) : Encoding.Statement (.atomicopCompletion id k old error) := fun h => (Bool.false_ne_true h).elim
theorem Encoding.tsetWrite (w : DWord) : Encoding.Statement (.tsetWrite w) := fun h => (Bool.false_ne_true h).elim
theorem Encoding.topoWrite (w : DWord) : Encoding.Statement (.topoWrite w) := fun h => (Bool.false_ne_true h).elim
theorem Encoding.topologySwitch : Encoding.Statement (.topologySwitch) := fun h => (Bool.false_ne_true h).elim
theorem Encoding.staleCounterRead (access : BarAccess) : Encoding.Statement (.staleCounterRead access) := fun h => (Bool.false_ne_true h).elim
theorem Encoding.attestationRequest (nonce : BitVec 256) : Encoding.Statement (.attestationRequest nonce) := fun h => (Bool.false_ne_true h).elim
theorem Encoding.attestationReportReady : Encoding.Statement (.attestationReportReady) := fun h => (Bool.false_ne_true h).elim
theorem Encoding.speoshPacketReceive (port : Nat) (flit : Flit) : Encoding.Statement (.speoshPacketReceive port flit) := fun h => (Bool.false_ne_true h).elim
theorem Encoding.speoshBeacon (port : Nat) : Encoding.Statement (.speoshBeacon port) := fun h => (Bool.false_ne_true h).elim
theorem Encoding.lightDetected (port : Nat) : Encoding.Statement (.lightDetected port) := fun h => (Bool.false_ne_true h).elim
theorem Encoding.trainLock (port : Nat) : Encoding.Statement (.trainLock port) := fun h => (Bool.false_ne_true h).elim
theorem Encoding.trainTimeout (port : Nat) : Encoding.Statement (.trainTimeout port) := fun h => (Bool.false_ne_true h).elim
theorem Encoding.calibration (port : Nat) (trip : Nat) (peerTick : Option DWord) : Encoding.Statement (.calibration port trip peerTick) := fun h => (Bool.false_ne_true h).elim
theorem Encoding.crcFailureBurst (port : Nat) : Encoding.Statement (.crcFailureBurst port) := fun h => (Bool.false_ne_true h).elim
theorem Encoding.retrainLock (port : Nat) : Encoding.Statement (.retrainLock port) := fun h => (Bool.false_ne_true h).elim
theorem Encoding.retrainTimeout (port : Nat) : Encoding.Statement (.retrainTimeout port) := fun h => (Bool.false_ne_true h).elim
theorem Encoding.flitReplay (port : Nat) : Encoding.Statement (.flitReplay port) := fun h => (Bool.false_ne_true h).elim
theorem Encoding.meshBeacon (r : Nat) (dir : BitVec 2) : Encoding.Statement (.meshBeacon r dir) := fun h => (Bool.false_ne_true h).elim
theorem Encoding.meshLinkTimeout (r : Nat) (dir : BitVec 2) : Encoding.Statement (.meshLinkTimeout r dir) := fun h => (Bool.false_ne_true h).elim
theorem Encoding.routerTimeout (r : Nat) : Encoding.Statement (.routerTimeout r) := fun h => (Bool.false_ne_true h).elim
theorem Encoding.fieldManagerTimeout (f : Nat) : Encoding.Statement (.fieldManagerTimeout f) := fun h => (Bool.false_ne_true h).elim
theorem Encoding.speoshLinkTimeout (port : Nat) : Encoding.Statement (.speoshLinkTimeout port) := fun h => (Bool.false_ne_true h).elim
theorem Encoding.moduleTimeout (mod : Nat) : Encoding.Statement (.moduleTimeout mod) := fun h => (Bool.false_ne_true h).elim
theorem Encoding.podMemberTimeout (mod : Nat) : Encoding.Statement (.podMemberTimeout mod) := fun h => (Bool.false_ne_true h).elim
theorem Encoding.clockSourceLoss (r : Nat) : Encoding.Statement (.clockSourceLoss r) := fun h => (Bool.false_ne_true h).elim
theorem Encoding.clockRealigned (r : Nat) : Encoding.Statement (.clockRealigned r) := fun h => (Bool.false_ne_true h).elim
theorem Encoding.tickEdge (missed : List Nat) : Encoding.Statement (.tickEdge missed) := fun h => (Bool.false_ne_true h).elim
theorem Encoding.temperatureRefresh : Encoding.Statement (.temperatureRefresh) := fun h => (Bool.false_ne_true h).elim
theorem Encoding.throttleWindowEnd (r : Nat) (above : Bool) : Encoding.Statement (.throttleWindowEnd r above) := fun h => (Bool.false_ne_true h).elim
theorem Encoding.scrub (place : BadPlace) (bad : Bool) : Encoding.Statement (.scrub place bad) := fun h => (Bool.false_ne_true h).elim
theorem Encoding.poleGranuleTransfer (r : Nat) (e : Option PoleEvent) : Encoding.Statement (.poleGranuleTransfer r e) := fun h => (Bool.false_ne_true h).elim
theorem Encoding.eccWriteback (r : Nat) (offset : BitVec 25) (e : CellEvent) : Encoding.Statement (.eccWriteback r offset e) := fun h => (Bool.false_ne_true h).elim
theorem Encoding.rowRemap (r : Nat) (bank : BitVec 4) (row : BitVec 10) : Encoding.Statement (.rowRemap r bank row) := fun h => (Bool.false_ne_true h).elim
theorem Encoding.rowRemapDone (r : Nat) (bank : BitVec 4) : Encoding.Statement (.rowRemapDone r bank) := fun h => (Bool.false_ne_true h).elim
theorem Encoding.secondTierTimeout (r : Nat) (n : Nat) : Encoding.Statement (.secondTierTimeout r n) := fun h => (Bool.false_ne_true h).elim
theorem Encoding.translationWalk (r : Nat) (va : BitVec 54) : Encoding.Statement (.translationWalk r va) := fun h => (Bool.false_ne_true h).elim
theorem Encoding.tqpAnswer (r : Nat) (c : CtxId) (final : Bool) : Encoding.Statement (.tqpAnswer r c final) := fun h => (Bool.false_ne_true h).elim
theorem Encoding.trapQueuePost (f : Nat) : Encoding.Statement (.trapQueuePost f) := fun h => (Bool.false_ne_true h).elim
theorem Encoding.trapQueueRemove (f : Nat) : Encoding.Statement (.trapQueueRemove f) := fun h => (Bool.false_ne_true h).elim
theorem Encoding.strikeTile (r : Nat) : Encoding.Statement (.strikeTile r) := fun h => (Bool.false_ne_true h).elim
theorem Encoding.fieldDerate (f : Nat) (code : BitVec 4) : Encoding.Statement (.fieldDerate f code) := fun h => (Bool.false_ne_true h).elim
theorem Encoding.moduleReset (dead : List Nat) (bands : List (BitVec 4)) (found : BootFindings) : Encoding.Statement (.moduleReset dead bands found) := fun h => (Bool.false_ne_true h).elim
theorem Encoding.serviceProcessorFailover : Encoding.Statement (.serviceProcessorFailover) := fun h => (Bool.false_ne_true h).elim
theorem Encoding.imageFetched (q : Nat) (image : Image) : Encoding.Statement (.imageFetched q image) := fun h => (Bool.false_ne_true h).elim
theorem Encoding.resolutionAnswer (id : PitchId) (ok : Bool) : Encoding.Statement (.resolutionAnswer id ok) := fun h => (Bool.false_ne_true h).elim
theorem Encoding.powerDown : Encoding.Statement (.powerDown) := fun h => (Bool.false_ne_true h).elim
theorem Encoding.secondTierLinkDown (port : Nat) : Encoding.Statement (.secondTierLinkDown port) := fun h => (Bool.false_ne_true h).elim
theorem Encoding.outOfTime (r : Nat) : Encoding.Statement (.outOfTime r) := fun h => (Bool.false_ne_true h).elim
theorem Encoding.holdAsserted (r : Nat) : Encoding.Statement (.holdAsserted r) := fun h => (Bool.false_ne_true h).elim
theorem Encoding.routeBankWrite (bank : Bool) (dst : BitVec 8) (w : BitVec 16) : Encoding.Statement (.routeBankWrite bank dst w) := fun h => (Bool.false_ne_true h).elim

end Sys2Proof.Laws
end

