-- ==== Sys2Proof/Tests/Slice0.lean ====
section
/-! SUPPORT. Tests of single steps, of decoding and of well-formedness, with expected values from the spec's tables and worked
examples or calculated by hand from its rules; and for every statement with premises a state and operands that meet them. -/

namespace Sys2Proof.Tests

open Sys2Proof Sys2Proof.Machine

set_option Elab.async false

/-! ## Decoding: words written out field by field from R34 to R52 -/

theorem test_decode_mov : decode [0b00000#5 ++ 0b011#3 ++ 0b101#3 ++ 0b00000#5] = .ok (.mov 3 5) 1 0x03A0 := rfl
theorem test_decode_ghi : decode [0b00000#5 ++ 0b010#3 ++ 0b111#3 ++ 0b01101#5] = .ok (.ghi 2 7) 1 0x02ED := rfl
theorem test_decode_sub : decode [0b00001#5 ++ 0b011#3 ++ 0b001#3 ++ 0b010#3 ++ 0b01#2] = .ok (.sub 3 1 2) 1 0x0B29 := rfl
theorem test_decode_mulhu : decode [0b00011#5 ++ 0b001#3 ++ 0b010#3 ++ 0b100#3 ++ 0b10#2] = .ok (.mulhu 1 2 4) 1 0x1952 := rfl
theorem test_decode_rem : decode [0b00100#5 ++ 0b111#3 ++ 0b110#3 ++ 0b101#3 ++ 0b10#2] = .ok (.rem 7 6 5) 1 0x27D6 := rfl
theorem test_decode_sltu : decode [0b00101#5 ++ 0b001#3 ++ 0b011#3 ++ 0b010#3 ++ 0b01#2] = .ok (.sltu 1 3 2) 1 0x2969 := rfl
theorem test_decode_maxu : decode [0b00110#5 ++ 0b101#3 ++ 0b010#3 ++ 0b110#3 ++ 0b11#2] = .ok (.maxu 5 2 6) 1 0x355B := rfl
theorem test_decode_andi : decode [0b01001#5 ++ 0b001#3 ++ 0b11111111#8] = .ok (.andi 1 (-1)) 1 0x49FF := rfl
theorem test_decode_rori : decode [0b01100#5 ++ 0b010#3 ++ 0b011#3 ++ 0b01001#5] = .ok (.rori 2 9) 1 0x6269 := rfl
theorem test_decode_blez : decode [0b01101#5 ++ 0b101#3 ++ 0b011#3 ++ 0b11110#5] = .ok (.blez 3 (-2)) 1 0x6D7E := rfl
theorem test_decode_bgeu : decode [0b11110#5 ++ 0b00000000101#11, 0b01110#5 ++ 0b001#3 ++ 0b010#3 ++ 0b10100#5] = .ok (.bgeu 1 2 5) 2 0x7154 := rfl
theorem test_decode_jr : decode [0b10001#5 ++ 0b000#3 ++ 0b100#3 ++ 0b00000#5] = .ok (.jr 4) 1 0x8880 := rfl
theorem test_decode_hend : decode [0b10001#5 ++ 0b00000000011#11] = .ok (.hend) 1 0x8803 := rfl
theorem test_decode_loop : decode [0b10010#5 ++ 0b010#3 ++ 0b00001001#8] = .ok (.loop 2 9) 1 0x9209 := rfl
theorem test_decode_ldbu : decode [0b10011#5 ++ 0b011#3 ++ 0b010#3 ++ 0b001#3 ++ 0b11#2] = .ok (.ldbu 3 2 3) 1 0x9B47 := rfl
theorem test_decode_sta : decode [0b10100#5 ++ 0b101#3 ++ 0b010#3 ++ 0b011#3 ++ 0b01#2] = .ok (.sta 5 2 1) 1 0xA54D := rfl
theorem test_decode_aadds : decode [0b10101#5 ++ 0b001#3 ++ 0b010#3 ++ 0b011#3 ++ 0b01#2] = .ok (.aadds 1 2 3) 1 0xA94D := rfl
theorem test_decode_spcs : decode [0b10111#5 ++ 0b100#3 ++ 0b001#3 ++ 0b00100#5] = .ok (.spcs 4 1) 1 0xBC24 := rfl
theorem test_decode_mkl : decode [0b10111#5 ++ 0b100#3 ++ 0b001#3 ++ 0b01000#5] = .ok (.mkl 4 1) 1 0xBC28 := rfl
theorem test_decode_ffma : decode [0b11000#5 ++ 0b001#3 ++ 0b010#3 ++ 0b011#3 ++ 0b11#2] = .ok (.ffma 1 2 3) 1 0xC14F := rfl
theorem test_decode_fle : decode [0b11010#5 ++ 0b001#3 ++ 0b010#3 ++ 0b011#3 ++ 0b01#2] = .ok (.fle 1 2 3) 1 0xD14D := rfl
theorem test_decode_fcvtus : decode [0b11011#5 ++ 0b001#3 ++ 0b010#3 ++ 0b00101#5] = .ok (.fcvtus 1 2) 1 0xD945 := rfl
theorem test_decode_frsq : decode [0b11011#5 ++ 0b001#3 ++ 0b010#3 ++ 0b01101#5] = .ok (.frsq 1 2) 1 0xD94D := rfl
theorem test_decode_vfma : decode [0b11111#5 ++ 0b01001#5 ++ 0b001#3 ++ 0b010#3, 0b00000#5 ++ 0b011#3 ++ 0b100#3 ++ 0b101#3 ++ 0b11#2] = .ok (.vfma .bf16 2 3 4 5) 2 0x0397 := rfl
theorem test_decode_vandn : decode [0b11111#5 ++ 0b01001000#8 ++ 0b001#3, 0b00010#5 ++ 0b010#3 ++ 0b011#3 ++ 0b100#3 ++ 0b11#2] = .ok (.vandn 1 2 3 4) 2 0x1273 := rfl
theorem test_decode_vsra : decode [0b11111#5 ++ 0b01001#5 ++ 0b011#3 ++ 0b000#3, 0b00011#5 ++ 0b001#3 ++ 0b010#3 ++ 0b011#3 ++ 0b10#2] = .ok (.vsra .i16 0 1 2 3) 2 0x194E := rfl
theorem test_decode_vcne : decode [0b11111#5 ++ 0b01001#5 ++ 0b111#3 ++ 0b011#3, 0b00100#5 ++ 0b001#3 ++ 0b010#3 ++ 0b011#3 ++ 0b11#2] = .ok (.vcne .u32 3 1 2 3) 2 0x214F := rfl
theorem test_decode_vsel : decode [0b11111#5 ++ 0b01001000#8 ++ 0b011#3, 0b00101#5 ++ 0b001#3 ++ 0b010#3 ++ 0b011#3 ++ 0b00#2] = .ok (.vsel 3 1 2 3) 2 0x294C := rfl
theorem test_decode_vseg : decode [0b11111#5 ++ 0b01001#5 ++ 0b000#3 ++ 0b001#3, 0b00101#5 ++ 0b010#3 ++ 0b011#3 ++ 0b100#3 ++ 0b10#2] = .ok (.vseg .f32 1 2 3 4) 2 0x2A72 := rfl
theorem test_decode_vlog2 : decode [0b11111#5 ++ 0b01001#5 ++ 0b000#3 ++ 0b001#3, 0b00110#5 ++ 0b010#3 ++ 0b011#3 ++ 0b00111#5] = .ok (.vlog2 .f32 1 2 3) 2 0x3267 := rfl
theorem test_decode_vpkm : decode [0b11111#5 ++ 0b01001#5 ++ 0b000#3 ++ 0b000#3, 0b00111#5 ++ 0b010#3 ++ 0b011#3 ++ 0b01010#5] = .ok (.vpkm .f32 2 3) 2 0x3A6A := rfl
theorem test_decode_vldh : decode [0b11111#5 ++ 0b01001000#8 ++ 0b001#3, 0b01001#5 ++ 0b010#3 ++ 0b011#3 ++ 0b001#3 ++ 0b10#2] = .ok (.vldh 1 2 3 2) 2 0x4A66 := rfl
theorem test_decode_vsct : decode [0b11111#5 ++ 0b01001#5 ++ 0b000#3 ++ 0b001#3, 0b01010#5 ++ 0b010#3 ++ 0b011#3 ++ 0b011#3 ++ 0b01#2] = .ok (.vsct .f32 1 2 3 1) 2 0x526D := rfl
theorem test_decode_pnot : decode [0b11111#5 ++ 0b01001000000#11, 0b01011#5 ++ 0b001#3 ++ 0b010#3 ++ 0b00011#5] = .ok (.pnot 1 2) 2 0x5943 := rfl
theorem test_decode_vli : decode [0b11111#5 ++ 0b01001#5 ++ 0b000#3 ++ 0b001#3, 0b01100#5 ++ 0b010#3 ++ 0b00000101#8] = .ok (.vli .f32 1 2 5) 2 0x6205 := rfl
theorem test_decode_mma : decode [0b11111#5 ++ 0b01010000000#11, 0b00000#5 ++ 0b11#2 ++ 0b001#3 ++ 0b010#3 ++ 0b1#1 ++ 0b0#1 ++ 0b1#1] = .ok (.mma 3 1 2 true false true) 2 0x0655 := rfl
theorem test_decode_mfmt : decode [0b11111#5 ++ 0b01010000000#11, 0b00010#5 ++ 0b001#3 ++ 0b010#3 ++ 0b00001#5] = .ok (.mfmt 1 2) 2 0x1141 := rfl
theorem test_decode_vtom : decode [0b11111#5 ++ 0b01010000#8 ++ 0b001#3, 0b00010#5 ++ 0b010#3 ++ 0b011#3 ++ 0b00110#5] = .ok (.vtom 1 2 3) 2 0x1266 := rfl
theorem test_decode_mld : decode [0b11111#5 ++ 0b01010000000#11, 0b00100#5 ++ 0b001#3 ++ 0b010#3 ++ 0b001#3 ++ 0b11#2] = .ok (.mld .bf16 1 2 3) 2 0x2147 := rfl
theorem test_decode_skmrg : decode [0b11111#5 ++ 0b01010000000#11, 0b01000#5 ++ 0b001#3 ++ 0b010#3 ++ 0b00100#5] = .ok (.skmrg 1 2) 2 0x4144 := rfl
theorem test_decode_skadd : decode [0b11111#5 ++ 0b01010#5 ++ 0b000#3 ++ 0b010#3, 0b01001#5 ++ 0b001#3 ++ 0b011#3 ++ 0b00000#5] = .ok (.skadd .f32 2 1 3) 2 0x4960 := rfl
theorem test_decode_skhh : decode [0b11111#5 ++ 0b01010#5 ++ 0b000#3 ++ 0b000#3, 0b01010#5 ++ 0b001#3 ++ 0b010#3 ++ 0b011#3 ++ 0b10#2] = .ok (.skhh .f32 1 2 3) 2 0x514E := rfl
theorem test_decode_skvar : decode [0b11111#5 ++ 0b01010#5 ++ 0b000#3 ++ 0b000#3, 0b01011#5 ++ 0b001#3 ++ 0b010#3 ++ 0b00110#5] = .ok (.skvar .f32 1 2) 2 0x5946 := rfl
theorem test_decode_skldh : decode [0b11111#5 ++ 0b01010000000#11, 0b01100#5 ++ 0b001#3 ++ 0b010#3 ++ 0b010#3 ++ 0b11#2] = .ok (.skldh 1 2 3) 2 0x614B := rfl
theorem test_decode_qmark : decode [0b11111#5 ++ 0b01011000000#11, 0b00000#5 ++ 0b001#3 ++ 0b010#3 ++ 0b00101#5] = .ok (.qmark 1 2) 2 0x0145 := rfl
theorem test_decode_vsend : decode [0b11111#5 ++ 0b01011000000#11, 0b00010#5 ++ 0b001#3 ++ 0b010#3 ++ 0b00001#5] = .ok (.vsend 1 2) 2 0x1141 := rfl
theorem test_decode_sendm : decode [0b11111#5 ++ 0b01011000000#11, 0b00010#5 ++ 0b001#3 ++ 0b010#3 ++ 0b00010#5] = .ok (.sendm 1 2) 2 0x1142 := rfl
theorem test_decode_semw : decode [0b11111#5 ++ 0b01011000000#11, 0b00011#5 ++ 0b010#3 ++ 0b000#3 ++ 0b00111#5] = .ok (.semw 2 7) 2 0x1A07 := rfl
theorem test_decode_barw : decode [0b11111#5 ++ 0b01011000000#11, 0b00110#5 ++ 0b001#3 ++ 0b010#3 ++ 0b00001#5] = .ok (.barw 1 2) 2 0x3141 := rfl
theorem test_decode_trig : decode [0b11111#5 ++ 0b01011000000#11, 0b00111#5 ++ 0b001#3 ++ 0b010#3 ++ 0b00011#5] = .ok (.trig 1 2) 2 0x3943 := rfl
theorem test_decode_amomaxu : decode [0b11111#5 ++ 0b01011000000#11, 0b01001#5 ++ 0b001#3 ++ 0b010#3 ++ 0b011#3 ++ 0b11#2] = .ok (.amomaxu .wafer 1 2 3) 2 0x494F := rfl
theorem test_decode_cpyr : decode [0b11111#5 ++ 0b01011000000#11, 0b01011#5 ++ 0b001#3 ++ 0b010#3 ++ 0b011#3 ++ 0b01#2] = .ok (.cpyr 1 2 3) 2 0x594D := rfl
theorem test_decode_ringb : decode [0b11111#5 ++ 0b01011000000#11, 0b01100#5 ++ 0b001#3 ++ 0b010#3 ++ 0b00011#5] = .ok (.ringb 1 2) 2 0x6143 := rfl
theorem test_decode_amsg : decode [0b11111#5 ++ 0b01011000000#11, 0b01101#5 ++ 0b001#3 ++ 0b010#3 ++ 0b011#3 ++ 0b00#2] = .ok (.amsg 1 2 3) 2 0x694C := rfl
theorem test_decode_colw : decode [0b11111#5 ++ 0b01011000000#11, 0b01110#5 ++ 0b001#3 ++ 0b010#3 ++ 0b00010#5] = .ok (.colw 1 2) 2 0x7142 := rfl
theorem test_decode_waitc : decode [0b11111#5 ++ 0b01011000000#11, 0b01111#5 ++ 0b000#3 ++ 0b010#3 ++ 0b00011#5] = .ok (.waitc 2) 2 0x7843 := rfl
theorem test_decode_trap : decode [0b11111#5 ++ 0b01100000000#11, 0b00000#5 ++ 0b001#3 ++ 0b00000101#8] = .ok (.trap 1 5) 2 0x0105 := rfl
theorem test_decode_mfk : decode [0b11111#5 ++ 0b01100000000#11, 0b00010#5 ++ 0b001#3 ++ 0b00000011#8] = .ok (.mfk 1 3) 2 0x1103 := rfl
theorem test_decode_eret : decode [0b11111#5 ++ 0b01100000000#11, 0b00100#5 ++ 0b00000000000#11] = .ok (.eret) 2 0x2000 := rfl
theorem test_decode_tlbi : decode [0b11111#5 ++ 0b01100000000#11, 0b00100#5 ++ 0b000#3 ++ 0b010#3 ++ 0b00010#5] = .ok (.tlbi 2) 2 0x2042 := rfl
theorem test_decode_strk : decode [0b11111#5 ++ 0b01100000000#11, 0b00100#5 ++ 0b000#3 ++ 0b010#3 ++ 0b01000#5] = .ok (.strk 2) 2 0x2048 := rfl
theorem test_decode_ltrcRead : decode [0b11111#5 ++ 0b01100000000#11, 0b00100#5 ++ 0b001#3 ++ 0b010#3 ++ 0b00111#5] = .ok (.ltrcRead 1 2) 2 0x2147 := rfl
theorem test_decode_vins : decode [0b11111#5 ++ 0b01#2 ++ 0b001#3 ++ 0b000#3 ++ 0b001#3, 0b11110#5 ++ 0b00000011111#11,
  0b01000#5 ++ 0b010#3 ++ 0b011#3 ++ 0b00001#5] = .ok (.vins 1 2 3 31) 3 0x4261 := rfl
theorem test_decode_regx : decode [0b11111#5 ++ 0b00#2 ++ 0b001#3 ++ 0b000#3 ++ 0b111#3, 0b00001#5 ++ 0b001#3 ++ 0b001#3 ++ 0b010#3 ++ 0b00#2]
  = .ok (.add 9 1 58) 2 0x0928 := rfl
theorem test_decode_ext : decode [0b11110#5 ++ 0b00000000001#11, 0b00111#5 ++ 0b001#3 ++ 0b00101100#8] = .ok (.addi 1 300) 2 0x392C := rfl
theorem test_decode_scope : decode [0b11111#5 ++ 0b01#2 ++ 0b011#3 ++ 0b000000#6, 0b11111#5 ++ 0b10#2 ++ 0b011#3 ++ 0b000000#6,
  0b01000#5 ++ 0b001#3 ++ 0b010#3 ++ 0b011#3 ++ 0b00#2] = .ok (.amoadd .cluster 1 2 3) 3 0x414C := rfl
theorem test_decode_unloaded : decode [0xFFFF#16, 0xFFFF#16, 0xFFFF#16, 0xFFFF#16, 0xFFFF#16] = .bad .tooLong 4 0xFFFF 5 := rfl

/-! ## Well-formedness: a term that each check refuses -/

/-! ## Well-formedness: a term that each check refuses -/

theorem test_wf_event : (Instr.placement).wf = false := by decide
theorem test_wf_branch_range : (Instr.beqz 1 (2 ^ 55)).wf = false := by decide +kernel
theorem test_wf_compare_needs_target_word : (Instr.beq 1 2 (2 ^ 45)).wf = false := by decide
theorem test_wf_branch_regx_room : (Instr.beqz 9 (2 ^ 40)).wf = false := by decide
theorem test_wf_offset_range : (Instr.ldw 1 2 (2 ^ 50)).wf = false := by decide
theorem test_wf_vector_offset_range : (Instr.vld 1 2 3 (2 ^ 40)).wf = false := by decide
theorem test_wf_image_offset_range : (Instr.skld 1 2 (2 ^ 40)).wf = false := by decide
theorem test_wf_immediate_range : (Instr.addi 1 (2 ^ 60)).wf = false := by decide +kernel
theorem test_wf_jump_range : (Instr.j (2 ^ 60)).wf = false := by decide +kernel
theorem test_wf_vli_range : (Instr.vli .f32 0 1 (2 ^ 50)).wf = false := by decide
theorem test_wf_loop_length : (Instr.loop 1 0).wf = false := by decide
theorem test_wf_float_type : (Instr.vdiv .i32 0 1 2 3).wf = false := by decide
theorem test_wf_arithmetic_type : (Instr.vadd .e4m3 0 1 2 3).wf = false := by decide
theorem test_wf_shift_type : (Instr.vshl .f32 0 1 2 3).wf = false := by decide
theorem test_wf_gather_type : (Instr.vgat .bf16 0 1 2 0).wf = false := by decide
theorem test_wf_scatter_pair : (Instr.vsct .f32 0 31 2 0).wf = false := by decide
theorem test_wf_segment_code : (Instr.vseg .f32 0 1 2 5).wf = false := by decide
theorem test_wf_convert_same : (Instr.vcvt .f32 .f32 0 1 2).wf = false := by decide
theorem test_wf_iota_type : (Instr.viota .e5m2 0 1).wf = false := by decide

/-! ## Single steps -/

/-- What the next state shows. -/
def shows {α : Type} (o : Out) (f : State → α) : Option α :=
  match o with
  | .next t => some (f t)
  | _ => none

/-- A state in which a context of tile 0 runs at user level at 0x40, with its trap vector at 0x100. -/
def at0 (i : CtxId) (f : Ctx → Ctx) : State :=
  (State.reset.modCtx 0 i fun c => f { c with run := .running, tvec := 0x100, pc := 0x40 }).focusOn 0 i

/-- The C context with g1 and g2. -/
def two (a b : Word) : State := at0 .c fun c => (c.setG 1 a).setG 2 b

/-- g3 after an instruction. -/
def g3 (i : Instr) (s : State) : Option Word := shows (exec i s) fun t => t.cur.getG 3

/-- The cause, the place and the value of the trap that a step takes. -/
def trapOf (i : Instr) (s : State) : Option (Word × Half × DWord) :=
  shows (exec i s) fun t => (t.cur.tcause, t.cur.pc, t.cur.tvalh ++ t.cur.tval)

/-- A scratch pointer of tile 0 (R109). -/
def scratch0 : DWord := 0xFF40000000000000

/-! ### Integers (R89 to R93; the table of R91) -/

theorem test_add_wraps : g3 (.add 3 1 2) (two 0xFFFFFFFF 2) = some 1 := by decide
theorem test_sub_borrows : g3 (.sub 3 1 2) (two 0 1) = some 0xFFFFFFFF := by decide
theorem test_sll_amount_mod_32 : g3 (.sll 3 1 2) (two 1 33) = some 2 := by decide
theorem test_sra_sign : g3 (.sra 3 1 2) (two 0x80000000 4) = some 0xF8000000 := by decide
theorem test_ror_by_zero : g3 (.ror 3 1 2) (two 0x12345678 0) = some 0x12345678 := by decide
theorem test_mulh_signed : g3 (.mulh 3 1 2) (two 0xFFFFFFFF 2) = some 0xFFFFFFFF := by decide
theorem test_mulhu_unsigned : g3 (.mulhu 3 1 2) (two 0xFFFFFFFF 2) = some 1 := by decide
theorem test_div_by_zero : g3 (.div 3 1 2) (two 7 0) = some 0xFFFFFFFF := by decide
theorem test_div_truncates : g3 (.div 3 1 2) (two (-7) 2) = some (-3) := by decide
theorem test_rem_sign_of_dividend : g3 (.rem 3 1 2) (two (-7) 2) = some (-1) := by decide
theorem test_rem_overflow : g3 (.rem 3 1 2) (two 0x80000000 (-1)) = some 0 := by decide
theorem test_divu_large : g3 (.divu 3 1 2) (two (-7) 2) = some 0x7FFFFFFC := by decide
theorem test_remu_large_divisor : g3 (.remu 3 1 2) (two 0x80000000 (-1)) = some 0x80000000 := by decide
theorem test_slt_signed : g3 (.slt 3 1 2) (two (-1) 0) = some 1 := by decide
theorem test_sltu_unsigned : g3 (.sltu 3 1 2) (two (-1) 0) = some 0 := by decide
theorem test_min_signed : g3 (.min 3 1 2) (two (-1) 0) = some (-1) := by decide
theorem test_maxu_unsigned : g3 (.maxu 3 1 2) (two (-1) 0) = some (-1) := by decide
theorem test_abs_most_negative : g3 (.abs 3 1) (two 0x80000000 0) = some 0x80000000 := by decide
theorem test_clz_of_zero : g3 (.clz 3 1) (two 0 0) = some 32 := by decide
theorem test_ctz : g3 (.ctz 3 1) (two 0x50 0) = some 4 := by decide
theorem test_popc : g3 (.popc 3 1) (two 0xF0F00001 0) = some 9 := by decide
theorem test_brev : g3 (.brev 3 1) (two 0x80000002 0) = some 0x40000001 := by decide
theorem test_sexb : g3 (.sexb 3 1) (two 0x80 0) = some 0xFFFFFF80 := by decide
theorem test_zexh : g3 (.zexh 3 1) (two 0xFFFF8001 0) = some 0x8001 := by decide
theorem test_addi_sign_extends : g3 (.addi 3 (-1)) (at0 .c fun c => c.setG 3 0) = some 0xFFFFFFFF := by decide
theorem test_xori_not : g3 (.xori 3 (-1)) (at0 .c fun c => c.setG 3 0x0F) = some 0xFFFFFFF0 := by decide
theorem test_rori : g3 (.rori 3 4) (at0 .c fun c => c.setG 3 0x1F) = some 0xF0000001 := by decide
theorem test_g0_is_zero : shows (exec (.add 0 1 2) (two 1 2)) (fun t => t.cur.getG 0) = some 0 := by decide

/-! ### Pointers (R106 to R111) -/

theorem test_ahi_keeps_the_low_half : shows (exec (.ahi 1 1) (at0 .c fun c => (c.setA 1 0x55).setG 1 7)) (fun t => t.cur.getA 1)
    = some 0x0000000700000055 := by decide
theorem test_aadds_leaves_its_window : trapOf (.aadds 2 1 1) (at0 .c fun c => (c.setA 1 0x003FFFFFFFFFFFFF).setG 1 1)
    = some (0x0005, 0x100, 0x0040000000000000) := by decide
theorem test_asub_clamps : shows (exec (.asub 3 1 2) (at0 .c fun c => c.setA 1 0x100000000)) (fun t => t.cur.getG 3)
    = some 0x7FFFFFFF := by decide
theorem test_spt_of_scratch : shows (exec (.spt 3 1) (at0 .c fun c => c.setA 1 scratch0)) (fun t => t.cur.getG 3) = some 3 := by decide
theorem test_mks_out_of_range : shows (exec (.mks 1 1) (at0 .c fun c => c.setG 1 0x100000)) (fun t => t.cur.getA 1)
    = some 0xFFC0000000000000 := by decide

/-! ### Transfers (R45, R96, R97, R100, R101) -/

theorem test_branch_back : shows (exec (.bltz 1 (-4)) (two (-1) 0)) (fun t => t.cur.pc) = some 0x38 := by decide
theorem test_branch_below_memory : trapOf (.bnez 1 (-64)) (two 1 0) = some (0x0003, 0x100, -64) := by decide
theorem test_jal_links : shows (exec (.jal 16) (at0 .c id)) (fun t => (t.cur.pc, t.cur.getG 62)) = some (0x60, 0x42) := by decide
theorem test_jr_odd : trapOf (.jr 1) (two 0x43 0) = some (0x0003, 0x100, 0x43) := by decide
theorem test_loop_pushes : shows (exec (.loop 1 3) (two 5 0)) (fun t => (t.cur.pc, t.cur.loops)) = some (0x42, [⟨0x42, 0x48, 5⟩]) := by decide
theorem test_loop_count_zero : shows (exec (.loop 1 3) (two 0 0)) (fun t => (t.cur.pc, t.cur.loops)) = some (0x48, []) := by decide
theorem test_loop_goes_back : shows (exec .nop (at0 .c fun c => { c with loops := [⟨0x30, 0x42, 2⟩] })) (fun t => (t.cur.pc, t.cur.loops))
    = some (0x30, [⟨0x30, 0x42, 1⟩]) := by decide

/-! ### Traps and privilege (R25 to R29, R390 to R392) -/

theorem test_brk : trapOf .brk (two 0 0) = some (0x0024, 0x100, 0) := by decide
theorem test_trap_detail : trapOf (.trap 1 0x7E) (two 0xAB 0) = some (0x7E0F, 0x100, 0xAB) := by decide
theorem test_eret_at_user_level : trapOf .eret (two 0 0) = some (0x0D01, 0x100, 0) := by decide
theorem test_copy_on_the_compute_core : shows (exec (.cpyw 1) (two 0 0)) (fun t => t.cur.tcause) = some 0x0002 := by decide
theorem test_supervisor_bank : shows (exec (.mov 24 1) (at0 .c fun c => { c.setG 1 5 with sup := true }))
    (fun t => (t.cur.getG 24, ({ t.cur with sup := false } : Ctx).getG 24)) = some (5, 0) := by decide
theorem test_mfk_core : shows (exec (.mfk 3 0x003) (at0 .c id)) (fun t => t.cur.getG 3) = some 1 := by decide
theorem test_mtk_no_register : trapOf (.mtk 1 0x3FF) (two 0 0) = some (0x0E01, 0x100, 0x3FF) := by decide

/-! ### Memory (R102 to R105) -/

theorem test_store_is_little_endian : shows (exec (.sth 1 2 1) (at0 .c fun c => (c.setG 1 0xABCD1234).setA 2 scratch0))
    (fun t => t.mem) = some [(sramKey 0 .scratch 2, 0x34), (sramKey 0 .scratch 3, 0x12)] := by decide
theorem test_load_sign_extends : shows (exec (.ldb 3 2 0) ((at0 .c fun c => c.setA 2 scratch0).store (sramKey 0 .scratch 0) 1 (0x80 : Byte)))
    (fun t => t.cur.getG 3) = some 0xFFFFFF80 := by decide
theorem test_load_misaligned : trapOf (.ldw 3 2 0) (at0 .c fun c => c.setA 2 (scratch0 + 2)) = some (0x0004, 0x100, scratch0 + 2) := by decide
theorem test_load_noncanonical : trapOf (.ldw 3 2 0) (at0 .c fun c => c.setA 2 0xFFC0000000000000)
    = some (0x0005, 0x100, 0xFFC0000000000000) := by decide
theorem test_amoadd_gives_the_old_value : shows (exec (.amoadd .wafer 3 2 1)
    ((at0 .c fun c => (c.setG 1 5).setA 2 scratch0).store (sramKey 0 .scratch 0) 4 (7 : Word)))
    (fun t => (t.cur.getG 3, t.mem.readNat (sramKey 0 .scratch 0) 4)) = some (7, 12) := by decide

/-! ### Floating point (R66, R76 to R82, R113 to R116) -/

theorem test_fadd : g3 (.fadd 3 1 2) (two 0x3F800000 0x3F800000) = some 0x40000000 := by decide
theorem test_fmul_rounds_to_even : g3 (.fmul 3 1 2) (two 0x3F800001 0x3F800001) = some 0x3F800002 := by decide
theorem test_fdiv_by_zero : g3 (.fdiv 3 1 2) (two 0x3F800000 0) = some 0x7F800000 := by decide
theorem test_fsqrt : g3 (.fsqrt 3 1) (two 0x40800000 0) = some 0x40000000 := by decide +kernel
theorem test_fcvtws_truncates : g3 (.fcvtsw 3 1) (two 3 0) = some 0x40400000 := by decide
theorem test_flt_nan : g3 (.flt 3 1 2) (two 0x7FC00000 0) = some 0 := by decide
theorem test_fneg : g3 (.fneg 3 1) (two 0x3F800000 0) = some 0xBF800000 := by decide
theorem test_fexp2_exact : g3 (.fexp2 3 1) (two 0x40400000 0) = some 0x41000000 := by decide

/-! ### Vectors (R176 to R191) -/

/-- The C context with two vectors and a predicate. -/
def vecs (x y : VWord) (p : Word) : State := at0 .c fun c => ((c.setV 1 x).setV 2 y).setP 1 p

/-- Lane `j` of v3 after an instruction. -/
def v3 (i : Instr) (j : Nat) (s : State) : Option Word := shows (exec i s) fun t => lane (t.cur.getV 3) j

theorem test_vadd_inactive_lane : v3 (.vadd .i32 1 3 1 2) 1 (vecs (ofLanes fun _ => 5) (ofLanes fun _ => 6) 1) = some 0 := by decide +kernel
theorem test_vadd_i16 : v3 (.vadd .i16 0 3 1 2) 0 (vecs (ofLanes fun _ => 0x0001FFFF) (ofLanes fun _ => 0x00010001) 1) = some 0x00020000 := by decide +kernel
theorem test_vandn : v3 (.vandn 0 3 1 2) 4 (vecs (ofLanes fun _ => 0xFF) (ofLanes fun _ => 0x0F) 0) = some 0xF0 := by decide +kernel
theorem test_vsel : v3 (.vsel 1 3 1 2) 1 (vecs (ofLanes fun _ => 5) (ofLanes fun _ => 6) 1) = some 6 := by decide +kernel
theorem test_viota : v3 (.viota .i32 0 3) 31 (vecs 0 0 0) = some 31 := by decide +kernel
theorem test_vext : shows (exec (.vext 3 1 7) (vecs (ofLanes fun j => BitVec.ofNat 32 (2 * j)) 0 0)) (fun t => t.cur.getG 3) = some 14 := by decide +kernel
theorem test_pcnt : shows (exec (.pcnt 3 1) (vecs 0 0 0xFF)) (fun t => t.cur.getG 3) = some 8 := by decide
theorem test_pfst_none : shows (exec (.pfst 3 1) (vecs 0 0 0)) (fun t => t.cur.getG 3) = some 32 := by decide

/-! ### The matrix unit, summaries, channels, semaphores (R157 to R164, R214 to R217, R224, R227) -/

theorem test_msh_illegal : shows (exec (.msh 3 1) (two 33 0)) (fun t => t.cur.tcause) = some 0x0111 := by decide
theorem test_mzero_takes_an_entry : shows (exec (.mzero 1) (two 0 0)) (fun t => t.here.matrix.queue.length) = some 1 := by decide
theorem test_mstat_counts : g3 (.mstat 3) ((two 0 0).modHere fun t => { t with matrix := { t.matrix with done := 2 } }) = some 0x02000000 := by decide
theorem test_recv_undeclared : trapOf (.recv 3 2) (two 0 0) = some (0x000C, 0x100, 2) := by decide
theorem test_qcnt_empty : g3 (.qcnt 3 2) (two 0 0) = some 0 := by decide
theorem test_semw_waits : shows (exec (.semw 0 3) (two 0 0)) (fun t => (t.cur.pc, t.cur.waiting)) = some (0x40, true) := by decide
theorem test_sems_counts : shows (exec (.sems 1 3) (two 0 0)) (fun t => (t.here.sem 3).count) = some 2 := by decide
theorem test_semt_of_zero : g3 (.semt 3 3) (two 0 0) = some 0 := by decide
theorem test_tick_reads : shows (exec (.tick 1) { two 0 0 with tick := 9 }) (fun t => t.cur.getA 1) = some 9 := by decide
theorem test_ltrc_reads_before : shows (exec (.ltrcClearWindow 3 1)
    ((at0 .c fun c => { c.setG 1 1 with sup := true }).modHere fun t => { t with susp := true, stretches := 3 }))
    (fun t => (t.cur.getG 3, t.here.stretches)) = some (0x80000003, 0) := by decide
theorem test_decode_table_word : decodeTableWord 32 0xFB002008 = some (.strk 0) := by rfl

/-! ### The fly's array and pole (R405, R406, R412: the worked example of the program of read errors) -/

/-- A granule of the page of R411 whose byte at offset `o` holds the low byte of `o`. -/
def granule411 (o : Nat) : List Byte := (List.range 64).map fun j => BitVec.ofNat 8 (o + j)

theorem test_array_entry : let f := ({ weak := [(0x800458, 13)] } : Fly).readArray 0x800440
    (f.array.entries, f.arrayStatus, f.fixing) = ([0x2080458D], 0x00010001, [0x800458]) := by decide +kernel
theorem test_pole_entry : let e := ({ stuck := [(77, false)] } : Fly).cross false (granule411 0xA00)
    (e.1.pole.entries, e.1.poleStatus, e.2.getD 0x29 0) = ([0x224D3000], 0x00031001, 0x29) := by decide +kernel
theorem test_swapped_lane_passes : let e := ({ stuck := [(77, false)] } : Fly).cross false (granule411 0)
    (e.1.cross false (granule411 0xA00)).1 = e.1 := by decide +kernel

/-! ## Witnesses: for each statement with premises, states and operands that meet them

The conjuncts follow the clauses of the statement; where clauses meet at a boundary, there is one for each side. -/

/-- A context of tile 0 at supervisor level. -/
def sup0 (i : CtxId) (f : Ctx → Ctx) : State := at0 i fun c => { f c with sup := true }

theorem ready_at {tie : Tie} {priv : Bool} {s : State} (h : s.groupDefect tie priv = none ∧ s.focus.times = 0) : Ready tie priv s :=
  (ready_iff tie priv s).2 h

theorem atOnce_at {s : State} {ps : List Piece}
    (h : (s.cur.xact = none ∧ s.cur.storing = [] ∧ s.cur.posted = []) ∧
      (∀ p ∈ ps, p.home = none ∧ s.bankHeld p.key = false) ∧
      (s.here.fly.sound = true ∧ ∀ p ∈ ps, flyEnd ≤ p.key ∨ (s.tile (p.key / 2 ^ 25)).fly.sound = true) ∧
      (s.focus.ctx = .c → ∀ p ∈ ps, s.here.matrix.touches p.key p.size = false)) : AtOnce s ps := ⟨h.1, h.2.1, h.2.2.1, h.2.2.2⟩

theorem witness_RegistersReadAsWritten : (1 : GReg) ≠ 0 ∧ (2 : GReg) ≠ 1 ∧ (7 : PReg) ≠ 0 ∧ (6 : AReg) ≠ 3 ∧
    (sup0 .c id).cur.sup = true ∧ 24 ≤ (24 : GReg).toNat ∧ (31 : GReg).toNat < 32 := by decide

theorem witness_LateTransitionLimits : (((sup0 .s id).tile 0).ctx .s).sup = true ∧ (((at0 .s id).tile 0).ctx .s).sup = false := by
  decide

/-- The C context of tile 0 with words at its PC. -/
def prog (ws : List Half) (f : Ctx → Ctx) : State := { at0 .c f with mem := putWords [] 0 .c 0x40 ws }

/-- The premises on the state for which a group's step is stated. -/
def Turns (s : State) : Prop :=
  s.agenda = [] ∧ s.focus.rank < s.ranked ∧ s.here.clock = .good ∧ s.cur.run = .running ∧ s.waitingTrap = none ∧ s.cur.sup = false

theorem witness_StepRunsTheDecodedInstruction : Turns (prog [0xFAC0, 0x5828] id) ∧
    decode (prog [0xFAC0, 0x5828] id).words = .ok (.cpy 0 1 2) 2 0x5828 ∧ (prog [0xFAC0, 0x5828] id).badWord 2 = none := by
  unfold Turns; decide

theorem witness_GroupsThatTrapBeforeTheyRun :
    (Turns (prog [0xF800, 0x8805] id) ∧ decode (prog [0xF800, 0x8805] id).words = .bad .surplusPrefix 0 0xF800 2 ∧
      (prog [0xF800, 0x8805] id).badWord 2 = none) ∧
    (Turns (at0 .c fun c => { c with past := true }) ∧ decode (at0 .c fun c => { c with past := true }).words = .short) ∧
    (∀ n : Fin 2, let s := { prog [0x8805] id with agenda := [.mismatch 0 .c (n + 1)] }
      let f := { s with agenda := [] }.focusOn 0 .c
      0 < s.ranked ∧ f.here.clock = .good ∧ f.cur.run = .running ∧ f.waitingTrap = none ∧ f.cur.sup = false ∧
        decode f.words = .ok .nop 1 0x8805 ∧ f.badWord 1 = none) := by
  unfold Turns; decide

theorem witness_EncodeThenDecode : (Instr.cpyxFlush 3).wf = true ∧ (Instr.addi 1 (2 ^ 40)).wf = true ∧ Instr.nop.wf = true := by
  decide +kernel

theorem witness_EncodingsDoNotOverlap : (Instr.cpyxFlush 3).wf = true ∧ (Instr.cpyxCancel 3).wf = true ∧
    encode (.cpyxFlush 3) = encode (.cpyxCancel 3) := by decide +kernel

theorem witness_IntegerOperations : Ready .all false (two 1 2) ∧
    (Ready .all false (two 7 0) ∧ (two 7 0).cur.getG 2 = 0) ∧ (two 1 2).cur.getG 2 ≠ 0 ∧
    (Ready .all false (two 0x80000000 0xFFFFFFFF) ∧ (two 0x80000000 0xFFFFFFFF).cur.getG 1 = 0x80000000 ∧
      (two 0x80000000 0xFFFFFFFF).cur.getG 2 = 0xFFFFFFFF) := by
  refine ⟨ready_at (by decide), ⟨ready_at (by decide), by decide⟩, by decide, ready_at (by decide), by decide, by decide⟩

theorem witness_PointerArithmetic :
    (let s := at0 .c fun c => (c.setA 1 scratch0).setG 1 4
     let t := s.cur.getA 1 + BitVec.ofInt 64 (s.cur.getG 1).toInt
     Ready .all false s ∧ (spaceOf t).isSome = true ∧ t.toNat / 2 ^ 54 = (s.cur.getA 1).toNat / 2 ^ 54) ∧
    (let s := at0 .c fun c => (c.setA 1 0x003FFFFFFFFFFFFF).setG 1 1
     let t := s.cur.getA 1 + BitVec.ofInt 64 (s.cur.getG 1).toInt
     Ready .all false s ∧ s.cur.sup = false ∧ ¬((spaceOf t).isSome = true ∧ t.toNat / 2 ^ 54 = (s.cur.getA 1).toNat / 2 ^ 54)) :=
  ⟨⟨ready_at (by decide), by decide⟩, ready_at (by decide), by decide⟩

/-- Tile 0 carries a pitch of one tile, with one published buffer. -/
def onPitch (p : Pitch) (s : State) : State := { s with pitches := [p] }.modHere fun t => { t with pitch := some p.id }

def pitch1 : Pitch := { id := ⟨1, 1⟩, image := { cfg := 1, wc := 1, hc := 1 }, cls := 0, state := .running
                        handles := [{ buffer := ⟨0x10000, 0x20000, 256⟩ }] }

theorem witness_PointerWindows :
    (let s := onPitch pitch1 (at0 .c fun c => c.setA 1 0xFEC0000000000010)
     Ready .all false s ∧ s.pitchHere = some pitch1 ∧ ∃ h off, spaceOf (s.cur.getA 1) = some (.buffer h off) ∧
       pitch1.handles[h]? = some { buffer := ⟨0x10000, 0x20000, 256⟩ }) ∧
    (let s := at0 .c fun c => c.setA 1 0x1234
     Ready .all false s ∧ spaceOf (s.cur.getA 1) = some (.global 0x1234)) := by
  refine ⟨⟨ready_at (by decide), by decide, 0, 16, by decide⟩, ready_at (by decide), by decide⟩
/-- The address that a branch at 0x40 reaches. -/
def lands (imm : BitVec 64) : Int := ((two 0 0).cur.pc.toNat : Int) + 2 * imm.toInt

theorem witness_RelativeTransfers : Ready .all false (two 0 1) ∧ (two 0 1).cur.sup = false ∧
    (lands (-32) = 0 ∧ lands 0x7FDF = 0xFFFE) ∧ (lands (-33) < 0 ∧ 0xFFFE < lands 0x7FE0) ∧
    ((two 0 1).cur.getG 1).toInt = 0 ∧ ¬((two 0 1).cur.getG 1).toInt = ((two 0 1).cur.getG 2).toInt :=
  ⟨ready_at (by decide), by decide⟩

theorem witness_RegisterTransfers : Ready .all false (two 0xFFFE 0xFFFF) ∧ (two 0xFFFE 0xFFFF).cur.sup = false ∧
    (((two 0xFFFE 0xFFFF).cur.getG 1).toNat % 2 = 0 ∧ ((two 0xFFFE 0xFFFF).cur.getG 1).toNat ≤ 0xFFFE) ∧
    ((two 0xFFFE 0xFFFF).cur.getG 2).toNat % 2 = 1 ∧ 0xFFFE < ((two 0x10000 0).cur.getG 1).toNat :=
  ⟨ready_at (by decide), by decide⟩

/-- The C context inside loops, with g1 = 1. -/
def looped (l : List LoopEntry) : State := at0 .c fun c => { c.setG 1 1 with loops := l }

theorem witness_HardwareLoops :
    (Ready .all false (looped [⟨0x30, 0x60, 2⟩]) ∧ (looped [⟨0x30, 0x60, 2⟩]).cur.loops.length < 2 ∧
      (∀ e, (looped [⟨0x30, 0x60, 2⟩]).cur.loops.head? = some e → 0x42 + 2 * 15 ≤ e.stop) ∧
      (looped [⟨0x30, 0x60, 2⟩]).cur.getG 1 ≠ 0 ∧ (looped [⟨0x30, 0x60, 2⟩]).cur.getG 2 = 0) ∧
    (Ready .all false (looped [⟨0x30, 0x60, 2⟩, ⟨0x20, 0x70, 3⟩]) ∧ (looped [⟨0x30, 0x60, 2⟩, ⟨0x20, 0x70, 3⟩]).cur.sup = false ∧
      ¬(looped [⟨0x30, 0x60, 2⟩, ⟨0x20, 0x70, 3⟩]).cur.loops.length < 2) ∧
    ((looped [⟨0x30, 0x60, 2⟩]).cur.loops = ⟨0x30, 0x60, 2⟩ :: [] ∧ 0x42 ≠ 0x60 ∧ 1 < (2 : Word).toNat ∧
      (looped [⟨0x30, 0x60, 1⟩]).cur.loops = ⟨0x30, 0x60, 1⟩ :: [] ∧
      0x30 ≤ (0x30 : Half).toNat ∧ (0x5E : Half).toNat < 0x60 ∧ (0x2E : Half).toNat < 0x30 ∧ 0x60 ≤ (0x60 : Half).toNat) := by
  refine ⟨⟨ready_at (by decide), by decide, ?_, by decide, by decide⟩, ⟨ready_at (by decide), by decide, by decide⟩, by decide⟩
  intro e h; cases h; decide

theorem witness_EndOfFiring :
    (∀ k : CoreId, Ready .all false (at0 k.ctx id) ∧ (at0 k.ctx id).focus.ctx = k.ctx ∧ (at0 k.ctx id).cur.sup = false) ∧
    ((at0 .s id).here.copy.queue = [] ∧ (at0 .c id).here.matrix.queue = []) ∧
    (let s := (at0 .c id).modHere fun t => { t with matrix := { t.matrix with queue :=
        [{ op := .mzero, fmt := 0, mshape := 0, amode := 0, origin := 0, acc := false, bsrc := false }] } }
     Ready .all false s ∧ s.cur.sup = false ∧ s.here.matrix.queue ≠ []) ∧
    (Ready .all false (at0 .m id) ∧ (at0 .m id).focus.ctx = .m ∧ (at0 .m id).cur.sup = false ∧ (at0 .m id).cur.storing = []) ∧
    (let s := at0 .m fun c => { c with storing := [{ piece := ⟨0, 4, some 1, none⟩, data := 0 }] }
     Ready .all false s ∧ s.cur.sup = false ∧ s.cur.storing ≠ []) ∧
    (Ready .all false (sup0 .c id) ∧ (sup0 .c id).cur.sup = true) := by
  refine ⟨fun k => ⟨by cases k <;> exact ready_at (by decide), by cases k <;> decide, by cases k <;> decide⟩, by decide,
    ⟨ready_at (by decide), by decide⟩, ⟨ready_at (by decide), by decide⟩, ⟨ready_at (by decide), by decide⟩, ready_at (by decide), by decide⟩

theorem witness_SoftwareTrapsAndPrivilege : Ready .all false (two 0 0) ∧
    ((at0 .s id).cur.sup = false ∧ (at0 .s id).focus.ctx ≠ .c ∧ (at0 .s id).focus.ctx ≠ .m) ∧
    (at0 .c id).cur.sup = false ∧ (at0 .c id).focus.ctx = .c := ⟨ready_at (by decide), by decide⟩

theorem witness_TrapEntry : (at0 .c id).cur.sup = false ∧ (at0 .s id).cur.sup = false ∧ (sup0 .c id).cur.sup = true := by decide

/-- The supervisor of the C context with TEPC, TSTAT and the trap loop copy. -/
def returning (tepc tstat : Word) (l : List LoopEntry) : State :=
  sup0 .c fun c => { c with tepc := tepc, tstat := tstat, trapLoops := l }

theorem witness_ReturnFromTrap : Ready .all true (returning 0x42 0 []) ∧
    (returning 0 0x40 []).cur.tstat.getLsbD 6 = true ∧
    ((returning 0xFFFE 0 []).cur.tstat.getLsbD 6 = false ∧ (returning 0xFFFE 0 []).cur.trapLoops = [] ∧
      (returning 0xFFFE 0 []).cur.tepc.toNat < 65536) ∧
    (let s := returning 0x30 0 [⟨0x30, 0x60, 2⟩]
     s.cur.tstat.getLsbD 6 = false ∧ s.cur.trapLoops = ⟨0x30, 0x60, 2⟩ :: [] ∧ 0x30 ≤ s.cur.tepc.toNat ∧ s.cur.tepc.toNat < 0x60) ∧
    (let s := returning 0x60 0 [⟨0x30, 0x60, 2⟩]
     s.cur.trapLoops = ⟨0x30, 0x60, 2⟩ :: [] ∧ s.cur.tepc.toNat = 0x60 ∧ 0x30 < 0x60 ∧ 1 < (2 : Word).toNat) ∧
    (let s := returning 0x62 0 [⟨0x30, 0x60, 2⟩]
     s.cur.trapLoops = ⟨0x30, 0x60, 2⟩ :: [] ∧ 0x60 < s.cur.tepc.toNat) :=
  ⟨ready_at (by decide), by decide⟩

/-- Tables at 0, 0x1000 and 0x2000 that map the first 32 MiB of the address space to tile 0's fly. -/
def tables : Mem := Mem.writeNat (Mem.writeNat (Mem.writeNat [] 0 8 0x1001) 0x1000 8 0x2001) 0x2000 8 0x2B

/-- A context of tile 0 whose a1 is a pointer. -/
def pointing (i : CtxId) (p : DWord) : State := at0 i fun c => (c.setG 1 7).setA 1 p

theorem witness_ScalarLoads :
    (let s := pointing .s scratch0
     Ready .all false s ∧ ∃ g, s.checkAccess 0 false .load (s.cur.getA 1 + 0 * 8) 8 = .ok g ∧
       AtOnce s [⟨g.key, 8, g.home, none⟩] ∧ Good s [⟨g.key, 8, g.home, none⟩]) ∧
    (let s := { pointing .s scratch0 with poison := [sramKey 0 .scratch 0 / 8] }
     s.cur.sup = false ∧ ∃ g, s.checkAccess 0 false .load (s.cur.getA 1 + 0 * 4) 4 = .ok g ∧
       AtOnce s [⟨g.key, 4, g.home, none⟩] ∧ s.poisoned g.key 4 = true) ∧
    (let s := pointing .s (scratch0 + 1)
     s.cur.sup = false ∧ s.checkAccess 0 false .load (s.cur.getA 1 + 0 * 2) 2 = .error 0x04) :=
  ⟨⟨ready_at (by decide), ⟨sramKey 0 .scratch 0, none, .system, false, none, 0⟩, by decide, atOnce_at (by decide), by unfold Good; decide⟩,
    ⟨by decide, ⟨sramKey 0 .scratch 0, none, .system, false, none, 0⟩, by decide, atOnce_at (by decide), by decide⟩, by decide, by decide⟩

theorem witness_ScalarStores :
    (let s := pointing .s scratch0
     Ready .all false s ∧ ∃ g, s.checkAccess 0 false .store (s.cur.getA 1 + 0 * 8) 8 = .ok g ∧
       AtOnce s [⟨g.key, 8, g.home, none⟩] ∧ Writable s [⟨g.key, 8, g.home, none⟩]) ∧
    (let s := pointing .s 0xFFC0000000000000
     s.cur.sup = false ∧ s.checkAccess 0 false .store (s.cur.getA 1 + 0 * 2) 2 = .error 0x05) :=
  ⟨⟨ready_at (by decide), ⟨sramKey 0 .scratch 0, none, .system, false, none, 0⟩, by decide,
    atOnce_at (by decide), by unfold Writable; decide⟩, by decide, by decide⟩

theorem witness_AccessChecks : spaceOf 0xFFC0000000000000 = none ∧
    (spaceOf (scratch0 + 1) ≠ none ∧ (scratch0 + 1).toNat % 2 ≠ 0) ∧
    (spaceOf 0xFF80000000000008 = some (.lane 8) ∧ (0xFF80000000000008 : DWord).toNat % 4 = 0) ∧
    (spaceOf 0xFF40001000000008 = some (.scratch 1 8) ∧ (1 : Nat) ≠ 0) ∧
    (spaceOf (scratch0 + 0x9FFFC) = some (.scratch 0 0x9FFFC) ∧ 0x9FFFC + 4 ≤ (State.reset.tile 0).scratchSize ∧
      spaceOf (scratch0 + 0xA0000) = some (.scratch 0 0xA0000) ∧ (State.reset.tile 0).scratchSize < 0xA0000 + 4) ∧
    (spaceOf 0xFEC0000000000010 = some (.buffer 0 16)) ∧
    (spaceOf 0x1000 = some (.global 0x1000) ∧ (State.reset.tile 0).pitch = none) := by decide

/-- A context of tile 0 points into tile 1's cluster portion, which has 32 KiB; the tiles carry one pitch. -/
def pointingAway (i : CtxId) : State :=
  let tile : Tile → Tile := fun t => { t with pitch := some ⟨1, 1⟩, shared := 1, sharedOf := Vector.replicate 16 1 }
  ({ pointing i 0xFF00000000000100 with pitches := [pitch1] }.modTile 0 tile).modTile 1 tile

theorem witness_RemoteAccessesTravel : ∀ i : CtxId,
    (let s := pointingAway i
     Ready .all false s ∧ Idle s ∧ ∃ g, g.home = some 1 ∧ 1 ≠ s.focus.rank ∧ (s.focus.ctx = .c → s.here.matrix.touches g.key 4 = false) ∧
       s.checkAccess s.focus.rank (s.focus.ctx == .c) .load (s.cur.getA 1 + 0 * 4) 4 = .ok g ∧
       s.checkAccess s.focus.rank (s.focus.ctx == .c) .store (s.cur.getA 1 + 0 * 4) 4 = .ok g ∧ s.here.lines = [] ∧ s.here.caches = false) := by
  intro i
  refine ⟨by cases i <;> exact ready_at (by decide), by unfold Idle; cases i <;> decide, ⟨sramKey 1 .shared 0, some 1, .system, false, none, 0⟩, rfl, ?_⟩
  cases i <;> decide
theorem witness_ScalarFloat : Ready .all false (two 0x3F800000 0x40000000) := ready_at (by decide)

theorem witness_Rounding : (0 : Nat) < (⟨true, 7, 2, 0⟩ : Ex).den ∧ (⟨true, 7, 2, 0⟩ : Ex).neg = true ∧ (⟨false, 7, 2, 0⟩ : Ex).neg = false ∧
    2 * (5 * scaleUp 0) = (2 * ((⟨false, 5, 2, 0⟩ : Ex).roundAt .rne 0).1 + 1) * (2 * scaleDown 0) := by decide

theorem witness_RepresentableValuesStay : 0x7F7FFFFF < 2 ^ FFmt.f32.width ∧ ∃ v, FFmt.f32.decode 0x7F7FFFFF = .fin v := by
  refine ⟨by decide, ?_⟩
  exact ⟨_, rfl⟩

theorem witness_VectorArithmetic : Ready .all false (vecs 0 0 1) ∧ EType.i8.float? = none ∧ EType.bf16.float? = some FFmt.bf16 :=
  ⟨ready_at (by decide), by decide⟩

theorem witness_VectorLogicAndCompare : Ready .all false (vecs 0 0 1) := ready_at (by decide)

theorem witness_VectorRearrangement : Ready .all false (vecs 0 0 1) := ready_at (by decide)

theorem witness_VectorUnary : Ready .all false (vecs 0 0 1) ∧ (EType.i16.float? = none ∧ EType.i16 ≠ .u32) ∧
    EType.f32.float? = some FFmt.f32 := ⟨ready_at (by decide), by decide⟩

theorem witness_SegmentedSums : Ready .all false (vecs 0 0 1) ∧ 2 ^ ((4 : BitVec 3).toNat + 1) ≤ EType.f32.count ∧
    2 ^ ((6 : BitVec 3).toNat + 1) ≤ EType.i8.count ∧ EType.i8.float? = none ∧ EType.f32.float? = some FFmt.f32 :=
  ⟨ready_at (by decide), by decide⟩

theorem witness_VectorConversions : Ready .all false (vecs 0 0 1) ∧ (vecs 0 0 1).cur.amode.toNat % 8 ≠ 4 ∧
    elemOn ((vecs 0 0 1).cur.getP 1) 32 0 = true ∧ elemOn ((vecs 0 0 1).cur.getP 1) 32 1 = false := ⟨ready_at (by decide), by decide⟩

theorem witness_BlockFormats : Ready .all false (vecs 0 0 1) ∧ EType.bf16.float? = some FFmt.bf16 ∧ EType.f32.float? = some FFmt.f32 :=
  ⟨ready_at (by decide), by decide⟩

theorem witness_PredicateOperations : Ready .all false (vecs 0 0 0xFFFF0000) := ready_at (by decide)

/-- The C context with a1 a pointer and p1 a predicate of lanes 0 and 2. -/
def vpoint (p : DWord) : State := at0 .c fun c => (c.setA 1 p).setP 1 5

/-- The base of the lane-private window (R109). -/
def lane0 : DWord := 0xFF80000000000000

theorem witness_VectorLoads :
    (let s := vpoint scratch0
     Ready .all false s ∧ s.cur.getP 1 = 5 ∧
       ∃ g : Target, (s.checkAccess 0 true .load (s.cur.getA 1) 128 = .ok g ∧ s.checkAccess 0 true .load (s.cur.getA 1) 64 = .ok g ∧
         (AtOnce s ((s.readSpans g 5 8).map (·.2)) ∧ Good s ((s.readSpans g 5 8).map (·.2))) ∧
         AtOnce s ((s.readSpans g 5 4).map (·.2)) ∧ Good s ((s.readSpans g 5 4).map (·.2))) ∧
       (s.checkAccess 0 true .load (s.cur.getA 1) 4 = .ok g ∧ AtOnce s [g.piece 4] ∧ Good s [g.piece 4]) ∧
       ((∀ e ∈ activeElems (5 : Word) 32, s.checkAccess 0 true .load (s.cur.getA 1 + BitVec.ofNat 64 e * s.cur.vstride.signExtend 64) 4 = .ok g) ∧
         AtOnce s ((activeElems (5 : Word) 32).map fun _ => g.piece 4) ∧ Good s ((activeElems (5 : Word) 32).map fun _ => g.piece 4))) ∧
    (let s := vpoint lane0
     Ready .all false s ∧ s.focus.ctx = .c ∧ laneOffset (s.cur.getA 1 + 0 * 4) = .ok 0 ∧
       AtOnce s ((activeElems (5 : Word) 32).map fun e => ⟨sramKey 0 .lane (1024 * e + 0), 4, none, none⟩) ∧
       Good s ((activeElems (5 : Word) 32).map fun e => ⟨sramKey 0 .lane (1024 * e + 0), 4, none, none⟩)) := by
  refine ⟨⟨ready_at (by decide), by decide, ⟨sramKey 0 .scratch 0, none, .system, false, none, 0⟩, ?_, ?_, ?_⟩,
    ready_at (by decide), by decide, by rfl, atOnce_at (by decide +kernel), by unfold Good; decide +kernel⟩
  · exact ⟨by decide, by decide, ⟨atOnce_at (by decide +kernel), by unfold Good; decide +kernel⟩, atOnce_at (by decide +kernel), by unfold Good; decide +kernel⟩
  · exact ⟨by decide, atOnce_at (by decide), by unfold Good; decide⟩
  · exact ⟨by decide +kernel, atOnce_at (by decide +kernel), by unfold Good; decide +kernel⟩

theorem witness_VectorStores :
    (let s := vpoint scratch0
     Ready .all false s ∧ s.cur.getP 1 = 5 ∧
       ∃ g : Target, (s.checkAccess 0 true .store (s.cur.getA 1) 128 = .ok g ∧
         AtOnce s ((List.range 8).map fun j => ⟨g.key + 16 * j, 16, g.home, none⟩) ∧
         Writable s ((List.range 8).map fun j => ⟨g.key + 16 * j, 16, g.home, none⟩)) ∧
       ((∀ e ∈ activeElems (5 : Word) 32, s.checkAccess 0 true .store (s.cur.getA 1 + BitVec.ofNat 64 e * s.cur.vstride.signExtend 64) 4 = .ok g) ∧
         AtOnce s ((activeElems (5 : Word) 32).map fun _ => g.piece 4) ∧ Writable s ((activeElems (5 : Word) 32).map fun _ => g.piece 4))) ∧
    (let s := vpoint lane0
     Ready .all false s ∧ s.focus.ctx = .c ∧ laneOffset (s.cur.getA 1 + 0 * 4) = .ok 0 ∧
       AtOnce s ((activeElems (5 : Word) 32).map fun e => ⟨sramKey 0 .lane (1024 * e + 0), 4, none, none⟩) ∧
       Writable s ((activeElems (5 : Word) 32).map fun e => ⟨sramKey 0 .lane (1024 * e + 0), 4, none, none⟩)) := by
  refine ⟨⟨ready_at (by decide), by decide, ⟨sramKey 0 .scratch 0, none, .system, false, none, 0⟩, ?_, ?_⟩,
    ready_at (by decide), by decide, by rfl, atOnce_at (by decide +kernel), by unfold Writable; decide +kernel⟩
  · exact ⟨by decide, atOnce_at (by decide +kernel), by unfold Writable; decide +kernel⟩
  · exact ⟨by decide +kernel, atOnce_at (by decide +kernel), by unfold Writable; decide +kernel⟩

/-- A command that clears no cell. -/
def mzero0 : MatCmd := { op := .mzero, fmt := 0, mshape := 0, amode := 0, origin := 0, acc := false, bsrc := false }

/-- The C context with commands in the matrix queue of tile 0. -/
def mqueued (l : List MatCmd) : State := (two 0 0).modHere fun t => { t with matrix := { t.matrix with queue := l } }

theorem witness_MatrixRegisters : Ready .all false (two 0x00202020 0x41) ∧ (two 0 0).focus.ctx = .c ∧
    (let w := (two 0x04002020 0).cur.getG 1
     w &&& 0xC800C0C0 = 0 ∧ w.toNat % 64 ≤ 32 ∧ w.toNat / 2 ^ 8 % 64 ≤ 32 ∧ w.toNat / 2 ^ 16 % 2 ^ 11 ≤ 1024) ∧
    ¬((two 33 0).cur.getG 1).toNat % 64 ≤ 32 ∧
    (let w := (two 0xFFFF0324 0).cur.getG 1
     w &&& 0x0000FC00 = 0 ∧ w.toNat % 8 ≤ 4 ∧ w.toNat / 8 % 8 ≤ 4 ∧ w.toNat / 64 % 4 ≠ 3) ∧ ¬((two 5 0).cur.getG 1).toNat % 8 ≤ 4 ∧
    ((two 0 0).here.matrix.queue.length ≤ ((two 0 0).cur.getG 1).toNat ∧ (two 0 0).here.matrix.queue = []) ∧
    (let s := mqueued [mzero0]
     Ready .all false s ∧ (s.cur.getG 1).toNat < s.here.matrix.queue.length ∧ s.here.matrix.queue ≠ []) := by
  refine ⟨ready_at (by decide), by decide, by decide, by decide, by decide, by decide, by decide, ready_at (by decide), by decide⟩
theorem witness_MatrixZero : (Ready .all false (two 3 0) ∧ (two 3 0).focus.ctx = .c ∧ Idle (two 3 0) ∧
      (two 3 0).here.matrix.queue.length < 8) ∧ (mqueued (List.replicate 7 mzero0)).here.matrix.queue.length < 8 ∧
    ((mqueued [mzero0]).tile 0).matrix.queue = mzero0 :: [] ∧ mzero0.op = .mzero ∧ mzero0.gang = [] :=
  ⟨⟨ready_at (by decide), by decide, by unfold Idle; decide, by decide⟩, by decide⟩

/-- The C context with FMT, MSHAPE, GANG and pointers to scratch. -/
def shaped (f w gang : Word) : State :=
  at0 .c fun c => { (c.setA 1 scratch0).setA 2 (scratch0 + 0x1000) with fmt := f, mshape := w, gang := gang }

set_option maxRecDepth 8000 in
theorem witness_MatrixIssue :
    (let s := shaped 0 0 0
     Ready .all false s ∧ s.focus.ctx = .c ∧ Idle s ∧ s.matDefect s.cur.fmt s.cur.mshape 0 true false false = none ∧
       ¬(shapeM s.cur.mshape ≠ 0 ∧ shapeN s.cur.mshape ≠ 0 ∧ shapeK s.cur.mshape ≠ 0)) ∧
    (let s := shaped 0 0x00200808 0
     let ext (rows : List Nat) (ld : Nat) := extentOf rows ((pitchFor rows ld).getD 0)
     Ready .all false s ∧ s.cur.sup = false ∧ s.matDefect s.cur.fmt s.cur.mshape 0 true false false = none ∧
       s.matDefect s.cur.fmt s.cur.mshape 0 true true false = none ∧
       s.gangOf 0 s.cur.gang = some [0] ∧
       (shapeM s.cur.mshape ≠ 0 ∧ shapeN s.cur.mshape ≠ 0 ∧ shapeK s.cur.mshape ≠ 0) ∧
       s.matOperand 1 .sram 64 (s.cur.getA 1) (ext (aRows s.cur.fmt s.cur.mshape) (fmtAld s.cur.fmt)) = .ok (.at (sramKey 0 .scratch 0)) ∧
       s.matOperand 2 .sram 64 (s.cur.getA 2) (ext (bRows s.cur.fmt s.cur.mshape) (fmtBld s.cur.fmt)) =
         .ok (.at (sramKey 0 .scratch 0x1000)) ∧
       s.matDefect s.cur.fmt s.cur.mshape (shapeSO s.cur.mshape) false false false = none ∧
       matStride (shapeN s.cur.mshape) 4 (s.cur.getG 1) = some 32 ∧
       s.matOperand 3 .scratchOrBuffer 16 (s.cur.getA 1 + 0 * 16) (7 * 32 + 8 * 4) = .ok (.at (sramKey 0 .scratch 0))) ∧
    (shaped 0 0x00200821 0).matDefect 0 0x00200821 0 true false false = some 1 ∧
    (shaped 0 0 0).matDefect 0 0 0 false false true = some 8 ∧
    ¬(mqueued (List.replicate 8 mzero0)).here.matrix.queue.length < 8 := by
  refine ⟨⟨ready_at (by decide), by decide, by unfold Idle; decide, by decide⟩,
    ⟨ready_at (by decide), by decide, by decide, by decide, by decide +kernel, by decide, by rfl, by rfl, by decide, by decide, by rfl⟩,
    by decide, by decide, by decide⟩

/-- A multiply of integers over one cell. -/
def mma0 : MatCmd := { mzero0 with op := .mma, fmt := 0x011B, mshape := 0x00010101, a := .at (sramKey 0 .scratch 0), b := .at (sramKey 0 .scratch 64) }

theorem witness_MatrixProducts : let s := mqueued [mma0]
    (s.tile 0).matrix.queue = mma0 :: [] ∧ mma0.op = .mma ∧ mma0.gang = [] ∧ mma0.lost = none ∧ mma0.bdata = none ∧
    (∀ k, mma0.a ≠ .bad k) ∧ s.heldKeys mma0.bKeys = false ∧ s.badKey (mma0.aKeys ++ mma0.bKeys) = none ∧
    originRow mma0.origin + shapeM mma0.mshape ≤ 32 ∧ originCol mma0.origin + shapeN mma0.mshape ≤ 32 ∧
    0 < shapeM mma0.mshape ∧ 0 < shapeN mma0.mshape ∧ fmtAct mma0.fmt = true ∧ fmtAct { mma0 with fmt := 0 }.fmt = false := by
  refine ⟨by decide, by decide, by decide, by decide, by decide, ?_, by decide, by decide +kernel, by decide⟩
  intro k h; cases h

/-- The C context with bytes in the summary registers. -/
def holding (m : Mem) : State := (two 4 7).modHere fun t => { t with h := m }

theorem witness_SummaryUpdates : Ready .all false (holding []) ∧ (holding []).focus.ctx = .c ∧ (holding []).cur.sup = false ∧
    (1 ≤ ((holding []).cur.getG 1).toNat ∧ ((holding []).cur.getG 1).toNat ≤ 6 ∧ ((holding []).cur.getG 3).toNat = 0 ∧
      6 < ((holding []).cur.getG 2).toNat ∧ ((two 3 0).cur.getG 1).toNat = 3 ∧ EType.i32.float? = none) ∧
    ((holding [(0, 1)]).here.summ 0).kind = 1 ∧ ((holding [(0, 6), (4096, 6)]).here.summ 1).kind = 6 ∧
    ((holding []).here.summ 0).kind = 0 ∧ ((holding [(0, 7)]).here.summ 0).kind = 7 ∧
    ((holding [(0, 1), (2, 2)]).here.summ 0).ktype ≠ ((holding [(4096, 1)]).here.summ 1).ktype ∧
    ((holding [(0, 6), (8, 1), (4096, 6)]).here.summ 0).seed ≠ ((holding [(0, 6), (8, 1), (4096, 6)]).here.summ 1).seed ∧
    familyTakes 0 .bf16 = true ∧ familyTakes 0 .i32 = false ∧ activeElems ((two 0 0).cur.getP 1) 32 = [] ∧
    activeElems ((two 0 0).cur.getP 0) 32 ≠ [] := by
  refine ⟨ready_at (by decide), by decide, by decide, by decide, ?_⟩
  decide +kernel

theorem witness_SummaryQueries : Ready .all false (holding [(0, 4)]) ∧ (holding [(0, 4)]).focus.ctx = .c ∧
    (∀ k : Fin 7, ((holding [(0, BitVec.ofNat 8 (k + 1))]).here.summ 0).kind = k + 1) ∧ (holding []).cur.sup = false ∧
    familyTakes ((holding [(0, 4)]).here.summ 0).ktype .f32 = true ∧ familyTakes ((holding [(0, 4)]).here.summ 0).ktype .u32 = false :=
  ⟨ready_at (by decide), by decide +kernel⟩

/-- The pieces of an image of 128 bytes at the base of scratch. -/
def pieces128 : List Piece := (List.range 8).map fun j => ⟨sramKey 0 .scratch (16 * j), 16, none, none⟩

/-- A moment summary in register 0 and in memory at the base of scratch. -/
def imaged : State :=
  let b := writeImage (emptySumm 1 0 0)
  { (at0 .c fun c => c.setA 1 scratch0).modHere fun t => { t with h := Mem.putBytes [] 0 b } with
    mem := Mem.putBytes [] (sramKey 0 .scratch 0) b }

theorem witness_SummaryImages :
    (Ready .all false imaged ∧ imaged.focus.ctx = .c ∧ AtOnce imaged pieces128 ∧
      (1 ≤ (imaged.here.summ 0).kind ∧ (imaged.here.summ 0).kind ≤ 6) ∧ (spaceOf (imaged.cur.getA 1 + 0 * 128)).isSome = true ∧
      (imaged.cur.getA 1 + 0 * 128).toNat % imageSize (imaged.here.summ 0).kind = 0 ∧ Writable imaged pieces128 ∧ Good imaged pieces128 ∧
      imaged.imagePieces .store (imaged.cur.getA 1 + 0 * 128) 0 128 = .ok pieces128 ∧
      imaged.imagePieces .load (imaged.cur.getA 1 + 0 * 128) 0 128 = .ok pieces128 ∧
      imageOk (pieces128.flatMap fun p => bytesOfNat 16 (imaged.mem.readNat p.key p.size)) = true) ∧
    (imageOk (pieces128.flatMap fun p => bytesOfNat 16 ((two 0 0).mem.readNat p.key p.size)) = false ∧ (two 0 0).cur.sup = false ∧
      (two 0 0).imagePieces .load scratch0 0 128 = .ok pieces128) ∧
    (spaceOf 0xFFC0000000000000 = none ∧ spaceOf (scratch0 + 64) ≠ none ∧ (scratch0 + 64).toNat % 128 ≠ 0) := by
  refine ⟨⟨ready_at (by decide), by decide, atOnce_at (by decide +kernel), by decide +kernel,
    by decide, by decide +kernel, by unfold Writable; decide +kernel, by unfold Good; decide +kernel, by rfl, by rfl, by decide +kernel⟩,
    ⟨by decide +kernel, by decide, by rfl⟩, by decide⟩

/-- Tile 0 with a core of its own. -/
def cored (k : CoreId) (f : Core → Core) : State := (at0 k.ctx id).modHere fun t => t.setCore k (f (t.core k))

def word1 : Token := { payload := 5, tag := 1, mark := 0 }

theorem witness_ChannelOperations :
    (∀ k : CoreId, Ready .all false (cored k fun c => { c with queues := vecMod c.queues 2 fun q => { q with words := List.replicate 16 word1 } }) ∧
      (at0 k.ctx id).focus.ctx = k.ctx ∧ (at0 k.ctx id).cur.sup = false) ∧
    (let s := cored .c fun c => { c with queues := vecMod c.queues 2 fun q => { q with words := List.replicate 16 word1 } }
     ((s.here.core .c).queues[2]'(by decide)).words = word1 :: List.replicate 15 word1 ∧
       16 ≤ ((s.here.core .c).queues[2]'(by decide)).words.length ∧
       ((s.here.core .c).queues[2]'(by decide)).words[15]? = some word1) ∧
    (let s := cored .c fun c => { c with ports := vecMod c.ports 3 fun p => { p with stage := 16, dests := [.egress 0] } }
     ((s.here.core .c).ports[3]'(by decide)).dests ≠ [] ∧ 16 ≤ ((s.here.core .c).ports[3]'(by decide)).stage ∧ s.cur.storing = []) ∧
    (let s := cored .c fun c => { c with ports := vecMod c.ports 3 fun p => { p with stage := 2, dests := [.egress 0], words := [word1, word1] } }
     ((s.here.core .c).ports[3]'(by decide)).dests ≠ [] ∧
       ((s.here.core .c).ports[3]'(by decide)).stage - ((s.here.core .c).ports[3]'(by decide)).words.length < 1) ∧
    (let s := cored .c fun c => { c with slots := vecMod c.slots 0 fun l => { l with inmask := 4 } }
     ((s.here.core .c).queues[2]'(by decide)).words = [] ∧ s.declares .c 2 = true ∧ s.declares .c 3 = false ∧
       ((s.here.core .c).ports[3]'(by decide)).dests = []) := by
  refine ⟨fun k => ⟨by cases k <;> exact ready_at (by decide), by cases k <;> decide, by cases k <;> decide⟩, ?_⟩
  decide

/-- The C context with the count of semaphore 3, TICK and CYC. -/
def counting (n : Half) (tick cyc : DWord) : State :=
  { (at0 .c fun c => c.setA 1 5) with tick := tick }.modHere fun t => { t.modSem 3 (fun m => { m with count := n }) with cyc := cyc }

theorem witness_SemaphoresAndTime : Ready .all false (counting 8 5 4) ∧
    ((7 : BitVec 3).toNat + 1 ≤ ((counting 8 5 4).here.sem 3).count.toNat ∧ ((counting 7 5 4).here.sem 3).count.toNat < (7 : BitVec 3).toNat + 1) ∧
    ((counting 0xFFF7 0 0).cur.storing = [] ∧ ((counting 0xFFF7 0 0).here.sem 3).count.toNat + ((7 : BitVec 3).toNat + 1) ≤ 0xFFFF ∧
      0xFFFF < ((counting 0xFFF8 0 0).here.sem 3).count.toNat + ((7 : BitVec 3).toNat + 1) ∧ (counting 0xFFF8 0 0).cur.sup = false) ∧
    (at0 .c fun c => { c with storing := [{ piece := ⟨0, 4, some 1, none⟩, data := 0 }] }).cur.storing ≠ [] ∧
    (((counting 0 5 4).here.sem 3).count = 0 ∧ ((counting 1 5 4).here.sem 3).count ≠ 0) ∧
    (counting 0 5 4).cur.getA 1 ≤ (counting 0 5 4).tick ∧ (counting 0 4 4).tick < (counting 0 4 4).cur.getA 1 ∧
    (counting 0 5 5).cur.getA 1 ≤ (counting 0 5 5).here.cyc ∧ (counting 0 5 4).here.cyc < (counting 0 5 4).cur.getA 1 :=
  ⟨ready_at (by decide), by decide⟩

/-- The C context with barrier 2 and g1. -/
def barred (b : Barrier) (w : Word) : State := (at0 .c fun c => c.setG 1 w).modHere fun t => t.modBar 2 fun _ => b

theorem witness_Barriers :
    (Ready .all false (barred {} 32) ∧ 1 ≤ ((barred {} 1).cur.getG 1).toNat ∧ ((barred {} 32).cur.getG 1).toNat ≤ 32 ∧
      Scope.wafer ≠ .lane ∧ Scope.wafer ≠ .core) ∧
    (((barred {} 0).cur.getG 1).toNat = 0 ∧ 32 < ((barred {} 33).cur.getG 1).toNat ∧ (barred {} 33).cur.sup = false) ∧
    (let s := barred { configured := true, members := 2 } 0x81
     let w := s.cur.getG 1
     w &&& 0x7E000060 = 0 ∧ w.getLsbD 31 = false ∧ w.toNat / 256 % 2 ^ 17 = 0 ∧ (s.here.bar 2).configured = true ∧ w.toNat % 32 < (s.here.bar 2).members ∧
       s.cur.storing = [] ∧ (s.here.bar 2).arrset.getLsbD 1 = false ∧ (s.here.bar 2).arrived + 1 ≠ (s.here.bar 2).members ∧
       ((barred { configured := true, members := 2, arrset := 2 } 0x81).here.bar 2).arrset.getLsbD 1 = true) ∧
    (let s := barred { configured := true, members := 2, arrived := 1, arrset := 1 } 0x81
     (s.here.bar 2).arrset.getLsbD 1 = false ∧ (s.here.bar 2).arrived + 1 = (s.here.bar 2).members) ∧
    (let w := (barred {} 0x80000100).cur.getG 1
     w &&& 0x7E000060 = 0 ∧ w.getLsbD 31 = true ∧ w.toNat / 256 % 2 ^ 17 < State.reset.ranked) ∧
    (barred {} 0x20).cur.getG 1 &&& 0x7E000060 ≠ 0 ∧
    (((barred { configured := true, gen := true } 0).here.bar 2).configured = true ∧
      ((barred { configured := true, gen := true } 0).here.bar 2).gen ≠ (barred { configured := true } 0).cur.seen.getLsbD 2 ∧
      ((barred { configured := true } 0).here.bar 2).gen = (barred { configured := true } 0).cur.seen.getLsbD 2 ∧
      ((barred {} 0).here.bar 2).configured = false) := by
  refine ⟨⟨ready_at (by decide), by decide⟩, by decide⟩
/-- A context of tile 0, whose tile carries the pitch of one buffer and caches the pages 1 and 2. -/
def buffered (i : CtxId) (ro : Bool) (f : Ctx → Ctx) : State :=
  (onPitch pitch1 (at0 i f)).modHere fun t => { t with tlb :=
    [{ root := 0, page := 1, big := false, pa := 0x10000, scope := .wafer, ro := ro },
     { root := 0, page := 2, big := false, pa := 0x20000, scope := .wafer, ro := ro }] }

theorem witness_Publishing :
    (Ready .all false (buffered .s false id) ∧ (buffered .s false id).fenced .wafer = true ∧
      (buffered .s false id).pitchHere = some pitch1 ∧
      pitch1.handles[((buffered .s false id).cur.getG 1).toNat]? = some { buffer := ⟨0x10000, 0x20000, 256⟩ } ∧
      (buffered .s false id).handleHome pitch1 = 0 ∧ (buffered .s false id).readOnlyBuffer 0 = false ∧
      (buffered .s false id).cur.storing = [] ∧ (buffered .s false id).engineWrites .wafer pitch1.id 0 = false ∧
      (({ buffer := ⟨0x10000, 0x20000, 256⟩ } : Handle).gen = (buffered .s false id).cur.getG 2) ∧
      ({ buffer := ⟨0x10000, 0x20000, 256⟩ } : Handle).gen ≠ (buffered .s false fun c => c.setG 2 1).cur.getG 2) ∧
    ((buffered .s true id).readOnlyBuffer 0 = true ∧ (buffered .s true id).cur.sup = false) ∧
    (Ready .all false (at0 .c fun c => { c with posted := [(0, 0)] }) ∧ (at0 .c fun c => { c with posted := [(0, 0)] }).fenced .tile = false) ∧
    ((two 0 0).pitchHere = none ∧ (two 0 0).cur.sup = false) ∧
    (spaceOf ((pointing .s 0x10000).cur.getA 1) = some (.global 0x10000) ∧
      spaceOf ((pointing .s 0xFFC0000000000000).cur.getA 1) = none) := by
  refine ⟨⟨ready_at (by decide), by decide +kernel⟩, by decide, ⟨ready_at (by decide), by decide +kernel⟩, by decide, by decide⟩

theorem witness_Atomics :
    (let s := pointing .s scratch0
     Ready .all false s ∧ ∃ g, s.checkAccess 0 false .atomic (s.cur.getA 1) 4 = .ok g ∧ s.within .tile 0 0 = true ∧
       AtOnce s [g.piece 4] ∧ Good s [g.piece 4]) ∧
    (let s := pointingAway .s
     Ready .all false s ∧ s.cur.sup = false ∧ ∃ g, s.checkAccess 0 false .atomic (s.cur.getA 1) 4 = .ok g ∧
       s.within .tile 0 (g.homeFrom 0) = false) :=
  ⟨⟨ready_at (by decide), ⟨sramKey 0 .scratch 0, none, .system, false, none, 0⟩, by decide, by decide, atOnce_at (by decide), by unfold Good; decide⟩,
    ready_at (by decide), by decide, ⟨sramKey 1 .shared 0, some 1, .system, false, none, 0⟩, by decide, by decide⟩

/-- The S context with bytes in scratch and commands in the copy queue of tile 0. -/
def staging (m : Mem) (l : List CopyCmd) (stop : Option DWord) (g1 : Word) : State :=
  { at0 .s fun c => c.setG 1 g1 with mem := m }.modHere fun t => { t with copy := { t.copy with queue := l, stop := stop } }

def copy0 : CopyCmd := { ctx := .s, desc := 0, src := scratch0, dst := scratch0 }

/-- A ring descriptor at scratch offset 0: slots of 16 bytes at 0x100, two of them, semaphores 1 and 2. -/
def ringBytes0 : Mem :=
  [(sramKey 0 .scratch 1, 1), (sramKey 0 .scratch 4, 16), (sramKey 0 .scratch 6, 2), (sramKey 0 .scratch 8, 1), (sramKey 0 .scratch 9, 2)]

theorem witness_CopyAndRings :
    (let s := staging [] [] none 0
     Ready .all false s ∧ s.focus.ctx ≠ .c ∧ s.scratchOffset 0 64 64 = .ok () ∧ descBad (s.scratchRead 512 0 64) = false ∧
       s.here.copy.queue.length < 8 ∧ s.cur.sup = false) ∧
    8 ≤ (staging [] (List.replicate 8 copy0) none 0).here.copy.queue.length ∧
    descBad ((staging [(sramKey 0 .scratch 0, 7)] [] none 0).scratchRead 512 0 64) = true ∧
    (staging [] [copy0] (some 5) 0).here.copy.stop ≠ none ∧ (staging [] [] none 0).here.copy.stop = none ∧
    2 < ((staging [] [] none 3).cur.getG 1).toNat ∧ 7 ≤ ((staging [] [] none 7).cur.getG 1).toNat ∧
    ((staging [] [copy0] none 0).cur.getG 1).toNat < (staging [] [copy0] none 0).here.copy.queue.length ∧
    (∃ g, (staging ringBytes0 [] none 0).ringAt 0 = .ok (g, 0, 0) ∧
      ((staging ringBytes0 [] none 0).here.sem g.filled).count = 0 ∧
      (((staging ringBytes0 [] none 0).modHere fun t => t.modSem g.filled fun m => { m with count := 1 }).here.sem g.filled).count ≠ 0) := by
  refine ⟨⟨ready_at (by decide), by decide, by rfl, by decide +kernel, by decide, by decide⟩, by decide, by decide +kernel, by decide, by decide,
    by decide, by decide, by decide, ⟨0, 0x100, 16, 2, 1, 2⟩, by rfl, by decide, by decide⟩

/-- A context whose g2 is the control word of a user message of kind 32 and whose a1 names tile 0. -/
def asking (i : CtxId) (f : Ctx → Ctx) : State := at0 i fun c => f (c.setG 2 0x20000000)

/-- A context whose g2 is a control word of a doubleword kind, and whose a1 points to scratch. -/
def doubling (w : Word) : State := at0 .s fun c => (c.setG 2 w).setA 1 scratch0

def user0 : UserMsg := { kind := 32, args := [], src := ⟨0, 1, .s, ⟨1, 1⟩⟩, target := 0, answer := true }

theorem witness_Messages :
    (let s := asking .s id
     let w := s.cur.getG 2
     Ready .all false s ∧ amsgBad w (s.cur.getA 1) = false ∧ 2 + amsgArgs w ≤ 63 ∧ 32 ≤ w.toNat / 2 ^ 24 ∧ s.focus.ctx ≠ .m ∧
       ((s.cur.getA 1).getLsbD 56 = false → natField (s.cur.getA 1).toNat 0 17 < s.ranked) ∧ s.cur.storing = [] ∧ s.cur.reply = .none) ∧
    ((asking .s fun c => { c with reply := .value 5 }).cur.reply = .value 5 ∧ (asking .s fun c => { c with reply := .nack 1 }).cur.reply = .nack 1 ∧
      (asking .s fun c => { c with reply := .nack 1 }).cur.sup = false) ∧
    (amsgBad ((doubling 1).cur.getG 2) scratch0 = true ∧ (doubling 1).cur.sup = false) ∧
    (∀ w : Word, w = 0x03000000 ∨ w = 0x04000000 → let s := doubling w
      Ready .all false s ∧ amsgBad (s.cur.getG 2) (s.cur.getA 1) = false ∧ 2 + amsgArgs (s.cur.getG 2) ≤ 63 ∧
        ∃ g, s.checkAccess 0 false .atomic (s.cur.getA 1) 8 = .ok g ∧ AtOnce s [g.piece 8] ∧ Good s [g.piece 8]) ∧
    (((0x03000000 : Word).toNat / 2 ^ 24 = 3) ∧ (0x04000000 : Word).toNat / 2 ^ 24 = 4) ∧
    (let s := (at0 .m id).modHere fun t => { t with current := some ⟨user0, true, false, 8⟩ }
     Ready .all false s ∧ s.focus.ctx = .m ∧ s.here.current = some ⟨user0, true, false, 8⟩ ∧ s.cur.storing = [] ∧ s.cur.sup = false) := by
  refine ⟨⟨ready_at (by decide), by decide⟩, by decide, by decide, ?_, by decide, ready_at (by decide), by decide⟩
  rintro w (rfl | rfl) <;>
    exact ⟨ready_at (by decide), by decide, by decide, ⟨sramKey 0 .scratch 0, none, .system, false, none, 0⟩, by decide, atOnce_at (by decide), by unfold Good; decide⟩

/-- A plan of tile 0 alone, on slot 0: a sum of one word at scratch 0. -/
def plan0 : Plan := { handle := 0x10, op := 0, reduce := true, barrier := false, target := 3, member := 0, count := 1, src := 0, dst := 16
                      buffer := none, hoff := none, parts := [(0, 0)], scope := .wafer, status := [{ rank := 0 }] }

/-- The C context with g1 the handle of a plan and a1 the address of slot 0, on a pitch with that plan. -/
def planned (q : Plan) (f : Ctx → Ctx) : State :=
  onPitch { pitch1 with plans := [q] } (at0 .c fun c => f ((c.setG 1 0x10).setA 1 (scratch0 + 0xFF000)))

/-- A descriptor of a plan of all tiles of module 0. -/
def planBytes : Mem :=
  [(sramKey 0 .scratch 1, 2), (sramKey 0 .scratch 4, 1), (sramKey 0 .scratch 16, 0xFF), (sramKey 0 .scratch 17, 0xFF),
   (sramKey 0 .scratch 20, 0xFF), (sramKey 0 .scratch 21, 0xFF), (sramKey 0 .scratch 22, 0xFF), (sramKey 0 .scratch 23, 0xFF),
   (sramKey 0 .scratch 32, 1)]

theorem witness_Collectives :
    ((at0 .c fun c => { c with colset := .value 5 }).cur.colset = .value 5 ∧ (at0 .c fun c => { c with colset := .waiting }).cur.colset = .waiting) ∧
    (let s := { onPitch pitch1 (two 0 0) with mem := planBytes }
     let d : BitVec 512 := s.scratchRead 512 0 64
     Ready .all false s ∧ s.cur.colset = .none ∧ s.scratchOffset 0 64 64 = .ok () ∧ planWhole d = true ∧ planReserved d = false ∧
       planLimit d [] = false ∧ (planMask d s.modidx.toNat && !s.here.struck) = true ∧ s.here.pitch = some ⟨1, 1⟩) ∧
    planReserved ((staging [(sramKey 0 .scratch 0, 14)] [] none 0).scratchRead 512 0 64) = true ∧
    (let s := planned plan0 id
     Ready .all false s ∧ s.pitchHere = some { pitch1 with plans := [plan0] } ∧
       ({ pitch1 with plans := [plan0] } : Pitch).plans.find? (fun q => q.handle.setWidth 32 == s.cur.getG 1) = some plan0 ∧ plan0.live = true ∧
       (plan0.statusOf 0).trigd = false ∧ s.planOf { pitch1 with plans := [plan0] } 0 (s.cur.getG 1) = some plan0 ∧
       plan0.busy = false ∧ plan0.others s.modidx.toNat = [] ∧
       spaceOf (s.cur.getA 1) = some (.scratch 0 0xFF000) ∧ s.slotPlan 0 0 = some (⟨1, 1⟩, plan0) ∧ s.cur.storing = [] ∧
       s.badContribution plan0.src (plan0.count * collectiveSize plan0.op) = none ∧ plan0.op ≠ 12 ∧ plan0.op ≠ 13) ∧
    (let q := { plan0 with status := [{ rank := 0, trigd := true }] }
     (q.statusOf 0).trigd = true ∧ q.failed = false ∧ q.busy = true ∧ { q with failed := true }.failed = true ∧ (planned q id).cur.sup = false) ∧
    (two 0 0).pitchHere = none ∧ spaceOf ((pointing .s 0xFFC0000000000000).cur.getA 1) = none := by
  refine ⟨by decide, ⟨ready_at (by decide), by decide, by rfl, by decide +kernel, by decide +kernel, by decide +kernel, by decide +kernel, by decide⟩,
    by decide +kernel, ⟨ready_at (by decide), by decide⟩, by decide⟩

/-- A record of TQP at scratch offset 0 with these FLAGS; save mode; a stop of the tile under way. -/
def reporting (flags : Byte) : State :=
  { sup0 .s fun c => { c with answer := .none } with mem := Mem.put [] (sramKey 0 .scratch 2) flags }

set_option maxRecDepth 8000 in
theorem witness_SystemInstructions :
    (Ready .all false (two 0 0) ∧ (∃ w, (two 0 0).kread 0 .c 0x018 = some w) ∧ (∃ w, (two 0 0).kread 0 .c 0x060 = some w) ∧
      (∃ w, (at0 .s id).kread 0 .s 0x003 = some w) ∧
      (two 0 0).kread 0 .c 0x3FF = none ∧ (two 0 0).cur.sup = false) ∧
    (Ready .all false (sup0 .c id) ∧ (sup0 .c id).cur.sup = true) ∧
    (Ready .all true (sup0 .c fun c => { c with answer := .came 1 }) ∧ (sup0 .c fun c => { c with answer := .came 1 }).cur.answer = .came 1 ∧
      (sup0 .c fun c => { c with answer := .due }).cur.answer = .due) ∧
    (let s := onPitch pitch1 (sup0 .c fun c => c.setA 1 0x10000)
     Ready .all true s ∧ s.cur.storing = [] ∧ spaceOf (s.cur.getA 1) = some (.global 0x10000) ∧ s.pitchHere = some pitch1) ∧
    (∀ n : Fin 3, let s := reporting (BitVec.ofNat 8 n)
      Ready .all true s ∧ s.scratchOffset 0 64 64 = .ok () ∧ (s.scratchRead 8 (0 + 2) 1 : Byte).toNat = n ∧ s.cur.answer = .none ∧
        (s.acceptPost (s.fieldOf 0) { record := s.tqpRecord 0, pitch := s.here.pitch }).isSome = true) ∧
    (((sup0 .s id).modHere fun t => { t with struck := true }).here.struck = true ∧ (sup0 .s id).here.struck = false ∧ (sup0 .s id).here.strikeDue = none ∧
      ((sup0 .s id).acceptPost ((sup0 .s id).fieldOf 0) { record := (sup0 .s id).strkRecord 0, pitch := none }).isSome = true) ∧
    (let s := ((sup0 .s id).modHere fun t => { t with saveMode := true }).saveNode 0
     Ready .all true s ∧ s.focus.ctx = .s ∧ s.here.saveMode = true ∧ s.here.hbad = [] ∧ s.poison = [] ∧
       (s.saveCross 0).deadPole (saveArea 0) = false ∧ (s.restoreRead 0).restoreBad 0 = none ∧ ((s.restoreRead 0).savedNode 0).isSome = true) ∧
    ((sup0 .c id).focus.ctx ≠ .s ∧ (sup0 .s id).here.saveMode = false) := by
  refine ⟨⟨ready_at (by decide), ⟨_, rfl⟩, ⟨_, rfl⟩, ⟨_, rfl⟩, by decide⟩, ⟨ready_at (by decide), by decide⟩, ⟨ready_at (by decide), by decide⟩,
    ⟨ready_at (by decide), by decide⟩, ?_, by decide, ⟨ready_at (by decide), by decide⟩, by decide⟩
  intro n
  match n with
  | 0 => exact ⟨ready_at (by decide), by rfl, by decide, by decide, by decide⟩
  | 1 => exact ⟨ready_at (by decide), by rfl, by decide, by decide, by decide⟩
  | 2 => exact ⟨ready_at (by decide), by rfl, by decide, by decide, by decide⟩

theorem witness_LateTransitionControl : Ready .all true (sup0 .c fun c => c.setG 1 3) ∧ (sup0 .c fun c => c.setG 1 0).cur.getG 1 = 0 ∧
    (sup0 .c fun c => c.setG 1 1).cur.getG 1 = 1 ∧ (sup0 .c fun c => c.setG 1 2).cur.getG 1 = 2 ∧
    2 < ((sup0 .c fun c => c.setG 1 3).cur.getG 1).toNat := ⟨ready_at (by decide), by decide⟩
/-- Tile 0 with a message in its queue. -/
def homing (q : Req) : State := (two 0 0).modHere fun t => { t with inbox := [.builtin q] }

/-- Four bytes asked for by another tile's context. -/
def req0 (k : ReqKind) (key : Nat) : Req := { kind := k, key := key, size := 4, src := ⟨0, 1, .s, ⟨1, 1⟩⟩ }

theorem witness_HomeServices :
    (∀ q : Req, ((homing q).tile 0).mayTake 0 = some (.builtin q)) ∧
    ((homing (req0 .read 0x100)).bankHeld 0x100 = false ∧ (homing (req0 .read 0x100)).portDown 0x100 = false ∧
      ((homing (req0 .read 0x100)).takeMsg 0 0 ⟨0, 1, .s, ⟨1, 1⟩⟩).poisoned 0x100 4 = false) ∧
    ({ homing (req0 .read 0x100) with poison := [0x20] }.takeMsg 0 0 ⟨0, 1, .s, ⟨1, 1⟩⟩).poisoned 0x100 4 = true ∧
    ((homing (req0 .read (2 ^ 46))).bankHeld (2 ^ 46) = false ∧ (homing (req0 .read (2 ^ 46))).portDown (2 ^ 46) = true ∧
      2 ^ 46 ≤ 2 ^ 46 ∧ 2 ^ 46 < 2 ^ 50) ∧
    (ReqKind.apply (.amo 0) 1 2 0 = some 3 ∧ ReqKind.apply .cas8 1 2 1 = some 2 ∧ ReqKind.apply .cas8 1 2 5 = none) ∧
    ((req0 (.amo 0) 0).posted = false ∧ { req0 (.amo 0) 0 with posted := true }.posted = true) ∧
    ((onPitch pitch1 (two 0 0)).carries 0 ⟨0, 1, .s, ⟨1, 1⟩⟩ = true ∧ (onPitch pitch1 (two 0 0)).carries 0 ⟨0, 1, .s, ⟨1, 2⟩⟩ = false) := by
  refine ⟨fun q => rfl, by decide +kernel⟩

/-- Tile 0 with a response to its C context. -/
def answered (p : Resp) (f : Ctx → Ctx) : State := (at0 .c f).modHere fun t => { t with resps := [p] }

def resp0 : Resp := { ctx := .c, kind := .read, key := 0x100 }

/-- Tile 0, on the pitch, with a user message to a kind that it has or has not. -/
def addressed (kinds : List UserKind) (f : Tile → Tile) : State :=
  (onPitch pitch1 (at0 .m fun c => { c with run := .dispatch })).modHere fun t => f { t with inbox := [.user user0], kinds := kinds }

theorem witness_MessagesAndResponses :
    (((answered { resp0 with posted := true } id).tile 0).resps[0]? = some { resp0 with posted := true } ∧
      (answered resp0 id).here.resps[0]? = some resp0 ∧ resp0.ctx = .c ∧ resp0.posted = false) ∧
    ((answered resp0 fun c => { c with storing := [{ piece := ⟨0, 4, some 1, none⟩, data := 0 }] }).cur.storing =
      { piece := ⟨0, 4, some 1, none⟩, data := 0 } :: [] ∧ ({ piece := ⟨0, 4, some 1, none⟩, data := 0 } : StorePiece).tag = resp0.tag) ∧
    ((answered resp0 fun c => { c with waiting := true }).cur.storing = [] ∧ (answered resp0 fun c => { c with waiting := true }).cur.waiting = true ∧
      (answered resp0 id).cur.waiting = false) ∧
    (((addressed [] id).tile 0).mayTake 0 = some (.user user0) ∧ (addressed [] fun t => { t with struck := true }).here.struck = true ∧
      (addressed [] id).here.struck = false ∧ (two 0 0).carries 0 user0.src = false ∧ (addressed [] id).carries 0 user0.src = true ∧
      (addressed [] id).here.kinds.find? (·.kind = user0.kind) = none ∧
      (addressed [⟨32, 0x100, false, 8⟩] id).here.kinds.find? (·.kind = user0.kind) = some ⟨32, 0x100, false, 8⟩ ∧
      (addressed [] id).here.m.run = .dispatch ∧ (addressed [] id).here.held = false ∧ (addressed [] id).here.switching = false) ∧
    (let s := (at0 .s fun c => { c with reply := .waiting, replyTag := 4 }).modHere fun t =>
        { t with replies := [⟨.s, 4, 7, {}⟩], nacks := [.user { user0 with tag := 4, src := ⟨0, 0, .s, ⟨1, 1⟩⟩ } 3, .user { user0 with answer := false } 3, .barr .s 5] }
     s.here.replies.find? (·.ctx = .s) = some ⟨.s, 4, 7, {}⟩ ∧ s.cur.reply = .waiting ∧ s.cur.replyTag = 4 ∧
       s.here.nacks[0]? = some (.user { user0 with tag := 4, src := ⟨0, 0, .s, ⟨1, 1⟩⟩ } 3) ∧ user0.answer = true ∧
       s.here.nacks[1]? = some (.user { user0 with answer := false } 3) ∧ s.here.nacks[2]? = some (.barr .s 5)) := by decide +kernel

/-- Tile 0 on its pitch, with one command in the copy queue. -/
def copying (c : CopyCmd) (t : Tile → Tile) : State := (onPitch pitch1 (at0 .s id)).modHere fun u => t { u with copy := { u.copy with queue := [c] } }

/-- A plan of two participants on module 0 whose partials have come. -/
def plan2 : Plan := { plan0 with parts := [(0, 0), (0, 1)], partials := [⟨0, 1, [1, 0, 0, 0]⟩, ⟨1, 1, [2, 0, 0, 0]⟩] }

theorem witness_EnginesAndHandlers :
    (∀ k : CoreId, let s := (at0 k.ctx fun c => { c with run := .dispatch }).modHere fun t => t.setCore k { t.core k with
        slots := vecMod (t.core k).slots 3 fun l => { l with valid := true, start := 0x80 } }
      ((((s.settle 0 k).tile 0).core k).pick = some 3 ∧ (((s.settle 0 k).tile 0).core k).slots[3]? = some { valid := true, start := 0x80 } ∧
        (((s.settle 0 k).tile 0).ctx k.ctx).run = .dispatch ∧ ((s.settle 0 k).tile 0).held = false ∧ ((s.settle 0 k).tile 0).struck = false ∧
        ((s.settle 0 k).tile 0).switching = false)) ∧
    (let s := at0 .c fun c => { c with wd := 2 ^ 40 + 1, waiting := true }
     s.cur.run = .running ∧ s.cur.sup = false ∧ s.cur.wdFired = false ∧ 2 ^ (s.here.wdexp .c) < s.cur.wd ∧ s.cur.waiting = true) ∧
    (let s := onPitch pitch1 (cored .c fun c => { c with ports := vecMod c.ports 3 fun p => { p with stage := 2, dests := [.egress 0], words := [word1] } })
     (s.here.core .c).ports[3]? = some { stage := 2, dests := [.egress 0], words := [word1] } ∧ s.here.pitch = some ⟨1, 1⟩ ∧
       [End.egress 0].all (s.hasRoom ⟨1, 1⟩) = true) ∧
    (let g : Ingress := { dests := [.egress 0], words := [(none, word1)] }
     let p : Pitch := { pitch1 with ingress := Vector.replicate 16 g }
     (onPitch p (two 0 0)).pitch? p.id = some p ∧ p.ingress[2]? = some g ∧ g.words = (none, word1) :: [] ∧ p.state = .running ∧
       p.image.depth = none ∧ word1.mark ≠ 3 ∧ g.dests.all ((onPitch p (two 0 0)).hasRoom p.id) = true) := by
  refine ⟨fun k => by cases k <;> decide +kernel, by decide +kernel⟩

theorem witness_EnginesAndHandlers_copy :
    (let c : CopyCmd := { copy0 with desc := 1 ||| (1 <<< 32) ||| (1 <<< 64) ||| (1 <<< 96) ||| (1 <<< 128) }
     (copying c id).copyHead 0 = some c ∧ c.exhausted = false ∧ c.ring = none) ∧
    (let g : RingRef := ⟨0, 0x100, 16, 2, 1, 2⟩
     let c : CopyCmd := { copy0 with ring := some g }
     let s := copying c fun t => t.modSem 1 fun m => { m with count := 1 }
     s.copyHead 0 = some c ∧ c.ring = some g ∧ c.taken = none ∧ (s.here.sem g.free).count ≠ 0) ∧
    ((copying copy0 id).copyHead 0 = some copy0 ∧ copy0.exhausted = true ∧ copy0.ring = none ∧ descSig copy0.desc = none) ∧
    ({ copy0 with desc := 0x830000 }.exhausted = true ∧ descSig ({ copy0 with desc := 0x830000 } : CopyCmd).desc = some 3) ∧
    (let s := copying copy0 fun t => { t with copy := { t.copy with report := [(4, 5)] } }
     s.here.copy.report = (4, 5) :: [] ∧ s.here.s.sup = false ∧ s.here.s.run = .running) := by decide +kernel

theorem witness_EnginesAndHandlers_plans :
    (let s := planned plan2 id
     s.slotPlan 0 0 = some (⟨1, 1⟩, plan2) ∧ plan2.failed = false ∧ plan2.number s.modidx.toNat 0 = some 0 ∧ (1 : Nat) ≠ 0 ∧ 0 % (2 * 1) = 0 ∧
       0 + 1 < plan2.parts.length ∧ plan2.partials.find? (fun x => x.node == 0 && x.span == 1) = some ⟨0, 1, [1, 0, 0, 0]⟩ ∧
       plan2.partials.find? (fun x => x.node == 0 + 1 && x.span == min 1 (plan2.parts.length - 0 - 1)) = some ⟨1, 1, [2, 0, 0, 0]⟩ ∧
       combineAll 0 1 [1, 0, 0, 0] [2, 0, 0, 0] = some [3, 0, 0, 0]) ∧
    (let q := { plan0 with writesDue := [0], result := some [3, 0, 0, 0], dst := 0xA0000 }
     (planned q id).slotPlan 0 0 = some (⟨1, 1⟩, q) ∧ q.writesDue.contains 0 = true ∧ (planned q id).destFaults 0 q 4 = true) ∧
    (let q := { plan0 with signalsDue := [0], result := some [3, 0, 0, 0] }
     (planned q id).slotPlan 0 0 = some (⟨1, 1⟩, q) ∧ q.writesDue.contains 0 = false ∧ q.signalsDue.contains 0 = true ∧ q.writesDue = [] ∧ q.pubDue = false) ∧
    (let q := { plan0 with writesDue := [0], result := some [3, 0, 0, 0], buffer := some 0, pubDue := true }
     let p := { pitch1 with plans := [q] }
     let s := { buffered .c false id with pitches := [p] }
     s.slotPlan 0 0 = some (⟨1, 1⟩, q) ∧ s.destFaults 0 q 4 = false ∧ s.deliveryHeld 0 q 4 = false ∧ q.buffer.isSome = true ∧ q.pubDue = true ∧
       (s.pitch? ⟨1, 1⟩).bind (fun p => p.plans.find? (·.handle = q.handle)) = some q) ∧
    (let q := { plan0 with buffer := some 0, pubDue := true }
     let p := { pitch1 with plans := [q] }
     (onPitch p (two 0 0)).pitch? p.id = some p ∧ p.plans.find? (·.handle = 0x10) = some q ∧ q.pubDue = true ∧ q.writesDue = [] ∧ q.failed = false ∧
       ∀ o ∈ p.plans, o.pubDue = true → o.writesDue = [] → q.buffer.getD 0 ≤ o.buffer.getD 0) ∧
    (let q : ColsetReq := { rank := 0, ctx := .c, desc := 0, list := [(0, 0)], scope := .wafer }
     let p := { pitch1 with colsets := [q] }
     (onPitch p (two 0 0)).pitch? p.id = some p ∧ p.colsets = q :: [] ∧ q.others (two 0 0).modidx.toNat = []) ∧
    ((1 : Nat) ≠ (two 0 0).modidx.toNat ∧ (onPitch pitch1 (two 0 0)).youngest 1 = some pitch1) := by decide +kernel

/-- Tile 0 with its fly's state. -/
def flying (f : Fly) : State := (two 0 0).modHere fun t => { t with fly := f }

theorem witness_CareOfTheModule :
    ((two 0 0).here.susp = false ∧ ((two 0 0).modHere fun t => { t with susp := true }).here.susp = true ∧ (sup0 .c id).cur.sup = true) ∧
    ((at0 .c id).cur.run = .running ∧ (at0 .c id).cur.waiting = false ∧ (at0 .c id).here.clock = .good ∧
      (at0 .c id).cur.replays + 1 < (at0 .c id).here.ltrlim.toNat ∧
      (at0 .c fun c => { c with replays := 2 }).cur.replays + 1 = (at0 .c id).here.ltrlim.toNat) ∧
    ((mqueued [mzero0]).here.matrix.queue ≠ [] ∧ (mqueued [mzero0]).here.clock = .good ∧ 1 + 1 < (mqueued [mzero0]).here.ltrlim.toNat ∧
      2 + 1 = (mqueued [mzero0]).here.ltrlim.toNat) ∧
    (counting 0 0 0x100000).here.cyc.toNat / 2 ^ 20 ≠ (counting 0 0 0x100000).here.window ∧
    (2 ^ 60 ≤ sramKey 0 .scratch 0) ∧
    (troubleOk {} ⟨true, true, 3, true, [(1, [32, 129])]⟩ = true ∧ (({} : Fly).transfer ⟨true, true, 3, true, [(1, [32, 129])]⟩).abandoned ≠ 15) ∧
    (troubleOk { abandoned := 7 } ⟨true, true, 3, true, [(3, [])]⟩ = true ∧ (({ abandoned := 7 } : Fly).transfer ⟨true, true, 3, true, [(3, [])]⟩).abandoned = 15 ∧
      (flying { abandoned := 7 }).here.struck = false ∧ (flying { abandoned := 7 }).here.strikeDue = none) ∧
    (71 : BitVec 7).toNat < 72 ∧
    (let f : Fly := { fixes := [((2, 5), 4)] }
     4 ≤ f.fixesOf (2, 5) ∧ (2, 5) ∉ f.remapped ∧ (2, 5) ∉ f.kept ∧ (∀ e ∈ f.held, e.1 ≠ 2) ∧ (f.remapped.filter fun e => e.1 = 2).length < 16) ∧
    (let f : Fly := { fixes := [((2, 50), 4)], remapped := (List.range 16).map fun j => (2, j) }
     4 ≤ f.fixesOf (2, 50) ∧ (2, 50) ∉ f.remapped ∧ 16 ≤ (f.remapped.filter fun e => e.1 = 2).length) := by decide +kernel

theorem witness_CareOfTheModule_rest :
    ({ held := [(2, 5)] } : Fly).held.find? (fun e => e.1 == 2) = some (2, 5) ∧ 15 < 16 ∧
    (let s := { onPitch pitch1 (two 0 0) with mem := tables }
     s.here.pitch.bind s.pitch? = some pitch1 ∧ s.here.tlb = [] ∧ (s.field (s.fieldOf 0)).cache = [] ∧
       s.walk pitch1.image.root pitch1.image.homes 0x10000 = .leaf { root := 0, page := 0, big := true, pa := 0, scope := .wafer, ro := false }) ∧
    (at0 .c fun c => { c with answer := .due }).cur.answer = .due ∧
    (let p : Post := { record := (two 0 0).strkRecord 0, pitch := none }
     let s := (two 0 0).modField 0 fun f => { f with posts := [p] }
     (s.field 0).posts = p :: [] ∧ (s.field 0).queue.length < 255 ∧ ((s.modField 0 fun f => { f with posts := [] }).acceptPost 0 p).isSome = true ∧
       (s.field 0).manager = true) ∧
    (let s := (two 0 0).modHere fun t => { t with strikeDue := some 0x33 }
     s.here.strikeDue = some 0x33 ∧ s.here.struck = false ∧ (s.field (s.fieldOf 0)).manager = true ∧ s.beingKilled 0 = false) ∧
    (47 < 48 ∧ ((two 0 0).field 0).band ≠ 15 ∧ (5 : BitVec 4) < ((two 0 0).field 0).band ∧
      ∀ e ∈ (two 0 0).tiles, e.2.pitch = none ∨ (two 0 0).fieldOf e.1 ≠ 0) := by decide +kernel
/-- A pitch of one cluster that waits in the queue of class 0, on a module whose TICK is set. -/
def waiting1 : Pitch := { pitch1 with state := .queued }

def placing (p : Pitch) (s : State) : State :=
  { s with tickSet := true, refreshes := 1, pitches := p :: s.pitches, classes := vecMod s.classes p.cls fun l => p.id :: l }

/-- A pitch of the whole wafer, of class 3, and tile 0 held by a running pitch of class 0. -/
def whole : Pitch := { id := ⟨2, 1⟩, image := { cfg := 2, wc := 80, hc := 90 }, cls := 3 }

def crowded : State := placing whole (onPitch pitch1 State.reset)

theorem crowded_takable (x y : Nat) (hx : x < 320) (hy : y < 360) :
    crowded.takable ((crowded.victims (whole.atCluster 0)).flatMap crowded.pairOf).contains x y = true := by
  have hr : crowded.rankAt x y = some (y * 320 + x) := by
    simp [State.rankAt, waferX, waferY, rankOf, crowded, placing, onPitch, State.modHere, State.modTile, State.setTile, hx, hy, State.reset]
  have ht : ∀ r, (crowded.tile r).struck = false ∧ ((crowded.tile r).pitch = none ∨ (crowded.tile r).pitch = some pitch1.id) := by
    intro r
    have e : crowded.tiles = [(0, crowded.tile 0)] := rfl
    by_cases h : r = 0
    · subst h; exact ⟨rfl, .inr rfl⟩
    · have : crowded.tile r = {} := by rw [State.tile, e]; simp [assocGet, Ne.symm h]
      rw [this]; exact ⟨rfl, .inl rfl⟩
  have hv : ((crowded.victims (whole.atCluster 0)).flatMap crowded.pairOf).contains pitch1.id = true := by decide
  obtain ⟨h1, h2 | h2⟩ := ht (y * 320 + x)
  all_goals
    have hm : (crowded.field (fieldAt x y)).manager = true := rfl
    have hw : crowded.vacated.contains (y * waferX + x) = false := rfl
    simp only [State.takable, hr, h1, h2, hm, hv, hw]; rfl

theorem crowded_free : crowded.freeWithout (whole.atCluster 0) = true := by
  simp only [State.freeWithout, State.regionFree, Bool.and_eq_true, List.all_eq_true, List.mem_range]
  refine ⟨⟨by decide, by decide⟩, fun i hi => ?_⟩
  have hi' : i < 115200 := hi
  exact crowded_takable _ _ (by show 0 + i % 320 < 320; omega) (by show 0 + i / 320 < 360; omega)

theorem whole_nowhere_else (g : PitchId → Bool) (i : Nat) (h0 : 0 < i) (h : i < 7200) : crowded.regionFree (whole.atCluster i) g = false := by
  have : ¬(4 * (i % 80) + 320 ≤ 320 ∧ 4 * (i / 80) + 360 ≤ 360) := by omega
  simp only [State.regionFree, Bool.and_eq_false_iff, decide_eq_false_iff_not]
  by_cases hx : 4 * (i % 80) + 320 ≤ 320
  · exact .inl (.inr fun hy => this ⟨hx, hy⟩)
  · exact .inl (.inl hx)

theorem crowded_first (n i : Nat) (h : i + n ≤ 7200) : crowded.firstFit whole n i = none := by
  induction n generalizing i with
  | zero => rfl
  | succ n ih =>
    have hc : crowded.candidate (whole.atCluster i) = none := by
      have : crowded.regionFree (whole.atCluster i) (fun _ => false) = false := by
        rcases Nat.eq_zero_or_pos i with rfl | hp
        · have : crowded.takable (fun _ => false) 0 0 = false := by decide
          simp only [State.regionFree, Bool.and_eq_false_iff, List.all_eq_false, List.mem_range]
          exact .inr ⟨0, by decide, by rw [Bool.not_eq_true]; exact this⟩
        · exact whole_nowhere_else _ i hp (by omega)
      simp [State.candidate, this]
    rw [State.firstFit, hc]
    rcases Nat.lt_or_ge (i + 1) 7200 with hl | hl
    · rw [Nat.mod_eq_of_lt hl]; exact ih _ (by omega)
    · have : n = 0 := by omega
      subst this; rfl

theorem best_taken (s : State) (p : Pitch) (n i : Nat) (h : s.freeWithout (p.atCluster i) = true) :
    s.bestFor p (n + 1) i none = s.bestFor p n ((i + 1) % 7200) (some ((s.victims (p.atCluster i)).length, p.atCluster i)) := by
  show s.bestFor p n ((i + 1) % 7200) (if s.freeWithout (p.atCluster i) then _ else none) = _
  rw [if_pos h]

theorem best_left (s : State) (p : Pitch) (n i : Nat) (b : Option (Nat × Pitch)) (h : s.freeWithout (p.atCluster i) = false) :
    s.bestFor p (n + 1) i b = s.bestFor p n ((i + 1) % 7200) b := by
  show s.bestFor p n ((i + 1) % 7200) (if s.freeWithout (p.atCluster i) then _ else b) = _
  rw [if_neg (by simp [h])]

theorem crowded_rest (n i : Nat) (b : Option (Nat × Pitch)) (h0 : 0 < i) (h : i + n ≤ 7200) : crowded.bestFor whole n i b = b := by
  induction n generalizing i with
  | zero => rfl
  | succ n ih =>
    have : crowded.freeWithout (whole.atCluster i) = false := whole_nowhere_else _ i h0 (by omega)
    rw [best_left _ _ _ _ _ this]
    rcases Nat.lt_or_ge (i + 1) 7200 with hl | hl
    · rw [Nat.mod_eq_of_lt hl]; exact ih _ (by omega) (by omega)
    · have : n = 0 := by omega
      subst this; rfl

theorem witness_PitchLifetimes_preemption :
    crowded.pitch? whole.id = some whole ∧ crowded.tickSet = true ∧ crowded.headPitch = some whole ∧ whole.saved = false ∧
    crowded.firstFit whole 7200 crowded.rotor = none ∧ crowded.bestFor whole 7200 crowded.rotor none = some (1, whole.atCluster 0) ∧
    youngestLowest (crowded.victims (whole.atCluster 0)) = some pitch1 := by
  refine ⟨by decide, by decide, by decide, by decide, crowded_first 7200 0 (by decide), ?_, by decide⟩
  rw [show crowded.rotor = 0 from rfl]
  exact (best_taken crowded whole 7199 0 crowded_free).trans (crowded_rest 7199 1 _ (by decide) (by decide))
/-- The pitch of tile 0 in a state of its life, with a sweep that it has had. -/
def living (st : PitchState) (sw : Option Sweep) : Pitch := { pitch1 with state := st, sweep := sw }

/-- A sweep of a pitch with one quiet tile. -/
def quiet0 : Sweep := ⟨true, 0, 0, 0, 0⟩

/-- Tile 0 on a pitch, with every context at rest. -/
def resting (p : Pitch) (f : Tile → Tile) : State :=
  (onPitch p State.reset).modHere fun t => f { t with s := { t.s with run := .dispatch }, c := { t.c with run := .dispatch }, m := { t.m with run := .dispatch } }

theorem witness_PitchLifetimes_placement :
    (let s := placing waiting1 State.reset
     s.pitch? waiting1.id = some waiting1 ∧ s.tickSet = true ∧ s.headPitch = some waiting1 ∧ waiting1.saved = false ∧
       (s.firstFit waiting1 7200 s.rotor).isSome = true) ∧
    (let p := { waiting1 with saved := true }
     let s := placing p State.reset
     s.pitch? p.id = some p ∧ s.headPitch = some p ∧ p.saved = true ∧ s.regionBroken p = false ∧ (s.candidate p).isSome = true ∧
       ({ s with vacated := [0] }.regionBroken p) = true) := by decide +kernel

theorem witness_PitchLifetimes_loading :
    (let p := living .loading none
     p.state = .loading ∧ p.stopping = false ∧ p.saved = false ∧ p.resolving = false ∧ (onPitch p State.reset).pitch? p.id = some p ∧
       (onPitch p State.reset).listState p = (false, false) ∧ { p with resolving := true }.resolving = true ∧ p.successor = none) ∧
    (let p := { living .loading none with image := { pitch1.image with nodes := [{ x := 0, y := 0, pages := [1] }] } }
     (onPitch p State.reset).listState p = (true, false) ∧ { onPitch p State.reset with mem := [(0, 0x80)] }.listState p = (false, true)) ∧
    (let p := living (.armed 5) none
     p.state = .armed 5 ∧ p.stopping = false ∧ (5 : DWord) ≤ { onPitch p State.reset with tick := 5 }.tick ∧ (onPitch p State.reset).repliesBound p = true) ∧
    (let p := { living (.armed 5) none with egress := Vector.replicate 16 { fed := true } }
     ({ onPitch p State.reset with portals := [(0, { mode := 2 })] }).repliesBound p = false) := by decide +kernel

theorem witness_PitchLifetimes_sweeps :
    ((living .queued none).state = .queued ∧ (living .loading none).state = .loading ∧ { living .loading none with stopping := true }.stopping = true) ∧
    (let p := living .running (some quiet0)
     let s := resting p id
     s.pitch? p.id = some p ∧ p.state = .running ∧ p.successor = none ∧ p.sweep = some (s.sweepOf p) ∧ (s.sweepOf p).quiet = true ∧
       (s.sweepOf p).sent = (s.sweepOf p).recvd ∧ (s.sweepOf p).msgSent = (s.sweepOf p).msgDone ∧ p.ended = true) ∧
    (let p := living .running none
     ¬p.sweep = some ((resting p id).sweepOf p)) ∧
    (let p := living .killed (some quiet0)
     p.state = .killed ∧ p.successor = none ∧ p.behind = none ∧ p.sweep = some ((resting p id).sweepOf p) ∧ ¬(living .killed none).sweep = some ((resting p id).sweepOf p)) ∧
    (let p := living .preempting none
     let s := resting p fun t => { t with held := true }
     p.state = .preempting ∧ s.pairRests [p.id] = true ∧ (∃ q ∈ s.tilesOf p.id, (s.tile q).saveMode = false) ∧ p.preemptAt ≤ s.tick ∧
       ∀ q ∈ (resting p fun t => { t with held := true, saveMode := true }).tilesOf p.id,
         ((resting p fun t => { t with held := true, saveMode := true }).tile q).saveMode = true) ∧
    (let s := (at0 .c id).modHere fun t => { t with held := true, cyc := 65536 }
     s.here.held = true ∧ s.cur.run = .running ∧ 65536 ≤ s.here.cyc.toNat - s.here.heldAt.toNat) ∧
    (let a := { pitch1 with successor := some (⟨1, 2⟩, true) }
     let b := { pitch1 with id := ⟨1, 2⟩, behind := some ⟨1, 1⟩ }
     let s := { resting a id with pitches := [a, b] }
     s.splicing 0 = some (a, b, true) ∧ a.runs = true ∧ s.tileQuiet 0 = true ∧ s.here.streamsEnded = true ∧ s.here.switching = false ∧
       s.here.struck = false ∧ (s.modHere fun t => { t with switching := true }).here.switching = true) := by decide +kernel
/-- A configuration record: configuration 1, its OP and its INST. -/
def recorded (op inst : Nat) : BitVec 512 := BitVec.ofNat 512 (1 + op * 2 ^ 16 + inst * 2 ^ 64)

/-- The module with configuration 1 known and fetched, and its pitch running. -/
def known1 : State := { onPitch pitch1 State.reset with directory := [(1, { valid := true })], images := [(1, pitch1.image)] }

theorem witness_HostEdgeAndLinks_records :
    ((0 : Nat) < 65536 ∧ (known1.hostQueue 0).state = .idle ∧ (assocGet ({} : DirEntry) known1.directory (recCfg (recorded 0 0))).valid = true ∧
      assocFind known1.images (recCfg (recorded 0 0)) = some pitch1.image) ∧
    (recordOk (recorded 0 0) = true ∧ recOp (recorded 0 0) = 0) ∧
    (recordOk (recorded 2 1) = true ∧ recOp (recorded 2 1) = 2 ∧ known1.spliceTarget (recorded 2 1) = some pitch1) ∧
    (recordOk (recorded 3 1) = true ∧ recOp (recorded 3 1) = 3 ∧ known1.spliceTarget (recorded 3 1) = some pitch1) ∧
    (let rd := recorded 1 1
     recordOk rd = true ∧ recOp rd = 1 ∧ known1.pitch? ⟨recCfg rd, recInst rd⟩ = some pitch1 ∧ pitch1.state ≠ .struck ∧ recInst rd ≠ 0 ∧
       pitch1.ingress[recStream rd]? = some {} ∧ ({} : Ingress).ended = false) ∧
    ({ known1 with queues := [(0, { state := .bound, record := some (recorded 0 0) })] }.hostQueue 0).record = some (recorded 0 0) := by
  decide +kernel

/-- The pitch of tile 0 with an egress stream 0, its portal, and a queue bound to its ingress stream 0. -/
def egressing (e : Egress) (portal : Portal) : State :=
  { onPitch { pitch1 with egress := Vector.replicate 16 e } State.reset with
    portals := [(0, portal)], queues := [(0, { state := .bound, stream := some (⟨1, 1⟩, 0) })] }

/-- The stream's end. -/
def endToken : Token := { payload := 0, tag := 0, mark := 3 }

theorem witness_HostEdgeAndLinks_streams :
    ((0 : Nat) < 65536 ∧ ((egressing {} {}).hostQueue 0).state = .bound ∧ (tokensOf (List.replicate 16 0)).all tokenOk = true ∧
      (List.replicate 16 (0 : Byte)).length = 16) ∧
    (({ known1 with queues := [(65535, { state := .closed })] }.hostQueue 65535).state = .closed ∧ (65535 : Nat) < 65536 ∧
      (tokensOf (List.replicate 64 0)).all tokenOk = true ∧ (List.replicate 64 (0 : Byte)).length = 64) ∧
    (let e : Egress := { words := [word1] }
     (egressing e { mode := 1, ring := 1 }).egressHead ⟨1, 1⟩ 0 = some (e, word1, { mode := 1, ring := 1 }) ∧ e.suppress = 0 ∧
       (egressing e { mode := 2, op := 3 }).egressHead ⟨1, 1⟩ 0 = some (e, word1, { mode := 2, op := 3 }) ∧ word1.mark ≠ 3 ∧
       e.pending.length < 256 ∧ (3 : Byte).toNat < 4) ∧
    (let e : Egress := { words := [endToken] }
     (egressing e { mode := 2 }).egressHead ⟨1, 1⟩ 0 = some (e, endToken, { mode := 2 }) ∧ endToken.mark = 3) ∧
    (let e : Egress := { pending := [{ tag := 0, op := 0, addr := 0, v := 1, cmp := 0 }] }
     let p : Pitch := { pitch1 with egress := Vector.replicate 16 e }
     (egressing e {}).pitch? ⟨1, 1⟩ = some p ∧ p.egress[0]? = some e ∧ e.pending = { tag := 0, op := 0, addr := 0, v := 1, cmp := 0 } :: [] ∧
       ((egressing e {}).hostQueue ((egressing e {}).portalOf p 0).rq.toNat).stream = some (⟨1, 1⟩, 0)) := by decide +kernel

/-- The module after reset with a link in a state. -/
def linked (port : Nat) (st : LinkState) : State := { State.reset with links := [(port, { state := st })] }

theorem witness_HostEdgeAndLinks_registers :
    (State.reset.tickSet = false ∧ State.reset.modidx = 0 ∧ { State.reset with modidx := 1 }.linkUsed = false) ∧
    (let s := { State.reset with topo := topoWord 1 0 true true false, swtick := 5, tick := 5 }
     topoArm s.topo = true ∧ s.swtick ≤ s.tick) ∧
    (topoArm State.reset.topo = false ∧ topoBank State.reset.topo = false ∧ topoArm (topoWord 1 1 false true true) = false ∧
      topoBank (topoWord 1 1 false true true) = true) ∧
    { State.reset with mailbox := { control := 1 } }.mailbox.control = 1 := by decide +kernel

theorem witness_HostEdgeAndLinks_links :
    ((95 : Nat) < 96 ∧ (State.reset.portLink 95).state = .down ∧ ∀ st, ((linked 95 st).portLink 95).state = st) ∧
    ((linked 0 .cal).tickSet = false ∧ { linked 0 .cal with modidx := 1 }.modidx ≠ 0 ∧ ((linked 0 .up).portLink 0).waiting = []) ∧
    (let pkt (ver : Half) (dst : Nat) (body : PacketBody) : Packet := { ver := ver, dst := dst, src := 3, body := body }
     let reply : PacketBody := .planNack 1 ⟨0x10, (0, 0)⟩ 3
     let part : PacketBody := .partialSum 1 ⟨0x10, (0, 0)⟩ 0 0 1 4 [0, 0, 0, 0] {}
     let own := (linked 0 .up).modidx.toNat
     let ver := topoVer (linked 0 .up).topo
     (versioned (pkt 9 own reply).body = false ∧ (pkt 9 own reply).dst = own) ∧ ((pkt ver own part).ver = ver ∧ (pkt ver 7 part).dst ≠ own ∧
       ∀ tick n, (pkt ver 7 part).body ≠ .beacon tick n) ∧ ¬(versioned (pkt 9 own part).body = false ∨ (pkt 9 own part).ver = ver)) ∧
    ((255 : Nat) ≠ State.reset.modidx.toNat ∧ (255 : Nat) < 256 ∧ 255 ∉ State.reset.silentModules) ∧
    ((0 : Nat) < State.reset.ranked ∧ State.reset.neighbour 0 1 = some 1 ∧ State.reset.neighbour 0 2 = some 320 ∧
      (State.reset.tile 0).meshDown.getLsbD 1 = false ∧ State.reset.pitches = []) ∧
    (115199 < State.reset.ranked ∧ (State.reset.tile 115199).struck = false ∧ (State.reset.tile 115199).strikeDue = none) ∧
    ((47 : Nat) < 48 ∧ (State.reset.field 47).manager = true) ∧
    (321 < State.reset.ranked ∧ (State.reset.tile 321).clock = .good ∧
      ((State.reset.modTile 321 fun t => { t with clock := .realigning }).tile 321).clock = .realigning) ∧
    (State.reset.tset = none ∧ { State.reset with tset := some 5 }.tset = some 5 ∧ { State.reset with tset := some 5 }.tickSet = false) := by
  refine ⟨⟨by decide, by decide, fun st => by cases st <;> rfl⟩, by decide +kernel, ?_⟩
  refine ⟨⟨by decide, ⟨by decide, by decide, fun _ _ => by simp⟩, by decide⟩, by decide +kernel, by decide +kernel, by decide +kernel,
    by decide +kernel, by decide +kernel, by decide +kernel⟩

/-- Tile 321 (column 1, row 1) takes its clock from a direction that is not its first preference; its neighbours, struck or not,
have theirs from beyond the wafer's edge. -/
def clocked (struck : Bool) : State :=
  let from' (d : BitVec 2) (q : Nat) : Nat × Tile := (q, { clkCur := some d, struck := struck })
  { State.reset with tiles := [(321, { clkCur := some (BitVec.ofNat 2 ((State.reset.prefs 321).headD 0 + 1)) }),
      from' 0 1, from' 0 322, from' 0 2, from' 3 320, from' 3 641, from' 3 640] }

/-- What the boot ranks depends on no tile's state. -/
theorem prefs_tiles (s : State) (l : List (Nat × Tile)) (r : Nat) : ({ s with tiles := l } : State).prefs r = s.prefs r := by
  have hreach : ∀ n d last seen, ({ s with tiles := l } : State).reach n d last seen = s.reach n d last seen := by
    intro n
    induction n with
    | zero => intros; rfl
    | succ n ih => intro d last seen; simp only [State.reach, ih]; rfl
  have hroot : ∀ f, ({ s with tiles := l } : State).clockRoot f = s.clockRoot f := fun _ => rfl
  have hdepth : ∀ q, ({ s with tiles := l } : State).clockDepth q = s.clockDepth q := by
    intro q
    have hf : ({ s with tiles := l } : State).fieldOf q = s.fieldOf q := rfl
    unfold State.clockDepth
    generalize 2400 = n
    rw [hroot, hf]
    cases s.clockRoot (s.fieldOf q) with
    | none => rfl
    | some x => exact congrArg (fun l : List (Nat × Nat) => (l.find? fun e => e.1 == q).map (·.2)) (hreach n 0 [x] [(x, 0)])
  have hkey : ∀ d, ({ s with tiles := l } : State).clockKey r d = s.clockKey r d := by
    intro d
    simp only [State.clockKey, hdepth]; rfl
  simp only [State.prefs, State.usable, hkey]; rfl

theorem prefs_length (s : State) (r : Nat) : (s.prefs r).length = 4 := by
  simp [State.prefs]

theorem clocks_same (f : Clock → Clock) (l : List Nat) : ∀ s : State,
    ∃ ts, l.foldl (fun s' q => s'.modTile q fun t => { t with clock := f t.clock }) s = { s with tiles := ts } := by
  induction l with
  | nil => exact fun s => ⟨s.tiles, rfl⟩
  | cons a l ih => intro s; obtain ⟨ts, h⟩ := ih (s.modTile a fun t => { t with clock := f t.clock }); exact ⟨ts, h⟩

theorem modTiles_same (f : Clock → Clock) (l : List Nat) : ∀ s : State,
    let u := l.foldl (fun s' q => s'.modTile q fun t => { t with clock := f t.clock }) s
    (u.vacant = s.vacant ∧ u.dead = s.dead) ∧ u.vacated = s.vacated ∧ (∀ q, (u.tile q).clkCur = (s.tile q).clkCur ∧ (u.tile q).struck = (s.tile q).struck) ∧
      ∀ q, q ∉ l → u.tile q = s.tile q := by
  induction l with
  | nil => exact fun s => ⟨⟨rfl, rfl⟩, rfl, fun _ => ⟨rfl, rfl⟩, fun _ _ => rfl⟩
  | cons a l ih =>
    intro s
    obtain ⟨h1, h2, h3, h4⟩ := ih (s.modTile a fun t => { t with clock := f t.clock })
    refine ⟨h1, h2, fun q => ?_, fun q hq => ?_⟩
    · refine ⟨(h3 q).1.trans ?_, (h3 q).2.trans ?_⟩ <;> by_cases e : q = a <;> simp [e, State.tile_modTile_other]
    · rw [List.mem_cons, not_or] at hq
      exact (h4 q hq.2).trans (State.tile_modTile_other s hq.1 _)

theorem fedThrough_end {s : State} {r q : Nat} (h : q ≠ r) (hs : s.clockSource q = none) : ∀ n, s.fedThrough r n q = false
  | 0 => rfl
  | n + 1 => by simp [State.fedThrough, h, hs]

theorem fedThrough_step {s : State} {r q u : Nat} (h : q ≠ r) (hs : s.clockSource q = some u) (hu : ∀ n, s.fedThrough r n u = false) :
    ∀ n, s.fedThrough r n q = false
  | 0 => rfl
  | n + 1 => by simp [State.fedThrough, h, hs, hu]

theorem clocked_away (b : Bool) {q : Nat} (h : q = 1 ∨ q = 322 ∨ q = 320 ∨ q = 641) : q ∉ (clocked b).subtree 321 := by
  have e1 : ∀ n, (clocked b).fedThrough 321 n 1 = false := fedThrough_end (by decide) (by cases b <;> decide +kernel)
  have e2 : ∀ n, (clocked b).fedThrough 321 n 2 = false := fedThrough_end (by decide) (by cases b <;> decide +kernel)
  have e3 : ∀ n, (clocked b).fedThrough 321 n 320 = false := fedThrough_end (by decide) (by cases b <;> decide +kernel)
  have e4 : ∀ n, (clocked b).fedThrough 321 n 640 = false := fedThrough_end (by decide) (by cases b <;> decide +kernel)
  have e5 : ∀ n, (clocked b).fedThrough 321 n 322 = false := fedThrough_step (u := 2) (by decide) (by cases b <;> decide +kernel) e2
  have e6 : ∀ n, (clocked b).fedThrough 321 n 641 = false := fedThrough_step (u := 640) (by decide) (by cases b <;> decide +kernel) e4
  intro hm
  have := (List.mem_filter.1 hm).2
  obtain rfl | rfl | rfl | rfl := h
  · exact absurd this (by simp [e1])
  · exact absurd this (by simp [e5])
  · exact absurd this (by simp [e3])
  · exact absurd this (by simp [e6])

theorem clocked_neighbour (b : Bool) (d : Nat) : ∃ q, (clocked b).neighbour 321 d = some q ∧ (q = 1 ∨ q = 322 ∨ q = 320 ∨ q = 641) ∧
    ((clocked b).tile q).struck = b ∧ ((clocked b).tile q).clock = .good := by
  match d with
  | 0 => exact ⟨1, by cases b <;> decide +kernel⟩
  | 1 => exact ⟨322, by cases b <;> decide +kernel⟩
  | 2 => exact ⟨641, by cases b <;> decide +kernel⟩
  | n + 3 => exact ⟨320, show (clocked b).neighbour 321 3 = _ ∧ _ by cases b <;> decide +kernel⟩

theorem clocked_feeds (b : Bool) (d : Nat) : ((clocked b).assertHold 321).canFeed 321 d = !b := by
  obtain ⟨⟨hv, -⟩, hw, h3, h4⟩ := modTiles_same (fun c => if c = .good then .hold else c) ((clocked b).subtree 321) (clocked b)
  obtain ⟨q, hn, hq, hs, hc⟩ := clocked_neighbour b d
  have hn' : ((clocked b).assertHold 321).neighbour 321 d = some q := by
    rw [← hn]
    simp only [State.neighbour, State.xOf, State.yOf, State.rankAt, State.assertHold, State.modClocks, hv]
  have ht : ((clocked b).assertHold 321).tile q = (clocked b).tile q := h4 q (clocked_away b hq)
  have hw' : ((clocked b).assertHold 321).vacated = [] := hw
  simp [State.canFeed, hn', ht, hs, hc, hw']

theorem clocked_tries (b : Bool) : ((clocked b).assertHold 321).nextSources 321 ≠ [] := by
  obtain ⟨-, -, h3, -⟩ := modTiles_same (fun c => if c = .good then .hold else c) ((clocked b).subtree 321) (clocked b)
  have hp : ((clocked b).assertHold 321).prefs 321 = State.reset.prefs 321 := by
    obtain ⟨ts, h⟩ := clocks_same (fun c => if c = .good then .hold else c) ((clocked b).subtree 321) (clocked b)
    rw [show (clocked b).assertHold 321 = _ from h, prefs_tiles]
    exact prefs_tiles State.reset _ 321
  have hc : (((clocked b).assertHold 321).tile 321).clkCur = some (BitVec.ofNat 2 ((State.reset.prefs 321).headD 0 + 1)) := (h3 321).1
  obtain ⟨a, b', c, d, he⟩ : ∃ a b' c d, State.reset.prefs 321 = [a, b', c, d] := by
    have := prefs_length State.reset 321
    match State.reset.prefs 321, this with
    | [a, b', c, d], _ => exact ⟨a, b', c, d, rfl⟩
  simp only [State.nextSources, hp, hc, he, List.headD_cons, Option.map_some, Option.getD_some]
  have hne : a ≠ (BitVec.ofNat 2 (a + 1)).toNat := by simp; omega
  generalize (BitVec.ofNat 2 (a + 1)).toNat = cur at hne ⊢
  have h1 : (a == cur) = false := by simp [hne]
  simp only [List.findIdx?_cons, h1, List.findIdx?_nil]
  cases h2 : b' == cur <;> cases h3 : c == cur <;> cases h4 : d == cur <;> simp_all

theorem witness_HostEdgeAndLinks_clocks :
    (321 < (clocked b).ranked ∧ ((clocked b).tile 321).clock = .good ∧
      ∀ a, (clocked b).clockSource 321 = some a → ((clocked b).tile a).clock ≠ .hold ∧ ((clocked b).tile a).clock ≠ .realigning) ∧
    (∃ d, (((clocked false).assertHold 321).nextSources 321).find? (((clocked false).assertHold 321).canFeed 321) = some d) ∧
    (((clocked true).assertHold 321).nextSources 321).find? (((clocked true).assertHold 321).canFeed 321) = none := by
  refine ⟨⟨by cases b <;> decide +kernel, by cases b <;> decide +kernel, fun a ha => ?_⟩, ?_, ?_⟩
  · obtain ⟨q, hn, -, -, hc⟩ := clocked_neighbour b (BitVec.ofNat 2 ((State.reset.prefs 321).headD 0 + 1)).toNat
    have : (clocked b).clockSource 321 = some q := hn
    rw [this, Option.some.injEq] at ha
    rw [← ha, hc]; decide
  · refine Option.isSome_iff_exists.1 (List.find?_isSome.2 ?_)
    obtain ⟨d, hd⟩ := List.exists_mem_of_ne_nil _ (clocked_tries false)
    exact ⟨d, hd, clocked_feeds false d⟩
  · exact List.find?_eq_none.2 fun d _ => by simp [clocked_feeds true d]

/-- A program on a tile whose accumulators and summary registers hold something. -/
def storesProg : State := (prog [0xFAC0, 0x5828] id).modHere fun t =>
  { t with z := Mem.write [] 4 4 (7 : Word), h := Mem.write [] 8 4 (9 : Word) }

theorem witness_StepKeepsMemoryCanonical : storesProg.Canonical ∧ ∃ t, step storesProg = .next t :=
  ⟨⟨by decide +kernel, show ∀ e ∈ storesProg.tiles, (e.2.z.wf = true ∧ e.2.h.wf = true) ∧
      ∀ x ∈ e.2.saved, x.2.z.wf = true ∧ x.2.h.wf = true by decide +kernel⟩, _, rfl⟩

/-! ### Further clauses -/

theorem witness_GroupsThatTrapBeforeTheyRun_checks :
    (∀ n : Fin 2, let s := { prog (encode (.add 3 1 2)) id with agenda := [.mismatch 0 .c (n + 1)] }
      let f := { s with agenda := [] }.focusOn 0 .c
      let g : State := { f with focus := { f.focus with len := 1, base := (encode (.add 3 1 2)).headD 0, times := 0 } }
      0 < s.ranked ∧ f.here.clock = .good ∧ f.cur.run = .running ∧ f.waitingTrap = none ∧ f.cur.sup = false ∧
        decode f.words = .ok (.add 3 1 2) 1 ((encode (.add 3 1 2)).headD 0) ∧ f.badWord 1 = none ∧
        (g.groupDefect .all false = none ∧ g.focus.times = 0)) ∧
    (let s := { prog (encode (.fadd 3 1 2)) fun c => (c.setG 1 0x7F7FFFFF).setG 2 0x7F7FFFFF with agenda := [.mismatch 0 .c 2] }
     let f := { s with agenda := [] }.focusOn 0 .c
     let g : State := { f with focus := { f.focus with len := (encode (.fadd 3 1 2)).length, base := (encode (.fadd 3 1 2)).getLastD 0, times := 0 } }
     decode f.words = .ok (.fadd 3 1 2) (encode (.fadd 3 1 2)).length ((encode (.fadd 3 1 2)).getLastD 0) ∧
       f.badWord (encode (.fadd 3 1 2)).length = none ∧ (g.groupDefect .all false = none ∧ g.focus.times = 0) ∧
       (FFmt.f32.add f.cur.plainMode (f.cur.getG 1).toNat (f.cur.getG 2).toNat).flags &&& (fOF ||| fUF) ≠ 0) := by
  decide +kernel

theorem witness_PointerWindows_invalid :
    (let s := onPitch pitch1 (at0 .c fun c => c.setA 1 0xFEC0000100000000)
     spaceOf (s.cur.getA 1) = some (.buffer 1 0) ∧ s.pitchHere = some pitch1 ∧ pitch1.handles[1]? = none) ∧
    (at0 .c id).pitchHere = none ∧ spaceOf 0xFF00000000000100 = some (.cluster 0x100) ∧ spaceOf scratch0 = some (.scratch 0 0) ∧
    spaceOf 0xFF80000000000008 = some (.lane 8) ∧ spaceOf 0xFFC0000000000000 = none := by decide +kernel

theorem witness_HardwareLoops_straddling : ∀ i : CtxId, i = .c ∨ i = .s →
    let s := at0 i fun c => { c with loops := [⟨0x30, 0x41, 2⟩] }
    s.cur.loops = ⟨0x30, 0x41, 2⟩ :: [] ∧ 0x30 ≤ s.cur.pc.toNat ∧ s.cur.pc.toNat < 0x41 ∧ 0x41 < s.cur.pc.toNat + 2 * s.focus.len ∧
      s.cur.sup = false ∧ s.focus.ctx = i := by
  rintro i (rfl | rfl) <;> decide

/-- A context of tile 0, on its pitch, points into the global window, and a remap holds the banks that the tables stand in. -/
def walking (i : CtxId) : State :=
  { onPitch pitch1 (pointing i 0x10000) with mem := tables }.modHere fun t => { t with fly := { t.fly with held := [(0, 0)] } }

theorem delayed_at {s : State} {u : Purpose} {ea : DWord} {n : Nat}
    (h : (s.targetDue s.focus.rank u ea && match s.checkAccess s.focus.rank (s.focus.ctx == .c) u ea n with
      | .ok _ => true
      | .error code => ofPage code) = true) : Delayed s u ea n := by
  rw [Bool.and_eq_true] at h
  refine ⟨h.1, ?_⟩
  have := h.2
  split at this <;> simp_all [ofPage]

theorem witness_AllowedDeniedDelayed :
    (Allowed (pointing .s scratch0) .load (scratch0 + 0x9FFFC) 4 ⟨sramKey 0 .scratch 0x9FFFC, none, .system, false, none, 0⟩) ∧
    Denied (pointing .s scratch0) .load (scratch0 + 0xA0000) 4 0x06 ∧ Denied (pointing .s scratch0) .store 0xFFC0000000000000 4 0x05 ∧
    (Delayed (walking .s) .load 0x10000 4 ∧ Delayed (walking .s) .store 0x10000 4 ∧ Delayed (walking .c) .load 0x10000 4) := by
  refine ⟨?_, ?_, ?_, delayed_at (by decide +kernel), delayed_at (by decide +kernel), delayed_at (by decide +kernel)⟩ <;>
    ((first | unfold Allowed | unfold Denied); decide +kernel)

theorem denied_at {s : State} {u : Purpose} {ea : DWord} {n : Nat} {code : Byte}
    (h : s.checkAccess s.focus.rank (s.focus.ctx == .c) u ea n = .error code) (hc : ofPage code = false) : Denied s u ea n code :=
  ⟨h, fun e => by rw [hc] at e; cases e⟩

/-- The C context with a1 a pointer, VSTRIDE, and p1 a predicate of elements 0 and 2. -/
def vstrided (p : DWord) (stride : Word) : State := at0 .c fun c => { (c.setA 1 p).setP 1 5 with vstride := stride }

theorem witness_VectorLoads_faults :
    (Denied (vpoint (scratch0 + 8)) .load (scratch0 + 8) 128 0x04 ∧ Denied (vpoint (scratch0 + 2)) .load (scratch0 + 2) 4 0x04 ∧
      (vpoint scratch0).cur.sup = false ∧ (5 : Word) ≠ 0 ∧ ((vpoint scratch0).cur.getP 2) = 0) ∧
    (let s := { vpoint scratch0 with poison := [sramKey 0 .scratch 8 / 8] }
     let g : Target := ⟨sramKey 0 .scratch 0, none, .system, false, none, 0⟩
     Allowed s .load scratch0 128 g ∧ (s.readSpans g 5 8).map (·.2) = [] ++ ⟨sramKey 0 .scratch 0, 16, none, none⟩ :: [] ∧
       AtOnce s ([] ++ ⟨sramKey 0 .scratch 0, 16, none, none⟩ :: []) ∧ s.poisoned (sramKey 0 .scratch 0) 16 = true ∧
       s.portFails 0 (sramKey 0 .scratch 0) = false) ∧
    (let g : Target := ⟨sramKey 0 .scratch 0, none, .system, false, none, 0⟩
     activeElems (5 : Word) 32 = [0] ++ 2 :: [] ∧
     (∀ stride : Fin 3, let s := vstrided scratch0 (if stride = 0 then 0x100000 else if stride = 1 then 2 else 4)
       Allowed s .load scratch0 4 g ∧ AtOnce s ([0].map fun _ => g.piece 4) ∧ Good s ([0].map fun _ => g.piece 4) ∧ AtOnce s []) ∧
     Denied (vstrided scratch0 0x100000) .load (scratch0 + 2 * 0x100000) 4 0x05 ∧ (0x100000 : Word).toNat % 4 = 0 ∧
     ((2 : Word).toNat % 4 ≠ 0 ∧ (spaceOf (scratch0 + 4)).isSome = true) ∧
     ({ vstrided scratch0 4 with poison := [sramKey 0 .scratch 8 / 8] }.poisoned (sramKey 0 .scratch 8) 4 = true)) ∧
    (spaceOf (lane0 + 0x3FC) = some (.lane 0x3FC) ∧ spaceOf (lane0 + 0x400) = some (.lane 0x400) ∧ spaceOf (lane0 + 2) = some (.lane 2)) := by
  refine ⟨⟨denied_at (by decide) (by decide), denied_at (by decide) (by decide), by decide⟩, ⟨by unfold Allowed; decide +kernel, by rfl,
    atOnce_at (by decide +kernel), by decide +kernel, by decide +kernel⟩, ⟨by decide, fun n => ?_, denied_at (by decide +kernel) (by decide), by decide,
    by decide, by decide +kernel⟩, by decide⟩
  match n with
  | 0 | 1 | 2 => exact ⟨by unfold Allowed; decide +kernel, atOnce_at (by decide +kernel), by unfold Good; decide +kernel, atOnce_at (by decide +kernel)⟩

theorem witness_VectorStores_faults :
    (Denied (vpoint (scratch0 + 8)) .store (scratch0 + 8) 128 0x04 ∧ Denied (vpoint 0xFEC0000000000000) .store 0xFEC0000000000000 64 0x0A) ∧
    (let g : Target := ⟨sramKey 0 .scratch 0, none, .system, false, none, 0⟩
     Allowed (vstrided scratch0 2) .store scratch0 4 g ∧ Denied (vstrided scratch0 0x100000) .store (scratch0 + 2 * 0x100000) 4 0x05) := by
  exact ⟨⟨denied_at (by decide) (by decide), by decide, by decide⟩, by unfold Allowed; decide +kernel,
    denied_at (by decide +kernel) (by decide)⟩

theorem witness_VectorConversions_stochastic :
    let s := at0 .c fun c => { c.setP 1 5 with amode := 4 }
    Ready .all false s ∧ s.cur.stochastic = true ∧ convertTakes .f32 .bf16 false 0x3F800001 = true ∧
      convertTakes .f32 .bf16 false 0x7F800000 = false := ⟨ready_at (by decide), by decide +kernel⟩

set_option maxRecDepth 16000 in
theorem witness_MatrixIssue_operands :
    (let s := shaped 0 0x00200808 0x10
     Ready .all false s ∧ s.cur.sup = false ∧ s.matDefect s.cur.fmt s.cur.mshape 0 true false false = none ∧ s.gangOf 0 s.cur.gang = none) ∧
    (shapeM 0x00200808 ≠ 0 ∧ shapeN 0x00200808 ≠ 0 ∧ shapeK 0x00200808 ≠ 0) ∧
    (let s := shaped 0 0x00200808 0
     spaceOf 0xFFC0000000000000 = none ∧ spaceOf (scratch0 + 32) ≠ none ∧ (scratch0 + 32).toNat % 64 ≠ 0 ∧ Accepts.takes .sram (.global 0x10000) = false ∧
       Accepts.takes .sram (.scratch 0 0) = true ∧ s.here.scratchSize < 0x9FE40 + 512 ∧ 0x9FE00 + 512 ≤ s.here.scratchSize ∧
       (clusterMember 0 = s.memberOf 0 ∧ 32768 * s.here.shared.toNat < clusterLocal 0 + 512) ∧ clusterMember 0x100 ≠ s.memberOf 0 ∧
       s.pitchHere = none) ∧
    (let s := shaped 0 0x00200808 0
     s.matOperand 1 .sram 64 (s.cur.getA 1) 512 = .ok (.at (sramKey 0 .scratch 0)) ∧
       s.matOperand 2 .sram 64 (s.cur.getA 1 + 32) 512 = .error (.trap 0x04 2 (scratch0 + 32))) ∧
    (let s := { onPitch pitch1 (two 0 0) with mem := tables }
     spaceOf 0x10000 = some (.global 0x10000) ∧ s.pitchHere = some pitch1 ∧ pagesOf 0x10000 512 = [1] ∧
       s.walkDue 0 pitch1.image.root pitch1.image.homes (max 0x10000 (1 * 65536)) = false ∧
       s.translate 0 pitch1.image.root pitch1.image.homes (max 0x10000 (1 * 65536)) =
         .leaf { root := 0, page := 0, big := true, pa := 0, scope := .wafer, ro := false } ∧ s.homeOf 0 0x10000 = some 0 ∧
       s.within .wafer 0 0 = true ∧ 0x10000 / 2 ^ 25 = 0 ∧
       (∀ l, (onPitch pitch1 (two 0 0)).translate 0 pitch1.image.root pitch1.image.homes 0x10000 ≠ .leaf l) ∧
       (onPitch pitch1 (two 0 0)).translate 0 pitch1.image.root pitch1.image.homes 0x10000 ≠ .bad) ∧
    ((two 8 24).cur.getG 1 ≠ 0 ∧ ((two 8 0).cur.getG 1).toNat % 16 ≠ 0 ∧ ((two 16 0).cur.getG 1).toNat < shapeN 0x00200808 * 4) ∧
    ((mqueued (List.replicate 8 mzero0)).cur.storing = [] ∧ (at0 .c fun c => { c with posted := [(0, 0)] }).cur.posted ≠ []) := by
  refine ⟨⟨ready_at (by decide), by decide +kernel⟩, by decide, by decide +kernel, ⟨by rfl, by rfl⟩, ?_, by decide, by decide⟩
  refine ⟨by decide, by decide, by decide, by decide +kernel, by decide +kernel, by decide, by decide, by decide, fun l => ?_, by decide +kernel⟩
  rw [show (onPitch pitch1 (two 0 0)).translate 0 pitch1.image.root pitch1.image.homes 0x10000 = .final from by decide +kernel]
  simp

theorem witness_MatrixProducts_sound : let s := mqueued [mma0]
    (s.tile 0).clocked = true ∧ (∀ row ∈ mma0.aKeys ++ mma0.bKeys, ∀ k ∈ row, k < flyEnd → (s.tile (k / 2 ^ 25)).fly.sound = true) ∧
      (mma0.aKeys[0]? ≠ none ∧ mma0.bKeys[0]? ≠ none) := by decide +kernel

/-- The summary registers with a word that the SRAM can no longer correct. -/
def spoiled (n : Nat) : State := (holding [(0, 4)]).modHere fun t => { t with hbad := [n] }

theorem witness_Summary_bad_words : Ready .all false (spoiled 512) ∧ (spoiled 512).focus.ctx = .c ∧ (spoiled 512).cur.sup = false ∧
    512 * (1 : HReg).toNat ∈ (spoiled 512).here.hbad ∧ (holding []).here.hbad = [] := ⟨ready_at (by decide), by decide⟩

/-- The head of a HEAVY image of 4,096 bytes at an offset of scratch, which is 128-byte aligned alone. -/
def bigImage : State := { at0 .c fun c => c.setA 1 (scratch0 + 128) with
  mem := Mem.putBytes [] (sramKey 0 .scratch 128) ((writeImage (emptySumm 5 0 0)).take 16) }

set_option maxRecDepth 16000 in
theorem witness_SummaryImages_checks :
    (Ready .all false bigImage ∧ bigImage.here.hbad = [] ∧ (scratch0 + 128).toNat % 128 = 0 ∧ (scratch0 + 128).toNat % 4096 ≠ 0 ∧
      bigImage.imagePieces .load (scratch0 + 128) 0 128 = .ok (pieces128.map fun p => { p with key := p.key + 128 }) ∧
      imageSize (imgNat ((pieces128.map fun p => { p with key := p.key + 128 }).flatMap fun p =>
        bytesOfNat 16 (bigImage.mem.readNat p.key p.size)) 0 1) = 4096) ∧
    (¬(1 ≤ (bigImage.here.summ 0).kind ∧ (bigImage.here.summ 0).kind ≤ 6) ∧ bigImage.cur.sup = false) ∧
    ((1 ≤ (imaged.here.summ 0).kind ∧ (imaged.here.summ 0).kind ≤ 6) ∧ (scratch0 + 64).toNat % imageSize (imaged.here.summ 0).kind ≠ 0 ∧
      Denied imaged .store (scratch0 + 0xA0000) 16 0x06 ∧ Denied imaged .load (scratch0 + 0xA0000) 16 0x06) := by
  refine ⟨⟨ready_at (by decide), by decide, by decide, by decide, by rfl, by decide +kernel⟩, by decide +kernel, by decide +kernel, by decide,
    denied_at (by decide) (by decide), denied_at (by decide) (by decide)⟩

theorem witness_Barriers_refused :
    (∀ w : Word, w = 0x80 ∨ w = 0x181 ∨ w = 0x82 ∨ w = 0x81C20080 → (barred {} w).cur.sup = false ∧ (barred {} w).cur.storing = []) ∧
    (Scope.lane = .lane ∧ Scope.core = .core) ∧
    ((0x181 : Word).toNat / 256 % 2 ^ 17 ≠ 0 ∧ (0x181 : Word).getLsbD 31 = false) ∧ ((barred {} 0x80).here.bar 2).configured = false ∧
    (((barred { configured := true, members := 2 } 0x82).here.bar 2).members ≤ (0x82 : Word).toNat % 32) ∧
    ((0x81C20080 : Word).getLsbD 31 = true ∧ State.reset.ranked ≤ (0x81C20080 : Word).toNat / 256 % 2 ^ 17 ∧
      (0x81C1FF80 : Word).toNat / 256 % 2 ^ 17 < State.reset.ranked) ∧
    (let s := { barred { configured := true, members := 2 } 0x81 with }.modCur fun c => { c with storing := [{ piece := ⟨0, 4, some 1, none⟩, data := 0 }] }
     s.cur.storing ≠ [] ∧ (s.here.bar 2).configured = true) := by
  refine ⟨?_, by decide +kernel⟩
  rintro w (rfl | rfl | rfl | rfl) <;> decide

theorem witness_Publishing_checks :
    (let p := { pitch1 with image := { pitch1.image with homes := [] } }
     let s := onPitch p (at0 .s fun c => c.setG 1 5)
     Ready .all false s ∧ s.pitchHere = some p ∧ p.handles.length ≤ (s.cur.getG 1).toNat ∧ s.cur.sup = false) ∧
    (let s := buffered .s false fun c => { c with pts := ⟨0, [7]⟩ }
     s.readOnlyBuffer 0 = false ∧
       (s.modHere fun t => { t with copy := { t.copy with queue := [{ copy0 with dst := 0xFEC0000000000000, born := 7 }] } }).engineWrites
         .wafer pitch1.id 0 = true) ∧
    (let p := { pitch1 with x0 := 1 }
     let s := ({ buffered .s false id with pitches := [p] }).modTile 0 fun t => { t with pitch := some p.id }
     s.pitchHere = some p ∧ s.within .tile 0 (s.handleHome p) = false ∧ s.handleHome p ≠ s.focus.rank ∧ s.cur.sup = false) ∧
    (spaceOf 0xFEC0000000000000 = some (.buffer 0 0) ∧ (0 : Nat) < (⟨0x10000, 0x20000, 256⟩ : Buffer).size ∧
      spaceOf 0xFF00000000000100 = some (.cluster 0x100) ∧ spaceOf scratch0 = some (.scratch 0 0) ∧ spaceOf lane0 = some (.lane 0)) ∧
    ((walking .s).targetDue 0 .load 0x10000 = true ∧ (buffered .s false id).targetDue 0 .load 0x10000 = false) := by
  refine ⟨⟨ready_at (by decide), by decide +kernel⟩, by decide +kernel, by decide +kernel, by decide +kernel, by decide +kernel⟩

/-- A plan of module 0's tile 0 and of module 1's tile 0. -/
def planFar : Plan := { plan0 with parts := [(0, 0), (1, 0)] }

theorem witness_Collectives_modules :
    (let s := planned planFar id
     s.planOf { pitch1 with plans := [planFar] } 0 (s.cur.getG 1) = some planFar ∧ planFar.others s.modidx.toNat = [1] ∧
       planFar.freeing = false ∧ s.slotPlan 0 0 = some (⟨1, 1⟩, planFar) ∧ (planFar.statusOf 0).trigd = false ∧
       ¬(planFar.failed = true ∨ (planFar.others s.modidx.toNat = [] ∧ planFar.lockedFor = []) ∨
          ((planFar.statusOf 0).trigger = some s.focus.ctx ∧ ∀ m ∈ planFar.others s.modidx.toNat, (planFar.statusOf 0).heard.contains m = true)) ∧
       s.badContribution planFar.src (planFar.count * collectiveSize planFar.op) = none) ∧
    (let q := { planFar with freeing := true, freedHeard := [1] }
     q.freeing = true ∧ ∀ m ∈ q.others 0, q.freedHeard.contains m = true) ∧
    (let q := { planFar with status := [{ rank := 0, trigger := some .c, heard := [1] }] }
     (q.statusOf 0).trigger = some .c ∧ ∀ m ∈ q.others 0, (q.statusOf 0).heard.contains m = true) ∧
    (let s := { planned plan0 id with poison := [sramKey 0 .scratch 0 / 8] }
     s.badContribution plan0.src (plan0.count * collectiveSize plan0.op) = some 0 ∧ s.cur.sup = false) ∧
    (let q := { plan0 with op := 12 }
     ¬∀ e ∈ blocksOf (collectiveSize q.op) q.count ((planned q id).mem.bytes (sramKey 0 .scratch q.src) (q.count * collectiveSize q.op)),
       contributionOk q.op e = true) ∧
    (planned plan0 id).planOf { pitch1 with plans := [plan0] } 0 0x20 = none ∧
    spaceOf (scratch0 + 0xFF004) ≠ none ∧ (scratch0 + 0xFF004).toNat % 8 ≠ 0 := by decide +kernel

theorem witness_SystemInstructions_posts :
    (let p : Post := { record := (sup0 .s id).strkRecord 0, pitch := none, held := true }
     let s := (sup0 .s id).modField 0 fun f => { f with posts := [p] }
     Ready .all true s ∧ s.fieldOf 0 = 0 ∧ (s.field 0).posts.find? (fun q => q.held) = some p ∧ p.group ≠ some (0, .s) ∧
       ((reporting 1).tqpRecord 0).flags.getLsbD 0 = true ∧ ((reporting 0).tqpRecord 0).flags.getLsbD 0 = false ∧
       ((reporting 0).acceptPost 0 { record := (reporting 0).tqpRecord 0, pitch := none }).isSome = true) ∧
    (let s := (reporting 0).modField 0 fun f => { f with queue := List.replicate 255 ((reporting 0).tqpRecord 0) }
     255 ≤ (s.field 0).queue.length) ∧
    (3 < (4 : Byte).toNat ∧ (reporting 4).scratchOffset 0 64 64 = .ok () ∧
      (sup0 .s fun c => { c with answer := .due }).cur.answer ≠ .none) ∧
    (let s := (sup0 .s id).modHere fun t => { t with saveMode := true }
     ({ s with poison := [sramKey 0 .scratch 0 / 8] }.saveBad 0 = some scratch0 ∧ (s.modHere fun t => { t with hbad := [0] }).saveBad 0 = some 0 ∧
       ({ s with poison := [flyKey 0 0x1F00000 / 8] }.restoreRead 0).restoreBad 0 = some 0x1F00000 ∧
       (flyKey 0 0x1F00000 / 8 ∈ ({ s with poison := [flyKey 0 0x1F00000 / 8] }.restoreRead 0).poison ∧ saveArea 0 ≤ 8 * (flyKey 0 0x1F00000 / 8) ∧
         8 * (flyKey 0 0x1F00000 / 8) < saveArea 0 + saveBytes)) ∧ s.saveBad 0 = none ∧ s.restoreBad 0 = none ∧
       ((s.modHere fun t => { t with fly := { t.fly with abandoned := 15 } }).saveCross 0).deadPole (saveArea 0) = true) ∧
    (0x030 ≤ (0x030 : KReg).toNat ∧ (0x035 : KReg).toNat ≤ 0x035 ∧ (∃ w, (at0 .s id).kread 0 .s 0x018 = some w) ∧
      (at0 .s id).focus.ctx ≠ .c) := by
  refine ⟨⟨ready_at (by decide), by decide +kernel⟩, by decide +kernel, ⟨by decide, by rfl, by decide⟩, by decide +kernel, by decide, by decide, ⟨_, rfl⟩, by decide⟩

theorem witness_HomeServices_ports :
    (let s := homing (req0 .write 0x100)
     (s.tile 0).messages.length ≤ 1 ∧ s.portFails 0 0x100 = false ∧ (s.tile (0x100 / 2 ^ 25)).fly.sound = true ∧
       (s.tile (lineOf 0x100 / 2 ^ 25)).fly.sound = true ∧ s.deadPole 0x100 = false ∧ flyEnd ≤ sramKey 0 .scratch 0) ∧
    ((homing (req0 .read (2 ^ 46))).portFails 0 (2 ^ 46) = true) ∧
    ((homing (req0 .write 0x100)).modHere fun t => { t with fly := { t.fly with abandoned := 15 } }).deadPole 0x100 = true ∧
    ((req0 .line 0x104).kind = .line ∧ ({ homing (req0 .line 0x104) with poison := [0x20] }).poisoned (lineOf 0x104) 64 = true) := by
  decide +kernel

theorem witness_MessagesAndResponses_xact :
    (let s := answered { resp0 with tag := 3 } fun c => { c with waiting := true, xact := some { todo := [⟨0x100, 4, some 1, none⟩], sent := true, tag := 3 } }
     s.here.clocked = true ∧ s.cur.xact = some { todo := [⟨0x100, 4, some 1, none⟩], sent := true, tag := 3 } ∧ s.here.resps[0]? = some { resp0 with tag := 3 } ∧
       resp0.bad = none ∧ resp0.kind ≠ .line ∧ resp0.kind ≠ .renew ∧ ({ resp0 with bad := some 0x21 } : Resp).bad = some 0x21) ∧
    (let e : StorePiece := { piece := ⟨0, 4, some 1, none⟩, data := 0 }
     (answered resp0 fun c => { c with storing := [e] }).cur.storing = e :: [] ∧ e.piece.home ≠ none ∧
       ({ e with piece := ⟨0, 4, none, none⟩ } : StorePiece).piece.home = none) ∧
    ((addressed [⟨32, 0x100, false, 8⟩] id).here.m.due = none) := by decide +kernel

/-- A descriptor of one element of four bytes, with strides and no semaphore. -/
def move0 : CopyCmd := { copy0 with desc := 2 ||| (1 <<< 32) ||| (1 <<< 64) ||| (1 <<< 96) ||| (1 <<< 128), dst := scratch0 + 64 }

theorem witness_EnginesAndHandlers_elements :
    (let s := copying move0 id
     s.copyHead 0 = some move0 ∧ move0.exhausted = false ∧ move0.ring = none ∧ s.targetDue 0 .engineRead scratch0 = false ∧
       s.targetDue 0 .engineWrite (scratch0 + 64) = false ∧ s.bankHeld (sramKey 0 .scratch 0) = false ∧
       s.poisoned (sramKey 0 .scratch 0) (descSize move0.desc) = false ∧ flyEnd ≤ sramKey 0 .scratch 64 ∧ s.deadPole (sramKey 0 .scratch 64) = false ∧
       s.portFails 0 (sramKey 0 .scratch 64) = false ∧ descSize move0.desc ≤ 16 ∧
       { s with poison := [sramKey 0 .scratch 0 / 8] }.poisoned (sramKey 0 .scratch 0) (descSize move0.desc) = true) ∧
    (let s := (copying { move0 with src := 0x10000 } fun t => { t with fly := { t.fly with held := [(0, 0)] } })
     let s := { s with mem := tables }
     s.targetDue 0 .engineRead 0x10000 = true) ∧
    (let g : RingRef := ⟨0, 0x100, 2, 2, 1, 2⟩
     let c : CopyCmd := { move0 with ring := some g, taken := some (scratch0 + 0x100) }
     (copying c id).copyHead 0 = some c ∧ ¬((scratch0 + 0x100).toNat ≤ (scratch0 + 0x100).toNat ∧
       (scratch0 + 0x100).toNat + descSize c.desc ≤ (scratch0 + 0x100).toNat + g.slot)) ∧
    (let c : CopyCmd := { copy0 with desc := 0x830000 }
     (copying c id).copyHead 0 = some c ∧ ((copying c id).here.sem 3).count ≠ 0xFFFF ∧
       (((copying c id).modHere fun t => t.modSem 3 fun m => { m with count := 0xFFFF }).here.sem 3).count = 0xFFFF) ∧
    ((at0 .s id).bound 0 .s = false ∧ (at0 .s id).cur.replays < 8 ∧ (at0 .s id).here.clocked = true ∧
      (at0 .s fun c => { c with run := .halted }).here.s.run = .halted) := by decide +kernel

theorem copying_element : (∃ a b, (copying move0 id).checkAccess 0 false .engineRead scratch0 (descSize move0.desc) = .ok a ∧
    (copying move0 id).checkAccess 0 false .engineWrite (scratch0 + 64) (descSize move0.desc) = .ok b) ∧
    (copying { move0 with src := lane0 } id).checkAccess 0 false .engineRead lane0 (descSize move0.desc) = .error 0x06 :=
  ⟨⟨⟨sramKey 0 .scratch 0, none, .system, false, none, 0⟩, ⟨sramKey 0 .scratch 64, none, .system, false, none, 0⟩, by decide +kernel, by decide +kernel⟩, by decide +kernel⟩

theorem witness_EnginesAndHandlers_ends :
    (let g : Ingress := { dests := [.egress 0], words := [(some 4, { word1 with mark := 3 })], bound := [4, 5] }
     g.words = (some 4, { word1 with mark := 3 }) :: [] ∧ (∃ b ∈ g.bound, some b ≠ some 4) ∧
       ∀ b ∈ { g with bound := [4] }.bound, some b = some 4) ∧
    (let q := { plan0 with signalsDue := [0], status := [{ rank := 0, trigd := true }] }
     q.signalsDue.filter (· ≠ 0) = [] ∧ q.writesDue = [] ∧ q.pubDue = false ∧ q.told = false ∧ q.others 0 = [] ∧ q.key.lead.1 = 0 ∧
       (planned q id).slotPlan 0 0 = some (⟨1, 1⟩, q) ∧ ((planned q id).pitch? ⟨1, 1⟩).bind (fun o => o.plan? q.key) = some q ∧
       ((planned q id).here.sem q.target).count ≠ 0xFFFF) ∧
    ({ plan0 with signalsDue := [0, 1] }.signalsDue.filter (· ≠ 0) ≠ []) ∧
    (let q := { plan2 with routed := [(0, 1)] }
     q.routed.contains (0, 1) = true ∧ plan2.routed.contains (0, 1) = false ∧
       combineAll 12 1 [1, 0, 0, 0] [2, 0, 0, 0] = none) ∧
    (let q := { plan0 with writesDue := [0], result := some [3, 0, 0, 0] }
     (planned q id).destFaults 0 q 4 = false ∧ (planned q id).deliveryHeld 0 q 4 = false ∧ q.buffer = none) := by decide +kernel

theorem witness_EnginesAndHandlers_setup :
    (let q : ColsetReq := { rank := 0, ctx := .c, desc := 1 <<< 32, list := [(0, 0)], scope := .wafer }
     let p := { pitch1 with colsets := [q] }
     let s := onPitch p (at0 .c fun c => { c with colset := .waiting })
     let a := { q with answers := [s.answerFor p q.desc false (q.list.map (·.2))] }
     s.pitch? p.id = some p ∧ p.colsets = q :: [] ∧ p.asks = [] ∧ p.setup = none ∧ q.others s.modidx.toNat = [] ∧ q.asked = none ∧ q.plan = none ∧
       ((s.tile q.rank).ctx q.ctx).colset = .waiting ∧ s.firstFailure a = none ∧ a.slot = some 0) ∧
    (let q : ColsetReq := { rank := 0, ctx := .c, desc := 1 <<< 32, list := [(0, 7)], scope := .wafer }
     let p := { pitch1 with colsets := [q] }
     let s := onPitch p (at0 .c fun c => { c with colset := .waiting })
     (s.firstFailure { q with answers := [s.answerFor p q.desc false (q.list.map (·.2))] }).isSome = true) ∧
    (let q : ColsetReq := { rank := 0, ctx := .c, desc := 1 <<< 32, list := [(0, 0)], scope := .wafer }
     let p := { pitch1 with colsets := [q], plans := (List.range 16).map fun k => { plan0 with handle := BitVec.ofNat 16 k } }
     let s := onPitch p (at0 .c fun c => { c with colset := .waiting })
     let a := { q with answers := [s.answerFor p q.desc false (q.list.map (·.2))] }
     s.firstFailure a = none ∧ a.slot = none) ∧
    ((onPitch pitch1 (two 0 0)).pitches.filter (fun p => p.id.cfg == 1) = [pitch1] ∧ pitch1.colsets = [] ∧ (1 : Nat) ≠ (two 0 0).modidx.toNat) := by
  decide +kernel

theorem witness_CareOfTheModule_ladders :
    (let s := at0 .c fun c => { c with replays := 1 }
     s.cur.run = .running ∧ s.here.ltrlim.toNat = 3 ∧ 1 + 1 < s.here.ltrlim.toNat ∧ 2 + 1 = s.here.ltrlim.toNat ∧ ¬s.here.ltrlim.toNat ≤ 2) ∧
    (let s := mqueued [mma0]
     s.here.matrix.queue.head? = some mma0 ∧ 0 < mma0.chunks ∧ s.here.clock = .good) ∧
    (let s := { prog (encode (.skclr 1)) id with focus := { rank := 0, ctx := .c, len := 1, base := 0 } }
     s.atSummary 0 .c = true) ∧
    (let t := ((two 0 0).modHere fun t => { t with step := 4, stretches := 16 }).here
     t.ltrwin.toNat < t.stretches + 1 ∧ t.step ≠ 0 ∧ (two 0 0).here.stretches + 1 ≤ (two 0 0).here.ltrwin.toNat ∧ (two 0 0).here.step = 0 ∧
       (two 0 0).here.winPosted = false) ∧
    ((counting 0 0 0x100000).here.window < (counting 0 0 0x100000).here.cyc.toNat / 2 ^ 20 ∧
      (counting 0 0 0xFFFFF).here.cyc.toNat / 2 ^ 20 ≤ (counting 0 0 0xFFFFF).here.window) ∧
    ((counting 0 0 65536).here.thrWindow < (counting 0 0 65536).here.cyc.toNat / 65536 ∧
      (counting 0 0 65535).here.cyc.toNat / 65536 ≤ (counting 0 0 65535).here.thrWindow) ∧
    (State.reset.refreshed = 0 ∧ { State.reset with refreshes := 1, tick := 1024 }.tick.toNat / 1024 ≠ { State.reset with tick := 1024 }.refreshSpan ∧
      { State.reset with refreshes := 1, tick := 1023 }.refreshed ≠ 0) := by decide +kernel

theorem witness_CareOfTheModule_fly :
    ((onPitch pitch1 (two 0 0)).here.pitch ≠ none ∧ 131 < 132 ∧ 2047 < 2048 ∧ 7 < 8) ∧
    (let f : Fly := { fixing := [8], weak := [(8, 3)] }
     f.fixing.contains 8 = true ∧ f.weak.contains (8, (3 : BitVec 7).toNat) = true ∧ f.weak.contains (8, (4 : BitVec 7).toNat) = false) ∧
    (let s := { onPitch pitch1 (two 0 0) with mem := tables }
     (∀ k ∈ s.walkKeys pitch1.image.homes 0x10000 walkLevels pitch1.image.root, s.bankHeld k = false) ∧
       (∀ k ∈ s.walkKeys pitch1.image.homes 0x10000 walkLevels pitch1.image.root, flyEnd ≤ k ∨ (s.tile (k / 2 ^ 25)).fly.sound = true) ∧
       (∃ k ∈ (walking .s).walkKeys pitch1.image.homes 0x10000 walkLevels pitch1.image.root, (walking .s).bankHeld k = true) ∧
       { s with poison := [0x200] }.walk pitch1.image.root pitch1.image.homes 0x10000 = .bad ∧
       (onPitch pitch1 (two 0 0)).walk pitch1.image.root pitch1.image.homes 0x10000 = .final) := by decide +kernel

theorem witness_CareOfTheModule_queues :
    (let p : Post := { record := (two 0 0).strkRecord 0, pitch := some ⟨1, 1⟩ }
     let s := (onPitch pitch1 (two 0 0)).modField 0 fun f => { f with posts := [p] }
     (s.field 0).posts = p :: [] ∧ p.held = false ∧ p.group = none ∧ (s.field 0).queue.length < 255 ∧ s.pitch? ⟨1, 1⟩ = some pitch1 ∧
       pitch1.state = .running ∧ p.record.cause ≠ 0x23) ∧
    (let p : Post := { record := (two 0 0).strkRecord 0, pitch := none, held := true, group := some (0, .s) }
     let s := (two 0 0).modField 0 fun f => { f with posts := [p] }
     (s.field 0).posts.findIdx? (·.held) = some 0 ∧ (s.field 0).posts[0]? = some p ∧ p.group = some (0, .s)) ∧
    (({ (two 0 0).strkRecord 0 with flags := 0 } : Record).flags.getLsbD 0 = false ∧ ({ (two 0 0).strkRecord 0 with flags := 1 } : Record).flags.getLsbD 0 = true) ∧
    (let s := (two 0 0).modHere fun t => { t with strikeDue := some 0x33 }
     s.boundTile 0 = false) ∧
    (devicesOk [] = true ∧ devicesOk (List.replicate 16 1) = true ∧ devicesOk (List.replicate 17 1) = false ∧ State.reset.tier2 = tier2Of []) := by
  decide +kernel

theorem witness_PitchLifetimes_loader :
    (let s := placing waiting1 State.reset
     s.tickSet = true ∧ s.refreshed ≠ 0 ∧ s.headPitch = some waiting1 ∧ { s with refreshes := 0 }.refreshed = 0 ∧ State.reset.tickSet = false) ∧
    (let p := living .loading none
     (onPitch p State.reset).listHeld p = false ∧ (onPitch p State.reset).locksFit p = true ∧ p.stopping = false) ∧
    (let p := living .running (some quiet0)
     (resting p fun t => { t with s := { t.s with run := .halted }, c := { t.c with run := .halted } }).allHalted p.id = true ∧ p.ended = true ∧
       { p with image := { p.image with channels := [{ src := .ingress 0, dests := [] }] }, ingress := Vector.replicate 16 { used := true, dests := [.egress 0] } }.ended = false) ∧
    ((at0 .c id).bound 0 .c = false) := by decide +kernel

theorem witness_PitchLifetimes_saving :
    (let p := living .preempting none
     let s := resting p fun t => { t with held := true, saveMode := true }
     s.pairRests [p.id] = true ∧ (∀ q ∈ s.tilesOf p.id, (s.tile q).saveMode = true) ∧ (s.tilesOf p.id).Nodup ∧
       (∀ q ∈ s.tilesOf p.id, s.saveBad q = none ∧ (s.tile q).fly.sound = true ∧ s.deadPole (saveArea q) = false) ∧
       (∀ q ∈ s.tilesOf p.id, q < s.ranked ∧ (s.tile q).pitch = some p.id) ∧ s.fatalDue p.id = false ∧
       (s.modField 0 fun f => { f with posts := [{ record := s.hwRecord 0 none 0x20 0 0 true false 0, pitch := some p.id }] }).fatalDue p.id = true ∧
       ∃ q ∈ s.tilesOf p.id, ({ s with poison := [sramKey 0 .scratch 0 / 8] }).saveBad q = some scratch0) ∧
    (let p := { living .loading none with saved := true }
     let s := onPitch p State.reset
     s.regionBroken p = false ∧ { s with vacated := [0] }.regionBroken p = true ∧ s.listHeld p = false ∧ s.listState p = (false, false) ∧
       (∀ q ∈ s.savedTiles p, s.restoreBad q = none ∧ (s.tile q).fly.sound = true) ∧ (s.region p).Nodup ∧ s.fatalDue p.id = false) ∧
    (let a := { pitch1 with successor := some (⟨1, 2⟩, true) }
     let b := { pitch1 with id := ⟨1, 2⟩, behind := some ⟨1, 1⟩ }
     let s := { resting a id with pitches := [a, b] }
     s.splicing 0 = some (a, b, true) ∧ s.tileQuiet 0 = true ∧ emptyAt b.image (s.xOf 0 - b.x0) (s.yOf 0 - b.y0) = true) := by
  decide +kernel

theorem eraseDups_nodup {α : Type} [BEq α] [LawfulBEq α] : ∀ l : List α, l.Nodup → l.eraseDups = l
  | [], _ => rfl
  | a :: l, h => by
    obtain ⟨h1, h2⟩ := List.nodup_cons.1 h
    rw [List.eraseDups_cons, List.filter_eq_self.2 fun x hx => by simp; rintro rfl; exact h1 hx, eraseDups_nodup l h2]

/-- The locks of more pages than a field's cache may lock. -/
def manyLocks : List Lock := (List.range 12289).map fun k => ⟨⟨9, 9⟩, 0, k, false⟩

/-- A loading pitch whose field has them. -/
def full1 : State := { onPitch (living .loading none) State.reset with fields := [(0, { locks := manyLocks })] }

theorem field_locks (s : State) (l : List Lock) : (({ s with fields := [(0, { locks := l })] } : State).field 0).locks = l := rfl

theorem many_distinct (n : Nat) : (((List.range n).map fun k => (⟨⟨9, 9⟩, 0, k, false⟩ : Lock)).map fun k => (k.root, k.big, k.page)).eraseDups.length = n := by
  rw [List.map_map, eraseDups_nodup _ (List.Nodup.map (fun a b e => by simpa using e) List.nodup_range), List.length_map, List.length_range]

theorem full_locked (s : State) (p : Pitch) (n f : Nat) (h : (s.field f).locks = (List.range n).map fun k => ⟨⟨9, 9⟩, 0, k, false⟩) :
    n ≤ s.lockedAfter p f := by
  have := many_distinct n
  rw [← h] at this
  simp only [State.lockedAfter, this]
  exact Nat.le_add_right _ _

theorem witness_PitchLifetimes_locks : (∀ l, ({ onPitch (living .loading none) State.reset with fields := [(0, { locks := l })] } : State).listState
    (living .loading none) = (false, false)) ∧ full1.locksFit (living .loading none) = false := by
  refine ⟨fun _ => rfl, ?_⟩
  have hl := full_locked full1 (living .loading none) 12289 0 (field_locks _ _)
  have hf : fieldsOf (living .loading none) = [0] := by decide +kernel
  rw [State.locksFit, hf, List.all_cons, Bool.and_eq_false_iff]
  exact .inl (decide_eq_false (Nat.not_le.2 (Nat.lt_of_lt_of_le (by decide) hl)))

theorem witness_HostEdgeAndLinks_queues :
    (imageGood pitch1.image = true ∧ known1.portalsOk { pitch1.image with cfg := recCfg (recorded 0 0) } 0 = true ∧
      imageGood { pitch1.image with wc := 0 } = false) ∧
    (recordOk (recorded 4 0) = false ∧ ((State.reset.hostQueue 0).state = .idle) ∧ (assocGet ({} : DirEntry) State.reset.directory 1).valid = false ∧
      known1.spliceTarget (recorded 2 7) = none ∧ assocFind State.reset.images 1 = none) ∧
    (known1.pitch? ⟨1, 7⟩ = none ∧ ({} : Ingress).over = false ∧ ({ ended := true, used := true } : Ingress).over = true) ∧
    (let bs : List Byte := List.replicate 16 0
     (bs.length = 16 ∧ 48 < 64 ∧ 48 % bs.length = 0 ∧ (tokensOf bs).all tokenOk = true ∧ ¬48 % 32 = 0) ∧ (tokenOf bs).mark ≠ 3) ∧
    (let s := egressing {} {}
     (s.hostQueue 0).credit ≠ 0 ∧ s.fedStruck (s.hostQueue 0) = false ∧ (s.hostQueue 0).stream = some (⟨1, 1⟩, 0) ∧
       s.otherBound 0 (s.hostQueue 0) = false) ∧
    (let s := { onPitch { pitch1 with ingress := Vector.replicate 16 { bound := [0, 1] } } State.reset with
        queues := [(0, { state := .bound, stream := some (⟨1, 1⟩, 0) })] }
     s.otherBound 0 (s.hostQueue 0) = true) ∧
    (({ State.reset with queues := [(0, { state := .bound, credit := 0 })] }.hostQueue 0).credit = 0 ∧
      ({ State.reset with queues := [(0, { state := .bound })] }.hostQueue 0).stream = none) ∧
    ¬((64 : Nat) = 64 ∧ (16 : Nat) = 0) := by decide +kernel

theorem witness_HostEdgeAndLinks_egress :
    (let e : Egress := { words := [word1], firstHalf := some word1 }
     (egressing e { mode := 2, op := 4 }).egressHead ⟨1, 1⟩ 0 = some (e, word1, { mode := 2, op := 4 }) ∧ 4 ≤ (4 : Byte).toNat ∧ e.firstHalf = some word1 ∧
       ({ words := [word1] } : Egress).firstHalf = none) ∧
    (let e : Egress := { words := [word1], suppress := 1, goal := crcToken 0xFFFFFFFF word1 }
     (egressing e { mode := 1, ring := 1 }).egressHead ⟨1, 1⟩ 0 = some (e, word1, { mode := 1, ring := 1 }) ∧ e.suppress = 1 ∧
       crcToken e.recheck word1 = e.goal ∧ crcToken e.recheck word1 ≠ ({ e with goal := 0 } : Egress).goal) := by decide +kernel

theorem witness_HostEdgeAndLinks_topology :
    (let s := { State.reset with swtick := 5 }
     let w := topoWord 1 0 true true false
     (topoArm w && topoNbank w != topoBank s.topo && topoNver w != topoVer s.topo) = true ∧ s.tick < s.swtick ∧
       { s with tick := 5 }.swtick ≤ { s with tick := 5 }.tick ∧ (topoArm (topoWord 1 0 false true false)) = false) ∧
    (let s := { State.reset with topo := topoWord 1 0 true true false, swtick := 5, tick := 4 }
     topoArm s.topo = true ∧ s.swtick ≤ s.tick + 1 ∧ s.tset = none ∧ (5 : DWord) ≤ 5 ∧ s.tick < 5) ∧
    (State.reset.linkTrained = false ∧ { State.reset with linkTrained := true }.linkTrained = true ∧ 65535 < 65536 ∧ 4095 < 4096 ∧
      (0x1010 ≤ 0x1010 ∧ 0xFFFF < 0x10000 ∧ 0x10400 ≤ 0x10400 ∧ 0xFFFFF < 0x100000)) := by decide +kernel

/-- A good header flit of a packet, with these numbers. -/
def flit0 (seq ack : BitVec 10) (p : Packet) : Flit := { seq := seq, ack := ack, pkt := p, part := p.body.len }

theorem witness_HostEdgeAndLinks_flits :
    (let p : Packet := { ver := 0, dst := 0, src := 3, body := .message { user0 with args := [] } 0 }
     let f := flit0 0 0 p
     let s := linked 0 .up
     f.good = true ∧ (s.portLink 0).state = .up ∧ f.seq = (s.portLink 0).expect ∧ f.part = f.pkt.body.len ∧ f.pkt.dst = s.modidx.toNat ∧
       (versioned f.pkt.body = true ∧ ¬f.pkt.ver ≠ topoVer s.topo) ∧ (0 : Nat) < s.ranked ∧ (onPitch pitch1 s).carries 0 user0.src = true ∧
       s.carries 0 user0.src = false ∧ s.ranked ≤ 115200) ∧
    (let p : Packet := { ver := 9, dst := 0, src := 3, body := .message user0 0 }
     versioned p.body = true ∧ p.ver ≠ topoVer State.reset.topo) ∧
    (let p : Packet := { ver := 9, dst := 0, src := 3, body := .beacon 4 5 }
     let f := flit0 7 0 p
     let l : Link := { state := .up, unacked := [f, { f with seq := 8 }], next := 9 }
     (({ f with ack := 9 } : Flit).ack - f.seq).toNat ≤ l.unacked.length ∧ l.waiting = [] ∧ f.seq ≠ l.expect ∧ p.body.kind = 5) ∧
    (let p : Packet := { ver := 0, dst := 7, src := 3, body := .planNack 1 ⟨0x10, (0, 0)⟩ 3 }
     p.body.kind ≠ 5 ∧ p.dst ≠ State.reset.modidx.toNat ∧ State.reset.routeTo 7 = none ∧
       { State.reset with bankA := Vector.replicate 256 0x8005 }.routeTo 7 = some 5) := by decide +kernel

theorem witness_HostEdgeAndLinks_answers :
    (let m : UserMsg := { user0 with tag := 4, src := ⟨0, 0, .s, ⟨1, 1⟩⟩ }
     let s := { linked 0 .up with abroad := [m] }
     s.awaited 0 .s 4 = some m ∧ (linked 0 .up).awaited 0 .s 4 = none) ∧
    (let s := { planned planFar id with links := [(0, { state := .up })] }
     s.remotePlan 1 planFar.key = some (⟨1, 1⟩, planFar) ∧ (linked 0 .up).remotePlan 1 planFar.key = none ∧
       (s.pitch? ⟨1, 1⟩).bind (fun x => x.plan? planFar.key) = some planFar ∧ planFar.failed = false ∧ planFar.arriving = [] ∧
       ¬((1 : Nat) = 0 ∧ (1 : Nat) = planFar.parts.length)) ∧
    (let s := onPitch { pitch1 with plans := [] } State.reset
     s.pitches = [{ pitch1 with plans := [] }] ∧ pitch1.active = true ∧ pitch1.plans = [] ∧ pitch1.crosses 1 0 3 = false) ∧
    ((95 : Nat) < 96 ∧ ((linked 95 .cal).portLink 95).state = .cal ∧ (linked 95 .cal).tickSet = false ∧
      { linked 95 .cal with modidx := 1 }.modidx.toNat ≠ 0 ∧ topoArm (linked 95 .cal).topo = false ∧
      ((linked 0 .up).portLink 0).unacked.length < 512) := by decide +kernel

/-! ### Widened clauses -/

theorem witness_StepRunsTheDecodedInstruction_waiting :
    let s := { prog [0xFAC0, 0x5828] fun c => { c with waiting := true } with poison := [imemKey 0 .c 0x40 / 8] }
    Turns s ∧ decode s.words = .ok (.cpy 0 1 2) 2 0x5828 ∧ s.badWord 2 = some 0x40 ∧ s.cur.waiting = true := by
  unfold Turns; decide +kernel

theorem witness_HardwareLoops_families :
    (∀ i : CtxId, let s := at0 i fun c => { c with loops := [⟨0x30, 0x41, 2⟩] }
      (Instr.amoadd .wafer 1 2 3).wf = true ∧ privileged (.amoadd .wafer 1 2 3) = false ∧ (tieOf (.amoadd .wafer 1 2 3)).allows s.focus.ctx = true) ∧
    ((Instr.skadd .f32 1 0 2).wf = true ∧ privileged (.skadd .f32 1 0 2) = false ∧ (tieOf (.skadd .f32 1 0 2)).allows .c = true) := by
  refine ⟨fun i => ?_, by decide⟩
  cases i <;> decide

theorem witness_EndOfFiring_slots :
    let s := cored .c fun c => { c with
      states := c.states.set 0 (.ready 3 0), slots := vecMod c.slots 0 fun l => { l with inmask := 4 } }
    (s.here.core .c).states[0]? = some (.ready 3 0) ∧ ∃ sl, (s.here.core .c).slots[0]? = some sl := by
  exact ⟨by decide, _, rfl⟩

theorem witness_ChannelOperations_message : (∀ b : Bool, let s := at0 .m fun c => { c with sup := b }
      Ready .all false s ∧ s.focus.ctx = .m ∧ s.cur.sup = b) ∧
    (let s := cored .c fun c => { c with
        queues := vecMod c.queues 2 fun q => { q with words := List.replicate 15 word1 }, slots := vecMod c.slots 0 fun l => { l with inmask := 4 } }
     ((s.here.core .c).queues[2]'(by decide)).words.length < 16 ∧ s.declares .c 2 = true ∧ s.declares .c 3 = false ∧ s.cur.sup = false) ∧
    (let s := (cored .c fun c => { c with ports := vecMod c.ports 3 fun p => { p with stage := 16, dests := [.egress 0] } }).setCur
        { (at0 .c id).cur with storing := [{ piece := ⟨0, 4, some 1, none⟩, data := 0 }] }
     ((s.here.core .c).ports[3]'(by decide)).dests ≠ [] ∧ s.cur.storing ≠ []) := by
  exact ⟨fun b => ⟨by cases b <;> exact ready_at (by decide), by cases b <;> decide, by cases b <;> decide⟩, by decide, by decide⟩

theorem witness_SummaryUpdates_kinds : (∀ k : Fin 6, let s := holding [(0, BitVec.ofNat 8 (k + 1)), (4096, BitVec.ofNat 8 (k + 1))]
      (s.here.summ 0).kind = k + 1 ∧ (s.here.summ 0).kind = (s.here.summ 1).kind ∧ (s.here.summ 0).ktype = (s.here.summ 1).ktype ∧
      (s.here.summ 0).seed = (s.here.summ 1).seed ∧ familyTakes (s.here.summ 0).ktype .f32 = true) ∧
    activeElems (1 : Word) 32 ≠ [] := by
  refine ⟨fun k => ?_, by decide⟩
  match k with
  | 0 | 1 | 2 | 3 | 4 | 5 => decide +kernel

/-- The C context of `pointingAway` with p1 a predicate of lanes 0 and 2. -/
def vpointAway : State := (pointingAway .c).modCur fun c => c.setP 1 5

theorem witness_RemoteAccessesTravel_forms :
    let g : Target := ⟨sramKey 1 .shared 0, some 1, .system, false, none, 0⟩
    (∀ i : CtxId, let s := pointingAway i
      Allowed s .load (s.cur.getA 1 + 0) 1 g ∧ Allowed s .load (s.cur.getA 1 + 0) 8 g ∧ Allowed s .store (s.cur.getA 1 + 0) 8 g ∧
        Allowed s .atomic (s.cur.getA 1) 4 g ∧ s.within .cluster s.focus.rank 1 = true ∧ (1 : GReg) ≠ 0) ∧
    (let s := vpointAway
     Ready .all false s ∧ Idle s ∧ s.cur.getP 1 ≠ 0 ∧ s.here.lines = [] ∧ Allowed s .load (s.cur.getA 1 + 0) 128 g ∧
       (s.readSpans g 5 8).map (·.2) = ⟨sramKey 1 .shared 0, 16, some 1, none⟩ :: [] ∧ s.here.matrix.touches g.key 128 = false ∧
       Allowed s .store (s.cur.getA 1 + 0) 128 g ∧ (∃ l, l < 4 ∧ (5 : Word).getLsbD (4 * 0 + l) = true) ∧
       (∀ e, e < 8 → let p := s.pieceAt s.focus.rank g (16 * e) 16
         (s.here.matrix.touches p.key 16 = false) ∧ p.home = some 1) ∧
       activeElems (5 : Word) 32 = 0 :: [2] ∧
       (∀ j ∈ [0, 2], Allowed s .load (s.cur.getA 1 + 0 + BitVec.ofNat 64 j * s.cur.vstride.signExtend 64) 4 g ∧
         Allowed s .store (s.cur.getA 1 + 0 + BitVec.ofNat 64 j * s.cur.vstride.signExtend 64) 4 g ∧
         Allowed s .load (s.cur.getA 1 + 0 * 4 + (lane (s.cur.getV 1) j).setWidth 64 * 4) 4 g ∧
         Allowed s .store (s.cur.getA 1 + 0 * 4 + (lane (s.cur.getV 1) j).setWidth 64 * 4) 4 g ∧
         ¬(j ≠ 0 ∧ s.cur.vstride.toNat % 4 ≠ 0))) := by
  refine ⟨fun i => ?_, ready_at (by decide +kernel), by unfold Idle; decide +kernel, by decide +kernel, by decide, by unfold Allowed; decide +kernel, by rfl,
    by decide +kernel, by unfold Allowed; decide +kernel, ⟨0, by decide⟩, by decide +kernel, by decide, by unfold Allowed; decide +kernel⟩
  unfold Allowed; cases i <;> decide +kernel

theorem witness_CopyAndRings_refusals :
    (let s := staging (ringBytes0 ++ [(sramKey 0 .scratch 14, 1)]) [] none 0
     s.scratchOffset 0 16 16 = .ok () ∧ s.cur.sup = false ∧ (s.scratchRead 128 0 16 : BitVec 128).toNat / 2 ^ 112 % 2 ^ 16 ≠ 0) ∧
    (let s := staging [(sramKey 0 .scratch 4, 8)] [] none 0
     (s.scratchRead 128 0 16 : BitVec 128).toNat / 2 ^ 32 % 2 ^ 16 % 16 ≠ 0) ∧
    ((staging [] [] none 8).cur.getG 1).toNat % 16 ≠ 0 ∧
    (State.reset.tile 0).scratchSize % 16 = 0 ∧ (State.reset.tile 0).scratchSize < (State.reset.tile 0).scratchSize + 16 := by
  exact ⟨⟨by rfl, by decide +kernel⟩, by decide +kernel⟩

/-- A context of tile 0, on its pitch, points into the global window; the first word of its tables holds bad data. -/
def badEntry (i : CtxId) : State := { onPitch pitch1 (pointing i 0x10000) with mem := tables, poison := [0] }

theorem witness_MatrixIssue_bad_entry :
    let s := badEntry .c
    s.walkMeets 0 pitch1.image.root pitch1.image.homes 0x10000 = false ∧
      s.translate 0 pitch1.image.root pitch1.image.homes 0x10000 = .bad ∧
      s.walkDue 0 pitch1.image.root pitch1.image.homes 0x10000 = false := by decide +kernel

theorem witness_Publishing_pages :
    (let s := walking .s
     (∃ g ∈ pagesOf 0x10000 256 ++ pagesOf 0x20000 256, s.walkDue 0 pitch1.image.root pitch1.image.homes (g * 65536) = true) ∧
       s.readOnlyBuffer 0 = false ∧ Ready .all false s ∧ s.pitchHere = some pitch1 ∧
       spaceOf (s.cur.getA 1) = some (.global 0x10000)) ∧
    (∀ g ∈ pagesOf 0x10000 256 ++ pagesOf 0x20000 256,
      (buffered .s true id).walkDue 0 pitch1.image.root pitch1.image.homes (g * 65536) = false) ∧
    ((buffered .s false fun c => { c with storing := [{ piece := ⟨0, 4, some 1, none⟩, data := 0 }] }).cur.storing ≠ []) ∧
    (let s := badEntry .s
     Ready .all false s ∧ spaceOf (s.cur.getA 1) = some (.global 0x10000) ∧ s.targetDue 0 .load 0x10000 = false ∧
       s.targetMeets 0 .load 0x10000 = false ∧ s.atWalk 0 .load 0x10000 (fun r root homes va => s.translate r root homes va == .bad) = true) ∧
    (let s := buffered .s false id
     s.targetMeets 0 .load 0x10000 = false ∧
       s.atWalk 0 .load 0x10000 (fun r root homes va => s.translate r root homes va == .bad) = false) ∧
    (spaceOf 0xFEC00000000000FF = some (.buffer 0 0xFF) ∧ spaceOf 0xFEC0000000000100 = some (.buffer 0 0x100) ∧
      pitch1.handles[0]? = some { buffer := ⟨0x10000, 0x20000, 256⟩ }) := by
  exact ⟨⟨by decide +kernel, by decide +kernel, ready_at (by decide +kernel), by decide +kernel, by decide +kernel⟩, by decide +kernel, by decide,
    ⟨ready_at (by decide +kernel), by decide +kernel⟩, by decide +kernel, by decide +kernel, by decide +kernel, by rfl⟩

theorem witness_Messages_waits : (asking .s fun c => { c with reply := .waiting }).cur.reply = .waiting ∧
    ((asking .s fun c => { c with storing := [{ piece := ⟨0, 4, some 1, none⟩, data := 0 }] }).cur.reply = .none ∧
      (asking .s fun c => { c with storing := [{ piece := ⟨0, 4, some 1, none⟩, data := 0 }] }).cur.storing ≠ []) := by decide

theorem witness_Collectives_released :
    (let q := { plan0 with status := [{ rank := 0, trigd := true }], failed := true }
     let f (l : List Plan) := l.find? fun p => !p.pending && p.handle.setWidth 32 == (planned q id).cur.getG 1 && (p.ranksOn 0).contains 0
     f [q] = some q ∧ (q.statusOf 0).trigd = true ∧ q.failed = true ∧ f [] = none ∧
       f [{ plan0 with live := false }] = some { plan0 with live := false } ∧ ({ plan0 with live := false } : Plan).live = false) ∧
    (let s := planned plan0 fun c => c.setG 1 0x20
     s.planOf { pitch1 with plans := [plan0] } 0 (s.cur.getG 1) = none) := by
  decide +kernel

theorem witness_HomeServices_resolved :
    (let q := { req0 .read 0x10000 with window := some (0, true) }
     let s := onPitch pitch1 (homing q)
     s.bankHeld q.key = false ∧ s.resolved q = false ∧ (s.tile 0).mayTake 0 = some (.builtin q) ∧
       s.resolved { q with window := some (0, false) } = true ∧ s.resolved (req0 .read 0x100) = true ∧
       ((some (0, true) : Option (Nat × Bool)).bind fun w => ((s.pitch? q.src.pitch).bind fun p => p.handles[w.1]?)) =
         some { buffer := ⟨0x10000, 0x20000, 256⟩ }) ∧
    (let s := homing (req0 .read (2 ^ 46))
     s.bankHeld (2 ^ 46) = false ∧ s.resolved (req0 .read (2 ^ 46)) = true ∧ s.portFails 0 (2 ^ 46) = true ∧
       (req0 .read (2 ^ 46)).kind ≠ .barr ∧ (req0 .barr 3).kind = .barr ∧ s.resolved (req0 .barr 3) = true) := by decide +kernel

theorem witness_MessagesAndResponses_kinds :
    ({ resp0 with again := true } : Resp).again = true ∧ resp0.again = false ∧ resp0.bad = none ∧
    (let p : Resp := { resp0 with kind := .line, tag := 3, marks := [(0x100, [7]), (0x104, [8])] }
     let x : Xact := { todo := [⟨0x100, 4, some 1, none⟩], sent := true, tag := 3 }
     (answered p fun c => { c with xact := some x }).cur.xact = some x ∧ x.sent = true ∧ x.tag = p.tag ∧ p.kind = .line ∧ p.again = false ∧
       p.bad = none ∧ (p.marks.filter fun e => decide (0x100 ≤ e.1) && decide (e.1 < 0x100 + 4)) = [(0x100, [7])]) ∧
    (answered resp0 id).here.clocked = true ∧
    ((answered resp0 fun c => { c with storing := [{ piece := ⟨0, 4, some 1, none⟩, data := 0, tag := 9 }] }).cur.storing =
      { piece := ⟨0, 4, some 1, none⟩, data := 0, tag := 9 } :: [] ∧ ({ piece := ⟨0, 4, some 1, none⟩, data := 0, tag := 9 } : StorePiece).tag ≠ resp0.tag) := by
  decide +kernel

theorem witness_EnginesAndHandlers_bad_data :
    (let s := copying move0 id
     s.portFails 0 (sramKey 0 .scratch 0) = false ∧ s.portFails 0 (2 ^ 46) = true ∧
       (∀ code : Byte, code ∈ ([0x20, 0x21, 0x22] : List Byte) → code = 0x20 ∨ code = 0x21 ∨ code = 0x22) ∧
       s.here.clocked = true ∧ s.bound 0 .s = false) ∧
    (let g : RingRef := ⟨0, 0x100, 16, 2, 1, 2⟩
     let c : CopyCmd := { copy0 with ring := some g }
     let s := { (copying c fun t => t.modSem 1 fun m => { m with count := 1 }) with poison := [sramKey 0 .scratch 8 / 8] }
     s.copyHead 0 = some c ∧ c.ring = some g ∧ c.taken = none ∧ (s.here.sem g.free).count ≠ 0 ∧
       s.poisoned (sramKey 0 .scratch (g.place + 10)) 2 = true) ∧
    (let g : RingRef := ⟨0, 0x100, 16, 2, 1, 2⟩
     let c : CopyCmd := { copy0 with ring := some g, taken := some (scratch0 + 0x100) }
     let s := copying c id
     s.copyHead 0 = some c ∧ c.exhausted = true ∧ c.ring = some g ∧ c.taken ≠ none ∧ c.signalDue = false ∧
       { s with poison := [sramKey 0 .scratch 8 / 8] }.poisoned (sramKey 0 .scratch (g.place + 10)) 2 = true ∧
       s.poisoned (sramKey 0 .scratch (g.place + 10)) 2 = false ∧ (s.here.sem g.filled).count ≠ 0xFFFF) ∧
    (let s := (badEntry .s).modHere fun t => { t with copy := { t.copy with queue := [{ move0 with src := 0x10000 }] } }
     s.copyHead 0 = some { move0 with src := 0x10000 } ∧ s.targetDue 0 .engineRead 0x10000 = false ∧
       s.targetDue 0 .engineWrite (scratch0 + 64) = false) := by
  refine ⟨by decide +kernel, by decide +kernel, by decide +kernel, by decide +kernel⟩

theorem badEntry_read : ((badEntry .s).modHere fun t => { t with copy := { t.copy with queue := [{ move0 with src := 0x10000 }] } }).checkAccess
    0 false .engineRead 0x10000 (descSize move0.desc) = .error 0x21 := by decide +kernel

theorem witness_EnginesAndHandlers_setup_kept :
    (let p := { pitch1 with setup := some (1, none), asks := [] }
     p.setup.map (·.1) = some 1 ∧ (onPitch p (two 0 0)).pitches.filter (fun p => p.id.cfg == 1) = [p] ∧ p.colsets = []) ∧
    (pitch1.setup.map (·.1) ≠ some 1) := by decide +kernel

theorem witness_CareOfTheModule_tier : (2 ^ 46 ≤ 2 ^ 46 ∧ 2 ^ 46 < 2 ^ 50 ∧ ¬(2 ^ 60 ≤ 2 ^ 46)) ∧
    (let t := ((two 0 0).modHere fun t => { t with stretches := 16 }).here
     t.ltrwin.toNat < t.stretches + 1 ∧ t.step = 0 ∧ t.winPosted = false ∧ (t.ctx .c).sup = false ∧ (t.ctx .c).due = none) := by decide

/-- A saved pitch in its class queue, whose image keeps words for a replay or not. -/
def saved1 (depth : Option Nat) : Pitch := { waiting1 with saved := true, image := { pitch1.image with depth := depth } }

theorem witness_PitchLifetimes_saved :
    (∀ d ∈ ([none, some 64] : List (Option Nat)), let p := saved1 d
      let s := { placing p State.reset with vacated := [0] }
      s.pitch? p.id = some p ∧ s.tickSet = true ∧ s.refreshed ≠ 0 ∧ s.headPitch = some p ∧ p.saved = true ∧ s.regionBroken p = true ∧
        p.state = .queued ∧ p.successor = none ∧ p.behind = none) ∧
    ((saved1 none).image.depth = none ∧ (saved1 (some 64)).image.depth ≠ none ∧ (∀ g ∈ (saved1 (some 64)).ingress.toList, g.broken = false) ∧
      (saved1 (some 64)).kills + 1 < 4) ∧
    (let b := { saved1 none with id := ⟨1, 2⟩, behind := some ⟨1, 1⟩ }
     let a := { saved1 none with successor := some (⟨1, 2⟩, true) }
     let s := { placing a State.reset with pitches := [a, b] }
     s.pitch? b.id = some b ∧ b.state = .queued ∧ b.saved = true ∧ b.behind = some a.id ∧ s.pitch? a.id = some a ∧ a.id ≠ b.id) ∧
    (let b := { waiting1 with id := ⟨1, 2⟩, behind := some ⟨1, 1⟩ }
     b.saved = false ∧ b.state = .queued ∧ b.successor = none) := by decide +kernel

/-- A pair of which the successor has started on one tile, so that its wavefront has begun. -/
def wave (st : PitchState) (keep : Bool) (f : Tile → Tile) : State :=
  let a := { living st none with image := { pitch1.image with wc := 1 }, successor := some (⟨1, 2⟩, keep) }
  let b := { living st none with id := ⟨1, 2⟩, behind := some ⟨1, 1⟩ }
  ({ resting a f with pitches := [a, b] }).modTile 1 fun t => { t with pitch := some b.id }

theorem witness_PitchLifetimes_pairs :
    (let s := wave .running true id
     (s.pitch? ⟨1, 1⟩).isSome = true ∧ (s.pitch? ⟨1, 2⟩).isSome = true ∧ s.pitches.all (fun p => p.state == .running) = true ∧
       s.pitches.map (fun p => s.wavefront p) = [true, false]) ∧
    (∀ st ∈ ([.loading, .armed 5] : List PitchState), let p := { living st (some quiet0) with stopping := true }
      let s := resting p id
      s.pitch? p.id = some p ∧ p.stopping = true ∧ p.successor = none ∧ p.sweep = some (s.sweepOf p) ∧ (s.sweepOf p).quiet = true ∧
        ¬{ p with sweep := none }.sweep = some (s.sweepOf p)) ∧
    (let p := { living .running none with successor := none, behind := some ⟨1, 2⟩ }
     p.successor = none ∧ p.behind ≠ none ∧ p.state = .running) := by decide +kernel

theorem witness_PitchLifetimes_replays :
    (∀ d ∈ ([none, some 64] : List (Option Nat)), let p := { living .killed (some quiet0) with image := { pitch1.image with depth := d } }
      let s := resting p id
      s.pitch? p.id = some p ∧ p.sweep = some (s.sweepOf p) ∧ (s.sweepOf p).quiet = true ∧ (s.sweepOf p).sent = (s.sweepOf p).recvd ∧
        (∀ x ∈ s.tilesOf p.id, (s.tile x).strikeDue = none ∨ (s.tile x).struck = true) ∧ s.regionBroken p = false ∧
        { s with vacated := [0] }.regionBroken p = true ∧ (s.balance p).isSome = true ∧ p.kills < 4) ∧
    (let p := { living .loading none with saved := true }
     let n := State.reset.saveImage 0
     let s := (onPitch p State.reset).modHere fun t => { t with saved := [(p.id, n)] }
     p.successor = none ∧ p.behind = none ∧ s.pitch? p.id = some p ∧ p.resolving = false ∧
       ({ s with poison := [flyKey 0 0x1F00000 / 8] }.restoreBad 0 = some 0x1F00000 ∧ 0 ∈ s.savedTiles p) ∧
       s.restoreBad 0 = none ∧ s.here.saved.find? (fun e => e.1 == p.id) = some (p.id, n) ∧ n.s.resume = none ∧ n.scratch.wf = true) ∧
    (let p := { living .loading none with saved := true, image := { pitch1.image with nodes := [{ x := 0, y := 0, pages := [1] }] } }
     let s := onPitch p State.reset
     s.listHeld p = false ∧ s.listState p = (true, false) ∧ { s with mem := [(0, 0x80)] }.listState p = (false, true)) := by decide +kernel

/-- A splice on tile 0, which switches, with no tile of the successor yet. -/
def splicing1 (keep : Bool) (b : Pitch) (f : Tile → Tile) : State :=
  let a := { living .running none with successor := some (b.id, keep) }
  ({ resting a f with pitches := [a, b] }).modHere fun t => { t with switching := true }

/-- The successor, queued behind its predecessor. -/
def next1 : Pitch := { waiting1 with id := ⟨1, 2⟩, behind := some ⟨1, 1⟩ }

theorem witness_PitchLifetimes_splices :
    (let s := splicing1 true next1 id
     ∃ a, s.splicing 0 = some (a, next1, true) ∧ next1.id ≠ a.id ∧ s.here.switching = true ∧ s.here.held = false ∧ a.runs = true ∧
       next1.resolving = false ∧ next1.state = .queued ∧ s.wavefront a = false ∧ s.listHeld next1 = false ∧
       s.listState next1 = (false, false) ∧ s.locksFit next1 = true ∧ (∀ g ∈ next1.listedPages, s.walkUnsound 0 [] (g * 65536) = false)) ∧
    ((splicing1 true next1 fun t => { t with held := true }).here.held = true ∧ { next1 with resolving := true }.resolving = true) ∧
    (let b := { next1 with image := { pitch1.image with nodes := [{ x := 0, y := 0, pages := [1] }] } }
     let s := splicing1 true b id
     (s.splicing 0).isSome = true ∧ s.listHeld b = false ∧ s.listState b = (true, false) ∧
       { s with mem := [(0, 0x80)] }.listState b = (false, true)) ∧
    (let s := wave .running true fun t => { t with switching := true }
     (s.splicing 0).isSome = true ∧ s.pitches.map (fun p => s.wavefront p) = [true, false]) := by
  refine ⟨⟨_, rfl, by decide +kernel⟩, by decide +kernel⟩

theorem witness_PitchLifetimes_splice_locks : ({ splicing1 true next1 id with fields := [(0, { locks := manyLocks })] } : State).locksFit next1 = false ∧
    ({ splicing1 true next1 id with fields := [(0, { locks := manyLocks })] } : State).listState next1 = (false, false) := by
  refine ⟨?_, rfl⟩
  have hl := full_locked { splicing1 true next1 id with fields := [(0, { locks := manyLocks })] } next1 12289 0 (field_locks _ _)
  have hf : fieldsOf next1 = [0] := by decide +kernel
  rw [State.locksFit, hf, List.all_cons, Bool.and_eq_false_iff]
  exact .inl (decide_eq_false (Nat.not_le.2 (Nat.lt_of_lt_of_le (by decide) hl)))

/-- An AtomicOp that waits for its answer. -/
def asked0 : AtomReq := { tag := 0, op := 0, addr := 0, v := 1, cmp := 0 }

/-- The AtomicOps that wait at portal entry 0. -/
def unanswered0 (s : State) : Nat := s.pitches.foldl (fun n p => p.egress.toList.zipIdx.foldl (fun n x =>
  if p.portal + x.2 = 0 then n + x.1.pending.length else n) n) 0

theorem witness_HostEdgeAndLinks_limit :
    (let e : Egress := { words := [word1], pending := List.replicate 128 asked0 }
     let p : Pitch := { pitch1 with egress := Vector.replicate 16 e }
     let s := { egressing e { mode := 2, op := 3 } with pitches := [p, { p with id := ⟨1, 2⟩ }] }
     s.egressHead ⟨1, 1⟩ 0 = some (e, word1, { mode := 2, op := 3 }) ∧ 256 ≤ unanswered0 s) ∧
    (let e : Egress := { words := [word1], pending := List.replicate 127 asked0 }
     let p : Pitch := { pitch1 with egress := Vector.replicate 16 e }
     let s := { egressing e { mode := 2, op := 3 } with pitches := [p, { p with id := ⟨1, 2⟩ }] }
     unanswered0 s < 256 ∧ e.suppress = 0) := by decide +kernel

theorem witness_HostEdgeAndLinks_replies :
    (let e : Egress := { pending := [asked0] }
     let s := egressing e {}
     (∀ x, s.pitch? ⟨1, 1⟩ = some x → x.state ≠ .struck) ∧ s.pitch? ⟨1, 1⟩ ≠ none ∧ (s.hostQueue 0).stream = some (⟨1, 1⟩, 0) ∧
       ({ s with queues := [(0, { state := .bound })] }.hostQueue 0).stream = none ∧
       ({ s with queues := [(0, { state := .bound })] }.hostQueue 0).state = .bound ∧
       ({ s with queues := [] }.hostQueue 0).stream = none ∧ ({ s with queues := [] }.hostQueue 0).state ≠ .bound) ∧
    (let p : Pitch := { pitch1 with egress := Vector.replicate 16 { pending := [asked0] } }
     let s := { egressing {} {} with
       pitches := [p, { pitch1 with id := ⟨1, 2⟩, state := .struck }], queues := [(0, { state := .bound, stream := some (⟨1, 2⟩, 0) })] }
     s.pitch? ⟨1, 1⟩ = some p ∧ (s.hostQueue 0).stream = some (⟨1, 2⟩, 0) ∧
       s.pitch? ⟨1, 2⟩ = some { pitch1 with id := ⟨1, 2⟩, state := .struck }) := by
  refine ⟨⟨fun x h => ?_, by decide +kernel⟩, by decide +kernel⟩
  cases h; decide

theorem witness_HostEdgeAndLinks_homes :
    (let m : PlanMsg := .free ⟨0x10, (0, 0)⟩
     let p (ver : Half) (b : PacketBody) : Packet := { ver := ver, dst := 0, src := 3, body := b }
     versioned (p 9 (.plan 1 m)).body = true ∧ (p 9 (.plan 1 m)).ver ≠ topoVer State.reset.topo ∧
       versioned (p 9 (.homeNack 1 3 m)).body = false ∧ (linked 0 .up).stillSays 3 1 m = true ∧
       (linked 0 .up).stillSays 3 1 (.idleAsk ⟨0x10, (0, 0)⟩ 0) = false) := by decide +kernel

theorem witness_HostEdgeAndLinks_ports : ((95 : Nat) < 96 ∧ ((linked 95 .retrain).portLink 95).state = .retrain) ∧
    (let p : Pitch := { pitch1 with plans := [plan2] }
     let s := onPitch p State.reset
     s.pitches = [p] ∧ p.active = true ∧ p.plans = [plan2] ∧ plan2.present = true ∧ s.legCrosses plan2 (1, 0, 3) = true) := by decide +kernel

/-- Tile 321 takes its clock from tile 1, whose own tree is being realigned. -/
def realigned : State := (State.reset.modTile 321 fun t => { t with clkCur := some 0 }).modTile 1 fun t => { t with clock := .realigning }

theorem witness_HostEdgeAndLinks_realigning : ∃ a, realigned.clockSource 321 = some a ∧ (realigned.tile a).clock = .realigning ∧
    (realigned.tile 321).clock = .good := by
  exact ⟨1, by decide +kernel⟩

end Sys2Proof.Tests
end

section
/-! # Events: what one step of an event does, and updates of one place of the state -/

namespace Sys2Proof.Machine

theorem assocPut_assocPut {α : Type} (l : List (Nat × α)) (n : Nat) (a b : α) :
    assocPut (assocPut l n a) n b = assocPut l n b := by
  induction l with
  | nil => simp [assocPut]
  | cons e l ih =>
    obtain ⟨k, c⟩ := e
    by_cases hlt : n < k
    · simp [assocPut, hlt]
    · by_cases heq : n = k
      · simp [assocPut, heq]
      · simp [assocPut, hlt, heq, ih]

theorem State.modTile_congr {s : State} {r : Nat} {f g : Tile → Tile} (h : f (s.tile r) = g (s.tile r)) :
    s.modTile r f = s.modTile r g := congrArg (s.setTile r) h

theorem State.modTile_modTile (s : State) (r : Nat) (f g : Tile → Tile) :
    (s.modTile r f).modTile r g = s.modTile r fun t => g (f t) := by
  show (s.modTile r f).setTile r (g ((s.modTile r f).tile r)) = _
  rw [State.tile_modTile]
  exact congrArg (fun l => ({ s with tiles := l } : State)) (assocPut_assocPut _ _ _ _)

theorem State.modCtx_congr {s : State} {r : Nat} {i : CtxId} {f g : Ctx → Ctx}
    (h : f ((s.tile r).ctx i) = g ((s.tile r).ctx i)) : s.modCtx r i f = s.modCtx r i g :=
  State.modTile_congr (congrArg ((s.tile r).setCtx i) h)

@[simp] theorem State.field_modField (s : State) (n : Nat) (f : Field → Field) : (s.modField n f).field n = f (s.field n) := by
  simp [State.field, State.modField]

theorem State.modField_congr {s : State} {n : Nat} {f g : Field → Field} (h : f (s.field n) = g (s.field n)) :
    s.modField n f = s.modField n g := congrArg (fun a => ({ s with fields := assocPut s.fields n a } : State)) h

end Sys2Proof.Machine
end

section
/-! # Registers and counters of a tile (R12, R70, R77, R402 to R405) -/

namespace Sys2Proof.Machine

theorem and_eq_zero_iff_setWidth {w : Word} {n : Nat} (k : Word) (hk : k.toNat = 2 ^ n - 1) :
    w &&& k = 0 ↔ w.setWidth n = 0 := by
  rw [← BitVec.toNat_inj, ← BitVec.toNat_inj, BitVec.toNat_and, hk, Nat.and_two_pow_sub_one_eq_mod]
  simp

theorem gives_counterClear {s : State} {r : Nat} {n : KReg} (h : isCounter n.toNat = true) (inc : Bool) (w : Word)
    {g : Tile → Tile} (hg : ((if inc then (s.tile r).bump n.toNat else s.tile r).kwrite n.toNat w) = g (s.tile r)) :
    Gives (.counterClear r n inc w) s (s.modTile r g) := by
  show execCounterClear r n inc w s = _
  exact event_eq h (State.modTile_congr hg)

theorem gives_ltrlimWrite (s : State) (r : Nat) (w : Word) :
    Gives (.ltrlimLtrwinWrite r 0x042 w) s (s.modTile r fun t => { t with ltrlim := if w &&& 7 = 0 then 1 else w.setWidth 3 }) := by
  show execLtrlimLtrwinWrite r 0x042 w s = _
  refine event_eq rfl (State.modTile_congr ?_)
  show ({ s.tile r with ltrlim := atLeastOne (w.setWidth 3) } : Tile) = _
  simp only [atLeastOne, and_eq_zero_iff_setWidth (n := 3) (7 : Word) rfl]

theorem gives_ltrwinWrite (s : State) (r : Nat) (w : Word) :
    Gives (.ltrlimLtrwinWrite r 0x043 w) s (s.modTile r fun t => { t with ltrwin := if w &&& 0xFF = 0 then 1 else w.setWidth 8 }) := by
  show execLtrlimLtrwinWrite r 0x043 w s = _
  refine event_eq rfl (State.modTile_congr ?_)
  show ({ s.tile r with ltrwin := atLeastOne (w.setWidth 8) } : Tile) = _
  simp only [atLeastOne, and_eq_zero_iff_setWidth (n := 8) (0xFF : Word) rfl]

theorem writeMargin_of_sound {t : Tile} (h : t.susp = false) (w : Word) :
    t.writeMargin w = { t with step := w.setWidth 4, auto := w.getLsbD 4, tgt := (w >>> 8).setWidth 4
                               supply := if t.supply ≤ w.setWidth 4 then t.supply else w.setWidth 4 } := by
  simp [Tile.writeMargin, h]

/-- While SUSP is 1 a step of 0 alone is taken (R402). -/
theorem writeMargin_of_susp {t : Tile} (h : t.susp = true) (w : Word) :
    t.writeMargin w = { t with step := if w &&& 15 = 0 then 0 else t.step, tgt := (w >>> 8).setWidth 4
                               supply := if w &&& 15 = 0 then 0 else t.supply } := by
  simp only [Tile.writeMargin, and_eq_zero_iff_setWidth (n := 4) (15 : Word) rfl, h, if_true]
  by_cases hz : w.setWidth 4 = 0
  · have hs : (if t.supply = 0#4 then t.supply else 0#4) = 0#4 := by split <;> trivial
    simp [hz, hs]
  · have hz' : w.setWidth 4 ≠ 0#4 := hz
    simp [hz']

theorem gives_logStatusRead {s : State} {r : Nat} {c : CtxId} (h : ((s.tile r).ctx c).sup = true) {n : KReg}
    (hn : n = 0x060 ∨ n = 0x070) (d : GReg) : Gives (.logStatusRead r c n d) s
      ((s.modCtx r c fun x => x.setG d ((s.kread r c n.toNat).getD 0)).modTile r fun t => t.clearLog n.toNat) := by
  show execLogStatusRead r c n d s = _
  exact event_eq (by rcases hn with rfl | rfl <;> simp [h]) rfl

end Sys2Proof.Machine
end


section
/-! # The replay ladder (R223, R241, R357 to R361) -/

namespace Sys2Proof.Machine

/-- A tile whose window has counted one stretch more. -/
def Tile.countStretch (t : Tile) (n : Nat) : Tile := { t with stretches := n, winStretched := true }

/-- A tile that has become suspect (R359, R361). -/
def Tile.suspect (t : Tile) : Tile := { t with susp := true, auto := false, winPosted := true }

section
variable {u : State} {r : Nat} (i : CtxId) (unit : Bool)

/-- Within LTRWIN a stretch is only counted (R359). -/
theorem State.stretched_within (h : (u.tile r).stretches + 1 ≤ (u.tile r).ltrwin.toNat) :
    u.stretched r i unit = u.modTile r fun t => t.countStretch ((u.tile r).stretches + 1) := by
  simp only [State.stretched, if_pos h]
  rfl

/-- Beyond LTRWIN a stretch is a margin event, as long as STEP can go down (R359). -/
theorem State.stretched_event (h : (u.tile r).ltrwin.toNat < (u.tile r).stretches + 1) (hs : (u.tile r).step ≠ 0) :
    u.stretched r i unit = (u.modTile r fun t => t.countStretch ((u.tile r).stretches + 1)).modTile r fun t =>
      { t.setStep (t.step - 1) with mev := t.mev + 1, stretches := 0 } := by
  simp only [State.stretched, if_neg (Nat.not_le.2 h), if_pos hs]
  rfl

/-- At step 0 the tile becomes suspect: a window that has reported says no more (R361). -/
theorem State.stretched_posted (h : (u.tile r).ltrwin.toNat < (u.tile r).stretches + 1) (hs : (u.tile r).step = 0)
    (hp : (u.tile r).winPosted = true) : u.stretched r i unit =
      (u.modTile r fun t => t.countStretch ((u.tile r).stretches + 1)).modTile r Tile.suspect := by
  simp only [State.stretched, if_neg (Nat.not_le.2 h), hs, ne_eq, not_true_eq_false, if_false, hp, if_true]
  rfl

/-- A context at user level is due a trap (R361). -/
theorem State.stretched_user (h : (u.tile r).ltrwin.toNat < (u.tile r).stretches + 1) (hs : (u.tile r).step = 0)
    (hp : (u.tile r).winPosted = false) (hu : ((u.tile r).ctx i).sup = false) : u.stretched r i unit =
      ((u.modTile r fun t => t.countStretch ((u.tile r).stretches + 1)).modTile r Tile.suspect).modCtx r i fun x =>
        { x with due := some ⟨0x23, 0, BitVec.ofNat 64 ((u.tile r).stretches + 1)⟩, dueHeld := x.due.isNone && !unit } := by
  simp only [State.stretched, if_neg (Nat.not_le.2 h), hs, ne_eq, not_true_eq_false, if_false, hp, hu, Bool.false_eq_true]
  rfl

/-- At supervisor level the record goes to the field at once (R361). -/
theorem State.stretched_sup (h : (u.tile r).ltrwin.toNat < (u.tile r).stretches + 1) (hs : (u.tile r).step = 0)
    (hp : (u.tile r).winPosted = false) (hu : ((u.tile r).ctx i).sup = true) : u.stretched r i unit =
      let v := (u.modTile r fun t => t.countStretch ((u.tile r).stretches + 1)).modTile r Tile.suspect
      v.post r (v.hwRecord r (some i) 0x23 0 (BitVec.ofNat 64 ((u.tile r).stretches + 1)) false false
        (payload2 (v.tile r).ltrcnt (v.tile r).margin)) := by
  simp only [State.stretched, if_neg (Nat.not_le.2 h), hs, ne_eq, not_true_eq_false, if_false, hp, hu, Bool.false_eq_true, if_true]
  rfl

end

/-- What a stretch of a state `u`, which a step of `s` has come to, leads to (R359, R361). -/
def StretchGives (i : Instr) (s : State) (r : Nat) (who : CtxId) (unit : Bool) (u : State) : Prop :=
  let t := s.tile r
  let n := t.stretches + 1
  let v := u.modTile r fun t => { t with stretches := n, winStretched := true }
  (n ≤ t.ltrwin.toNat → Gives i s v) ∧
  (t.ltrwin.toNat < n → t.step ≠ 0 → Gives i s (v.modTile r fun t => { t with
    step := t.step - 1, supply := if t.step - 1 < t.supply then t.step - 1 else t.supply, mev := t.mev + 1, stretches := 0 })) ∧
  (t.ltrwin.toNat < n → t.step = 0 →
    let suspect := v.modTile r fun t => { t with susp := true, auto := false, winPosted := true }
    (t.winPosted = true → Gives i s suspect) ∧
    (t.winPosted = false → (t.ctx who).sup = false → Gives i s (suspect.modCtx r who fun x =>
      { x with due := some ⟨0x23, 0, BitVec.ofNat 64 n⟩, dueHeld := x.due.isNone && !unit })) ∧
    (t.winPosted = false → (t.ctx who).sup = true → Gives i s (suspect.post r (suspect.hwRecord r (some who) 0x23 0
      (BitVec.ofNat 64 n) false false (payload2 (suspect.tile r).ltrcnt (suspect.tile r).margin)))))

/-- Two states show a ladder the same window, step and level. -/
structure SameWindow (s u : State) (r : Nat) (who : CtxId) : Prop where
  stretches : (u.tile r).stretches = (s.tile r).stretches
  ltrwin : (u.tile r).ltrwin = (s.tile r).ltrwin
  step : (u.tile r).step = (s.tile r).step
  winPosted : (u.tile r).winPosted = (s.tile r).winPosted
  sup : ((u.tile r).ctx who).sup = ((s.tile r).ctx who).sup

theorem stretchGives {i : Instr} {s u : State} {r : Nat} {who : CtxId} {unit : Bool} (h : SameWindow s u r who)
    (he : exec i s = .next (u.stretched r who unit)) : StretchGives i s r who unit u := by
  obtain ⟨hn, hw, hs, hp, hu⟩ := h
  rw [StretchGives, ← hn, ← hw, ← hs, ← hp, ← hu]
  refine ⟨fun hle => ?_, fun hlt hstep => ?_, fun hlt hstep => ⟨fun hpost => ?_, fun hpost hsup => ?_, fun hpost hsup => ?_⟩⟩
  · exact he.trans (congrArg _ (State.stretched_within who unit hle))
  · exact he.trans (congrArg _ (State.stretched_event who unit hlt hstep))
  · exact he.trans (congrArg _ (State.stretched_posted who unit hlt hstep hpost))
  · exact he.trans (congrArg _ (State.stretched_user who unit hlt hstep hpost hsup))
  · exact he.trans (congrArg _ (State.stretched_sup who unit hlt hstep hpost hsup))

/-- The ladder of a place (R358): what a late transition at place `n` gives, where the last one came at place `at'` for the
`replays`-th time, and `put k` counts the `k`-th one at its place. -/
def LadderGives (i : Instr) (s : State) (r : Nat) (who : CtxId) (unit : Bool) (at' replays n : Nat) (put : Nat → State) : Prop :=
  let t := s.tile r
  let k := if n = at' then replays else 0
  (n < at' ∨ t.ltrlim.toNat ≤ k → Gives i s s) ∧
  (at' ≤ n → k + 1 < t.ltrlim.toNat → Gives i s (put (k + 1))) ∧
  (at' ≤ n → k + 1 = t.ltrlim.toNat → StretchGives i s r who unit (put 8))

/-- The next state of a late transition, by the count that follows. -/
def afterLate (s : State) (r : Nat) (who : CtxId) (unit : Bool) (put : Nat → State) : Option Nat → State
  | none => s
  | some k => if k = 8 then (put k).stretched r who unit else put k

theorem nextReplay_none {lim at' replays n : Nat} (h : n < at' ∨ lim ≤ if n = at' then replays else 0) :
    nextReplay lim at' replays n = none := by
  unfold nextReplay
  split
  · rfl
  · next hn => exact if_pos (h.resolve_left hn)

theorem nextReplay_more {lim at' replays n : Nat} (h : at' ≤ n) (hk : (if n = at' then replays else 0) + 1 < lim) :
    nextReplay lim at' replays n = some ((if n = at' then replays else 0) + 1) := by
  simp only [nextReplay, if_neg (Nat.not_lt.2 h)]
  rw [if_neg (by omega), if_pos hk]

theorem nextReplay_last {lim at' replays n : Nat} (h : at' ≤ n) (hk : (if n = at' then replays else 0) + 1 = lim) :
    nextReplay lim at' replays n = some 8 := by
  simp only [nextReplay, if_neg (Nat.not_lt.2 h)]
  rw [if_neg (by omega), if_neg (by omega)]

theorem ladderGives {i : Instr} {s : State} {r : Nat} {who : CtxId} {unit : Bool} {at' replays n : Nat} {put : Nat → State}
    (hw : SameWindow s (put 8) r who)
    (he : exec i s = .next (afterLate s r who unit put (nextReplay (s.tile r).ltrlim.toNat at' replays n))) :
    LadderGives i s r who unit at' replays n put := by
  refine ⟨fun h => ?_, fun h hk => ?_, fun h hk => stretchGives hw ?_⟩
  · rw [nextReplay_none h] at he
    exact he
  · have hlim : (s.tile r).ltrlim.toNat < 8 := (s.tile r).ltrlim.isLt
    rw [nextReplay_more h hk, afterLate, if_neg (by omega)] at he
    exact he
  · rw [nextReplay_last h hk, afterLate, if_pos rfl] at he
    exact he

/-- A tile that has counted a replay (R360). -/
theorem modTile_countReplay (s : State) (r : Nat) (f : Tile → Tile) :
    s.modTile r (fun t => f t.countReplay) =
      (s.modTile r fun t => { t with ltrcnt := t.ltrcnt + 1, winReplays := t.winReplays + 1 }).modTile r f :=
  (s.modTile_modTile r Tile.countReplay f).symm

/-- The counts of a ladder leave what its window shows. -/
theorem sameWindow_counted {s : State} {r : Nat} {who : CtxId} (f : Tile → Tile)
    (hf : ∀ t : Tile, (f t).stretches = t.stretches ∧ (f t).ltrwin = t.ltrwin ∧ (f t).step = t.step ∧
      (f t).winPosted = t.winPosted ∧ ((f t).ctx who).sup = (t.ctx who).sup) : SameWindow s (s.modTile r f) r who := by
  obtain ⟨h1, h2, h3, h4, h5⟩ := hf (s.tile r)
  constructor <;> rw [State.tile_modTile] <;> assumption

theorem Ctx.countWd_running {x : Ctx} (h : x.run = .running) (n : Nat) :
    x.countWd n = { x with wd := if x.sup then x.wd else x.wd + n } := by
  cases hx : x.sup
  · rw [if_neg Bool.false_ne_true]
    simp only [Ctx.countWd, h, hx]
  · rw [if_pos rfl]
    simp only [Ctx.countWd, h, hx]
    rw [← h, ← hx]

/-- The ladder of a context's group (R358). -/
theorem lateGroup_ladder {s : State} {r : Nat} {c : CtxId} (hrun : ((s.tile r).ctx c).run = .running)
    (hwait : ((s.tile r).ctx c).waiting = false) (hclock : (s.tile r).clock = .good) :
    LadderGives (.lateTransition r c .group) s r c false 0 ((s.tile r).ctx c).replays 0 fun k =>
      ((s.modTile r fun t => { t with ltrcnt := t.ltrcnt + 1, winReplays := t.winReplays + 1 }).modTile r fun t =>
        { t with cyc := t.cyc + 6 }).modCtx r c fun x => { x with replays := k, wd := if x.sup then x.wd else x.wd + 6 } := by
  have hput (k : Nat) : s.reissue r c k = ((s.modTile r fun t =>
      { t with ltrcnt := t.ltrcnt + 1, winReplays := t.winReplays + 1 }).modTile r fun t =>
        { t with cyc := t.cyc + 6 }).modCtx r c fun x => { x with replays := k, wd := if x.sup then x.wd else x.wd + 6 } := by
    rw [← modTile_countReplay s r fun t => { t with cyc := t.cyc + 6 }, State.reissue]
    refine State.modCtx_congr ?_
    have hrun' : ((s.modTile r fun t => { t.countReplay with cyc := t.countReplay.cyc + 6 }).tile r |>.ctx c).run = .running := by
      rw [State.tile_modTile, ← hrun]
      cases c <;> rfl
    exact congrArg (fun x : Ctx => { x with replays := k }) (Ctx.countWd_running hrun' 6)
  simp only [← hput]
  refine ladderGives ?_ ?_
  · rw [hput, State.modCtx, State.modTile_modTile, State.modTile_modTile]
    exact sameWindow_counted _ fun t => by cases c <;> exact ⟨rfl, rfl, rfl, rfl, rfl⟩
  · have hg : (((s.tile r).ctx c).is .running && !((s.tile r).ctx c).waiting && (s.tile r).clock == .good) = true := by
      simp [Ctx.is, hrun, hwait, hclock]
    show execLateTransition r c .group s = _
    simp only [execLateTransition, hg]
    cases nextReplay (s.tile r).ltrlim.toNat 0 ((s.tile r).ctx c).replays 0 <;> rfl

/-- The ladder of a chunk of the head matrix command (R223, R358). -/
theorem lateMatrix_ladder {s : State} {r n : Nat} {m : MatCmd} (c : CtxId) (hm : (s.tile r).matrix.queue.head? = some m)
    (hn : n < m.chunks) (hclock : (s.tile r).clock = .good) :
    LadderGives (.lateTransition r c (.matrix n)) s r .c true (s.tile r).matrix.chunk (s.tile r).matrix.replays n fun k =>
      (s.modTile r fun t => { t with ltrcnt := t.ltrcnt + 1, winReplays := t.winReplays + 1 }).modTile r fun t =>
        { t with matrix := { t.matrix with chunk := n, replays := k } } := by
  simp only [State.modTile_modTile]
  refine ladderGives (sameWindow_counted _ fun t => ⟨rfl, rfl, rfl, rfl, rfl⟩) ?_
  have hg : ((s.tile r).clock == .good && ((s.tile r).matrix.queue.head?.map fun m => decide (n < m.chunks)).getD false) = true := by
    simp [hclock, hm, hn]
  show execLateTransition r c (.matrix n) s = _
  simp only [execLateTransition, hg]
  cases nextReplay (s.tile r).ltrlim.toNat (s.tile r).matrix.chunk (s.tile r).matrix.replays n <;> rfl

/-- The ladder of a step of a summary group (R241, R358). -/
theorem lateSummary_ladder {s : State} {r n : Nat} {c : CtxId} (hrun : ((s.tile r).ctx c).run = .running)
    (hclock : (s.tile r).clock = .good) (hat : s.atSummary r c = true) :
    LadderGives (.lateTransition r c (.summary n)) s r c false ((s.tile r).ctx c).hstep ((s.tile r).ctx c).hreplays n fun k =>
      (s.modTile r fun t => { t with ltrcnt := t.ltrcnt + 1, winReplays := t.winReplays + 1 }).modCtx r c fun x =>
        { x with hstep := n, hreplays := k } := by
  refine ladderGives ?_ ?_
  · rw [State.modCtx, State.modTile_modTile]
    exact sameWindow_counted _ fun t => by cases c <;> exact ⟨rfl, rfl, rfl, rfl, rfl⟩
  · have hg : (((s.tile r).ctx c).is .running && (s.tile r).clock == .good && s.atSummary r c) = true := by
      simp [Ctx.is, hrun, hclock, hat]
    show execLateTransition r c (.summary n) s = _
    simp only [execLateTransition, hg]
    cases nextReplay (s.tile r).ltrlim.toNat ((s.tile r).ctx c).hstep ((s.tile r).ctx c).hreplays n <;> rfl

end Sys2Proof.Machine
end


section
/-! # Windows, the pole, the array, walks (R269 to R273, R357 to R360, R368 to R373, R427 to R429, R442) -/

namespace Sys2Proof.Machine

theorem gives_windowEnd {s : State} {r : Nat} (h : (s.tile r).window < (s.tile r).cyc.toNat / 2 ^ 20) {st : BitVec 4}
    (hst : st = if (s.tile r).auto = false then (s.tile r).step
      else controlStep (s.tile r).step (s.tile r).tgt (s.tile r).winStretched (s.tile r).winReplays) :
    Gives (.escalationWindowEnd r) s (s.modTile r fun t =>
      { t with step := st, supply := if st < t.supply then st else t.supply, window := t.window + 1
               stretches := 0, winReplays := 0, winStretched := false, winPosted := false }) := by
  show execEscalationWindowEnd r s = _
  refine event_eq (decide_eq_true h) (State.modTile_congr ?_)
  have e : st = if (s.tile r).auto then controlStep (s.tile r).step (s.tile r).tgt (s.tile r).winStretched (s.tile r).winReplays
      else (s.tile r).step := by rw [hst]; cases (s.tile r).auto <;> rfl
  simp only [Tile.setStep, ← e]

theorem gives_throttleWindowEnd {s : State} {r : Nat} (h : (s.tile r).thrWindow < (s.tile r).cyc.toNat / 65536) (b : Bool) :
    Gives (.throttleWindowEnd r b) s (s.modTile r fun t =>
      { t with thrWindow := t.thrWindow + 1, thr := t.throttled, throttled := b }) := by
  show execThrottleWindowEnd r b s = _
  exact event_eq (decide_eq_true h) rfl

theorem gives_temperatureRefresh {s : State} (h : s.refreshed = 0 ∨ s.tick.toNat / 1024 ≠ s.refreshSpan) :
    Gives .temperatureRefresh s { s with refreshes := s.refreshes + 1, refreshSpan := s.tick.toNat / 1024 } := by
  show execTemperatureRefresh s = _
  exact event_eq (by simpa using h) rfl

theorem temperatureRefresh_stutters {s : State} (h : s.refreshed ≠ 0) (h' : s.tick.toNat / 1024 = s.refreshSpan) :
    Gives .temperatureRefresh s s := by
  show execTemperatureRefresh s = _
  exact event_stutters (by simp [h, h'])

/-! ## Scrubbing (R368) -/

theorem gives_scrubSram {s : State} {r key : Nat} (h : 2 ^ 60 ≤ key ∨ 2 ^ 46 ≤ key ∧ key < 2 ^ 50) :
    Gives (.scrub (.sram r key) true) s { s with poison := insertNat s.poison (key / 8) } := by
  show execScrub (.sram r key) true s = _
  exact event_eq rfl (if_pos h)

theorem gives_scrubLine (s : State) (r key : Nat) {word : Nat} (h : word < 8) :
    Gives (.scrub (.line r key word) true) s (s.modTile r fun t => { t with lines := t.lines.map fun l =>
      if l.key = key / 64 * 64 then { l with bad := insertNat l.bad word } else l }) := by
  show execScrub (.line r key word) true s = _
  refine event_eq rfl (State.modTile_congr ?_)
  have e (l : CacheLine) : l.spoil (lineOf key) word =
      if l.key = key / 64 * 64 then { l with bad := insertNat l.bad word } else l := by
    simp only [CacheLine.spoil, h, and_true, lineOf]
  simp only [funext e]

theorem gives_scrubSummary (s : State) (r : Nat) {word : Nat} (h : word < 2048) :
    Gives (.scrub (.summary r word) true) s (s.modTile r fun t => { t with hbad := insertNat t.hbad word }) := by
  show execScrub (.summary r word) true s = _
  exact event_eq rfl (if_pos h)

theorem gives_scrubParity {s : State} {r : Nat} (h : (s.tile r).pitch ≠ none) :
    Gives (.scrub (.parity r) true) s (s.post r (s.hwRecord r none 0x20 0 0 true false 0)) := by
  show execScrub (.parity r) true s = _
  exact event_eq rfl (if_pos (Option.isSome_iff_ne_none.2 h))

/-! ## The pole and the array (R369 to R372) -/

theorem gives_laneSticks (s : State) (r : Nat) {lane : Nat} (high : Bool) (h : lane < 132) :
    Gives (.poleGranuleTransfer r (some (.sticks lane high))) s (s.modTile r fun t => { t with fly := { t.fly with
      stuck := (t.fly.stuck.filter fun e => e.1 != lane) ++ [(lane, high)] } }) := by
  show execPoleGranuleTransfer r (some (.sticks lane high)) s = _
  unfold execPoleGranuleTransfer
  exact event_eq (decide_eq_true h) rfl

/-- Trouble that leaves a parity group, or meets a tile that is struck or due to be, is the fly's alone. -/
theorem gives_poleTrouble {s : State} {r : Nat} {p : PoleTrouble} (h : troubleOk (s.tile r).fly p = true)
    (hs : ((s.tile r).fly.transfer p).abandoned ≠ 15 ∨ (s.tile r).struck = true ∨ (s.tile r).strikeDue ≠ none) :
    Gives (.poleGranuleTransfer r (some (.trouble p))) s (s.modTile r fun t => { t with fly := t.fly.transfer p }) := by
  show execPoleGranuleTransfer r (some (.trouble p)) s = _
  unfold execPoleGranuleTransfer
  refine event_eq h (State.modTile_congr ?_)
  have hn : ¬(((s.tile r).fly.transfer p).abandoned = 15 ∧ (!(s.tile r).struck) = true ∧ (s.tile r).strikeDue.isNone = true) := by
    rintro ⟨ha, hn, hd⟩
    exact hs.elim (· ha) (Or.elim · (by simpa using hn) (· (by simpa using hd)))
  simp only [if_neg hn]

/-- A pole without a parity group left is dead, and its tile due to be struck (R372, R375). -/
theorem gives_poleDies {s : State} {r : Nat} {p : PoleTrouble} (h : troubleOk (s.tile r).fly p = true)
    (ha : ((s.tile r).fly.transfer p).abandoned = 15) (hs : (s.tile r).struck = false) (hd : (s.tile r).strikeDue = none) :
    Gives (.poleGranuleTransfer r (some (.trouble p))) s
      (s.modTile r fun t => { t with fly := t.fly.transfer p, strikeDue := some 0x34 }) := by
  show execPoleGranuleTransfer r (some (.trouble p)) s = _
  unfold execPoleGranuleTransfer
  refine event_eq h (State.modTile_congr ?_)
  simp [ha, hs, hd]

theorem gives_writeback {s : State} {r : Nat} {o : BitVec 25} (h : (s.tile r).fly.fixing.contains (o.toNat / 8 * 8) = true) :
    Gives (.eccWriteback r o .writeback) s (s.modTile r fun t => { t with fly := { t.fly with
      fixing := t.fly.fixing.filter (· != o.toNat / 8 * 8), weak := t.fly.weak.filter fun e => e.1 != o.toNat / 8 * 8 } }) := by
  show execEccWriteback r o .writeback s = _
  unfold execEccWriteback
  exact event_eq h rfl

theorem gives_cellFlip (s : State) (r : Nat) (o : BitVec 25) {b : BitVec 7} (h : b.toNat < 72) :
    Gives (.eccWriteback r o (.flip b)) s (s.modTile r fun t => { t with fly := { t.fly with
      weak := if t.fly.weak.contains (o.toNat / 8 * 8, b.toNat) then t.fly.weak.filter (· != (o.toNat / 8 * 8, b.toNat))
        else t.fly.weak ++ [(o.toNat / 8 * 8, b.toNat)] } }) := by
  show execEccWriteback r o (.flip b) s = _
  unfold execEccWriteback
  exact event_eq (decide_eq_true h) rfl

/-- A row with four corrections moves to a spare row, or stays where its bank has none (R370). -/
theorem gives_rowRemap {s : State} {r : Nat} {b : BitVec 4} {row : BitVec 10} (h : 4 ≤ (s.tile r).fly.fixesOf (b.toNat, row.toNat))
    (hr : (b.toNat, row.toNat) ∉ (s.tile r).fly.remapped) (hk : (b.toNat, row.toNat) ∉ (s.tile r).fly.kept)
    (hh : ∀ e ∈ (s.tile r).fly.held, e.1 ≠ b.toNat) {g : Fly → Fly}
    (hg : (if ((s.tile r).fly.remapped.filter fun e => e.1 = b.toNat).length < 16 then
        { (s.tile r).fly with held := (s.tile r).fly.held ++ [(b.toNat, row.toNat)] }
      else { (s.tile r).fly with
        kept := (s.tile r).fly.kept ++ [(b.toNat, row.toNat)]
        array := (s.tile r).fly.array.add (arrayEntry 4 (rowOffset b.toNat row.toNat) 0) }) = g (s.tile r).fly) :
    Gives (.rowRemap r b row) s (s.modTile r fun t => { t with fly := g t.fly }) := by
  show execRowRemap r b row s = _
  unfold execRowRemap
  refine event_eq ?_ (State.modTile_congr (congrArg (fun f => ({ s.tile r with fly := f } : Tile)) hg))
  simpa [h, hr, hk] using hh

theorem gives_rowRemapDone {s : State} {r : Nat} {b : BitVec 4} {k : Nat × Nat}
    (h : (s.tile r).fly.held.find? (fun e => e.1 == b.toNat) = some k) :
    Gives (.rowRemapDone r b) s ((s.modTile r fun t => { t with fly := { t.fly with
      held := t.fly.held.erase k, remapped := t.fly.remapped ++ [k]
      array := t.fly.array.add (arrayEntry 3 (rowOffset k.1 k.2) 0) } }).storesGoOn r) := by
  show execRowRemapDone r b s = _
  simp only [execRowRemapDone, h]

/-! ## Walks (R269 to R273, R394) -/

section
variable {s : State} {r : Nat} {va : BitVec 54} {p : Pitch}

theorem walk_waits (hp : (s.tile r).pitch.bind s.pitch? = some p)
    (h : ∃ k ∈ s.walkKeys p.image.homes va.toNat walkLevels p.image.root, s.bankHeld k = true) :
    Gives (.translationWalk r va) s s := by
  show execTranslationWalk r va s = _
  simp only [execTranslationWalk, hp]
  exact event_stutters (by simpa [State.walkHeldFrom] using h)

/-- A walk over entries that no remap holds and no wrong cell or lane meets goes on from the state as it is. -/
theorem walk_sound
    (hb : ∀ k ∈ s.walkKeys p.image.homes va.toNat walkLevels p.image.root, s.bankHeld k = false)
    (hs : ∀ k ∈ s.walkKeys p.image.homes va.toNat walkLevels p.image.root,
      flyEnd ≤ k ∨ (s.tile (k / 2 ^ 25)).fly.sound = true) :
    (s.walkHeldFrom p.image.homes va.toNat walkLevels p.image.root = false) ∧
      s.walkRead p.image.root p.image.homes va.toNat = s := by
  have hu : s.walkUnsound p.image.root p.image.homes va.toNat = false := by
    simpa [State.walkUnsound, or_iff_not_imp_left] using hs
  exact ⟨by simpa [State.walkHeldFrom] using hb, by simp [State.walkRead, hu]⟩

theorem fillCache_nil {ways : Nat} (h : 0 < ways) (same : TlbEntry → Bool) (e : TlbEntry) : fillCache ways same e [] = [e] := by
  simp [fillCache, h]

theorem walk_fills (hp : (s.tile r).pitch.bind s.pitch? = some p)
    (hb : s.walkHeldFrom p.image.homes va.toNat walkLevels p.image.root = false)
    (hr : s.walkRead p.image.root p.image.homes va.toNat = s) {e : TlbEntry}
    (hw : s.walk p.image.root p.image.homes va.toNat = .leaf e) (ht : (s.tile r).tlb = [])
    (hc : (s.field (s.fieldOf r)).cache = []) :
    let e := { e with locked := (s.field (s.fieldOf r)).locks.any fun k => k.root == e.root && k.page == e.page && k.big == e.big }
    Gives (.translationWalk r va) s ((s.modField (s.fieldOf r) fun g => { g with cache := [e] }).modTile r fun t =>
      { t with tlb := [e] }) := by
  show execTranslationWalk r va s = _
  simp only [execTranslationWalk, hp]
  refine event_eq (by simp [hb]) ?_
  simp only [hw, hr]
  refine (State.modTile_congr ?_).trans (congrArg (fun u => State.modTile u r _) (State.modField_congr ?_))
  · have ht' (g : Field → Field) : ((s.modField (s.fieldOf r) g).tile r).tlb = [] := ht
    simp [ht', fillCache_nil, Lock.holds]
  · simp [hc, fillCache_nil, Lock.holds]

theorem walk_bad (hp : (s.tile r).pitch.bind s.pitch? = some p)
    (hb : s.walkHeldFrom p.image.homes va.toNat walkLevels p.image.root = false)
    (hr : s.walkRead p.image.root p.image.homes va.toNat = s) (hw : s.walk p.image.root p.image.homes va.toNat = .bad) :
    Gives (.translationWalk r va) s (s.modField (s.fieldOf r) fun g => { g with posts := g.posts ++ [{
      record := { s.hwRecord r none 0x21 0 (va.setWidth 64) true false 0 with pitch := pitchWord p.id }, pitch := some p.id }] }) := by
  show execTranslationWalk r va s = _
  simp only [execTranslationWalk, hp]
  refine event_eq (by simp [hb]) ?_
  have hv : BitVec.ofNat 64 va.toNat = va.setWidth 64 := BitVec.ofNat_toNat 64 va
  simp only [hw, hr, State.postBadEntry, hv, Option.map_some, Option.getD_some]

theorem walk_fails (hp : (s.tile r).pitch.bind s.pitch? = some p)
    (hb : s.walkHeldFrom p.image.homes va.toNat walkLevels p.image.root = false)
    (hr : s.walkRead p.image.root p.image.homes va.toNat = s)
    (hw : s.walk p.image.root p.image.homes va.toNat = .final ∨ s.walk p.image.root p.image.homes va.toNat = .resolvable ∨
      s.walk p.image.root p.image.homes va.toNat = .malformed) : Gives (.translationWalk r va) s s := by
  show execTranslationWalk r va s = _
  simp only [execTranslationWalk, hp]
  refine event_eq (by simp [hb]) ?_
  rcases hw with hw | hw | hw <;> simp only [hw, hr]

end

end Sys2Proof.Machine
end


section
/-! # What a kill leaves of the module (R140, R374, R376, R377, R380) -/

namespace Sys2Proof.Machine

/-! ## Pitches and fields by their names -/

theorem State.pitch?_mapPitches (s : State) {g : Pitch → Pitch} (h : ∀ p, (g p).id = p.id) (id : PitchId) :
    ({ s with pitches := s.pitches.map g } : State).pitch? id = (s.pitch? id).map g := by
  have e : (fun p : Pitch => decide (p.id = id)) ∘ g = fun p => decide (p.id = id) := by
    funext p
    simp [h p]
  simp only [State.pitch?, List.find?_map, e]

theorem State.pitch?_modPitch (s : State) (id : PitchId) {f : Pitch → Pitch} (h : ∀ p, (f p).id = p.id) (id' : PitchId) :
    (s.modPitch id f).pitch? id' = (s.pitch? id').map fun p => if p.id = id then f p else p :=
  s.pitch?_mapPitches (fun p => by split <;> simp [h]) id'

theorem State.pitch?_id {s : State} {id : PitchId} {p : Pitch} (h : s.pitch? id = some p) : p.id = id := by
  simpa using List.find?_some h

theorem State.pitch?_modPitch_same {s : State} {id : PitchId} {f : Pitch → Pitch} (h : ∀ p, (f p).id = p.id) {p : Pitch}
    (hp : s.pitch? id = some p) : (s.modPitch id f).pitch? id = some (f p) := by
  simp [State.pitch?_modPitch s id h, hp, State.pitch?_id hp]

theorem assocGet_map_eq {α β : Type} (φ : α → β) (d : α) {g : α → α} (h : ∀ a, φ (g a) = φ a) (l : List (Nat × α)) (n : Nat) :
    φ (assocGet d (l.map fun e => (e.1, g e.2)) n) = φ (assocGet d l n) := by
  induction l with
  | nil => rfl
  | cons e l ih =>
    obtain ⟨k, a⟩ := e
    simp only [List.map_cons, assocGet]
    split
    · exact h a
    · exact ih

/-! ## Trap queues that stay as they are -/

/-- Every field's trap queue and overflow count are the same. -/
def QueuesKept (s t : State) : Prop := ∀ f, (t.field f).queue = (s.field f).queue ∧ (t.field f).overflow = (s.field f).overflow

theorem QueuesKept.refl (s : State) : QueuesKept s s := fun _ => ⟨rfl, rfl⟩

theorem QueuesKept.trans {s t u : State} (h : QueuesKept s t) (k : QueuesKept t u) : QueuesKept s u :=
  fun f => ⟨(k f).1.trans (h f).1, (k f).2.trans (h f).2⟩

theorem QueuesKept.of_fields {s t : State} (h : t.fields = s.fields) : QueuesKept s t := by
  intro f
  simp only [State.field, h, and_self]

theorem QueuesKept.foldl {α : Type} {f : State → α → State} (h : ∀ s a, QueuesKept s (f s a)) (l : List α) (s : State) :
    QueuesKept s (l.foldl f s) := by
  induction l generalizing s with
  | nil => exact .refl s
  | cons a l ih => exact (h s a).trans (ih _)

theorem QueuesKept.mapFields (s : State) {g : Field → Field} (h : ∀ f, (g f).queue = f.queue ∧ (g f).overflow = f.overflow) :
    QueuesKept s { s with fields := s.fields.map fun e => (e.1, g e.2) } :=
  fun f => ⟨assocGet_map_eq Field.queue {} (fun a => (h a).1) _ f, assocGet_map_eq Field.overflow {} (fun a => (h a).2) _ f⟩

/-! ## Steps in which no tile vacates, no queue changes and every pitch stays -/

/-- No position changes, no trap queue does, and every pitch is still there, in its state or killed. -/
structure Steady (s t : State) : Prop where
  vacant : t.vacant = s.vacant
  dead : t.dead = s.dead
  queues : QueuesKept s t
  pitch : ∀ id q, s.pitch? id = some q → ∃ q', t.pitch? id = some q' ∧ (q'.state = q.state ∨ q'.state = .killed)

theorem Steady.refl (s : State) : Steady s s := ⟨rfl, rfl, .refl s, fun _ q h => ⟨q, h, .inl rfl⟩⟩

theorem Steady.trans {s t u : State} (h : Steady s t) (k : Steady t u) : Steady s u := by
  refine ⟨k.vacant.trans h.vacant, k.dead.trans h.dead, h.queues.trans k.queues, fun id q hq => ?_⟩
  obtain ⟨q', hq', e⟩ := h.pitch id q hq
  obtain ⟨q'', hq'', e'⟩ := k.pitch id q' hq'
  refine ⟨q'', hq'', ?_⟩
  rcases e' with e' | e'
  · rwa [e']
  · exact .inr e'

theorem Steady.foldl {α : Type} {f : State → α → State} (h : ∀ s a, Steady s (f s a)) (l : List α) (s : State) :
    Steady s (l.foldl f s) := by
  induction l generalizing s with
  | nil => exact .refl s
  | cons a l ih => exact (h s a).trans (ih _)

/-- A step that changes neither fields nor pitches nor positions. -/
theorem Steady.of_eq {s t : State} (hf : t.fields = s.fields) (hp : t.pitches = s.pitches) (hv : t.vacant = s.vacant)
    (hd : t.dead = s.dead) : Steady s t :=
  ⟨hv, hd, .of_fields hf, fun id q h => ⟨q, by simpa only [State.pitch?, hp] using h, .inl rfl⟩⟩

theorem Steady.modTile (s : State) (r : Nat) (f : Tile → Tile) : Steady s (s.modTile r f) := .of_eq rfl rfl rfl rfl

theorem Steady.modCtx (s : State) (r : Nat) (i : CtxId) (f : Ctx → Ctx) : Steady s (s.modCtx r i f) := .of_eq rfl rfl rfl rfl

theorem Steady.modPitch (s : State) (id : PitchId) {f : Pitch → Pitch} (hi : ∀ p, (f p).id = p.id)
    (hs : ∀ p, (f p).state = p.state ∨ (f p).state = .killed) : Steady s (s.modPitch id f) := by
  refine ⟨rfl, rfl, .of_fields rfl, fun id' q h => ?_⟩
  refine ⟨if q.id = id then f q else q, (State.pitch?_modPitch s id hi id').trans (by rw [h]; rfl), ?_⟩
  split
  · exact hs q
  · exact .inl rfl

theorem Steady.modPlan (s : State) (id : PitchId) (k : PlanKey) (f : Plan → Plan) : Steady s (s.modPlan id k f) :=
  .modPitch s id (fun _ => rfl) fun _ => .inl rfl

theorem Steady.sendPacket (s : State) (m : Nat) (b : PacketBody) : Steady s (s.sendPacket m b) := by
  unfold State.sendPacket
  split
  · exact .refl s
  · exact .of_eq rfl rfl rfl rfl

theorem Steady.tellOthers (s : State) (id : PitchId) (q : Plan) (m : PlanMsg) : Steady s (s.tellOthers id q m) :=
  .foldl (fun s _ => .sendPacket s _ _) _ s

theorem Steady.countDone (s : State) (r : Nat) (src : Sender) : Steady s (s.countDone r src) := by
  unfold State.countDone
  generalize (if src.mod = s.modidx.toNat then src.rank else r) = k
  dsimp only
  split <;> exact .modTile s _ _

theorem Steady.nackUser (s : State) (m : UserMsg) (d : Byte) : Steady s (s.nackUser m d) := by
  unfold State.nackUser
  split
  · exact .modTile s _ _
  · exact .sendPacket s _ _

theorem Steady.answerMsg (s : State) (m : UserMsg) (w : Word) (t : Time) : Steady s (s.answerMsg m w t) := by
  unfold State.answerMsg
  split
  · split
    · exact .modTile s _ _
    · exact .modCtx s _ _ _
  · exact .sendPacket s _ _

/-! ### Groups that wait are taken back -/

theorem Steady.leaveTrig (s : State) (id : PitchId) (q : Plan) (r : Nat) (i : CtxId) : Steady s (s.leaveTrig id q r i) := by
  unfold State.leaveTrig
  split
  · exact (Steady.modPlan s _ _ _).trans (.tellOthers _ _ _ _)
  · exact .refl s

theorem Steady.leaveColfr (s : State) (id : PitchId) (q : Plan) (who : Nat × CtxId) : Steady s (s.leaveColfr id q who) := by
  unfold State.leaveColfr
  split
  · exact .refl s
  · refine (Steady.modPlan s id q.key fun q' => { q' with freers := q.freers.erase who }).trans ?_
    dsimp only
    split
    · exact (Steady.modPlan _ _ _ _).trans (.tellOthers _ _ _ _)
    · exact .refl _

theorem Steady.closeColset (s : State) (id : PitchId) (q : ColsetReq) : Steady s (s.closeColset id q) := by
  unfold State.closeColset
  refine (Steady.modPitch s id ?_ ?_).trans (.foldl (fun s _ => .sendPacket s _ _) _ _)
  · exact fun _ => rfl
  · exact fun _ => .inl rfl

theorem Steady.withdrawPlan (s : State) (r : Nat) (i : CtxId) : Steady s (s.withdrawPlan r i) := by
  unfold State.withdrawPlan
  split
  · exact .refl s
  · exact (Steady.foldl (fun s q => (Steady.leaveTrig s _ q r i).trans (.leaveColfr _ _ q _)) _ s).trans
      (.foldl (fun s q => .closeColset s _ q) _ _)

theorem Steady.takeBack (s : State) (home r : Nat) (mine : Msg → Bool) : Steady s (s.takeBack home r mine) :=
  (Steady.modTile s _ _).trans (.modTile _ _ _)

theorem Steady.withdrawMessage (s : State) (r : Nat) (i : CtxId) : Steady s (s.withdrawMessage r i) := by
  unfold State.withdrawMessage
  split
  · exact (Steady.takeBack s _ _ _).trans (.modCtx _ _ _ _)
  · exact .refl s

theorem Steady.withdraw (s : State) (r : Nat) (i : CtxId) : Steady s (s.withdraw r i) := by
  refine ((Steady.withdrawPlan s r i).trans (.withdrawMessage _ r i)).trans ?_
  unfold State.withdraw
  dsimp only
  split
  · split
    · exact (Steady.takeBack _ _ _ _).trans (.modCtx _ _ _ _)
    · exact .refl _
  · exact .refl _

theorem Steady.forgetPosts (s : State) (gone : Nat × CtxId → Bool) : Steady s (s.forgetPosts gone) :=
  ⟨rfl, rfl, .mapFields s (g := fun f => { f with posts := f.posts.filter fun p => !p.group.any gone }) fun _ => ⟨rfl, rfl⟩,
    fun _ q h => ⟨q, h, .inl rfl⟩⟩

theorem Steady.withdrawAll (s : State) (r : Nat) : Steady s (s.withdrawAll r) :=
  (Steady.foldl (fun s i => .withdraw s r i) _ s).trans (.forgetPosts _ _)

/-! ### A kill -/

theorem Steady.scramble (s : State) (p : Pitch) : Steady s (s.scramble p) := by
  refine .foldl (fun s h => .foldl (fun s i => ?_) _ s) _ s
  split
  · exact .of_eq rfl rfl rfl rfl
  · exact .refl s

theorem Steady.dropMessages (s : State) (id : PitchId) : Steady s (s.dropMessages id) := by
  refine .foldl (fun s e => ?_) _ s
  have hm : Steady s ((e.2.messages.filter (Msg.isUserOf id)).foldl (fun s m => s.countDone e.1 m.src) s) :=
    .foldl (fun s m => .countDone s _ _) _ s
  refine (hm.trans ?_).trans (.modTile _ _ _)
  split
  · split
    · exact .countDone _ _ _
    · exact .refl _
  · exact .refl _

theorem Steady.abandonCells (s : State) (r : Nat) : Steady s (s.abandonCells r) := by
  unfold State.abandonCells
  refine .foldl (fun s e => ?_) _ s
  exact .of_eq rfl rfl rfl rfl

theorem Steady.passAsks (s : State) (p : Pitch) : Steady s (s.passAsks p) := by
  unfold State.passAsks
  split
  · exact .modPitch s _ (fun _ => rfl) fun _ => .inl rfl
  · exact .foldl (fun s _ => .sendPacket s _ _) _ s

/-- The kill of a pitch sets it to KILLED, before and after steps that leave the module steady. -/
theorem State.killOne_eq {s : State} {id : PitchId} {p : Pitch} (h : s.pitch? id = some p) :
    ∃ u g, Steady s u ∧ (∀ q : Pitch, (g q).id = q.id ∧ (g q).state = .killed) ∧ s.killOne id = (u.modPitch id g).passAsks p := by
  unfold State.killOne
  rw [h]
  refine ⟨_, _, ?_, ?_, rfl⟩
  · have hw (l : List Nat) (u : State) : Steady u (l.foldl (fun s r => (s.withdrawAll r).abandonCells r) u) :=
      .foldl (fun s r => (Steady.withdrawAll s r).trans (.abandonCells _ r)) l u
    have ht (l : List Nat) (u : State) : Steady u (l.foldl (fun s m => s.tell m id.cfg .killed) u) :=
      .foldl (fun s m => .sendPacket s m _) l u
    exact ((((Steady.scramble s p).trans (.dropMessages _ id)).trans (hw _ _)).trans (ht _ _)).trans (.of_eq rfl rfl rfl rfl)
  · exact fun _ => ⟨rfl, rfl⟩

theorem Steady.killOne (s : State) (id : PitchId) : Steady s (s.killOne id) := by
  cases hp : s.pitch? id with
  | none =>
    simp only [State.killOne, hp]
    exact .refl s
  | some p =>
    obtain ⟨u, g, hu, hg, he⟩ := State.killOne_eq hp
    rw [he]
    exact (hu.trans (.modPitch u id (fun q => (hg q).1) fun q => .inr (hg q).2)).trans (.passAsks _ p)

theorem State.killOne_killed {s : State} {id : PitchId} {p : Pitch} (h : s.pitch? id = some p) :
    ∃ q, (s.killOne id).pitch? id = some q ∧ q.state = .killed := by
  obtain ⟨u, g, hu, hg, he⟩ := State.killOne_eq h
  obtain ⟨q, hq, -⟩ := hu.pitch id p h
  obtain ⟨q', hq', e⟩ := (Steady.passAsks (u.modPitch id g) p).pitch id (g q) (State.pitch?_modPitch_same (fun q => (hg q).1) hq)
  exact ⟨q', he ▸ hq', by rcases e with e | e <;> simp [e, hg]⟩

/-! ### Ends of pitches: the queues stay -/

theorem QueuesKept.modQueue (s : State) (q : Nat) (f : HostQueue → HostQueue) : QueuesKept s (s.modQueue q f) := .of_fields rfl

theorem QueuesKept.leaveEdge (s : State) (e : Option Nat × Token) : QueuesKept s (s.leaveEdge e) := by
  unfold State.leaveEdge
  split
  · exact .refl s
  · exact .modQueue s _ _

theorem QueuesKept.queueErr (s : State) (q : Nat) (e : Byte) : QueuesKept s (s.queueErr q e) := by
  unfold State.queueErr State.unbind
  split
  · exact .modQueue s _ _
  · exact .of_fields rfl

theorem QueuesKept.freeRegion (s : State) (id : PitchId) : QueuesKept s (s.freeRegion id) := by
  have h := QueuesKept.mapFields s (g := fun f => f.unlock id) fun _ => ⟨rfl, rfl⟩
  exact h.trans (.of_fields rfl)

theorem QueuesKept.dropEdge (s : State) (p : Pitch) : QueuesKept s (s.dropEdge p) :=
  (QueuesKept.of_fields rfl).trans (.foldl (fun s e => .leaveEdge s e) _ _)

theorem QueuesKept.releaseBehind (s : State) (id : PitchId) : QueuesKept s (s.releaseBehind id) := by
  unfold State.releaseBehind
  refine .trans ?_ (.foldl (fun u q => ?_) _ _)
  · exact .of_fields rfl
  · exact .of_fields rfl

theorem QueuesKept.endPitch (s : State) (id : PitchId) (e : Option Byte) : QueuesKept s (s.endPitch id e) := by
  unfold State.endPitch
  split
  · exact .refl s
  · next p _ =>
    refine ((((QueuesKept.freeRegion s id).trans (.dropEdge _ p)).trans ?_).trans (Steady.passAsks _ p).queues).trans
      (.releaseBehind _ id)
    cases e with
    | none => exact .of_fields rfl
    | some e => exact (QueuesKept.of_fields rfl).trans (.foldl (fun s q => .queueErr s q e) _ _)

theorem QueuesKept.requeue (s : State) (p : Pitch) : QueuesKept s (s.requeue p) := by
  unfold State.requeue
  refine (QueuesKept.freeRegion s p.id).trans ?_
  dsimp only
  split <;> exact .of_fields rfl

theorem QueuesKept.killWaiting (s : State) (id : PitchId) : QueuesKept s (s.killWaiting id) := by
  unfold State.killWaiting
  refine (QueuesKept.of_fields (t := s.forgetSaves id) rfl).trans ((Steady.killOne _ id).queues.trans ?_)
  dsimp only
  split
  · split
    · exact .requeue _ _
    · exact .endPitch _ _ _
  · exact .refl _

theorem QueuesKept.killBehind (s : State) (p : Pitch) : QueuesKept s (s.killBehind p) := by
  unfold State.killBehind
  split
  · split
    · exact .killWaiting s _
    · exact .refl s
  · exact .refl s

theorem QueuesKept.killPitch (s : State) (id : PitchId) : QueuesKept s (s.killPitch id) := by
  have hl (p : Pitch) : QueuesKept s (((s.forgetSaves id).killOne id).killBehind p) :=
    (QueuesKept.of_fields (t := s.forgetSaves id) rfl).trans ((Steady.killOne _ id).queues.trans (.killBehind _ p))
  have hf (l : List PitchId) : QueuesKept s (l.foldl State.killOne s) := .foldl (fun s i => (Steady.killOne s i).queues) l s
  have hb (b : PitchId) : QueuesKept s (((s.pitch? b).map s.killBehind).getD s) := by
    cases s.pitch? b with
    | none => exact .refl s
    | some q => exact .killBehind s q
  unfold State.killPitch
  cases s.pitch? id with
  | none => exact .refl s
  | some p =>
    cases hp : p.state with
    | running => simpa only [hp] using hf _
    | preempting => simpa only [hp] using hf _
    | loading => simpa only [hp] using hl p
    | armed t => simpa only [hp] using hl p
    | killed => simpa only [hp] using QueuesKept.refl s
    | struck => simpa only [hp] using QueuesKept.refl s
    | queued =>
      simp only [hp]
      split
      · exact (hb _).trans (.killWaiting _ _)
      · exact (QueuesKept.killBehind s p).trans (.killWaiting _ _)

/-- A running pitch that is killed is then in state KILLED (R380). -/
theorem State.killPitch_killed {s : State} {id : PitchId} {p : Pitch} (h : s.pitch? id = some p) (hr : p.state = .running) :
    ∃ q, (s.killPitch id).pitch? id = some q ∧ q.state = .killed := by
  obtain ⟨q, hq, hk⟩ := State.killOne_killed h
  obtain ⟨q', hq', e⟩ := (Steady.foldl Steady.killOne (s.partners p) (s.killOne id)).pitch id q hq
  simp only [State.killPitch, h, hr]
  exact ⟨q', hq', by rcases e with e | e <;> simp [e, hk]⟩

end Sys2Proof.Machine
end


section
/-! # Records, answers, strikes and resets (R26, R374 to R377, R393, R414, R418, R421, R423, R442, R448) -/

namespace Sys2Proof.Machine

/-! ## Records (R374 to R376) -/

@[simp] theorem State.field_modTile (s : State) (r : Nat) (g : Tile → Tile) (f : Nat) : (s.modTile r g).field f = s.field f := rfl

/-- What an ordinary record does to the tile that it names: a suspect tile, and one whose dead pole hardware reports, are due to be
struck (R375). -/
def Tile.noted (t : Tile) (e : Record) : Tile :=
  if (e.cause == 0x23 || (e.cause == 0x34 && e.flags.getLsbD 2)) && !t.struck && t.strikeDue.isNone then
    { t with strikeDue := some e.cause } else t

theorem State.noteRecord_ordinary (s : State) {p : Post} (h : p.record.flags.getLsbD 0 = false) :
    s.noteRecord p = s.modTile p.record.rank fun t => t.noted p.record := by
  simp only [State.noteRecord, h, Bool.false_and, Bool.false_eq_true, if_false, Bool.or_false]
  rfl

theorem QueuesKept.noteRecord (s : State) (p : Post) : QueuesKept s (s.noteRecord p) := by
  unfold State.noteRecord
  dsimp only
  generalize hu : s.modTile p.record.rank _ = u
  refine QueuesKept.trans (t := u) (hu ▸ .of_fields rfl) ?_
  split
  · split
    · exact .killPitch _ _
    · exact .refl _
  · exact .refl _

/-- A fatal record kills a pitch that runs (R374). -/
theorem State.noteRecord_kills {s : State} {p : Post} (h : p.record.flags.getLsbD 0 = true) {id : PitchId} (hi : p.pitch = some id)
    {q : Pitch} (hq : s.pitch? id = some q) (hr : q.state = .running) :
    ∃ q', (s.noteRecord p).pitch? id = some q' ∧ q'.state = .killed := by
  simp only [State.noteRecord, h, hi, if_true]
  exact State.killPitch_killed hq hr

theorem noted_other {t : Tile} {e : Record} (h : e.cause ≠ 0x23) (h' : e.cause ≠ 0x34) : t.noted e = t := by
  simp only [Tile.noted, beq_eq_false_iff_ne.2 h, beq_eq_false_iff_ne.2 h', Bool.false_and, Bool.or_false, Bool.false_eq_true,
    if_false]

theorem noted_suspect {t : Tile} {e : Record} (h : e.cause = 0x23) (hs : t.struck = false) (hd : t.strikeDue = none) :
    (t.noted e).strikeDue = some 0x23 := by
  simp [Tile.noted, h, hs, hd]

section
variable {s : State} {f : Nat} {p : Post} {l : List Post}

/-- The oldest record on its way arrives, where none waits (log 10). -/
theorem trapQueuePost_arrives (hp : (s.field f).posts = p :: l) (hh : p.held = false) (hg : p.group = none)
    (hl : ∀ w ∈ l, w.held = false) : Gives (.trapQueuePost f) s
      (((s.modField f fun g => { g with posts := l }).acceptPost f p).getD
        (s.modField f fun g => { g with posts := { p with held := true } :: l })) := by
  have hnone : (p :: l).findIdx? (·.held) = none := by
    rw [List.findIdx?_eq_none_iff]
    exact List.forall_mem_cons.2 ⟨hh, hl⟩
  have hsome : (p :: l).findIdx? (fun q => !q.held) = some 0 := by simp [List.findIdx?_cons, hh]
  show execTrapQueuePost f s = _
  simp only [execTrapQueuePost, hp, hnone, ite_self, Option.orElse_none, hsome, List.getElem?_cons_zero]
  have e1 : (s.modField f fun g => { g with posts := g.posts.eraseIdx 0 }) = s.modField f fun g => { g with posts := l } :=
    State.modField_congr (by simp only [hp, List.eraseIdx_cons_zero])
  have e2 : (s.modField f fun g => { g with posts := g.posts.set 0 { p with held := true } }) =
      s.modField f fun g => { g with posts := { p with held := true } :: l } :=
    State.modField_congr (by simp only [hp, List.set_cons_zero])
  split
  · next g e => rw [hg] at e; exact nomatch e
  · rw [e1, e2]

/-- An ordinary record finds room: the queue takes it (R375, R376). -/
theorem trapQueuePost_ordinary (hp : (s.field f).posts = p :: l) (hh : p.held = false) (hg : p.group = none)
    (hl : ∀ w ∈ l, w.held = false) (ho : p.record.flags.getLsbD 0 = false) (hn : (s.field f).queue.length < 255) :
    ∃ v, Gives (.trapQueuePost f) s v ∧ v.mem = s.mem ∧ v.pitches = s.pitches ∧
      (v.field f).posts = l ∧ (v.field f).queue = (s.field f).queue ++ [{ p.record with tick := s.tick }] ∧
      (p.record.cause ≠ 0x23 → p.record.cause ≠ 0x34 → ∀ q, v.tile q = s.tile q) ∧
      (p.record.cause = 0x23 → (s.tile p.record.rank).struck = false → (s.tile p.record.rank).strikeDue = none →
        (v.tile p.record.rank).strikeDue = some 0x23) := by
  have he : (s.modField f fun g => { g with posts := l }).acceptPost f p = some
      (((s.modField f fun g => { g with posts := l }).modField f fun g =>
        { g with queue := g.queue ++ [{ p.record with tick := s.tick }] }).modTile p.record.rank fun t =>
          t.noted { p.record with tick := s.tick }) := by
    simp only [State.acceptPost, State.field_modField, ho, Bool.false_eq_true, if_false, if_pos hn]
    exact congrArg some (State.noteRecord_ordinary _ (p := { p with record := { p.record with tick := s.tick } }) ho)
  have hv := trapQueuePost_arrives hp hh hg hl
  rw [he, Option.getD_some] at hv
  refine ⟨_, hv, rfl, rfl, ?_, ?_, fun h1 h2 q => ?_, fun h1 h2 h3 => ?_⟩
  · rw [State.field_modTile, State.field_modField, State.field_modField]
  · rw [State.field_modTile, State.field_modField, State.field_modField]
  · by_cases hq : q = p.record.rank
    · subst hq
      rw [State.tile_modTile]
      exact noted_other h1 h2
    · rw [State.tile_modTile_other _ hq]
      rfl
  · rw [State.tile_modTile]
    exact noted_suspect h1 h2 h3

/-- An ordinary record never takes the last slot: it waits (R376). -/
theorem trapQueuePost_full (hp : (s.field f).posts = p :: l) (hh : p.held = false) (hg : p.group = none)
    (hl : ∀ w ∈ l, w.held = false) (ho : p.record.flags.getLsbD 0 = false) (hn : 255 ≤ (s.field f).queue.length) :
    Gives (.trapQueuePost f) s (s.modField f fun g => { g with posts := { p with held := true } :: l }) := by
  have he : (s.modField f fun g => { g with posts := l }).acceptPost f p = none := by
    simp only [State.acceptPost, State.field_modField, ho, Bool.false_eq_true, if_false, if_neg (Nat.not_lt.2 hn)]
  have hv := trapQueuePost_arrives hp hh hg hl
  rwa [he, Option.getD_none] at hv

/-- A fatal record is taken, or counted where no slot is left, and kills its pitch (R374, R376). -/
theorem trapQueuePost_fatal (hp : (s.field f).posts = p :: l) (hh : p.held = false) (hg : p.group = none)
    (hl : ∀ w ∈ l, w.held = false) (ho : p.record.flags.getLsbD 0 = true) :
    ∃ v, Gives (.trapQueuePost f) s v ∧
      ((s.field f).queue.length < 256 → (v.field f).queue = (s.field f).queue ++ [{ p.record with tick := s.tick }] ∧
        (v.field f).overflow = (s.field f).overflow) ∧
      (256 ≤ (s.field f).queue.length → (v.field f).queue = (s.field f).queue ∧
        (v.field f).overflow = (s.field f).overflow + 1) ∧
      (∀ id q, p.pitch = some id → s.pitch? id = some q → q.state = .running →
        ∃ q', v.pitch? id = some q' ∧ q'.state = .killed) := by
  have he : (s.modField f fun g => { g with posts := l }).acceptPost f p = some
      (((s.modField f fun g => { g with posts := l }).modField f fun g =>
        if (s.field f).queue.length < 256 then { g with queue := g.queue ++ [{ p.record with tick := s.tick }] }
        else { g with overflow := g.overflow + 1 }).noteRecord { p with record := { p.record with tick := s.tick } }) := by
    simp only [State.acceptPost, State.field_modField, ho, if_true]
    rfl
  have hv := trapQueuePost_arrives hp hh hg hl
  rw [he, Option.getD_some] at hv
  refine ⟨_, hv, fun hn => ?_, fun hn => ?_, fun id q hi hq hr => ?_⟩
  · obtain ⟨h1, h2⟩ := QueuesKept.noteRecord _ _ f
    rw [h1, h2]
    simp [State.field_modField, hn]
  · obtain ⟨h1, h2⟩ := QueuesKept.noteRecord _ _ f
    rw [h1, h2]
    simp [State.field_modField, Nat.not_lt.2 hn]
  · exact State.noteRecord_kills ho hi hq hr

/-- A group that waits posts for itself, once there is room (R376). -/
theorem trapQueuePost_group {n : Nat} {g : Nat × CtxId} (hi : (s.field f).posts.findIdx? (·.held) = some n)
    (hp : (s.field f).posts[n]? = some p) (hg : p.group = some g) (hn : (s.field f).queue.length < 255) :
    Gives (.trapQueuePost f) s { s with agenda := .group g.1 g.2 :: s.agenda } := by
  show execTrapQueuePost f s = _
  simp only [execTrapQueuePost, if_pos hn, hi, Option.orElse_some, hp, hg]
  rfl

end

/-! ## Strikes (R375, R377) -/

theorem Steady.failPlan (s : State) (id : PitchId) (q : Plan) (c : BitVec 3) : Steady s (s.failPlan id q c) := by
  unfold State.failPlan
  split
  · exact .refl s
  · exact (Steady.modPlan s _ _ _).trans (.tellOthers _ _ _ _)

theorem Steady.failPlansOf (s : State) (r : Nat) (c : BitVec 3) : Steady s (s.failPlansOf r c) := by
  unfold State.failPlansOf State.failPlans
  split
  · exact .refl s
  · split
    · exact .refl s
    · exact .foldl (fun s q => .failPlan s _ q c) _ s

theorem Steady.matDiscard (s : State) (r : Nat) (cause : Byte) (c : MatCmd) : Steady s (s.matDiscard r cause c) := by
  have hg (f : MatCmd → MatCmd) : Steady s (s.modGang r c f) := by
    refine .foldl (fun s q => ?_) _ s
    split
    · exact .refl s
    · exact .modTile s _ _
  unfold State.matDiscard
  refine .trans ?_ (.foldl (fun s q => ?_) _ _)
  · split
    · exact hg _
    · exact .refl s
  · exact .of_eq rfl rfl rfl rfl

theorem Steady.matAbort (s : State) (r : Nat) (cause : Byte) : Steady s (s.matAbort r cause) := by
  unfold State.matAbort
  split
  · exact .refl s
  · exact (Steady.modTile s r _).trans (.foldl (fun s d => .matDiscard s r cause d) _ _)

theorem mem_insertNat (l : List Nat) (n : Nat) : n ∈ insertNat l n := by
  induction l with
  | nil => simp [insertNat]
  | cons k l ih =>
    unfold insertNat
    split
    · simp
    · split
      · next h => simp [h]
      · simp [ih]

/-- The end of a strike: the tile changes by `Tile.strike`, and its place goes on record. -/
def State.recordStrike (s : State) (r : Nat) : State :=
  let s := s.modTile r Tile.strike
  let phys := s.physOf r
  let s := { s with struckTiles := insertNat s.struckTiles phys, retired := insertNat s.retired phys }
  if (s.tile r).pitch.isNone then { s with vacated := insertNat s.vacated (s.yOf r * waferX + s.xOf r) } else s

theorem State.recordStrike_effect (s : State) (r : Nat) : ((s.recordStrike r).tile r = (s.tile r).strike) ∧
    (s.recordStrike r).retired = insertNat s.retired (s.physOf r) ∧
    (s.recordStrike r).struckTiles = insertNat s.struckTiles (s.physOf r) := by
  unfold State.recordStrike
  dsimp only
  split <;> exact ⟨State.tile_modTile s r _, rfl, rfl⟩

/-- The message that a struck tile runs has no end: its sender is answered or nacked. -/
def State.closeCurrent (s : State) (r : Nat) : State :=
  match (s.tile r).current with
  | some c =>
    let s := if !c.msg.answer then s.answerMsg c.msg 0 (s.tile r).m.pts else if c.answered then s else s.nackUser c.msg 0x02
    s.countDone r c.msg.src
  | none => s

theorem Steady.closeCurrent (s : State) (r : Nat) : Steady s (s.closeCurrent r) := by
  unfold State.closeCurrent
  split
  · refine .trans ?_ (.countDone _ _ _)
    split
    · exact .answerMsg _ _ _ _
    · split
      · exact .refl _
      · exact .nackUser _ _ _
  · exact .refl _

theorem State.strikeTile_eq (s : State) (r : Nat) (cause : Byte) :
    s.strikeTile r cause = ((((s.withdrawAll r).matAbort r cause).failPlansOf r 1).closeCurrent r).recordStrike r := by
  unfold State.strikeTile
  extract_lets u v
  show _ = (v.closeCurrent r).recordStrike r
  clear_value v
  rfl

theorem Steady.beforeStrike (s : State) (r : Nat) (cause : Byte) :
    Steady s ((((s.withdrawAll r).matAbort r cause).failPlansOf r 1).closeCurrent r) :=
  (((Steady.withdrawAll s r).trans (.matAbort _ r cause)).trans (.failPlansOf _ r 1)).trans (.closeCurrent _ r)

theorem Steady.physOf {s u : State} (h : Steady s u) (r : Nat) : u.physOf r = s.physOf r := by
  simp only [State.physOf, State.physRow, State.xOf, State.yOf, h.vacant, h.dead]

theorem gives_strikeTile {s : State} {r : Nat} {cause : Byte} (hd : (s.tile r).strikeDue = some cause)
    (hs : (s.tile r).struck = false) (hm : (s.field (s.fieldOf r)).manager = true) (hk : s.beingKilled r = false)
    (hb : s.boundTile r = false) : Gives (.strikeTile r) s (s.strikeTile r cause) := by
  show execStrikeTile r s = _
  simp only [execStrikeTile, hd]
  exact event_eq (by simp [hs, hm, hk, hb]) rfl

/-- A struck tile runs nothing more, and is on the module's record (R377, R418, R423). -/
theorem strikeTile_effect (s : State) (r : Nat) (cause : Byte) : let v := s.strikeTile r cause
    (v.tile r).struck = true ∧ (v.tile r).strikeDue = none ∧ (v.tile r).s.run = .stopped ∧
      (v.tile r).c.run = .stopped ∧ (v.tile r).m.run = .stopped ∧ (v.tile r).copy.queue = [] ∧ (v.tile r).current = none ∧
      s.physOf r ∈ v.retired ∧ s.physOf r ∈ v.struckTiles := by
  have hu := Steady.beforeStrike s r cause
  obtain ⟨ht, hr, hk⟩ := State.recordStrike_effect ((((s.withdrawAll r).matAbort r cause).failPlansOf r 1).closeCurrent r) r
  dsimp only
  rw [State.strikeTile_eq, ht, hr, hk, ← hu.physOf r]
  exact ⟨rfl, rfl, rfl, rfl, rfl, rfl, rfl, mem_insertNat _ _, mem_insertNat _ _⟩

/-! ## Boots (R26, R414, R421, R442) -/

theorem gives_fieldDerate {s : State} {f : Nat} {code : BitVec 4} (hf : f < 48) (hb : (s.field f).band ≠ 15)
    (hc : code < (s.field f).band) (ht : ∀ e ∈ s.tiles, e.2.pitch = none ∨ s.fieldOf e.1 ≠ f) :
    Gives (.fieldDerate f code) s (s.modField f fun g => { g with band := code }) := by
  show execFieldDerate f code s = _
  have hb' : (s.field f).band ≠ 15#4 := hb
  exact event_eq (by simpa [hf, hb', hc] using ht) rfl

theorem assocGet_map {α : Type} (d : α) {g : α → α} (h : g d = d) (l : List (Nat × α)) (n : Nat) :
    assocGet d (l.map fun e => (e.1, g e.2)) n = g (assocGet d l n) := by
  induction l with
  | nil => exact h.symm
  | cons e l ih =>
    obtain ⟨k, a⟩ := e
    simp only [List.map_cons, assocGet]
    split
    · rfl
    · exact ih

theorem assocGet_tabulate {α : Type} (d : α) (g : Nat → α) {l : List Nat} {n : Nat} (h : n ∈ l) :
    assocGet d (l.map fun k => (k, g k)) n = g n := by
  induction l with
  | nil => simp at h
  | cons k l ih =>
    simp only [List.map_cons, assocGet]
    split
    · next e => rw [e]
    · next e => exact ih ((List.mem_cons.1 h).resolve_left (Ne.symm e))

/-- What module reset keeps of a tile: its stuck lanes and flipped cells (log 35). -/
theorem rebooted_tile (s : State) (dead : List Nat) (bands : List (BitVec 4)) (bad devices : List Nat) (q : Nat) :
    (s.rebooted dead bands bad devices).tile q =
      { State.reset.tile q with fly := { stuck := (s.tile q).fly.stuck, weak := (s.tile q).fly.weak } } :=
  assocGet_map ({} : Tile) (g := fun t => { fly := { stuck := t.fly.stuck, weak := t.fly.weak } }) rfl s.tiles q

/-- What boot makes of a field (R414, R421, R448). -/
theorem rebooted_field (s : State) (dead : List Nat) (bands : List (BitVec 4)) (bad devices : List Nat) {f : Nat} (h : f < 48) :
    (s.rebooted dead bands bad devices).field f = { band := bootBand s.shipped bands bad f, manager := !bad.contains f } :=
  assocGet_tabulate ({} : Field) (fun f => { band := bootBand s.shipped bands bad f, manager := !bad.contains f })
    (List.mem_range.2 h)

/-- The memory keeps what tiles and devices hold, where the second tier's map is the same (R26, R442). -/
theorem mem_rebooted {s : State} {devices : List Nat} (h : s.tier2 = tier2Of devices) (dead : List Nat) (bands : List (BitVec 4))
    (bad : List Nat) (e : Host.Cell) : e ∈ (s.rebooted dead bands bad devices).mem ↔ e ∈ s.mem ∧ e.1 < 2 ^ 60 := by
  show e ∈ movedMem s.tier2 (tier2Of devices) _ ↔ _
  rw [movedMem, if_pos h, List.mem_filter, decide_eq_true_iff]

end Sys2Proof.Machine
end


section
/-! # Care of the module: the obligation -/

namespace Sys2Proof.Machine

theorem escalationWindowEnd_stutters {s : State} {r : Nat} (h : (s.tile r).cyc.toNat / 2 ^ 20 ≤ (s.tile r).window) :
    Gives (.escalationWindowEnd r) s s := by
  show execEscalationWindowEnd r s = _
  exact event_stutters (decide_eq_false (Nat.not_lt.2 h))

theorem throttleWindowEnd_stutters {s : State} {r : Nat} (h : (s.tile r).cyc.toNat / 65536 ≤ (s.tile r).thrWindow) (b : Bool) :
    Gives (.throttleWindowEnd r b) s s := by
  show execThrottleWindowEnd r b s = _
  exact event_stutters (decide_eq_false (Nat.not_lt.2 h))

theorem gives_secondTierLinkDown (s : State) {port : Nat} (h : port < 16) :
    Gives (.secondTierLinkDown port) s { s with tier2Down := insertNat s.tier2Down port } := by
  show execSecondTierLinkDown port s = _
  exact event_eq (decide_eq_true h) rfl

theorem gives_tqpAnswer {s : State} {r : Nat} {c : CtxId} (h : ((s.tile r).ctx c).answer = .due) (b : Bool) :
    Gives (.tqpAnswer r c b) s (s.modCtx r c fun x => { x with answer := .came (if b then 1 else 0) }) := by
  show execTqpAnswer r c b s = _
  exact event_eq (by rw [h]; rfl) rfl

theorem gives_trapQueueRemove {s : State} {f : Nat} (h : (s.field f).manager = true) :
    Gives (.trapQueueRemove f) s (s.modField f fun f => { f with queue := f.queue.tail }) := by
  show execTrapQueueRemove f s = _
  exact event_eq h rfl

theorem gives_moduleReset (s : State) (dead : List Nat) (bands : List (BitVec 4)) (bad : List Nat) {devices : List Nat}
    (h : devicesOk devices = true) : Gives (.moduleReset dead bands ⟨bad, devices⟩) s (s.rebooted dead bands bad devices) := by
  show execModuleReset dead bands ⟨bad, devices⟩ s = _
  exact event_eq h rfl

theorem moduleReset_stutters (s : State) (dead : List Nat) (bands : List (BitVec 4)) (bad : List Nat) {devices : List Nat}
    (h : devicesOk devices = false) : Gives (.moduleReset dead bands ⟨bad, devices⟩) s s := by
  show execModuleReset dead bands ⟨bad, devices⟩ s = _
  exact event_stutters h

theorem gives_marginWrite {s : State} {r : Nat} {w : Word} {g : Tile → Tile} (h : (s.tile r).writeMargin w = g (s.tile r)) :
    Gives (.marginWrite r w) s (s.modTile r g) := by
  show execMarginWrite r w s = _
  exact congrArg _ (State.modTile_congr h)

/-- Settles O57: every event either meets its condition, and gives the state that the statement names, or stutters; the replay
ladder is one lemma for its three places, and a fatal record's kill is followed by what it leaves steady. -/
theorem careOfTheModule : Obligations.CareOfTheModule := by
  unfold Obligations.CareOfTheModule
  intro s r c w t x f tile fly
  refine ⟨rfl, rfl, fun n v => rfl,
    gives_counterClear rfl false w rfl, gives_counterClear rfl true w rfl, gives_counterClear rfl false w rfl,
    gives_counterClear rfl true w rfl, gives_counterClear rfl false w rfl, gives_counterClear rfl true w rfl,
    gives_ltrlimWrite s r w, gives_ltrwinWrite s r w,
    fun h => gives_marginWrite (writeMargin_of_sound h w), fun h => gives_marginWrite (writeMargin_of_susp h w),
    fun h d => ⟨gives_logStatusRead h (.inl rfl) d, gives_logStatusRead h (.inr rfl) d⟩,
    ⟨fun hr hw hc => lateGroup_ladder hr hw hc, fun n m hm hn hc => lateMatrix_ladder c hm hn hc,
      fun n hr hc ha => lateSummary_ladder hr hc ha⟩,
    fun h => gives_windowEnd h rfl, escalationWindowEnd_stutters, rfl,
    fun b => ⟨fun h => gives_throttleWindowEnd h b, fun h => throttleWindowEnd_stutters h b⟩,
    gives_temperatureRefresh, temperatureRefresh_stutters,
    fun place => rfl, fun key h => gives_scrubSram h, fun key word h => gives_scrubLine s r key h,
    fun word h => gives_scrubSummary s r h, gives_scrubParity,
    rfl, fun lane high h => gives_laneSticks s r high h, fun p h => ⟨gives_poleTrouble h, gives_poleDies h⟩,
    ?writebacks, ?remaps, fun b k h => gives_rowRemapDone h,
    fun port h => gives_secondTierLinkDown s h, ?walks, rfl, gives_tqpAnswer, ?posts,
    fun f n p g hi hp hg hn => trapQueuePost_group hi hp hg hn, fun f h => gives_trapQueueRemove h,
    fun cause hd hs hm hk hb => ⟨gives_strikeTile hd hs hm hk hb, strikeTile_effect s r cause⟩,
    fun f code hf hb hc ht => gives_fieldDerate hf hb hc ht, ?reset,
    fun dead bands bad devices h => moduleReset_stutters s dead bands bad h, rfl⟩
  case writebacks =>
    refine fun o => ⟨fun h => gives_writeback h, fun b hb => ⟨fun h => ?_, fun h => ?_⟩⟩
    · exact (gives_cellFlip s r o hb).trans (congrArg _ (State.modTile_congr (by
        show ({ s.tile r with fly := _ } : Tile) = _
        rw [show (s.tile r).fly.weak.contains (o.toNat / 8 * 8, b.toNat) = false from h]
        rfl)))
    · exact (gives_cellFlip s r o hb).trans (congrArg _ (State.modTile_congr (by
        show ({ s.tile r with fly := _ } : Tile) = _
        rw [show (s.tile r).fly.weak.contains (o.toNat / 8 * 8, b.toNat) = true from h]
        rfl)))
  case remaps =>
    exact fun b row h hr hk hh => ⟨fun hn =>
      gives_rowRemap (g := fun f => { f with held := f.held ++ [(b.toNat, row.toNat)] }) h hr hk hh (if_pos hn), fun hn =>
      gives_rowRemap (g := fun f => { f with
        kept := f.kept ++ [(b.toNat, row.toNat)], array := f.array.add (arrayEntry 4 (rowOffset b.toNat row.toNat) 0) })
        h hr hk hh (if_neg (Nat.not_lt.2 hn))⟩
  case walks =>
    refine fun va p hp => ⟨walk_waits hp, fun hb hs => ?_⟩
    obtain ⟨hheld, hread⟩ := walk_sound hb hs
    exact ⟨fun e hw ht hc => walk_fills hp hheld hread hw ht hc, walk_bad hp hheld hread, walk_fails hp hheld hread⟩
  case posts =>
    exact fun f p l hp hh hg hl => ⟨trapQueuePost_ordinary hp hh hg hl, trapQueuePost_full hp hh hg hl,
      trapQueuePost_fatal hp hh hg hl⟩
  case reset =>
    refine fun dead bands bad devices h => ⟨_, gives_moduleReset s dead bands bad h, rfl, rfl, rfl, rfl, rfl, rfl,
      rebooted_tile s dead bands bad devices, fun f hf => ?_, fun he => mem_rebooted he dead bands bad⟩
    rw [rebooted_field s dead bands bad devices hf]
    exact ⟨rfl, rfl, rfl⟩

end Sys2Proof.Machine
end


section
/-! # Host queues and their records (R137, R141, R142, R432 to R437) -/

namespace Sys2Proof.Machine

/-! ## Vectors, queues, pitches -/

@[simp] theorem vecMod_getElem?_same {α : Type} {n : Nat} (v : Vector α n) (i : Nat) (f : α → α) :
    (vecMod v i f)[i]? = v[i]?.map f := by
  unfold vecMod
  by_cases h : i < n
  · simp [h]
  · simp [h]

@[simp] theorem State.hostQueue_modQueue (s : State) (q : Nat) (f : HostQueue → HostQueue) :
    (s.modQueue q f).hostQueue q = f (s.hostQueue q) := assocGet_assocPut_same _ _ _ _

theorem State.modQueue_congr {s : State} {q : Nat} {f g : HostQueue → HostQueue} (h : f (s.hostQueue q) = g (s.hostQueue q)) :
    s.modQueue q f = s.modQueue q g := by
  simp only [State.modQueue, h]

theorem State.pitch?_modPitch_other {s : State} {id id' : PitchId} (hn : id' ≠ id) {f : Pitch → Pitch} (h : ∀ p, (f p).id = p.id) :
    (s.modPitch id f).pitch? id' = s.pitch? id' := by
  rw [State.pitch?_modPitch s id h]
  cases hp : s.pitch? id' with
  | none => rfl
  | some p => simp [State.pitch?_id hp, hn]

/-- A queue that takes an error refuses, and tells no memory and no tile (R437). -/
theorem State.queueErr_effect (s : State) (q : Nat) (e : Byte) : (s.queueErr q e).mem = s.mem ∧
    (∀ x, (s.queueErr q e).tile x = s.tile x) ∧ (s.queueErr q e).hostQueue q =
      { s.hostQueue q with state := .refused, err := e, stream := none, record := none, early := [] } := by
  have h : (s.unbind q).mem = s.mem ∧ (∀ x, (s.unbind q).tile x = s.tile x) ∧ (s.unbind q).hostQueue q = s.hostQueue q := by
    unfold State.unbind
    split <;> exact ⟨rfl, fun _ => rfl, rfl⟩
  obtain ⟨hm, ht, hq⟩ := h
  exact ⟨hm, ht, (State.hostQueue_modQueue _ q _).trans (by rw [hq])⟩

/-! ## A new pitch -/

/-- A pitch that takes the place of those of its name is found by its name, and the others as before. -/
theorem find?_replaced (l : List Pitch) (p : Pitch) (id : PitchId) :
    (l.filter (fun q => decide (q.id ≠ p.id)) ++ [p]).find? (fun x => decide (x.id = id)) =
      if id = p.id then some p else l.find? fun x => decide (x.id = id) := by
  rw [List.find?_append, List.find?_filter]
  split
  · next h =>
    subst h
    have hn : l.find? (fun a => decide (decide (a.id ≠ p.id) = true ∧ decide (a.id = p.id) = true)) = none :=
      List.find?_eq_none.2 (by simp)
    rw [hn]
    simp
  · next h =>
    have e : (fun a : Pitch => decide (decide (a.id ≠ p.id) = true ∧ decide (a.id = id) = true)) =
        fun a => decide (a.id = id) := by
      funext a
      by_cases ha : a.id = id
      · subst ha
        simp [h]
      · simp [ha]
    rw [e]
    simp [Ne.symm h]

section
variable (s : State) (im : Image) (cls portal : Nat)

theorem State.pitch?_addPitch : (s.addPitch im cls portal).1.pitch? (s.addPitch im cls portal).2.id =
    some (s.addPitch im cls portal).2 := (find?_replaced _ _ _).trans (if_pos rfl)

theorem State.pitch?_addPitch_other {id : PitchId} (h : id ≠ (s.addPitch im cls portal).2.id) :
    (s.addPitch im cls portal).1.pitch? id = s.pitch? id := (find?_replaced _ _ _).trans (if_neg h)

end

/-! ## A splice is queued behind its predecessor (R141, R142) -/

/-- Balancing a field sets ballast in tiles alone (R425). -/
theorem State.balanceField_tiles {put : Pitch} {f n : Nat} {s t : State} (h : s.balanceField put f n = some t) :
    ∃ l, t = { s with tiles := l } := by
  induction n generalizing s with
  | zero =>
    dsimp only [State.balanceField] at h
    exact nomatch h
  | succ n ih =>
    dsimp only [State.balanceField] at h
    split at h
    · exact ⟨s.tiles, (Option.some.inj h).symm⟩
    · split at h
      · exact nomatch h
      · obtain ⟨l, hl⟩ := ih h
        exact ⟨l, hl⟩

theorem State.balance_tiles {put : Pitch} {s t : State} (h : s.balance put = some t) : ∃ l, t = { s with tiles := l } := by
  have key (fs : List Nat) : ∀ {u t : State}, fs.foldl (fun o f => o.bind fun s => s.balanceField put f 1201) (some u) = some t →
      ∃ l, t = { u with tiles := l } := by
    induction fs with
    | nil => exact fun {u t} h => ⟨u.tiles, (Option.some.inj h).symm⟩
    | cons f fs ih =>
      intro u t h
      rw [List.foldl_cons, Option.bind_some] at h
      cases hb : u.balanceField put f 1201 with
      | none =>
        rw [hb] at h
        have hn : fs.foldl (fun o f => o.bind fun s => s.balanceField put f 1201) none = (none : Option State) := by
          clear ih h
          induction fs with
          | nil => rfl
          | cons f fs ih => exact ih
        exact nomatch hn.symm.trans h
      | some w =>
        rw [hb] at h
        obtain ⟨l, rfl⟩ := State.balanceField_tiles hb
        obtain ⟨l', hl'⟩ := ih h
        exact ⟨l', hl'⟩
  exact key _ h

theorem State.balance_getD (s : State) (put : Pitch) : ∃ l, (s.balance put).getD s = { s with tiles := l } := by
  cases h : s.balance put with
  | none => exact ⟨s.tiles, rfl⟩
  | some t => exact State.balance_tiles h

/-- A successor accepted as a splice: on its predecessor's region, with its streams' places. -/
def State.spliced (s : State) (p q r : Pitch) : Pitch :=
  { r with
    x0 := p.x0, y0 := p.y0, behind := some p.id
    ingress := r.ingress.mapIdx fun k g =>
      match r.image.channels.find? fun c => c.src == .ingress k with
      | some c => { g with dests := s.endsOf { q with x0 := p.x0, y0 := p.y0 } c, used := true }
      | none => g
    egress := r.egress.mapIdx fun k e => { e with fed := r.image.channels.any fun c => c.dests.contains (.egress k) } }

theorem State.spliced_id (s : State) (p q r : Pitch) : (s.spliced p q r).id = r.id := rfl

theorem State.queueBehind_fits {s : State} {p q : Pitch} {keep : Bool} (h : s.spliceFits p q keep = true) :
    ∃ l, let u := ({ s with tiles := l } : State).modPitch p.id fun p => { p with successor := some (q.id, keep) }
      s.queueBehind p q keep = u.modPitch q.id (u.spliced p q) := by
  obtain ⟨l, hl⟩ := s.balance_getD { q with x0 := p.x0, y0 := p.y0 }
  refine ⟨l, ?_⟩
  unfold State.queueBehind
  rw [if_pos h]
  dsimp only
  rw [hl]
  rfl

theorem State.queueBehind_waits {s : State} {p q : Pitch} {keep : Bool} (h : ¬s.spliceFits p q keep = true) :
    s.queueBehind p q keep = s.modPitch q.id fun r => { r with behind := some p.id } := if_neg h

/-- What the queueing of a successor leaves of the module: a changed list of pitches, and tiles. -/
theorem State.queueBehind_fields (s : State) (p q : Pitch) (keep : Bool) :
    ∃ ps ts, s.queueBehind p q keep = { s with pitches := ps, tiles := ts } := by
  by_cases h : s.spliceFits p q keep = true
  · obtain ⟨l, hl⟩ := State.queueBehind_fits h
    exact ⟨_, l, hl⟩
  · exact ⟨_, s.tiles, State.queueBehind_waits h⟩

/-- The queued pitch `o` is `q` as far as its launch goes: the same launch, whose streams have the same queues and words. -/
structure SameLaunch (q o : Pitch) : Prop where
  state : o.state = q.state
  cls : o.cls = q.cls
  age : o.age = q.age
  image : o.image = q.image
  portal : o.portal = q.portal
  stream : ∀ (j : Nat) (g : Ingress), q.ingress[j]? = some g →
    ∃ g' : Ingress, o.ingress[j]? = some g' ∧ g'.bound = g.bound ∧ g'.words = g.words

theorem SameLaunch.refl (q : Pitch) : SameLaunch q q := ⟨rfl, rfl, rfl, rfl, rfl, fun _ g h => ⟨g, h, rfl, rfl⟩⟩

theorem State.spliced_sameLaunch (s : State) (p q r : Pitch) : SameLaunch r (s.spliced p q r) := by
  refine ⟨rfl, rfl, rfl, rfl, rfl, fun j g hg => ?_⟩
  unfold State.spliced
  dsimp only
  rw [Vector.getElem?_mapIdx, hg]
  refine ⟨_, rfl, ?_⟩
  split <;> exact ⟨rfl, rfl⟩

theorem State.queueBehind_pitch {s : State} {p q : Pitch} (keep : Bool) (hq : s.pitch? q.id = some q)
    (hp : s.pitch? p.id = some p) (hn : p.id ≠ q.id) : ∃ o, (s.queueBehind p q keep).pitch? q.id = some o ∧ SameLaunch q o ∧
      o.behind = some p.id ∧ (s.spliceFits p q keep = true → o.x0 = p.x0 ∧ o.y0 = p.y0 ∧
        ((s.queueBehind p q keep).pitch? p.id).map (·.successor) = some (some (q.id, keep))) := by
  by_cases hf : s.spliceFits p q keep = true
  · obtain ⟨l, hl⟩ := State.queueBehind_fits hf
    rw [hl]
    have hsucc := State.pitch?_modPitch_same (s := { s with tiles := l }) (f := fun p => { p with successor := some (q.id, keep) })
      (fun _ => rfl) hp
    have hsame := State.pitch?_modPitch_other (s := { s with tiles := l }) (f := fun p => { p with successor := some (q.id, keep) })
      (Ne.symm hn) fun _ => rfl
    refine ⟨_, State.pitch?_modPitch_same (State.spliced_id _ p q) (hsame.trans hq), State.spliced_sameLaunch _ p q q, rfl, fun _ => ⟨rfl, rfl, ?_⟩⟩
    rw [State.pitch?_modPitch_other hn (State.spliced_id _ p q), hsucc]
    rfl
  · rw [State.queueBehind_waits hf]
    have hwait := State.pitch?_modPitch_same (f := fun r => { r with behind := some p.id }) (fun _ => rfl) hq
    exact ⟨_, hwait, ⟨rfl, rfl, rfl, rfl, rfl, fun _ g h => ⟨g, h, rfl, rfl⟩⟩, rfl, fun h => absurd h hf⟩

/-! ## A queue is bound to a stream -/

/-- What the stream that a queue is bound to takes over from it. -/
def Ingress.bindTo (g : Ingress) (q : Nat) (h : HostQueue) (rd : BitVec 512) : Ingress :=
  { g with
    used := true, bound := if h.state == .closed then g.bound else g.bound ++ [q]
    words := g.words ++ recParams rd ++ h.early.map fun w => (some q, w) }

theorem State.hostQueue_bindQueue (s : State) (q : Nat) (id : PitchId) (k : Nat) (rd : BitVec 512) :
    (s.bindQueue q id k rd).hostQueue q = { s.hostQueue q with
      state := if (s.hostQueue q).state == .closed then .closed else .bound, stream := some (id, k), record := none, early := [] } :=
  State.hostQueue_modQueue _ q _

theorem State.pitch?_bindQueue {s : State} {id : PitchId} {o : Pitch} (h : s.pitch? id = some o) (q k : Nat) (rd : BitVec 512) :
    (s.bindQueue q id k rd).pitch? id = some { o with ingress := vecMod o.ingress k fun g => g.bindTo q (s.hostQueue q) rd } :=
  State.pitch?_modPitch_same (f := fun p => { p with ingress := vecMod p.ingress k fun g => g.bindTo q (s.hostQueue q) rd })
    (fun _ => rfl) h

theorem State.pitch?_bindQueue_other {s : State} {id id' : PitchId} (h : id' ≠ id) (q k : Nat) (rd : BitVec 512) :
    (s.bindQueue q id k rd).pitch? id' = s.pitch? id' :=
  State.pitch?_modPitch_other (f := fun p => { p with ingress := vecMod p.ingress k fun g => g.bindTo q (s.hostQueue q) rd })
    h fun _ => rfl

end Sys2Proof.Machine
end


section
/-! # Launches, splices and joins (R137, R141, R142, R435, R436) -/

namespace Sys2Proof.Machine

/-- The image of a record, under the record's configuration id. -/
def recImage (im : Image) (rd : BitVec 512) : Image := { im with cfg := recCfg rd }

/-- The portals' base that the directory gives a record. -/
def State.recBase (s : State) (rd : BitVec 512) : Nat := (assocGet ({} : DirEntry) s.directory (recCfg rd)).portal.toNat

/-- A record's image is kept, and its new pitch made. -/
def State.readied (s : State) (rd : BitVec 512) (im : Image) : State × Pitch :=
  ({ s with images := assocPut s.images (recImage im rd).cfg (recImage im rd) } : State).addPitch (recImage im rd) (recClass rd) (s.recBase rd)

section
variable {s : State} {q : Nat} {rd : BitVec 512} {im : Image}

theorem startRecord_badImage (h : imageGood (recImage im rd) = false) : s.startRecord q rd im = s.queueErr q 2 :=
  if_pos (by simpa [recImage] using h)

theorem startRecord_badPortal (h : imageGood (recImage im rd) = true) (hp : s.portalsOk (recImage im rd) (s.recBase rd) = false) :
    s.startRecord q rd im = s.queueErr q 6 :=
  (if_neg (by simpa [recImage] using h)).trans (if_pos (by simpa [recImage, State.recBase] using hp))

variable (h : imageGood (recImage im rd) = true) (hp : s.portalsOk (recImage im rd) (s.recBase rd) = true)
include h hp

theorem startRecord_good : s.startRecord q rd im =
    if recOp rd = 0 then
      ({ (s.readied rd im).1 with
        classes := vecMod (s.readied rd im).1.classes (recClass rd) fun l => l ++ [(s.readied rd im).2.id] } : State).bindQueue q
          (s.readied rd im).2.id (recStream rd) rd
    else
      match s.spliceTarget rd with
      | none => ({ s with images := assocPut s.images (recImage im rd).cfg (recImage im rd) } : State).queueErr q 5
      | some p => ((s.readied rd im).1.queueBehind p (s.readied rd im).2 (recOp rd == 2)).bindQueue q (s.readied rd im).2.id
          (recStream rd) rd := by
  refine (if_neg (by simpa [recImage] using h)).trans ((if_neg (by simpa [recImage, State.recBase] using hp)).trans ?_)
  rfl

theorem startRecord_launch (ho : recOp rd = 0) : s.startRecord q rd im =
    ({ (s.readied rd im).1 with
      classes := vecMod (s.readied rd im).1.classes (recClass rd) fun l => l ++ [(s.readied rd im).2.id] } : State).bindQueue q
        (s.readied rd im).2.id (recStream rd) rd := (startRecord_good h hp).trans (if_pos ho)

theorem startRecord_noTarget (ho : recOp rd ≠ 0) (ht : s.spliceTarget rd = none) : s.startRecord q rd im =
    ({ s with images := assocPut s.images (recImage im rd).cfg (recImage im rd) } : State).queueErr q 5 := by
  rw [startRecord_good h hp, if_neg ho, ht]

theorem startRecord_splice (ho : recOp rd ≠ 0) {p : Pitch} (ht : s.spliceTarget rd = some p) : s.startRecord q rd im =
    ((s.readied rd im).1.queueBehind p (s.readied rd im).2 (recOp rd == 2)).bindQueue q (s.readied rd im).2.id (recStream rd) rd := by
  rw [startRecord_good h hp, if_neg ho, ht]

end

/-- The name of a record's new pitch. -/
def State.newId (s : State) (rd : BitVec 512) : PitchId :=
  let before := assocGet 0 s.launches (recCfg rd)
  ⟨recCfg rd, if before = 65535 then 1 else before + 1⟩

/-- A state in which a record's new pitch is ready: queued, without tokens and without queues. -/
structure Readied (s u : State) (rd : BitVec 512) (im : Image) (o : Pitch) : Prop where
  mem : u.mem = s.mem
  queues : u.queues = s.queues
  born : u.born = s.born + 1
  launches : assocGet 0 u.launches (recCfg rd) = (s.newId rd).inst
  pitch : u.pitch? (s.newId rd) = some o
  launch : SameLaunch (s.readied rd im).2 o

theorem readied_launches (s : State) (rd : BitVec 512) (im : Image) :
    assocGet 0 (s.readied rd im).1.launches (recCfg rd) = (s.newId rd).inst := assocGet_assocPut_same _ _ _ _

theorem readied_pitch (s : State) (rd : BitVec 512) (im : Image) :
    (s.readied rd im).1.pitch? (s.newId rd) = some (s.readied rd im).2 := State.pitch?_addPitch _ _ _ _

/-- What a queue's record leads to: its new pitch is queued, with the queue bound to its stream. -/
structure QueuedAs (s : State) (q : Nat) (rd : BitVec 512) (im : Image) (v : State) (o : Pitch) : Prop where
  mem : v.mem = s.mem
  pitch : v.pitch? (s.newId rd) = some o
  state : o.state = .queued
  cls : o.cls = recClass rd
  age : o.age = s.born
  image : o.image = recImage im rd
  portal : o.portal = s.recBase rd
  born : v.born = s.born + 1
  launches : assocGet 0 v.launches (recCfg rd) = (s.newId rd).inst
  stream : ∃ g, o.ingress[recStream rd]? = some g ∧ g.used = true ∧
    g.bound = (if (s.hostQueue q).state = .closed then [] else [q]) ∧
    g.words = recParams rd ++ (s.hostQueue q).early.map fun w => (some q, w)
  queue : v.hostQueue q = { s.hostQueue q with
    state := if (s.hostQueue q).state = .closed then .closed else .bound, stream := some (s.newId rd, recStream rd)
    record := none, early := [] }

theorem recStream_lt {rd : BitVec 512} (h : recordOk rd = true) : recStream rd < 16 := by
  simp only [recordOk, Bool.and_eq_true, decide_eq_true_eq] at h
  omega

theorem Readied.bind {s u : State} {rd : BitVec 512} {im : Image} {o : Pitch} (h : Readied s u rd im o) (hr : recordOk rd = true)
    (q : Nat) : QueuedAs s q rd im (u.bindQueue q (s.newId rd) (recStream rd) rd)
      { o with ingress := vecMod o.ingress (recStream rd) fun g => g.bindTo q (s.hostQueue q) rd } := by
  have hq : u.hostQueue q = s.hostQueue q := congrArg (assocGet _ · q) h.queues
  have hg : (s.readied rd im).2.ingress[recStream rd]? = some {} := by
    show (Vector.replicate 16 ({} : Ingress))[recStream rd]? = _
    simp [recStream_lt hr]
  obtain ⟨g, hgo, hb, hw⟩ := h.launch.stream _ _ hg
  obtain ⟨hst, hcls, hage, him, hpo, -⟩ := h.launch
  refine ⟨h.mem, ?_, hst, hcls, hage, him, hpo, h.born, h.launches,
    ⟨g.bindTo q (s.hostQueue q) rd, ?_, rfl, ?_, ?_⟩, ?_⟩
  · rw [State.pitch?_bindQueue h.pitch, hq]
  · rw [vecMod_getElem?_same, hgo, Option.map_some]
  · rw [Ingress.bindTo, hb]
    simp
  · rw [Ingress.bindTo, hw]
    simp
  · rw [State.hostQueue_bindQueue, hq]
    simp

theorem newId_splices {s : State} {rd : BitVec 512} {im : Image} {p : Pitch} (hp : s.pitch? p.id = some p)
    (hn : p.id ≠ s.newId rd) : (s.readied rd im).1.pitch? p.id = some p :=
  (State.pitch?_addPitch_other _ _ _ _ hn).trans hp

theorem spliceTarget_pitch {s : State} {rd : BitVec 512} {p : Pitch} (h : s.spliceTarget rd = some p) : s.pitch? p.id = some p := by
  obtain ⟨hp, -⟩ := Option.filter_eq_some_iff.1 h
  rwa [State.pitch?_id hp]

/-- A launch queues its pitch at the end of its class. -/
theorem readied_launch (s : State) (rd : BitVec 512) (im : Image) : Readied s
    { (s.readied rd im).1 with classes := vecMod (s.readied rd im).1.classes (recClass rd) fun l => l ++ [(s.readied rd im).2.id] }
    rd im (s.readied rd im).2 :=
  ⟨rfl, rfl, rfl, readied_launches s rd im, readied_pitch s rd im, .refl _⟩

/-- A splice queues its pitch behind its predecessor. -/
theorem readied_splice {s : State} {rd : BitVec 512} {im : Image} {p : Pitch} (hp : s.pitch? p.id = some p)
    (hn : p.id ≠ s.newId rd) (keep : Bool) : ∃ o, let u := (s.readied rd im).1.queueBehind p (s.readied rd im).2 keep
      Readied s u rd im o ∧ u.classes = s.classes ∧ o.behind = some p.id ∧
        ((s.readied rd im).1.spliceFits p (s.readied rd im).2 keep = true → o.x0 = p.x0 ∧ o.y0 = p.y0 ∧
          (u.pitch? p.id).map (·.successor) = some (some (s.newId rd, keep))) := by
  obtain ⟨o, ho, hl, hb, hf⟩ := State.queueBehind_pitch keep (State.pitch?_addPitch _ _ _ _) (newId_splices hp hn) hn
  obtain ⟨ps, ts, hu⟩ := (s.readied rd im).1.queueBehind_fields p (s.readied rd im).2 keep
  refine ⟨o, ⟨?_, ?_, ?_, ?_, ho, hl⟩, ?_, hb, hf⟩ <;> rw [hu]
  · rfl
  · rfl
  · rfl
  · exact readied_launches s rd im
  · rfl

/-- A step after which queue `q` refuses with error `e`, and memory and tiles are as before (R437). -/
def QueueRefuses (i : Instr) (s : State) (q : Nat) (e : Byte) : Prop :=
  ∃ v, Gives i s v ∧ v.mem = s.mem ∧ (∀ x, v.tile x = s.tile x) ∧
    v.hostQueue q = { s.hostQueue q with state := .refused, err := e, stream := none, record := none, early := [] }

theorem queueRefuses_of_exec {i : Instr} {s : State} {q : Nat} {e : Byte} (h : exec i s = .next (s.queueErr q e)) : QueueRefuses i s q e :=
  ⟨_, h, s.queueErr_effect q e⟩

/-- What the image of a record leads to at queue `q` (R137, R152, R435, R439). -/
structure RecordStarts (i : Instr) (s : State) (q : Nat) (rd : BitVec 512) (im : Image) : Prop where
  badImage : imageGood (recImage im rd) = false → QueueRefuses i s q 2
  badPortal : imageGood (recImage im rd) = true → s.portalsOk (recImage im rd) (s.recBase rd) = false → QueueRefuses i s q 6
  launch : imageGood (recImage im rd) = true → s.portalsOk (recImage im rd) (s.recBase rd) = true → recOp rd = 0 →
    ∃ v o, Gives i s v ∧ QueuedAs s q rd im v o ∧ v.classes = vecMod s.classes (recClass rd) fun l => l ++ [s.newId rd]
  noTarget : imageGood (recImage im rd) = true → s.portalsOk (recImage im rd) (s.recBase rd) = true → recOp rd ≠ 0 →
    s.spliceTarget rd = none → QueueRefuses i s q 5
  splice : imageGood (recImage im rd) = true → s.portalsOk (recImage im rd) (s.recBase rd) = true → ∀ p, recOp rd ≠ 0 →
    s.spliceTarget rd = some p → p.id ≠ s.newId rd → ∃ v o, Gives i s v ∧ QueuedAs s q rd im v o ∧ v.classes = s.classes ∧
      o.behind = some p.id ∧ ((s.readied rd im).1.spliceFits p (s.readied rd im).2 (recOp rd == 2) = true →
        o.x0 = p.x0 ∧ o.y0 = p.y0 ∧ (v.pitch? p.id).map (·.successor) = some (some (s.newId rd, recOp rd == 2)))

theorem recordStarts_of_exec {i : Instr} {s : State} {q : Nat} {rd : BitVec 512} {im : Image} (hr : recordOk rd = true)
    (he : exec i s = .next (s.startRecord q rd im)) : RecordStarts i s q rd im where
  badImage h := queueRefuses_of_exec (he.trans (congrArg _ (startRecord_badImage h)))
  badPortal h hp := queueRefuses_of_exec (he.trans (congrArg _ (startRecord_badPortal h hp)))
  launch h hp ho :=
    ⟨_, _, he.trans (congrArg _ (startRecord_launch h hp ho)), (readied_launch s rd im).bind hr q, rfl⟩
  noTarget h hp ho ht := by
    rw [startRecord_noTarget h hp ho ht] at he
    exact ⟨_, he, State.queueErr_effect _ q 5⟩
  splice h hp p ho ht hn := by
    obtain ⟨o, hu, hc, hb, hf⟩ := readied_splice (im := im) (spliceTarget_pitch ht) hn (recOp rd == 2)
    refine ⟨_, _, he.trans (congrArg _ (startRecord_splice h hp ho ht)), hu.bind hr q, hc, hb, fun h => ?_⟩
    obtain ⟨hx, hy, hs⟩ := hf h
    exact ⟨hx, hy, (congrArg _ (State.pitch?_bindQueue_other hn q _ rd)).trans hs⟩

end Sys2Proof.Machine
end


section
/-! # Records and tokens at a queue (R434 to R437) -/

namespace Sys2Proof.Machine

section
variable {s : State} {q : Nat} {rd : BitVec 512}

theorem QueuedAs.and {im : Image} {v : State} {o : Pitch} (h : QueuedAs s q rd im v o) :
    v.mem = s.mem ∧ v.pitch? (s.newId rd) = some o ∧ o.state = .queued ∧ o.cls = recClass rd ∧ o.age = s.born ∧
      o.image = recImage im rd ∧ o.portal = s.recBase rd ∧ v.born = s.born + 1 ∧
      assocGet 0 v.launches (recCfg rd) = (s.newId rd).inst ∧
      (∃ g, o.ingress[recStream rd]? = some g ∧ g.used = true ∧
        g.bound = (if (s.hostQueue q).state = .closed then [] else [q]) ∧
        g.words = recParams rd ++ (s.hostQueue q).early.map fun w => (some q, w)) ∧
      v.hostQueue q = { s.hostQueue q with
        state := if (s.hostQueue q).state = .closed then .closed else .bound, stream := some (s.newId rd, recStream rd)
        record := none, early := [] } :=
  ⟨h.mem, h.pitch, h.state, h.cls, h.age, h.image, h.portal, h.born, h.launches, h.stream, h.queue⟩

theorem writeRecord_bad (hi : (s.hostQueue q).state = .idle) (hr : recordOk rd = false) : s.writeRecord q rd = s.queueErr q 4 := by
  simp [State.writeRecord, hi, hr]

theorem writeRecord_join (hi : (s.hostQueue q).state = .idle) (hr : recordOk rd = true) (ho : recOp rd = 1) :
    s.writeRecord q rd = s.takeJoin q rd := by
  simp [State.writeRecord, hi, hr, ho]

theorem writeRecord_launch (hi : (s.hostQueue q).state = .idle) (hr : recordOk rd = true) (ho : recOp rd ≠ 1) :
    s.writeRecord q rd = s.takeLaunch q rd := by
  simp [State.writeRecord, hi, hr, ho]

theorem takeLaunch_invalid (hv : (assocGet ({} : DirEntry) s.directory (recCfg rd)).valid = false) :
    s.takeLaunch q rd = s.queueErr q 1 := by
  rw [State.takeLaunch, hv]
  rfl

theorem takeLaunch_noTarget (hv : (assocGet ({} : DirEntry) s.directory (recCfg rd)).valid = true) (ho : recOp rd ≠ 0)
    (ht : s.spliceTarget rd = none) : s.takeLaunch q rd = s.queueErr q 5 := by
  rw [State.takeLaunch, hv, if_neg (by simp), if_pos ⟨ho, by rw [ht]; rfl⟩]

/-- With a valid entry, and a predecessor for a splice, the image is looked up. -/
theorem takeLaunch_looksUp (hv : (assocGet ({} : DirEntry) s.directory (recCfg rd)).valid = true)
    (ht : recOp rd = 0 ∨ s.spliceTarget rd ≠ none) : ¬(!(assocGet ({} : DirEntry) s.directory (recCfg rd)).valid) = true ∧
      ¬(recOp rd ≠ 0 ∧ (s.spliceTarget rd).isNone = true) := by
  refine ⟨by rw [hv]; simp, fun ⟨ho, hn⟩ => ?_⟩
  exact ht.elim ho fun h => h (Option.isNone_iff_eq_none.1 hn)

theorem takeLaunch_cached (hv : (assocGet ({} : DirEntry) s.directory (recCfg rd)).valid = true)
    (ht : recOp rd = 0 ∨ s.spliceTarget rd ≠ none) {im : Image} (hi : assocFind s.images (recCfg rd) = some im) :
    s.takeLaunch q rd = s.startRecord q rd im := by
  obtain ⟨h1, h2⟩ := takeLaunch_looksUp hv ht
  rw [State.takeLaunch, if_neg h1, if_neg h2, hi]

theorem takeLaunch_fetches (hv : (assocGet ({} : DirEntry) s.directory (recCfg rd)).valid = true)
    (ht : recOp rd = 0 ∨ s.spliceTarget rd ≠ none) (hi : assocFind s.images (recCfg rd) = none) :
    s.takeLaunch q rd = s.modQueue q fun h => { h with state := .bound, record := some rd, stream := none, early := [] } := by
  obtain ⟨h1, h2⟩ := takeLaunch_looksUp hv ht
  rw [State.takeLaunch, if_neg h1, if_neg h2, hi]

/-- What a launch or splice record leads to at an idle queue (R137, R435). -/
structure RecordTaken (i : Instr) (s : State) (q : Nat) (rd : BitVec 512) : Prop where
  bad : recordOk rd = false → QueueRefuses i s q 4
  invalid : recordOk rd = true → (assocGet ({} : DirEntry) s.directory (recCfg rd)).valid = false → QueueRefuses i s q 1
  noTarget : recordOk rd = true → (assocGet ({} : DirEntry) s.directory (recCfg rd)).valid = true → recOp rd ≠ 0 →
    s.spliceTarget rd = none → QueueRefuses i s q 5
  cached : recordOk rd = true → (assocGet ({} : DirEntry) s.directory (recCfg rd)).valid = true →
    recOp rd = 0 ∨ s.spliceTarget rd ≠ none → ∀ im, assocFind s.images (recCfg rd) = some im → RecordStarts i s q rd im
  fetches : recordOk rd = true → (assocGet ({} : DirEntry) s.directory (recCfg rd)).valid = true →
    recOp rd = 0 ∨ s.spliceTarget rd ≠ none → assocFind s.images (recCfg rd) = none →
    Gives i s (s.modQueue q fun h => { h with state := .bound, record := some rd, stream := none, early := [] })

theorem recordTaken {i : Instr} (hi : (s.hostQueue q).state = .idle) (ho : recOp rd ≠ 1)
    (he : exec i s = .next (s.writeRecord q rd)) : RecordTaken i s q rd where
  bad hr := queueRefuses_of_exec (he.trans (congrArg _ (writeRecord_bad hi hr)))
  invalid hr hv :=
    queueRefuses_of_exec (he.trans (congrArg _ ((writeRecord_launch hi hr ho).trans (takeLaunch_invalid hv))))
  noTarget hr hv hs ht :=
    queueRefuses_of_exec (he.trans (congrArg _ ((writeRecord_launch hi hr ho).trans (takeLaunch_noTarget hv hs ht))))
  cached hr hv ht _ him :=
    recordStarts_of_exec hr (he.trans (congrArg _ ((writeRecord_launch hi hr ho).trans (takeLaunch_cached hv ht him))))
  fetches hr hv ht him := he.trans (congrArg _ ((writeRecord_launch hi hr ho).trans (takeLaunch_fetches hv ht him)))

theorem launch_taken (hq : q < 65536) (hi : (s.hostQueue q).state = .idle) (ho : recOp rd = 0) : RecordTaken (.launch q rd) s q rd := by
  refine recordTaken hi (by omega) ?_
  show execLaunch q rd s = _
  exact event_eq (by simp [queueNumber, hq, ho]) rfl

theorem spliceInherit_taken (hq : q < 65536) (hi : (s.hostQueue q).state = .idle) (ho : recOp rd = 2) :
    RecordTaken (.spliceInherit q rd) s q rd := by
  refine recordTaken hi (by omega) ?_
  show execSpliceInherit q rd s = _
  exact event_eq (by simp [queueNumber, hq, ho]) rfl

theorem spliceNoInherit_taken (hq : q < 65536) (hi : (s.hostQueue q).state = .idle) (ho : recOp rd = 3) :
    RecordTaken (.spliceNoInherit q rd) s q rd := by
  refine recordTaken hi (by omega) ?_
  show execSpliceNoInherit q rd s = _
  exact event_eq (by simp [queueNumber, hq, ho]) rfl

theorem imageFetched_starts {im : Image} (h : (s.hostQueue q).record = some rd) (hr : recordOk rd = true) :
    RecordStarts (.imageFetched q im) s q rd im := by
  refine recordStarts_of_exec hr ?_
  show execImageFetched q im s = _
  simp only [execImageFetched, h]

/-! ## Joins (R436) -/

theorem join_writes (hq : q < 65536) (ho : recOp rd = 1) : exec (.join q rd) s = .next (s.writeRecord q rd) := by
  show execJoin q rd s = _
  exact event_eq (by simp [queueNumber, hq, ho]) rfl

theorem takeJoin_unknown (hp : s.pitch? ⟨recCfg rd, recInst rd⟩ = none) : s.takeJoin q rd = s.queueErr q 5 := by
  simp [State.takeJoin, hp]

theorem takeJoin_refused {p : Pitch} {g : Ingress} (hp : s.pitch? ⟨recCfg rd, recInst rd⟩ = some p)
    (hg : p.ingress[recStream rd]? = some g) (h : p.state = .struck ∨ recInst rd = 0 ∨ g.over = true) :
    s.takeJoin q rd = s.queueErr q 5 := by
  simp [State.takeJoin, hp, hg, h]

theorem takeJoin_joins {p : Pitch} {g : Ingress} (hp : s.pitch? ⟨recCfg rd, recInst rd⟩ = some p)
    (hg : p.ingress[recStream rd]? = some g) (hs : p.state ≠ .struck) (hi : recInst rd ≠ 0) (ho : g.over = false) :
    s.takeJoin q rd = (s.overtakeEnd p.id (recStream rd)).bindQueue q p.id (recStream rd) rd := by
  simp [State.takeJoin, hp, hg, hs, hi, ho]

/-- An idle queue stays idle, and keeps its early tokens. -/
def StaysIdle (q : Nat) (s t : State) : Prop :=
  t.mem = s.mem ∧ t.pitches = s.pitches ∧ ((s.hostQueue q).state = .idle →
    (t.hostQueue q).state = .idle ∧ (t.hostQueue q).early = (s.hostQueue q).early)

theorem StaysIdle.leaveEdge (q : Nat) (s : State) (e : Option Nat × Token) : StaysIdle q s (s.leaveEdge e) := by
  unfold State.leaveEdge
  split
  · exact ⟨rfl, rfl, fun h => ⟨h, rfl⟩⟩
  · next q' _ =>
    refine ⟨rfl, rfl, fun h => ?_⟩
    by_cases hq : q = q'
    · subst hq
      simp [State.hostQueue_modQueue, h]
    · have hk (f : HostQueue → HostQueue) : (s.modQueue q' f).hostQueue q = s.hostQueue q := assocGet_assocPut_other _ _ hq _
      rw [hk]
      exact ⟨h, rfl⟩

theorem StaysIdle.foldl (q : Nat) (l : List (Option Nat × Token)) (s : State) : StaysIdle q s (l.foldl State.leaveEdge s) := by
  induction l generalizing s with
  | nil => exact ⟨rfl, rfl, fun h => ⟨h, rfl⟩⟩
  | cons e l ih =>
    obtain ⟨hm, hp, hq⟩ := StaysIdle.leaveEdge q s e
    obtain ⟨hm', hp', hq'⟩ := ih (s.leaveEdge e)
    refine ⟨hm'.trans hm, hp'.trans hp, fun h => ?_⟩
    obtain ⟨hi, he⟩ := hq h
    obtain ⟨hi', he'⟩ := hq' hi
    exact ⟨hi', he'.trans he⟩

/-- An overtaken stream end leaves the edge buffer. -/
def Ingress.overtaken (g : Ingress) : Ingress := { g with words := g.words.filter fun e => e.2.mark != 3 }

theorem overtakeEnd_effect {id : PitchId} {p : Pitch} (hp : s.pitch? id = some p) (k : Nat) (hi : (s.hostQueue q).state = .idle) :
    (s.overtakeEnd id k).mem = s.mem ∧
      (s.overtakeEnd id k).pitch? id = some { p with ingress := vecMod p.ingress k Ingress.overtaken } ∧
      ((s.overtakeEnd id k).hostQueue q).state = .idle ∧ ((s.overtakeEnd id k).hostQueue q).early = (s.hostQueue q).early := by
  unfold State.overtakeEnd
  rw [hp, Option.bind_some]
  split
  · next hg =>
    have hv : vecMod p.ingress k Ingress.overtaken = p.ingress := by rw [vecMod, hg]
    rw [hv]
    exact ⟨rfl, hp, hi, rfl⟩
  · next g hg =>
    dsimp only
    generalize hu : s.modPitch id _ = u
    obtain ⟨hm, hps, hq⟩ := StaysIdle.foldl q (g.words.filter fun e => e.2.mark == 3) u
    have hup : u.pitch? id = some { p with ingress := vecMod p.ingress k Ingress.overtaken } := by
      rw [← hu]
      exact State.pitch?_modPitch_same (f := fun p => { p with ingress := vecMod p.ingress k Ingress.overtaken }) (fun _ => rfl) hp
    have huq : u.hostQueue q = s.hostQueue q := by rw [← hu]; rfl
    rw [huq] at hq
    obtain ⟨hi', he'⟩ := hq hi
    exact ⟨hm.trans (by rw [← hu]; rfl), (by simpa only [State.pitch?, hps] using hup), hi', he'⟩

theorem join_joins {p : Pitch} {g : Ingress} (hi : (s.hostQueue q).state = .idle) (hp : s.pitch? ⟨recCfg rd, recInst rd⟩ = some p)
    (hg : p.ingress[recStream rd]? = some g) : let v := (s.overtakeEnd p.id (recStream rd)).bindQueue q p.id (recStream rd) rd
    ∃ o, v.mem = s.mem ∧ v.pitch? p.id = some o ∧
      o.ingress[recStream rd]? = some { g with
        used := true, bound := g.bound ++ [q]
        words := (g.words.filter fun e => e.2.mark != 3) ++ recParams rd ++ (s.hostQueue q).early.map fun w => (some q, w) } ∧
      (v.hostQueue q).state = .bound ∧ (v.hostQueue q).stream = some (p.id, recStream rd) := by
  obtain ⟨hm, hu, hi', he⟩ := overtakeEnd_effect (State.pitch?_id hp ▸ hp) (recStream rd) hi
  refine ⟨_, hm, State.pitch?_bindQueue hu q _ rd, ?_, ?_, ?_⟩
  · simp [hg, Ingress.bindTo, Ingress.overtaken, hi', he]
  · simp [State.hostQueue_bindQueue, hi']
  · simp [State.hostQueue_bindQueue]

end

end Sys2Proof.Machine
end


section
/-! # Tokens at a queue (R434, R436, R437) -/

namespace Sys2Proof.Machine

section
variable {s : State} {q : Nat}

/-! ## One token -/

section
variable {w : Token}

theorem takeToken_closed (h : (s.hostQueue q).state = .closed) : s.takeToken q w = s.queueErr q 4 := by
  simp only [State.takeToken, h]

section
variable (h : (s.hostQueue q).state = .bound)
include h

theorem takeToken_struck (hs : s.fedStruck (s.hostQueue q) = true) : s.takeToken q w = s.queueErr q 9 := by
  simp only [State.takeToken, h, if_pos hs]

variable (hs : s.fedStruck (s.hostQueue q) = false)
include hs

theorem takeToken_noCredit (hc : (s.hostQueue q).credit = 0) : s.takeToken q w = s.queueErr q 3 := by
  simp only [State.takeToken, h, hs, Bool.false_eq_true, if_false, if_pos hc]

variable (hc : (s.hostQueue q).credit ≠ 0)
include hc

/-- A token comes before its queue feeds a stream. -/
theorem takeToken_early (hm : w.mark ≠ 3) (hn : (s.hostQueue q).stream = none) : s.takeToken q w = s.modQueue q fun h =>
    { h with credit := h.credit - 1, early := h.early ++ [w] } := by
  simp only [State.takeToken, h, hs, Bool.false_eq_true, if_false, hc, hm, false_and, hn]
  refine State.modQueue_congr ?_
  simp [hn, h]

variable {id : PitchId} {j : Nat} (hn : (s.hostQueue q).stream = some (id, j))
include hn

theorem takeToken_word (hm : w.mark ≠ 3) : s.takeToken q w =
    (s.modQueue q fun h => { h with credit := h.credit - 1 }).toStream id j [(some q, w)] := by
  simp only [State.takeToken, h, hs, Bool.false_eq_true, if_false, hc, hm, false_and, hn]
  refine congrArg (fun u => State.toStream u id j [(some q, w)]) (State.modQueue_congr ?_)
  simp [hn, h]

omit h hs hc in
theorem unbind_eq : s.unbind q =
    s.modPitch id fun p => { p with ingress := vecMod p.ingress j fun g => { g with bound := g.bound.filter (· ≠ q) } } := by
  simp only [State.unbind, hn]

/-- A stream end that other bound queues overtake is taken from its queue alone. -/
theorem takeToken_overtaken (hm : w.mark = 3) (ho : s.otherBound q (s.hostQueue q) = true) : s.takeToken q w =
    (s.modPitch id fun p => { p with ingress := vecMod p.ingress j fun g => { g with bound := g.bound.filter (· ≠ q) } }).modQueue q
      fun h => { h with state := .idle, stream := none } := by
  rw [← unbind_eq hn]
  simp only [State.takeToken, h, hs, Bool.false_eq_true, if_false, hc, hm, ho, and_self, if_true]

/-- The last stream end closes its queue. -/
theorem takeToken_last (hm : w.mark = 3) (ho : s.otherBound q (s.hostQueue q) = false) : s.takeToken q w =
    ((s.modPitch id fun p => { p with ingress := vecMod p.ingress j fun g => { g with bound := g.bound.filter (· ≠ q) } }).modQueue q
      fun h => { h with credit := h.credit - 1, state := .closed }).toStream id j [(some q, w)] := by
  have hu : ((s.unbind q).hostQueue q).stream = some (id, j) := by
    rw [unbind_eq hn]
    exact hn
  rw [← unbind_eq hn]
  simp only [State.takeToken, h, hs, Bool.false_eq_true, if_false, hc, hm, ho, and_false, if_true, hn]
  exact congrArg (fun u => State.toStream u id j [(some q, w)]) (State.modQueue_congr (by simp [hu]))

end

end

/-! ## Writes of tokens -/

/-- A write of tokens has the right form (R434, R438). -/
def RightWrite (off : Nat) (bs : List Byte) : Prop :=
  (bs.length = 16 ∨ bs.length = 32 ∨ bs.length = 64) ∧ off < 64 ∧ off % bs.length = 0 ∧ (tokensOf bs).all tokenOk = true

theorem tokensOf_one {bs : List Byte} (h : bs.length = 16) : tokensOf bs = [bs] := by
  simp [tokensOf, h, List.range_succ, List.take_of_length_le]

variable {off : Nat} {bs : List Byte}

theorem ingressToken_writes (hq : q < 65536) (h : (s.hostQueue q).state = .bound ∨ (s.hostQueue q).state = .closed) :
    exec (.ingressToken q ⟨off, bs⟩) s = .next (s.writeTokens q off bs) := by
  show execIngressToken q ⟨off, bs⟩ s = _
  refine event_eq (by simp [queueNumber, hq]) ?_
  rcases h with h | h <;> simp only [h]

theorem writeTokens_wrong (h : ¬RightWrite off bs) : s.writeTokens q off bs = s.queueErr q 4 := if_neg h

theorem writeTokens_right (h : RightWrite off bs) :
    s.writeTokens q off bs = (tokensOf bs).foldl (fun s t => s.takeToken q (tokenOf t)) s := if_pos h

theorem ingressToken_one (hq : q < 65536) (h : (s.hostQueue q).state = .bound ∨ (s.hostQueue q).state = .closed)
    (hr : RightWrite off bs) (hl : bs.length = 16) : exec (.ingressToken q ⟨off, bs⟩) s = .next (s.takeToken q (tokenOf bs)) := by
  rw [ingressToken_writes hq h, writeTokens_right hr, tokensOf_one hl]
  rfl

/-- An idle queue takes records alone (R437). -/
theorem ingressToken_idle (hq : q < 65536) (h : (s.hostQueue q).state = .idle) (hn : ¬(bs.length = 64 ∧ off = 0)) :
    exec (.ingressToken q ⟨off, bs⟩) s = .next (s.queueErr q 4) := by
  show execIngressToken q ⟨off, bs⟩ s = _
  refine event_eq (by simp [queueNumber, hq]) ?_
  simp only [h, if_neg hn]

theorem gives_errClear (hq : q < 65536) (w : Word) : Gives (.ingressQueueErrClear q w) s (s.modQueue q fun h => h.clear w) := by
  show execIngressQueueErrClear q w s = _
  exact event_eq (by simp [queueNumber, hq]) rfl

end

end Sys2Proof.Machine
end


section
/-! # Egress (R383, R439, R440) -/

namespace Sys2Proof.Machine

section
variable {s : State} {id : PitchId} {k : Nat} {e : Egress} {w : Token} {portal : Portal}

/-- A change of one egress stream of a pitch. -/
def State.modEgress (s : State) (id : PitchId) (k : Nat) (f : Egress → Egress) : State :=
  s.modPitch id fun p => { p with egress := vecMod p.egress k f }

theorem State.modEgress_pitch {p : Pitch} (hp : s.pitch? id = some p) (k : Nat) (f : Egress → Egress) :
    (s.modEgress id k f).pitch? id = some { p with egress := vecMod p.egress k f } :=
  State.pitch?_modPitch_same (f := fun p => { p with egress := vecMod p.egress k f }) (fun _ => rfl) hp

theorem egressHead_eq (h : s.egressHead id k = some (e, w, portal)) :
    ∃ p, s.pitch? id = some p ∧ p.egress[k]? = some e ∧ portal = s.portalOf p k := by
  unfold State.egressHead at h
  split at h
  · exact nomatch h
  · next p hp =>
    obtain ⟨e', he, h⟩ := Option.bind_eq_some_iff.1 h
    obtain ⟨w', -, h⟩ := Option.map_eq_some_iff.1 h
    obtain ⟨rfl, -, rfl⟩ := h
    exact ⟨p, hp, he, rfl⟩

/-- A word that is sent leaves the stream, and counts (R440). -/
def Egress.sent (e : Egress) (w : Token) : Egress :=
  { e with words := e.words.tail, emitted := e.emitted + 1, crc := crcToken e.crc w }

/-- A word that a replay suppresses leaves the stream, into the check (R383). -/
def Egress.skipped (e : Egress) (w : Token) (cas : Bool) (crc : Word) : Egress :=
  { e with
    words := e.words.tail, suppress := e.suppress - 1, recheck := crc
    firstHalf := if cas && e.firstHalf.isNone then some w else none }

theorem emit_sends (h : e.suppress = 0) (cas : Bool) (use : State → State) :
    s.emit id k e w cas use = use (s.modEgress id k fun e => e.sent w) := if_neg (not_not.2 h)

theorem emit_skips (h : e.suppress ≠ 0) (cas : Bool) (use : State → State) : s.emit id k e w cas use =
    if e.suppress = 1 ∧ crcToken e.recheck w ≠ e.goal then
      (s.modEgress id k fun x => x.skipped w cas (crcToken e.recheck w)).failPitch id
    else s.modEgress id k fun x => x.skipped w cas (crcToken e.recheck w) := if_pos h

/-- What the check of a suppressed word leads to. -/
theorem emit_checks {i : Instr} {cas : Bool} {use : State → State} (h : e.suppress ≠ 0)
    (he : exec i s = .next (s.emit id k e w cas use)) :
    let out := s.modEgress id k fun x => x.skipped w cas (crcToken e.recheck w)
    (e.suppress ≠ 1 ∨ crcToken e.recheck w = e.goal → Gives i s out) ∧
      (e.suppress = 1 → crcToken e.recheck w ≠ e.goal → Gives i s (out.failPitch id)) := by
  rw [emit_skips h] at he
  refine ⟨fun hg => ?_, fun h1 hg => ?_⟩
  · rwa [if_neg fun hc => hg.elim (fun hn => hn hc.1) hc.2] at he
  · rwa [if_pos ⟨h1, hg⟩] at he

/-! ## Ring writes -/

/-- A token at a slot of a ring counts as written. -/
def State.writeRing (s : State) (id : PitchId) (k : Nat) (w : Token) (addr : Nat) : State :=
  { s.modEgress id k fun e => { e with written := e.written + 1, firstHalf := none } with
    mem := s.mem.putBytes addr (tokenBytes w) }

theorem egressRing_emits (h : s.egressHead id k = some (e, w, portal)) (hm : portal.mode = 1 ∨ portal.mode = 2 ∧ w.mark = 3) :
    exec (.egressRingWrite id k) s = .next (s.emit id k e w false fun s => s.writeRing id k w
      (portal.haddr.toNat + 16 * if (portal.mode == 1) = true then e.written % portal.ring.toNat else 0)) := by
  show execEgressRingWrite id k s = _
  simp only [execEgressRingWrite, h]
  refine event_eq ?_ rfl
  rcases hm with hm | ⟨hm, hw⟩
  · simp [hm]
  · simp [hm, hw]

theorem egressRing_slot (h : s.egressHead id k = some (e, w, portal)) (hs : e.suppress = 0) (hm : portal.mode = 1) :
    Gives (.egressRingWrite id k) s ((s.modEgress id k fun e => e.sent w).writeRing id k w
      (portal.haddr.toNat + 16 * (e.written % portal.ring.toNat))) := by
  refine (egressRing_emits h (.inl hm)).trans (congrArg _ ?_)
  rw [emit_sends hs, if_pos (beq_iff_eq.2 hm)]

/-- The stream end of an AtomicOp portal is written at its address. -/
theorem egressRing_end (h : s.egressHead id k = some (e, w, portal)) (hs : e.suppress = 0) (hm : portal.mode = 2) (hw : w.mark = 3) :
    Gives (.egressRingWrite id k) s ((s.modEgress id k fun e => e.sent w).writeRing id k w portal.haddr.toNat) := by
  refine (egressRing_emits h (.inr ⟨hm, hw⟩)).trans (congrArg _ ?_)
  rw [emit_sends hs, if_neg (by rw [hm]; decide)]
  rfl

/-! ## AtomicOp requests -/

/-- A word forms a request, or the first or second half of a CAS (R440). -/
def Egress.request (portal : Portal) (w : Token) (e : Egress) : Egress :=
  if !decide (4 ≤ portal.op.toNat) then { e with pending := e.pending ++ [atomicRequest portal w w.payload 0] }
  else
    match e.firstHalf with
    | none => { e with firstHalf := some w }
    | some f => { e with firstHalf := none, pending := e.pending ++ [atomicRequest portal f w.payload f.payload] }

theorem request_plain (ho : portal.op.toNat < 4) :
    e.request portal w = { e with pending := e.pending ++ [atomicRequest portal w w.payload 0] } :=
  if_pos (by simpa using ho)

theorem request_first (ho : 4 ≤ portal.op.toNat) (hf : e.firstHalf = none) : e.request portal w = { e with firstHalf := some w } :=
  (if_neg (by simpa using ho)).trans (by rw [hf])

theorem request_second {f : Token} (ho : 4 ≤ portal.op.toNat) (hf : e.firstHalf = some f) : e.request portal w =
    { e with firstHalf := none, pending := e.pending ++ [atomicRequest portal f w.payload f.payload] } :=
  (if_neg (by simpa using ho)).trans (by rw [hf])

section
variable (h : s.egressHead id k = some (e, w, portal)) (hm : portal.mode = 2) (hw : w.mark ≠ 3)
include h hm hw

omit hw in
theorem egressAtomicop_waits (hn : 256 ≤ s.outstanding (((s.pitch? id).map (·.portal)).getD 0 + k)) :
    Gives (.egressAtomicop id k) s s := by
  show execEgressAtomicop id k s = _
  simp only [execEgressAtomicop, h]
  exact event_stutters (by simp [hm, hn])

variable (hn : s.outstanding (((s.pitch? id).map (·.portal)).getD 0 + k) < 256)
include hn

theorem egressAtomicop_emits : exec (.egressAtomicop id k) s =
    .next (s.emit id k e w (decide (4 ≤ portal.op.toNat)) fun s => s.modEgress id k fun e => e.request portal w) := by
  show execEgressAtomicop id k s = _
  simp only [execEgressAtomicop, h]
  exact event_eq (by rw [bne_iff_ne.2 hw]; simp [hm, hn]) rfl

variable (hs : e.suppress = 0)
include hs

theorem egressAtomicop_sends : Gives (.egressAtomicop id k) s
    ((s.modEgress id k fun e => e.sent w).modEgress id k fun e => e.request portal w) := by
  have he := egressAtomicop_emits h hm hw hn
  rwa [emit_sends hs] at he

theorem egressAtomicop_plain (ho : portal.op.toNat < 4) : Gives (.egressAtomicop id k) s
    ((s.modEgress id k fun e => e.sent w).modEgress id k fun e =>
      { e with pending := e.pending ++ [atomicRequest portal w w.payload 0] }) := by
  have hr : (fun e : Egress => e.request portal w) =
      fun e => { e with pending := e.pending ++ [atomicRequest portal w w.payload 0] } := funext fun e => request_plain ho
  have he := egressAtomicop_sends h hm hw hn hs
  rwa [hr] at he

/-- What the head word of a CAS leaves of its stream. -/
theorem egressAtomicop_leaves : ∃ v p, Gives (.egressAtomicop id k) s v ∧ v.mem = s.mem ∧ v.pitch? id = some p ∧
    p.egress[k]? = some ((e.sent w).request portal w) := by
  obtain ⟨p, hp, he, -⟩ := egressHead_eq h
  refine ⟨_, _, egressAtomicop_sends h hm hw hn hs, rfl, State.modEgress_pitch (State.modEgress_pitch hp k _) k _, ?_⟩
  simp [he]

end

end

/-! ## Completions -/

section
variable {s : State} {id : PitchId} {k : Nat} {p : Pitch} {e : Egress} {a : AtomReq} {l : List AtomReq}

theorem fedStruck_modEgress (s : State) (id : PitchId) (k : Nat) (f : Egress → Egress) (h : HostQueue) :
    (s.modEgress id k f).fedStruck h = s.fedStruck h := by
  unfold State.fedStruck
  cases h.stream with
  | none => rfl
  | some o =>
    have ho := State.pitch?_modPitch s id (f := fun p => { p with egress := vecMod p.egress k f }) (fun _ => rfl) o.1
    rw [Option.bind_some, Option.bind_some, State.modEgress, ho]
    cases s.pitch? o.1 with
    | none => rfl
    | some x =>
      rw [Option.map_some]
      dsimp only
      split <;> rfl

theorem fedStruck_of_struck {h : HostQueue} {o : PitchId} {j : Nat} {x : Pitch} (hs : h.stream = some (o, j))
    (hx : s.pitch? o = some x) : s.fedStruck h = (x.state == .struck) := by
  unfold State.fedStruck
  rw [hs, Option.bind_some, hx]

/-- The oldest request of a stream has completed. -/
def State.popPending (s : State) (id : PitchId) (k : Nat) : State := s.modEgress id k fun e => { e with pending := e.pending.tail }

section
variable (hp : s.pitch? id = some p) (he : p.egress[k]? = some e) (ha : e.pending = a :: l) (old : DWord)
include hp he ha

theorem completion_fails : Gives (.atomicopCompletion id k old true) s
    (((s.popPending id k).queueErr (s.portalOf p k).rq.toNat 7).failPitch id) := by
  show execAtomicopCompletion id k old true s = _
  simp only [execAtomicopCompletion, hp, he, ha, Option.bind_some, List.head?_cons, if_true]
  rfl

theorem completion_replies : Gives (.atomicopCompletion id k old false) s
    (({ s.popPending id k with mem := s.mem.write a.addr (atomicSize a.op) (a.new old) } : State).replyToken (s.portalOf p k).rq.toNat
      { payload := atomicOperand a.op old, tag := a.tag, mark := 0 }) := by
  show execAtomicopCompletion id k old false s = _
  simp only [execAtomicopCompletion, hp, he, ha, Option.bind_some, List.head?_cons, Bool.false_eq_true, if_false]
  rfl

end

section
variable {n : Nat} (w : Token)

theorem replyToken_stream {o : PitchId} {j : Nat} (hs : (s.hostQueue n).stream = some (o, j))
    (hf : s.fedStruck (s.hostQueue n) = false) : s.replyToken n w = s.toStream o j [(none, w)] := by
  simp only [State.replyToken, hs, hf, Bool.false_eq_true, if_false]

theorem replyToken_struck {o : PitchId} {j : Nat} (hs : (s.hostQueue n).stream = some (o, j))
    (hf : s.fedStruck (s.hostQueue n) = true) : s.replyToken n w = s.queueErr n 9 := by
  simp only [State.replyToken, hs, hf, if_true]

theorem replyToken_early (hs : (s.hostQueue n).stream = none) (hb : (s.hostQueue n).state = .bound) :
    s.replyToken n w = s.modQueue n fun h => { h with early := h.early ++ [w] } := by
  simp only [State.replyToken, hs, hb]
  rfl

theorem replyToken_dropped (hs : (s.hostQueue n).stream = none) (hb : (s.hostQueue n).state ≠ .bound) :
    s.replyToken n w = s := by
  simp only [State.replyToken, hs, beq_eq_false_iff_ne.2 hb, Bool.false_eq_true, if_false]

end

end

end Sys2Proof.Machine
end


section
/-! # Control registers, the topology switch and BAR0 (R12, R433, R444 to R446, R449) -/

namespace Sys2Proof.Machine

/-! ## Fields of appended words -/

/-- The field of `n` bits from bit `k` on, by its bits. -/
theorem field_eq {n k : Nat} {t : DWord} {x : BitVec n} (h : ∀ i, i < n → t.getLsbD (k + i) = x.getLsbD i) :
    (t >>> k).setWidth n = x := by
  refine BitVec.eq_of_getLsbD_eq fun i hi => ?_
  rw [BitVec.getLsbD_setWidth, BitVec.getLsbD_ushiftRight, decide_eq_true hi, Bool.true_and, h i hi]

theorem lowField_eq {n : Nat} {t : DWord} {x : BitVec n} (h : ∀ i, i < n → t.getLsbD i = x.getLsbD i) : t.setWidth n = x := by
  refine BitVec.eq_of_getLsbD_eq fun i hi => ?_
  rw [BitVec.getLsbD_setWidth, decide_eq_true hi, Bool.true_and, h i hi]

/-- A bit of an appended word. -/
theorem bit_append {n m k : Nat} (x : BitVec n) (y : BitVec m) :
    (x ++ y).getLsbD k = if k < m then y.getLsbD k else x.getLsbD (k - m) := BitVec.getLsbD_append

section
variable (nver ver : Half) (arm nbank bank : Bool)

theorem topoNver_topoWord : topoNver (topoWord nver ver arm nbank bank) = nver :=
  field_eq fun i hi => by
    simp (disch := omega) only [topoWord, bit_append, if_neg]
    congr 1
    omega

theorem topoArm_topoWord : topoArm (topoWord nver ver arm nbank bank) = arm := by
  simp only [topoArm, topoWord, bit_append]
  simp

theorem topoNbank_topoWord : topoNbank (topoWord nver ver arm nbank bank) = nbank := by
  simp only [topoNbank, topoWord, bit_append]
  simp

end

/-- A directory entry is its two words (R435). -/
theorem dirEntry_words (e : DirEntry) : dirEntry e.word0 e.word1 = e := by
  have hl : e.word1.setWidth 32 = e.length := lowField_eq fun i hi => by
    simp (disch := omega) only [DirEntry.word1, bit_append, if_pos]
  have hp : (e.word1 >>> 32).setWidth 16 = e.portal := field_eq fun i hi => by
    simp (disch := omega) only [DirEntry.word1, bit_append, if_neg, if_pos]
    congr 1
    omega
  have hv : e.word1.getLsbD 48 = e.valid := by
    simp only [DirEntry.word1, bit_append]
    simp
  rw [dirEntry, hl, hp, hv]
  rfl

/-- A portal entry is its address and its second word (R439). -/
theorem portalEntry_words (e : Portal) : portalEntry e.haddr e.word1 = e := by
  have hm : e.word1.setWidth 8 = e.mode := lowField_eq fun i hi => by
    simp (disch := omega) only [Portal.word1, bit_append, if_pos]
  have ho : (e.word1 >>> 8).setWidth 8 = e.op := field_eq fun i hi => by
    simp (disch := omega) only [Portal.word1, bit_append, if_neg, if_pos]
    congr 1
    omega
  have hq : (e.word1 >>> 16).setWidth 16 = e.rq := field_eq fun i hi => by
    simp (disch := omega) only [Portal.word1, bit_append, if_neg, if_pos]
    congr 1
    omega
  have hr : (e.word1 >>> 32).setWidth 32 = e.ring := field_eq fun i hi => by
    simp (disch := omega) only [Portal.word1, bit_append, if_neg]
    congr 1
    omega
  rw [portalEntry, hm, ho, hq, hr]

/-! ## The topology switch (R446) -/

section
variable {s : State}

theorem autoSwitch_waits (h : topoArm s.topo = false ∨ s.tick < s.swtick) : s.autoSwitch = s := by
  refine if_neg ?_
  rcases h with h | h
  · simp [State.switchDue, h]
  · have hn : ¬s.swtick ≤ s.tick := BitVec.not_le.2 h
    simp [State.switchDue, hn]

theorem switchDue_iff : s.switchDue = true ↔ topoArm s.topo = true ∧ s.swtick ≤ s.tick := by
  simp [State.switchDue]

theorem autoSwitch_switches (h : topoArm s.topo = true) (ht : s.swtick ≤ s.tick) : s.autoSwitch =
    { s with topo := topoWord (topoNver s.topo) (topoNver s.topo) false (topoNbank s.topo) (topoNbank s.topo) } :=
  if_pos (switchDue_iff.2 ⟨h, ht⟩)

/-- TOPO is armed by a write that asks for it and changes both version and bank. -/
def topoArms (t w : DWord) : Bool := topoArm w && topoNbank w != topoBank t && topoNver w != topoVer t

theorem topoWrite_waits {w : DWord} (h : topoArms s.topo w = false ∨ s.tick < s.swtick) : Gives (.topoWrite w) s
    { s with topo := topoWord (topoNver w) (topoVer s.topo) (topoArms s.topo w) (topoNbank w) (topoBank s.topo) } := by
  show execTopoWrite w s = _
  refine congrArg _ (autoSwitch_waits ?_)
  rw [show topoArm (topoWritten s.topo w) = topoArms s.topo w from topoArm_topoWord _ _ _ _ _]
  exact h

theorem topoWrite_switches {w : DWord} (h : topoArms s.topo w = true) (ht : s.swtick ≤ s.tick) : Gives (.topoWrite w) s
    { s with topo := topoWord (topoNver w) (topoNver w) false (topoNbank w) (topoNbank w) } := by
  show execTopoWrite w s = _
  have harm : topoArm (topoWritten s.topo w) = true := (topoArm_topoWord _ _ _ _ _).trans h
  refine congrArg _ ((autoSwitch_switches (s := { s with topo := topoWritten s.topo w }) harm ht).trans ?_)
  rw [show topoNver (topoWritten s.topo w) = topoNver w from topoNver_topoWord _ _ _ _ _,
    show topoNbank (topoWritten s.topo w) = topoNbank w from topoNbank_topoWord _ _ _ _ _]

theorem gives_topologySwitch (h : topoArm s.topo = true) (ht : s.swtick ≤ s.tick) : Gives .topologySwitch s
    { s with topo := topoWord (topoNver s.topo) (topoNver s.topo) false (topoNbank s.topo) (topoNbank s.topo) } := by
  show execTopologySwitch s = _
  exact event_eq (switchDue_iff.2 ⟨h, ht⟩) rfl

theorem tickEdge_counts (h : s.tset = none ∨ s.tickSet = true) :
    exec (.tickEdge []) s = .next ({ s with tick := s.tick + 1, tset := none } : State).autoSwitch := by
  show execTickEdge [] s = _
  unfold execTickEdge
  rw [List.foldl_nil]
  dsimp only
  split
  · next w hw ht => simp [hw, ht] at h
  · rfl

theorem tickEdge_sets {w : DWord} (h : s.tset = some w) (ht : s.tickSet = false) :
    exec (.tickEdge []) s = .next ({ s with tick := w, tickSet := true, tset := none } : State).autoSwitch := by
  show execTickEdge [] s = _
  unfold execTickEdge
  rw [List.foldl_nil]
  dsimp only
  rw [h, ht]

/-! ## TSET and route banks (R444, R445) -/

theorem tsetWrite_taken (w : DWord) (h : s.tickSet = false) (hu : s.modidx.toNat = 0 ∨ s.linkUsed = false) :
    Gives (.tsetWrite w) s { s with tset := some w } := by
  show execTsetWrite w s = _
  refine congrArg _ (if_pos ?_)
  rcases hu with hu | hu
  · have h0 : s.modidx = 0#8 := BitVec.eq_of_toNat_eq hu
    simp [h, h0]
  · simp [h, hu]

theorem tsetWrite_discarded (w : DWord) (h : s.tickSet = true ∨ s.modidx.toNat ≠ 0 ∧ s.linkUsed = true) : Gives (.tsetWrite w) s s := by
  show execTsetWrite w s = _
  refine congrArg _ (if_neg ?_)
  rcases h with h | ⟨h0, hu⟩
  · simp [h]
  · have h0' : s.modidx ≠ 0#8 := fun e => h0 (by rw [e]; rfl)
    simp [hu, h0']

theorem routeBankWrite_discarded {bank : Bool} (dst : BitVec 8) (w : Half) (h : topoArm s.topo = true ∨ bank = topoBank s.topo) :
    Gives (.routeBankWrite bank dst w) s s := by
  show execRouteBankWrite bank dst w s = _
  exact congrArg _ (if_neg (by rcases h with h | h <;> simp [h]))

theorem routeBankWrite_bankA (dst : BitVec 8) (w : Half) (h : topoArm s.topo = false) (hb : topoBank s.topo = true) :
    Gives (.routeBankWrite false dst w) s { s with bankA := s.bankA.set dst.toNat (w &&& 0x807F) dst.isLt } := by
  show execRouteBankWrite false dst w s = _
  exact congrArg _ (if_pos (by simp [h, hb]))

theorem routeBankWrite_bankB (dst : BitVec 8) (w : Half) (h : topoArm s.topo = false) (hb : topoBank s.topo = false) :
    Gives (.routeBankWrite true dst w) s { s with bankB := s.bankB.set dst.toNat (w &&& 0x807F) dst.isLt } := by
  show execRouteBankWrite true dst w s = _
  exact congrArg _ (if_pos (by simp [h, hb]))

theorem gives_attestationReportReady (h : s.mailbox.control = 1) : Gives .attestationReportReady s
    { s with mailbox := { s.mailbox with control := 2, report := s.attestation s.mailbox.nonce } } := by
  show execAttestationReportReady s = _
  exact event_eq (beq_iff_eq.2 h) rfl

/-! ## BAR0 (R12, R433) -/

section
variable {r : Nat} {c : CtxId} {off size : Nat} {w : DWord}

theorem bar0Write_exec (h : bar0Access off size = true) :
    exec (.registerWrite r c (.bar0 ⟨off, size⟩) w) s = .next (s.writeBar0 off size w) := by
  show execRegisterWrite r c (.bar0 ⟨off, size⟩) w s = _
  unfold execRegisterWrite
  exact event_eq h rfl

theorem bar0Write_refused (h : bar0Access off size = false) : Gives (.registerWrite r c (.bar0 ⟨off, size⟩) w) s s := by
  show execRegisterWrite r c (.bar0 ⟨off, size⟩) w s = _
  unfold execRegisterWrite
  exact event_stutters h

variable (s)

theorem bar0Word_modidx : s.bar0Word 0 = s.atomcap.setWidth 32 ++ s.modidx.setWidth 32 := if_pos rfl

/-- MODIDX takes a write until a link has left CAL (R433). -/
theorem writeBar0_modidx (w : DWord) : s.writeBar0 0 4 w =
    { s with modidx := if s.linkTrained then s.modidx else w.setWidth 8 } := by
  have hv : dwordWritten (s.bar0Word 0) 0 4 w = (s.bar0Word 0 >>> 32).setWidth 32 ++ w.setWidth 32 := rfl
  have hl : (dwordWritten (s.bar0Word 0) 0 4 w).setWidth 8 = w.setWidth 8 := by
    rw [hv]
    refine lowField_eq fun i hi => ?_
    rw [bit_append, if_pos (by omega), BitVec.getLsbD_setWidth, BitVec.getLsbD_setWidth, decide_eq_true hi,
      decide_eq_true (by omega : i < 32)]
  have hh : (dwordWritten (s.bar0Word 0) 0 4 w >>> 32).setWidth 6 = s.atomcap := by
    rw [hv, bar0Word_modidx]
    refine field_eq fun i hi => ?_
    rw [bit_append, if_neg (by omega), BitVec.getLsbD_setWidth, BitVec.getLsbD_ushiftRight, bit_append, if_neg (by omega),
      BitVec.getLsbD_setWidth, decide_eq_true (by omega : 32 + i - 32 < 32), Bool.true_and,
      decide_eq_true (by omega : 32 + (32 + i - 32) - 32 < 32), Bool.true_and]
    congr 1
    omega
  unfold State.writeBar0
  dsimp only
  rw [if_pos rfl, hl, hh]

theorem writeBar0_atomcap (w : DWord) : s.writeBar0 4 4 w = { s with atomcap := w.setWidth 6 } := by
  have hv : dwordWritten (s.bar0Word 0) 4 4 w = w.setWidth 32 ++ (s.bar0Word 0).setWidth 32 := rfl
  have hl : (dwordWritten (s.bar0Word 0) 4 4 w).setWidth 8 = s.modidx := by
    rw [hv, bar0Word_modidx]
    refine lowField_eq fun i hi => ?_
    rw [bit_append, if_pos (by omega), BitVec.getLsbD_setWidth, bit_append, if_pos (by omega), BitVec.getLsbD_setWidth,
      decide_eq_true (by omega : i < 32), Bool.true_and, Bool.true_and]
  have hh : (dwordWritten (s.bar0Word 0) 4 4 w >>> 32).setWidth 6 = w.setWidth 6 := by
    rw [hv]
    refine field_eq fun i hi => ?_
    rw [bit_append, if_neg (by omega), BitVec.getLsbD_setWidth, BitVec.getLsbD_setWidth, decide_eq_true hi,
      decide_eq_true (by omega : 32 + i - 32 < 32), Nat.add_sub_cancel_left]
  unfold State.writeBar0
  dsimp only
  rw [if_pos rfl, hl, hh, ite_self]

theorem writeBar0_swtick (w : DWord) : s.writeBar0 0x1008 8 w = ({ s with swtick := w } : State).autoSwitch := by
  unfold State.writeBar0
  dsimp only
  simp (disch := omega) only [if_neg]
  rfl

theorem dwordWritten_all (old : DWord) (off : Nat) (w : DWord) : dwordWritten old off 8 w = w := if_pos rfl

/-- The first word of a directory entry is its address (R435). -/
theorem writeBar0_entry0 (w : DWord) {n : Nat} (h : n < 65536) : s.writeBar0 (0x100000 + 16 * n) 8 w =
    { s with directory := assocPut s.directory n { assocGet ({} : DirEntry) s.directory n with pa := w } } := by
  have hn : (0x100000 + 16 * n - 0x100000) / 16 = n := by omega
  unfold State.writeBar0
  simp (disch := omega) only [if_neg, if_pos, hn, dwordWritten_all]
  exact congrArg (fun e : DirEntry => ({ s with directory := assocPut s.directory n { e with pa := w } } : State)) (dirEntry_words _)

theorem writeBar0_entry1 (w : DWord) {n : Nat} (h : n < 65536) : s.writeBar0 (0x100008 + 16 * n) 8 w =
    { s with directory := assocPut s.directory n { assocGet ({} : DirEntry) s.directory n with
      length := w.setWidth 32, portal := (w >>> 32).setWidth 16, valid := w.getLsbD 48 } } := by
  have hn : (0x100008 + 16 * n - 0x100000) / 16 = n := by omega
  unfold State.writeBar0
  simp (disch := omega) only [if_neg, if_pos, hn, dwordWritten_all]
  rfl

/-- The first word of a portal entry is its address (R439). -/
theorem writeBar0_portal0 (w : DWord) {n : Nat} (h : n < 4096) : s.writeBar0 (0x300000 + 32 * n) 8 w =
    { s with portals := assocPut s.portals n { assocGet ({} : Portal) s.portals n with haddr := w } } := by
  have hn : (0x300000 + 32 * n - 0x300000) / 32 = n := by omega
  unfold State.writeBar0
  simp (disch := omega) only [if_neg, if_pos, hn, dwordWritten_all]
  exact congrArg (fun e : Portal => ({ s with portals := assocPut s.portals n { e with haddr := w } } : State)) (portalEntry_words _)

theorem writeBar0_portal1 (w : DWord) {n : Nat} (h : n < 4096) : s.writeBar0 (0x300008 + 32 * n) 8 w =
    { s with portals := assocPut s.portals n { assocGet ({} : Portal) s.portals n with
      mode := w.setWidth 8, op := (w >>> 8).setWidth 8, rq := (w >>> 16).setWidth 16, ring := (w >>> 32).setWidth 32 } } := by
  have hn : (0x300008 + 32 * n - 0x300000) / 32 = n := by omega
  unfold State.writeBar0
  simp (disch := omega) only [if_neg, if_pos, hn, dwordWritten_all]
  rfl

/-- A write to an offset that R433 does not list is discarded. -/
theorem writeBar0_unlisted (w : DWord) {off : Nat} (h : 0x1010 ≤ off) (hn : off < 0x10000 ∨ 0x10400 ≤ off ∧ off < 0x100000) :
    s.writeBar0 off 8 w = s := by
  unfold State.writeBar0
  simp (disch := omega) only [if_neg]

/-! ## Reads of BAR0 -/

theorem staleRead_exec {off size : Nat} (h : bar0Access off size = true) : exec (.staleCounterRead ⟨off, size⟩) s =
    .next { (if off / 8 = 1 then { s with free := s.free + 2 } else s : State).clearStale off size with
      hostData := if size = 8 then s.bar0Word (off / 8 * 8)
        else if off % 8 = 0 then ((s.bar0Word (off / 8 * 8)).setWidth 32).setWidth 64 else s.bar0Word (off / 8 * 8) >>> 32 } := by
  show execStaleCounterRead ⟨off, size⟩ s = _
  unfold execStaleCounterRead
  exact event_eq h rfl

/-- A read of TOPO clears nothing (R446). -/
theorem topoRead : Gives (.staleCounterRead ⟨0x1000, 8⟩) s { s with hostData := s.topo } := staleRead_exec s rfl

theorem bar0Word_stale {m : Nat} (h : m < 48) :
    s.bar0Word (0x11000 + 8 * m) = (s.portLink (2 * m + 1)).stale ++ (s.portLink (2 * m)).stale := by
  have hm : (0x11000 + 8 * m - 0x11000) / 4 = 2 * m := by omega
  unfold State.bar0Word
  simp (disch := omega) only [if_neg, if_pos, hm]

theorem low_append (x y : Word) : (x ++ y).setWidth 32 = y := lowField_eq fun i hi => by rw [bit_append, if_pos hi]

theorem high_append (x y : Word) : (x ++ y) >>> 32 = x.setWidth 64 := by
  refine BitVec.eq_of_getLsbD_eq fun i hi => ?_
  rw [BitVec.getLsbD_ushiftRight, bit_append, if_neg (by omega), BitVec.getLsbD_setWidth, Nat.add_sub_cancel_left,
    decide_eq_true hi, Bool.true_and]

/-- What a read of a stale counter returns. -/
theorem staleValue {port : Nat} (h : port < 96) :
    (if (0x11000 + 4 * port) % 8 = 0 then ((s.bar0Word ((0x11000 + 4 * port) / 8 * 8)).setWidth 32).setWidth 64
      else s.bar0Word ((0x11000 + 4 * port) / 8 * 8) >>> 32) = (s.portLink port).stale.setWidth 64 := by
  obtain ⟨m, rfl | rfl⟩ : ∃ m, port = 2 * m ∨ port = 2 * m + 1 := ⟨port / 2, by omega⟩
  · have ho : (0x11000 + 4 * (2 * m)) / 8 * 8 = 0x11000 + 8 * m := by omega
    rw [if_pos (by omega), ho, bar0Word_stale s (by omega), low_append]
  · have ho : (0x11000 + 4 * (2 * m + 1)) / 8 * 8 = 0x11000 + 8 * m := by omega
    rw [if_neg (by omega), ho, bar0Word_stale s (by omega), high_append]

/-- A read of a port's stale counter clears it (R12, R433). -/
theorem staleRead {port : Nat} (h : port < 96) : Gives (.staleCounterRead ⟨0x11000 + 4 * port, 4⟩) s
    { s.modLink port fun l => { l with stale := 0 } with hostData := (s.portLink port).stale.setWidth 64 } := by
  have hb : bar0Access (0x11000 + 4 * port) 4 = true := by
    simp [bar0Access]
    omega
  have hc : s.clearStale (0x11000 + 4 * port) 4 = s.modLink port fun l => { l with stale := 0 } := by
    have hn : (0x11000 + 4 * port - 0x11000) / 4 + 0 = port := by omega
    simp only [State.clearStale, show List.range (4 / 4) = [0] from rfl, List.foldl_cons, List.foldl_nil, hn]
    exact if_pos ⟨by omega, h⟩
  have hv := staleValue s h
  refine (staleRead_exec s hb).trans (congrArg _ ?_)
  rw [if_neg (by omega : ¬(0x11000 + 4 * port) / 8 = 1), hc, if_neg (by decide), hv]

end

end

end Sys2Proof.Machine
end


section
/-! # Speosh links (R443, R444) -/

namespace Sys2Proof.Machine

theorem State.modLink_congr {s : State} {port : Nat} {f g : Link → Link} (h : f (s.portLink port) = g (s.portLink port)) :
    s.modLink port f = s.modLink port g := congrArg (fun l => ({ s with links := assocPut s.links port l } : State)) h

/-! ## Flits -/

theorem flush_expect (n : Nat) (l : Link) : (l.flush n).expect = l.expect := by
  induction n generalizing l with
  | zero => rfl
  | succ n ih =>
    unfold Link.flush
    split
    · rfl
    · split
      · exact ih _
      · rfl

theorem go_expect (l : Link) : l.go.expect = l.expect := by
  unfold Link.go
  split
  · exact flush_expect _ l
  · rfl

theorem acknowledged_expect (l : Link) (ack : BitVec 10) : (l.acknowledged ack).expect = l.expect := by
  unfold Link.acknowledged
  split
  · rfl
  · dsimp only
    split
    · exact go_expect _
    · rfl

/-- A link without waiting flits has nothing to transmit. -/
theorem go_of_idle {l : Link} (h : l.waiting = []) : l.go = l := by
  unfold Link.go
  rw [h]
  exact ite_self _

theorem take_expect (l : Link) (f : Flit) : (l.take f).expect = if f.seq = l.expect then l.expect + 1 else l.expect := by
  unfold Link.take
  dsimp only
  rw [acknowledged_expect]
  split
  · rfl
  · exact acknowledged_expect l _

/-- What a flit acknowledges leaves the replay buffer (R443). -/
theorem take_unacked {l : Link} {f a : Flit} {t : List Flit} (hu : l.unacked = a :: t) (hw : l.waiting = [])
    (hn : (f.ack - a.seq).toNat ≤ l.unacked.length) : (l.take f).unacked = l.unacked.drop (f.ack - a.seq).toNat := by
  have ha : l.acknowledged f.ack = { l with unacked := l.unacked.drop (f.ack - a.seq).toNat } := by
    unfold Link.acknowledged
    split
    · next h => exact nomatch h.symm.trans hu
    · next b t' h =>
      obtain ⟨rfl, rfl⟩ := List.cons.inj (h.symm.trans hu)
      dsimp only
      rw [if_pos hn]
      exact go_of_idle hw
  unfold Link.take
  dsimp only
  rw [ha]
  split <;> rfl

/-- An idle port with room in its replay buffer sends its beacon at once. -/
theorem push_beacon {l : Link} {p : Packet} (hs : l.state = .up) (hw : l.waiting = []) (hu : l.unacked.length < 512)
    (hp : p.body.len = 0) : l.push p =
      { l with next := l.next + 1, unacked := l.unacked ++ [{ seq := l.next, ack := l.expect, part := 0, pkt := p }]
               wire := l.wire ++ [{ seq := l.next, ack := l.expect, part := 0, pkt := p }] } := by
  have hf : flitsOf p = [(p, 0)] := by
    rw [flitsOf, hp]
    rfl
  obtain ⟨state, next, expect, unacked, waiting, wire, peerVer, stale, trip⟩ := l
  obtain rfl : state = .up := hs
  obtain rfl : waiting = [] := hw
  simp only [Link.push, hf, List.nil_append, Link.go, if_true, List.length_singleton, Link.flush]
  exact if_pos hu

/-! ## Events of a link -/

section
variable {s : State} {port : Nat}

theorem gives_linkEvent {i : Instr} {st : LinkState} {f : Link → Link} (he : exec i s = linkEvent port st f s) (hp : port < 96)
    (hs : (s.portLink port).state = st) : Gives i s (s.modLink port f) :=
  he.trans (event_eq (by simp [portNumber, hp, hs]) rfl)

theorem gives_speoshBeacon (hw : (s.portLink port).waiting = []) (hu : (s.portLink port).unacked.length < 512) (hp : port < 96)
    (hs : (s.portLink port).state = .up) : Gives (.speoshBeacon port) s (s.modLink port fun l =>
      let f : Flit := { seq := l.next, ack := l.expect, part := 0, pkt := s.beacon port }
      { l with next := l.next + 1, unacked := l.unacked ++ [f], wire := l.wire ++ [f] }) := by
  refine (gives_linkEvent (i := .speoshBeacon port) rfl hp hs).trans (congrArg _ (State.modLink_congr ?_))
  exact (if_pos (by rw [hw]; rfl)).trans (push_beacon (p := s.beacon port) hs hw hu rfl)

theorem gives_lightDetected (hp : port < 96) (hs : (s.portLink port).state = .down) : Gives (.lightDetected port) s
    { s.modLink port fun l => { l with state := .train } with linkUsed := true } := by
  show execLightDetected port s = _
  exact event_eq (by simp [portNumber, hp, hs]) rfl

/-! ## Calibration (R444) -/

/-- A calibrated link is up, with its round trip. -/
def State.linkUp (s : State) (port trip : Nat) : State :=
  { s.modLink port (fun l => { l with trip := trip }.goUp) with linkTrained := true }

section
variable (trip : Nat) (hp : port < 96) (hs : (s.portLink port).state = .cal)
include hp hs

theorem calibration_alone : Gives (.calibration port trip none) s (s.linkUp port trip) := by
  show execCalibration port trip none s = _
  unfold execCalibration
  exact event_eq (by simp [portNumber, hp, hs]) rfl

theorem calibration_keepsTick (tick : DWord) (ht : s.tickSet = true ∨ s.modidx.toNat = 0) :
    Gives (.calibration port trip (some tick)) s (s.linkUp port trip) := by
  show execCalibration port trip (some tick) s = _
  unfold execCalibration
  exact event_eq (by simp [portNumber, hp, hs]) (if_pos (ht.imp_right fun h => BitVec.eq_of_toNat_eq h))

theorem calibration_setsTick (tick : DWord) (ht : s.tickSet = false) (hm : s.modidx.toNat ≠ 0) (ha : topoArm s.topo = false) :
    Gives (.calibration port trip (some tick)) s
      { s.linkUp port trip with tick := tick + BitVec.ofNat 64 ((trip + 63) / 64), tickSet := true } := by
  have hn : ¬((s.linkUp port trip).tickSet = true ∨ (s.linkUp port trip).modidx = 0) := by
    rintro (h | h)
    · exact Bool.false_ne_true (ht.symm.trans h)
    · exact hm (congrArg BitVec.toNat h)
  show execCalibration port trip (some tick) s = _
  unfold execCalibration
  exact event_eq (by simp [portNumber, hp, hs]) ((if_neg hn).trans (autoSwitch_waits (.inl ha)))

end

/-! ## Timeouts (R379) -/

theorem gives_retrainTimeout (hp : port < 96) (hs : (s.portLink port).state = .retrain) :
    let far (m : Nat) : Bool := s.routeTo m == some port
    let hit (q : Plan) : Bool := (q.legModules s.modidx.toNat).any far
    Gives (.retrainTimeout port) s (((s.modLink port Link.fallen).loseModules far hit).postNamed none 4 port 0 (s.pitchesWith hit)) := by
  show execRetrainTimeout port s = _
  exact event_eq (by simp [portNumber, hp, hs]) rfl

theorem gives_moduleTimeout {m : Nat} (hm : m ≠ s.modidx.toNat) (hr : m < 256) (hn : m ∉ s.silentModules) :
    let hit (q : Plan) : Bool := (q.others s.modidx.toNat).any fun x => x == m
    Gives (.moduleTimeout m) s ((({ s with silentModules := insertNat s.silentModules m } : State).loseModules (fun x => x == m)
      hit).postNamed none 5 m 0 (s.pitchesWith hit)) := by
  show execModuleTimeout m s = _
  exact event_eq (by simp [hm, hr, hn]) rfl

theorem gives_podMemberTimeout {m : Nat} (hr : m < 256) : Gives (.podMemberTimeout m) s { s with jobFailed := true } := by
  show execPodMemberTimeout m s = _
  exact event_eq (decide_eq_true hr) rfl

end

end Sys2Proof.Machine
end


section
/-! # Packets of other modules (R333 to R337, R348 to R350, R443, R445, R447, R450) -/

namespace Sys2Proof.Machine

section
variable {s : State} {port : Nat} {f : Flit}

/-! ## The last flit of a packet brings the whole of it -/

/-- The module that has sent a packet is silent no more. -/
def State.heard (s : State) (port : Nat) (f : Flit) : State :=
  { s.modLink port fun l => l.take f with silentModules := s.silentModules.filter (· ≠ f.pkt.src) }

/-- A port counts a packet that another version rejects; the count stays at its greatest value (R447). -/
def State.countStale (s : State) (port : Nat) : State :=
  s.modLink port fun l => { l with stale := if l.stale = 0xFFFFFFFF then l.stale else l.stale + 1 }

section
variable (hp : port < 96) (hs : (s.portLink port).state = .up) (hg : f.good = true)
include hp hs hg

theorem receive_early (hd : ¬(f.seq = (s.portLink port).expect ∧ f.part = f.pkt.body.len)) :
    Gives (.speoshPacketReceive port f) s (s.modLink port fun l => l.take f) := by
  show execSpeoshPacketReceive port f s = _
  refine event_eq (by simp [portNumber, hp, hs, hg]) (if_neg ?_)
  simpa using hd

variable (hd : f.seq = (s.portLink port).expect ∧ f.part = f.pkt.body.len)
include hd

theorem receive_packet : exec (.speoshPacketReceive port f) s =
    .next ((s.modLink port fun l => l.take f).packetCame port f.pkt) := by
  obtain ⟨h1, h2⟩ := hd
  show execSpeoshPacketReceive port f s = _
  exact event_eq (by simp [portNumber, hp, hs, hg]) (if_pos (by simp [h1, h2]))

theorem receive_old (ho : versioned f.pkt.body = true ∧ f.pkt.ver ≠ topoVer s.topo) : Gives (.speoshPacketReceive port f) s
    (((s.heard port f).countStale port).rejected f.pkt.src f.pkt.dst f.pkt.body) := by
  refine (receive_packet hp hs hg hd).trans (congrArg _ (if_pos ?_))
  obtain ⟨hv, hn⟩ := ho
  have hn' : (f.pkt.ver != topoVer s.topo) = true := bne_iff_ne.2 hn
  exact Bool.and_eq_true_iff.2 ⟨hv, hn'⟩

variable (ho : ¬(versioned f.pkt.body = true ∧ f.pkt.ver ≠ topoVer s.topo))
include ho

omit hp hs hg hd in
theorem current_version : ¬(versioned f.pkt.body && f.pkt.ver != topoVer s.topo) = true := by
  simpa [Bool.and_eq_true_iff] using ho

theorem receive_forwards (hm : f.pkt.dst ≠ s.modidx.toNat) (hk : f.pkt.body.kind ≠ 5) : Gives (.speoshPacketReceive port f) s
    ((s.heard port f).forward f.pkt) := by
  refine (receive_packet hp hs hg hd).trans (congrArg _ ((if_neg (current_version ho)).trans (if_neg ?_)))
  exact not_or.2 ⟨hk, hm⟩

theorem receive_accepts (h : f.pkt.body.kind = 5 ∨ f.pkt.dst = s.modidx.toNat) : Gives (.speoshPacketReceive port f) s
    ((s.heard port f).accepted port f.pkt.src f.pkt.ver f.pkt.body) :=
  (receive_packet hp hs hg hd).trans (congrArg _ ((if_neg (current_version ho)).trans (if_pos h)))

end

theorem forward_none {u : State} {p : Packet} (h : u.routeTo p.dst = none) : u.forward p = u := by
  simp only [State.forward, h]

theorem forward_some {u : State} {p : Packet} {o : Nat} (h : u.routeTo p.dst = some o) :
    u.forward p = u.modLink o fun l => l.push p := by
  simp only [State.forward, h]

end

/-! ## Rejected packets (R447) -/

section
variable (u : State) (src dst : Nat) {body : PacketBody} {cfg : Nat} {key : PlanKey}

/-- The body is a partial or a delivery of a plan. -/
def PlanPacket (body : PacketBody) (cfg : Nat) (key : PlanKey) : Prop :=
  (∃ n x y t d pt, body = .partialSum cfg key n x y t d pt) ∨ (∃ n t d pt, body = .delivery cfg key n t d pt)

theorem rejected_elsewhere (hb : PlanPacket body cfg key) (h : dst ≠ u.modidx.toNat ∨ u.remotePlan cfg key = none) :
    u.rejected src dst body = u.sendPacket src (.planNack cfg key 3) := by
  have hn : ∀ o p, ¬((dst == u.modidx.toNat) = true ∧ u.remotePlan cfg key = some (o, p)) := by
    rintro o p ⟨hd, hp⟩
    exact h.elim (fun h => h (beq_iff_eq.1 hd)) fun h => by simp [h] at hp
  rcases hb with ⟨n, x, y, t, d, pt, rfl⟩ | ⟨n, t, d, pt, rfl⟩
  all_goals
    simp only [State.rejected]
    split
    · next hd hp => exact absurd ⟨hd, hp⟩ (hn _ _)
    · rfl

theorem rejected_here (hb : PlanPacket body cfg key) (hd : dst = u.modidx.toNat) {o : PitchId} {p : Plan}
    (hp : u.remotePlan cfg key = some (o, p)) :
    u.rejected src dst body = (u.failPlan o p 3).sendPacket src (.planNack cfg key 3) := by
  rcases hb with ⟨n, x, y, t, d, pt, rfl⟩ | ⟨n, t, d, pt, rfl⟩
  all_goals simp only [State.rejected, beq_iff_eq.2 hd, hp]

end

/-! ## Accepted packets -/

section
variable (u : State)

theorem messageCame_noRank {m : UserMsg} {x : Nat} (h : u.ranked ≤ x) : u.messageCame m x = u.nackUser m 0x03 := if_pos h

theorem messageCame_uncounted {m : UserMsg} {x : Nat} (h : x < u.ranked) (hc : u.carries x m.src = false) :
    u.messageCame m x = u.modTile x fun t => t.arrive (.user m) := by
  rw [State.messageCame, if_neg (Nat.not_le.2 h), hc]
  rfl

theorem messageCame_counted {m : UserMsg} {x : Nat} (h : x < u.ranked) (hc : u.carries x m.src = true) :
    u.messageCame m x = (u.modTile x fun t => t.arrive (.user m)).modTile x fun t => { t with msgSent := t.msgSent + 1 } := by
  rw [State.messageCame, if_neg (Nat.not_le.2 h), hc]
  rfl

/-- Counting a completed message leaves MODIDX. -/
theorem countDone_modidx (r : Nat) (src : Sender) : (u.countDone r src).modidx = u.modidx := by
  unfold State.countDone
  generalize (if src.mod = u.modidx.toNat then src.rank else r) = k
  dsimp only
  split <;> rfl

theorem answered_modidx (m : UserMsg) : (u.answered m).modidx = u.modidx := countDone_modidx { u with abroad := u.abroad.erase m } _ _

variable (port src : Nat) (ver : Half)

theorem accepted_reply_none {x tag : Nat} {y : CtxId} {b : Bool} {v : Word} {g : DWord} {pt : Time} (h : u.awaited x y tag = none) :
    u.accepted port src ver (.reply x y b tag v g pt) = u := by
  simp only [State.accepted, h]

theorem accepted_reply_answer {x tag : Nat} {y : CtxId} {b : Bool} {v : Word} {g : DWord} {pt : Time} {m : UserMsg}
    (h : u.awaited x y tag = some m) (hb : b = true) : u.accepted port src ver (.reply x y b tag v g pt) =
      (u.answered m).modTile x fun z => { z with replies := z.replies ++ [⟨y, tag, v, pt⟩] } := by
  subst hb
  simp only [State.accepted, h]
  rfl

theorem accepted_reply_done {x tag : Nat} {y : CtxId} {b : Bool} {v : Word} {g : DWord} {pt : Time} {m : UserMsg}
    (h : u.awaited x y tag = some m) (hb : b = false) : u.accepted port src ver (.reply x y b tag v g pt) =
      (u.answered m).modCtx x y fun c => { c.meet pt with postedMsgs := c.postedMsgs.erase (msgTarget u.modidx.toNat g) } := by
  subst hb
  simp only [State.accepted, h, Bool.false_eq_true, if_false]
  rw [answered_modidx]

theorem accepted_nack_none {m : UserMsg} {d : Byte} (h : u.awaited m.src.rank m.src.ctx m.tag = none) :
    u.accepted port src ver (.nack m d) = u := by
  simp only [State.accepted, h]

theorem accepted_nack_some {m o : UserMsg} {d : Byte} (h : u.awaited m.src.rank m.src.ctx m.tag = some o) :
    u.accepted port src ver (.nack m d) =
      (u.answered o).modTile o.src.rank fun t => { t with nacks := t.nacks ++ [.user o d] } := by
  simp only [State.accepted, h]

theorem planNacked_none {cfg : Nat} {key : PlanKey} {cause : BitVec 3} (h : u.remotePlan cfg key = none) :
    u.planNacked cfg key cause = u := by
  simp only [State.planNacked, h]

theorem planNacked_some {cfg : Nat} {key : PlanKey} {cause : BitVec 3} {o : PitchId} {p : Plan}
    (h : u.remotePlan cfg key = some (o, p)) : u.planNacked cfg key cause = u.failPlan o p cause := by
  simp only [State.planNacked, h]

end

/-! ## Partials and deliveries of plans (R333 to R335) -/

/-- The plan of a pitch, by their names. -/
def State.planOfPitch (s : State) (o : PitchId) (k : PlanKey) : Option Plan := (s.pitch? o).bind fun x => x.plan? k

theorem plan?_key {x : Pitch} {k : PlanKey} {p : Plan} (h : x.plan? k = some p) : p.key = k := by
  have hk := List.find?_some h
  simp only [Bool.and_eq_true, beq_iff_eq] at hk
  exact hk.2

theorem planOfPitch_key {u : State} {o : PitchId} {k : PlanKey} {p : Plan} (h : u.planOfPitch o k = some p) : p.key = k := by
  obtain ⟨x, -, hx⟩ := Option.bind_eq_some_iff.1 h
  exact plan?_key hx

theorem planOfPitch_modPlan {u : State} {o : PitchId} {k : PlanKey} {p : Plan} (h : u.planOfPitch o k = some p) {g : Plan → Plan}
    (hg : ∀ q, (g q).key = q.key ∧ (g q).present = q.present) : (u.modPlan o k g).planOfPitch o k = some (g p) := by
  obtain ⟨x, hx, hp⟩ := Option.bind_eq_some_iff.1 h
  have hx' := State.pitch?_modPitch_same (f := fun p => { p with plans := p.plans.map fun q => if q.key = k then g q else q })
    (fun _ => rfl) hx
  have e : (fun q : Plan => q.present && q.key == k) ∘ (fun q => if q.key = k then g q else q) = fun q => q.present && q.key == k := by
    funext q
    show ((if q.key = k then g q else q).present && (if q.key = k then g q else q).key == k) = (q.present && q.key == k)
    split
    · rw [(hg q).1, (hg q).2]
    · rfl
  refine (congrArg (fun y => Option.bind y fun x => x.plan? k) hx').trans ?_
  show (x.plans.map _).find? _ = _
  rw [List.find?_map, e, show x.plans.find? _ = some p from hp, Option.map_some, if_pos (plan?_key hp)]

section
variable {u : State} {o : PitchId} {key : PlanKey} {p : Plan} {src cfg firing : Nat}

theorem onPlan_none (h : u.remotePlan cfg key = none) (g : State → PitchId → Plan → State) :
    u.onPlan src cfg key firing g = u.sendPacket src (.planNack cfg key 6) := by
  simp only [State.onPlan, h]

section
variable (h : u.remotePlan cfg key = some (o, p)) (hu : u.planOfPitch o key = some p)
include h hu

/-- What comes of a firing that is over here, or that failed, is dropped. -/
theorem onPlan_late (hl : p.failed = true ∨ firing < p.firing) (g : State → PitchId → Plan → State) :
    u.onPlan src cfg key firing g = u := by
  have hc : u.catchUp o p firing = u := if_neg fun hc => by
    obtain ⟨hf, hn⟩ := Bool.and_eq_true_iff.1 hc
    rcases hl with hl | hl
    · simp [hl] at hf
    · exact Nat.lt_asymm hl (of_decide_eq_true hn)
  have hu' : ((u.pitch? o).bind fun x => x.plan? key) = some p := hu
  simp only [State.onPlan, h, hc, hu', if_pos hl]

theorem onPlan_current (hf : p.failed = false) (hn : firing = p.firing) (g : State → PitchId → Plan → State) :
    u.onPlan src cfg key firing g = g u o p := by
  subst hn
  have hc : u.catchUp o p p.firing = u := if_neg (by simp)
  have hu' : ((u.pitch? o).bind fun x => x.plan? key) = some p := hu
  have hl : ¬(p.failed = true ∨ p.firing < p.firing) := by simp [hf]
  simp only [State.onPlan, h, hc, hu', if_neg hl]

end

/-- What an accepted partial or delivery does is up to its plan. -/
theorem accepted_onPlan (u : State) (port src : Nat) (ver : Half) {body : PacketBody}
    (hb : (∃ x y t d pt, body = .partialSum cfg key firing x y t d pt) ∨ (∃ t d pt, body = .delivery cfg key firing t d pt)) :
    ∃ g, u.accepted port src ver body = u.onPlan src cfg key firing g := by
  rcases hb with ⟨x, y, t, d, pt, rfl⟩ | ⟨t, d, pt, rfl⟩
  · simp only [State.accepted, State.partialCame]
    exact ⟨_, rfl⟩
  · simp only [State.accepted, State.deliveryCame]
    exact ⟨_, rfl⟩

/-- Data that come whole, with none before them. -/
theorem gather_whole (ha : p.arriving = []) (node : Option Nat) (d : List Byte) :
    u.gather o p node d.length d = (u.modPlan o p.key fun q => { q with arriving := [] }, some d) := by
  simp [State.gather, ha]

theorem addPartial_waits {x : Partial} (hf : p.failed = false) (h : ¬(x.node = 0 ∧ x.span = p.parts.length))
    (h' : ¬(x.span = p.wholeSpan x.node ∧ p.modOf (parentOf x.node) ≠ u.modidx.toNat)) :
    u.addPartial o p x = u.modPlan o p.key fun p => { p with partials := p.partials ++ [x] } := by
  rw [State.addPartial, hf]
  dsimp only
  rw [if_neg Bool.false_ne_true, if_neg h, if_neg h']

/-- A step that changes the plan of a pitch alone. -/
def PlanBecomes (u v : State) (o : PitchId) (key : PlanKey) (c : Plan → Prop) : Prop :=
  v.mem = u.mem ∧ (∀ x, v.tile x = u.tile x) ∧ ∃ p', v.planOfPitch o key = some p' ∧ c p'

section
variable (h : u.remotePlan cfg key = some (o, p)) (hu : u.planOfPitch o key = some p) (hf : p.failed = false)
  (hn : firing = p.firing) (ha : p.arriving = [])
include h hu hf hn ha

/-- A partial that is not complete, and whose parent is here, waits for the other operand (R333). -/
theorem partialCame_waits {x y : Nat} {d : List Byte} {pt : Time} (hr : ¬(x = 0 ∧ y = p.parts.length))
    (hs : ¬(y = p.wholeSpan x ∧ p.modOf (parentOf x) ≠ u.modidx.toNat)) :
    PlanBecomes u (u.partialCame src cfg key firing x y d.length d pt) o key fun p' =>
      p'.partials = p.partials ++ [⟨x, y, d⟩] ∧ p'.result = p.result := by
  obtain rfl : p.key = key := planOfPitch_key hu
  have h1 := planOfPitch_modPlan hu (g := fun q => { q with arriving := [] }) fun _ => ⟨rfl, rfl⟩
  have h2 := planOfPitch_modPlan h1 (g := fun q => { q with pts := Time.join q.pts pt }) fun _ => ⟨rfl, rfl⟩
  have h3 := planOfPitch_modPlan h2 (g := fun q => { q with partials := q.partials ++ [⟨x, y, d⟩] }) fun _ => ⟨rfl, rfl⟩
  have h2' := h2
  unfold State.planOfPitch at h2'
  have e : u.partialCame src cfg p.key firing x y d.length d pt =
      ((u.modPlan o p.key fun q => { q with arriving := [] }).modPlan o p.key fun q => { q with pts := Time.join q.pts pt }).addPartial o
        { p with arriving := [], pts := Time.join p.pts pt } ⟨x, y, d⟩ := by
    rw [State.partialCame, onPlan_current h hu hf hn, gather_whole ha]
    dsimp only
    rw [h2']
  rw [e.trans (addPartial_waits (p := { p with arriving := [], pts := Time.join p.pts pt }) hf hr hs)]
  exact ⟨rfl, fun _ => rfl, _, h3, rfl, rfl⟩

/-- A delivery that comes whole is to be signalled, and, with data, to be written and published (R335). -/
theorem deliveryCame_delivers {d : List Byte} {pt : Time} :
    PlanBecomes u (u.deliveryCame src cfg key firing d.length d pt) o key fun p' =>
      p'.signalsDue = p.ranksOn u.modidx.toNat ∧ (d.length ≠ 0 → p'.result = some d ∧ p'.pubDue = p.buffer.isSome ∧
        p'.writesDue = if p.reduce then (p.ranksOn u.modidx.toNat).take 1 else p.ranksOn u.modidx.toNat) := by
  obtain rfl : p.key = key := planOfPitch_key hu
  have h1 := planOfPitch_modPlan hu (g := fun q => { q with arriving := [] }) fun _ => ⟨rfl, rfl⟩
  have h2 := planOfPitch_modPlan h1 (g := fun q =>
    { q.deliver u.modidx.toNat (if d.length = 0 then none else some d) with pts := Time.join q.pts pt }) fun q => by
      split <;> exact ⟨rfl, rfl⟩
  have e : u.deliveryCame src cfg p.key firing d.length d pt =
      (u.modPlan o p.key fun q => { q with arriving := [] }).modPlan o p.key fun q =>
        { q.deliver u.modidx.toNat (if d.length = 0 then none else some d) with pts := Time.join q.pts pt } := by
    rw [State.deliveryCame, onPlan_current h hu hf hn, gather_whole ha]
  rw [e]
  refine ⟨rfl, fun _ => rfl, _, h2, ?_⟩
  split
  · next h0 => exact ⟨rfl, fun hn => absurd h0 hn⟩
  · exact ⟨rfl, fun _ => ⟨rfl, rfl, rfl⟩⟩

end

end

end Sys2Proof.Machine
end


section
/-! # Timeouts of links, tiles and field managers; clocks (R379, R415 to R417) -/

namespace Sys2Proof.Machine

section
variable {s : State} {r n : Nat} {dir : BitVec 2}

/-! ## Mesh links (R379) -/

theorem gives_meshBeacon (hr : r < s.ranked) (hn : s.neighbour r dir.toNat = some n) : Gives (.meshBeacon r dir) s
    (s.modTile r fun t => { t with beacons := vecMod t.beacons dir.toNat (· + 1) }) := by
  show execMeshBeacon r dir s = _
  exact event_eq (by simp [hr, hn]) rfl

/-- A link direction of a tile is down. -/
def State.linkDown (s : State) (r : Nat) (dir : BitVec 2) : State :=
  s.modTile r fun t => { t with meshDown := t.meshDown ||| (1 <<< dir.toNat) }

/-- The link direction that a tile sees from its neighbour `n`. -/
def State.linkFrom (s : State) (n : Nat) (dir : BitVec 2) : LinkDir := (s.xOf n, s.yOf n, (dir.toNat + 2) % 4)

/-- A plan of an active pitch has a leg over a link direction. -/
def State.onLeg (s : State) (l : LinkDir) (p : Pitch) (q : Plan) : Bool := p.active && q.present && s.legCrosses q l

theorem meshLinkTimeout_exec (hr : r < s.ranked) (hn : s.neighbour r dir.toNat = some n)
    (hd : (s.tile r).meshDown.getLsbD dir.toNat = false) : exec (.meshLinkTimeout r dir) s =
      .next (((s.pitches.foldl (fun s' p => s'.failPlans p.id (s.onLeg (s.linkFrom n dir) p) 2) s).linkDown r dir).postNamed
        (some r) 1 r dir.toNat ((s.pitches.filter fun p => p.active && (p.crosses (s.linkFrom n dir).1 (s.linkFrom n dir).2.1
          (s.linkFrom n dir).2.2 || p.plans.any (s.onLeg (s.linkFrom n dir) p))).map (·.id))) := by
  show execMeshLinkTimeout r dir s = _
  simp only [execMeshLinkTimeout, hn]
  exact event_eq (by simp [hr, hd]) rfl

theorem failPlans_eq {id : PitchId} {p : Pitch} (hp : s.pitch? id = some p) (pick : Plan → Bool) (c : BitVec 3) :
    s.failPlans id pick c = (p.plans.filter pick).foldl (fun s q => s.failPlan id q c) s := by
  simp only [State.failPlans, hp]

theorem pitch?_single {p : Pitch} (h : s.pitches = [p]) : s.pitch? p.id = some p := by
  simp [State.pitch?, h]

section
variable (hr : r < s.ranked) (hn : s.neighbour r dir.toNat = some n) (hd : (s.tile r).meshDown.getLsbD dir.toNat = false)
include hr hn hd

theorem meshLinkTimeout_empty (hp : s.pitches = []) : Gives (.meshLinkTimeout r dir) s (s.linkDown r dir) := by
  have he := meshLinkTimeout_exec hr hn hd
  rwa [hp] at he

variable {p : Pitch} (hp : s.pitches = [p]) (ha : p.active = true)
include hp ha

theorem meshLinkTimeout_crossed (hl : p.plans = [])
    (hc : p.crosses (s.linkFrom n dir).1 (s.linkFrom n dir).2.1 (s.linkFrom n dir).2.2 = true) :
    Gives (.meshLinkTimeout r dir) s ((s.linkDown r dir).postNamed (some r) 1 r dir.toNat [p.id]) := by
  have he := meshLinkTimeout_exec hr hn hd
  rw [hp, List.foldl_cons, List.foldl_nil, failPlans_eq (pitch?_single hp), hl] at he
  simpa [ha, hc, Gives] using he

theorem meshLinkTimeout_free (hl : p.plans = [])
    (hc : p.crosses (s.linkFrom n dir).1 (s.linkFrom n dir).2.1 (s.linkFrom n dir).2.2 = false) :
    Gives (.meshLinkTimeout r dir) s (s.linkDown r dir) := by
  have he := meshLinkTimeout_exec hr hn hd
  rw [hp, List.foldl_cons, List.foldl_nil, failPlans_eq (pitch?_single hp), hl] at he
  simpa [ha, hc, hl, Gives, State.postNamed] using he

theorem meshLinkTimeout_plan {o : Plan} (hl : p.plans = [o]) (ho : o.present = true)
    (hc : s.legCrosses o (s.linkFrom n dir) = true) : Gives (.meshLinkTimeout r dir) s
      (((s.failPlan p.id o 2).linkDown r dir).postNamed (some r) 1 r dir.toNat [p.id]) := by
  have hleg : s.onLeg (s.linkFrom n dir) p o = true := by simp [State.onLeg, ha, ho, hc]
  have he := meshLinkTimeout_exec hr hn hd
  rw [hp, List.foldl_cons, List.foldl_nil, failPlans_eq (pitch?_single hp), hl] at he
  simpa [ha, hl, hleg, Gives] using he

end

/-! ## Tiles and fields -/

/-- A tile fails as a whole: the record names it, and its strike is due (R379, R416). -/
theorem tileFails_eq (s : State) (r : Nat) : s.tileFails r = (s.modTile r fun t =>
    { t with strikeDue := if t.struck = true ∨ t.strikeDue.isSome = true then t.strikeDue else some 0x33 }).postNamed (some r) 2 r 0
      (s.dependsOn r) := by
  refine congrArg (fun u => State.postNamed u (some r) 2 r 0 (s.dependsOn r)) (State.modTile_congr ?_)
  unfold Tile.nameStrike
  split <;> rfl

theorem gives_routerTimeout (hr : r < s.ranked) (hs : (s.tile r).struck = false) (hd : (s.tile r).strikeDue = none) :
    Gives (.routerTimeout r) s (s.tileFails r) := by
  show execRouterTimeout r s = _
  exact event_eq (by simp [hr, hs, hd]) rfl

theorem gives_fieldManagerTimeout {f : Nat} (hf : f < 48) (hm : (s.field f).manager = true) : Gives (.fieldManagerTimeout f) s
    ((s.modField f fun g => { g with manager := false }).postNamed none 3 f 0 (s.dependsOnField f)) := by
  show execFieldManagerTimeout f s = _
  exact event_eq (by simp [hf, hm]) rfl

/-! ## Clocks (R416, R417) -/

theorem gives_clockRealigned (hc : (s.tile r).clock = .realigning) : Gives (.clockRealigned r) s
    ((s.modTile r fun t => { t with clock := .good }).modClocks r fun c => if c = .hold then .good else c) := by
  show execClockRealigned r s = _
  exact event_eq (by rw [hc]; rfl) rfl

section
variable (hr : r < s.ranked) (hc : (s.tile r).clock = .good)
include hr hc

theorem gives_holdAsserted : Gives (.holdAsserted r) s (s.assertHold r) := by
  show execHoldAsserted r s = _
  exact event_eq (by simp [hr, hc]) rfl

theorem gives_outOfTime : Gives (.outOfTime r) s (s.outOfClock r) := by
  show execOutOfTime r s = _
  exact event_eq (by simp [hr, hc]) rfl

omit hr hc in
/-- While the source of a tile asserts hold, the tile waits for it (R416). -/
theorem clockSourceLoss_held {a : Nat} (ha : s.clockSource r = some a)
    (hh : (s.tile a).clock = .hold ∨ (s.tile a).clock = .realigning) : Gives (.clockSourceLoss r) s s := by
  show execClockSourceLoss r s = _
  simp only [execClockSourceLoss, ha]
  exact event_stutters (by rcases hh with hh | hh <;> simp [hh])

variable (hh : ¬∃ a, s.clockSource r = some a ∧ ((s.tile a).clock = .hold ∨ (s.tile a).clock = .realigning))
include hh

omit hr hc in
theorem source_runs {a : Nat} (ha : s.clockSource r = some a) :
    ((s.tile a).clock == .hold || (s.tile a).clock == .realigning) = false := by
  have h := fun h => hh ⟨a, ha, h⟩
  obtain ⟨h1, h2⟩ := not_or.1 h
  rw [beq_eq_false_iff_ne.2 h1, beq_eq_false_iff_ne.2 h2, Bool.or_false]

/-- The tile asserts hold, and takes the next neighbour that can feed it, or is out of clock. -/
theorem clockSourceLoss_sources :
    (∀ d, ((s.assertHold r).nextSources r).find? ((s.assertHold r).canFeed r) = some d → Gives (.clockSourceLoss r) s
      ((s.assertHold r).modTile r fun t =>
        { t with clock := .realigning, clkCur := some (BitVec.ofNat 2 d), clkEvt := t.clkEvt + 1 })) ∧
    (((s.assertHold r).nextSources r).find? ((s.assertHold r).canFeed r) = none →
      Gives (.clockSourceLoss r) s ((s.assertHold r).outOfClock r)) := by
  refine ⟨fun d hd => ?_, fun hd => ?_⟩
  all_goals
    show execClockSourceLoss r s = _
    unfold execClockSourceLoss
    refine event_eq ?_ (by dsimp only; rw [hd])
    rw [hc]
    split
    · next a ha =>
      rw [source_runs hh ha]
      simp [hr]
    · simp [hr]

end

end

end Sys2Proof.Machine
end


section
/-! # The host edge and the links: the obligation -/

namespace Sys2Proof.Machine

theorem gives_of_eq {i : Instr} {s u v : State} (h : exec i s = .next u) (e : u = v) : Gives i s v := h.trans (congrArg _ e)

theorem queueRefuses_of_eq {i : Instr} {s u : State} {q : Nat} {err : Byte} (h : exec i s = .next u) (e : u = s.queueErr q err) :
    QueueRefuses i s q err := queueRefuses_of_exec (gives_of_eq h e)

/-- A write to an unlisted offset of BAR0 is discarded, and one that is not aligned is refused. -/
theorem bar0_unlisted {s : State} {r : Nat} {c : CtxId} (w : DWord) {off : Nat} (h : 0x1010 ≤ off)
    (hn : off < 0x10000 ∨ 0x10400 ≤ off ∧ off < 0x100000) : Gives (.registerWrite r c (.bar0 ⟨off, 8⟩) w) s s := by
  cases ha : bar0Access off 8 with
  | false => exact bar0Write_refused ha
  | true => exact gives_of_eq (bar0Write_exec ha) (writeBar0_unlisted s w h hn)

/-- Settles O59: each event takes place under its condition; the records of queues share what their image leads to
(`RecordStarts`), the writes of BAR0 the topology switch that they make due, and the packets of a link what a flit leaves of it. -/
theorem hostEdgeAndLinks : Obligations.HostEdgeAndLinks := by
  unfold Obligations.HostEdgeAndLinks
  intro s q k port r c rd id own h eg link refused entry starts takes
  have hstarts (i : Instr) (im : Image) (hs : RecordStarts i s q rd im) : starts i im := by
    refine ⟨hs.badImage, hs.badPortal, fun hi hp => ⟨fun ho => ?_, hs.noTarget hi hp, fun p ho ht hn => ?_⟩⟩
    · obtain ⟨v, o, hv, hq, hc⟩ := hs.launch hi hp ho
      exact ⟨v, o, ⟨hv, hq.and⟩, hc⟩
    · obtain ⟨v, o, hv, hq, hc⟩ := hs.splice hi hp p ho ht hn
      exact ⟨v, o, ⟨hv, hq.and⟩, hc⟩
  have htakes (i : Instr) (ht : q < 65536 → h.state = .idle → RecordTaken i s q rd) : takes i := fun hq hi =>
    ⟨(ht hq hi).bad, fun hr => ⟨(ht hq hi).invalid hr, (ht hq hi).noTarget hr,
      fun hv hs => ⟨fun im him => hstarts i im ((ht hq hi).cached hr hv hs im him), (ht hq hi).fetches hr hv hs⟩⟩⟩
  refine ⟨fun ho => htakes _ fun hq hi => launch_taken hq hi ho, fun ho => htakes _ fun hq hi => spliceInherit_taken hq hi ho,
    fun ho => htakes _ fun hq hi => spliceNoInherit_taken hq hi ho, ?join,
    fun im hi hr => hstarts _ im (imageFetched_starts hi hr), ?tokens,
    fun off bs hq hi hn => queueRefuses_of_exec (ingressToken_idle hq hi hn), fun w hq => gives_errClear hq w,
    ?egress, ?completion, fun w => ⟨tsetWrite_taken w, tsetWrite_discarded w⟩, ?topology,
    fun dst w => ⟨routeBankWrite_bankA dst w, routeBankWrite_bankB dst w, fun bank => routeBankWrite_discarded dst w⟩,
    staleRead s, topoRead s, ?bar0, fun nonce => rfl, gives_attestationReportReady, gives_lightDetected,
    gives_linkEvent rfl, ?links, ?receive, fun m hm hr hn => gives_moduleTimeout hm hr hn, fun m hr => gives_podMemberTimeout hr,
    ?mesh, ?clocks, fun f hf hm => gives_fieldManagerTimeout hf hm⟩
  case join =>
    intro ho hq hi
    have hw : exec (.join q rd) s = .next (s.writeRecord q rd) := join_writes hq ho
    refine ⟨fun hr => queueRefuses_of_eq hw (writeRecord_bad hi hr),
      fun hr hp => queueRefuses_of_eq hw ((writeRecord_join hi hr ho).trans (takeJoin_unknown hp)),
      fun p g hr hp hg => ⟨fun hx => queueRefuses_of_eq hw ((writeRecord_join hi hr ho).trans (takeJoin_refused hp hg hx)),
        fun hs hn hv => ?_⟩⟩
    obtain ⟨o, hj⟩ := join_joins hi hp hg
    exact ⟨_, o, gives_of_eq hw ((writeRecord_join hi hr ho).trans (takeJoin_joins hp hg hs hn hv)), hj⟩
  case tokens =>
    intro off bs hq hst
    have hw : exec (.ingressToken q ⟨off, bs⟩) s = .next (s.writeTokens q off bs) := ingressToken_writes hq hst
    have hone (hr : RightWrite off bs) (hl : bs.length = 16) := ingressToken_one hq hst hr hl
    exact ⟨fun hr => queueRefuses_of_eq hw (writeTokens_wrong hr), fun hr => gives_of_eq hw (writeTokens_right hr),
      fun hr hl hc => queueRefuses_of_eq (hone hr hl) (takeToken_closed hc), fun hr hl hb =>
      ⟨fun hf => queueRefuses_of_eq (hone hr hl) (takeToken_struck hb hf),
        fun hf hc => queueRefuses_of_eq (hone hr hl) (takeToken_noCredit hb hf hc),
        fun hf hc hm hn => gives_of_eq (hone hr hl) (takeToken_early hb hf hc hm hn), fun hf hc o j hn =>
        ⟨fun hm => gives_of_eq (hone hr hl) (takeToken_word hb hf hc hn hm),
          fun hm ho => gives_of_eq (hone hr hl) (takeToken_overtaken hb hf hc hn hm ho),
          fun hm ho => gives_of_eq (hone hr hl) (takeToken_last hb hf hc hn hm ho)⟩⟩⟩
  case egress =>
    refine fun e w portal he => ⟨fun hm hw hn => egressAtomicop_waits he hm hn, fun hs => ⟨fun hm => egressRing_slot he hs hm,
      fun hm hw => egressRing_end he hs hm hw, fun hm hw hn => ⟨fun ho => egressAtomicop_plain he hm hw hn hs ho,
        fun ho hf => ?_, fun f ho hf => ?_⟩⟩, fun hs => ⟨fun hm => emit_checks hs (egressRing_emits he hm),
      fun hm hw hn => emit_checks hs (egressAtomicop_emits he hm hw hn)⟩⟩
    · obtain ⟨v, p, hv, hmem, hp, hx⟩ := egressAtomicop_leaves he hm hw hn hs
      rw [request_first (e := e.sent w) ho hf] at hx
      exact ⟨v, p, _, hv, hmem, hp, hx, rfl, rfl, rfl, rfl⟩
    · obtain ⟨v, p, hv, hmem, hp, hx⟩ := egressAtomicop_leaves he hm hw hn hs
      rw [request_second (e := e.sent w) ho hf] at hx
      exact ⟨v, p, _, hv, hmem, hp, hx, rfl, rfl, rfl, rfl⟩
  case completion =>
    refine fun p e a l old hp he ha => ⟨completion_fails hp he ha old, fun o j hn => ⟨fun hx hsome => ?_, fun x hx hst => ?_⟩,
      fun hn hb => gives_of_eq (completion_replies hp he ha old) (replyToken_early _ hn hb),
      fun hn hb => gives_of_eq (completion_replies hp he ha old) (replyToken_dropped _ hn hb)⟩
    · obtain ⟨x, ho⟩ := Option.ne_none_iff_exists'.1 hsome
      have hf : s.fedStruck (s.hostQueue (s.portalOf p k).rq.toNat) = false :=
        (fedStruck_of_struck hn ho).trans (beq_eq_false_iff_ne.2 (hx x ho))
      exact gives_of_eq (completion_replies hp he ha old) (replyToken_stream _ hn ((fedStruck_modEgress s id k _ _).trans hf))
    · have hf : s.fedStruck (s.hostQueue (s.portalOf p k).rq.toNat) = true :=
        (fedStruck_of_struck hn hx).trans (beq_iff_eq.2 hst)
      exact gives_of_eq (completion_replies hp he ha old) (replyToken_struck _ hn ((fedStruck_modEgress s id k _ _).trans hf))
  case topology =>
    have hsw (w : DWord) : exec (.registerWrite r c (.bar0 ⟨0x1008, 8⟩) w) s = .next ({ s with swtick := w } : State).autoSwitch :=
      gives_of_eq (bar0Write_exec rfl) (writeBar0_swtick s w)
    exact ⟨fun w => ⟨topoWrite_waits, topoWrite_switches⟩, gives_topologySwitch,
      fun w => ⟨fun hw => gives_of_eq (hsw w) (autoSwitch_waits hw), fun ha hw => gives_of_eq (hsw w) (autoSwitch_switches ha hw)⟩,
      fun ht => ⟨fun hw => gives_of_eq (tickEdge_counts ht) (autoSwitch_waits hw),
        fun ha hw => gives_of_eq (tickEdge_counts ht) (autoSwitch_switches ha hw)⟩,
      fun w hw ht hn => gives_of_eq (tickEdge_sets hw ht) (autoSwitch_waits hn)⟩
  case bar0 =>
    intro w
    have hput {off : Nat} (ha : off % 8 = 0 ∧ off < 0x800000) {t : State} (e : s.writeBar0 off 8 w = t) :
        Gives (.registerWrite r c (.bar0 ⟨off, 8⟩) w) s t := gives_of_eq (bar0Write_exec (by simp [bar0Access, ha])) e
    exact ⟨fun hl => gives_of_eq (bar0Write_exec rfl) ((writeBar0_modidx s w).trans (by rw [hl]; rfl)),
      fun hl => gives_of_eq (bar0Write_exec rfl) ((writeBar0_modidx s w).trans (by rw [if_pos hl])),
      gives_of_eq (bar0Write_exec rfl) (writeBar0_atomcap s w),
      fun n hn => ⟨hput (by omega) (writeBar0_entry0 s w hn), hput (by omega) (writeBar0_entry1 s w hn)⟩,
      fun n hn => ⟨hput (by omega) (writeBar0_portal0 s w hn), hput (by omega) (writeBar0_portal1 s w hn)⟩,
      fun off => bar0_unlisted w⟩
  case links =>
    exact ⟨gives_linkEvent rfl, fun trip hp hs => ⟨fun tick ht => calibration_keepsTick trip hp hs tick ht,
        calibration_alone trip hp hs, fun tick ht hm ha => calibration_setsTick trip hp hs tick ht hm ha⟩,
      gives_linkEvent rfl, gives_linkEvent rfl, gives_linkEvent rfl, gives_linkEvent rfl,
      fun hw hu hp hs => gives_speoshBeacon hw hu hp hs, fun hp hs => gives_retrainTimeout hp hs⟩
  case receive =>
    intro f hp hst hg i l got src u due old mine stale answered
    refine ⟨take_expect l f, fun a t hu hw hn => take_unacked hu hw hn, receive_early hp hst hg, fun hd ho => ?rejected,
      fun hd ho hm hk => ?forwarded, fun hd hb => ?beacon, fun hd ho hm => ?accepted⟩
    case rejected =>
      have hrej {v : State} (e : stale.rejected src f.pkt.dst f.pkt.body = v) : Gives i s v :=
        gives_of_eq (receive_old hp hst hg hd ho) e
      exact ⟨fun m x hb => hrej (by rw [hb]; rfl), fun x y b t v g pt hb => hrej (by rw [hb]; rfl),
        fun cfg m hb => hrej (by rw [hb]; rfl), fun cfg key hb =>
        ⟨fun h => hrej (rejected_elsewhere stale src f.pkt.dst hb h),
          fun o p hm h => hrej (rejected_here stale src f.pkt.dst hb hm h)⟩⟩
    case forwarded =>
      have hfw : Gives i s (u.forward f.pkt) := receive_forwards hp hst hg hd ho hm hk
      exact ⟨fun h => gives_of_eq hfw (forward_none h), fun o h => gives_of_eq hfw (forward_some h)⟩
    case beacon =>
      obtain ⟨tick, n, hb⟩ := hb
      have ho : ¬old := fun ho => by
        obtain ⟨hv, -⟩ := ho
        rw [hb] at hv
        exact Bool.false_ne_true hv
      exact gives_of_eq (receive_accepts hp hst hg hd ho (.inl (by rw [hb]; rfl))) (by rw [hb]; rfl)
    case accepted =>
      have hacc {body : PacketBody} (hb : f.pkt.body = body) {v : State} (e : u.accepted port src f.pkt.ver body = v) :
          Gives i s v := gives_of_eq (receive_accepts hp hst hg hd ho (.inr hm)) (by rw [hb]; exact e)
      refine ⟨fun m x hb => ⟨fun h => hacc hb (messageCame_noRank u h), fun h hc => hacc hb (messageCame_uncounted u h hc),
          fun h hc => hacc hb (messageCame_counted u h hc)⟩,
        fun x y b t v g pt hb => ⟨fun h => hacc hb (accepted_reply_none u port src _ h),
          fun m h hy => hacc hb (accepted_reply_answer u port src _ h hy),
          fun m h hy => hacc hb (accepted_reply_done u port src _ h hy)⟩,
        fun m d hb => ⟨fun h => hacc hb (accepted_nack_none u port src _ h), fun o h => hacc hb (accepted_nack_some u port src _ h)⟩,
        fun cfg key cause hb => ⟨fun h => hacc hb (planNacked_none u h), fun o p h => hacc hb (planNacked_some u h)⟩,
        fun cfg m to' hb => ⟨fun h => hacc hb (if_pos h), fun h => hacc hb (if_neg (by rw [h]; exact Bool.false_ne_true))⟩,
        fun cfg m hb => hacc hb rfl, fun cfg key firing hb => ?plan⟩
      obtain ⟨g, he⟩ := accepted_onPlan u port src f.pkt.ver hb
      refine ⟨fun h => hacc rfl (he.trans (onPlan_none h g)), fun o p h hu =>
        ⟨fun hl => hacc rfl (he.trans (onPlan_late h hu hl g)), fun hf hn ha => ⟨fun x y t d pt hb ht hr hs => ?_, fun t d pt hb ht => ?_⟩⟩⟩
      · subst ht
        obtain ⟨hmem, htile, p', hp', hc⟩ := partialCame_waits (src := src) (d := d) (pt := pt) h hu hf hn ha hr hs
        exact ⟨_, p', hacc hb rfl, hmem, htile, hp', hc⟩
      · subst ht
        obtain ⟨hmem, htile, p', hp', hc⟩ := deliveryCame_delivers (src := src) (d := d) (pt := pt) h hu hf hn ha
        exact ⟨_, p', hacc hb rfl, hmem, htile, hp', hc⟩
  case mesh =>
    exact fun dir n hr hn => ⟨gives_meshBeacon hr hn, fun hd => ⟨meshLinkTimeout_empty hr hn hd,
      fun p hp ha hl => ⟨meshLinkTimeout_crossed hr hn hd hp ha hl, meshLinkTimeout_free hr hn hd hp ha hl⟩,
      fun p o hp ha hl ho hc => meshLinkTimeout_plan hr hn hd hp ha hl ho hc⟩⟩
  case clocks =>
    exact ⟨fun hr hs hd => gives_of_eq (gives_routerTimeout hr hs hd) (tileFails_eq s r), fun hr hc =>
      ⟨gives_holdAsserted hr hc, gives_of_eq (gives_outOfTime hr hc) (tileFails_eq _ r),
        fun ⟨a, ha, hh⟩ => clockSourceLoss_held ha hh, fun hh => ⟨(clockSourceLoss_sources hr hc hh).1,
          fun hn => gives_of_eq ((clockSourceLoss_sources hr hc hh).2 hn) (tileFails_eq _ r)⟩⟩, gives_clockRealigned⟩

end Sys2Proof.Machine
end

section
/-! # Canonical stores: what the proofs about every step are made of -/

-- Checked one after another: side by side, the stacks of the threads pass the memory that the check allows.
set_option Elab.async false

namespace Sys2Proof.Machine

/-! ## Changes that touch no store -/

/-- Two tiles have the same stores and the same saved nodes. -/
def Tile.SameStores (t u : Tile) : Prop := u.z = t.z ∧ u.h = t.h ∧ u.saved = t.saved

theorem Tile.Canonical.same {t u : Tile} (h : t.Canonical) (hs : t.SameStores u) : u.Canonical := h.congr hs.1 hs.2.1 hs.2.2

theorem Tile.SameStores.trans {t u v : Tile} (h : t.SameStores u) (k : u.SameStores v) : t.SameStores v :=
  ⟨k.1.trans h.1, k.2.1.trans h.2.1, k.2.2.trans h.2.2⟩

/-- A tile with the same stores, whose saved nodes are some of those that there were. -/
theorem Tile.Canonical.fewer {t u : Tile} (h : t.Canonical) (hz : u.z = t.z) (hh : u.h = t.h) (hs : ∀ e ∈ u.saved, e ∈ t.saved) :
    u.Canonical := by
  unfold Tile.Canonical
  rw [hz, hh]
  exact ⟨h.1, fun e he => h.2 e (hs e he)⟩

/-- A change of every tile that keeps the form of its stores. -/
theorem tiles_map {l : List (Nat × Tile)} (h : ∀ e ∈ l, e.2.Canonical) {f : Nat × Tile → Tile}
    (hf : ∀ e, e.2.Canonical → (f e).Canonical) : ∀ e ∈ l.map fun e => (e.1, f e), e.2.Canonical := by
  intro e he
  obtain ⟨e', he', rfl⟩ := List.mem_map.1 he
  exact hf e' (h e' he')

/-- What the form of a state says, with the state's other fields out of sight. -/
theorem State.canonical_iff {s : State} : s.Canonical ↔ s.mem.wf = true ∧ ∀ e ∈ s.tiles, e.2.Canonical := Iff.rfl

namespace State.Canonical

variable {s : State} {r : Nat} {i : CtxId}

/-- A change of anything but the memory and the tiles. -/
theorem frame (h : s.Canonical) {t : State} (hm : t.mem = s.mem := by rfl) (ht : t.tiles = s.tiles := by rfl) : t.Canonical :=
  h.congr hm ht

/-- A change of a tile that leaves its stores alone. -/
theorem modTile (h : s.Canonical) {f : Tile → Tile} (hf : ∀ t : Tile, t.SameStores (f t) := by exact fun _ => ⟨rfl, rfl, rfl⟩) :
    (s.modTile r f).Canonical := s.modTile_canonical h r fun t ht => ht.same (hf t)

theorem modCtx (h : s.Canonical) {f : Ctx → Ctx} : (s.modCtx r i f).Canonical := s.modCtx_canonical h r i f

theorem foldl {α : Type} {f : State → α → State} (h : s.Canonical) (hf : ∀ {s} a, s.Canonical → (f s a).Canonical) (l : List α) :
    (l.foldl f s).Canonical := List.foldlRecOn l f h fun _ hs a _ => hf a hs

/-- The same for a fold that carries something beside the state. -/
theorem foldl_fst {α β : Type} {f : State × β → α → State × β} {b : β} (h : s.Canonical)
    (hf : ∀ e a, e.1.Canonical → (f e a).1.Canonical) (l : List α) : (l.foldl f (s, b)).1.Canonical :=
  List.foldlRecOn (motive := fun e => e.1.Canonical) l f h fun _ he a _ => hf _ a he

/-- The state is left alone where an option is empty. -/
theorem getD {o : Option State} (h : s.Canonical) (ho : ∀ t, o = some t → t.Canonical) : (o.getD s).Canonical := by
  cases o with
  | none => exact h
  | some t => exact ho t rfl

theorem modField (h : s.Canonical) {n : Nat} {f : Field → Field} : (s.modField n f).Canonical := h.frame

theorem post (h : s.Canonical) {e : Record} : (s.post r e).Canonical := h.frame

theorem modPitch (h : s.Canonical) {id : PitchId} {f : Pitch → Pitch} : (s.modPitch id f).Canonical := h.frame

theorem next (h : s.Canonical) {l : List Move} : (s.next l).Canonical := h.frame

theorem elapse (h : s.Canonical) {wd : Bool} : (s.elapse r i wd).Canonical :=
  modTile (h.frame : ({ s with free := s.free + 1 } : State).Canonical) fun t => by simp [Tile.SameStores]

theorem trap (h : s.Canonical) {c d : Byte} {v : DWord} {n : Nat} {idl : Bool} : (s.trap r i c d v n idl).Canonical := by
  simp only [State.trap]
  split
  · exact h.modCtx.post
  · split
    · exact h.modCtx.post
    · split
      · exact h.modCtx.post
      · exact h.modCtx

theorem trapHere (h : s.Canonical) {c d : Byte} {v : DWord} {n : Nat} : (s.trapHere c d v n).Canonical := h.elapse.trap

end State.Canonical

/-! ## What a group and an event answer -/

/-- The state that a group which does not commit leaves is in canonical form, where it carries one. -/
def Exit.Canonical : Exit → Prop
  | .trap .. => True
  | .trapIn s .. => s.Canonical
  | .wait s => s.Canonical
  | .idle s => s.Canonical

/-- A part of a group ends in canonical form, or comes to a value of which `P` is true. -/
def Ends {α : Type} (P : α → Prop) : Except Exit α → Prop
  | .error e => e.Canonical
  | .ok a => P a

/-- A body ends in canonical form. -/
def EndsIn (x : Except Exit Flow) : Prop := Ends (fun f => f.state.Canonical) x

/-- A step's answer, where it is a next state, is one in canonical form. -/
def Keeps (o : Out) : Prop := ∀ t, o = .next t → t.Canonical

theorem Ends.bind {α β : Type} {P : α → Prop} {Q : β → Prop} {x : Except Exit α} {f : α → Except Exit β} (hx : Ends P x)
    (hf : ∀ a, P a → Ends Q (f a)) : Ends Q (x >>= f) := by
  cases x with
  | error e => exact hx
  | ok a => exact hf a hx

theorem Ends.map {α β : Type} {P : α → Prop} {x : Except Exit α} {f : α → β} (hx : Ends P x) : Ends (fun _ => True) (f <$> x) := by
  cases x with
  | error e => exact hx
  | ok a => trivial

theorem Ends.mono {α : Type} {P Q : α → Prop} {x : Except Exit α} (hx : Ends P x) (h : ∀ a, P a → Q a) : Ends Q x := by
  cases x with
  | error e => exact hx
  | ok a => exact h a hx

/-! ### One rule for each way in which a body ends -/

theorem EndsIn.on {s : State} (h : s.Canonical) : EndsIn (.ok (.on s)) := h
theorem EndsIn.skip {s : State} (h : s.Canonical) {n : Nat} : EndsIn (.ok (.skip s n)) := h
theorem EndsIn.jump {s : State} (h : s.Canonical) {t : Half} : EndsIn (.ok (.jump s t)) := h
theorem EndsIn.leave {s : State} (h : s.Canonical) : EndsIn (.ok (.leave s)) := h
theorem EndsIn.wait {s : State} (h : s.Canonical) : EndsIn (.error (.wait s)) := h
theorem EndsIn.idle {s : State} (h : s.Canonical) : EndsIn (.error (.idle s)) := h
theorem EndsIn.trap {c d : Byte} {v : DWord} : EndsIn (.error (.trap c d v)) := trivial
theorem EndsIn.refuse {s : State} : EndsIn (.error s.refuse) := trivial

theorem Keeps.next {s : State} (h : s.Canonical) : Keeps (.next s) := fun _ e => by cases e; exact h

variable {s : State}

theorem keeps_event (h : s.Canonical) {g : Bool} {f : State → State} (hf : (f s).Canonical) : Keeps (event s g f) := by
  cases g
  · exact .next h
  · exact .next hf

/-- The same for an effect that needs the event's condition. -/
theorem keeps_event_of (h : s.Canonical) {g : Bool} {f : State → State} (hf : g = true → (f s).Canonical) : Keeps (event s g f) := by
  cases g
  · exact .next h
  · exact .next (hf rfl)

theorem State.Canonical.leaveGroup (h : s.Canonical) {e : Exit} (he : e.Canonical) : (s.leaveGroup e).Canonical := by
  cases e with
  | trap => exact h.trapHere
  | trapIn => exact State.Canonical.elapse he |>.trap
  | wait => exact (State.Canonical.modCtx he).elapse
  | idle => exact (State.Canonical.modCtx he).elapse

theorem commitGroup_canonical {f : Flow} (hf : f.state.Canonical) (r : Nat) (i : CtxId) (n : Nat) (wd : Bool) :
    (commitGroup r i n wd f).Canonical := by
  cases f <;> exact State.Canonical.elapse (State.Canonical.modCtx hf)

theorem State.Canonical.recheck (h : s.Canonical) {f : Flow} (hf : f.state.Canonical) : (s.recheck f).Canonical := by
  unfold State.recheck
  split
  · exact commitGroup_canonical hf ..
  · exact (commitGroup_canonical hf ..).modTile
  · exact h.modTile.leaveGroup (e := .trap ..) trivial

theorem groupDefect_canonical {tie : Tie} {priv : Bool} {e : Exit} (he : s.groupDefect tie priv = some e) : e.Canonical := by
  unfold State.groupDefect at he
  split at he
  · cases he; trivial
  · split at he
    · cases he; trivial
    · split at he <;> cases he; trivial

/-- A group whose body ends in canonical form keeps it. -/
theorem keeps_runGroup (h : s.Canonical) {tie : Tie} {priv : Bool} {body : Body} (hb : EndsIn (body s)) :
    Keeps (runGroup tie priv body s) := by
  unfold runGroup
  split
  case h_1 e he => exact .next (h.leaveGroup (groupDefect_canonical he))
  case h_2 =>
    split
    case h_1 e he => rw [he] at hb; exact .next (h.leaveGroup hb)
    case h_2 f hf =>
      rw [hf] at hb
      split
      · exact .next (commitGroup_canonical hb ..)
      · exact .next (h.recheck hb)

theorem keeps_plain (h : s.Canonical) {f : Ctx → Ctx} : Keeps (plain f s) := keeps_runGroup h h.modCtx

/-! ## Links and plans -/

namespace State.Canonical

variable {r : Nat} {i : CtxId} {id : PitchId}

theorem sendPacket (h : s.Canonical) {m : Nat} {b : PacketBody} : (s.sendPacket m b).Canonical := by
  unfold State.sendPacket
  split
  · exact h
  · exact h.frame

theorem tellOthers (h : s.Canonical) {q : Plan} {m : PlanMsg} : (s.tellOthers id q m).Canonical :=
  h.foldl (fun _ h => h.sendPacket) _

theorem failPlan (h : s.Canonical) {q : Plan} {c : BitVec 3} : (s.failPlan id q c).Canonical := by
  unfold State.failPlan
  split
  · exact h
  · exact h.modPitch.tellOthers

theorem failPlans (h : s.Canonical) {pick : Plan → Bool} {c : BitVec 3} : (s.failPlans id pick c).Canonical := by
  unfold State.failPlans
  split
  · exact h
  · exact h.foldl (fun _ h => h.failPlan) _

theorem failPlansOf (h : s.Canonical) {c : BitVec 3} : (s.failPlansOf r c).Canonical := by
  unfold State.failPlansOf
  split
  · exact h
  · exact h.failPlans

theorem unask (h : s.Canonical) {q : Plan} : (s.unask id q).Canonical := h.modPitch.tellOthers

theorem leaveColfr (h : s.Canonical) {q : Plan} {who : Nat × CtxId} : (s.leaveColfr id q who).Canonical := by
  simp only [State.leaveColfr]
  split
  · exact h
  · split
    · exact h.modPitch.unask
    · exact h.frame

theorem leaveTrig (h : s.Canonical) {q : Plan} : (s.leaveTrig id q r i).Canonical := by
  unfold State.leaveTrig
  split
  · exact h.modPitch.tellOthers
  · exact h

theorem closeColset (h : s.Canonical) {q : ColsetReq} : (s.closeColset id q).Canonical :=
  h.modPitch.foldl (fun _ h => h.sendPacket) _

theorem withdrawPlan (h : s.Canonical) : (s.withdrawPlan r i).Canonical := by
  unfold State.withdrawPlan
  split
  · exact h
  · exact (h.foldl (fun _ h => h.leaveTrig.leaveColfr) _).foldl (fun _ h => h.closeColset) _

end State.Canonical

/-! ## What an access meets at a fly -/

namespace State.Canonical

variable {r : Nat} {i : CtxId} {id : PitchId}

theorem meetGranule (h : s.Canonical) {w : Bool} {m : Mem} (hm : m.wf = true) {g : Nat} :
    (s.meetGranule r w m g).1.Canonical ∧ (s.meetGranule r w m g).2.wf = true := by
  constructor
  · simp only [State.meetGranule, canonical_iff]
    exact h.modTile
  · simp only [State.meetGranule, Mem.wf_putBytes, hm]

theorem meetFly (h : s.Canonical) {k n : Nat} {w : Bool} : (s.meetFly k n w).1.Canonical ∧ (s.meetFly k n w).2.wf = true := by
  unfold State.meetFly
  extract_lets r
  split
  · exact ⟨h, h.1⟩
  · exact List.foldlRecOn (motive := fun e : State × Mem => e.1.Canonical ∧ e.2.wf = true) _ _ ⟨h, h.1⟩ fun e he g _ => he.1.meetGranule he.2

theorem readSeen (h : s.Canonical) {k n : Nat} : (s.readSeen k n).1.Canonical := h.meetFly.1

theorem writeSeen (h : s.Canonical) {k n : Nat} : (s.writeSeen k n).Canonical := by
  unfold State.writeSeen
  split
  · exact h
  · extract_lets e
    obtain ⟨h1, h2⟩ : e.1.Canonical ∧ e.2.wf = true := h.meetFly
    simp only [canonical_iff]
    exact ⟨h2, (modTile h1).2⟩

/-! ## Translations, records and logical times -/

theorem walkRead (h : s.Canonical) {root : Nat} {homes : List Word} {va : Nat} : (s.walkRead root homes va).Canonical := by
  unfold State.walkRead
  split
  · exact h.foldl (fun _ h => h.readSeen) _
  · exact h

theorem targetRead (h : s.Canonical) {u : Purpose} {ea : DWord} : (s.targetRead r u ea).Canonical := by
  unfold State.targetRead
  split
  · exact h
  · exact h.getD fun t ht => by
      obtain ⟨va, -, rfl⟩ := Option.map_eq_some_iff.1 ht
      exact h.walkRead

theorem store (h : s.Canonical) {w k n : Nat} {v : BitVec w} {l : List Nat} : (s.store k n v l).Canonical :=
  ⟨Mem.wf_write _ _ _ _ h.1, h.2⟩

theorem storeMasked (h : s.Canonical) {w k n m : Nat} {v : BitVec w} {l : List Nat} : (s.storeMasked k n v m l).Canonical := by
  unfold State.storeMasked
  split
  · exact h.store
  · exact ⟨Mem.wf_writeMasked _ _ _ _ _ h.1, h.2⟩

theorem stampRead (h : s.Canonical) {k : Nat} {pts len : DWord} : (s.stampRead r k pts len).1.Canonical := by
  simp only [State.stampRead]
  split
  · split
    · exact h
    · exact h.modTile
  · exact h.modTile

theorem stampWrite (h : s.Canonical) {k : Nat} {pts : DWord} : (s.stampWrite r k pts).1.Canonical := by
  simp only [State.stampWrite]
  split
  · split
    · exact h
    · exact h.modTile
  · exact h.modTile

/-! ## Messages and what is taken back -/

theorem countDone (h : s.Canonical) {src : Sender} : (s.countDone r src).Canonical := by
  simp only [State.countDone]
  split <;> split <;> exact h.modTile

theorem arrive (h : s.Canonical) {m : Msg} : (s.modTile r fun t => t.arrive m).Canonical := modTile h fun t => t.arrive_stores m

theorem sendReq (h : s.Canonical) {q : Req} : (s.sendReq r q).Canonical :=
  modTile (arrive (h.frame : ({ s with reqs := s.reqs + 1 } : State).Canonical))

theorem takeBack (h : s.Canonical) {home : Nat} {mine : Msg → Bool} : (s.takeBack home r mine).Canonical := h.modTile.modTile

theorem withdrawMessage (h : s.Canonical) : (s.withdrawMessage r i).Canonical := by
  unfold State.withdrawMessage
  split
  · exact h.takeBack.modCtx
  · exact h

theorem withdraw (h : s.Canonical) : (s.withdraw r i).Canonical := by
  simp only [State.withdraw]
  have h' : ((s.withdrawPlan r i).withdrawMessage r i).Canonical := h.withdrawPlan.withdrawMessage
  split
  · split
    · exact h'.takeBack.modCtx
    · exact h'
  · exact h'

/-! ## Reading and writing -/

theorem failPort (h : s.Canonical) {k : Nat} {who : Nat × Option CtxId} : (s.failPort r k who).Canonical := h.modTile.modField

theorem advanceRead (h : s.Canonical) {x : Xact} (ps : List Piece) : (s.advanceRead r i x ps).1.Canonical := by
  induction ps generalizing s x with
  | nil => exact h
  | cons p ps ih =>
    simp only [State.advanceRead]
    split
    case h_1 =>
      split
      · exact h
      · split
        · exact h.failPort
        · split
          · exact h.readSeen
          · exact ih h.readSeen.stampRead.modCtx
    case h_2 =>
      split
      · split
        · exact h
        · exact ih h.modCtx
      · exact h.sendReq

theorem flyMet (h : s.Canonical) {met : State} : (s.flyMet met r).Canonical := by
  simp only [State.flyMet, canonical_iff]
  exact h.modTile

theorem performWrite (h : s.Canonical) {home k n m : Nat} {d : BitVec 128} {pts : Time} {who : Nat × Option CtxId} :
    (s.performWrite home k n d pts who m).1.Canonical := by
  simp only [State.performWrite]
  split
  · exact h.frame
  · split
    · exact h.failPort
    · have hw := (h.stampWrite (r := home) (k := k) (pts := pts.time)).storeMasked (k := k) (n := n) (v := d) (m := m)
        (l := pts.known) |>.writeSeen (k := k) (n := n)
      split
      · exact ⟨h.1, hw.2⟩
      · exact hw

theorem advanceStore (h : s.Canonical) (ps : List StorePiece) : (s.advanceStore r i ps).Canonical := by
  induction ps generalizing s with
  | nil => exact h.modCtx
  | cons p ps ih =>
    simp only [State.advanceStore]
    split
    · split
      · exact h.modCtx
      · exact ih h.performWrite.modCtx
    · exact h.sendReq.modCtx

theorem readEach (h : s.Canonical) {blame : Nat → Byte → Exit} (hb : ∀ n c, (blame n c).Canonical) (ps : List Piece) :
    Ends (fun e => e.1.Canonical) (s.readEach blame ps) := by
  unfold State.readEach
  extract_lets r i x y
  have hy : y.1.Canonical := by
    dsimp only [y]
    split
    · exact h
    · exact h.advanceRead _
  split
  · exact h
  · split
    case h_1 code _ =>
      have he := hb y.2.done.length code
      split
      · split
        · trivial
        · exact h.flyMet
      · exact he
    case h_2 => split <;> exact hy.modCtx

theorem readPieces (h : s.Canonical) {ea : DWord} (ps : List Piece) : Ends (fun e => e.1.Canonical) (s.readPieces ea ps) :=
  h.readEach (blame := fun _ code => .trap code 0 ea) (fun _ _ => trivial) ps

theorem writePieces (h : s.Canonical) (ps : List StorePiece) : Ends State.Canonical (s.writePieces ps) := by
  unfold State.writePieces
  split
  · exact h
  · exact h.advanceStore ps

theorem targetAt (h : s.Canonical) {u : Purpose} {ea ea' : DWord} {n : Nat} : Ends (fun _ => True) (s.targetAt u ea ea' n) := by
  unfold State.targetAt
  split
  · split
    · exact h
    · trivial
  · split
    · exact h
    · split
      · exact h.targetRead
      · trivial

theorem target (h : s.Canonical) {u : Purpose} {ea : DWord} {n : Nat} : Ends (fun _ => True) (s.target u ea n) := h.targetAt

theorem load (h : s.Canonical) {ea : DWord} {n : Nat} : Ends (fun e => e.1.Canonical) (s.load ea n) :=
  h.target.bind fun _ _ => (h.readPieces _).bind fun _ he => he

theorem storeTo (h : s.Canonical) {ea : DWord} {n : Nat} {d : BitVec 128} : Ends State.Canonical (s.storeTo ea n d) :=
  h.target.bind fun _ _ => h.writePieces _

theorem scratchOffset {o a n : Nat} : Ends (fun _ => True) (s.scratchOffset o a n) := by
  unfold State.scratchOffset
  split
  · trivial
  · split
    · trivial
    · split <;> trivial

end State.Canonical

end Sys2Proof.Machine
end


section
/-! # Canonical stores: atomics, homes, turns, handlers -/

-- Checked one after another: side by side, the stacks of the threads pass the memory that the check allows.
set_option Elab.async false

namespace Sys2Proof.Machine

/-! ## Changes of a tile that no store is part of -/

theorem Tile.leaveInbox_stores (t : Tile) (n : Nat) : t.SameStores (t.leaveInbox n) := by
  simp only [Tile.leaveInbox]
  split
  · split <;> exact ⟨rfl, rfl, rfl⟩
  · exact ⟨rfl, rfl, rfl⟩

theorem Tile.startSlot_stores (t : Tile) (k : CoreId) (n : Nat) : t.SameStores (t.startSlot k n) := by
  simp only [Tile.startSlot]
  split <;> simp [Tile.SameStores]

namespace State.Canonical

variable {s : State} {r : Nat} {i : CtxId} {id : PitchId}

/-! ## Atomics and homes -/

theorem countSkip (h : s.Canonical) {b : Bool} : (s.countSkip b).Canonical := by
  unfold State.countSkip
  split
  · exact h.modTile
  · exact h

theorem unchecked (h : s.Canonical) {b : Bool} : (s.unchecked b).Canonical := by
  unfold State.unchecked
  split
  · exact h.frame
  · exact h

theorem performAtomic (h : s.Canonical) {home k n : Nat} {q : ReqKind} {v c : DWord} {pts : Time} {who : Nat × Option CtxId} :
    (s.performAtomic home k n q v c pts who).1.Canonical := by
  unfold State.performAtomic
  extract_lets e u old known st
  have hu : u.Canonical := h.readSeen
  split
  · exact h.failPort
  · split
    · exact hu
    · split
      · exact hu.performWrite
      · exact hu.stampRead

theorem postFromHome (h : s.Canonical) {c : Byte} {src : Sender} {k : Nat} : (s.postFromHome r c src k).Canonical := h.modField

theorem atomicResult (h : s.Canonical) {ea : DWord} {put : Ctx → DWord → Ctx} {x : Xact} : EndsIn (atomicResult ea put x s) := by
  unfold Machine.atomicResult
  split
  · trivial
  · exact .wait h
  · exact .on h.modCtx

theorem atomicIssue (h : s.Canonical) {ea : DWord} {t : Target} {n : Nat} {k : ReqKind} {v c : DWord} {b : Bool}
    {put : Ctx → DWord → Ctx} : EndsIn (atomicIssue ea t n k v c b put s) := by
  unfold Machine.atomicIssue
  extract_lets r i a
  have ha : a.1.Canonical := h.performAtomic
  split
  · exact .wait h
  · split
    · split
      · split
        · refine .on ?_
          split
          · exact ha
          · exact ha.postFromHome
        · split
          · trivial
          · exact h.flyMet
      · exact .on ha.modCtx
    · extract_lets s'
      have hs : s'.Canonical := h.sendReq
      split
      · exact .on hs.modCtx
      · exact .wait hs.modCtx

theorem atomicOn (h : s.Canonical) {sc : Scope} {ea : DWord} {n : Nat} {k : Nat → ReqKind} {v c : DWord} {b : Bool}
    {put : Ctx → DWord → Ctx} : EndsIn (atomicOn sc ea n k v c b put s) := by
  unfold Machine.atomicOn
  split
  · exact h.atomicResult
  · refine h.target.bind fun t _ => ?_
    split
    · trivial
    · exact h.atomicIssue

theorem takeMsg (h : s.Canonical) {n : Nat} {src : Sender} : (s.takeMsg r n src).Canonical := by
  exact (h.modTile fun t => t.leaveInbox_stores n).countDone

theorem respond (h : s.Canonical) {q : Req} {p : Resp} : (s.respond q p).Canonical := h.modTile

theorem failAtPort (h : s.Canonical) {q : Req} : (s.failAtPort r q).Canonical := h.modTile.postFromHome.respond

theorem serveRead (h : s.Canonical) {q : Req} : (serveRead r s q).Canonical := by
  unfold Machine.serveRead
  extract_lets e u st
  have hu : u.Canonical := h.readSeen
  split
  · exact hu.respond
  · exact hu.stampRead.respond

theorem serveWrite (h : s.Canonical) {q : Req} : (serveWrite r s q).Canonical := h.performWrite.respond

theorem serveAtomic (h : s.Canonical) {q : Req} : (serveAtomic r s q).Canonical := by
  unfold Machine.serveAtomic
  extract_lets a
  have ha : a.1.Canonical := h.performAtomic
  split
  · exact ha.respond
  · split
    · exact ha.postFromHome.respond
    · exact ha.respond

theorem serveLine (h : s.Canonical) {q : Req} : (serveLine r s q).Canonical := by
  unfold Machine.serveLine
  extract_lets e u st
  have hu : u.Canonical := h.readSeen
  split
  · exact hu.serveRead
  · exact hu.stampRead.respond

theorem takeResult (h : s.Canonical) {p : Resp} : (s.modTile r fun t => t.takeResult p).Canonical := by
  refine h.modTile fun t => ?_
  simp only [Tile.takeResult]
  split
  · exact ⟨rfl, rfl, rfl⟩
  · split
    · exact ⟨rfl, rfl, rfl⟩
    · split
      · simp [Tile.SameStores]
      · split
        · simp [Tile.SameStores]
        · split <;> simp [Tile.SameStores]

/-! ## Turns -/

theorem reported (h : s.Canonical) : s.reported.Canonical := by
  unfold State.reported
  split
  · exact h.modTile
  · exact h.modCtx

theorem idleTurn (h : s.Canonical) : Keeps s.idleTurn := by
  unfold State.idleTurn
  extract_lets u
  have hu : u.Canonical := h.elapse
  split
  · refine .next ?_
    split
    · exact hu
    · exact hu.modCtx.trap
  · exact .next hu

/-! ## Handlers -/

theorem settle (h : s.Canonical) {k : CoreId} : (s.settle r k).Canonical :=
  h.modTile fun t => by simp [Tile.settle, Tile.SameStores]

theorem answerMsg (h : s.Canonical) {m : UserMsg} {w : Word} {t : Time} : (s.answerMsg m w t).Canonical := by
  unfold State.answerMsg
  split
  · split
    · exact h.modTile
    · exact h.modCtx
  · exact h.sendPacket

theorem nackUser (h : s.Canonical) {m : UserMsg} {d : Byte} : (s.nackUser m d).Canonical := by
  unfold State.nackUser
  split
  · exact h.modTile
  · exact h.sendPacket

theorem endMessage (h : s.Canonical) {w : Word} : (s.endMessage r w).Canonical := by
  unfold State.endMessage
  extract_lets t
  split
  · exact h.modCtx
  · refine (countDone ?_).modTile
    split
    · exact h
    · exact h.answerMsg

theorem endFiring (h : s.Canonical) {k : CoreId} {x : Run} : (s.modTile r fun t => t.endFiring k x).Canonical :=
  h.modTile fun t => by simp [Tile.endFiring, Tile.SameStores]

theorem deliver (h : s.Canonical) {w : Token} {e : End} : (s.deliver id w e).Canonical := by
  unfold State.deliver
  split
  · split
    · exact h.modTile
    · exact (h.modTile fun t => by simp [Tile.SameStores]).settle
  · exact h.modPitch

theorem deliverAll (h : s.Canonical) {w : Token} {l : List End} : (s.deliverAll id w l).Canonical := h.foldl (fun _ h => h.deliver) _

theorem modQueue (h : s.Canonical) {q : Nat} {f : HostQueue → HostQueue} : (s.modQueue q f).Canonical := h.frame

theorem transferPort (h : s.Canonical) {k : CoreId} {o : OReg} : (s.transferPort r k o).Canonical := by
  unfold State.transferPort
  extract_lets t
  split
  · split
    · split
      · exact (h.modTile fun t => by simp [Tile.SameStores]).deliverAll.settle
      · exact h
    · exact h
  · exact h

theorem leaveEdge (h : s.Canonical) {e : Option Nat × Token} : (s.leaveEdge e).Canonical := by
  unfold State.leaveEdge
  split
  · exact h
  · exact h.modQueue

theorem transferIngress (h : s.Canonical) {k : Nat} : (s.transferIngress id k).Canonical := by
  unfold State.transferIngress
  split
  · exact h
  · split
    · exact h
    · split
      · extract_lets w rest
        split
        · exact h.modPitch.leaveEdge
        · split
          · exact (modPitch (h.frame : ({ s with events := s.events + 1 } : State).Canonical)).leaveEdge.deliverAll
          · exact h
      · exact h

end State.Canonical

variable {s : State} (h : s.Canonical)
include h

theorem keeps_serve {r n : Nat} {accept : ReqKind → Bool} {f : State → Req → State}
    (hf : ∀ {s : State} {q : Req}, s.Canonical → (f s q).Canonical) : Keeps (serve r n accept f s) := by
  unfold serve
  split
  · refine keeps_event h ?_
    extract_lets s'
    have hs : s'.Canonical := h.takeMsg
    split
    · exact hs.respond
    · split
      · exact hs.failAtPort
      · exact hf hs
  · exact .next h

theorem keeps_amo {op : Nat} {sc : Scope} {d : GReg} {x : AReg} {y : GReg} : Keeps (amo op sc d x y s) := keeps_runGroup h h.atomicOn

theorem keeps_memoryResponse {r : Nat} {i : CtxId} {n : Nat} : Keeps (execMemoryResponse r i n s) := by
  unfold execMemoryResponse
  split
  · exact .next h
  · refine keeps_event h ?_
    extract_lets u x v
    have hu : u.Canonical := h.modTile
    have hv : v.Canonical := hu.takeResult
    split
    · exact hu.modCtx
    · split
      · split
        · exact hu.modCtx.advanceStore _
        · exact hv
      · split
        · exact hv.next
        · exact hv

theorem keeps_handlerDispatch {r : Nat} {k : CoreId} : Keeps (execHandlerDispatch r k s) := by
  unfold execHandlerDispatch
  extract_lets u t
  have hu : u.Canonical := h.settle
  split
  · exact keeps_event hu (hu.modTile fun t => t.startSlot_stores _ _)
  · exact .next hu

theorem keeps_hend : Keeps (execHend s) := by
  refine keeps_runGroup h ?_
  split
  · exact .refuse
  · split
    · split
      · exact .leave h.endMessage
      · exact .wait h
    · exact .leave h.endFiring.settle
    · exact .leave h.endFiring.settle

theorem keeps_halt : Keeps (execHalt s) := by
  refine keeps_runGroup h ?_
  split
  · exact .refuse
  · split
    · exact .refuse
    · split
      · exact .leave h.endFiring
      · exact .idle h
    · split
      · exact .leave h.endFiring
      · exact .idle h

theorem keeps_handlerWatchdog {r : Nat} {i : CtxId} : Keeps (execHandlerWatchdog r i s) := by
  unfold execHandlerWatchdog
  exact keeps_event h h.withdraw.modCtx.trap

theorem keeps_waitAtKResume {r : Nat} {i : CtxId} : Keeps (execWaitAtKResume r i s) := keeps_event h h.next

theorem keeps_illegalInstruction {k d : Byte} {v : DWord} {n : Nat} : Keeps (execIllegalInstruction k d v n s) := .next h.trapHere

theorem keeps_channelWordTransfer {w : Staged} : Keeps (execChannelWordTransfer w s) := by
  unfold execChannelWordTransfer
  split
  · exact .next h.transferPort
  · exact .next h.transferIngress

end Sys2Proof.Machine
end


section
/-! # Canonical stores: semaphores, barriers, the matrix unit -/

-- Checked one after another: side by side, the stacks of the threads pass the memory that the check allows.
set_option Elab.async false

namespace Sys2Proof.Machine

namespace State.Canonical

variable {s : State} {r : Nat} {i : CtxId} {id : PitchId}

/-! ## Operands and issue -/

theorem pagesAt (h : s.Canonical) {ptr : DWord} {d : Byte} {va n : Nat} {st own : Bool} :
    Ends (fun _ => True) (s.pagesAt r ptr d va n st own) := by
  unfold State.pagesAt
  split
  · trivial
  · extract_lets walks leaves at' fails
    have hf (k : Byte) : (fails k).Canonical := by
      unfold fails
      split
      · exact h.foldl (fun _ h => h.walkRead) _
      · trivial
    split
    · exact h
    · split
      · exact hf _
      · split
        · exact hf _
        · split
          · trivial
          · split
            · trivial
            · split <;> trivial

theorem matOperand (h : s.Canonical) {d : Byte} {acc : Accepts} {a n : Nat} {ptr : DWord} :
    Ends (fun _ => True) (s.matOperand d acc a ptr n) := by
  unfold State.matOperand
  extract_lets r bad
  split
  · trivial
  · split
    · trivial
    · split
      · trivial
      · split
        · split
          · trivial
          · split <;> trivial
        · split <;> trivial
        · exact Ends.map h.pagesAt
        · split
          · trivial
          · split
            · trivial
            · exact Ends.map h.pagesAt
        · trivial

theorem enqueue (h : s.Canonical) {k : MatCmd} : (s.enqueue r k).Canonical := h.modTile

theorem matIssue (h : s.Canonical) : s.matIssue.Canonical := h.modTile

theorem numbered (h : s.Canonical) {b : Bool} : (s.numbered b).Canonical := by
  unfold State.numbered
  split
  · exact modCtx (h.frame : ({ s with events := s.events + 1 } : State).Canonical)
  · exact h

/-! ## Reading, writing and ending a command -/

theorem keysSeen (h : s.Canonical) {l : List Nat} : (s.keysSeen l).1.Canonical := by
  refine h.foldl_fst (fun e a he => ?_) _
  exact he.readSeen

theorem matStamp (h : s.Canonical) {l : List (List Nat)} : (s.matStamp r l).Canonical := h.foldl (fun _ h => h.stampRead.modTile) _

theorem writeShadow (h : s.Canonical) {k o : Nat} {l : List Byte} {pts : DWord} : (s.writeShadow r k o l pts).1.Canonical := by
  refine h.foldl_fst (fun e a he => ?_) _
  extract_lets piece
  split
  · exact he
  · exact he.performWrite.modPitch

theorem sendArrival (h : s.Canonical) {q : Nat} {b : BReg} {w : Word} {t : Time} : (s.sendArrival r i q b w t).Canonical := h.sendReq

theorem gangArrive (h : s.Canonical) {k : MatCmd} {b : Bool} : (s.gangArrive r k b).Canonical := h.foldl (fun _ h => h.sendArrival) _

theorem matDone (h : s.Canonical) {k : MatCmd} : (s.matDone r k).Canonical := h.modTile.gangArrive

theorem modGang (h : s.Canonical) {k : MatCmd} {f : MatCmd → MatCmd} : (s.modGang r k f).Canonical := by
  refine h.foldl (fun q h => ?_) _
  split
  · exact h
  · exact h.modTile

theorem matDiscard (h : s.Canonical) {b : Byte} {k : MatCmd} : (s.matDiscard r b k).Canonical := by
  unfold State.matDiscard
  refine gangArrive ?_
  split
  · exact h.modGang
  · exact h

theorem matAbort (h : s.Canonical) {b : Byte} : (s.matAbort r b).Canonical := by
  unfold State.matAbort
  split
  · exact h
  · refine foldl (s.modTile_canonical h r fun t ht => ?_) (fun _ h => h.matDiscard) _
    split
    · exact ht.same ⟨rfl, rfl, rfl⟩
    · exact (Tile.fillCells_canonical ht ..).same ⟨rfl, rfl, rfl⟩

theorem matFatal (h : s.Canonical) {b : Byte} {v : DWord} : (s.matFatal r b v).Canonical := h.matAbort.post

theorem modMatHead (h : s.Canonical) {f : MatCmd → MatCmd} : (s.modMatHead r f).Canonical := h.modTile

/-! ## MATRIX_COMMAND_COMPLETE -/

theorem runMma (h : s.Canonical) {k : MatCmd} : (s.runMma r k).Canonical := by
  unfold State.runMma
  split
  · exact h.matAbort
  · exact h.matAbort
  · extract_lets own e u seen ends
    have hu : u.Canonical := h.keysSeen
    split
    · exact h
    · split
      · exact hu.matFatal
      · exact hu.matFatal
      · split
        · exact hu
        · extract_lets rows v w x
          have hw : w.Canonical := (modGang hu.matStamp).frame
          refine matDone (w.modTile_canonical hw r fun t ht => ?_)
          exact (Tile.fillCells_canonical ht ..).same ⟨rfl, rfl, rfl⟩

theorem mstPiece (h : s.Canonical) {k : MatCmd} {m : MstKind} {n : Nat} : (s.mstPiece r k m n).Canonical := by
  unfold State.mstPiece
  extract_lets
  split
  · exact h.store.modMatHead
  · split
    · exact h
    · exact h.writeShadow.modTile.modMatHead
  · exact h

theorem mstPieces (h : s.Canonical) {k : MatCmd} {m : MstKind} {n l : Nat} : (s.mstPieces r k m n l).Canonical := by
  induction l generalizing s n with
  | zero => exact h
  | succ l ih =>
    unfold State.mstPieces
    extract_lets u
    have hu : u.Canonical := h.mstPiece
    split
    · exact ih hu
    · exact hu

theorem runMst (h : s.Canonical) {k : MatCmd} {m : MstKind} : (s.runMst r k m).Canonical := by
  unfold State.runMst
  extract_lets u
  have hu : u.Canonical := h.mstPieces
  split
  · exact hu.matDone
  · exact hu

theorem runMld (h : s.Canonical) {k : MatCmd} {m : MldKind} : (s.runMld r k m).Canonical := by
  unfold State.runMld
  extract_lets n keys e u rows stamped v w
  have hu : u.Canonical := h.keysSeen
  have hv : v.Canonical := frame hu.matStamp
  have hw : w.Canonical := v.modTile_canonical hv r fun t ht => Tile.fillCells_canonical ht ..
  split
  · exact h
  · split
    · exact hu.matFatal
    · exact hw.matDone

theorem matPiece (h : s.Canonical) {n : Nat} : (s.matPiece r n).Canonical := by
  unfold State.matPiece
  extract_lets t
  split
  · exact h
  · split
    · exact h
    · split
      · split
        · exact h.mstPiece
        · exact h
      · exact h
      · extract_lets e u
        have hu : u.Canonical := h.keysSeen
        split
        · exact h
        · split
          · exact hu.matFatal
          · exact hu.modMatHead

theorem chunkMismatch (h : s.Canonical) {n : Nat} : (s.chunkMismatch r n).Canonical := by
  unfold State.chunkMismatch
  split
  · exact h
  · split
    · exact h
    · extract_lets u
      have hu : u.Canonical := h.modTile
      split
      · exact hu
      · exact hu.matFatal

end State.Canonical

theorem Tile.zeroCells_canonical {t : Tile} (h : t.Canonical) (m : Nat) : (t.zeroCells m).Canonical := by
  refine List.foldlRecOn (motive := Tile.Canonical) _ _ h fun t ht j _ => ?_
  split
  · exact Tile.fillCells_canonical ht ..
  · exact ht

variable {s : State} (h : s.Canonical)
include h

/-! ## Semaphores and barriers -/

theorem keeps_semw {n : BitVec 3} {m : SemReg} : Keeps (execSemw n m s) := by
  refine keeps_runGroup h ?_
  extract_lets
  split
  · exact .wait h
  · exact .on (State.Canonical.modTile h).modCtx

theorem keeps_sems {n : BitVec 3} {m : SemReg} : Keeps (execSems n m s) := by
  refine keeps_runGroup h ?_
  split
  · exact .wait h
  · split
    · exact .trap
    · exact .on h.modTile

theorem keeps_semt {d : GReg} {m : SemReg} : Keeps (execSemt d m s) := by
  refine keeps_runGroup h ?_
  extract_lets
  split
  · exact .on h.modCtx
  · exact .on (State.Canonical.modTile h).modCtx

theorem keeps_bara {d : BReg} {x : GReg} : Keeps (execBara d x s) := by
  refine keeps_runGroup h ?_
  extract_lets
  split
  · exact .refuse
  · split
    · exact .refuse
    · split
      · exact .wait h
      · split
        · exact .on h.sendArrival
        · exact .on h.modTile

theorem keeps_barw {d : GReg} {x : BReg} : Keeps (execBarw d x s) := by
  refine keeps_runGroup h ?_
  extract_lets
  split
  · exact .refuse
  · split
    · exact .wait h
    · exact .on h.modCtx

theorem keeps_bars {k : Scope} {d : BReg} {x : GReg} : Keeps (execBars k d x s) := by
  refine keeps_runGroup h ?_
  extract_lets
  split
  · exact .refuse
  · exact .on h.modTile

/-- A group that only waits for a condition. -/
theorem endsIn_until {p : Prop} [Decidable p] : EndsIn (if p then .error (.wait s) else .ok (.on s)) := by
  split
  · exact .wait h
  · exact .on h

/-! ## Matrix instructions -/

theorem keeps_issueMma {g : Bool} {z : ZReg} {x y : AReg} {a b k : Bool} : Keeps (issueMma g z x y a b k s) := by
  refine keeps_runGroup h ?_
  extract_lets c f w reads aExt bExt ranks v u withA go
  have hu : u.Canonical := State.Canonical.frame h.matIssue
  have hA (p) : EndsIn (withA p) := by
    unfold withA
    extract_lets withB
    have hB (q) : EndsIn (withB q) := by
      unfold withB
      extract_lets
      split
      · exact .wait h
      · exact .on (hu.foldl (fun _ h => h.enqueue) _)
    split
    · exact h.matOperand.bind fun _ _ => hB _
    · exact hB _
  split
  · exact .trap
  · show EndsIn (go ())
    unfold go
    split
    · exact h.matOperand.bind fun _ _ => hA _
    · exact hA _

theorem keeps_issueMove {op : MatOp} {n : Nat} {bad : Word → Bool} {acc : Accepts} {d : GReg} {x : AReg} {imm : BitVec 64}
    {seed : Nat → Ctx → Ctx} : Keeps (issueMove op n bad acc d x imm seed s) := by
  refine keeps_runGroup h ?_
  extract_lets c m l moves withStride go
  have hS (v) : EndsIn (withStride v) := by
    unfold withStride
    extract_lets ext withPlace
    have hP (p) : EndsIn (withPlace p) := by
      unfold withPlace
      extract_lets
      split
      · exact .wait h
      · exact .on h.matIssue.enqueue.numbered.modCtx
    split
    · exact h.matOperand.bind fun _ _ => hP _
    · exact hP _
  split
  · exact .trap
  · show EndsIn (go ())
    unfold go
    split
    · exact hS _
    · split
      · exact .trap
      · exact hS _

theorem keeps_msh {d x : GReg} : Keeps (execMsh d x s) := by
  refine keeps_runGroup h ?_
  extract_lets
  split
  · exact .trap
  · split
    · exact .trap
    · exact .on h.modCtx

theorem keeps_mfmt {d x : GReg} : Keeps (execMfmt d x s) := by
  refine keeps_runGroup h ?_
  extract_lets
  split
  · exact .trap
  · exact .on h.modCtx

theorem keeps_mzero {x : GReg} : Keeps (execMzero x s) := by
  refine keeps_runGroup h ?_
  extract_lets
  split
  · exact .wait h
  · exact .on h.matIssue.enqueue

theorem keeps_mwait {x : GReg} : Keeps (execMwait x s) := by
  refine keeps_runGroup h ?_
  split
  · exact .wait h
  · exact .on h.modCtx

theorem keeps_mtov {p : PReg} {d : VReg} {x : GReg} : Keeps (execMtov p d x s) := by
  refine keeps_runGroup h ?_
  split
  · exact .wait h
  · exact .on h.modCtx

theorem keeps_vtom {p : PReg} {d : VReg} {x : GReg} : Keeps (execVtom p d x s) := by
  refine keeps_runGroup h ?_
  split
  · exact .wait h
  · exact .on (s.modTile_canonical h _ fun t ht =>
      List.foldlRecOn (motive := Tile.Canonical) _ _ ht fun t ht _ _ => t.setCell_canonical ht _ _ _)

theorem keeps_matrixCommandComplete {r : Nat} : Keeps (execMatrixCommandComplete r s) := by
  unfold execMatrixCommandComplete
  split
  · exact .next h
  · refine keeps_event h ?_
    split
    · exact h.runMma
    · exact State.Canonical.matDone (s.modTile_canonical h r fun t ht => t.zeroCells_canonical ht _)
    · exact h.runMst
    · exact h.runMld

end Sys2Proof.Machine
end


section
/-! # Canonical stores: published buffers, the cache portion, the ends of pitches, records and strikes -/

-- Checked one after another: side by side, the stacks of the threads pass the memory that the check allows.
set_option Elab.async false

namespace Sys2Proof.Machine

/-! ## Stores of bytes that a load fills -/

theorem Mem.wf_loadMem {m : Mem} (h : m.wf = true) (r : Nat) (n : NodeImage) (keep : Bool) : (loadMem m r n keep).wf = true := by
  unfold loadMem
  extract_lets sram m' m'' im
  have h1 : (m.clear sram (sram + 2 ^ 22)).wf = true := Mem.wf_clear _ _ _ h
  have h' : m'.wf = true := Mem.wf_fillFrom _ _ _ h1
  have h'' : m''.wf = true := by
    unfold m''
    split
    · exact h
    · exact List.foldlRecOn (motive := fun m : Mem => m.wf = true) _ _ h' fun m hm g _ => Mem.wf_putBytes m _ _ hm
  exact Mem.wf_fillFrom _ _ _ (Mem.wf_fillFrom _ _ _ (Mem.wf_clear _ _ _ h''))

namespace State.Canonical

variable {s : State} {r : Nat} {i : CtxId} {id : PitchId}

/-! ## Published buffers and the cache portion -/

theorem meetEngines (h : s.Canonical) : s.meetEngines.Canonical := h.modCtx

theorem commitPub (h : s.Canonical) {l : List Nat} : (s.commitPub id l).Canonical := h.modPitch

theorem publish (h : s.Canonical) {n : Nat} {t : Time} : (s.publish id n t).1.Canonical := by
  unfold State.publish
  extract_lets gen u
  show State.Canonical (if _ then _ else _)
  split
  · exact h.modPitch.commitPub
  · exact h.modPitch

theorem checkHandle {c : Scope} {w : Word} : Ends (fun _ => True) (s.checkHandle c w) := by
  unfold State.checkHandle
  extract_lets r
  split
  · trivial
  · split
    · trivial
    · split <;> trivial

theorem probed (h : s.Canonical) {ea : DWord} : (s.probed ea).Canonical := by
  unfold State.probed
  extract_lets r bad u
  have hu : u.Canonical := by
    unfold u
    split
    · exact h.targetRead
    · exact h
  split
  · exact hu.modField
  · exact hu

/-! ## Loading tiles -/

theorem loadedTile (h : s.Canonical) {p : Pitch} {keep : Bool} : (s.loadedTile p r keep).Canonical := by
  have ht : (s.tile r).Canonical := s.tile_canonical h r
  cases keep
  · exact ⟨⟨rfl, rfl⟩, ht.2⟩
  · exact ht.same ⟨rfl, rfl, rfl⟩

theorem loadTile (h : s.Canonical) {p : Pitch} {keep : Bool} : (s.loadTile p r keep).Canonical := by
  simp only [State.loadTile, canonical_iff]
  exact ⟨Mem.wf_loadMem h.1 .., (s.setTile_canonical h r h.loadedTile).2⟩

theorem lockPages (h : s.Canonical) {p : Pitch} {l : List Nat} : (s.lockPages p r l).Canonical := by
  refine h.foldl (fun e h => ?_) _
  split
  · refine (modField h).modTile fun t => ?_
    split <;> exact ⟨rfl, rfl, rfl⟩
  · exact h

theorem loadPitch (h : s.Canonical) {p : Pitch} : (s.loadPitch p).Canonical :=
  (h.foldl (fun _ h => h.loadTile) _).foldl (fun _ h => h.lockPages) _

/-! ## Kills -/

theorem unbind (h : s.Canonical) {q : Nat} : (s.unbind q).Canonical := by
  unfold State.unbind
  split
  · exact h
  · exact h.modPitch

theorem queueErr (h : s.Canonical) {q : Nat} {e : Byte} : (s.queueErr q e).Canonical := h.unbind.modQueue

theorem dropMessages (h : s.Canonical) : (s.dropMessages id).Canonical := by
  refine h.foldl (fun e h => ?_) _
  have hu := h.foldl (f := fun s m => s.countDone e.1 (Msg.src m)) (fun _ h => h.countDone) (e.2.messages.filter (Msg.isUserOf id))
  refine modTile ?_
  split
  · split
    · exact hu.countDone
    · exact hu
  · exact hu

theorem scramble (h : s.Canonical) {p : Pitch} : (s.scramble p).Canonical := by
  refine h.foldl (fun d h => h.foldl (fun i h => ?_) _) _
  split
  · exact ⟨Mem.wf_put _ _ _ h.1, h.2⟩
  · exact h

theorem abandonCells (h : s.Canonical) : (s.abandonCells r).Canonical := by
  refine h.foldl (fun {s} e h => ?_) _
  exact State.modTile_canonical (h.frame : ({ s with free := s.free + 1 } : State).Canonical) r fun t ht => t.setCell_canonical ht _ _ _

theorem forgetPosts (h : s.Canonical) {g : Nat × CtxId → Bool} : (s.forgetPosts g).Canonical := h.frame

theorem withdrawAll (h : s.Canonical) : (s.withdrawAll r).Canonical := (h.foldl (fun _ h => h.withdraw) _).forgetPosts

theorem passAsks (h : s.Canonical) {p : Pitch} : (s.passAsks p).Canonical := by
  unfold State.passAsks
  split
  · exact h.modPitch
  · exact h.foldl (fun _ h => h.sendPacket) _

end State.Canonical

theorem Tile.killed_canonical {t : Tile} (h : t.Canonical) : t.killed.Canonical := h.fewer rfl rfl fun _ he => (List.mem_filter.1 he).1

namespace State.Canonical

variable {s : State} {r : Nat} {i : CtxId} {id : PitchId}

theorem killOne (h : s.Canonical) : (s.killOne id).Canonical := by
  unfold State.killOne
  split
  · exact h
  · extract_lets u v told w x
    have hu : u.Canonical := h.scramble.dropMessages
    have hv : v.Canonical := hu.foldl (fun _ h => h.withdrawAll.abandonCells) _
    have hw : w.Canonical := hv.foldl (fun _ h => h.sendPacket) _
    have hx : x.Canonical := ⟨hw.1, tiles_map hw.2 fun e he => by
      split
      · exact e.2.killed_canonical he
      · exact he⟩
    exact hx.modPitch.passAsks

theorem freeRegion (h : s.Canonical) : (s.freeRegion id).Canonical := by
  refine ⟨h.1, tiles_map h.2 fun e he => ?_⟩
  split
  · exact he.same ⟨rfl, rfl, rfl⟩
  · exact he.same ⟨rfl, rfl, rfl⟩

theorem releaseBehind (h : s.Canonical) : (s.releaseBehind id).Canonical := by
  unfold State.releaseBehind
  extract_lets l u
  have hu : u.Canonical := h.frame
  exact hu.foldl (fun _ h => h.frame) _

theorem dropEdge (h : s.Canonical) {p : Pitch} : (s.dropEdge p).Canonical := h.modPitch.foldl (fun _ h => h.leaveEdge) _

theorem endPitch (h : s.Canonical) {e : Option Byte} : (s.endPitch id e).Canonical := by
  unfold State.endPitch
  split
  · exact h
  · extract_lets u v w x
    have hu : u.Canonical := h.freeRegion.dropEdge
    have hv : v.Canonical := ⟨hu.1, tiles_map hu.2 fun e he => he.fewer rfl rfl fun _ hs => (List.mem_filter.1 hs).1⟩
    have hw : w.Canonical := hv.modPitch
    have hx : x.Canonical := by
      unfold x
      split
      · exact hw
      · exact foldl (hw.frame) (fun _ h => h.queueErr) _
    exact hx.passAsks.releaseBehind

theorem forgetSaves (h : s.Canonical) : (s.forgetSaves id).Canonical :=
  ⟨h.1, tiles_map h.2 fun _ he => he.fewer rfl rfl fun _ hs => (List.mem_filter.1 hs).1⟩

theorem requeue (h : s.Canonical) {p : Pitch} : (s.requeue p).Canonical := by
  unfold State.requeue
  extract_lets u
  have hu : u.Canonical := h.freeRegion.modPitch
  split
  · exact hu
  · exact hu.frame

theorem killWaiting (h : s.Canonical) : (s.killWaiting id).Canonical := by
  unfold State.killWaiting
  extract_lets u
  have hu : u.Canonical := h.forgetSaves.killOne
  split
  · split
    · exact hu.requeue
    · exact hu.endPitch
  · exact hu

theorem killBehind (h : s.Canonical) {p : Pitch} : (s.killBehind p).Canonical := by
  unfold State.killBehind
  split
  · split
    · exact h.killWaiting
    · exact h
  · exact h

theorem killPitch (h : s.Canonical) : (s.killPitch id).Canonical := by
  unfold State.killPitch
  cases s.pitch? id with
  | none => exact h
  | some p =>
    dsimp only
    cases p.state with
    | running | preempting => exact h.foldl (f := State.killOne) (fun _ h => killOne h) (id :: s.partners p)
    | loading | armed _ => exact h.forgetSaves.killOne.killBehind
    | queued =>
      dsimp only
      split
      case h_1 b _ _ =>
        refine killWaiting (h.getD fun t ht => ?_)
        obtain ⟨q, -, rfl⟩ := Option.map_eq_some_iff.1 ht
        exact h.killBehind
      case h_2 => exact h.killBehind.killWaiting
    | _ => exact h

/-! ## Records and strikes -/

theorem noteRecord (h : s.Canonical) {p : Post} : (s.noteRecord p).Canonical := by
  unfold State.noteRecord
  extract_lets fatal cause u
  have hu : u.Canonical := h.modTile fun t => by
    extract_lets v due
    split <;> exact ⟨rfl, rfl, rfl⟩
  split
  · split
    · exact hu.killPitch
    · exact hu
  · exact hu

theorem acceptPost (h : s.Canonical) {n : Nat} {p : Post} {t : State} (ht : s.acceptPost n p = some t) : t.Canonical := by
  simp only [State.acceptPost] at ht
  split at ht
  · cases ht
    exact h.modField.noteRecord
  · split at ht
    · cases ht
      exact h.modField.noteRecord
    · cases ht

theorem postGroup (h : s.Canonical) {p : Post} : (s.postGroup p).1.Canonical := by
  unfold State.postGroup
  extract_lets f me turn
  split
  case h_1 t ht =>
    split at ht
    · exact (h.acceptPost ht).forgetPosts
    · cases ht
  case h_2 => exact h.modField

theorem strike (h : s.Canonical) : (s.modTile r Tile.strike).Canonical := h.modTile

theorem strikeTile (h : s.Canonical) {b : Byte} : (s.strikeTile r b).Canonical := by
  unfold State.strikeTile
  extract_lets u v w x phys y
  have hv : v.Canonical := h.withdrawAll.matAbort.failPlansOf
  have hw : w.Canonical := by
    unfold w
    split
    · refine countDone ?_
      split
      · exact hv.answerMsg
      · split
        · exact hv
        · exact hv.nackUser
    · exact hv
  have hx : x.Canonical := hw.strike
  clear_value x
  have hy : y.Canonical := hx.frame
  split
  · exact hy.frame
  · exact hy

end State.Canonical

variable {s : State} (h : s.Canonical)
include h

theorem keeps_fence {k : Scope} : Keeps (execFence k s) := by
  refine keeps_runGroup h ?_
  split
  · exact .on h.meetEngines
  · exact .wait h

theorem keeps_pub {k : Scope} {d x : GReg} : Keeps (execPub k d x s) := by
  refine keeps_runGroup h ?_
  refine State.Canonical.checkHandle.bind fun ph _ => ?_
  dsimp only
  split
  · exact EndsIn.wait h
  · split
    · exact EndsIn.trap
    · split
      · exact EndsIn.wait h
      · exact EndsIn.on h.publish.modCtx

theorem keeps_pubw {k : Scope} {d x : GReg} : Keeps (execPubw k d x s) := by
  refine keeps_runGroup h ?_
  refine State.Canonical.checkHandle.bind fun ph _ => ?_
  dsimp only
  split
  · exact EndsIn.wait h
  · exact EndsIn.on h.modCtx

theorem keeps_cacheOp {x : AReg} {b : Bool} : Keeps (cacheOp x b s) := by
  refine keeps_runGroup h ?_
  extract_lets ea
  split
  · exact .trap
  · exact .trap
  · exact .trap
  · exact .trap
  · split
    · exact .on h
    · split
      · exact .wait h
      · split
        · exact .on h.probed
        · exact .on h.modTile

theorem keeps_tlbp {d : GReg} {x : AReg} : Keeps (execTlbp d x s) := by
  refine keeps_runGroup h ?_
  extract_lets ea gives
  split
  · split
    · exact .wait h
    · exact .on (State.Canonical.probed h).modCtx
  · exact .on h.modCtx
  · exact .on h.modCtx

theorem keeps_trapQueuePost {f : Nat} : Keeps (execTrapQueuePost f s) := by
  unfold execTrapQueuePost
  extract_lets ps waits
  split
  · exact .next h
  · split
    · exact .next h
    · split
      · exact .next h.next
      · refine .next (State.Canonical.getD h.modField fun t ht => ?_)
        exact State.Canonical.acceptPost h.modField ht

theorem keeps_trapQueueRemove {f : Nat} : Keeps (execTrapQueueRemove f s) := keeps_event h h.modField

theorem keeps_strikeTile {r : Nat} : Keeps (execStrikeTile r s) := by
  unfold execStrikeTile
  split
  · exact .next h
  · exact keeps_event h h.strikeTile

end Sys2Proof.Machine
end

section
/-! # Canonical stores: the vector instructions and the summaries -/

-- Checked one after another: side by side, the stacks of the threads pass the memory that the check allows.
set_option Elab.async false

namespace Sys2Proof.Machine

/-! ## Page 1: vectors -/

section
variable {s : State} (h : s.Canonical)
include h

theorem keeps_vecOp {w : Nat} {p : PReg} {d : VReg} {f : Ctx → Nat → FRes} {skip : Ctx → Nat → Bool} :
    Keeps (vecOp w p d f skip s) := keeps_runGroup h (EndsIn.on h.modCtx.countSkip.unchecked)

theorem keeps_vecBits {w : Nat} {p : PReg} {d : VReg} {f : Ctx → Nat → Nat} : Keeps (vecBits w p d f s) := keeps_vecOp h

theorem keeps_arithOp {t : EType} {p : PReg} {d x y : VReg} {b : Bool} {fl : FFmt → ArithMode → Nat → Nat → Nat → FRes}
    {int : Int → Int → Int → Int} : Keeps (arithOp t p d x y b fl int s) := by
  unfold arithOp
  cases t.float? with
  | some f => exact keeps_vecOp h
  | none => exact keeps_vecBits h

theorem keeps_laneOp {p : PReg} {d x y : VReg} {f : Word → Word → Word} : Keeps (laneOp p d x y f s) := keeps_plain h

theorem keeps_rawOp {t : EType} {p : PReg} {d x y : VReg} {f : Nat → Nat → Nat} : Keeps (rawOp t p d x y f s) := keeps_vecBits h

theorem keeps_cmpOp {t : EType} {k : FCmp} {p d : PReg} {x y : VReg} : Keeps (cmpOp t k p d x y s) :=
  keeps_runGroup h (EndsIn.on h.modCtx.countSkip.unchecked)

theorem keeps_vseg {t : EType} {p : PReg} {d x : VReg} {n : BitVec 3} : Keeps (execVseg t p d x n s) := by
  refine keeps_runGroup h ?_
  cases t.float? with
  | some f => exact .on h.modCtx.countSkip.unchecked
  | none => exact .on h.modCtx

theorem keeps_unaryFloat {t : EType} {p : PReg} {d x : VReg} {fn : FFmt → ArithMode → Nat → FRes} :
    Keeps (unaryFloat t p d x fn s) := keeps_vecOp h

theorem keeps_convertOp {t u : EType} {p : PReg} {d x : VReg} {b : Bool} : Keeps (convertOp t u p d x b s) :=
  keeps_runGroup h (EndsIn.on h.modCtx)

theorem keeps_packOp {t : EType} {d x : VReg} {n : Nat} {pack : ArithMode → List FVal → Block} : Keeps (packOp t d x n pack s) :=
  keeps_runGroup h (EndsIn.on h.modCtx)

theorem keeps_unpackOp {t : EType} {d x : VReg} {n : Nat} {f : Nat → Option Ex} : Keeps (unpackOp t d x n f s) :=
  keeps_runGroup h (EndsIn.on h.modCtx)

end

/-! ## Summaries -/

namespace State.Canonical

variable {s : State}

theorem setSumm (h : s.Canonical) {d : HReg} {x : Summ} : (s.setSumm d x).Canonical :=
  s.modTile_canonical h _ fun t ht => (t.setSumm_canonical ht d x).same ⟨rfl, rfl, rfl⟩

/-- Bytes of a summary register change. -/
theorem putSumm (h : s.Canonical) {d : HReg} {n m k : Nat} {b : Tile → List Byte} :
    (s.modHere fun t => { t with h := t.h.putBytes n (b t) }.summGood d m k).Canonical :=
  s.modTile_canonical h _ fun _ ht => ⟨⟨ht.1.1, Mem.wf_putBytes _ _ _ ht.1.2⟩, ht.2⟩

theorem summRead {d : HReg} {n : Nat} : Ends (fun _ => True) (s.summRead d n) := by
  unfold State.summRead
  split <;> trivial

theorem summOf {d : HReg} {ok : Nat → Bool} {a : Word} {b : Option Word} : Ends (fun _ => True) (s.summOf d ok a b) := by
  unfold State.summOf
  extract_lets x
  have hr := summRead (s := s) (d := d) (n := imageSize x.kind)
  split
  case h_1 e he => rw [he] at hr; exact hr
  case h_2 => split <;> trivial

theorem imageAligned {ea : DWord} {n : Nat} : Ends (fun _ => True) (imageAligned ea n) := by
  unfold Machine.imageAligned
  split
  · trivial
  · split <;> trivial

end State.Canonical

/-- A list whose every element ends with what holds. -/
theorem Ends.mapM {α β : Type} {P : β → Prop} {f : α → Except Exit β} (hf : ∀ a, Ends P (f a)) :
    ∀ l : List α, Ends (fun _ => True) (l.mapM f)
  | [] => trivial
  | a :: l => by
    rw [List.mapM_cons]
    exact (hf a).bind fun b _ => (Ends.mapM hf l).bind fun _ _ => trivial

namespace State.Canonical

variable {s : State}

theorem imagePieces (h : s.Canonical) {u : Purpose} {ea : DWord} {m n : Nat} :
    Ends (fun _ => True) (s.imagePieces u ea m n) := Ends.mapM (fun _ => (h.targetAt).map) _

theorem loadImage (h : s.Canonical) {ea : DWord} : Ends (fun e => e.1.Canonical) (s.loadImage ea) := by
  unfold State.loadImage
  refine imageAligned.bind fun _ _ => h.imagePieces.bind fun first _ => ?_
  dsimp only
  split
  · split
    · exact Ends.bind (P := fun _ => True) trivial fun all _ => (h.readPieces all).bind fun r hr => hr
    · exact h.imagePieces.bind fun all _ => (h.readPieces all).bind fun r hr => hr
  · refine (h.readPieces first).bind fun r hr => ?_
    split
    · exact hr
    · refine imageAligned.bind fun _ _ => h.imagePieces.bind fun rest _ => ?_
      split
      · exact h
      · exact (State.Canonical.readPieces hr.modCtx (first ++ rest)).bind fun q hq => hq

end State.Canonical

variable {s : State} (h : s.Canonical)
include h

theorem keeps_skinit {t : EType} {d : HReg} {x : GReg} : Keeps (execSkinit t d x s) := by
  refine keeps_runGroup h ?_
  dsimp only
  split
  · exact .trap
  · split
    · exact .trap
    · exact State.Canonical.summRead.bind fun _ _ => h.setSumm

theorem keeps_skseed {d : HReg} {x : AReg} : Keeps (execSkseed d x s) := keeps_runGroup h (EndsIn.on h.putSumm)

theorem keeps_skclr {d : HReg} : Keeps (execSkclr d s) := keeps_runGroup h (State.Canonical.summOf.bind fun _ _ => h.setSumm)

theorem keeps_skcpy {d x : HReg} : Keeps (execSkcpy d x s) := keeps_runGroup h (State.Canonical.summRead.bind fun _ _ => h.putSumm)

theorem keeps_skmrg {d x : HReg} : Keeps (execSkmrg d x s) := by
  refine keeps_runGroup h ?_
  refine State.Canonical.summOf.bind fun a _ => State.Canonical.summOf.bind fun b _ => ?_
  split
  · exact EndsIn.trap
  · exact EndsIn.on h.setSumm

theorem keeps_skadd {t : EType} {p : PReg} {d : HReg} {x : VReg} : Keeps (execSkadd t p d x s) := by
  refine keeps_runGroup h ?_
  refine State.Canonical.summOf.bind fun a _ => ?_
  dsimp only
  split
  · exact EndsIn.trap
  · split
    · exact EndsIn.on h
    · exact EndsIn.on h.setSumm

theorem keeps_query {d : GReg} {x : HReg} {ok : Nat → Bool} {t : Option EType} {f : Ctx → Summ → Word} :
    Keeps (query d x ok t f s) := by
  refine keeps_runGroup h ?_
  refine State.Canonical.summOf.bind fun a _ => ?_
  dsimp only
  split
  · exact EndsIn.trap
  · exact EndsIn.on h.modCtx

theorem keeps_queryKind {k : Nat} {t : EType} {d : GReg} {x : HReg} {f : Summ → Word} : Keeps (queryKind k t d x f s) := keeps_query h

theorem keeps_queryMoment {t : EType} {d : GReg} {x : HReg} {f : Word → Word → Word → Word} : Keeps (queryMoment t d x f s) :=
  keeps_query h

theorem keeps_skst {d : HReg} {x : AReg} {imm : BitVec 64} : Keeps (execSkst d x imm s) := by
  refine keeps_runGroup h ?_
  exact State.Canonical.summOf.bind fun a _ => State.Canonical.imageAligned.bind fun _ _ => h.imagePieces.bind fun ps _ =>
    (h.writePieces _).bind fun t ht => ht

theorem keeps_skld {d : HReg} {x : AReg} {imm : BitVec 64} : Keeps (execSkld d x imm s) := by
  refine keeps_runGroup h ?_
  refine h.loadImage.bind fun r hr => ?_
  dsimp only
  split
  · exact EndsIn.trap
  · exact EndsIn.on (State.Canonical.setSumm hr)

theorem keeps_skldh {d : HReg} {x : AReg} {imm : BitVec 64} : Keeps (execSkldh d x imm s) := by
  refine keeps_runGroup h ?_
  refine State.Canonical.summOf.bind fun a _ => h.loadImage.bind fun r hr => ?_
  dsimp only
  split
  · exact EndsIn.trap
  · split
    · exact EndsIn.trap
    · exact EndsIn.on (State.Canonical.setSumm hr)

end Sys2Proof.Machine
end


section
/-! # Canonical stores: collective plans -/

-- Checked one after another: side by side, the stacks of the threads pass the memory that the check allows.
set_option Elab.async false

namespace Sys2Proof.Machine

namespace State.Canonical

variable {s : State} {r : Nat} {i : CtxId} {id : PitchId} {q : Plan}

/-- The state of a pair is in canonical form: said of the pair as one term, which keeps the kernel from computing it. -/
def FstCanonical {β : Type} (e : State × β) : Prop := e.1.Canonical

theorem FstCanonical.of {β : Type} {e : State × β} (h : e.1.Canonical) : FstCanonical e := h

theorem FstCanonical.mk {β : Type} {t : State} {b : β} (h : t.Canonical) : FstCanonical (t, b) := h

theorem foldl_pair {α β : Type} {f : State × β → α → State × β} {e : State × β} (h : FstCanonical e)
    (hf : ∀ {e : State × β} {a}, e.1.Canonical → FstCanonical (f e a)) (l : List α) : (l.foldl f e).1.Canonical :=
  List.foldlRecOn (motive := FstCanonical) l f h fun _ he _ _ => hf he

/-! ## A firing: partials, triggers and the delivery -/

theorem modPlan (h : s.Canonical) {k : PlanKey} {f : Plan → Plan} : (s.modPlan id k f).Canonical := h.modPitch

theorem tell (h : s.Canonical) {m c : Nat} {msg : PlanMsg} : (s.tell m c msg).Canonical := h.sendPacket

theorem deliverOut (h : s.Canonical) {d : List Byte} : (s.deliverOut id q d).Canonical :=
  h.foldl (fun _ h => h.foldl (fun _ h => h.sendPacket) _) _

theorem addPartial (h : s.Canonical) {x : Partial} : (s.addPartial id q x).Canonical := by
  unfold State.addPartial
  extract_lets own u
  split
  · exact h
  · split
    · split
      · exact h.modPlan
      · exact State.Canonical.deliverOut h.modPlan
    · split
      · exact h.foldl (fun _ h => h.sendPacket) _
      · exact h.modPlan

theorem combine (h : s.Canonical) {m n : Nat} : (s.combine id q m n).Canonical := by
  unfold State.combine
  extract_lets k
  split
  · exact h
  · split
    · split
      · exact h.failPlan
      · exact h.modPlan.addPartial
    · exact h

theorem trigWaits (h : s.Canonical) {t : State} (ht : s.trigWaits id q = some t) : t.Canonical := by
  unfold State.trigWaits at ht
  extract_lets k st others at ht
  split at ht
  · cases ht
  · split at ht
    · cases ht; exact h
    · cases ht; exact h.modPlan.tellOthers

theorem begin (h : s.Canonical) {d : List Byte} {a : Half} : (s.begin id q d a).Canonical := by
  unfold State.begin
  extract_lets k src p u valid
  have hu : u.Canonical := h.modPlan.numbered
  split
  · exact hu.failPlan
  · exact hu.addPartial

theorem writeResult (h : s.Canonical) {d : List Byte} : (s.writeResult id r q d).Canonical := by
  simp only [State.writeResult]
  refine modPlan ?_
  cases q.buffer with
  | some b => exact h.writeShadow
  | none => exact foldl_pair (e := (s, q.pts.time)) (.of h) (fun he => .of he.performWrite) _

theorem completeFiring (h : s.Canonical) {k : PlanKey} : (s.completeFiring id k).Canonical := by
  unfold State.completeFiring
  split
  · exact h
  · split
    · exact h
    · exact h.modPlan.tellOthers

theorem deliveredHere (h : s.Canonical) {k : PlanKey} : (s.deliveredHere id k).Canonical := by
  unfold State.deliveredHere
  split
  · exact h
  · split
    · exact h
    · dsimp only
      split
      · exact h.modPlan.completeFiring
      · exact h.modPlan.tell

theorem signal (h : s.Canonical) : (s.signal id r q).Canonical := by
  unfold State.signal
  extract_lets done
  have hd {t : State} (ht : t.Canonical) : (done t).Canonical := ht.modPlan.deliveredHere
  split
  · exact hd h.modTile
  · split
    · exact hd h.modTile
    · exact h.failPlan

theorem afterWrites (h : s.Canonical) {k : PlanKey} : (s.afterWrites id k).Canonical := by
  unfold State.afterWrites
  split
  · split
    · exact h.deliverOut
    · exact h
  · exact h

/-! ## Setting a plan up, and freeing it -/

theorem reservePlan (h : s.Canonical) : (s.reservePlan id q).Canonical := h.modPitch

theorem setLive (h : s.Canonical) {k : PlanKey} : (s.setLive id k).Canonical := by
  unfold State.setLive
  split
  · exact h
  · dsimp only
    split
    · exact h.modPlan
    · exact State.Canonical.foldl h.modPlan (fun _ h => h.store) _

theorem answerColset (h : s.Canonical) {a : ColsetReq} {w : Word} : (s.answerColset id a w).Canonical := by
  unfold State.answerColset
  extract_lets u
  have hu : u.Canonical := h.closeColset
  split
  · exact hu.modCtx.next
  · exact hu

theorem serveColset (h : s.Canonical) {p : Pitch} {a : ColsetReq} : (s.serveColset p a).Canonical := by
  unfold State.serveColset
  extract_lets a'
  split
  · exact h.answerColset
  · exact h.answerColset
  · exact h.modPitch.reservePlan.setLive.answerColset

theorem modColset (h : s.Canonical) {f : ColsetReq → ColsetReq} : (s.modColset id f).Canonical := h.modPitch

theorem takeHome (h : s.Canonical) {p : Pitch} {a : ColsetReq} {m : Nat} : (s.takeHome p a m).Canonical := by
  unfold State.takeHome
  extract_lets listed
  split
  · split
    · exact h
    · exact h.modPitch.modColset
  · split
    · exact h.modColset
    · split
      · exact h
      · exact h.modColset.tell

theorem reserveAll (h : s.Canonical) {p : Pitch} {a : ColsetReq} : (s.reserveAll p a).Canonical := by
  unfold State.reserveAll
  split
  · exact h.answerColset
  · split
    · exact h.answerColset
    · extract_lets own plan u v
      have hu : u.Canonical := by
        unfold u
        cases plan with
        | some => exact h.reservePlan
        | none => exact h
      exact hu.modColset.foldl (fun _ h => h.tell) _

theorem setAll (h : s.Canonical) {p : Pitch} {a : ColsetReq} : (s.setAll p a).Canonical := by
  unfold State.setAll
  extract_lets others
  split
  · exact h.answerColset
  · split
    · exact h.answerColset
    · split
      · exact h.answerColset
      · exact State.Canonical.foldl h.modPitch.setLive.modColset (fun _ h => h.tell) _

theorem stepColset (h : s.Canonical) {p : Pitch} {a : ColsetReq} : (s.stepColset p a).Canonical := by
  unfold State.stepColset
  extract_lets others
  split
  · split
    · exact h.takeHome
    · exact h.reserveAll
  · split
    · exact h.setAll
    · exact h
  · split
    · exact h.answerColset
    · exact h

theorem serveAsk (h : s.Canonical) {p : Pitch} {a : PlanAsk} : (s.serveAsk p a).Canonical := h.modPitch.tell

theorem dropPlan (h : s.Canonical) {k : PlanKey} : (s.dropPlan id k).Canonical := h.modPitch

theorem colfrWaits (h : s.Canonical) {t : State} (ht : s.colfrWaits id q = some t) : t.Canonical := by
  unfold State.colfrWaits at ht
  extract_lets own others me u at ht
  have hu : u.Canonical := h.modPlan
  split at ht
  · split at ht
    · cases ht
    · rw [← Option.some.inj ht]; exact hu
  · split at ht
    · rw [← Option.some.inj ht]; exact hu
    · split at ht
      · rw [← Option.some.inj ht]; exact hu.modPlan.tellOthers
      · split at ht
        · rw [← Option.some.inj ht]; exact hu.modPlan.tellOthers
        · rw [← Option.some.inj ht]; exact hu

/-! ## What other modules tell -/

theorem gather (h : s.Canonical) {o : Option Nat} {n : Nat} {d : List Byte} : (s.gather id q o n d).1.Canonical := by
  unfold State.gather
  dsimp only
  split
  · exact h.modPlan
  · exact h.modPlan

theorem catchUp (h : s.Canonical) {n : Nat} : (s.catchUp id q n).Canonical := by
  unfold State.catchUp
  split
  · exact h.modPlan
  · exact h

theorem onPlan (h : s.Canonical) {m c n : Nat} {k : PlanKey} {f : State → PitchId → Plan → State}
    (hf : ∀ {t} id q, t.Canonical → (f t id q).Canonical) : (s.onPlan m c k n f).Canonical := by
  unfold State.onPlan
  split
  · exact h.sendPacket
  · dsimp only
    split
    · split
      · exact h.catchUp
      · exact hf _ _ h.catchUp
    · exact h.catchUp

theorem partialCame (h : s.Canonical) {m c n node span total : Nat} {k : PlanKey} {d : List Byte} {pts : Time} :
    (s.partialCame m c k n node span total d pts).Canonical := by
  refine h.onPlan fun id q ht => ?_
  dsimp only
  split
  · exact ht.gather
  · split
    · exact ht.gather.modPlan.addPartial
    · exact ht.gather.modPlan

theorem deliveryCame (h : s.Canonical) {m c n total : Nat} {k : PlanKey} {d : List Byte} {pts : Time} :
    (s.deliveryCame m c k n total d pts).Canonical := by
  refine h.onPlan fun id q ht => ?_
  dsimp only
  split
  · exact ht.gather
  · exact ht.gather.modPlan

theorem planNacked (h : s.Canonical) {m : Nat} {k : PlanKey} {c : BitVec 3} : (s.planNacked m k c).Canonical := by
  unfold State.planNacked
  split
  · exact h
  · exact h.failPlan

theorem planFailed (h : s.Canonical) {m : Nat} {k : PlanKey} {c : BitVec 3} : (s.planFailed m k c).Canonical := by
  unfold State.planFailed
  split
  · exact h
  · exact h.modPlan

theorem planKilled (h : s.Canonical) {m c : Nat} : (s.planKilled m c).Canonical := by
  refine h.foldl (fun p h => ?_) _
  dsimp only
  split
  · split
    · exact h.modPitch
    · split
      · exact h.modPitch.modColset
      · split
        · exact h.modPitch.answerColset
        · exact h.modPitch
  · exact h.modPitch

theorem planAsked (h : s.Canonical) {m c : Nat} {a : ColsetId} {d : BitVec 512} {l : List Nat} : (s.planAsked m c a d l).Canonical := by
  unfold State.planAsked
  split
  · exact h.tell
  · split
    · exact h.serveAsk
    · exact h.modPitch

theorem planSetUp (h : s.Canonical) {m c : Nat} {a : ColsetId} {o : Option PlanKey} {d : BitVec 512} {k : Scope} {l : List (Nat × Nat)} :
    (s.planSetUp m c a o d k l).Canonical := by
  unfold State.planSetUp
  split
  · exact h.tell
  · dsimp only
    split
    · exact h.reservePlan.tell
    · exact h.tell

theorem homeReleased (h : s.Canonical) {m c : Nat} {a : ColsetId} : (s.homeReleased m c a).Canonical := h.frame

theorem planActivated (h : s.Canonical) {m c : Nat} {k : PlanKey} : (s.planActivated m c k).Canonical := by
  unfold State.planActivated
  split
  · exact h.tell
  · exact h.setLive.modPitch.tell

theorem modRequest (h : s.Canonical) {c : Nat} {a : ColsetId} {f : ColsetReq → ColsetReq} : (s.modRequest c a f).Canonical := h.modColset

theorem idleAskedBy (h : s.Canonical) {m c n : Nat} {k : PlanKey} : (s.idleAskedBy m c k n).Canonical := by
  unfold State.idleAskedBy
  split
  · exact h.tell
  · split
    · exact h.tell
    · exact h.modPlan.tell

theorem notIdle (h : s.Canonical) {c n : Nat} {k : PlanKey} : (s.notIdle c k n).Canonical := by
  unfold State.notIdle
  split
  · exact h
  · split
    · exact h.unask
    · exact h

theorem told (h : s.Canonical) {m c : Nat} {msg : PlanMsg} : (s.told m c msg).Canonical := by
  cases msg with
  | ask => exact h.planAsked
  | answer | ready => exact h.modRequest
  | setup => exact h.planSetUp
  | activate => exact h.planActivated
  | active => exact h.foldl (fun _ h => h.modColset) _
  | release => exact h.homeReleased
  | trig => exact h.onPlan fun _ _ ht => ht.modPlan.tell
  | trigHeard | untrig | complete => exact h.onPlan fun _ _ ht => ht.modPlan
  | delivered => exact h.onPlan fun _ _ ht => ht.modPlan.completeFiring
  | failed => exact h.planFailed
  | idleAsk => exact h.idleAskedBy
  | idle | unlock | freed =>
    simp only [State.told]
    split
    · exact h.modPlan
    · exact h
  | notIdle => exact h.notIdle
  | free =>
    simp only [State.told]
    split
    · exact h.dropPlan.tell
    · exact h.tell
  | killed => exact h.planKilled

theorem homeNacked (h : s.Canonical) {c m : Nat} {msg : PlanMsg} : (s.homeNacked c m msg).Canonical := by
  unfold State.homeNacked
  split
  · exact h.tell
  · exact h

end State.Canonical

/-! ## The steps of a plan -/

variable {s : State} (h : s.Canonical)
include h

theorem keeps_combineAt {b : Bool} {r k n : Nat} : Keeps (combineAt b r k n s) := by
  unfold combineAt
  split
  · exact .next h
  · split
    · exact keeps_event h h.combine
    · exact .next h

theorem keeps_trig {d : AReg} {x : GReg} : Keeps (execTrig d x s) := by
  refine keeps_runGroup h ?_
  extract_lets ea r
  split
  · exact .trap
  · split
    · exact .trap
    · split
      · exact .trap
      · split
        · exact .trap
        · split
          · exact .wait h
          · extract_lets n
            split
            · split
              · exact h.withdrawPlan
              · exact .trap
            · split
              · exact .wait (h.trigWaits ‹_›)
              · exact .on h.begin

theorem keeps_cdone {r k : Nat} : Keeps (execCdone r k s) := by
  unfold execCdone
  split
  case h_1 => exact .next h
  case h_2 id p _ =>
    split
    · exact .next h
    · split
      · extract_lets data
        split
        · exact .next h.failPlan
        · refine keeps_event h ?_
          have hw := h.writeResult (id := id) (r := r) (q := p) (d := data)
          generalize s.writeResult id r p data = w at hw
          extract_lets u v
          have hv : v.Canonical := by
            unfold v
            split
            · exact hw.afterWrites
            · exact hw
          split
          · split
            · exact hv.signal
            · exact hv
          · exact hv
      · exact keeps_event h h.signal

theorem keeps_automaticPub {id : PitchId} {hd : Half} : Keeps (execAutomaticPub id hd s) := by
  unfold execAutomaticPub
  split
  · exact .next h
  · split
    · exact .next h
    · extract_lets b lower
      exact keeps_event h h.publish.modPlan.afterWrites

theorem keeps_colset {sc : Scope} {d x : GReg} : Keeps (execColset sc d x s) := by
  refine keeps_runGroup h ?_
  extract_lets r o desc list own partOf q issue limits checks
  have hi (u : Unit) : EndsIn (issue u) := by
    unfold issue
    split
    · exact .refuse
    · exact EndsIn.wait (State.Canonical.modCtx (State.Canonical.modPitch h.frame))
  have hl (u : Unit) : EndsIn (limits u) := by
    unfold limits
    split
    · exact .refuse
    · exact hi ()
  have hc (u : Unit) : EndsIn (checks u) := by
    unfold checks
    split
    · exact .refuse
    · exact hl ()
  split
  · exact .wait h
  · exact .on h.modCtx
  · refine State.Canonical.scratchOffset.bind fun _ _ => ?_
    split
    · exact State.Canonical.scratchOffset.bind fun _ _ => hc ()
    · exact hc ()

theorem keeps_colsetRequest {id : PitchId} : Keeps (execColsetRequest id s) := by
  unfold execColsetRequest
  split
  · exact .next h
  · split
    · exact .next h.modPitch.serveAsk
    · split
      · exact .next h
      · split
        · exact keeps_event h h.serveColset
        · exact .next h.stepColset

theorem keeps_colfr {x : GReg} : Keeps (execColfr x s) := by
  refine keeps_runGroup h ?_
  split
  · exact .on h
  · split
    · exact .on h
    · split
      · split
        · exact .wait (h.colfrWaits ‹_›)
        · exact .on h.dropPlan
      · split
        · exact .wait h
        · exact .on h.dropPlan

theorem keeps_cols {d x : GReg} : Keeps (execCols d x s) := keeps_plain h

theorem keeps_colw {d x : GReg} : Keeps (execColw d x s) := by
  refine keeps_runGroup h ?_
  extract_lets w r failed
  split
  · exact .on h.modCtx
  · extract_lets t
    split
    · exact .trap
    · split
      · exact .wait h
      · exact .on h.modCtx

theorem keeps_planKillNotice {m c : Nat} : Keeps (execPlanKillNotice m c s) := keeps_event h h.planKilled

end Sys2Proof.Machine
end


section
/-! # Canonical stores: system instructions, the loader, module reset, the care of memories -/

-- Checked one after another: side by side, the stacks of the threads pass the memory that the check allows.
set_option Elab.async false

namespace Sys2Proof.Machine

/-! ## Stores that no change reaches, and those that a new map moves -/

theorem Tile.clearLog_stores (t : Tile) (n : Nat) : t.SameStores (t.clearLog n) := by
  unfold Tile.clearLog
  split
  · exact ⟨rfl, rfl, rfl⟩
  · split <;> exact ⟨rfl, rfl, rfl⟩

theorem Mem.wf_moved {m : Mem} (h : m.wf = true) (old new : List (Nat × Nat × List Nat)) :
    (movedMem old new m).wf = true := by
  unfold movedMem
  split
  · exact h
  · refine List.foldlRecOn (motive := fun m : Mem => m.wf = true) _ _ rfl fun m hm c _ => ?_
    split
    · exact Mem.wf_put m _ _ hm
    · exact hm

theorem Tile.begin_stores (t : Tile) (k : CoreId) : t.SameStores (t.begin k) := by
  unfold Tile.begin
  split
  · split
    · exact t.startSlot_stores k 0
    · simp [Tile.SameStores]
  · exact ⟨rfl, rfl, rfl⟩

theorem Tile.beginAll_stores (t : Tile) : t.SameStores t.beginAll := (t.begin_stores .s).trans (Tile.begin_stores _ .c)

namespace State.Canonical

variable {s : State} {r : Nat} {i : CtxId} {id : PitchId}

/-! ## k-registers, translations, saved nodes -/

theorem kwrite (h : s.Canonical) {n : Nat} {w : Word} : (s.kwrite r i n w).Canonical := by
  unfold State.kwrite
  extract_lets u
  have hu : u.Canonical := h.modCtx
  split
  · refine hu.modTile fun t => ?_
    unfold Tile.kwrite
    split <;> exact ⟨rfl, rfl, rfl⟩
  · exact hu

theorem invalidate (h : s.Canonical) {drop : TlbEntry → Bool} : (s.invalidate drop).Canonical :=
  ⟨h.1, tiles_map h.2 fun _ he => he.same ⟨rfl, rfl, rfl⟩⟩

theorem saveFault (h : s.Canonical) {b : Byte} {a : DWord} : (s.saveFault r b a).Canonical := h.post

theorem setPoison (h : s.Canonical) {l : List Nat} : ({ s with poison := l } : State).Canonical := h.frame

theorem saveCross (h : s.Canonical) : (s.saveCross r).Canonical := h.writeSeen.setPoison

theorem postDeadPole (h : s.Canonical) : (s.postDeadPole r).Canonical := h.post

theorem saveTile_fst (h : s.Canonical) : FstCanonical (s.saveTile r) := by
  unfold State.saveTile
  cases s.saveBad r with
  | some a => exact .mk h.saveFault
  | none =>
    have hw : (s.saveCross r).Canonical := h.saveCross
    generalize s.saveCross r = w at hw
    dsimp only
    by_cases hd : w.deadPole (saveArea r)
    · rw [if_pos hd]
      exact .of hw.postDeadPole
    · rw [if_neg hd]
      exact .of (State.saveNode_canonical hw r)

theorem saveTile (h : s.Canonical) : (s.saveTile r).1.Canonical := h.saveTile_fst

theorem restoreRead (h : s.Canonical) : (s.restoreRead r).Canonical := by
  have hd : State.restoreRead = fun s r => (s.readSeen (saveArea r) saveBytes).1 := rfl
  rw [hd]
  exact h.readSeen

/-- The image that a tile keeps is in canonical form. -/
theorem savedNode (h : s.Canonical) {n : SavedNode} (hn : s.savedNode r = some n) : n.z.wf = true ∧ n.h.wf = true := by
  obtain ⟨e, he, rfl⟩ := Option.map_eq_some_iff.1 hn
  exact (s.tile_canonical h r).2 e (List.mem_of_find?_eq_some he)

/-! ## Placement and loading -/

theorem balanceField {s : State} (h : s.Canonical) {p : Pitch} {f : Nat} (n : Nat) {t : State}
    (ht : s.balanceField p f n = some t) : t.Canonical := by
  induction n generalizing s with
  | zero =>
    dsimp only [State.balanceField] at ht
    cases ht
  | succ n ih =>
    dsimp only [State.balanceField] at ht
    split at ht
    · cases ht; exact h
    · split at ht
      · cases ht
      · exact ih h.modTile ht

/-- A fold of steps that may give nothing. -/
theorem foldl_bind {α : Type} {f : α → State → Option State} {o : Option State} (ho : ∀ t, o = some t → t.Canonical)
    (hf : ∀ a {s t : State}, s.Canonical → f a s = some t → t.Canonical) (l : List α) :
    ∀ t, l.foldl (fun o a => o.bind (f a)) o = some t → t.Canonical := by
  refine List.foldlRecOn (motive := fun o : Option State => ∀ t, o = some t → t.Canonical) l _ ho fun o ho a _ t ht => ?_
  obtain ⟨u, hu, ht⟩ := Option.bind_eq_some_iff.1 ht
  exact hf a (ho u hu) ht

theorem balance (h : s.Canonical) {p : Pitch} {t : State} (ht : s.balance p = some t) : t.Canonical := by
  unfold State.balance at ht
  generalize 1201 = n at ht
  refine foldl_bind (o := some s) (fun t ht => by cases ht; exact h) (fun f _ _ hs ht => ?_) _ _ ht
  exact balanceField hs _ ht

theorem candidate (h : s.Canonical) {p : Pitch} {t : State} (ht : s.candidate p = some t) : t.Canonical := by
  unfold State.candidate at ht
  split at ht
  · exact h.balance ht
  · cases ht

theorem firstFit (h : s.Canonical) {p : Pitch} {e : Pitch × State} (n i : Nat) (he : s.firstFit p n i = some e) : e.2.Canonical := by
  induction n generalizing i with
  | zero => cases he
  | succ n ih =>
    unfold State.firstFit at he
    split at he
    case h_1 t ht => cases he; exact h.candidate ht
    case h_2 => exact ih _ he

theorem preempt (h : s.Canonical) {p : Pitch} : (s.preempt p).Canonical := by
  unfold State.preempt
  split
  · exact h.foldl (fun _ h => h.modPitch) _
  · exact h

theorem reserve (h : s.Canonical) {p : Pitch} : (s.reserve p).Canonical := by
  unfold State.reserve
  extract_lets u v
  have hu : u.Canonical := h.frame
  have hv : v.Canonical := hu.modPitch
  exact hv.foldl (fun _ h => h.modTile) _

theorem afterKill (h : s.Canonical) {p : Pitch} : (s.afterKill p).Canonical := by
  unfold State.afterKill
  split
  · exact h.endPitch
  · split
    · exact h.requeue
    · split
      · exact h
      · exact State.Canonical.modPitch ((h.balance ‹_›).foldl (fun _ h => h.modTile) _)

theorem postBadEntry (h : s.Canonical) {o : Option PitchId} {va : Nat} : (s.postBadEntry r o va).Canonical := h.modField

theorem listsRead (h : s.Canonical) {p : Pitch} : (s.listsRead p).Canonical := by
  unfold State.listsRead
  extract_lets u
  have hu : u.Canonical := h.foldl (fun _ h => h.walkRead) _
  split
  · exact hu.postBadEntry
  · exact hu

theorem refuseLoad (h : s.Canonical) {b : Byte} : (s.refuseLoad id b).Canonical := h.endPitch

/-! ## Sweeps -/

theorem sweepRunning (h : s.Canonical) {p : Pitch} : (s.sweepRunning p).Canonical := by
  unfold State.sweepRunning
  extract_lets now leaves
  split
  · exact h.endPitch
  · exact h.modPitch

theorem completeStrikes (h : s.Canonical) : (s.completeStrikes id).Canonical := by
  refine h.foldl (fun r h => ?_) _
  split
  · split
    · exact h
    · exact h.strikeTile
  · exact h

theorem afterPair (h : s.Canonical) {p q : Pitch} : (s.afterPair p q).Canonical := by
  unfold State.afterPair
  extract_lets u v w
  have hu : u.Canonical := h.foldl (fun _ h => h.completeStrikes) _
  have hv : v.Canonical := hu.foldl (fun _ h => h.modTile fun t => by split <;> exact ⟨rfl, rfl, rfl⟩) _
  have hw : w.Canonical := by
    unfold w
    split
    · exact hv.modPitch
    · exact hv.endPitch
  split
  · exact hw.afterKill
  · exact hw

theorem sweepKilled (h : s.Canonical) {p : Pitch} : (s.sweepKilled p).Canonical := by
  unfold State.sweepKilled
  extract_lets now
  split
  · dsimp only
    split
    · exact h.afterPair
    · exact h.modPitch.modPitch
  · split
    · exact h
    · split
      · exact h.completeStrikes.afterKill
      · exact h.modPitch

theorem saveOut (h : s.Canonical) : (s.saveOut id).Canonical := by
  unfold State.saveOut
  extract_lets u v
  have hv : v.Canonical := h.freeRegion.modPitch
  split
  · split
    · exact hv
    · exact hv.frame
  · exact hv

theorem sweepPreempting (h : s.Canonical) {p : Pitch} : (s.sweepPreempting p).Canonical := by
  unfold State.sweepPreempting
  extract_lets ids tiles bad
  split
  · exact h
  · split
    · split
      · exact (h.foldl (fun _ h => h.saveTile) _).foldl (fun _ h => h.saveOut) _
      · exact h.foldl (fun _ h => h.saveTile) _
    · exact h.foldl (fun _ h => h.modTile) _

theorem sweepStopped (h : s.Canonical) {p : Pitch} : (s.sweepStopped p).Canonical := by
  unfold State.sweepStopped
  extract_lets now
  split
  · exact h.killBehind.endPitch
  · exact h.modPitch

/-! ## Resumption and splicing -/

theorem countAgain (h : s.Canonical) {m : Msg} : (s.countAgain r m).Canonical := h.modTile

theorem resumeTile (h : s.Canonical) {p : Pitch} : (s.resumeTile p r).Canonical := by
  unfold State.resumeTile
  extract_lets u
  have hu : u.Canonical := h.loadTile
  split
  · exact hu
  · exact State.modTile_canonical (State.restoreNode_canonical hu r (hu.savedNode ‹_›)) r fun t ht =>
      ht.fewer rfl rfl fun e he => (List.mem_filter.1 he).1

theorem resumePitch (h : s.Canonical) {p : Pitch} : (s.resumePitch p).Canonical := by
  unfold State.resumePitch
  extract_lets ts u v w x
  have hu : u.Canonical := h.foldl (fun _ h => h.resumeTile) _
  have hv : v.Canonical := hu.foldl (fun _ h => h.countAgain) _
  have hw : w.Canonical := hv.foldl (fun _ h => h.lockPages) _
  have hx : x.Canonical := hw.modPitch
  exact hx.foldl (fun _ h => h.modPlan) _

theorem unplace (h : s.Canonical) {p : Pitch} : (s.unplace p).Canonical := by
  unfold State.unplace
  extract_lets u
  have hu : u.Canonical := h.freeRegion.modPitch
  exact hu.frame

theorem succeed (h : s.Canonical) {p q : Pitch} {keep : Bool} : (s.succeed p q keep r).Canonical := by
  unfold State.succeed
  extract_lets u v w
  have hv : v.Canonical := State.Canonical.lockPages h.loadTile
  have hw : w.Canonical := modPitch (hv.modTile Tile.beginAll_stores)
  split
  · exact hw.modPitch.endPitch
  · exact hw

theorem beginSplice (h : s.Canonical) {p q : Pitch} {keep : Bool} : (s.beginSplice p q keep r).Canonical := by
  unfold State.beginSplice
  extract_lets pages fits u
  have hu : u.Canonical := h.listsRead
  split
  · exact hu.refuseLoad
  · split
    · exact hu.modPitch
    · split
      · exact modPitch hu.modTile
      · exact (hu.foldl (fun _ h => h.lockPages) _).succeed

/-! ## Module reset -/

theorem rebooted (h : s.Canonical) {dead : List Nat} {bands : List (BitVec 4)} {bad devices : List Nat} :
    (s.rebooted dead bands bad devices).Canonical :=
  ⟨Mem.wf_moved (Mem.wf_filter _ _ h.1) _ _, tiles_map h.2 fun _ _ => Tile.canonical_default.congr rfl rfl rfl⟩

/-! ## The care of memories -/

theorem storesGoOn (h : s.Canonical) : (s.storesGoOn r).Canonical := by
  refine h.foldl (fun i h => ?_) _
  split
  · split
    · exact h.advanceStore _
    · exact h
  · exact h

end State.Canonical

/-- A k-register that may not be moved is a trap. -/
theorem kdefect_canonical {s : State} {n : Nat} {e : Exit} (he : s.kdefect n = some e) : e.Canonical := by
  unfold State.kdefect at he
  split at he
  · cases he; trivial
  · split at he <;> cases he
    trivial

variable {s : State} (h : s.Canonical)
include h

/-! ## System instructions -/

theorem keeps_trap {d : GReg} {b : BitVec 8} : Keeps (execTrap d b s) := keeps_runGroup h EndsIn.trap

theorem keeps_mfk {d : GReg} {k : BitVec 10} : Keeps (execMfk d k s) := by
  refine keeps_runGroup h ?_
  extract_lets n
  split
  · exact kdefect_canonical ‹_›
  · refine .on ?_
    split
    · exact h.modCtx.modTile fun t => t.clearLog_stores _
    · exact h.modCtx

theorem keeps_mtk {d : GReg} {k : BitVec 10} : Keeps (execMtk d k s) := by
  refine keeps_runGroup h ?_
  split
  · exact kdefect_canonical ‹_›
  · exact .on h.kwrite

theorem keeps_eret : Keeps (execEret s) := keeps_runGroup h (EndsIn.leave h.modCtx)

theorem keeps_idle {d : GReg} : Keeps (execIdle d s) := by
  refine keeps_runGroup h ?_
  split
  · exact .refuse
  · exact .wait h
  · exact .on h.modCtx

theorem keeps_tqpAnswer {r : Nat} {i : CtxId} {b : Bool} : Keeps (execTqpAnswer r i b s) := keeps_event h h.modCtx

theorem keeps_tlbi {x : AReg} : Keeps (execTlbi x s) := by
  refine keeps_runGroup h ?_
  extract_lets p
  split
  · exact .trap
  · split
    · exact .wait h
    · split
      · exact .on h.invalidate
      · exact .on h
  · exact .trap

theorem keeps_tlba : Keeps (execTlba s) := by
  refine keeps_runGroup h ?_
  split
  · exact .wait h
  · exact .on h.invalidate

theorem keeps_tqp {x : GReg} : Keeps (execTqp x s) := by
  refine keeps_runGroup h ?_
  extract_lets o rec' flags fatal asks post idle
  have hp (u : Unit) : EndsIn (post u) := by
    unfold post
    have hs := h.postGroup (p := { record := rec', pitch := s.here.pitch })
    split
    case h_1 t ht => rw [ht] at hs; exact EndsIn.wait hs
    case h_2 t ht =>
      rw [ht] at hs
      refine EndsIn.on ?_
      split
      · exact State.Canonical.modCtx hs
      · exact hs
  have hi (u : Unit) : EndsIn (idle u) := by
    unfold idle
    split
    · exact .refuse
    · exact hp ()
  refine State.Canonical.scratchOffset.bind fun _ _ => ?_
  split
  · exact EndsIn.refuse
  · exact hi ()

theorem keeps_strk {x : GReg} : Keeps (execStrk x s) := by
  refine keeps_runGroup h ?_
  split
  · exact .on h
  · have hs := h.postGroup (p := { record := s.strkRecord ((s.cur.getG x).setWidth 8), pitch := s.here.pitch })
    split
    case h_1 t ht => rw [ht] at hs; exact .wait hs
    case h_2 t ht => rw [ht] at hs; exact .on (State.Canonical.modTile hs)

theorem keeps_ctxs : Keeps (execCtxs s) := by
  refine keeps_runGroup h ?_
  split
  · exact .refuse
  · exact .on h.saveTile

theorem keeps_ctxl : Keeps (execCtxl s) := by
  refine keeps_runGroup h ?_
  extract_lets r u
  have hu : u.Canonical := h.restoreRead
  split
  · exact .refuse
  · split
    · exact .on hu.saveFault
    · exact .leave (State.restoreNode_canonical hu r (hu.savedNode ‹_›))
    · exact .on hu

theorem keeps_ltrc {d x : GReg} : Keeps (ltrc d x s) := by
  refine keeps_runGroup h ?_
  extract_lets a w u
  have hu : u.Canonical := h.modCtx
  split
  · exact .refuse
  · split
    · exact .on hu.modTile
    · split
      · exact .on hu.modTile
      · exact .on hu

theorem keeps_amodeWrite {r : Nat} {i : CtxId} {w : Word} : Keeps (execAmodeWrite r i w s) := .next h.modCtx

theorem keeps_srseedWrite {r : Nat} {i : CtxId} {w : Word} : Keeps (execSrseedWrite r i w s) := .next h.modCtx

theorem keeps_counterClear {r : Nat} {n : KReg} {b : Bool} {w : Word} : Keeps (execCounterClear r n b w s) := by
  refine keeps_event h (h.modTile fun t => ?_)
  have hk (u : Tile) : u.SameStores (u.kwrite n.toNat w) := by
    unfold Tile.kwrite
    split <;> exact ⟨rfl, rfl, rfl⟩
  have hb : t.SameStores (if b then t.bump n.toNat else t) := by
    split
    · unfold Tile.bump
      split <;> exact ⟨rfl, rfl, rfl⟩
    · exact ⟨rfl, rfl, rfl⟩
  exact hb.trans (hk _)

theorem keeps_ltrlimLtrwinWrite {r : Nat} {n : KReg} {w : Word} : Keeps (execLtrlimLtrwinWrite r n w s) :=
  keeps_event h (h.modTile fun t => by unfold Tile.kwrite; split <;> exact ⟨rfl, rfl, rfl⟩)

theorem keeps_marginWrite {r : Nat} {w : Word} : Keeps (execMarginWrite r w s) := .next h.modTile

theorem keeps_logStatusRead {r : Nat} {i : CtxId} {n : KReg} {d : GReg} : Keeps (execLogStatusRead r i n d s) :=
  keeps_event h (h.modCtx.modTile fun t => t.clearLog_stores _)

/-! ## The loader's steps -/

theorem keeps_placement : Keeps (execPlacement s) := by
  unfold execPlacement
  split
  · exact .next h
  · split
    · exact .next h
    · split
      · split
        · exact .next h.killPitch
        · split
          · exact .next (h.candidate ‹_›).reserve
          · split
            · split
              · exact .next h.preempt
              · exact .next h
            · exact .next h
      · split
        · exact .next (h.firstFit _ _ ‹_›).reserve
        · split
          · exact .next h
          · split
            · exact .next h.preempt
            · exact .next h

theorem keeps_loadAcknowledge {id : PitchId} : Keeps (execLoadAcknowledge id s) := by
  unfold execLoadAcknowledge
  split
  · exact .next h
  · refine keeps_event h ?_
    extract_lets pages fits u
    have hu : u.Canonical := h.listsRead
    split
    · exact hu.refuseLoad
    · split
      · exact hu.modPitch
      · split
        · exact hu.requeue
        · exact hu.loadPitch.modPitch

theorem keeps_resolutionAnswer {id : PitchId} {b : Bool} : Keeps (execResolutionAnswer id b s) := by
  unfold execResolutionAnswer
  split
  · exact .next h
  · refine keeps_event h ?_
    split
    · exact h.modPitch
    · exact h.refuseLoad

theorem keeps_translationPreloadTimeout {id : PitchId} : Keeps (execTranslationPreloadTimeout id s) := by
  unfold execTranslationPreloadTimeout
  split
  · exact .next h
  · exact keeps_event h h.refuseLoad

theorem keeps_pitchStart {id : PitchId} : Keeps (execPitchStart id s) := by
  unfold execPitchStart
  split
  · exact .next h
  · split
    · refine keeps_event h ?_
      split
      · exact h.refuseLoad
      · exact State.Canonical.foldl h.modPitch (fun _ h => h.modTile Tile.beginAll_stores) _
    · exact .next h

theorem keeps_hostKillRequest {id : PitchId} : Keeps (execHostKillRequest id s) := by
  unfold execHostKillRequest
  split
  · exact .next h
  · split
    · refine .next (State.Canonical.endPitch ?_)
      split
      · exact h.killWaiting
      · exact h.killBehind
    · exact .next h.modPitch
    · exact .next h.modPitch
    · exact .next h.killPitch

theorem keeps_lightsOutSweep {id : PitchId} : Keeps (execLightsOutSweep id s) := by
  unfold execLightsOutSweep
  split
  · exact .next h
  · split
    · exact .next h.sweepRunning
    · exact .next h.sweepKilled
    · exact .next h.sweepPreempting
    · exact keeps_event h h.sweepStopped
    · exact keeps_event h h.sweepStopped
    · exact .next h
    · exact .next h

theorem keeps_preemptDispatchStop {id : PitchId} : Keeps (execPreemptDispatchStop id s) := by
  unfold execPreemptDispatchStop
  split
  · exact .next h
  · refine keeps_event h (h.foldl (fun _ h => h.modTile fun t => ?_) _)
    unfold Tile.hold
    dsimp only
    split <;> exact ⟨rfl, rfl, rfl⟩

theorem keeps_preemptFiringTimeout {r : Nat} {i : CtxId} : Keeps (execPreemptFiringTimeout r i s) := by
  simp only [execPreemptFiringTimeout]
  refine keeps_event h ?_
  exact h.withdraw.forgetPosts.modCtx

theorem keeps_preemptResume {id : PitchId} : Keeps (execPreemptResume id s) := by
  unfold execPreemptResume
  split
  · exact .next h
  · refine keeps_event h ?_
    extract_lets ps pages fits u v bad
    have hu : u.Canonical := h.foldl (fun _ h => h.listsRead) _
    have hv : v.Canonical := hu.foldl (f := State.restoreRead) (fun _ h => State.Canonical.restoreRead h) (ps.flatMap u.savedTiles)
    split
    · exact h.killPitch
    · split
      · exact hu.killBehind.refuseLoad
      · split
        · exact hu.modPitch
        · split
          · exact hu.unplace
          · split
            · exact hv.foldl (fun _ h => h.resumePitch) _
            · exact hv.foldl (fun _ h => h.saveFault) _

theorem keeps_spliceSwitch {r : Nat} : Keeps (execSpliceSwitch r s) := by
  unfold execSpliceSwitch
  split
  · exact .next h
  · exact keeps_event h h.modTile

theorem keeps_spliceSuccessorStart {r : Nat} : Keeps (execSpliceSuccessorStart r s) := by
  unfold execSpliceSuccessorStart
  split
  · exact .next h
  · refine keeps_event h ?_
    split
    · exact h.succeed
    · split
      · exact h
      · exact h.beginSplice

/-! ## Reset and the care of memories -/

theorem keeps_fieldDerate {f : Nat} {k : BitVec 4} : Keeps (execFieldDerate f k s) := keeps_event h h.modField

theorem keeps_moduleReset {dead : List Nat} {bands : List (BitVec 4)} {found : BootFindings} :
    Keeps (execModuleReset dead bands found s) := keeps_event h h.rebooted

theorem keeps_serviceProcessorFailover : Keeps (execServiceProcessorFailover s) := .next h.frame

theorem keeps_scrub {p : BadPlace} {b : Bool} : Keeps (execScrub p b s) := by
  refine keeps_event h ?_
  cases p with
  | sram =>
    dsimp only
    split
    · exact h.frame
    · exact h
  | line => exact h.modTile
  | summary =>
    dsimp only
    split
    · exact h.modTile
    · exact h
  | parity =>
    dsimp only
    split
    · exact h.post
    · exact h

theorem keeps_poleGranuleTransfer {r : Nat} {e : Option PoleEvent} : Keeps (execPoleGranuleTransfer r e s) := by
  unfold execPoleGranuleTransfer
  split
  · exact .next h
  · exact keeps_event h h.modTile
  · exact keeps_event h h.modTile

theorem keeps_eccWriteback {r : Nat} {o : BitVec 25} {e : CellEvent} : Keeps (execEccWriteback r o e s) := by
  unfold execEccWriteback
  extract_lets off
  cases e with
  | writeback => exact keeps_event h h.modTile
  | flip => exact keeps_event h h.modTile

theorem keeps_rowRemap {r : Nat} {b : BitVec 4} {w : BitVec 10} : Keeps (execRowRemap r b w s) := by
  unfold execRowRemap
  extract_lets f k
  exact keeps_event h h.modTile

theorem keeps_rowRemapDone {r : Nat} {b : BitVec 4} : Keeps (execRowRemapDone r b s) := by
  unfold execRowRemapDone
  split
  · exact .next h
  · exact .next (State.Canonical.storesGoOn h.modTile)

theorem keeps_secondTierTimeout {r n : Nat} : Keeps (execSecondTierTimeout r n s) := by
  unfold execSecondTierTimeout
  split
  · exact .next h.modTile
  · split
    · exact keeps_event h h.takeMsg.failAtPort
    · exact .next h

theorem keeps_secondTierLinkDown {p : Nat} : Keeps (execSecondTierLinkDown p s) := keeps_event h h.frame

theorem keeps_translationWalk {r : Nat} {va : BitVec 54} : Keeps (execTranslationWalk r va s) := by
  unfold execTranslationWalk
  split
  · exact .next h
  · extract_lets root
    refine keeps_event h ?_
    extract_lets found u
    have hu : u.Canonical := h.walkRead
    clear_value found u
    split
    · exact State.Canonical.modTile hu.modField
    · exact hu.postBadEntry
    · exact hu

theorem keeps_powerDown : Keeps (execPowerDown s) := .next h

end Sys2Proof.Machine
end


section
/-! # Canonical stores: channels, control, engines, the host edge, margins, messages -/

-- Checked one after another: side by side, the stacks of the threads pass the memory that the check allows.
set_option Elab.async false

namespace Sys2Proof.Machine

variable {s : State} {r : Nat} {i : CtxId}

/-! ## Channels and control -/

theorem EndsIn.ite {p : Prop} [Decidable p] {a b : Except Exit Flow} (ha : EndsIn a) (hb : EndsIn b) : EndsIn (if p then a else b) := by
  split
  · exact ha
  · exact hb

theorem queueWords_ends (h : s.Canonical) {x : QReg} {n : Nat} : Ends (fun _ => True) (s.queueWords x n) := by
  unfold State.queueWords
  extract_lets undeclared
  split
  · trivial
  · dsimp only
    split
    · split
      · exact h
      · trivial
    · trivial

theorem State.Canonical.noteRemoval (h : s.Canonical) {w : Token} : (s.noteRemoval w).Canonical := by
  unfold State.noteRemoval
  split
  · exact h
  · extract_lets n u
    have hu : u.Canonical := h.frame
    exact hu.modCtx

theorem State.Canonical.ite {p : Prop} [Decidable p] {t u : State} (ht : t.Canonical) (hu : u.Canonical) :
    (if p then t else u).Canonical := by
  split
  · exact ht
  · exact hu

theorem endsIn_takeTarget (h : s.Canonical) {t : Int} : EndsIn (takeTarget t s) := by
  unfold takeTarget
  split
  · exact .trap
  · exact .jump h

theorem endsIn_registerTarget (h : s.Canonical) {t : Word} : EndsIn (registerTarget t s) := by
  unfold registerTarget
  split
  · exact .trap
  · exact .jump h

section
variable (h : s.Canonical)
include h

theorem keeps_peekOp {x : QReg} {put : Ctx → Token → Ctx} : Keeps (peekOp x put s) := by
  refine keeps_runGroup h ((queueWords_ends h).bind fun q _ => ?_)
  split
  · exact EndsIn.on h.modCtx
  · exact EndsIn.on h

theorem keeps_recvOp {x : QReg} {n : Nat} {put : Ctx → List Token → Ctx} : Keeps (recvOp x n put s) := by
  refine keeps_runGroup h ((queueWords_ends h).bind fun q _ => ?_)
  extract_lets ws u v
  have hu : u.Canonical := h.modTile fun t => by simp [Tile.SameStores]
  have hv : v.Canonical := hu.modCtx
  exact EndsIn.on (hv.foldl (fun _ h => h.noteRemoval) _).settle

theorem keeps_sendOp {o : OReg} {words : State → List Token} : Keeps (sendOp o words s) := by
  refine keeps_runGroup h ?_
  split
  · exact .refuse
  · extract_lets p ws u
    split
    · exact .refuse
    · split
      · exact .wait h
      · split
        · exact .wait h
        · refine .on (State.Canonical.settle (h.modTile fun t => ?_))
          simp [Tile.SameStores]

theorem keeps_branch {taken : Ctx → Bool} {imm : BitVec 64} : Keeps (branch taken imm s) := by
  refine keeps_runGroup h ?_
  split
  · exact endsIn_takeTarget h
  · exact .on h

theorem keeps_j {imm : BitVec 64} : Keeps (execJ imm s) := keeps_runGroup h (endsIn_takeTarget h)

theorem keeps_jal {imm : BitVec 64} : Keeps (execJal imm s) := keeps_runGroup h (endsIn_takeTarget h.modCtx)

theorem keeps_jr {x : GReg} : Keeps (execJr x s) := keeps_runGroup h (endsIn_registerTarget h)

theorem keeps_jalr {d x : GReg} : Keeps (execJalr d x s) := keeps_runGroup h (endsIn_registerTarget h.modCtx)

theorem keeps_ret : Keeps (execRet s) := keeps_runGroup h (endsIn_registerTarget h)

theorem keeps_brk : Keeps (execBrk s) := keeps_runGroup h EndsIn.trap

theorem keeps_loop {d : GReg} {len : BitVec 8} : Keeps (execLoop d len s) := by
  refine keeps_runGroup h ?_
  exact .ite .refuse (.ite .refuse (.ite (.skip h) (.on h.modCtx)))

/-! ## Scalar arithmetic, loads and stores -/

theorem keeps_binary {d x y : GReg} {f : Word → Word → Word} : Keeps (binary d x y f s) := keeps_plain h

theorem keeps_unary {d x : GReg} {f : Word → Word} : Keeps (unary d x f s) := keeps_plain h

theorem keeps_cast {d x : AReg} {f : State → Space → Option DWord} : Keeps (cast d x f s) := keeps_plain h

theorem keeps_makePtr {d : AReg} {x : GReg} {b : DWord} {n : Nat} : Keeps (makePtr d x b n s) := keeps_plain h

theorem keeps_aadds {d x : AReg} {y : GReg} : Keeps (execAadds d x y s) := by
  refine keeps_runGroup h ?_
  extract_lets t
  split
  · exact .trap
  · exact .on h.modCtx

theorem keeps_floatOp {d : GReg} {f : Ctx → FRes} {skip : Ctx → Bool} : Keeps (floatOp d f skip s) :=
  keeps_runGroup h (EndsIn.on h.modCtx.countSkip.unchecked)

theorem keeps_float2 {d x y : GReg} {f : ArithMode → Nat → Nat → FRes} : Keeps (float2 d x y f s) := keeps_floatOp h

theorem keeps_floatCompare {d x y : GReg} {k : FCmp} : Keeps (floatCompare d x y k s) := keeps_floatOp h

theorem keeps_float1 {d x : GReg} {f : ArithMode → Nat → FRes} : Keeps (float1 d x f s) := keeps_floatOp h

theorem keeps_fcvtbs {d x : GReg} : Keeps (execFcvtbs d x s) := keeps_runGroup h (EndsIn.on h.modCtx)

theorem keeps_loadOp {x : AReg} {imm : BitVec 64} {n : Nat} {put : Ctx → BitVec 128 → Ctx} : Keeps (loadOp x imm n put s) :=
  keeps_runGroup h (h.load.bind fun _ he => EndsIn.on (State.Canonical.modCtx he))

theorem keeps_storeOp {x : AReg} {imm : BitVec 64} {n : Nat} {value : Ctx → BitVec 128} : Keeps (storeOp x imm n value s) :=
  keeps_runGroup h (h.storeTo.bind fun _ he => EndsIn.on he)

end

/-! ## The copy engine and rings -/

theorem ringAt_ends (o : Nat) : Ends (fun _ => True) (s.ringAt o) := by
  unfold State.ringAt
  refine State.Canonical.scratchOffset.bind fun _ _ => ?_
  split <;> trivial

namespace State.Canonical

theorem modCopy (h : s.Canonical) {f : CopyEngine → CopyEngine} : (s.modCopy r f).Canonical := h.modTile

theorem modHead (h : s.Canonical) {f : CopyCmd → CopyCmd} : (s.modHead r f).Canonical := h.modTile

theorem copyStop (h : s.Canonical) {b : Byte} {v : DWord} : (s.copyStop r b v).Canonical := by
  unfold State.copyStop
  extract_lets u
  have hu : u.Canonical := by
    unfold u
    split
    · exact h.post
    · exact h
  exact hu.modCopy

theorem copyWalked (h : s.Canonical) {u : Purpose} {ea : DWord} {b : Byte} : (s.copyWalked r u ea b).Canonical := by
  unfold State.copyWalked
  split
  · exact h.targetRead
  · exact h

theorem copyRead (h : s.Canonical) {es : DWord} {t : Target} {n : Nat} {seen : Mem} : FstCanonical (s.copyRead r es t n seen) := by
  unfold State.copyRead
  extract_lets met u st
  have hu : u.Canonical := h.modCopy
  have hst : st.1.Canonical := hu.stampRead
  exact .mk hst.modCopy

theorem copyWrite (h : s.Canonical) {ed : DWord} {t : Target} {bytes : List Byte} : (s.copyWrite r ed t bytes).Canonical := by
  simp only [State.copyWrite]
  refine State.Canonical.modCopy ?_
  split
  · exact h.writeShadow
  · exact foldl_pair (e := (s, (s.tile r).copy.pts)) (.of h) (fun he => .of he.performWrite) _

theorem copyElement (h : s.Canonical) {k : CopyCmd} : (s.copyElement r k).Canonical := by
  unfold State.copyElement
  extract_lets size es ed
  split
  · exact h
  · split
    · exact h.copyWalked.copyStop
    · split
      · exact h.copyWalked.copyStop
      · split
        · exact h.copyStop
        · split
          · exact h
          · extract_lets e d
            have he : e.1.Canonical := h.readSeen
            have hd : d.1.Canonical := he.copyRead
            split
            · exact h.failPort.copyStop
            · split
              · exact he.copyStop
              · exact hd.copyWrite.modHead

theorem copySignal (h : s.Canonical) {m : SemReg} : (s.copySignal r m).Canonical := by
  unfold State.copySignal
  extract_lets known
  split
  · exact State.Canonical.modCopy h.modTile
  · exact h.modHead.copyStop

end State.Canonical

section
variable (h : s.Canonical)
include h

theorem keeps_issueCopy {x : AReg} {y : GReg} {dst : State → DWord} {ring : State → Except Exit (Option RingRef)}
    (hr : Ends (fun _ => True) (ring s)) : Keeps (issueCopy x y dst ring s) := by
  refine keeps_runGroup h ?_
  extract_lets o desc issue
  have hi (u : Unit) : EndsIn (issue u) := by
    refine hr.bind fun g _ => ?_
    dsimp only
    split
    · exact EndsIn.wait h
    · exact EndsIn.on (State.Canonical.numbered h.modTile)
  exact State.Canonical.scratchOffset.bind fun _ _ => EndsIn.ite .refuse (hi ())

theorem keeps_cpyw {x : GReg} : Keeps (execCpyw x s) := by
  refine keeps_runGroup h ?_
  split
  · exact .wait h
  · exact .on h.modCtx

theorem keeps_cpys {d x : GReg} : Keeps (execCpys d x s) := by
  refine keeps_runGroup h ?_
  extract_lets n
  split
  · exact .refuse
  · exact .on h.modCtx

theorem keeps_cpyx {x : GReg} : Keeps (cpyx x s) := by
  refine keeps_runGroup h ?_
  extract_lets a
  split
  · exact .refuse
  · exact .on h.modTile

theorem keeps_ringb {d x : GReg} : Keeps (execRingb d x s) := by
  refine keeps_runGroup h ((ringAt_ends _).bind fun g _ => ?_)
  dsimp only
  split
  · exact EndsIn.wait h
  · exact EndsIn.on (State.Canonical.modCtx (State.Canonical.store h.modTile))

theorem keeps_ringq {d x : GReg} : Keeps (execRingq d x s) :=
  keeps_runGroup h ((ringAt_ends _).bind fun _ _ => EndsIn.on h.modCtx)

theorem keeps_copyElement : Keeps (execCopyElement r s) := by
  unfold execCopyElement
  split
  · exact .next h
  · exact keeps_event h h.copyElement

theorem keeps_cpyrSlotTake : Keeps (execCpyrSlotTake r s) := by
  unfold execCpyrSlotTake
  split
  · exact .next h
  · split
    · exact .next h
    · extract_lets m
      refine keeps_event h ?_
      extract_lets key
      split
      · exact h.copyStop
      · exact (State.Canonical.modCopy h.modTile).modHead

theorem keeps_copyCommandComplete : Keeps (execCopyCommandComplete r s) := by
  unfold execCopyCommandComplete
  split
  · exact .next h
  · refine keeps_event h ?_
    split
    · split
      · exact h.copySignal
      · exact h.modCopy
    · extract_lets key wix
      split
      · exact h.copySignal
      · split
        · exact h.copyStop
        · exact h.store.copySignal

theorem keeps_copyFaultTrap : Keeps (execCopyFaultTrap r s) := by
  unfold execCopyFaultTrap
  extract_lets t
  split
  · exact .next h
  · extract_lets taken
    split
    · exact keeps_event h h.modCopy.withdraw.trap
    · exact keeps_event h h.modCopy.trap
    · exact keeps_event h h.modCopy.trap
    · exact .next h

end

/-! ## The host edge -/

namespace State.Canonical

variable {id : PitchId}

theorem toStream (h : s.Canonical) {k : Nat} {ws : List (Option Nat × Token)} : (s.toStream id k ws).Canonical := h.modPitch

theorem takeToken (h : s.Canonical) {q : Nat} {w : Token} : (s.takeToken q w).Canonical := by
  unfold State.takeToken
  extract_lets k u
  have hu : u.Canonical := by
    refine State.Canonical.modQueue ?_
    split
    · exact h.unbind
    · exact h
  split
  · exact h
  · exact h.queueErr
  · exact h.queueErr
  · split
    · exact h.queueErr
    · split
      · exact h.queueErr
      · split
        · exact h.unbind.modQueue
        · split
          · exact hu.toStream
          · exact hu

theorem writeTokens (h : s.Canonical) {q off : Nat} {bs : List Byte} : (s.writeTokens q off bs).Canonical := by
  unfold State.writeTokens
  split
  · exact h.foldl (fun _ h => h.takeToken) _
  · exact h.queueErr

theorem bindQueue (h : s.Canonical) {q k : Nat} {rd : BitVec 512} : (s.bindQueue q id k rd).Canonical := by
  unfold State.bindQueue
  extract_lets early closed u
  have hu : u.Canonical := h.modPitch
  exact hu.modQueue

theorem addPitch (h : s.Canonical) {im : Image} {a b : Nat} : (s.addPitch im a b).1.Canonical := by
  unfold State.addPitch
  exact h.frame

theorem queueBehind (h : s.Canonical) {p q : Pitch} {keep : Bool} : (s.queueBehind p q keep).Canonical := by
  unfold State.queueBehind
  split
  · extract_lets q' u
    have hu : u.Canonical := State.Canonical.modPitch (h.getD fun t ht => h.balance ht)
    exact hu.modPitch
  · exact h.modPitch

theorem startRecord (h : s.Canonical) {q : Nat} {rd : BitVec 512} {im : Image} : (s.startRecord q rd im).Canonical := by
  unfold State.startRecord
  extract_lets base im' u e src v
  have hu : u.Canonical := h.frame
  have he : e.1.Canonical := hu.addPitch
  have hv : v.Canonical := he.frame
  refine .ite h.queueErr <| .ite h.queueErr <| .ite hv.bindQueue ?_
  split
  · exact hu.queueErr
  · exact he.queueBehind.bindQueue

theorem takeLaunch (h : s.Canonical) {q : Nat} {rd : BitVec 512} : (s.takeLaunch q rd).Canonical := by
  unfold State.takeLaunch
  split
  · exact h.queueErr
  · split
    · exact h.queueErr
    · split
      · exact h.startRecord
      · exact h.modQueue

theorem overtakeEnd (h : s.Canonical) {k : Nat} : (s.overtakeEnd id k).Canonical := by
  unfold State.overtakeEnd
  split
  · exact h
  · exact State.Canonical.foldl h.modPitch (fun _ h => h.leaveEdge) _

theorem takeJoin (h : s.Canonical) {q : Nat} {rd : BitVec 512} : (s.takeJoin q rd).Canonical := by
  unfold State.takeJoin
  split
  · exact h.queueErr
  · split
    · exact h.queueErr
    · exact h.overtakeEnd.bindQueue

theorem writeRecord (h : s.Canonical) {q : Nat} {rd : BitVec 512} : (s.writeRecord q rd).Canonical := by
  unfold State.writeRecord
  split
  · split
    · exact h.queueErr
    · split
      · exact h.takeJoin
      · exact h.takeLaunch
  · exact h
  · exact h.writeTokens

theorem failPitch (h : s.Canonical) : (s.failPitch id).Canonical := h.killPitch.modPitch

theorem emit (h : s.Canonical) {k : Nat} {e : Egress} {w : Token} {b : Bool} {use : State → State}
    (hu : ∀ {t : State}, t.Canonical → (use t).Canonical) : (s.emit id k e w b use).Canonical := by
  unfold State.emit
  extract_lets put crc u
  have hp : u.Canonical := h.modPitch
  split
  · split
    · exact hp.failPitch
    · exact hp
  · exact hu h.modPitch

theorem replyToken (h : s.Canonical) {q : Nat} {w : Token} : (s.replyToken q w).Canonical := by
  unfold State.replyToken
  extract_lets k
  split
  · split
    · exact h.queueErr
    · exact h.toStream
  · split
    · exact h.modQueue
    · exact h

theorem writeTset (h : s.Canonical) {w : DWord} : (s.writeTset w).Canonical := by
  unfold State.writeTset
  split
  · exact h.frame
  · exact h

theorem autoSwitch (h : s.Canonical) : s.autoSwitch.Canonical := by
  unfold State.autoSwitch
  split
  · exact h.frame
  · exact h

theorem writeRoute (h : s.Canonical) {b : Bool} {dst : BitVec 8} {w : Half} : (s.writeRoute b dst w).Canonical := by
  unfold State.writeRoute
  split
  · dsimp only
    split
    · exact h.frame
    · exact h.frame
  · exact h

theorem modLink (h : s.Canonical) {p : Nat} {f : Link → Link} : (s.modLink p f).Canonical := h.frame

theorem clearStale (h : s.Canonical) {off size : Nat} : (s.clearStale off size).Canonical := by
  refine h.foldl (fun j h => ?_) _
  dsimp only
  split
  · exact h.modLink
  · exact h

theorem writeRoutes (h : s.Canonical) {b : Bool} {off size : Nat} {w : DWord} : (s.writeRoutes b off size w).Canonical :=
  h.foldl (fun _ h => h.writeRoute) _

theorem writeBar0 (h : s.Canonical) {off size : Nat} {w : DWord} : (s.writeBar0 off size w).Canonical := by
  unfold State.writeBar0
  extract_lets put base v n
  exact .ite h.frame <| .ite h.writeTset <| .ite (State.Canonical.autoSwitch h.frame) <| .ite (State.Canonical.autoSwitch h.frame) <|
    .ite h.writeRoutes <| .ite h.writeRoutes <| .ite h.frame <| .ite (.ite h.modQueue h) <| .ite (.ite h.frame (.ite h.frame h)) <|
    .ite h.frame h

end State.Canonical

section
variable (h : s.Canonical)
include h

theorem keeps_writeRecord {q : Nat} {b : Bool} {rd : BitVec 512} : Keeps (event s b fun s => s.writeRecord q rd) :=
  keeps_event h h.writeRecord

theorem keeps_ingressToken {q : Nat} {w : WindowWrite} : Keeps (execIngressToken q w s) := by
  refine keeps_event h ?_
  split
  · exact h
  · split
    · exact h.writeRecord
    · exact h.queueErr
  · exact h.writeTokens

theorem keeps_ingressQueueErrClear {q : Nat} {w : Word} : Keeps (execIngressQueueErrClear q w s) := keeps_event h h.modQueue

theorem keeps_imageFetched {q : Nat} {im : Image} : Keeps (execImageFetched q im s) := by
  unfold execImageFetched
  split
  · exact .next h
  · exact .next h.startRecord

theorem keeps_egressRingWrite {id : PitchId} {k : Nat} : Keeps (execEgressRingWrite id k s) := by
  unfold execEgressRingWrite
  split
  · exact .next h
  · extract_lets ring
    refine keeps_event h (h.emit fun ht => ?_)
    dsimp only
    refine State.mem_canonical (State.Canonical.modPitch ht) ?_
    exact Mem.wf_putBytes _ _ _ ht.1

theorem keeps_egressAtomicop {id : PitchId} {k : Nat} : Keeps (execEgressAtomicop id k s) := by
  unfold execEgressAtomicop
  split
  · exact .next h
  · exact keeps_event h (h.emit fun ht => ht.modPitch)

theorem keeps_atomicopCompletion {id : PitchId} {k : Nat} {old : DWord} {b : Bool} : Keeps (execAtomicopCompletion id k old b s) := by
  unfold execAtomicopCompletion
  split
  · exact .next h
  · split
    · exact .next h
    · extract_lets portal u
      have hu : u.Canonical := h.modPitch
      split
      · exact .next hu.queueErr.failPitch
      · exact .next (State.Canonical.replyToken (u.mem_canonical hu (Mem.wf_write _ _ _ _ hu.1)))

theorem keeps_tsetWrite {w : DWord} : Keeps (execTsetWrite w s) := .next h.writeTset

theorem keeps_topoWrite {w : DWord} : Keeps (execTopoWrite w s) :=
  .next (State.Canonical.autoSwitch (h.frame : ({ s with topo := topoWritten s.topo w } : State).Canonical))

theorem keeps_topologySwitch : Keeps (execTopologySwitch s) := keeps_event h h.frame

theorem keeps_routeBankWrite {b : Bool} {dst : BitVec 8} {w : BitVec 16} : Keeps (execRouteBankWrite b dst w s) := .next h.writeRoute

theorem keeps_attestationRequest {n : BitVec 256} : Keeps (execAttestationRequest n s) := .next h.frame

theorem keeps_attestationReportReady : Keeps (execAttestationReportReady s) := keeps_event h h.frame

theorem keeps_staleCounterRead {a : BarAccess} : Keeps (execStaleCounterRead a s) := by
  unfold execStaleCounterRead
  extract_lets off size
  refine keeps_event h ?_
  extract_lets v data u
  have hu : u.Canonical := by
    unfold u
    split
    · exact h.frame
    · exact h
  exact State.Canonical.frame hu.clearStale

theorem keeps_registerWrite {p : RegPlace} {w : DWord} : Keeps (execRegisterWrite r i p w s) := by
  cases p with
  | kreg n => exact .next h.kwrite
  | bar0 a => exact keeps_event (f := fun s => s.writeBar0 a.off a.size w) h h.writeBar0

end

/-! ## Margins -/

namespace State.Canonical

theorem stretched (h : s.Canonical) {b : Bool} : (s.stretched r i b).Canonical := by
  unfold State.stretched
  extract_lets t n u v value w
  have hu : u.Canonical := h.modTile
  have hv : v.Canonical := hu.modTile
  split
  · exact hu
  · split
    · exact hu.modTile
    · split
      · exact hv
      · split
        · exact hv.post
        · exact hv.modCtx

theorem reissue (h : s.Canonical) {k : Nat} : (s.reissue r i k).Canonical := State.Canonical.modCtx h.modTile

end State.Canonical

section
variable (h : s.Canonical)
include h

theorem keeps_lateTransition {p : LatePlace} : Keeps (execLateTransition r i p s) := by
  unfold execLateTransition
  extract_lets t x lim done
  have hd {u : State} {k : Nat} {j : CtxId} {b : Bool} (hu : u.Canonical) : (done u k j b).Canonical := by
    unfold done
    split
    · exact hu.stretched
    · exact hu
  cases p with
  | group =>
    dsimp only
    split
    · exact .next (hd h.reissue)
    · exact .next h
  | matrix n =>
    dsimp only
    split
    · exact .next (hd h.modTile)
    · exact .next h
  | summary n =>
    dsimp only
    split
    · exact .next (hd (State.Canonical.modCtx h.modTile))
    · exact .next h

theorem keeps_escalationWindowEnd : Keeps (execEscalationWindowEnd r s) := keeps_event h h.modTile

theorem keeps_marginStepSettle : Keeps (execMarginStepSettle r s) := .next h.modTile

theorem keeps_throttleWindowEnd {b : Bool} : Keeps (execThrottleWindowEnd r b s) := keeps_event h h.modTile

theorem keeps_temperatureRefresh : Keeps (execTemperatureRefresh s) := keeps_event h h.frame

end

/-! ## Messages -/

namespace State.Canonical

theorem sendUser (h : s.Canonical) {m : UserMsg} : (s.sendUser m).Canonical := by
  unfold State.sendUser
  extract_lets to' k u nack
  have hu : u.Canonical := h.frame
  split
  · split
    · exact hu.modTile
    · exact State.Canonical.modTile (hu.modTile fun t => t.arrive_stores _)
  · split
    · exact hu.modTile
    · refine State.Canonical.modTile ?_
      exact hu.sendPacket.frame

theorem invalidKind (h : s.Canonical) {m : UserMsg} : (s.invalidKind r m).Canonical := h.post

theorem reply (h : s.Canonical) {m : CurrentMsg} {w : Word} : (s.reply m w).Canonical := by
  unfold State.reply
  refine State.Canonical.modTile ?_
  split
  · exact h.answerMsg
  · exact h

theorem postNack (h : s.Canonical) {m : UserMsg} {d : Byte} : (s.postNack r m d).Canonical := h.modCtx.post

theorem serveBarr (h : s.Canonical) {q : Req} : (serveBarr r s q).Canonical := by
  unfold Machine.serveBarr
  extract_lets w
  split
  · exact h.modTile
  · exact h.modTile

end State.Canonical

section
variable (h : s.Canonical)
include h

theorem keeps_amsg {d : GReg} {x : AReg} {y : GReg} : Keeps (execAmsg d x y s) := by
  refine keeps_runGroup h ?_
  extract_lets c w a k
  split
  · exact .refuse
  · split
    · exact .refuse
    · split
      · exact .refuse
      · split
        · exact .refuse
        · split
          · exact h.atomicOn
          · split
            · exact .wait h
            · exact .on h.modCtx
            · exact .trap
            · split
              · exact .wait h
              · split
                · exact .on h.sendUser.modCtx
                · exact .wait h.sendUser.modCtx

theorem keeps_userMessageStart {n : Nat} : Keeps (execUserMessageStart r n s) := by
  unfold execUserMessageStart
  extract_lets t
  split
  · split
    · exact .next h.takeMsg.nackUser
    · split
      · exact .next h.takeMsg.nackUser
      · split
        · exact .next h.takeMsg.invalidKind.nackUser
        · refine keeps_event h (h.modTile fun t => ?_)
          exact (t.leaveInbox_stores n).trans ⟨rfl, rfl, rfl⟩
  · exact .next h

theorem keeps_mrpl {x : GReg} : Keeps (execMrpl x s) := by
  refine keeps_runGroup h ?_
  split
  · exact .refuse
  · split
    · exact .refuse
    · split
      · exact .wait h
      · exact .on h.reply

theorem keeps_mhend {x : GReg} : Keeps (execMhend x s) := by
  refine keeps_runGroup h ?_
  split
  · exact .refuse
  · split
    · exact .wait h
    · exact .leave h.endMessage

theorem keeps_messageReply : Keeps (execMessageReply r i s) := by
  unfold execMessageReply
  split
  · exact .next h
  · refine keeps_event h ?_
    extract_lets u x
    have hu : u.Canonical := h.modTile
    split
    · exact hu.modCtx.next
    · exact hu

theorem keeps_messageNack {n : Nat} : Keeps (execMessageNack r n s) := by
  unfold execMessageNack
  split
  · exact .next h
  · refine keeps_event h ?_
    extract_lets u
    have hu : u.Canonical := h.modTile
    split
    · extract_lets x
      split
      · exact hu.postNack
      · split
        · exact hu.modCtx.next
        · exact hu
    · exact hu.post

theorem keeps_barr {n : Nat} : Keeps (execBarr r n s) := keeps_serve h fun h => h.serveBarr

end

end Sys2Proof.Machine
end


section
/-! # Canonical stores: links, vector memory, clocks -/

-- Checked one after another: side by side, the stacks of the threads pass the memory that the check allows.
set_option Elab.async false

namespace Sys2Proof.Machine

variable {s : State} {r : Nat} {i : CtxId}

/-! ## Links and packets -/

namespace State.Canonical

theorem postNamed (h : s.Canonical) {o : Option Nat} {a b c : Nat} {ids : List PitchId} : (s.postNamed o a b c ids).Canonical :=
  h.foldl (fun _ h => h.modField) _

theorem loseModules (h : s.Canonical) {far : Nat → Bool} {hit : Plan → Bool} : (s.loseModules far hit).Canonical := by
  unfold State.loseModules
  extract_lets own u lost v
  have hu : u.Canonical := h.foldl (fun _ h => h.failPlans.modPitch) _
  have hv : v.Canonical := hu.frame
  exact hv.foldl (fun _ h => h.countDone.modTile) _

theorem messageCame (h : s.Canonical) {m : UserMsg} {n : Nat} : (s.messageCame m n).Canonical := by
  unfold State.messageCame
  extract_lets u
  have hu : u.Canonical := h.modTile fun t => t.arrive_stores _
  exact .ite h.nackUser (.ite hu.modTile hu)

theorem answered (h : s.Canonical) {m : UserMsg} : (s.answered m).Canonical :=
  State.Canonical.countDone (h.frame : ({ s with abroad := s.abroad.erase m } : State).Canonical)

theorem rejected (h : s.Canonical) {a b : Nat} {body : PacketBody} : (s.rejected a b body).Canonical := by
  unfold State.rejected
  extract_lets stale
  have hs (c : Nat) (k : PlanKey) : (stale c k).Canonical := by
    refine State.Canonical.sendPacket ?_
    split
    · exact h.failPlan
    · exact h
  cases body with
  | message => exact h.nackUser
  | partialSum | delivery => exact hs _ _
  | plan => exact h.sendPacket
  | _ => exact h

theorem accepted (h : s.Canonical) {a b : Nat} {v : Half} {body : PacketBody} : (s.accepted a b v body).Canonical := by
  cases body with
  | message => exact h.messageCame
  | reply =>
    simp only [State.accepted]
    split
    · exact h
    · exact .ite h.answered.modTile h.answered.modCtx
  | nack =>
    simp only [State.accepted]
    split
    · exact h
    · exact h.answered.modTile
  | partialSum => exact h.partialCame
  | delivery => exact h.deliveryCame
  | planNack => exact h.planNacked
  | homeNack => exact h.homeNacked
  | plan => exact h.told
  | beacon => exact h.modLink

theorem forward (h : s.Canonical) {p : Packet} : (s.forward p).Canonical := by
  unfold State.forward
  split
  · exact h.modLink
  · exact h

theorem packetCame (h : s.Canonical) {n : Nat} {p : Packet} : (s.packetCame n p).Canonical := by
  unfold State.packetCame
  extract_lets u
  have hu : u.Canonical := h.frame
  exact .ite hu.modLink.rejected (.ite hu.accepted hu.forward)

end State.Canonical

section
variable (h : s.Canonical)
include h

theorem keeps_linkEvent {p : Nat} {st : LinkState} {f : Link → Link} : Keeps (linkEvent p st f s) := keeps_event h h.modLink

theorem keeps_lightDetected {p : Nat} : Keeps (execLightDetected p s) := keeps_event h h.frame

theorem keeps_calibration {p n : Nat} {o : Option DWord} : Keeps (execCalibration p n o s) := by
  refine keeps_event h ?_
  extract_lets u
  have hu : u.Canonical := h.frame
  split
  · exact .ite hu (State.Canonical.autoSwitch hu.frame)
  · exact hu

theorem keeps_retrainTimeout {p : Nat} : Keeps (execRetrainTimeout p s) :=
  keeps_event h (State.Canonical.loseModules h.modLink).postNamed

theorem keeps_moduleTimeout {m : Nat} : Keeps (execModuleTimeout m s) :=
  keeps_event h (State.Canonical.loseModules h.frame).postNamed

theorem keeps_podMemberTimeout {m : Nat} : Keeps (execPodMemberTimeout m s) := keeps_event h h.frame

theorem keeps_speoshPacketReceive {p : Nat} {f : Flit} : Keeps (execSpeoshPacketReceive p f s) :=
  keeps_event h (.ite h.modLink.packetCame h.modLink)

end

/-! ## Vector loads and stores -/

theorem laneOffset_ends (ea : DWord) : Ends (fun _ => True) (laneOffset ea) := by
  unfold laneOffset
  split
  · split
    · trivial
    · split <;> trivial
  · trivial

section
variable (h : s.Canonical)
include h

theorem keeps_loadLanes {p : PReg} {d : VReg} {x : AReg} {imm : BitVec 64} {n : Nat} : Keeps (loadLanes p d x imm n s) :=
  keeps_runGroup h <| .ite (.on h) <| h.target.bind fun _ _ => (h.readPieces _).bind fun _ hr => EndsIn.on (State.Canonical.modCtx hr)

theorem keeps_storeLanes {p : PReg} {d : VReg} {x : AReg} {imm : BitVec 64} {n : Nat} : Keeps (storeLanes p d x imm n s) :=
  keeps_runGroup h <| .ite (.on h) <| h.target.bind fun _ _ => (h.writePieces _).bind fun _ hr => EndsIn.on hr

theorem keeps_vldb {t : EType} {p : PReg} {d : VReg} {x : AReg} {imm : BitVec 64} : Keeps (execVldb t p d x imm s) :=
  keeps_runGroup h <| .ite (.on h) <| h.target.bind fun _ _ => (h.readPieces _).bind fun _ hr => EndsIn.on (State.Canonical.modCtx hr)

theorem elemTarget_ends {u : Purpose} {n e : Nat} {b : Bool} {ea : DWord} : Ends (fun _ => True) (s.elemTarget u n b e ea) := by
  unfold State.elemTarget
  split
  · trivial
  · have ht := h.target (u := u) (ea := ea) (n := n)
    split
    · trivial
    · rename_i e; rw [e] at ht; exact ht
    · exact ht

theorem elemTargets_ends {u : Purpose} {n : Nat} {skew : Nat → Bool} {l : List (Nat × DWord)} {e : Exit}
    (he : (s.elemTargets u n skew l).2 = some e) : e.Canonical := by
  induction l with
  | nil => cases he
  | cons a l ih =>
    have ht := elemTarget_ends h (u := u) (n := n) (e := a.1) (b := skew a.1) (ea := a.2)
    unfold State.elemTargets at he
    split at he
    case h_1 x hx => rw [hx] at ht; cases he; exact ht
    case h_2 => exact ih he

theorem loadElems_ends {n : Nat} {skew : Nat → Bool} {l : List (Nat × DWord)} :
    Ends (fun e => e.1.Canonical) (s.loadElems n skew l) := by
  unfold State.loadElems
  extract_lets ts blame jp
  have hj (u : Unit) : Ends (fun e => e.1.Canonical) (jp u) := by
    refine (h.readEach (blame := blame) (fun k code => ?_) _).bind fun r hr => ?_
    · unfold blame
      split <;> trivial
    · split
      case h_1 e he => exact elemTargets_ends h he
      case h_2 => exact hr
  split
  · exact h
  · exact hj ()

theorem keeps_elemLoad {w : Nat} {p : PReg} {d : VReg} {addr : Ctx → Nat → DWord} {skew : Ctx → Nat → Bool} :
    Keeps (elemLoad w p d addr skew s) :=
  keeps_runGroup h <| .ite (.on h) <| (loadElems_ends h).bind fun _ hr => EndsIn.on (State.Canonical.modCtx hr)

theorem keeps_elemStore {w : Nat} {p : PReg} {d : VReg} {addr : Ctx → Nat → DWord} {skew : Ctx → Nat → Bool} :
    Keeps (elemStore w p d addr skew s) := by
  refine keeps_runGroup h ?_
  extract_lets c es ts store
  have hs (u : Unit) : EndsIn (store u) := (h.writePieces _).bind fun _ ht => EndsIn.on ht
  refine .ite (.on h) ?_
  split
  case h_1 e he => exact elemTargets_ends h he
  case h_2 => exact hs ()

theorem keeps_vldl {t : EType} {p : PReg} {d : VReg} {x : AReg} {imm : BitVec 64} : Keeps (execVldl t p d x imm s) :=
  keeps_runGroup h <| .ite (.on h) <| (laneOffset_ends _).bind fun _ _ => (h.readPieces _).bind fun _ hr =>
    EndsIn.on (State.Canonical.modCtx hr)

theorem keeps_vstl {t : EType} {p : PReg} {d : VReg} {x : AReg} {imm : BitVec 64} : Keeps (execVstl t p d x imm s) :=
  keeps_runGroup h <| .ite (.on h) <| (laneOffset_ends _).bind fun _ _ => (h.writePieces _).bind fun _ hr => EndsIn.on hr

end

/-! ## Links, tiles and clocks of the module -/

namespace State.Canonical

theorem tileFails (h : s.Canonical) : (s.tileFails r).Canonical :=
  State.Canonical.postNamed (h.modTile fun t => by unfold Tile.nameStrike; split <;> exact ⟨rfl, rfl, rfl⟩)

theorem modClocks (h : s.Canonical) {f : Clock → Clock} : (s.modClocks r f).Canonical := h.foldl (fun _ h => h.modTile) _

theorem outOfClock (h : s.Canonical) : (s.outOfClock r).Canonical := State.Canonical.tileFails h.modTile

end State.Canonical

section
variable (h : s.Canonical)
include h

theorem keeps_meshBeacon {d : BitVec 2} : Keeps (execMeshBeacon r d s) := keeps_event h h.modTile

theorem keeps_meshLinkTimeout {d : BitVec 2} : Keeps (execMeshLinkTimeout r d s) := by
  unfold execMeshLinkTimeout
  split
  · exact .next h
  · exact keeps_event h (State.Canonical.postNamed ((h.foldl (fun _ h => h.failPlans) _).modTile))

theorem keeps_routerTimeout : Keeps (execRouterTimeout r s) := keeps_event h h.tileFails

theorem keeps_fieldManagerTimeout {f : Nat} : Keeps (execFieldManagerTimeout f s) := keeps_event h h.modField.postNamed

theorem keeps_holdAsserted : Keeps (execHoldAsserted r s) := keeps_event h h.modClocks

theorem keeps_clockSourceLoss : Keeps (execClockSourceLoss r s) := by
  unfold execClockSourceLoss
  extract_lets held k
  refine keeps_event h ?_
  extract_lets u
  have hu : u.Canonical := h.modClocks
  split
  · exact hu.modTile
  · exact hu.outOfClock

theorem keeps_clockRealigned : Keeps (execClockRealigned r s) := keeps_event h (State.Canonical.modClocks h.modTile)

theorem keeps_tickEdge {l : List Nat} : Keeps (execTickEdge l s) := by
  unfold execTickEdge
  extract_lets u v
  have hu : u.Canonical := h.foldl (fun _ h => h.modTile) _
  have hv : v.Canonical := by
    unfold v
    split
    · exact hu.frame
    · exact hu.frame
  exact .next hv.autoSwitch

theorem keeps_outOfTime : Keeps (execOutOfTime r s) := keeps_event h h.outOfClock

end

end Sys2Proof.Machine
end

section
/-! # Every step keeps the canonical form -/

-- Checked one after another: side by side, the stacks of the threads pass the memory that the check allows.
set_option Elab.async false

namespace Sys2Proof.Machine

variable {s : State}

theorem keeps_update (h : s.Canonical) {d : GReg} {f : Word → Word} : Keeps (update d f s) := keeps_unary h

theorem keeps_mstat (h : s.Canonical) {d : GReg} : Keeps (execMstat d s) := keeps_runGroup h (EndsIn.on h.modCtx)

theorem keeps_cfls (h : s.Canonical) : Keeps (execCfls s) := keeps_runGroup h (EndsIn.on h.modTile)

theorem keeps_waitt (h : s.Canonical) {x : AReg} : Keeps (execWaitt x s) := keeps_runGroup h (.ite (.wait h) (.on h))

theorem keeps_waitc (h : s.Canonical) {x : AReg} : Keeps (execWaitc x s) := keeps_runGroup h (.ite (.wait h) (.on h))

/-- The table of `exec`, each instruction with the lemma of the shape that it has. -/
theorem keeps_exec (h : s.Canonical) : ∀ i, Keeps (exec i s)
  | .mov d x => (keeps_unary h : Keeps (execMov d x s))
  | .not d x => (keeps_unary h : Keeps (execNot d x s))
  | .neg d x => (keeps_unary h : Keeps (execNeg d x s))
  | .abs d x => (keeps_unary h : Keeps (execAbs d x s))
  | .clz d x => (keeps_unary h : Keeps (execClz d x s))
  | .ctz d x => (keeps_unary h : Keeps (execCtz d x s))
  | .popc d x => (keeps_unary h : Keeps (execPopc d x s))
  | .brev d x => (keeps_unary h : Keeps (execBrev d x s))
  | .sexb d x => (keeps_unary h : Keeps (execSexb d x s))
  | .sexh d x => (keeps_unary h : Keeps (execSexh d x s))
  | .zexb d x => (keeps_unary h : Keeps (execZexb d x s))
  | .zexh d x => (keeps_unary h : Keeps (execZexh d x s))
  | .glo d x => (keeps_plain h : Keeps (execGlo d x s))
  | .ghi d x => (keeps_plain h : Keeps (execGhi d x s))
  | .alo d x => (keeps_plain h : Keeps (execAlo d x s))
  | .ahi d x => (keeps_plain h : Keeps (execAhi d x s))
  | .add d x y => (keeps_binary h : Keeps (execAdd d x y s))
  | .sub d x y => (keeps_binary h : Keeps (execSub d x y s))
  | .and d x y => (keeps_binary h : Keeps (execAnd d x y s))
  | .or d x y => (keeps_binary h : Keeps (execOr d x y s))
  | .xor d x y => (keeps_binary h : Keeps (execXor d x y s))
  | .sll d x y => (keeps_binary h : Keeps (execSll d x y s))
  | .srl d x y => (keeps_binary h : Keeps (execSrl d x y s))
  | .sra d x y => (keeps_binary h : Keeps (execSra d x y s))
  | .mul d x y => (keeps_binary h : Keeps (execMul d x y s))
  | .mulh d x y => (keeps_binary h : Keeps (execMulh d x y s))
  | .mulhu d x y => (keeps_binary h : Keeps (execMulhu d x y s))
  | .ror d x y => (keeps_binary h : Keeps (execRor d x y s))
  | .div d x y => (keeps_binary h : Keeps (execDiv d x y s))
  | .divu d x y => (keeps_binary h : Keeps (execDivu d x y s))
  | .rem d x y => (keeps_binary h : Keeps (execRem d x y s))
  | .remu d x y => (keeps_binary h : Keeps (execRemu d x y s))
  | .slt d x y => (keeps_binary h : Keeps (execSlt d x y s))
  | .sltu d x y => (keeps_binary h : Keeps (execSltu d x y s))
  | .seq d x y => (keeps_binary h : Keeps (execSeq d x y s))
  | .sne d x y => (keeps_binary h : Keeps (execSne d x y s))
  | .min d x y => (keeps_binary h : Keeps (execMin d x y s))
  | .max d x y => (keeps_binary h : Keeps (execMax d x y s))
  | .minu d x y => (keeps_binary h : Keeps (execMinu d x y s))
  | .maxu d x y => (keeps_binary h : Keeps (execMaxu d x y s))
  | .addi d imm => (keeps_update h : Keeps (execAddi d imm s))
  | .li d imm => (keeps_plain h : Keeps (execLi d imm s))
  | .andi d imm => (keeps_update h : Keeps (execAndi d imm s))
  | .ori d imm => (keeps_update h : Keeps (execOri d imm s))
  | .xori d imm => (keeps_update h : Keeps (execXori d imm s))
  | .slli d amount => (keeps_update h : Keeps (execSlli d amount s))
  | .srli d amount => (keeps_update h : Keeps (execSrli d amount s))
  | .srai d amount => (keeps_update h : Keeps (execSrai d amount s))
  | .rori d amount => (keeps_update h : Keeps (execRori d amount s))
  | .beqz x imm => (keeps_branch h : Keeps (execBeqz x imm s))
  | .bnez x imm => (keeps_branch h : Keeps (execBnez x imm s))
  | .bltz x imm => (keeps_branch h : Keeps (execBltz x imm s))
  | .bgez x imm => (keeps_branch h : Keeps (execBgez x imm s))
  | .bgtz x imm => (keeps_branch h : Keeps (execBgtz x imm s))
  | .blez x imm => (keeps_branch h : Keeps (execBlez x imm s))
  | .beq x y imm => (keeps_branch h : Keeps (execBeq x y imm s))
  | .bne x y imm => (keeps_branch h : Keeps (execBne x y imm s))
  | .blt x y imm => (keeps_branch h : Keeps (execBlt x y imm s))
  | .bge x y imm => (keeps_branch h : Keeps (execBge x y imm s))
  | .bltu x y imm => (keeps_branch h : Keeps (execBltu x y imm s))
  | .bgeu x y imm => (keeps_branch h : Keeps (execBgeu x y imm s))
  | .j imm => (keeps_j h : Keeps (execJ imm s))
  | .jal imm => (keeps_jal h : Keeps (execJal imm s))
  | .jr x => (keeps_jr h : Keeps (execJr x s))
  | .jalr d x => (keeps_jalr h : Keeps (execJalr d x s))
  | .ret => (keeps_ret h : Keeps (execRet s))
  | .hend => (keeps_hend h : Keeps (execHend s))
  | .halt => (keeps_halt h : Keeps (execHalt s))
  | .nop => (keeps_plain h : Keeps (execNop s))
  | .brk => (keeps_brk h : Keeps (execBrk s))
  | .loop d len => (keeps_loop h : Keeps (execLoop d len s))
  | .ldb d x imm => (keeps_loadOp h : Keeps (execLdb d x imm s))
  | .ldbu d x imm => (keeps_loadOp h : Keeps (execLdbu d x imm s))
  | .ldh d x imm => (keeps_loadOp h : Keeps (execLdh d x imm s))
  | .ldhu d x imm => (keeps_loadOp h : Keeps (execLdhu d x imm s))
  | .ldw d x imm => (keeps_loadOp h : Keeps (execLdw d x imm s))
  | .lda d x imm => (keeps_loadOp h : Keeps (execLda d x imm s))
  | .stb d x imm => (keeps_storeOp h : Keeps (execStb d x imm s))
  | .sth d x imm => (keeps_storeOp h : Keeps (execSth d x imm s))
  | .stw d x imm => (keeps_storeOp h : Keeps (execStw d x imm s))
  | .sta d x imm => (keeps_storeOp h : Keeps (execSta d x imm s))
  | .aadd d x y => (keeps_plain h : Keeps (execAadd d x y s))
  | .aadds d x y => (keeps_aadds h : Keeps (execAadds d x y s))
  | .asub d x y => (keeps_plain h : Keeps (execAsub d x y s))
  | .aeq d x y => (keeps_plain h : Keeps (execAeq d x y s))
  | .aaddi d imm => (keeps_plain h : Keeps (execAaddi d imm s))
  | .spt d x => (keeps_plain h : Keeps (execSpt d x s))
  | .spcg d x => (keeps_cast h : Keeps (execSpcg d x s))
  | .spcb d x => (keeps_cast h : Keeps (execSpcb d x s))
  | .spcc d x => (keeps_cast h : Keeps (execSpcc d x s))
  | .spcs d x => (keeps_cast h : Keeps (execSpcs d x s))
  | .spcl d x => (keeps_cast h : Keeps (execSpcl d x s))
  | .mks d x => (keeps_makePtr h : Keeps (execMks d x s))
  | .mkc d x => (keeps_makePtr h : Keeps (execMkc d x s))
  | .mkl d x => (keeps_makePtr h : Keeps (execMkl d x s))
  | .amov d x => (keeps_plain h : Keeps (execAmov d x s))
  | .azero d => (keeps_plain h : Keeps (execAzero d s))
  | .fadd d x y => (keeps_float2 h : Keeps (execFadd d x y s))
  | .fsub d x y => (keeps_float2 h : Keeps (execFsub d x y s))
  | .fmul d x y => (keeps_float2 h : Keeps (execFmul d x y s))
  | .ffma d x y => (keeps_floatOp h : Keeps (execFfma d x y s))
  | .fmin d x y => (keeps_float2 h : Keeps (execFmin d x y s))
  | .fmax d x y => (keeps_float2 h : Keeps (execFmax d x y s))
  | .fdiv d x y => (keeps_float2 h : Keeps (execFdiv d x y s))
  | .feq d x y => (keeps_floatCompare h : Keeps (execFeq d x y s))
  | .flt d x y => (keeps_floatCompare h : Keeps (execFlt d x y s))
  | .fle d x y => (keeps_floatCompare h : Keeps (execFle d x y s))
  | .fun d x y => (keeps_floatCompare h : Keeps (execFun d x y s))
  | .fsgn d x y => (keeps_plain h : Keeps (execFsgn d x y s))
  | .fsqrt d x => (keeps_float1 h : Keeps (execFsqrt d x s))
  | .fabs d x => (keeps_plain h : Keeps (execFabs d x s))
  | .fneg d x => (keeps_plain h : Keeps (execFneg d x s))
  | .fclass d x => (keeps_plain h : Keeps (execFclass d x s))
  | .fcvtws d x => (keeps_float1 h : Keeps (execFcvtws d x s))
  | .fcvtus d x => (keeps_float1 h : Keeps (execFcvtus d x s))
  | .fcvtsw d x => (keeps_float1 h : Keeps (execFcvtsw d x s))
  | .fcvtsu d x => (keeps_float1 h : Keeps (execFcvtsu d x s))
  | .fcvtbs d x => (keeps_fcvtbs h : Keeps (execFcvtbs d x s))
  | .fcvtsb d x => (keeps_float1 h : Keeps (execFcvtsb d x s))
  | .fexp2 d x => (keeps_float1 h : Keeps (execFexp2 d x s))
  | .flog2 d x => (keeps_float1 h : Keeps (execFlog2 d x s))
  | .frcp d x => (keeps_float1 h : Keeps (execFrcp d x s))
  | .frsq d x => (keeps_float1 h : Keeps (execFrsq d x s))
  | .vadd t p d x y => (keeps_arithOp h : Keeps (execVadd t p d x y s))
  | .vsub t p d x y => (keeps_arithOp h : Keeps (execVsub t p d x y s))
  | .vmul t p d x y => (keeps_arithOp h : Keeps (execVmul t p d x y s))
  | .vfma t p d x y => (keeps_arithOp h : Keeps (execVfma t p d x y s))
  | .vmin t p d x y => (keeps_arithOp h : Keeps (execVmin t p d x y s))
  | .vmax t p d x y => (keeps_arithOp h : Keeps (execVmax t p d x y s))
  | .vdiv t p d x y => (keeps_arithOp h : Keeps (execVdiv t p d x y s))
  | .vabd t p d x y => (keeps_arithOp h : Keeps (execVabd t p d x y s))
  | .vand p d x y => (keeps_laneOp h : Keeps (execVand p d x y s))
  | .vor p d x y => (keeps_laneOp h : Keeps (execVor p d x y s))
  | .vxor p d x y => (keeps_laneOp h : Keeps (execVxor p d x y s))
  | .vandn p d x y => (keeps_laneOp h : Keeps (execVandn p d x y s))
  | .vshl t p d x y => (keeps_rawOp h : Keeps (execVshl t p d x y s))
  | .vshr t p d x y => (keeps_rawOp h : Keeps (execVshr t p d x y s))
  | .vsra t p d x y => (keeps_rawOp h : Keeps (execVsra t p d x y s))
  | .vmulh t p d x y => (keeps_rawOp h : Keeps (execVmulh t p d x y s))
  | .vceq t p d x y => (keeps_cmpOp h : Keeps (execVceq t p d x y s))
  | .vclt t p d x y => (keeps_cmpOp h : Keeps (execVclt t p d x y s))
  | .vcle t p d x y => (keeps_cmpOp h : Keeps (execVcle t p d x y s))
  | .vcne t p d x y => (keeps_cmpOp h : Keeps (execVcne t p d x y s))
  | .vsel p d x y => (keeps_plain h : Keeps (execVsel p d x y s))
  | .vperm p d x y => (keeps_plain h : Keeps (execVperm p d x y s))
  | .vseg t p d x n => (keeps_vseg h : Keeps (execVseg t p d x n s))
  | .vrot p d x y => (keeps_plain h : Keeps (execVrot p d x y s))
  | .vmov p d x => (keeps_plain h : Keeps (execVmov p d x s))
  | .vneg t p d x => (keeps_vecBits h : Keeps (execVneg t p d x s))
  | .vabs t p d x => (keeps_vecBits h : Keeps (execVabs t p d x s))
  | .vrcp t p d x => (keeps_unaryFloat h : Keeps (execVrcp t p d x s))
  | .vrsq t p d x => (keeps_unaryFloat h : Keeps (execVrsq t p d x s))
  | .vsqrt t p d x => (keeps_unaryFloat h : Keeps (execVsqrt t p d x s))
  | .vexp2 t p d x => (keeps_unaryFloat h : Keeps (execVexp2 t p d x s))
  | .vlog2 t p d x => (keeps_unaryFloat h : Keeps (execVlog2 t p d x s))
  | .vexp t p d x => (keeps_unaryFloat h : Keeps (execVexp t p d x s))
  | .vlog t p d x => (keeps_unaryFloat h : Keeps (execVlog t p d x s))
  | .vtanh t p d x => (keeps_unaryFloat h : Keeps (execVtanh t p d x s))
  | .vsig t p d x => (keeps_unaryFloat h : Keeps (execVsig t p d x s))
  | .vsin t p d x => (keeps_unaryFloat h : Keeps (execVsin t p d x s))
  | .vcos t p d x => (keeps_unaryFloat h : Keeps (execVcos t p d x s))
  | .vflr t p d x => (keeps_unaryFloat h : Keeps (execVflr t p d x s))
  | .vrnd t p d x => (keeps_unaryFloat h : Keeps (execVrnd t p d x s))
  | .vcvt s0 t p d x => (keeps_convertOp h : Keeps (execVcvt s0 t p d x s))
  | .vpk4 t d x => (keeps_packOp h : Keeps (execVpk4 t d x s))
  | .vup4 t d x => (keeps_unpackOp h : Keeps (execVup4 t d x s))
  | .vpkm t d x => (keeps_packOp h : Keeps (execVpkm t d x s))
  | .vupm t d x => (keeps_unpackOp h : Keeps (execVupm t d x s))
  | .vsrb p d x => (keeps_convertOp h : Keeps (execVsrb p d x s))
  | .vbc t p d x => (keeps_vecBits h : Keeps (execVbc t p d x s))
  | .vins p d x lane => (keeps_plain h : Keeps (execVins p d x lane s))
  | .vext d x lane => (keeps_plain h : Keeps (execVext d x lane s))
  | .viota t p d => (keeps_vecBits h : Keeps (execViota t p d s))
  | .vzip t p d x => (keeps_vecBits h : Keeps (execVzip t p d x s))
  | .vuzp t p d x => (keeps_vecBits h : Keeps (execVuzp t p d x s))
  | .vld p d x imm => (keeps_loadLanes h : Keeps (execVld p d x imm s))
  | .vldh p d x imm => (keeps_loadLanes h : Keeps (execVldh p d x imm s))
  | .vlds t p d x imm => (keeps_elemLoad h : Keeps (execVlds t p d x imm s))
  | .vgat t p d x imm => (keeps_elemLoad h : Keeps (execVgat t p d x imm s))
  | .vldl t p d x imm => (keeps_vldl h : Keeps (execVldl t p d x imm s))
  | .vldb t p d x imm => (keeps_vldb h : Keeps (execVldb t p d x imm s))
  | .vst p d x imm => (keeps_storeLanes h : Keeps (execVst p d x imm s))
  | .vsth p d x imm => (keeps_storeLanes h : Keeps (execVsth p d x imm s))
  | .vsts t p d x imm => (keeps_elemStore h : Keeps (execVsts t p d x imm s))
  | .vsct t p d x imm => (keeps_elemStore h : Keeps (execVsct t p d x imm s))
  | .vstl t p d x imm => (keeps_vstl h : Keeps (execVstl t p d x imm s))
  | .pand d x => (keeps_plain h : Keeps (execPand d x s))
  | .por d x => (keeps_plain h : Keeps (execPor d x s))
  | .pxor d x => (keeps_plain h : Keeps (execPxor d x s))
  | .pnot d x => (keeps_plain h : Keeps (execPnot d x s))
  | .pcnt d x => (keeps_plain h : Keeps (execPcnt d x s))
  | .pfst d x => (keeps_plain h : Keeps (execPfst d x s))
  | .plt d x => (keeps_plain h : Keeps (execPlt d x s))
  | .pmov d x => (keeps_plain h : Keeps (execPmov d x s))
  | .vli t p d imm => (keeps_vecBits h : Keeps (execVli t p d imm s))
  | .mma z x y acc bsrc chk => (keeps_issueMma h : Keeps (execMma z x y acc bsrc chk s))
  | .mmag z x y acc bsrc chk => (keeps_issueMma h : Keeps (execMmag z x y acc bsrc chk s))
  | .msh d x => (keeps_msh h : Keeps (execMsh d x s))
  | .mfmt d x => (keeps_mfmt h : Keeps (execMfmt d x s))
  | .mzero x => (keeps_mzero h : Keeps (execMzero x s))
  | .mwait x => (keeps_mwait h : Keeps (execMwait x s))
  | .mstat d => (keeps_mstat h : Keeps (execMstat d s))
  | .mtov p d x => (keeps_mtov h : Keeps (execMtov p d x s))
  | .vtom p d x => (keeps_vtom h : Keeps (execVtom p d x s))
  | .mst k d x imm => (keeps_issueMove h : Keeps (execMst k d x imm s))
  | .mld k d x imm => (keeps_issueMove h : Keeps (execMld k d x imm s))
  | .skinit t d x => (keeps_skinit h : Keeps (execSkinit t d x s))
  | .skseed d x => (keeps_skseed h : Keeps (execSkseed d x s))
  | .skclr d => (keeps_skclr h : Keeps (execSkclr d s))
  | .skcpy d x => (keeps_skcpy h : Keeps (execSkcpy d x s))
  | .skmrg d x => (keeps_skmrg h : Keeps (execSkmrg d x s))
  | .skadd t p d x => (keeps_skadd h : Keeps (execSkadd t p d x s))
  | .skq t d x y => (keeps_query h : Keeps (execSkq t d x y s))
  | .skr t d x y => (keeps_query h : Keeps (execSkr t d x y s))
  | .skhh t d x y => (keeps_query h : Keeps (execSkhh t d x y s))
  | .skhc d x y => (keeps_query h : Keeps (execSkhc d x y s))
  | .skcnt d x => (keeps_query h : Keeps (execSkcnt d x s))
  | .skcnh d x => (keeps_query h : Keeps (execSkcnh d x s))
  | .skdc t d x => (keeps_queryKind h : Keeps (execSkdc t d x s))
  | .skmin t d x => (keeps_query h : Keeps (execSkmin t d x s))
  | .skmax t d x => (keeps_query h : Keeps (execSkmax t d x s))
  | .skmean t d x => (keeps_queryMoment h : Keeps (execSkmean t d x s))
  | .skvar t d x => (keeps_queryMoment h : Keeps (execSkvar t d x s))
  | .sksum t d x => (keeps_queryMoment h : Keeps (execSksum t d x s))
  | .sklse t d x => (keeps_queryKind h : Keeps (execSklse t d x s))
  | .sknan d x => (keeps_query h : Keeps (execSknan d x s))
  | .skld d x imm => (keeps_skld h : Keeps (execSkld d x imm s))
  | .skst d x imm => (keeps_skst h : Keeps (execSkst d x imm s))
  | .skldh d x imm => (keeps_skldh h : Keeps (execSkldh d x imm s))
  | .recv d x => (keeps_recvOp h : Keeps (execRecv d x s))
  | .peek d x => (keeps_peekOp h : Keeps (execPeek d x s))
  | .qcnt d x => (keeps_plain h : Keeps (execQcnt d x s))
  | .qfree d x => (keeps_plain h : Keeps (execQfree d x s))
  | .qtag d x => (keeps_peekOp h : Keeps (execQtag d x s))
  | .qmark d x => (keeps_peekOp h : Keeps (execQmark d x s))
  | .drop x => (keeps_recvOp h : Keeps (execDrop x s))
  | .vrecv d x => (keeps_recvOp h : Keeps (execVrecv d x s))
  | .recva d x => (keeps_recvOp h : Keeps (execRecva d x s))
  | .send d x tag => (keeps_sendOp h : Keeps (execSend d x tag s))
  | .senda d x => (keeps_sendOp h : Keeps (execSenda d x s))
  | .vsend d x => (keeps_sendOp h : Keeps (execVsend d x s))
  | .sendm d x => (keeps_sendOp h : Keeps (execSendm d x s))
  | .semw n sem => (keeps_semw h : Keeps (execSemw n sem s))
  | .sems n sem => (keeps_sems h : Keeps (execSems n sem s))
  | .semt d sem => (keeps_semt h : Keeps (execSemt d sem s))
  | .bara d x => (keeps_bara h : Keeps (execBara d x s))
  | .barw d x => (keeps_barw h : Keeps (execBarw d x s))
  | .bars s0 d x => (keeps_bars h : Keeps (execBars s0 d x s))
  | .barq d x => (keeps_plain h : Keeps (execBarq d x s))
  | .fence s0 => (keeps_fence h : Keeps (execFence s0 s))
  | .pub s0 d x => (keeps_pub h : Keeps (execPub s0 d x s))
  | .pubw s0 d x => (keeps_pubw h : Keeps (execPubw s0 d x s))
  | .trig d x => (keeps_trig h : Keeps (execTrig d x s))
  | .cinv x => (keeps_cacheOp h : Keeps (execCinv x s))
  | .ccln x => (keeps_cacheOp h : Keeps (execCcln x s))
  | .cfls => (keeps_cfls h : Keeps (execCfls s))
  | .tlbp d x => (keeps_tlbp h : Keeps (execTlbp d x s))
  | .amoadd s0 d x y => (keeps_amo h : Keeps (execAmoadd s0 d x y s))
  | .amoand s0 d x y => (keeps_amo h : Keeps (execAmoand s0 d x y s))
  | .amoor s0 d x y => (keeps_amo h : Keeps (execAmoor s0 d x y s))
  | .amoxor s0 d x y => (keeps_amo h : Keeps (execAmoxor s0 d x y s))
  | .amomin s0 d x y => (keeps_amo h : Keeps (execAmomin s0 d x y s))
  | .amomax s0 d x y => (keeps_amo h : Keeps (execAmomax s0 d x y s))
  | .amominu s0 d x y => (keeps_amo h : Keeps (execAmominu s0 d x y s))
  | .amomaxu s0 d x y => (keeps_amo h : Keeps (execAmomaxu s0 d x y s))
  | .amoswp s0 d x y => (keeps_amo h : Keeps (execAmoswp s0 d x y s))
  | .amocas s0 d x y => (keeps_amo h : Keeps (execAmocas s0 d x y s))
  | .amofadd s0 d x y => (keeps_amo h : Keeps (execAmofadd s0 d x y s))
  | .amofmax s0 d x y => (keeps_amo h : Keeps (execAmofmax s0 d x y s))
  | .cpy d x y => (keeps_issueCopy h trivial : Keeps (execCpy d x y s))
  | .cpyr d x y => (keeps_issueCopy h ((ringAt_ends _).map) : Keeps (execCpyr d x y s))
  | .cpyw x => (keeps_cpyw h : Keeps (execCpyw x s))
  | .cpys d x => (keeps_cpys h : Keeps (execCpys d x s))
  | .cpyxResume x => (keeps_cpyx h : Keeps (execCpyxResume x s))
  | .cpyxCancel x => (keeps_cpyx h : Keeps (execCpyxCancel x s))
  | .cpyxFlush x => (keeps_cpyx h : Keeps (execCpyxFlush x s))
  | .ringb d x => (keeps_ringb h : Keeps (execRingb d x s))
  | .ringq d x => (keeps_ringq h : Keeps (execRingq d x s))
  | .amsg d x y => (keeps_amsg h : Keeps (execAmsg d x y s))
  | .mrpl x => (keeps_mrpl h : Keeps (execMrpl x s))
  | .mhend x => (keeps_mhend h : Keeps (execMhend x s))
  | .colset s0 d x => (keeps_colset h : Keeps (execColset s0 d x s))
  | .colfr x => (keeps_colfr h : Keeps (execColfr x s))
  | .colw d x => (keeps_colw h : Keeps (execColw d x s))
  | .cols d x => (keeps_cols h : Keeps (execCols d x s))
  | .tick d => (keeps_plain h : Keeps (execTick d s))
  | .cyc d => (keeps_plain h : Keeps (execCyc d s))
  | .waitt x => (keeps_waitt h : Keeps (execWaitt x s))
  | .waitc x => (keeps_waitc h : Keeps (execWaitc x s))
  | .trap d detail => (keeps_trap h : Keeps (execTrap d detail s))
  | .mfk d kreg => (keeps_mfk h : Keeps (execMfk d kreg s))
  | .mtk d kreg => (keeps_mtk h : Keeps (execMtk d kreg s))
  | .eret => (keeps_eret h : Keeps (execEret s))
  | .idle d => (keeps_idle h : Keeps (execIdle d s))
  | .tlbi x => (keeps_tlbi h : Keeps (execTlbi x s))
  | .tlba => (keeps_tlba h : Keeps (execTlba s))
  | .ctxs => (keeps_ctxs h : Keeps (execCtxs s))
  | .ctxl => (keeps_ctxl h : Keeps (execCtxl s))
  | .tqp x => (keeps_tqp h : Keeps (execTqp x s))
  | .ltrcRead d x => (keeps_ltrc h : Keeps (execLtrcRead d x s))
  | .ltrcClearWindow d x => (keeps_ltrc h : Keeps (execLtrcClearWindow d x s))
  | .ltrcClearSuspect d x => (keeps_ltrc h : Keeps (execLtrcClearSuspect d x s))
  | .strk x => (keeps_strk h : Keeps (execStrk x s))
  | .illegalInstruction code detail value len => (keeps_illegalInstruction h : Keeps (execIllegalInstruction code detail value len s))
  | .waitAtKResume r j => (keeps_waitAtKResume h : Keeps (execWaitAtKResume r j s))
  | .amodeWrite r j w => (keeps_amodeWrite h : Keeps (execAmodeWrite r j w s))
  | .srseedWrite r j w => (keeps_srseedWrite h : Keeps (execSrseedWrite r j w s))
  | .counterClear r n inc w => (keeps_counterClear h : Keeps (execCounterClear r n inc w s))
  | .ltrlimLtrwinWrite r n w => (keeps_ltrlimLtrwinWrite h : Keeps (execLtrlimLtrwinWrite r n w s))
  | .marginWrite r w => (keeps_marginWrite h : Keeps (execMarginWrite r w s))
  | .logStatusRead r j n d => (keeps_logStatusRead h : Keeps (execLogStatusRead r j n d s))
  | .registerWrite r j place w => (keeps_registerWrite h : Keeps (execRegisterWrite r j place w s))
  | .lateTransition r j place => (keeps_lateTransition h : Keeps (execLateTransition r j place s))
  | .escalationWindowEnd r => (keeps_escalationWindowEnd h : Keeps (execEscalationWindowEnd r s))
  | .marginStepSettle r => (keeps_marginStepSettle h : Keeps (execMarginStepSettle r s))
  | .handlerWatchdog r j => (keeps_handlerWatchdog h : Keeps (execHandlerWatchdog r j s))
  | .handlerDispatch r k => (keeps_handlerDispatch h : Keeps (execHandlerDispatch r k s))
  | .channelWordTransfer w => (keeps_channelWordTransfer h : Keeps (execChannelWordTransfer w s))
  | .memoryResponse r j n => (keeps_memoryResponse h : Keeps (execMemoryResponse r j n s))
  | .read r n => (keeps_serve h (fun h => h.serveRead) : Keeps (execRead r n s))
  | .write r n => (keeps_serve h (fun h => h.serveWrite) : Keeps (execWrite r n s))
  | .amo r n => (keeps_serve h (fun h => h.serveAtomic) : Keeps (execAmo r n s))
  | .amo8 r n => (keeps_serve h (fun h => h.serveAtomic) : Keeps (execAmo8 r n s))
  | .cas8 r n => (keeps_serve h (fun h => h.serveAtomic) : Keeps (execCas8 r n s))
  | .line r n => (keeps_serve h (fun h => h.serveLine) : Keeps (execLine r n s))
  | .renew r n => (keeps_serve h (fun h => h.serveLine) : Keeps (execRenew r n s))
  | .cread r n => (keeps_serve h (fun h => h.serveRead) : Keeps (execCread r n s))
  | .cwrite r n => (keeps_serve h (fun h => h.serveWrite) : Keeps (execCwrite r n s))
  | .camo r n => (keeps_serve h (fun h => h.serveAtomic) : Keeps (execCamo r n s))
  | .barr r n => (keeps_barr h : Keeps (execBarr r n s))
  | .comb r k span => (keeps_combineAt h : Keeps (execComb r k span s))
  | .routerCombine r k span => (keeps_combineAt h : Keeps (execRouterCombine r k span s))
  | .cdone r k => (keeps_cdone h : Keeps (execCdone r k s))
  | .automaticPub id handle => (keeps_automaticPub h : Keeps (execAutomaticPub id handle s))
  | .colsetRequest id => (keeps_colsetRequest h : Keeps (execColsetRequest id s))
  | .planKillNotice mod cfg => (keeps_planKillNotice h : Keeps (execPlanKillNotice mod cfg s))
  | .userMessageStart r n => (keeps_userMessageStart h : Keeps (execUserMessageStart r n s))
  | .messageReply r j => (keeps_messageReply h : Keeps (execMessageReply r j s))
  | .messageNack r n => (keeps_messageNack h : Keeps (execMessageNack r n s))
  | .matrixCommandComplete r => (keeps_matrixCommandComplete h : Keeps (execMatrixCommandComplete r s))
  | .copyElement r => (keeps_copyElement h : Keeps (execCopyElement r s))
  | .copyCommandComplete r => (keeps_copyCommandComplete h : Keeps (execCopyCommandComplete r s))
  | .cpyrSlotTake r => (keeps_cpyrSlotTake h : Keeps (execCpyrSlotTake r s))
  | .copyFaultTrap r => (keeps_copyFaultTrap h : Keeps (execCopyFaultTrap r s))
  | .lightsOutSweep id => (keeps_lightsOutSweep h : Keeps (execLightsOutSweep id s))
  | .launch q record => (keeps_writeRecord h : Keeps (execLaunch q record s))
  | .join q record => (keeps_writeRecord h : Keeps (execJoin q record s))
  | .spliceInherit q record => (keeps_writeRecord h : Keeps (execSpliceInherit q record s))
  | .spliceNoInherit q record => (keeps_writeRecord h : Keeps (execSpliceNoInherit q record s))
  | .ingressToken q write => (keeps_ingressToken h : Keeps (execIngressToken q write s))
  | .ingressQueueErrClear q w => (keeps_ingressQueueErrClear h : Keeps (execIngressQueueErrClear q w s))
  | .placement => (keeps_placement h : Keeps (execPlacement s))
  | .loadAcknowledge id => (keeps_loadAcknowledge h : Keeps (execLoadAcknowledge id s))
  | .pitchStart id => (keeps_pitchStart h : Keeps (execPitchStart id s))
  | .translationPreloadTimeout id => (keeps_translationPreloadTimeout h : Keeps (execTranslationPreloadTimeout id s))
  | .hostKillRequest id => (keeps_hostKillRequest h : Keeps (execHostKillRequest id s))
  | .preemptDispatchStop id => (keeps_preemptDispatchStop h : Keeps (execPreemptDispatchStop id s))
  | .preemptFiringTimeout r j => (keeps_preemptFiringTimeout h : Keeps (execPreemptFiringTimeout r j s))
  | .preemptResume id => (keeps_preemptResume h : Keeps (execPreemptResume id s))
  | .spliceSwitch r => (keeps_spliceSwitch h : Keeps (execSpliceSwitch r s))
  | .spliceSuccessorStart r => (keeps_spliceSuccessorStart h : Keeps (execSpliceSuccessorStart r s))
  | .egressRingWrite id k => (keeps_egressRingWrite h : Keeps (execEgressRingWrite id k s))
  | .egressAtomicop id k => (keeps_egressAtomicop h : Keeps (execEgressAtomicop id k s))
  | .atomicopCompletion id k old error => (keeps_atomicopCompletion h : Keeps (execAtomicopCompletion id k old error s))
  | .tsetWrite w => (keeps_tsetWrite h : Keeps (execTsetWrite w s))
  | .topoWrite w => (keeps_topoWrite h : Keeps (execTopoWrite w s))
  | .topologySwitch => (keeps_topologySwitch h : Keeps (execTopologySwitch s))
  | .staleCounterRead access => (keeps_staleCounterRead h : Keeps (execStaleCounterRead access s))
  | .attestationRequest nonce => (keeps_attestationRequest h : Keeps (execAttestationRequest nonce s))
  | .attestationReportReady => (keeps_attestationReportReady h : Keeps (execAttestationReportReady s))
  | .speoshPacketReceive port flit => (keeps_speoshPacketReceive h : Keeps (execSpeoshPacketReceive port flit s))
  | .speoshBeacon port => (keeps_linkEvent h : Keeps (execSpeoshBeacon port s))
  | .lightDetected port => (keeps_lightDetected h : Keeps (execLightDetected port s))
  | .trainLock port => (keeps_linkEvent h : Keeps (execTrainLock port s))
  | .trainTimeout port => (keeps_linkEvent h : Keeps (execTrainTimeout port s))
  | .calibration port trip peerTick => (keeps_calibration h : Keeps (execCalibration port trip peerTick s))
  | .crcFailureBurst port => (keeps_linkEvent h : Keeps (execCrcFailureBurst port s))
  | .retrainLock port => (keeps_linkEvent h : Keeps (execRetrainLock port s))
  | .retrainTimeout port => (keeps_retrainTimeout h : Keeps (execRetrainTimeout port s))
  | .flitReplay port => (keeps_linkEvent h : Keeps (execFlitReplay port s))
  | .meshBeacon r dir => (keeps_meshBeacon h : Keeps (execMeshBeacon r dir s))
  | .meshLinkTimeout r dir => (keeps_meshLinkTimeout h : Keeps (execMeshLinkTimeout r dir s))
  | .routerTimeout r => (keeps_routerTimeout h : Keeps (execRouterTimeout r s))
  | .fieldManagerTimeout f => (keeps_fieldManagerTimeout h : Keeps (execFieldManagerTimeout f s))
  | .speoshLinkTimeout port => (keeps_linkEvent h : Keeps (execSpeoshLinkTimeout port s))
  | .moduleTimeout mod => (keeps_moduleTimeout h : Keeps (execModuleTimeout mod s))
  | .podMemberTimeout mod => (keeps_podMemberTimeout h : Keeps (execPodMemberTimeout mod s))
  | .clockSourceLoss r => (keeps_clockSourceLoss h : Keeps (execClockSourceLoss r s))
  | .clockRealigned r => (keeps_clockRealigned h : Keeps (execClockRealigned r s))
  | .tickEdge missed => (keeps_tickEdge h : Keeps (execTickEdge missed s))
  | .temperatureRefresh => (keeps_temperatureRefresh h : Keeps (execTemperatureRefresh s))
  | .throttleWindowEnd r above => (keeps_throttleWindowEnd h : Keeps (execThrottleWindowEnd r above s))
  | .scrub place bad => (keeps_scrub h : Keeps (execScrub place bad s))
  | .poleGranuleTransfer r e => (keeps_poleGranuleTransfer h : Keeps (execPoleGranuleTransfer r e s))
  | .eccWriteback r offset e => (keeps_eccWriteback h : Keeps (execEccWriteback r offset e s))
  | .rowRemap r bank row => (keeps_rowRemap h : Keeps (execRowRemap r bank row s))
  | .rowRemapDone r bank => (keeps_rowRemapDone h : Keeps (execRowRemapDone r bank s))
  | .secondTierTimeout r n => (keeps_secondTierTimeout h : Keeps (execSecondTierTimeout r n s))
  | .translationWalk r va => (keeps_translationWalk h : Keeps (execTranslationWalk r va s))
  | .tqpAnswer r j final => (keeps_tqpAnswer h : Keeps (execTqpAnswer r j final s))
  | .trapQueuePost f => (keeps_trapQueuePost h : Keeps (execTrapQueuePost f s))
  | .trapQueueRemove f => (keeps_trapQueueRemove h : Keeps (execTrapQueueRemove f s))
  | .strikeTile r => (keeps_strikeTile h : Keeps (execStrikeTile r s))
  | .fieldDerate f code => (keeps_fieldDerate h : Keeps (execFieldDerate f code s))
  | .moduleReset dead bands found => (keeps_moduleReset h : Keeps (execModuleReset dead bands found s))
  | .serviceProcessorFailover => (keeps_serviceProcessorFailover h : Keeps (execServiceProcessorFailover s))
  | .imageFetched q image => (keeps_imageFetched h : Keeps (execImageFetched q image s))
  | .resolutionAnswer id ok => (keeps_resolutionAnswer h : Keeps (execResolutionAnswer id ok s))
  | .powerDown => (keeps_powerDown h : Keeps (execPowerDown s))
  | .secondTierLinkDown port => (keeps_secondTierLinkDown h : Keeps (execSecondTierLinkDown port s))
  | .outOfTime r => (keeps_outOfTime h : Keeps (execOutOfTime r s))
  | .holdAsserted r => (keeps_holdAsserted h : Keeps (execHoldAsserted r s))
  | .routeBankWrite bank dst w => (keeps_routeBankWrite h : Keeps (execRouteBankWrite bank dst w s))

/-- What a turn is, when the instruction that it runs begins in canonical form. -/
def Turn.Canonical : Turn → Prop
  | .done o => Keeps o
  | .run _ s => s.Canonical

theorem Turn.Canonical.act {t : Turn} (h : t.Canonical) : Keeps t.act := by
  cases t with
  | done o => exact h
  | run i s => exact keeps_exec h i

namespace State.Canonical

theorem decoded (h : s.Canonical) {n : Nat} : (s.decoded n).Canonical := by
  unfold State.decoded
  split
  · exact .next h.trapHere
  · split
    · exact .next h.trapHere
    · exact h
  · split
    · exact .next h.trapHere
    · exact h.frame

theorem runTurn (h : s.Canonical) {n : Nat} : (s.runTurn n).Canonical := by
  unfold State.runTurn
  split
  · exact .next h.reported.withdraw.trapHere
  · exact h.decoded

theorem turn (h : s.Canonical) {n : Nat} : (s.turn n).Canonical := by
  unfold State.turn
  split
  · exact fun _ e => by cases e
  · split
    · exact .next h
    · exact .next h
    · exact .next h.elapse
    · split
      · exact h.runTurn
      · exact h.idleTurn
      · exact h.idleTurn
      · exact .next h.elapse

end State.Canonical

theorem keeps_endCheck {o : Out} (h : Keeps o) : Keeps (endCheck o) := by
  cases o with
  | next t => exact .next ((h t rfl).frame : t.endCheck.Canonical)
  | _ => exact fun _ e => by cases e

theorem keeps_step (h : s.Canonical) : Keeps (step s) := by
  have hm {a : List Move} : { s with agenda := a }.Canonical := h.frame
  have hf {a : List Move} {r : Nat} {i : CtxId} : ({ s with agenda := a }.focusOn r i).Canonical := h.frame
  unfold step
  split
  · exact h.turn.act
  · exact hf.turn.act
  · exact keeps_endCheck hf.turn.act
  · exact .next hm.chunkMismatch
  · exact .next hm.matPiece
  · exact keeps_exec hm _

/-- Settles O60: every arm of `step` is a composition of changes that keep the form of the stores. -/
theorem stepKeepsMemoryCanonical : Obligations.StepKeepsMemoryCanonical := fun _ t h => keeps_step h t

end Sys2Proof.Machine
end

section
/-! # The registers and the state after reset -/

-- Checked one after another: side by side, the stacks of the threads pass the memory that the check allows.
set_option Elab.async false

namespace Sys2Proof.Machine

namespace Ctx

variable {c : Ctx} {w : Word} {v : DWord}

/-- The number is one of those that the supervisor has a bank for (R25). -/
def banked (i : GReg) : Prop := 24 ≤ i.toNat ∧ i.toNat < 32

theorem banked_ne_zero {i : GReg} (h : banked i) : i ≠ 0 := by
  rintro rfl
  exact absurd h.1 (by decide)

theorem getG_banked {i : GReg} (hs : c.sup = true) (h : banked i) : c.getG i = (c.gSup[i.toNat - 24]?).getD 0 := by
  unfold getG
  rw [if_neg (banked_ne_zero h), if_pos ⟨hs, h⟩]

theorem getG_file {i : GReg} (h0 : i ≠ 0) (h : ¬(c.sup = true ∧ banked i)) : c.getG i = c.g[i.toNat]'i.isLt := by
  unfold getG
  rw [if_neg h0]
  exact if_neg h

theorem setG_banked {i : GReg} (hs : c.sup = true) (h : banked i) :
    c.setG i w = { c with gSup := c.gSup.setIfInBounds (i.toNat - 24) w } := by
  unfold setG
  rw [if_neg (banked_ne_zero h), if_pos ⟨hs, h⟩]

theorem setG_file {i : GReg} (h0 : i ≠ 0) (h : ¬(c.sup = true ∧ banked i)) :
    c.setG i w = { c with g := c.g.set i.toNat w i.isLt } := by
  unfold setG
  rw [if_neg h0]
  exact if_neg h

@[simp] theorem getG_zero : c.getG 0 = 0 := rfl
@[simp] theorem setG_zero : c.setG 0 w = c := rfl

theorem getG_setG_same {i : GReg} (h0 : i ≠ 0) : (c.setG i w).getG i = w := by
  by_cases h : c.sup = true ∧ banked i
  · have hb : i.toNat - 24 < 8 := by have := h.2.2; omega
    rw [setG_banked h.1 h.2]
    refine Eq.trans (getG_banked h.1 h.2) ?_
    simp [hb]
  · rw [setG_file h0 h]
    exact Eq.trans (getG_file h0 h) (Vector.getElem_set_self _)

theorem getG_setG_other {i j : GReg} (h : j ≠ i) : (c.setG i w).getG j = c.getG j := by
  have hn : i.toNat ≠ j.toNat := fun e => h (BitVec.eq_of_toNat_eq e.symm)
  by_cases hi : i = 0
  · rw [hi, setG_zero]
  by_cases hj : j = 0
  · rw [hj]; rfl
  by_cases bi : c.sup = true ∧ banked i <;> by_cases bj : c.sup = true ∧ banked j
  · have hk : i.toNat - 24 ≠ j.toNat - 24 := by have := bi.2.1; have := bj.2.1; omega
    rw [setG_banked bi.1 bi.2, getG_banked bj.1 bj.2]
    refine Eq.trans (getG_banked bj.1 bj.2) ?_
    simp [hk]
  · rw [setG_banked bi.1 bi.2, getG_file hj bj]
    exact getG_file hj bj
  · rw [setG_file hi bi, getG_banked bj.1 bj.2]
    exact getG_banked bj.1 bj.2
  · rw [setG_file hi bi, getG_file hj bj]
    exact Eq.trans (getG_file hj bj) (Vector.getElem_set_ne i.isLt j.isLt hn)

/-- A read at user level sees the user's file alone. -/
theorem getG_user_setG_banked {i j : GReg} (hs : c.sup = true) (h : banked i) :
    ({ c.setG i w with sup := false } : Ctx).getG j = ({ c with sup := false } : Ctx).getG j := by
  rw [setG_banked hs h]
  rfl

/-- A read of a banked number at supervisor level sees the bank alone. -/
theorem getG_sup_setG_banked {i j : GReg} (hs : c.sup = false) (h : banked i) :
    ({ c.setG i w with sup := true } : Ctx).getG j = ({ c with sup := true } : Ctx).getG j := by
  rw [setG_file (banked_ne_zero h) (by simp [hs])]
  by_cases hj : j = 0
  · rw [hj]; rfl
  by_cases bj : banked j
  · rw [getG_banked rfl bj, getG_banked rfl bj]
  · have hn : i.toNat ≠ j.toNat := fun e => bj (BitVec.eq_of_toNat_eq e ▸ h)
    rw [getG_file hj (fun hb => bj hb.2), getG_file hj (fun hb => bj hb.2)]
    exact Vector.getElem_set_ne i.isLt j.isLt hn

theorem setA_three {i : AReg} (h : c.sup = true ∧ i = 3) : c.setA i v = { c with a3Sup := v } := if_pos h

theorem setA_file {i : AReg} (h : ¬(c.sup = true ∧ i = 3)) : c.setA i v = { c with a := c.a.set i.toNat v i.isLt } := if_neg h

@[simp] theorem getA_setA_same {i : AReg} : (c.setA i v).getA i = v := by
  by_cases h : c.sup = true ∧ i = 3
  · rw [setA_three h, getA, if_pos h]
  · rw [setA_file h, getA, if_neg h]
    exact Vector.getElem_set_self _

theorem getA_setA_other {i j : AReg} (h : j ≠ i) : (c.setA i v).getA j = c.getA j := by
  have hn : i.toNat ≠ j.toNat := fun e => h (BitVec.eq_of_toNat_eq e.symm)
  by_cases hi : c.sup = true ∧ i = 3
  · have hj : ¬(c.sup = true ∧ j = 3) := fun hj => h (hj.2.trans hi.2.symm)
    rw [setA_three hi, getA, getA, if_neg hj, if_neg hj]
  · rw [setA_file hi, getA, getA]
    split
    · rfl
    · exact Vector.getElem_set_ne i.isLt j.isLt hn

theorem getA_user_setA (hs : c.sup = true) {j : AReg} :
    ({ c.setA 3 v with sup := false } : Ctx).getA j = ({ c with sup := false } : Ctx).getA j := by
  rw [setA_three ⟨hs, rfl⟩]
  rfl

theorem getA_sup_setA (hs : c.sup = false) {j : AReg} :
    ({ c.setA 3 v with sup := true } : Ctx).getA j = ({ c with sup := true } : Ctx).getA j := by
  rw [setA_file (by simp [hs])]
  unfold getA
  split
  · rfl
  · next hj =>
    have hn : (3 : AReg).toNat ≠ j.toNat := fun e => hj ⟨rfl, BitVec.eq_of_toNat_eq e.symm⟩
    exact Vector.getElem_set_ne (by decide) j.isLt hn

theorem getP_setP_same {i : PReg} (h0 : i ≠ 0) : (c.setP i w).getP i = w := by
  rw [setP, if_neg h0, getP, if_neg h0]
  exact Vector.getElem_set_self _

theorem getP_setP_other {i j : PReg} (h : j ≠ i) : (c.setP i w).getP j = c.getP j := by
  have hn : i.toNat ≠ j.toNat := fun e => h (BitVec.eq_of_toNat_eq e.symm)
  unfold setP
  split
  · rfl
  · unfold getP
    split
    · rfl
    · exact Vector.getElem_set_ne i.isLt j.isLt hn

end Ctx

open Ctx in
/-- Settles O1: each clause is a read-after-write lemma of one of the three files. -/
theorem registersReadAsWritten : Obligations.RegistersReadAsWritten := fun _ _ _ =>
  ⟨rfl, rfl, rfl, rfl, fun _ => getG_setG_same, fun _ _ => getG_setG_other, fun _ => getP_setP_same, fun _ _ => getP_setP_other,
    fun _ => getA_setA_same, fun _ _ => getA_setA_other, fun _ hs h h' _ => getG_user_setG_banked hs ⟨h, h'⟩,
    fun hs _ => getA_user_setA hs, fun _ hs h h' _ => getG_sup_setG_banked hs ⟨h, h'⟩, fun hs _ => getA_sup_setA hs⟩

@[simp] theorem State.reset_tile (r : Nat) : State.reset.tile r = {} := rfl

@[simp] theorem Tile.ctx_default (i : CtxId) : ({} : Tile).ctx i = {} := by cases i <;> rfl

theorem Tile.margin_default : ({} : Tile).margin = 0x10 := by decide

theorem Fly.poleStatus_default : ({} : Fly).poleStatus = 0 := by decide

theorem Fly.arrayStatus_default : ({} : Fly).arrayStatus = 0 := by decide

/-- Settles O2: a tile that nothing was written to reads as the default tile, whose fields are the reset values. -/
theorem resetState : Obligations.ResetState := by
  intro r i
  rw [State.reset_tile, Tile.ctx_default]
  exact ⟨rfl, rfl, rfl, rfl, rfl, congrArg some Tile.margin_default, rfl, rfl, rfl, rfl, rfl, congrArg some Fly.poleStatus_default,
    congrArg some Fly.arrayStatus_default, State.reset_canonical⟩

end Sys2Proof.Machine
end

section
/-! # Entering and leaving a trap -/

-- Checked one after another: side by side, the stacks of the threads pass the memory that the check allows.
set_option Elab.async false

namespace Sys2Proof.Machine

variable {s u t : State} {code detail : Byte} {value : DWord} {len : Nat} {idl : Bool}

/-! ## The context and the tiles after a trap -/

/-- The focused context of a state of the same focus whose tiles are as after a change of that context. -/
theorem State.cur_of_modCtx {f : Ctx → Ctx} (ht : t.tiles = (s.modCtx s.focus.rank s.focus.ctx f).tiles) (hf : t.focus = s.focus) :
    t.cur = f s.cur := by
  unfold State.cur State.here
  rw [hf, State.tile_congr ht]
  simp

theorem State.trap_focused_user (h : s.cur.sup = false) :
    (s.trap s.focus.rank s.focus.ctx code detail value len idl).cur = s.cur.enterTrap code detail value len idl := by
  obtain ⟨ht, _, hf⟩ := s.trap_user s.focus.rank s.focus.ctx code detail value len idl h
  exact cur_of_modCtx ht hf

/-- A trap at user level is what R27 says. -/
theorem State.trap_trapped (h : s.cur.sup = false) :
    Trapped s (s.trap s.focus.rank s.focus.ctx code detail value len false) code detail value len := by
  obtain ⟨ht, hm, _⟩ := s.trap_user s.focus.rank s.focus.ctx code detail value len false h
  have hc := s.trap_focused_user (code := code) (detail := detail) (value := value) (len := len) (idl := false) h
  constructor
  case tval => rw [hc]; exact joinHalves value
  case tstat => rw [hc]; simp [Ctx.enterTrap]
  case memory => exact hm
  case others =>
    intro r hr
    rw [State.tile_congr ht, State.tile_modCtx_other _ hr]
  all_goals rw [hc]
  case sup | pc | tepc | tcause => rfl
  case loops => exact ⟨rfl, rfl⟩
  case regs => exact ⟨rfl, rfl, rfl, rfl, rfl, rfl⟩
  case flags => exact ⟨rfl, rfl, rfl⟩

/-- What a trap leaves does not show which cycles passed before it. -/
theorem Trapped.of_afterCycles (h : Trapped u t code detail value len) (ac : AfterCycles s u) : Trapped s t code detail value len := by
  have hf : u.focus = s.focus := by rw [ac.rest]
  have hm : u.mem = s.mem := by rw [ac.rest]
  obtain ⟨sup, pc, tepc, tcause, tval, tstat, loops, regs, flags, memory, others⟩ := h
  rw [ac.ctx] at pc tepc tstat loops regs flags
  exact ⟨sup, pc, tepc, tcause, tval, tstat, loops, regs, flags, memory.trans hm,
    fun r hr => (others r (by rwa [hf])).trans (ac.others r hr)⟩

theorem State.trapHere_trapped (h : s.cur.sup = false) : Trapped s (s.trapHere code detail value len) code detail value len := by
  have ac := afterCycles_elapse s true
  exact (State.trap_trapped (s := s.elapse s.focus.rank s.focus.ctx) (by rw [ac.ctx]; exact h)).of_afterCycles ac

/-! ## The double trap (R29) -/

/-- The record that a double trap posts: the first trap's fields, with FATAL, HW and DBL. -/
def State.doubleRecord (s : State) (r : Nat) (i : CtxId) : Record :=
  let c := (s.tile r).ctx i
  (s.modCtx r i Ctx.doubleTrap).hwRecord r (some i) (c.tcause.setWidth 8) ((c.tcause >>> 8).setWidth 8) (c.tvalh ++ c.tval) true true 0

theorem State.trap_sup {r : Nat} {i : CtxId} (h : ((s.tile r).ctx i).sup = true) :
    s.trap r i code detail value len idl = (s.modCtx r i Ctx.doubleTrap).post r (s.doubleRecord r i) := by
  unfold State.trap
  exact if_pos h

theorem State.trap_focused_sup (h : s.cur.sup = true) :
    (s.trap s.focus.rank s.focus.ctx code detail value len idl).cur = s.cur.doubleTrap := by
  rw [State.trap_sup h]
  exact cur_of_modCtx rfl rfl

/-- Cycles at supervisor level change nothing of the context: the watchdog does not count them (R129). -/
theorem State.cur_elapse_sup (h : s.cur.sup = true) {wd : Bool} : (s.elapse s.focus.rank s.focus.ctx wd).cur = s.cur := by
  obtain ⟨c, n, hc, hh⟩ := s.here_elapse wd
  have hcur : (s.elapse s.focus.rank s.focus.ctx wd).cur = c := by
    rw [State.cur, State.elapse_focus, hh, Tile.ctx_with_cyc, Tile.ctx_setCtx]
  rw [hcur]
  obtain hc | ⟨k, hc⟩ := hc
  · exact hc
  · rw [hc]
    unfold Ctx.countWd
    rw [h]
    split
    · contradiction
    · rfl

theorem State.leaveGroup_trap_sup (h : s.cur.sup = true) : (s.leaveGroup (.trap code detail value)).cur = s.cur.doubleTrap := by
  have he := State.cur_elapse_sup h (wd := true)
  exact (State.trap_focused_sup (s := s.elapse s.focus.rank s.focus.ctx) (by rw [he]; exact h)).trans (by rw [he])

theorem recordFlags_double (i : Option CtxId) : (recordFlags true false true true i).getLsbD 0 = true ∧
    (recordFlags true false true true i).getLsbD 2 = true ∧ (recordFlags true false true true i).getLsbD 3 = true := by
  obtain _ | _ | _ | _ := i <;> decide

theorem enterTrap_idl (c : Ctx) : (c.enterTrap code detail value len true).tstat.getLsbD 6 = true := by
  have hs : (c.enterTrap code detail value len true).tstat = BitVec.ofNat 32 (len % 8 * 256 + 64 + c.loops.length % 4 * 16) := rfl
  rw [hs, BitVec.getLsbD_ofNat, Nat.testBit_eq_decide_div_mod_eq]
  simp
  omega

theorem State.posts_post (s : State) (r : Nat) (e : Record) :
    ((s.post r e).field (s.fieldOf r)).posts = (s.field (s.fieldOf r)).posts ++ [{ record := e, pitch := (s.tile r).pitch }] :=
  congrArg Field.posts (State.field_modField _ _ _)

/-- Settles O18: at user level by what `Ctx.enterTrap` writes, at supervisor level by the record that `State.trap` posts. -/
theorem trapEntry : Obligations.TrapEntry := by
  intro s code detail value len idl t
  refine ⟨?_, ?_, ?_⟩
  · rintro h rfl
    exact State.trap_trapped h
  · rintro h rfl
    have hc : t.cur = s.cur.enterTrap code detail value len true := State.trap_focused_user h
    rw [hc]
    exact ⟨rfl, rfl, rfl, enterTrap_idl s.cur, rfl, rfl, rfl⟩
  · intro h
    have ht : t = (s.modCtx s.focus.rank s.focus.ctx Ctx.doubleTrap).post s.focus.rank (s.doubleRecord s.focus.rank s.focus.ctx) :=
      State.trap_sup h
    obtain ⟨fatal, hw, dbl⟩ := recordFlags_double (some s.focus.ctx)
    have hp := (s.modCtx s.focus.rank s.focus.ctx Ctx.doubleTrap).posts_post s.focus.rank (s.doubleRecord s.focus.rank s.focus.ctx)
    rw [← ht] at hp
    exact ⟨State.trap_focused_sup h, _, hp, rfl, fatal, hw, dbl, rfl⟩

end Sys2Proof.Machine
end

section
/-! # Returning from a trap with a loop stack that no LOOP builds -/

-- Checked one after another: side by side, the stacks of the threads pass the memory that the check allows.
set_option Elab.async false

namespace Sys2Proof.Machine

/-- An entry whose body ends before it begins, with a pass left; LOOP pushes none (R100). -/
def backwardEntry : LoopEntry := { start := 4, stop := 2, count := 2 }

/-- A supervisor that returns to the end of that body. -/
def backwardReturn : State := State.reset.modCur fun c => { c with sup := true, tepc := 2, trapLoops := [backwardEntry] }

theorem backwardReturn_cur : backwardReturn.cur = { sup := true, tepc := 2, trapLoops := [backwardEntry] } :=
  State.cur_modCur _ _

theorem backwardReturn_ready : Ready .all true backwardReturn := by
  rw [Ready, backwardReturn_cur]
  exact ⟨fun _ => rfl, rfl, rfl, rfl⟩

/-- Refutes O19: TEPC is both before the start of the body and at its end, so that the next pass begins at the start (R28), where the
last clause has the entry dropped. Every other clause is a branch of `Ctx.eret` or of `fitLoops`. -/
theorem not_returnFromTrap : ¬ Obligations.ReturnFromTrap := by
  intro h
  obtain ⟨_, _, _, _, _, _, outside⟩ := h backwardReturn backwardReturn_ready
  have hl := outside backwardEntry []
  rw [backwardReturn_cur] at hl
  exact absurd (hl (by decide) rfl (.inl (by decide))) (by decide)

end Sys2Proof.Machine
end

section
/-! # The turn of a context: what is fetched, and what traps before it runs -/

-- Checked one after another: side by side, the stacks of the threads pass the memory that the check allows.
set_option Elab.async false

namespace Sys2Proof.Machine

variable {s t u : State} {i : Instr} {n len : Nat} {base : Half}

/-! ## Turns -/

theorem step_of_empty_agenda (h : s.agenda = []) : step s = (s.turn 0).act := by
  unfold step
  rw [h]

theorem step_of_mismatch {r : Nat} {j : CtxId} {l : List Move} (h : s.agenda = .mismatch r j n :: l) :
    step s = endCheck ((({ s with agenda := l }.focusOn r j).turn n).act) := by
  unfold step
  rw [h]

/-- A running context of a clocked tile for which no trap waits comes to its group. -/
theorem State.turn_running (hr : s.focus.rank < s.ranked) (hg : s.here.clock = .good) (hrun : s.cur.run = .running)
    (hw : s.waitingTrap = none) : s.turn n = s.decoded n := by
  unfold State.turn State.runTurn
  rw [if_neg (Nat.not_le.2 hr), hg, hrun, hw]

theorem State.badFetch_none (h : s.badWord len = none ∨ s.cur.waiting = true) : s.badFetch len = none := by
  unfold State.badFetch
  obtain h | h := h
  · rw [h, ite_self]
  · exact if_pos h

theorem State.decoded_ok (hd : decode s.words = .ok i len base) (hb : s.badFetch len = none) :
    s.decoded n = .run i { s with focus := { s.focus with len := len, base := base, times := if i.checked then n else 0 } } := by
  unfold State.decoded
  simp only [hd, hb]

theorem State.decoded_bad {why : Defect} {k : Nat} {w : Half} (hd : decode s.words = .bad why k w len) (hb : s.badFetch len = none) :
    s.decoded n =
      .run (.illegalInstruction 0x01 (BitVec.ofNat 8 why.detail) (BitVec.ofNat 64 (k * 65536 + w.toNat)) len) s := by
  unfold State.decoded
  simp only [hd, hb]

theorem State.decoded_short (hd : decode s.words = .short) : s.decoded n = .done (.next (s.trapHere 0x03 0 0x10000 0)) := by
  unfold State.decoded
  simp only [hd]

/-- Settles O5: the turn of such a context is `State.decoded` of no disagreement, whose case of an instruction this is. -/
theorem stepRunsTheDecodedInstruction : Obligations.StepRunsTheDecodedInstruction := by
  intro s i len base ha hr hg hrun hw hd hb
  rw [step_of_empty_agenda ha, State.turn_running hr hg hrun hw, State.decoded_ok hd (State.badFetch_none hb), ite_self]
  rfl

/-! ## Groups whose second firing disagrees (R363 to R366) -/

/-- The state with a number of disagreements in its focus. -/
def State.withTimes (s : State) (n : Nat) : State := { s with focus := { s.focus with times := n } }

theorem endCheck_next (s : State) : endCheck (.next s) = .next (s.withTimes 0) := rfl

/-- Readiness does not look at the disagreements but for there being none. -/
theorem groupDefect_withTimes (s : State) (n : Nat) {tie : Tie} {priv : Bool} :
    (s.withTimes n).groupDefect tie priv = s.groupDefect tie priv := rfl

/-- A group that would commit and that disagrees is checked again. -/
theorem runGroup_rechecked {body : Body} {f : Flow} {tie : Tie} {priv : Bool} (hd : s.groupDefect tie priv = none) (hb : body s = .ok f)
    (ht : s.focus.times ≠ 0) : runGroup tie priv body s = .next (s.recheck f) := by
  simp only [runGroup, hd, hb, if_neg ht]

/-- A register operation that disagrees once commits as if it agreed, and CHKCNT counts. -/
theorem plain_mismatch_once {f : Ctx → Ctx} (h : Ready .all false (s.withTimes 0)) : ∃ q, plain f (s.withTimes 0) = .next q ∧
    endCheck (plain f (s.withTimes 1)) = .next (q.modTile s.focus.rank fun t => { t with chkcnt := t.chkcnt + 1 }) := by
  obtain ⟨hd, _⟩ := (ready_iff _ _ _).1 h
  refine ⟨_, runGroup_ready h _, ?_⟩
  unfold plain
  rw [runGroup_rechecked (s := s.withTimes 1) (body := onCtx f) hd rfl (by simp [State.withTimes]), endCheck_next]
  rfl

theorem State.mismatched_cur (s : State) (k : Nat) : (s.mismatched k).cur = s.cur := by
  unfold State.cur State.mismatched
  rw [State.here_modHere]
  cases h : s.focus.ctx <;> simp [Tile.ctx, h]

/-- What a trap leaves shows neither the disagreements nor their count. -/
theorem Trapped.of_mismatched {code detail : Byte} {value : DWord} {k : Nat}
    (h : Trapped ((s.withTimes n).mismatched k) t code detail value len) : Trapped (s.withTimes 0) (t.withTimes 0) code detail value len := by
  obtain ⟨sup, pc, tepc, tcause, tval, tstat, loops, regs, flags, memory, others⟩ := h
  rw [State.mismatched_cur] at pc tepc tstat loops regs flags
  exact ⟨sup, pc, tepc, tcause, tval, tstat, loops, regs, flags, memory,
    fun r hr => (others r hr).trans (State.tile_modTile_other _ hr _)⟩

theorem State.chkcnt_leaveGroup_trap {code detail : Byte} {value : DWord} (h : s.cur.sup = false) :
    ((s.leaveGroup (.trap code detail value)).tile s.focus.rank).chkcnt = s.here.chkcnt := by
  have ac := afterCycles_elapse s true
  have hu : (s.elapse s.focus.rank s.focus.ctx).cur.sup = false := by rw [ac.ctx]; exact h
  obtain ⟨ht, _, _⟩ := (s.elapse s.focus.rank s.focus.ctx).trap_user s.focus.rank s.focus.ctx code detail value s.focus.len false hu
  have hh : ((s.elapse s.focus.rank s.focus.ctx).tile s.focus.rank).chkcnt = s.here.chkcnt :=
    (congrArg Tile.chkcnt ac.tile).trans (by simp)
  rw [State.leaveGroup, State.tile_congr ht]
  simpa using hh

/-- One that disagrees twice traps, and CHKCNT counts both. -/
theorem plain_mismatch_twice {f : Ctx → Ctx} (h : Ready .all false (s.withTimes 0)) (hu : s.cur.sup = false) :
    ∃ t, endCheck (plain f (s.withTimes 2)) = .next t ∧ Trapped (s.withTimes 0) t 0x22 0 (s.cur.pc.setWidth 64) s.focus.len ∧
      (t.tile s.focus.rank).chkcnt = s.here.chkcnt + 2 := by
  obtain ⟨hd, _⟩ := (ready_iff _ _ _).1 h
  let m := (s.withTimes 2).mismatched 2
  have hm : m.cur.sup = false := by rw [State.mismatched_cur]; exact hu
  refine ⟨(m.leaveGroup (.trap 0x22 0 (s.cur.pc.setWidth 64))).withTimes 0, ?_, (leaveGroup_trapped m _ _ _ hm).of_mismatched, ?_⟩
  · unfold plain
    rw [runGroup_rechecked (s := s.withTimes 2) (body := onCtx f) hd rfl (by simp [State.withTimes])]
    rfl
  · refine (State.chkcnt_leaveGroup_trap hm).trans ?_
    exact congrArg Tile.chkcnt (State.here_modHere _ _)

/-- Where every check is skipped, no disagreement is left. -/
theorem State.unchecked_withTimes (s : State) (n : Nat) : (s.withTimes n).unchecked true = s.withTimes 0 := by
  unfold State.unchecked
  split
  · rfl
  · next h =>
    have hn : n = 0 := by simpa [State.withTimes] using h
    rw [hn]

/-- A group whose body leaves no disagreement commits as if it agreed. -/
theorem runGroup_unchecked {tie : Tie} {priv : Bool} {body : Body} {u : State} (h : Ready tie priv (s.withTimes 0))
    (hb : body (s.withTimes n) = .ok (.on (u.withTimes 0))) (h0 : body (s.withTimes 0) = .ok (.on (u.withTimes 0))) :
    endCheck (runGroup tie priv body (s.withTimes n)) = runGroup tie priv body (s.withTimes 0) := by
  obtain ⟨hd, _⟩ := (ready_iff _ _ _).1 h
  rw [runGroup_ready h, h0]
  by_cases hn : n = 0
  · rw [hn, runGroup_ready h, h0]
    rfl
  · rw [runGroup_rechecked (s := s.withTimes n) hd hb hn]
    rfl

/-- What a scalar floating group does. -/
def floatBody (d : GReg) (f : Ctx → FRes) (skip : Ctx → Bool) : Body := fun s =>
  .ok (.on ((s.modCur fun c => (c.setG d (BitVec.ofNat 32 (f s.cur).bits)).raise (f s.cur).flags).countSkip (skip s.cur)
    |>.unchecked (skip s.cur)))

theorem floatOp_eq (d : GReg) (f : Ctx → FRes) (skip : Ctx → Bool) : floatOp d f skip = runGroup .all false (floatBody d f skip) := rfl

/-- Its effect where the check is skipped. -/
def floatSkipped (d : GReg) (f : Ctx → FRes) (s : State) : State :=
  (s.modCur fun c => (c.setG d (BitVec.ofNat 32 (f s.cur).bits)).raise (f s.cur).flags).countSkip true

theorem floatBody_skipped {d : GReg} {f : Ctx → FRes} {skip : Ctx → Bool} (hs : skip s.cur = true) (n : Nat) :
    floatBody d f skip (s.withTimes n) = .ok (.on ((floatSkipped d f s).withTimes 0)) := by
  have hn : skip (s.withTimes n).cur = true := hs
  unfold floatBody
  rw [hn]
  exact congrArg (fun v => Except.ok (Flow.on v)) ((floatSkipped d f s).unchecked_withTimes n)

/-- A floating group whose check is skipped commits whatever disagrees. -/
theorem floatOp_unchecked {d : GReg} {f : Ctx → FRes} {skip : Ctx → Bool} (h : Ready .all false (s.withTimes 0)) (hs : skip s.cur = true) :
    endCheck (floatOp d f skip (s.withTimes n)) = floatOp d f skip (s.withTimes 0) := by
  rw [floatOp_eq]
  exact runGroup_unchecked h (floatBody_skipped hs n) (floatBody_skipped hs 0)

theorem skipsCheck_of_flags {f : FFmt} {daz : Bool} {l : List Nat} {r : FRes} (h : r.flags &&& (fOF ||| fUF) ≠ 0) :
    skipsCheck f daz l r = true := by
  simp only [skipsCheck, bne_iff_ne.2 h, Bool.true_or]

/-- An operation that overflows or underflows has no check (R365). -/
theorem float2_unchecked {d x y : GReg} {f : ArithMode → Nat → Nat → FRes} (h : Ready .all false (s.withTimes 0))
    (hf : (f s.cur.plainMode (s.cur.getG x).toNat (s.cur.getG y).toNat).flags &&& (fOF ||| fUF) ≠ 0) :
    endCheck (float2 d x y f (s.withTimes n)) = float2 d x y f (s.withTimes 0) := by
  unfold float2
  exact floatOp_unchecked h (skipsCheck_of_flags hf)

/-- Settles O6: a group that is no instruction and one that cannot be fetched trap in the turn itself; a sum is a `plain` group, and a
sum of floats one whose check is skipped. -/
theorem groupsThatTrapBeforeTheyRun : Obligations.GroupsThatTrapBeforeTheyRun := by
  refine ⟨?_, ?_, ?_⟩
  · intro s why k w len ha hr hg hrun hw hu hd hb
    rw [step_of_empty_agenda ha, State.turn_running hr hg hrun hw, State.decoded_bad hd (State.badFetch_none (.inl hb))]
    exact ⟨_, rfl, State.trapHere_trapped hu⟩
  · intro s ha hr hg hrun hw hu hd
    rw [step_of_empty_agenda ha, State.turn_running hr hg hrun hw, State.decoded_short hd]
    exact ⟨_, rfl, State.trapHere_trapped hu⟩
  · intro s r j i len base l f hr hg hrun hw hd hb g
    have hstep {n} (ha : s.agenda = .mismatch r j n :: l) : step s = endCheck (exec i (g (if i.checked then n else 0))) := by
      rw [step_of_mismatch ha, State.turn_running hr hg hrun hw, State.decoded_ok hd (State.badFetch_none (.inl hb))]
      rfl
    refine ⟨?_, ?_, ?_⟩
    · intro n t ha ht
      rw [hstep ha, ht]
      rfl
    · rintro d x y rfl h
      obtain ⟨q, hq, honce⟩ := plain_mismatch_once (s := g 0) (f := fun c => c.setG d (c.getG x + c.getG y)) h
      refine ⟨q, hq, fun ha => (hstep ha).trans honce, fun ha hu => ?_⟩
      obtain ⟨t, ht, htrap, hcnt⟩ := plain_mismatch_twice (s := g 0) (f := fun c => c.setG d (c.getG x + c.getG y)) h hu
      exact ⟨t, (hstep ha).trans ht, htrap, hcnt⟩
    · rintro n d x y rfl h hf ha
      exact (hstep ha).trans (float2_unchecked (s := g 0) (f := FFmt.f32.add) h hf)

end Sys2Proof.Machine
end

section
/-! # Software traps, privilege and core ties -/

-- Checked one after another: side by side, the stacks of the threads pass the memory that the check allows.
set_option Elab.async false

namespace Sys2Proof.Machine

variable {s : State} {i : Instr} {tie : Tie} {priv : Bool} {body : Body}

/-- An instruction that raises a trap whenever it runs. -/
theorem takesTrap_of_body {code detail : Byte} {value : DWord} (he : exec i s = runGroup tie priv body s) (h : Ready tie priv s)
    (hu : s.cur.sup = false) (hb : body s = .error (.trap code detail value)) : TakesTrap i s code detail value := by
  unfold TakesTrap
  rw [he]
  exact runGroup_traps h hu hb

/-- The function runs a group of this tie and privilege. -/
def IsGroup (tie : Tie) (priv : Bool) (f : State → Out) : Prop := ∃ body, ∀ s, f s = runGroup tie priv body s

namespace IsGroup

variable {f : State → Out} {d : GReg} {x y : AReg} {z : HReg}

theorem run (h : ∀ s, f s = runGroup tie priv body s) : IsGroup tie priv f := ⟨body, h⟩

theorem ltrc {a : GReg} (h : ∀ s, f s = ltrc d a s) : IsGroup .all true f := run h

theorem cpyx {a : GReg} (h : ∀ s, f s = cpyx a s) : IsGroup .stage false f := run h

theorem issueCopy {n : GReg} {dst : State → DWord} {ring : State → Except Exit (Option RingRef)}
    (h : ∀ s, f s = issueCopy x n dst ring s) : IsGroup .stage false f := run h

theorem issueMma {g a b k : Bool} {w : ZReg} (h : ∀ s, f s = issueMma g w x y a b k s) : IsGroup .compute false f := run h

theorem issueMove {op : MatOp} {n : Nat} {bad : Word → Bool} {acc : Accepts} {imm : BitVec 64} {seed : Nat → Ctx → Ctx}
    (h : ∀ s, f s = issueMove op n bad acc d x imm seed s) : IsGroup .compute false f := run h

theorem query {ok : Nat → Bool} {t : Option EType} {g : Ctx → Summ → Word} (h : ∀ s, f s = query d z ok t g s) :
    IsGroup .compute false f := run h

theorem queryKind {k : Nat} {t : EType} {g : Summ → Word} (h : ∀ s, f s = queryKind k t d z g s) : IsGroup .compute false f := query h

theorem queryMoment {t : EType} {g : Word → Word → Word → Word} (h : ∀ s, f s = queryMoment t d z g s) :
    IsGroup .compute false f := query h

end IsGroup

/-- A privileged instruction at user level (R25). -/
theorem takesTrap_of_privileged {f : State → Out} (hi : exec i s = f s) (hf : IsGroup tie true f) (hu : s.cur.sup = false) :
    TakesTrap i s 0x01 0x0D s.baseValue := by
  obtain ⟨body, hf⟩ := hf
  have hd : s.groupDefect tie true = some (.trap 0x01 0x0D s.baseValue) := by
    unfold State.groupDefect
    rw [hu]
    rfl
  refine ⟨_, ?_, leaveGroup_trapped s 0x01 0x0D s.baseValue hu⟩
  simp only [hi, hf, runGroup, hd]

/-- An instruction of other contexts than the focused one (R52). -/
theorem takesTrap_of_tie {f : State → Out} (hi : exec i s = f s) (hf : IsGroup tie false f) (ht : tie.allows s.focus.ctx = false)
    (hu : s.cur.sup = false) : TakesTrap i s 0x02 0 s.baseValue := by
  obtain ⟨body, hf⟩ := hf
  have hd : s.groupDefect tie false = some (.trap 0x02 0 s.baseValue) := by
    unfold State.groupDefect
    rw [ht]
    rfl
  refine ⟨_, ?_, leaveGroup_trapped s 0x02 0 s.baseValue hu⟩
  simp only [hi, hf, runGroup, hd]

theorem compute_allows (h : s.focus.ctx ≠ .c) : Tie.compute.allows s.focus.ctx = false := beq_false_of_ne h

theorem stage_allows (h : s.focus.ctx = .c) : Tie.stage.allows s.focus.ctx = false := by
  rw [h]
  rfl

theorem message_allows (h : s.focus.ctx ≠ .m) : Tie.message.allows s.focus.ctx = false := beq_false_of_ne h

/-- Settles O17: each instruction listed is a group with the privilege or the tie in question. -/
theorem softwareTrapsAndPrivilege : Obligations.SoftwareTrapsAndPrivilege := by
  refine ⟨?_, ?_⟩
  · intro s d detail code value len hu
    have ht {i code detail value body} (f : State → Out) (hi : exec i s = f s) (hf : f s = runGroup .all false body s)
        (h : Ready .all false s) (hb : body s = .error (.trap code detail value)) := takesTrap_of_body (hi.trans hf) h hu hb
    refine ⟨fun h => ⟨ht execBrk rfl rfl h rfl, ?_⟩, _, rfl, State.trapHere_trapped hu⟩
    rw [BitVec.ofNat_toNat]
    exact ht (execTrap d detail) rfl rfl h rfl
  · intro s d x a v p h h' o b b' b'' imm t k m hu
    refine ⟨?_, fun hc => ?_, fun hc => ?_, fun hc => ?_⟩
    · have hp {i} (f : State → Out) (hi : exec i s = f s) (hf : IsGroup .all true f) :=
        takesTrap_of_privileged hi hf hu
      simp only [List.forall_mem_cons]
      exact ⟨hp execEret rfl (.run fun _ => rfl), hp (execIdle d) rfl (.run fun _ => rfl), hp (execTlbi a) rfl (.run fun _ => rfl),
        hp execTlba rfl (.run fun _ => rfl), hp execCtxs rfl (.run fun _ => rfl), hp execCtxl rfl (.run fun _ => rfl),
        hp (execTqp x) rfl (.run fun _ => rfl), hp (execLtrcRead d x) rfl (.ltrc fun _ => rfl),
        hp (execLtrcClearWindow d x) rfl (.ltrc fun _ => rfl), hp (execLtrcClearSuspect d x) rfl (.ltrc fun _ => rfl),
        hp (execStrk x) rfl (.run fun _ => rfl), List.forall_mem_nil _⟩
    · have ht {i} (f : State → Out) (hi : exec i s = f s) (hf : IsGroup .compute false f) :=
        takesTrap_of_tie hi hf (compute_allows hc) hu
      simp only [List.forall_mem_cons]
      exact ⟨ht (execMma o a a b b' b'') rfl (.issueMma fun _ => rfl), ht (execMmag o a a b b' b'') rfl (.issueMma fun _ => rfl),
        ht (execMsh d x) rfl (.run fun _ => rfl), ht (execMfmt d x) rfl (.run fun _ => rfl),
        ht (execMzero x) rfl (.run fun _ => rfl), ht (execMwait x) rfl (.run fun _ => rfl),
        ht (execMstat d) rfl (.run fun _ => rfl), ht (execMtov p v x) rfl (.run fun _ => rfl),
        ht (execVtom p v x) rfl (.run fun _ => rfl), ht (execMst k d a imm) rfl (.issueMove fun _ => rfl),
        ht (execMld m d a imm) rfl (.issueMove fun _ => rfl), ht (execVldl t p v a imm) rfl (.run fun _ => rfl),
        ht (execVstl t p v a imm) rfl (.run fun _ => rfl), ht (execSkinit t h x) rfl (.run fun _ => rfl),
        ht (execSkseed h a) rfl (.run fun _ => rfl), ht (execSkclr h) rfl (.run fun _ => rfl),
        ht (execSkcpy h h') rfl (.run fun _ => rfl), ht (execSkmrg h h') rfl (.run fun _ => rfl),
        ht (execSkadd t p h v) rfl (.run fun _ => rfl), ht (execSkq t d h x) rfl (.query fun _ => rfl),
        ht (execSkr t d h x) rfl (.query fun _ => rfl), ht (execSkhh t d h x) rfl (.query fun _ => rfl),
        ht (execSkhc d h x) rfl (.query fun _ => rfl), ht (execSkcnt d h) rfl (.query fun _ => rfl),
        ht (execSkcnh d h) rfl (.query fun _ => rfl), ht (execSkdc t d h) rfl (.queryKind fun _ => rfl),
        ht (execSkmin t d h) rfl (.query fun _ => rfl), ht (execSkmax t d h) rfl (.query fun _ => rfl),
        ht (execSkmean t d h) rfl (.queryMoment fun _ => rfl), ht (execSkvar t d h) rfl (.queryMoment fun _ => rfl),
        ht (execSksum t d h) rfl (.queryMoment fun _ => rfl), ht (execSklse t d h) rfl (.queryKind fun _ => rfl),
        ht (execSknan d h) rfl (.query fun _ => rfl), ht (execSkld h a imm) rfl (.run fun _ => rfl),
        ht (execSkst h a imm) rfl (.run fun _ => rfl), ht (execSkldh h a imm) rfl (.run fun _ => rfl), List.forall_mem_nil _⟩
    · have ht {i} (f : State → Out) (hi : exec i s = f s) (hf : IsGroup .stage false f) :=
        takesTrap_of_tie hi hf (stage_allows hc) hu
      simp only [List.forall_mem_cons]
      exact ⟨ht (execCpy a a x) rfl (.issueCopy fun _ => rfl), ht (execCpyr d a x) rfl (.issueCopy fun _ => rfl),
        ht (execCpyw x) rfl (.run fun _ => rfl), ht (execCpys d x) rfl (.run fun _ => rfl),
        ht (execCpyxResume x) rfl (.cpyx fun _ => rfl), ht (execCpyxCancel x) rfl (.cpyx fun _ => rfl),
        ht (execCpyxFlush x) rfl (.cpyx fun _ => rfl), ht (execRingb d x) rfl (.run fun _ => rfl),
        ht (execRingq d x) rfl (.run fun _ => rfl), List.forall_mem_nil _⟩
    · have ht {i} (f : State → Out) (hi : exec i s = f s) (hf : IsGroup .message false f) :=
        takesTrap_of_tie hi hf (message_allows hc) hu
      simp only [List.forall_mem_cons]
      exact ⟨ht (execMrpl x) rfl (.run fun _ => rfl), ht (execMhend x) rfl (.run fun _ => rfl), List.forall_mem_nil _⟩

end Sys2Proof.Machine
end

section
/-! # What leaves the focus where it is: a kill, a record that is taken, an access that meets a fly -/

-- Checked one after another: side by side, the stacks of the threads pass the memory that the check allows.
set_option Elab.async false

namespace Sys2Proof.Machine

namespace State

theorem foldl_focus {α : Type} {f : State → α → State} (h : ∀ s a, (f s a).focus = s.focus) (l : List α) (s : State) :
    (l.foldl f s).focus = s.focus :=
  List.foldlRecOn (motive := fun t => t.focus = s.focus) l f rfl fun t ht a _ => (h t a).trans ht

theorem foldl_fst_focus {α β : Type} {f : State × β → α → State × β} (h : ∀ e a, (f e a).1.focus = e.1.focus) (l : List α)
    (e : State × β) : (l.foldl f e).1.focus = e.1.focus :=
  List.foldlRecOn (motive := fun d => d.1.focus = e.1.focus) l f rfl fun d hd a _ => (h d a).trans hd

/-! ## Groups that wait are taken back -/

@[simp] theorem sendPacket_focus (s : State) (m : Nat) (b : PacketBody) : (s.sendPacket m b).focus = s.focus := by
  unfold sendPacket
  split <;> rfl

@[simp] theorem tellOthers_focus (s : State) (id : PitchId) (q : Plan) (m : PlanMsg) : (s.tellOthers id q m).focus = s.focus :=
  foldl_focus (fun s _ => s.sendPacket_focus _ _) _ s

@[simp] theorem leaveTrig_focus (s : State) (id : PitchId) (q : Plan) (r : Nat) (i : CtxId) : (s.leaveTrig id q r i).focus = s.focus := by
  unfold leaveTrig
  split
  · exact tellOthers_focus _ _ _ _
  · rfl

@[simp] theorem leaveColfr_focus (s : State) (id : PitchId) (q : Plan) (who : Nat × CtxId) :
    (s.leaveColfr id q who).focus = s.focus := by
  unfold leaveColfr
  split
  · rfl
  · dsimp only
    split
    · exact tellOthers_focus _ _ _ _
    · rfl

@[simp] theorem closeColset_focus (s : State) (id : PitchId) (q : ColsetReq) : (s.closeColset id q).focus = s.focus :=
  foldl_focus (fun s _ => s.sendPacket_focus _ _) _ _

@[simp] theorem withdrawPlan_focus (s : State) (r : Nat) (i : CtxId) : (s.withdrawPlan r i).focus = s.focus := by
  unfold withdrawPlan
  split
  · rfl
  · exact (foldl_focus (fun s _ => s.closeColset_focus _ _) _ _).trans
      (foldl_focus (fun s q => (leaveColfr_focus _ _ _ _).trans (s.leaveTrig_focus _ q r i)) _ s)

@[simp] theorem withdrawMessage_focus (s : State) (r : Nat) (i : CtxId) : (s.withdrawMessage r i).focus = s.focus := by
  unfold withdrawMessage
  split <;> rfl

@[simp] theorem withdraw_focus (s : State) (r : Nat) (i : CtxId) : (s.withdraw r i).focus = s.focus := by
  have h : ((s.withdrawPlan r i).withdrawMessage r i).focus = s.focus := by simp
  unfold withdraw
  dsimp only
  split
  · split <;> exact h
  · exact h

@[simp] theorem forgetPosts_focus (s : State) (gone : Nat × CtxId → Bool) : (s.forgetPosts gone).focus = s.focus := rfl

@[simp] theorem withdrawAll_focus (s : State) (r : Nat) : (s.withdrawAll r).focus = s.focus :=
  (forgetPosts_focus _ _).trans (foldl_focus (fun s i => s.withdraw_focus r i) [.s, .c, .m] s)

/-! ## A kill -/

@[simp] theorem scramble_focus (s : State) (p : Pitch) : (s.scramble p).focus = s.focus := by
  refine foldl_focus (fun s h => foldl_focus (fun s i => ?_) _ s) _ s
  split <;> rfl

@[simp] theorem countDone_focus (s : State) (r : Nat) (src : Sender) : (s.countDone r src).focus = s.focus := by
  unfold countDone
  generalize (if src.mod = s.modidx.toNat then src.rank else r) = k
  dsimp only
  split <;> rfl

@[simp] theorem dropMessages_focus (s : State) (id : PitchId) : (s.dropMessages id).focus = s.focus := by
  refine foldl_focus (fun s e => ?_) _ s
  have hm : ((e.2.messages.filter (Msg.isUserOf id)).foldl (fun s m => s.countDone e.1 m.src) s).focus = s.focus :=
    foldl_focus (fun s _ => s.countDone_focus _ _) _ s
  refine (modTile_focus _ _ _).trans ?_
  split
  · split
    · exact (countDone_focus _ _ _).trans hm
    · exact hm
  · exact hm

@[simp] theorem abandonCells_focus (s : State) (r : Nat) : (s.abandonCells r).focus = s.focus := by
  refine foldl_focus (fun s e => ?_) _ s
  rfl

@[simp] theorem passAsks_focus (s : State) (p : Pitch) : (s.passAsks p).focus = s.focus := by
  unfold passAsks
  split
  · rfl
  · exact foldl_focus (fun s _ => s.sendPacket_focus _ _) _ s

@[simp] theorem killOne_focus (s : State) (id : PitchId) : (s.killOne id).focus = s.focus := by
  have hw (l : List Nat) (u : State) : (l.foldl (fun s r => (s.withdrawAll r).abandonCells r) u).focus = u.focus :=
    foldl_focus (fun s r => (abandonCells_focus _ r).trans (s.withdrawAll_focus r)) l u
  have ht (l : List Nat) (u : State) : (l.foldl (fun s m => s.tell m id.cfg .killed) u).focus = u.focus :=
    foldl_focus (fun s _ => s.sendPacket_focus _ _) l u
  unfold killOne
  split
  · rfl
  · exact (passAsks_focus _ _).trans ((ht _ _).trans ((hw _ _).trans ((dropMessages_focus _ _).trans (scramble_focus _ _))))

/-! ## The end of a pitch -/

@[simp] theorem leaveEdge_focus (s : State) (e : Option Nat × Token) : (s.leaveEdge e).focus = s.focus := by
  unfold leaveEdge
  split <;> rfl

@[simp] theorem queueErr_focus (s : State) (q : Nat) (e : Byte) : (s.queueErr q e).focus = s.focus := by
  unfold queueErr unbind
  split <;> rfl

@[simp] theorem dropEdge_focus (s : State) (p : Pitch) : (s.dropEdge p).focus = s.focus :=
  foldl_focus (fun s e => s.leaveEdge_focus e) _ _

@[simp] theorem releaseBehind_focus (s : State) (id : PitchId) : (s.releaseBehind id).focus = s.focus := by
  refine foldl_focus (fun s q => ?_) _ _
  rfl

@[simp] theorem endPitch_focus (s : State) (id : PitchId) (e : Option Byte) : (s.endPitch id e).focus = s.focus := by
  unfold endPitch
  split
  · rfl
  · next p _ =>
    refine (releaseBehind_focus _ id).trans ((passAsks_focus _ p).trans ?_)
    have hd : ((s.freeRegion id).dropEdge p).focus = s.focus := dropEdge_focus _ p
    cases e with
    | none => exact hd
    | some e => exact (foldl_focus (fun s q => s.queueErr_focus q e) _ _).trans hd

@[simp] theorem requeue_focus (s : State) (p : Pitch) : (s.requeue p).focus = s.focus := by
  unfold requeue
  dsimp only
  split <;> rfl

@[simp] theorem killWaiting_focus (s : State) (id : PitchId) : (s.killWaiting id).focus = s.focus := by
  have h : ((s.forgetSaves id).killOne id).focus = s.focus := killOne_focus _ id
  unfold killWaiting
  dsimp only
  split
  · split
    · exact (requeue_focus _ _).trans h
    · exact (endPitch_focus _ _ _).trans h
  · exact h

@[simp] theorem killBehind_focus (s : State) (p : Pitch) : (s.killBehind p).focus = s.focus := by
  unfold killBehind
  split
  · split
    · exact killWaiting_focus s _
    · rfl
  · rfl

@[simp] theorem killPitch_focus (s : State) (id : PitchId) : (s.killPitch id).focus = s.focus := by
  have hf (l : List PitchId) : (l.foldl killOne s).focus = s.focus := foldl_focus killOne_focus l s
  have hb (b : PitchId) : (((s.pitch? b).map s.killBehind).getD s).focus = s.focus := by
    cases s.pitch? b with
    | none => rfl
    | some q => exact s.killBehind_focus q
  have hl (p : Pitch) : (((s.forgetSaves id).killOne id).killBehind p).focus = s.focus :=
    (killBehind_focus _ p).trans (killOne_focus _ id)
  unfold killPitch
  cases s.pitch? id with
  | none => rfl
  | some p =>
    cases hp : p.state with
    | running => simp only [hp, hf]
    | preempting => simp only [hp, hf]
    | loading => simp only [hp, hl]
    | armed t => simp only [hp, hl]
    | killed => simp only [hp]
    | struck => simp only [hp]
    | queued =>
      simp only [hp]
      split
      · exact (killWaiting_focus _ _).trans (hb _)
      · exact (killWaiting_focus _ _).trans (killBehind_focus _ p)

/-! ## Records (R374 to R376) -/

@[simp] theorem noteRecord_focus (s : State) (p : Post) : (s.noteRecord p).focus = s.focus := by
  unfold noteRecord
  dsimp only
  split
  · split
    · exact killPitch_focus _ _
    · rfl
  · rfl

theorem acceptPost_focus {s u : State} {f : Nat} {p : Post} (h : s.acceptPost f p = some u) : u.focus = s.focus := by
  simp only [acceptPost] at h
  split at h
  · cases h
    exact noteRecord_focus _ _
  · split at h
    · cases h
      exact noteRecord_focus _ _
    · contradiction

/-! ## Accesses that meet a fly (R369, R371) -/

@[simp] theorem meetFly_focus (s : State) (key n : Nat) (write : Bool) : (s.meetFly key n write).1.focus = s.focus := by
  unfold meetFly
  dsimp only
  split
  · rfl
  · refine foldl_fst_focus (fun e g => ?_) _ _
    rfl

@[simp] theorem writeSeen_focus (s : State) (key n : Nat) : (s.writeSeen key n).focus = s.focus := by
  unfold writeSeen
  split
  · rfl
  · exact meetFly_focus _ _ _ _

@[simp] theorem readSeen_focus (s : State) (key n : Nat) : (s.readSeen key n).1.focus = s.focus := meetFly_focus _ _ _ _

theorem setPoison_focus (s : State) (l : List Nat) : ({ s with poison := l } : State).focus = s.focus := rfl

@[simp] theorem saveCross_focus (s : State) (r : Nat) : (s.saveCross r).focus = s.focus :=
  (setPoison_focus _ _).trans (writeSeen_focus _ _ _)

/-- Its own equation would have the kernel compare numbers as large as the save area's address. -/
theorem restoreRead_eq (s : State) (r : Nat) : s.restoreRead r = (s.readSeen (saveArea r) saveBytes).1 := by
  have hd : restoreRead = fun s r => (s.readSeen (saveArea r) saveBytes).1 := rfl
  rw [hd]

@[simp] theorem restoreRead_focus (s : State) (r : Nat) : (s.restoreRead r).focus = s.focus := by
  rw [restoreRead_eq, readSeen_focus]

end State

end Sys2Proof.Machine
end

section
/-! # The system instructions (R391 to R400) -/

-- Checked one after another: side by side, the stacks of the threads pass the memory that the check allows.
set_option Elab.async false

namespace Sys2Proof.Machine

variable {s : State}

/-! ## MFK and MTK (R391) -/

theorem State.kdefect_seen {n : KReg} {w : Word} (h : s.kread s.focus.rank s.focus.ctx n.toNat = some w)
    (hh : ¬(0x030 ≤ n.toNat ∧ n.toNat ≤ 0x035 ∧ s.cur.sup = false)) :
    s.kdefect n.toNat = if kCompute n.toNat && s.focus.ctx != .c then some (.trap 0x02 0 s.baseValue) else none := by
  have hp : (kPrivate n.toNat && !s.cur.sup) = false := by
    cases hs : s.cur.sup with
    | true => simp
    | false =>
      have : ¬(0x030 ≤ n.toNat ∧ n.toNat ≤ 0x035) := fun hn => hh ⟨hn.1, hn.2, hs⟩
      simpa [kPrivate] using this
  unfold State.kdefect
  rw [h, hp]
  rfl

theorem State.kdefect_unseen {n : KReg}
    (h : s.kread s.focus.rank s.focus.ctx n.toNat = none ∨ 0x030 ≤ n.toNat ∧ n.toNat ≤ 0x035 ∧ s.cur.sup = false) :
    s.kdefect n.toNat = some (.trap 0x01 0x0E (BitVec.ofNat 64 n.toNat)) := by
  unfold State.kdefect
  refine if_pos ?_
  obtain h | ⟨h, h', hs⟩ := h
  · simp [h]
  · simp [kPrivate, h, h', hs]

theorem kCompute_iff {n : KReg} : kCompute n.toNat = true ↔ n = 0x018 ∨ n = 0x019 := by
  simp [kCompute, ← BitVec.toNat_inj]

theorem Tile.clearLog_other {n : Nat} (h : n ≠ 0x060) (h' : n ≠ 0x070) (t : Tile) : t.clearLog n = t := by
  unfold Tile.clearLog
  rw [if_neg h, if_neg h']

theorem State.modCur_modHere_id (s : State) (f : Ctx → Ctx) {g : Tile → Tile} (hg : ∀ t, g t = t) :
    (s.modCur f).modHere g = s.modCur f := by
  obtain rfl : g = fun t => t := funext hg
  exact State.modTile_modTile s s.focus.rank (fun t => t.setCtx s.focus.ctx (f (t.ctx s.focus.ctx))) fun t => t

theorem execMfk_commits {d : GReg} {n : KReg} {w : Word} (h : Ready .all false s) (hd : s.kdefect n.toNat = none)
    (hw : s.kread s.focus.rank s.focus.ctx n.toNat = some w) {u : State}
    (hu : (if s.cur.sup then (s.modCur fun c => c.setG d w).modHere fun t => t.clearLog n.toNat else s.modCur fun c => c.setG d w) = u)
    (hf : u.focus = s.focus) : Completes (.mfk d n) s u := by
  have hx : ∃ t, execMfk d n s = .next t ∧ Commits s u t := by
    refine runGroup_commits h ?_ hf
    simp only [hd, hw, Option.getD_some, hu]
  exact hx

theorem execMtk_commits {d : GReg} {n : KReg} (h : Ready .all false s) (hd : s.kdefect n.toNat = none) :
    Completes (.mtk d n) s (s.kwrite s.focus.rank s.focus.ctx n.toNat (s.cur.getG d)) := by
  have hx : ∃ t, execMtk d n s = .next t ∧ Commits s (s.kwrite s.focus.rank s.focus.ctx n.toNat (s.cur.getG d)) t := by
    refine runGroup_commits h ?_ ?_
    · simp only [hd]
    · unfold State.kwrite
      dsimp only
      split <;> rfl
  exact hx

theorem kmove_traps {d : GReg} {n : KReg} {code detail : Byte} {value : DWord} (h : Ready .all false s) (hu : s.cur.sup = false)
    (hd : s.kdefect n.toNat = some (.trap code detail value)) :
    TakesTrap (.mfk d n) s code detail value ∧ TakesTrap (.mtk d n) s code detail value := by
  have hf : ∃ t, execMfk d n s = .next t ∧ Trapped s t code detail value s.focus.len := by
    refine runGroup_traps h hu ?_
    simp only [hd]
  have ht : ∃ t, execMtk d n s = .next t ∧ Trapped s t code detail value s.focus.len := by
    refine runGroup_traps h hu ?_
    simp only [hd]
  exact ⟨hf, ht⟩

/-! ## Records that a group posts (R376) -/

/-- No record of another waits before those of the context's group. -/
def State.First (s : State) : Prop := ∀ w, (s.field (s.fieldOf s.focus.rank)).posts.find? (fun q => q.held) = some w →
  w.group = some (s.focus.rank, s.focus.ctx)

/-- The group's own record joins those that wait, once. -/
def State.joinWaiting (s : State) (p : Post) : State :=
  s.modField (s.fieldOf s.focus.rank) fun f => if f.posts.any (fun w => w.group == some (s.focus.rank, s.focus.ctx)) then f
    else { f with posts := f.posts ++ [{ p with held := true, group := some (s.focus.rank, s.focus.ctx) }] }

theorem State.postGroup_taken {p : Post} {u : State} (h : p.record.flags.getLsbD 0 = true ∨ s.First)
    (ha : s.acceptPost (s.fieldOf s.focus.rank) p = some u) :
    s.postGroup p = (u.forgetPosts fun g => g == (s.focus.rank, s.focus.ctx), true) := by
  unfold State.postGroup
  obtain h | h := h
  · simp only [h, Bool.true_or, if_true, ha]
  · cases hq : (s.field (s.fieldOf s.focus.rank)).posts.find? fun w => w.held with
    | none => simp only [hq, Bool.or_true, if_true, ha]
    | some w => simp only [hq, h w hq, beq_self_eq_true, Bool.or_true, if_true, ha]

theorem State.acceptPost_full {p : Post} {f : Nat} (hf : p.record.flags.getLsbD 0 = false) (h : 255 ≤ (s.field f).queue.length) :
    s.acceptPost f p = none := by
  unfold State.acceptPost
  simp only [hf, Bool.false_eq_true, if_false]
  exact if_neg (Nat.not_lt.2 h)

theorem State.postGroup_waits {p : Post} (hf : p.record.flags.getLsbD 0 = false)
    (h : ¬s.First ∨ 255 ≤ (s.field (s.fieldOf s.focus.rank)).queue.length) : s.postGroup p = (s.joinWaiting p, false) := by
  unfold State.postGroup
  obtain h | h := h
  · unfold State.First at h
    push Not at h
    obtain ⟨w, hq, hw⟩ := h
    simp only [hf, hq, beq_false_of_ne hw, Bool.or_false, Bool.false_eq_true, if_false]
    rfl
  · simp only [State.acceptPost_full hf h, ite_self]
    rfl

/-- A wait leaves the place and the registers. -/
theorem AfterCycles.of_wait {u t : State} (ac : AfterCycles (u.modCur fun c => { c with waiting := true }) t) :
    t.cur.waiting = true ∧ t.cur.pc = u.cur.pc ∧ t.cur.g = u.cur.g := by
  have hc := ac.ctx
  rw [State.cur_modCur] at hc
  rw [hc]
  exact ⟨rfl, rfl, rfl⟩

/-- The state of a group that waits with its record among those that wait. -/
theorem runGroup_waits_joined {tie : Tie} {priv : Bool} {body : Body} {p : Post} (h : Ready tie priv s)
    (hb : body s = .error (.wait (s.joinWaiting p))) : ∃ t, runGroup tie priv body s = .next t ∧ t.cur.waiting = true ∧
      t.cur.pc = s.cur.pc ∧ t.cur.g = s.cur.g ∧ t.mem = s.mem ∧
      t.field (s.fieldOf s.focus.rank) = (s.joinWaiting p).field (s.fieldOf s.focus.rank) := by
  have ac : AfterCycles ((s.joinWaiting p).modCur fun c => { c with waiting := true }) (s.leaveGroup (.wait (s.joinWaiting p))) :=
    afterCycles_elapse _ true
  obtain ⟨hw, hpc, hg⟩ := ac.of_wait
  exact ⟨s.leaveGroup (.wait (s.joinWaiting p)), by rw [runGroup_ready h, hb], hw, hpc, hg, rfl, rfl⟩

/-- What the claims say of a group that posts the record `p` and then does `after`. -/
def Posts (i : Instr) (s : State) (p : Post) (after : State → State) : Prop :=
  let f := s.field (s.fieldOf s.focus.rank)
  (p.record.flags.getLsbD 0 = true ∨ s.First → ∀ u, s.acceptPost (s.fieldOf s.focus.rank) p = some u →
    Completes i s (after (u.forgetPosts fun g => g == (s.focus.rank, s.focus.ctx)))) ∧
  (p.record.flags.getLsbD 0 = false → ¬s.First ∨ 255 ≤ f.queue.length → ∃ t, exec i s = .next t ∧ t.cur.waiting = true ∧
    t.cur.pc = s.cur.pc ∧ t.cur.g = s.cur.g ∧ t.mem = s.mem ∧ (t.field (s.fieldOf s.focus.rank)).queue = f.queue ∧
    (t.field (s.fieldOf s.focus.rank)).posts = if f.posts.any (fun w => w.group == some (s.focus.rank, s.focus.ctx)) then f.posts
      else f.posts ++ [{ p with held := true, group := some (s.focus.rank, s.focus.ctx) }])

/-- A group posts when its body goes on with the record taken and waits with the record refused. -/
theorem posts_of_body {i : Instr} {p : Post} {after : State → State} {body : Body} (he : exec i s = runGroup .all true body s)
    (h : Ready .all true s) (hf : ∀ u, (after u).focus = u.focus)
    (htaken : ∀ v, s.postGroup p = (v, true) → body s = .ok (.on (after v)))
    (hwaits : ∀ v, s.postGroup p = (v, false) → body s = .error (.wait v)) : Posts i s p after := by
  refine ⟨fun hp u hu => ?_, fun hp hw => ?_⟩
  · unfold Completes
    rw [he]
    exact runGroup_commits h (htaken _ (State.postGroup_taken hp hu)) ((hf _).trans ((State.forgetPosts_focus u _).trans (State.acceptPost_focus hu)))
  · rw [he]
    obtain ⟨t, ht, hwt, hpc, hg, hm, hfd⟩ := runGroup_waits_joined h (hwaits _ (State.postGroup_waits hp hw))
    rw [State.joinWaiting, State.field_modField] at hfd
    refine ⟨t, ht, hwt, hpc, hg, hm, ?_, ?_⟩
    · rw [hfd]
      split <;> rfl
    · rw [hfd]
      split <;> rfl

end Sys2Proof.Machine
end

section
/-! # The privileged instructions of page 4 (R392 to R400) -/

-- Checked one after another: side by side, the stacks of the threads pass the memory that the check allows.
set_option Elab.async false

namespace Sys2Proof.Machine

variable {s : State}

/-- A group of one's own that the supervisor alone may run. -/
theorem completes_of_body {i : Instr} {u : State} {body : Body} (he : exec i s = runGroup .all true body s) (h : Ready .all true s)
    (hb : body s = .ok (.on u)) (hf : u.focus = s.focus) : Completes i s u := by
  unfold Completes
  rw [he]
  exact runGroup_commits h hb hf

/-- A refusal at supervisor level is a double trap (R29, R88). -/
theorem refused_of_body {i : Instr} {body : Body} (he : exec i s = runGroup .all true body s) (h : Ready .all true s)
    (hb : body s = .error s.refuse) : ∃ t, exec i s = .next t ∧ t.cur = s.cur.doubleTrap := by
  rw [he, runGroup_ready h, hb]
  exact ⟨_, rfl, State.leaveGroup_trap_sup (h.1 rfl)⟩

/-! ## IDLE, TLBI, TLBA (R393, R394) -/

theorem idle_answered {d : GReg} {w : Word} (h : Ready .all true s) (ha : s.cur.answer = .came w) :
    Yields (.idle d) s { s.cur.setG d w with answer := .none } := by
  refine completes_of_body (show exec (.idle d) s = execIdle d s from rfl) h ?_ rfl
  simp only [ha]
  rw [State.modCur_eq_setCur]

theorem idle_waits {d : GReg} (h : Ready .all true s) (ha : s.cur.answer = .due) : ∃ t, exec (.idle d) s = .next t ∧ Waits s t := by
  have hw : ∃ t, execIdle d s = .next t ∧ Waits s t := runGroup_waits h (by simp only [ha])
  exact hw

theorem State.released_of_stored (h : s.cur.storing = []) : s.released = true := by
  rw [State.released, h]
  rfl

theorem tlbi_drops {a : AReg} {va : Nat} {p : Pitch} (h : Ready .all true s) (hs : s.cur.storing = [])
    (ha : spaceOf (s.cur.getA a) = some (.global va)) (hp : s.pitchHere = some p) :
    Completes (.tlbi a) s (s.invalidate fun c => TlbEntry.maps c p.image.root va) := by
  refine completes_of_body (show exec (.tlbi a) s = execTlbi a s from rfl) h ?_ rfl
  simp [ha, hp, State.released_of_stored hs]

theorem tlba_drops (h : Ready .all true s) (hs : s.cur.storing = []) : Completes .tlba s (s.invalidate fun _ => true) := by
  refine completes_of_body (show exec .tlba s = execTlba s from rfl) h ?_ rfl
  simp [State.released_of_stored hs]

/-! ## TQP and STRK (R396, R397) -/

theorem byte_flags_iff (b : Byte) : b >>> 2 ≠ 0 ↔ 3 < b.toNat := by
  rw [Ne, ← BitVec.toNat_inj]
  simp [Nat.shiftRight_eq_div_pow]
  omega

theorem strk_struck {x : GReg} (h : Ready .all true s) (hs : s.here.struck = true ∨ s.here.strikeDue ≠ none) :
    Completes (.strk x) s s := by
  refine completes_of_body (show exec (.strk x) s = execStrk x s from rfl) h (if_pos ?_) rfl
  obtain hs | hs := hs
  · simp [hs]
  · simp [Option.isSome_iff_ne_none.2 hs]

theorem strk_posts {x : GReg} (h : Ready .all true s) (hs : s.here.struck = false) (hd : s.here.strikeDue = none) :
    Posts (.strk x) s { record := s.strkRecord ((s.cur.getG x).setWidth 8), pitch := s.here.pitch } fun u =>
      u.modHere fun t => { t.stopAll with strikeDue := some 0x25 } := by
  have hc : (s.here.struck || s.here.strikeDue.isSome) = false := by rw [hs, hd]; rfl
  refine posts_of_body (show exec (.strk x) s = execStrk x s from rfl) h (fun _ => rfl) (fun v hv => ?_) fun v hv => ?_
  · simp only [hc, hv]
    rfl
  · simp only [hc, hv]
    rfl

/-- The flags of the image that TQP posts. -/
def State.tqpFlags (s : State) (x : GReg) : Byte := s.scratchRead 8 ((s.cur.getG x).toNat + 2) 1

/-- TQP asks for an answer: its flags say so of a record that is not fatal (R396). -/
def tqpAsks (b : Byte) : Bool := b.getLsbD 1 && !b.getLsbD 0

/-- TQP's question. -/
def State.asks (s : State) (b : Byte) : State := if tqpAsks b then s.modCur fun c => { c with answer := .due } else s

theorem State.asks_no {b : Byte} (s : State) (h : tqpAsks b = false) : s.asks b = s := by
  rw [State.asks, h]
  rfl

theorem State.asks_yes {b : Byte} (s : State) (h : tqpAsks b = true) : s.asks b = s.modCur fun c => { c with answer := .due } :=
  if_pos h

theorem State.asks_focus (s : State) (b : Byte) : (s.asks b).focus = s.focus := by
  unfold State.asks
  split <;> rfl

theorem tqp_refuses_flags {x : GReg} (h : Ready .all true s) (ho : s.scratchOffset (s.cur.getG x).toNat 64 64 = .ok ())
    (hf : 3 < (s.tqpFlags x).toNat) : ∃ t, exec (.tqp x) s = .next t ∧ t.cur = s.cur.doubleTrap := by
  refine refused_of_body (show exec (.tqp x) s = execTqp x s from rfl) h ?_
  have hb : s.scratchRead 8 ((s.cur.getG x).toNat + 2) 1 >>> 2 ≠ 0 := (byte_flags_iff _).2 hf
  simp only [ho, if_pos hb]
  rfl

theorem tqp_refuses_question {x : GReg} (h : Ready .all true s) (ho : s.scratchOffset (s.cur.getG x).toNat 64 64 = .ok ())
    (hf : ¬3 < (s.tqpFlags x).toNat) (hq : tqpAsks (s.tqpFlags x) = true) (ha : s.cur.answer ≠ .none) :
    ∃ t, exec (.tqp x) s = .next t ∧ t.cur = s.cur.doubleTrap := by
  refine refused_of_body (show exec (.tqp x) s = execTqp x s from rfl) h ?_
  have hb : ¬s.scratchRead 8 ((s.cur.getG x).toNat + 2) 1 >>> 2 ≠ 0 := fun hb => hf ((byte_flags_iff _).1 hb)
  have hc : (tqpAsks (s.tqpFlags x) && s.cur.answer != .none) = true := by rw [hq, bne_iff_ne.2 ha]; rfl
  unfold tqpAsks State.tqpFlags at hc
  simp only [ho, if_neg hb, if_pos hc]
  rfl

theorem tqp_posts {x : GReg} (h : Ready .all true s) (ho : s.scratchOffset (s.cur.getG x).toNat 64 64 = .ok ())
    (hf : ¬3 < (s.tqpFlags x).toNat) (hq : tqpAsks (s.tqpFlags x) = true → s.cur.answer = .none) :
    Posts (.tqp x) s { record := s.tqpRecord (s.cur.getG x).toNat, pitch := s.here.pitch } fun u => u.asks (s.tqpFlags x) := by
  have hb : ¬s.scratchRead 8 ((s.cur.getG x).toNat + 2) 1 >>> 2 ≠ 0 := fun hb => hf ((byte_flags_iff _).1 hb)
  have hc : ¬(tqpAsks (s.tqpFlags x) && s.cur.answer != .none) = true := by
    intro hc
    obtain ⟨hc, ha⟩ := Bool.and_eq_true_iff.1 hc
    exact bne_iff_ne.1 ha (hq hc)
  unfold tqpAsks State.tqpFlags at hc
  refine posts_of_body (show exec (.tqp x) s = execTqp x s from rfl) h (fun u => u.asks_focus _) (fun v hv => ?_) fun v hv => ?_
  · simp only [ho, if_neg hb, if_neg hc, hv]
    rfl
  · simp only [ho, if_neg hb, if_neg hc, hv]
    rfl

theorem tqpAsks_two {b : Byte} (h : b.toNat = 2) : tqpAsks b = true := by
  obtain rfl : b = 2 := BitVec.eq_of_toNat_eq h
  rfl

theorem tqpAsks_other {b : Byte} (h : b.toNat < 2 ∨ b.toNat = 3) : tqpAsks b = false := by
  have h4 : b.toNat = 0 ∨ b.toNat = 1 ∨ b.toNat = 3 := by omega
  obtain h | h | h := h4
  · obtain rfl : b = 0 := BitVec.eq_of_toNat_eq h
    rfl
  · obtain rfl : b = 1 := BitVec.eq_of_toNat_eq h
    rfl
  · obtain rfl : b = 3 := BitVec.eq_of_toNat_eq h
    rfl

/-! ## CTXS and CTXL (R387, R400) -/

theorem State.inSaveMode_iff : s.inSaveMode = true ↔ s.focus.ctx = .s ∧ s.here.saveMode = true := by
  simp [State.inSaveMode]

/-- CTXS in save mode commits with the save of its tile. -/
theorem ctxs_commits (h : Ready .all true s) (hm : s.inSaveMode = true) {u : State} (hu : (s.saveTile s.focus.rank).1 = u)
    (hf : u.focus = s.focus) : Completes .ctxs s u := by
  refine completes_of_body (show exec .ctxs s = execCtxs s from rfl) h ?_ hf
  simp only [hm, hu]
  rfl

theorem State.saveTile_bad {r : Nat} {a : DWord} (h : s.saveBad r = some a) : (s.saveTile r).1 = s.saveFault r 0x20 a := by
  unfold State.saveTile
  rw [h]

theorem State.saveTile_dead {r : Nat} (h : s.saveBad r = none) (hd : (s.saveCross r).deadPole (saveArea r) = true) :
    (s.saveTile r).1 = (s.saveCross r).postDeadPole r := by
  unfold State.saveTile
  rw [h]
  generalize s.saveCross r = w at hd ⊢
  dsimp only
  rw [if_pos hd]

theorem State.saveTile_whole {r : Nat} (h : s.saveBad r = none) (hd : (s.saveCross r).deadPole (saveArea r) = false) :
    (s.saveTile r).1 = (s.saveCross r).saveNode r := by
  unfold State.saveTile
  rw [h]
  generalize s.saveCross r = w at hd ⊢
  dsimp only
  rw [if_neg (by rw [hd]; exact Bool.false_ne_true)]

theorem State.poisonIn_nil {lo n : Nat} (h : ∀ k ∈ s.poison, 8 * k < lo ∨ lo + n ≤ 8 * k) : s.poisonIn lo n = [] := by
  have hf : s.poison.filter (fun w => lo ≤ 8 * w && 8 * w < lo + n) = [] := by
    rw [List.filter_eq_nil_iff]
    intro k hk
    have := h k hk
    simp
    omega
  rw [State.poisonIn, hf]
  rfl

theorem State.poisonIn_ne_nil {lo n k : Nat} (hk : k ∈ s.poison) (h : lo ≤ 8 * k) (h' : 8 * k < lo + n) : s.poisonIn lo n ≠ [] := by
  have hm : k ∈ s.poison.filter fun w => lo ≤ 8 * w && 8 * w < lo + n := List.mem_filter.2 ⟨hk, by simp [h, h']⟩
  exact List.ne_nil_of_mem (List.mem_map_of_mem hm)

/-- The bytes that the save of a tile reads end at the end of its lane window. -/
theorem sramKey_lane_end (r : Nat) : sramKey r .lane (2 ^ 15) = sramKey r .scratch 0 + (Region.lane.base + 2 ^ 15) := by
  simp only [sramKey, Region.base]
  omega

theorem State.saveBad_none {r : Nat} (hh : (s.tile r).hbad = [])
    (hp : ∀ k ∈ s.poison, 8 * k < sramKey r .scratch 0 ∨ sramKey r .lane (2 ^ 15) ≤ 8 * k) : s.saveBad r = none := by
  rw [sramKey_lane_end] at hp
  unfold State.saveBad
  rw [State.poisonIn_nil hp, hh]
  rfl

theorem State.restoreBad_of_poison {r k : Nat} (hk : k ∈ s.poison) (h : saveArea r ≤ 8 * k) (h' : 8 * k < saveArea r + saveBytes) :
    ∃ a, s.restoreBad r = some a := by
  have hn := State.poisonIn_ne_nil hk h h'
  unfold State.restoreBad
  generalize s.poisonIn (saveArea r) saveBytes = l at hn
  cases l with
  | nil => exact absurd rfl hn
  | cons a l => exact ⟨_, rfl⟩

@[simp] theorem State.restoreNode_focus (s : State) (r : Nat) (n : SavedNode) : (s.restoreNode r n).focus = s.focus := rfl

@[simp] theorem State.saveFault_focus (s : State) (r : Nat) (code : Byte) (a : DWord) : (s.saveFault r code a).focus = s.focus := rfl

@[simp] theorem State.saveNode_focus (s : State) (r : Nat) : (s.saveNode r).focus = s.focus := rfl

theorem ctxl_restores (h : Ready .all true s) (hm : s.inSaveMode = true)
    (hb : (s.restoreRead s.focus.rank).restoreBad s.focus.rank = none) {n : SavedNode}
    (hn : (s.restoreRead s.focus.rank).savedNode s.focus.rank = some n) :
    ∃ t, exec .ctxl s = .next t ∧ Leaves s ((s.restoreRead s.focus.rank).restoreNode s.focus.rank n) t := by
  have hx : ∃ t, execCtxl s = .next t ∧ Leaves s ((s.restoreRead s.focus.rank).restoreNode s.focus.rank n) t := by
    refine runGroup_leaves h ?_ ?_
    · simp only [hm, hb, hn]
      rfl
    · rw [State.restoreNode_focus, State.restoreRead_focus]
  exact hx

theorem ctxl_faults (h : Ready .all true s) (hm : s.inSaveMode = true) {a : DWord}
    (hb : (s.restoreRead s.focus.rank).restoreBad s.focus.rank = some a) :
    Completes .ctxl s ((s.restoreRead s.focus.rank).saveFault s.focus.rank 0x21 a) := by
  refine completes_of_body (show exec .ctxl s = execCtxl s from rfl) h ?_ ?_
  · simp only [hm, hb]
    rfl
  · rw [State.saveFault_focus, State.restoreRead_focus]

theorem saveMode_refuses {i : Instr} (hi : i = .ctxs ∨ i = .ctxl) (h : Ready .all true s) (hm : s.inSaveMode = false) :
    ∃ t, exec i s = .next t ∧ t.cur = s.cur.doubleTrap := by
  obtain rfl | rfl := hi
  · refine refused_of_body (show exec .ctxs s = execCtxs s from rfl) h ?_
    simp only [hm]
    rfl
  · refine refused_of_body (show exec .ctxl s = execCtxl s from rfl) h ?_
    simp only [hm]
    rfl

/-! ## The claim -/

/-- MFK of a register that is seen, at either level; only a log status register is changed by the read (R405). -/
theorem mfk_yields {d : GReg} {n : KReg} {w : Word} (h : Ready .all false s) (hd : s.kdefect n.toNat = none)
    (hw : s.kread s.focus.rank s.focus.ctx n.toNat = some w) (hn : s.cur.sup = false ∨ n ≠ 0x060 ∧ n ≠ 0x070) :
    Yields (.mfk d n) s (s.cur.setG d w) := by
  refine execMfk_commits h hd hw ?_ rfl
  rw [← State.modCur_eq_setCur s fun c => c.setG d w]
  split
  · next hs =>
    obtain hn | ⟨hn, hn'⟩ := hn
    · rw [hs] at hn
      contradiction
    · exact s.modCur_modHere_id _ fun t => t.clearLog_other (fun e => hn (BitVec.eq_of_toNat_eq e)) fun e => hn' (BitVec.eq_of_toNat_eq e)
  · rfl

theorem mfk_clears {d : GReg} {n : KReg} {w : Word} (h : Ready .all false s) (hd : s.kdefect n.toNat = none)
    (hw : s.kread s.focus.rank s.focus.ctx n.toNat = some w) (hs : s.cur.sup = true) :
    Completes (.mfk d n) s ((s.setCur (s.cur.setG d w)).modHere fun t => t.clearLog n.toNat) := by
  refine execMfk_commits h hd hw ?_ rfl
  rw [if_pos hs, State.modCur_eq_setCur]

/-- Settles O52: each clause is what one of the lemmas above says of its instruction. -/
theorem systemInstructions : Obligations.SystemInstructions := by
  intro s d x a n r hidden compute o flags me refused posts
  refine ⟨fun h => ⟨?_, ?_, ?_⟩, fun h => ⟨?_, ?_, ?_, ?_, ?_, ?_, ?_, ?_⟩⟩
  · intro w hw hh hc
    have hd : s.kdefect n.toNat = none := by
      rw [State.kdefect_seen hw hh]
      refine if_neg fun hk => hc ?_
      obtain ⟨hk, hi⟩ := Bool.and_eq_true_iff.1 hk
      exact ⟨kCompute_iff.1 hk, bne_iff_ne.1 hi⟩
    exact ⟨mfk_yields h hd hw, mfk_clears h hd hw, execMtk_commits h hd⟩
  · intro w hw hh hc hu
    refine kmove_traps h hu ?_
    rw [State.kdefect_seen hw hh]
    exact if_pos (Bool.and_eq_true_iff.2 ⟨kCompute_iff.2 hc.1, bne_iff_ne.2 hc.2⟩)
  · intro hh hu
    exact kmove_traps h hu (State.kdefect_unseen hh)
  · exact fun w ha => idle_answered h ha
  · exact idle_waits h
  · exact fun hs => ⟨fun va p ha hp => tlbi_drops h hs ha hp, tlba_drops h hs⟩
  · intro ho
    have hw (hf : flags < 4) : ¬3 < (s.tqpFlags x).toNat := Nat.not_lt.2 (Nat.le_of_lt_succ hf)
    refine ⟨tqp_refuses_flags h ho, fun hf ha => ?_, fun hf => ?_, fun hf ha => ?_⟩
    · exact tqp_refuses_question h ho (hw (by omega)) (tqpAsks_two hf) ha
    · have hq : tqpAsks (s.tqpFlags x) = false := tqpAsks_other hf
      have hp := tqp_posts h ho (hw (by omega)) fun hq' => absurd hq' (by rw [hq]; exact Bool.false_ne_true)
      rw [show (fun u : State => u.asks (s.tqpFlags x)) = fun u => u from funext fun u => u.asks_no hq] at hp
      exact hp
    · have hq : tqpAsks (s.tqpFlags x) = true := tqpAsks_two hf
      have hp := tqp_posts h ho (hw (by omega)) fun _ => ha
      rw [show (fun u : State => u.asks (s.tqpFlags x)) = fun u => u.modCur fun c => { c with answer := .due } from
        funext fun u => u.asks_yes hq] at hp
      exact hp
  · exact strk_struck h
  · exact strk_posts h
  · intro hc hm
    have hin : s.inSaveMode = true := State.inSaveMode_iff.2 ⟨hc, hm⟩
    refine ⟨⟨fun hh hp hd => ?_, fun hb hd => ?_, fun a hb => ?_⟩, fun hb m hn => ctxl_restores h hin hb hn,
      fun a hb => ctxl_faults h hin hb, fun k hk h1 h2 => State.restoreBad_of_poison hk h1 h2⟩
    · exact ctxs_commits h hin (State.saveTile_whole (State.saveBad_none hh hp) hd)
        ((State.saveNode_focus _ _).trans (State.saveCross_focus _ _))
    · have hu := State.saveTile_dead hb hd
      rw [State.postDeadPole] at hu
      exact ctxs_commits h hin hu ((State.post_focus _ _ _).trans (State.saveCross_focus _ _))
    · exact ctxs_commits h hin (State.saveTile_bad hb) rfl
  · intro hn i hi
    refine saveMode_refuses hi h (Bool.eq_false_iff.2 fun hin => ?_)
    obtain ⟨hc, hm⟩ := State.inSaveMode_iff.1 hin
    obtain hn | hn := hn
    · exact hn hc
    · rw [hm] at hn
      contradiction

end Sys2Proof.Machine
end

section
/-! # Elements of a vector register (R174, R176) -/

namespace Sys2Proof.Machine

theorem testBit_natField (n lo w j : Nat) : (natField n lo w).testBit j = (decide (j < w) && n.testBit (lo + j)) := by
  rw [natField, Nat.testBit_mod_two_pow, Nat.testBit_div_two_pow, Nat.add_comm]

theorem elemOf_lt (w : Nat) (v : VWord) (e : Nat) : elemOf w v e < 2 ^ w := Nat.mod_lt _ (Nat.two_pow_pos w)

/-- Bit `i` of a word built from elements of width `w`, the first of them lowest. -/
theorem getLsbD_foldr_elems (w : Nat) (f : Nat → Nat) (n k i : Nat) (hi : i < 1024) (hn : i < w * n) :
    ((List.range' k n).foldr (fun e (acc : VWord) => acc <<< w ||| BitVec.ofNat 1024 (f e % 2 ^ w)) 0).getLsbD i =
      (f (k + i / w)).testBit (i % w) := by
  induction n generalizing k i with
  | zero => simp at hn
  | succ n ih =>
    have hw : 0 < w := Nat.pos_of_ne_zero fun h => by simp [h] at hn
    simp only [List.range'_succ, List.foldr_cons, BitVec.getLsbD_or, BitVec.getLsbD_shiftLeft, BitVec.getLsbD_ofNat,
      Nat.testBit_mod_two_pow, hi, decide_true, Bool.true_and]
    by_cases hlt : i < w
    · simp [hlt, Nat.div_eq_of_lt hlt, Nat.mod_eq_of_lt hlt]
    · have hle : w ≤ i := Nat.le_of_not_lt hlt
      rw [ih (k + 1) (i - w) (by omega) (by rw [Nat.mul_succ] at hn; omega), Nat.mod_eq_sub_mod hle, Nat.div_eq_sub_div hw hle]
      simp [hlt, Nat.add_comm, Nat.add_left_comm]

/-- An element of a register reads as it was given. -/
theorem elemOf_ofElems {w e : Nat} (f : Nat → Nat) (he : e < 1024 / w) : elemOf w (ofElems w f) e = f e % 2 ^ w := by
  have hle : w * e + w ≤ 1024 := by
    have := Nat.mul_le_mul_left w (Nat.succ_le_of_lt he)
    have := Nat.mul_div_le 1024 w
    rw [Nat.mul_succ] at *
    omega
  refine Nat.eq_of_testBit_eq fun j => ?_
  rw [elemOf, testBit_natField, Nat.testBit_mod_two_pow]
  by_cases hj : j < w
  · have hn : w * e + j < w * (1024 / w) := by
      have := Nat.mul_le_mul_left w (Nat.succ_le_of_lt he)
      rw [Nat.mul_succ] at this
      omega
    rw [BitVec.testBit_toNat, ofElems, List.range_eq_range', getLsbD_foldr_elems w f _ 0 _ (by omega) hn, Nat.mul_add_div (by omega),
      Nat.mul_add_mod, Nat.div_eq_of_lt hj, Nat.mod_eq_of_lt hj, Nat.zero_add, Nat.add_zero]
  · simp [hj]

theorem elemOf_mergeElems {w e : Nat} (p : Word) (old : VWord) (f : Nat → Nat) (he : e < 1024 / w) :
    elemOf w (mergeElems w p old f) e = if elemOn p w e then f e % 2 ^ w else elemOf w old e := by
  rw [mergeElems, elemOf_ofElems _ he]
  split
  · rfl
  · exact Nat.mod_eq_of_lt (elemOf_lt w old e)

/-- A nibble of a register is one of the two of its byte. -/
theorem elemOf_nibble (v : VWord) (e : Nat) : elemOf 4 v e = elemOf 8 v (e / 2) / 2 ^ (4 * (e % 2)) % 16 := by
  refine Nat.eq_of_testBit_eq fun j => ?_
  rw [elemOf, testBit_natField, show 16 = 2 ^ 4 from rfl, Nat.testBit_mod_two_pow, Nat.testBit_div_two_pow, elemOf, testBit_natField,
    show 8 * (e / 2) + (j + 4 * (e % 2)) = 4 * e + j by omega]
  by_cases hj : j < 4
  · simp [hj, show j + 4 * (e % 2) < 8 by omega]
  · simp [hj]

end Sys2Proof.Machine
end

section
/-! # Groups that write elements (R176, R177, R365) -/

namespace Sys2Proof.Machine

variable {s : State}

@[simp] theorem State.countSkip_focus (s : State) (b : Bool) : (s.countSkip b).focus = s.focus := by
  cases b <;> rfl

theorem Ctx.raise_zero (c : Ctx) : c.raise 0 = c := by
  simp [Ctx.raise]

theorem foldl_flags_eq_zero {α : Type} (l : List α) (g : α → FlagSet) (h : ∀ a ∈ l, g a = 0) :
    l.foldl (fun f a => f ||| g a) 0 = 0 :=
  List.foldlRecOn (motive := fun f : FlagSet => f = 0) l _ rfl fun f hf a ha => by rw [hf, h a ha]; rfl

theorem orFlags_eq_zero {rs : List FRes} (h : ∀ r ∈ rs, r.flags = 0) : orFlags rs = 0 := foldl_flags_eq_zero rs _ h

/-- A group whose body changes the context alone. -/
theorem completes_of_modCur {tie : Tie} {body : Body} {i : Instr} {f : Ctx → Ctx} (h : Ready tie false s)
    (hi : exec i s = runGroup tie false body s) (hb : body s = .ok (.on (s.modCur f))) : Yields i s (f s.cur) := by
  rw [State.modCur_eq_setCur] at hb
  rw [Yields, Completes, hi]
  exact runGroup_commits h hb rfl

/-- A group whose body changes the context and counts a skipped check. -/
theorem completes_of_countSkip {tie : Tie} {body : Body} {i : Instr} {f : Ctx → Ctx} {skip all : Bool} (h : Ready tie false s)
    (hi : exec i s = runGroup tie false body s) (hb : body s = .ok (.on (((s.modCur f).countSkip skip).unchecked all))) :
    Completes i s ((s.setCur (f s.cur)).countSkip skip) := by
  have ht : ((s.modCur f).countSkip skip).focus.times = 0 := by rw [State.countSkip_focus]; exact h.2.2.2
  rw [State.unchecked_of_agrees ht, State.modCur_eq_setCur] at hb
  rw [Completes, hi]
  exact runGroup_commits h hb (State.countSkip_focus _ _)

/-- What a group over the active elements does. -/
theorem vecOp_writes (h : Ready .all false s) {i : Instr} {w : Nat} {p : PReg} {d : VReg} {f : Ctx → Nat → FRes} {skip : Ctx → Nat → Bool}
    (hi : exec i s = vecOp w p d f skip s) : WritesElems i s w p d (f s.cur) (skip s.cur) := by
  refine ⟨mergeElems w (s.cur.getP p) (s.cur.getV d) fun e => (f s.cur e).bits, fun e he => elemOf_mergeElems _ _ _ he, ?_⟩
  exact completes_of_countSkip h hi rfl

/-- The same of one that sets no flag and counts no check. -/
theorem WritesElems.bits {i : Instr} {w : Nat} {p : PReg} {d : VReg} {f : Nat → FRes}
    (h : WritesElems i s w p d f fun _ => false) (hf : ∀ e, (f e).flags = 0) : WritesBits i s w p d fun e => (f e).bits := by
  obtain ⟨v, hv, hc⟩ := h
  refine ⟨v, hv, ?_⟩
  have h0 : orFlags ((activeElems (s.cur.getP p) w).map f) = 0 := orFlags_eq_zero fun r hr => by
    obtain ⟨e, -, rfl⟩ := List.mem_map.1 hr
    exact hf e
  rw [h0, Ctx.raise_zero, List.any_eq_false.2 (by simp)] at hc
  exact hc

theorem vecBits_writes (h : Ready .all false s) {i : Instr} {w : Nat} {p : PReg} {d : VReg} {f : Ctx → Nat → Nat}
    (hi : exec i s = vecBits w p d f s) : WritesBits i s w p d (f s.cur) :=
  (vecOp_writes h hi).bits fun _ => rfl

theorem WritesBits.congr {i : Instr} {w : Nat} {p : PReg} {d : VReg} {f g : Nat → Nat} (h : WritesBits i s w p d f)
    (hfg : ∀ e, f e % 2 ^ w = g e % 2 ^ w) : WritesBits i s w p d g := by
  obtain ⟨v, hv, hc⟩ := h
  exact ⟨v, fun e he => by rw [hv e he, hfg e], hc⟩

end Sys2Proof.Machine
end

section
/-! # Vector arithmetic and the unary operations (R179, R180, R184) -/

namespace Sys2Proof.Machine

variable {s : State} {i : Instr} {t : EType} {p : PReg} {d x y : VReg}

theorem elemInt_eq (t : EType) (raw : Nat) :
    elemInt t raw = if t = .u32 ∨ raw < 2 ^ (t.width - 1) then (raw : Int) else (raw : Int) - 2 ^ t.width := by
  by_cases hr : raw < 2 ^ (t.width - 1)
  · simp [elemInt, hr, Nat.not_le.2 hr]
  · have hd : decide (2 ^ (t.width - 1) ≤ raw) = true := decide_eq_true (Nat.not_lt.1 hr)
    rw [elemInt, hd, Bool.and_true]
    cases t <;> simp [EType.signed, hr]

/-- A natural number and the same as an integer have the same low bits. -/
theorem mod_two_pow_eq_toNat (n w : Nat) : n % 2 ^ w = (((n : Int) % 2 ^ w).toNat) % 2 ^ w := by
  rw [show (n : Int) % 2 ^ w = ((n % 2 ^ w : Nat) : Int) by push_cast; rfl, Int.toNat_natCast, Nat.mod_mod]

section
variable {withD : Bool} {fl : FFmt → ArithMode → Nat → Nat → Nat → FRes} {int : Int → Int → Int → Int}

theorem arithOp_int (h : Ready .all false s) (ht : t.float? = none) (hi : exec i s = arithOp t p d x y withD fl int s) {g : Nat → Int}
    (hg : ∀ e, g e = int (elemInt t (elemOf t.width (s.cur.getV x) e)) (elemInt t (elemOf t.width (s.cur.getV y) e))
      (elemInt t (elemOf t.width (s.cur.getV d) e))) :
    WritesBits i s t.width p d fun e => (g e % 2 ^ t.width).toNat := by
  simp only [arithOp, ht] at hi
  exact (vecBits_writes h hi).congr fun e => by rw [hg e, intBits]

theorem arithOp_float {f : FFmt} (h : Ready .all false s) (ht : t.float? = some f) (hi : exec i s = arithOp t p d x y withD fl int s) :
    let r (e : Nat) := fl f s.cur.plainMode (elemOf t.width (s.cur.getV x) e) (elemOf t.width (s.cur.getV y) e)
      (elemOf t.width (s.cur.getV d) e)
    WritesElems i s t.width p d r fun e => skipsCheck f s.cur.plainMode.daz ([elemOf t.width (s.cur.getV x) e,
      elemOf t.width (s.cur.getV y) e] ++ (if withD then [elemOf t.width (s.cur.getV d) e] else [])) (r e) := by
  simp only [arithOp, ht] at hi
  exact vecOp_writes h hi

end

theorem rawOp_writes (h : Ready .all false s) {f : Nat → Nat → Nat} (hi : exec i s = rawOp t p d x y f s) {g : Nat → Int}
    (hg : ∀ e, f (elemOf t.width (s.cur.getV x) e) (elemOf t.width (s.cur.getV y) e) % 2 ^ t.width =
      (g e % 2 ^ t.width).toNat % 2 ^ t.width) :
    WritesBits i s t.width p d fun e => (g e % 2 ^ t.width).toNat :=
  (vecBits_writes h hi).congr hg

/-- Settles O27: each group is the element operation of its kind of type, whose operands are `elemInt` or the bits of the elements. -/
theorem vectorArithmetic : Obligations.VectorArithmetic := by
  intro s t p d x y h w m a b c int bits
  have hint (raw : Nat) : int raw = elemInt t raw := (elemInt_eq t raw).symm
  refine ⟨fun ht => ⟨?_, ?_, ?_, ?_, ?_, ?_, ?_, ?_, ?_, ?_, ?_⟩, fun f hf => ⟨?_, ?_, ?_, ?_, ?_, ?_, ?_, ?_⟩⟩
  · exact arithOp_int (i := .vadd t p d x y) h ht (rfl : execVadd t p d x y s = _) fun e => by rw [hint, hint]
  · exact arithOp_int (i := .vsub t p d x y) h ht (rfl : execVsub t p d x y s = _) fun e => by rw [hint, hint]
  · exact arithOp_int (i := .vmul t p d x y) h ht (rfl : execVmul t p d x y s = _) fun e => by rw [hint, hint]
  · exact arithOp_int (i := .vfma t p d x y) h ht (rfl : execVfma t p d x y s = _) fun e => by rw [hint, hint, hint]
  · exact arithOp_int (i := .vmin t p d x y) h ht (rfl : execVmin t p d x y s = _) fun e => by rw [hint, hint, min_def]
  · exact arithOp_int (i := .vmax t p d x y) h ht (rfl : execVmax t p d x y s = _) fun e => by rw [hint, hint, max_def]
  · refine arithOp_int (i := .vabd t p d x y) h ht (rfl : execVabd t p d x y s = _) fun e => ?_
    rw [hint, hint]
    show ((elemInt t (a e) - elemInt t (b e)).natAbs : Int) =
      if elemInt t (a e) ≤ elemInt t (b e) then elemInt t (b e) - elemInt t (a e) else elemInt t (a e) - elemInt t (b e)
    split <;> omega
  · exact rawOp_writes (i := .vshl t p d x y) h (rfl : execVshl t p d x y s = _) fun e => by rw [mod_two_pow_eq_toNat]; push_cast; rfl
  · exact rawOp_writes (i := .vshr t p d x y) h (rfl : execVshr t p d x y s = _) fun e => by rw [mod_two_pow_eq_toNat]; push_cast; rfl
  · exact rawOp_writes (i := .vsra t p d x y) h (rfl : execVsra t p d x y s = _) fun e => by rw [hint, intBits]
  · exact rawOp_writes (i := .vmulh t p d x y) h (rfl : execVmulh t p d x y s = _) fun e => by rw [hint, hint, intBits]
  · exact (arithOp_float (i := .vadd t p d x y) h hf (rfl : execVadd t p d x y s = _) :)
  · exact (arithOp_float (i := .vsub t p d x y) h hf (rfl : execVsub t p d x y s = _) :)
  · exact (arithOp_float (i := .vmul t p d x y) h hf (rfl : execVmul t p d x y s = _) :)
  · exact (arithOp_float (i := .vfma t p d x y) h hf (rfl : execVfma t p d x y s = _) :)
  · exact (arithOp_float (i := .vmin t p d x y) h hf (rfl : execVmin t p d x y s = _) :)
  · exact (arithOp_float (i := .vmax t p d x y) h hf (rfl : execVmax t p d x y s = _) :)
  · exact (arithOp_float (i := .vdiv t p d x y) h hf (rfl : execVdiv t p d x y s = _) :)
  · exact (arithOp_float (i := .vabd t p d x y) h hf (rfl : execVabd t p d x y s = _) :)

theorem unaryFloat_writes {f : FFmt} {fn : FFmt → ArithMode → Nat → FRes} (h : Ready .all false s) (ht : t.float? = some f)
    (hi : exec i s = unaryFloat t p d x fn s) :
    WritesElems i s t.width p d (fun e => fn f s.cur.plainMode (elemOf t.width (s.cur.getV x) e)) fun _ => false := by
  simp only [unaryFloat, ht] at hi
  exact vecOp_writes h hi

/-- A set bit above a number adds its weight. -/
theorem xor_two_pow_of_lt {n k : Nat} (h : n < 2 ^ k) : n ^^^ 2 ^ k = n + 2 ^ k := by
  have ho : n + 2 ^ k = 2 ^ k ||| n := by
    have := Nat.two_pow_add_eq_or_of_lt h 1
    rwa [Nat.mul_one, Nat.add_comm] at this
  rw [ho]
  refine Nat.eq_of_testBit_eq fun j => ?_
  rw [Nat.testBit_xor, Nat.testBit_or, Nat.testBit_two_pow]
  by_cases hj : k = j
  · subst hj; simp [Nat.testBit_lt_two_pow h]
  · simp [hj]

/-- The bit that a negation changes is the highest. -/
theorem xor_signBit {n k : Nat} (h : n < 2 ^ (k + 1)) : n ^^^ 2 ^ k = if n < 2 ^ k then n + 2 ^ k else n - 2 ^ k := by
  split
  · next hn => exact xor_two_pow_of_lt hn
  · next hn =>
    have hm : n - 2 ^ k < 2 ^ k := by rw [Nat.pow_succ] at h; omega
    have hx := congrArg (· ^^^ 2 ^ k) (xor_two_pow_of_lt hm)
    rw [Nat.xor_xor_cancel_right, Nat.sub_add_cancel (Nat.not_lt.1 hn)] at hx
    exact hx.symm

/-- Settles O30: the sign bit is one bit, and the other operations are one function of each element. -/
theorem vectorUnary : Obligations.VectorUnary := by
  intro s t p d x h w m a
  have hneg := vecBits_writes (i := .vneg t p d x) h (rfl : execVneg t p d x s = _)
  have habs := vecBits_writes (i := .vabs t p d x) h (rfl : execVabs t p d x s = _)
  refine ⟨fun ht hu => ?_, fun f hf => ⟨?_, ?_, ?_, ?_, ?_, ?_, ?_, ?_, ?_, ?_, ?_, ?_, ?_, ?_, ?_⟩⟩
  · intro int
    have hint (raw : Nat) : int raw = elemInt t raw := by
      rw [elemInt_eq]
      simp [int, hu, w]
    refine ⟨hneg.congr fun e => ?_, habs.congr fun e => ?_⟩
    · simp only [ht, hint]
      rfl
    · simp only [ht, hint, intBits]
      rw [← mod_two_pow_eq_toNat]
  · refine hneg.congr fun e => ?_
    have hw : t.width - 1 + 1 = t.width := by cases t <;> rfl
    simp only [hf]
    rw [xor_signBit (by rw [hw]; exact elemOf_lt ..)]
  · refine habs.congr fun e => ?_
    simp only [hf]
    rfl
  · exact unaryFloat_writes (i := .vsqrt t p d x) h hf (rfl : execVsqrt t p d x s = _)
  · exact unaryFloat_writes (i := .vrcp t p d x) h hf (rfl : execVrcp t p d x s = _)
  · exact unaryFloat_writes (i := .vrsq t p d x) h hf (rfl : execVrsq t p d x s = _)
  · exact unaryFloat_writes (i := .vexp2 t p d x) h hf (rfl : execVexp2 t p d x s = _)
  · exact unaryFloat_writes (i := .vlog2 t p d x) h hf (rfl : execVlog2 t p d x s = _)
  · exact unaryFloat_writes (i := .vexp t p d x) h hf (rfl : execVexp t p d x s = _)
  · exact unaryFloat_writes (i := .vlog t p d x) h hf (rfl : execVlog t p d x s = _)
  · exact unaryFloat_writes (i := .vtanh t p d x) h hf (rfl : execVtanh t p d x s = _)
  · exact unaryFloat_writes (i := .vsig t p d x) h hf (rfl : execVsig t p d x s = _)
  · exact unaryFloat_writes (i := .vsin t p d x) h hf (rfl : execVsin t p d x s = _)
  · exact unaryFloat_writes (i := .vcos t p d x) h hf (rfl : execVcos t p d x s = _)
  · exact unaryFloat_writes (i := .vflr t p d x) h hf (rfl : execVflr t p d x s = _)
  · exact unaryFloat_writes (i := .vrnd t p d x) h hf (rfl : execVrnd t p d x s = _)

end Sys2Proof.Machine
end

section
/-! # Rounding to a whole number of units (R76) -/

namespace Sys2Proof.Machine

theorem scaleDown_pos (k : Int) : 0 < scaleDown k := Nat.two_pow_pos _

theorem scaleUp_pos (k : Int) : 0 < scaleUp k := Nat.two_pow_pos _

/-- The significand kept of n/d, and whether the rest rounds it up. -/
theorem Ex.roundAt_fst (v : Ex) (m : RMode) (q : Int) :
    (v.roundAt m q).1 = v.num * scaleUp (v.exp - q) / (v.den * scaleDown (v.exp - q)) +
      (m.up v.neg (v.num * scaleUp (v.exp - q) / (v.den * scaleDown (v.exp - q)))
        (v.num * scaleUp (v.exp - q) % (v.den * scaleDown (v.exp - q))) (v.den * scaleDown (v.exp - q))).toNat := by
  unfold Ex.roundAt
  dsimp only
  split
  · next h => rw [h]; rfl
  · next h => rw [Bool.eq_false_iff.2 h]; rfl

section
variable {n d k r : Nat}

/-- Rounding to nearest is within half a unit, and the even one of two equally near. -/
theorem nearest_spec (neg : Bool) (hn : n = k * d + r) (hr : r < d) :
    let a := k + (RMode.up .rne neg k r d).toNat
    (2 * n ≤ (2 * a + 1) * d ∧ 2 * a * d ≤ 2 * n + d) ∧ (2 * n = (2 * a + 1) * d ∨ 2 * a * d = 2 * n + d → a % 2 = 0) := by
  have hup : RMode.up .rne neg k r d = true ↔ d < 2 * r ∨ 2 * r = d ∧ k % 2 = 1 := by simp [RMode.up]
  dsimp only
  cases hb : RMode.up .rne neg k r d with
  | false =>
    have hb : ¬(d < 2 * r ∨ 2 * r = d ∧ k % 2 = 1) := fun h => by simp [hup.2 h] at hb
    rw [Bool.toNat_false, Nat.add_zero k, show (2 * k + 1) * d = 2 * (k * d) + d by ring, show 2 * k * d = 2 * (k * d) by ring]
    omega
  | true =>
    have hb := hup.1 hb
    rw [Bool.toNat_true, show (2 * (k + 1) + 1) * d = 2 * (k * d) + 3 * d by ring, show 2 * (k + 1) * d = 2 * (k * d) + 2 * d by ring]
    omega

/-- Rounding away from zero is the least not below. -/
theorem away_spec {b : Bool} (hb : b = true ↔ 0 < r) (hn : n = k * d + r) (hr : r < d) :
    n ≤ (k + b.toNat) * d ∧ (k + b.toNat) * d < n + d := by
  cases b with
  | false =>
    have hr0 : r = 0 := Nat.eq_zero_of_not_pos fun h => Bool.false_ne_true (hb.2 h)
    simp only [Bool.toNat_false, Nat.add_zero]
    omega
  | true =>
    have := hb.1 rfl
    rw [Bool.toNat_true, Nat.add_mul, Nat.one_mul]
    omega

end

/-- Settles O25: |v| is n/d units, n = k·d + r, and every mode keeps k or k + 1. -/
theorem rounding : Obligations.Rounding := by
  intro v q hden n d at'
  have hd : 0 < d := Nat.mul_pos hden (scaleDown_pos _)
  have hat (m : RMode) : at' m = n / d + (m.up v.neg (n / d) (n % d) d).toNat := v.roundAt_fst m q
  have hn : n = n / d * d + n % d := (Nat.div_add_mod' n d).symm
  have hr : n % d < d := Nat.mod_lt n hd
  have hz : at' .rtz = n / d := hat .rtz
  have hflag (m : RMode) : (v.roundAt m q).2 = (n % d != 0) := rfl
  obtain ⟨hnear, heven⟩ := nearest_spec v.neg hn hr
  rw [← hat] at hnear heven
  have haway (m : RMode) (h : m.up v.neg (n / d) (n % d) d = true ↔ 0 < n % d) : n ≤ at' m * d ∧ at' m * d < n + d := by
    rw [hat]
    exact away_spec h hn hr
  refine ⟨?_, hnear, heven, fun hneg => ?_, fun hneg => ?_, fun k => ?_, fun m => ?_⟩
  · rw [hz, Nat.add_mul, Nat.one_mul]
    omega
  · obtain ⟨hle, hlt⟩ := haway .rup (by simp [RMode.up, hneg])
    exact ⟨hle, hlt, by rw [hz, hat]; simp [RMode.up, hneg]⟩
  · obtain ⟨hle, hlt⟩ := haway .rdn (by simp [RMode.up, hneg])
    exact ⟨hle, hlt, by rw [hz, hat]; simp [RMode.up, hneg]⟩
  · rw [hat, hz]
    split
    · next h => rw [show RMode.up (.sr k) v.neg (n / d) (n % d) d = true from decide_eq_true h, Bool.toNat_true]
    · next h => rw [show RMode.up (.sr k) v.neg (n / d) (n % d) d = false from decide_eq_false h, Bool.toNat_false, Nat.add_zero]
  · rw [hflag, hz]
    by_cases h0 : n % d = 0
    · simp [h0, show n / d * d = n by omega]
    · simp [h0, show n / d * d ≠ n by omega]

end Sys2Proof.Machine
end

section
/-! # Values that a format represents (R66, R76) -/

namespace Sys2Proof.Machine

/-- With nothing discarded no mode rounds up. -/
theorem RMode.up_exact {m : RMode} (hm : ∀ r, m = .sr r → r < 2 ^ 16) (neg : Bool) (kept : Nat) {d : Nat} (hd : 0 < d) :
    m.up neg kept 0 d = false := by
  cases m with
  | rne => simp [RMode.up, Nat.ne_of_lt hd]
  | rtz => rfl
  | rup => rfl
  | rdn => rfl
  | sr r =>
    refine decide_eq_false (Nat.not_le.2 ?_)
    rw [Nat.zero_mul, Nat.zero_div, Nat.zero_add]
    exact hm r rfl

section
variable {v : Ex}

theorem Ex.log2_of_whole (hden : v.den = 1) (hnum : v.num ≠ 0) : v.log2 = (Nat.log2 v.num : Int) + v.exp := by
  have hle : scaleUp (Nat.log2 v.num : Int) ≤ v.num * scaleDown (Nat.log2 v.num : Int) := by
    simp [scaleUp, scaleDown, Nat.log2_self_le hnum]
  have hone : Nat.log2 1 = 0 := by decide
  simp only [Ex.log2, hden, hone, Nat.one_mul, Nat.cast_zero, sub_zero]
  rw [if_pos hle]

/-- A whole number of units rounds to itself. -/
theorem Ex.roundAt_whole {m : RMode} (hm : ∀ r, m = .sr r → r < 2 ^ 16) (hden : v.den = 1) : v.roundAt m v.exp = (v.num, false) := by
  have hup := RMode.up_exact hm v.neg v.num Nat.one_pos
  simp [Ex.roundAt, hden, scaleUp, scaleDown, Nat.mod_one, hup]

end

section
variable {f : FFmt}

/-- A value whose last place is that of its rounding, and which does not overflow, keeps its significand. -/
theorem FFmt.roundFin_exact {v : Ex} {m : RMode} (nsat : Bool) (hm : ∀ r, m = .sr r → r < 2 ^ 16) (hden : v.den = 1) (hnum : v.num ≠ 0)
    (hlt : v.num < 2 ^ f.prec) (hq : max v.log2 f.emin - f.prec + 1 = v.exp)
    (hfits : 2 ^ (f.prec - 1) ≤ v.num → ¬(f.emax < v.exp + f.prec - 1 ∨ (v.exp + f.prec - 1 = f.emax ∧ f.maxSig < v.num))) :
    f.roundFin v m nsat = ⟨f.encodeFin v.neg v.num v.exp, 0⟩ := by
  have hz : v.isZero = false := by simp [Ex.isZero, hnum]
  simp only [FFmt.roundFin, hz, Bool.false_eq_true, if_false, hq, Ex.roundAt_whole hm hden, if_neg (Nat.ne_of_lt hlt)]
  rw [if_neg fun h => hfits h.1 h.2]
  simp

/-- The exponent field of a bit pattern. -/
def FFmt.expField (f : FFmt) (b : Nat) : Nat := b / 2 ^ (f.prec - 1) % 2 ^ (f.width - f.prec)

/-- The fraction of a bit pattern. -/
def FFmt.fraction (f : FFmt) (b : Nat) : Nat := b % 2 ^ (f.prec - 1)

/-- The sign of a bit pattern. -/
def FFmt.signOf (f : FFmt) (b : Nat) : Bool := b / 2 ^ (f.width - 1) % 2 == 1

/-- A finite pattern stands for the value of its fields; the highest exponent is finite in E2M1, and in E4M3 but for one fraction. -/
theorem FFmt.decode_fields {b : Nat} {v : Ex} (h : f.decode b = .fin v) :
    v = (if f.expField b = 0 then ⟨f.signOf b, f.fraction b, 1, f.emin - (f.prec - 1 : Nat)⟩
      else ⟨f.signOf b, f.fraction b + 2 ^ (f.prec - 1), 1, (f.expField b : Int) - f.bias - (f.prec - 1 : Nat)⟩) ∧
    (f.expField b = 2 ^ (f.width - f.prec) - 1 → f = .e2m1 ∨ f = .e4m3 ∧ f.fraction b ≠ 7) := by
  have hfin {e : Nat} {x y : Ex} (h : (if e = 0 then FVal.fin x else .fin y) = .fin v) : v = if e = 0 then x else y := by
    split at h
    all_goals
      rename_i he
      cases h
      simp [he]
  have hieee {e man : Nat} {x y : Ex} {neg sig : Bool} {frac : Nat}
      (h : (if e = 2 ^ (f.width - f.prec) - 1 then (if man = 0 then FVal.inf neg else .nan neg frac sig)
        else if e = 0 then FVal.fin x else .fin y) = .fin v) :
      v = (if e = 0 then x else y) ∧ e ≠ 2 ^ (f.width - f.prec) - 1 := by
    split at h
    · split at h <;> cases h
    · next ht => exact ⟨hfin h, ht⟩
  cases f with
  | e2m1 => exact ⟨hfin h, fun _ => .inl rfl⟩
  | e4m3 =>
    simp only [FFmt.decode] at h
    split at h
    · cases h
    · next ht => exact ⟨hfin h, fun he => .inr ⟨rfl, fun hm => ht ⟨he, hm⟩⟩⟩
  | f32 => obtain ⟨hv, ht⟩ := hieee h; exact ⟨hv, fun he => absurd he ht⟩
  | bf16 => obtain ⟨hv, ht⟩ := hieee h; exact ⟨hv, fun he => absurd he ht⟩
  | e5m2 => obtain ⟨hv, ht⟩ := hieee h; exact ⟨hv, fun he => absurd he ht⟩

/-- The cases of a finite pattern: a subnormal or zero, or a normal value that does not pass the largest one. -/
theorem FFmt.decode_fin {b : Nat} {v : Ex} (h : f.decode b = .fin v) :
    v.neg = f.signOf b ∧ v.den = 1 ∧
      (f.expField b = 0 ∧ v.num = f.fraction b ∧ v.exp = f.emin - (f.prec - 1 : Nat) ∨
       f.expField b ≠ 0 ∧ v.num = f.fraction b + 2 ^ (f.prec - 1) ∧ v.exp = (f.expField b : Int) - f.bias - (f.prec - 1 : Nat) ∧
         (f.expField b : Int) - f.bias ≤ f.emax ∧ ((f.expField b : Int) - f.bias = f.emax → v.num ≤ f.maxSig)) := by
  obtain ⟨hv, htop⟩ := FFmt.decode_fields h
  split at hv
  · next he => subst hv; exact ⟨rfl, rfl, .inl ⟨he, rfl, rfl⟩⟩
  · next he =>
    subst hv
    refine ⟨rfl, rfl, .inr ⟨he, rfl, rfl, ?_⟩⟩
    clear h he
    cases f <;> simp [FFmt.expField, FFmt.fraction, FFmt.prec, FFmt.width, FFmt.bias, FFmt.emax, FFmt.maxSig] at * <;> omega

/-- Sign, exponent field and fraction make up the bits. -/
theorem FFmt.bits_eq {b : Nat} (hb : b < 2 ^ f.width) :
    b = f.signBit (f.signOf b) + (f.expField b * 2 ^ (f.prec - 1) + f.fraction b) := by
  unfold FFmt.signBit FFmt.signOf FFmt.expField FFmt.fraction
  by_cases hs : b / 2 ^ (f.width - 1) % 2 = 1 <;> simp only [hs, beq_self_eq_true, beq_iff_eq, if_true, if_false] <;> cases f <;>
    simp only [FFmt.width, FFmt.prec] at * <;> omega

theorem FFmt.prec_pos : 0 < f.prec := by cases f <;> decide

/-- The exponent of the smallest normal is that of the exponent field 1. -/
theorem FFmt.emin_eq : f.emin = 1 - f.bias := by cases f <;> rfl

end

/-- Settles O26: the value has its own last place, so that nothing is discarded, and the significand is encoded as it stood. -/
theorem representableValuesStay : Obligations.RepresentableValuesStay := by
  intro f b v m nsat hb hv hm
  obtain ⟨hneg, hden, hfin⟩ := FFmt.decode_fin hv
  have hbits := FFmt.bits_eq hb
  have hp : ((f.prec - 1 : Nat) : Int) = f.prec - 1 := Nat.cast_pred FFmt.prec_pos
  have h2 : 2 ^ f.prec = 2 ^ (f.prec - 1) + 2 ^ (f.prec - 1) := by
    rw [← Nat.two_mul, ← Nat.pow_succ', Nat.succ_eq_add_one, Nat.sub_add_cancel FFmt.prec_pos]
  have hman : f.fraction b < 2 ^ (f.prec - 1) := Nat.mod_lt _ (Nat.two_pow_pos _)
  have hem := FFmt.emin_eq (f := f)
  obtain ⟨he, hnum, hexp⟩ | ⟨he, hnum, hexp, hle, hmax⟩ := hfin
  · by_cases h0 : v.num = 0
    · rw [FFmt.roundFin, if_pos (by simp [Ex.isZero, h0]), hneg]
      rw [he, ← hnum, h0, Nat.zero_mul, Nat.add_zero] at hbits
      rw [← hbits]
    · have hlog : Nat.log2 v.num < f.prec - 1 := (Nat.log2_lt h0).2 (by omega)
      rw [FFmt.roundFin_exact nsat hm hden h0 (by omega) ?_ (by omega), FFmt.encodeFin]
      · rw [if_pos (hnum ▸ hman), hneg, hnum]
        rw [he, Nat.zero_mul, Nat.zero_add] at hbits
        rw [← hbits]
      · rw [Ex.log2_of_whole hden h0]
        omega
  · have hlog : Nat.log2 v.num = f.prec - 1 := (Nat.log2_eq_iff (by omega)).2 (by rw [Nat.sub_add_cancel FFmt.prec_pos]; omega)
    rw [FFmt.roundFin_exact nsat hm hden (by omega) (by omega) ?_ (by omega), FFmt.encodeFin]
    · rw [if_neg (by omega), hneg, hnum, Nat.add_sub_cancel, show (v.exp + (f.prec - 1 : Nat) + f.bias).toNat = f.expField b by omega]
      rw [← hbits]
    · rw [Ex.log2_of_whole hden (by omega)]
      omega

end Sys2Proof.Machine
end

section
/-! # Segmented sums (R84, R183) -/

namespace Sys2Proof.Machine

section
variable {α : Type} (add : α → α → α)

/-- A level of the tree over values numbered from 0. -/
theorem treeLevel_range (n : Nat) (x : Nat → α) :
    treeLevel add ((List.range (2 * n)).map x) = (List.range n).map fun j => add (x (2 * j)) (x (2 * j + 1)) := by
  induction n generalizing x with
  | zero => rfl
  | succ n ih =>
    rw [Nat.mul_succ, List.range_succ_eq_map, List.range_succ_eq_map, List.range_succ_eq_map]
    simp only [List.map_cons, List.map_map, treeLevel]
    rw [ih]
    simp [Function.comp_def, Nat.mul_succ]

/-- The lowest level of the tree may be taken first. -/
theorem treeOf_level (x : Nat → α) (g j : Nat) :
    treeOf add (fun j => add (x (2 * j)) (x (2 * j + 1))) g j = treeOf add x (g + 1) j := by
  induction g generalizing j with
  | zero => rfl
  | succ g ih => rw [treeOf, ih, ih]; rfl

/-- Folding level by level gives the root of the tree. -/
theorem treeFold_range (g : Nat) (x : Nat → α) : treeFold add g ((List.range (2 ^ g)).map x) = [treeOf add x g 0] := by
  induction g generalizing x with
  | zero => rfl
  | succ g ih => rw [treeFold, Nat.pow_succ', treeLevel_range, ih, treeOf_level]

end

theorem segFloat_range (f : FFmt) (m : ArithMode) (g : Nat) (x : Nat → Nat) :
    segFloat f m g ((List.range (2 ^ g)).map x) = treeSum f m x g 0 := by
  rw [segFloat, List.map_map, treeFold_range]
  rfl

/-- A level of sums modulo 2^w keeps the sum modulo 2^w. -/
theorem sum_treeLevel_mod (w : Nat) (l : List Nat) : (treeLevel (fun a b => (a + b) % 2 ^ w) l).sum % 2 ^ w = l.sum % 2 ^ w := by
  fun_induction treeLevel with
  | case1 a b l ih => rw [List.sum_cons, List.sum_cons, List.sum_cons, Nat.add_mod, ih]; simp [Nat.add_assoc]
  | case2 l => rfl

theorem sum_treeFold_mod (w g : Nat) (l : List Nat) : (treeFold (fun a b => (a + b) % 2 ^ w) g l).sum % 2 ^ w = l.sum % 2 ^ w := by
  induction g generalizing l with
  | zero => rfl
  | succ g ih => rw [treeFold, ih, sum_treeLevel_mod]

/-- In an integer type the tree gives the sum modulo 2^w. -/
theorem segInt_range (w n : Nat) (x : Nat → Nat) :
    segInt w (n + 1) ((List.range (2 ^ (n + 1))).map x) = ((List.range (2 ^ (n + 1))).map x).foldl (· + ·) 0 % 2 ^ w := by
  have hsum := sum_treeFold_mod w (n + 1) ((List.range (2 ^ (n + 1))).map x)
  rw [treeFold_range, List.sum_singleton, treeOf, Nat.mod_mod] at hsum
  rw [segInt, treeFold_range, ← List.sum_eq_foldl, ← hsum]
  rfl

section
variable {s : State} {t : EType} {p : PReg} {d x : VReg} {n : BitVec 3}

theorem vseg_int (h : Ready .all false s) (ht : t.float? = none) :
    let input (e : Nat) := if elemOn (s.cur.getP p) t.width e then elemOf t.width (s.cur.getV x) e else 0
    Yields (.vseg t p d x n) s (s.cur.setV d (ofElems t.width fun e => if e % 2 ^ (n.toNat + 1) = 0 then
      segInt t.width (n.toNat + 1) ((List.range (2 ^ (n.toNat + 1))).map fun j => input (e + j)) else 0)) := by
  refine completes_of_modCur (i := .vseg t p d x n) (f := fun c => c.setV d _) h (rfl : execVseg t p d x n s = _) ?_
  simp only [ht]

theorem vseg_float {f : FFmt} (h : Ready .all false s) (ht : t.float? = some f) :
    let input (e : Nat) := if elemOn (s.cur.getP p) t.width e then elemOf t.width (s.cur.getV x) e else f.signBit true
    let group (e : Nat) := (List.range (2 ^ (n.toNat + 1))).map fun j => input (e + j)
    let firsts := (List.range t.count).filter fun e => e % 2 ^ (n.toNat + 1) == 0
    let sum (e : Nat) := segFloat f s.cur.plainMode (n.toNat + 1) (group e)
    Completes (.vseg t p d x n) s ((s.setCur ((s.cur.setV d (ofElems t.width fun e => if e % 2 ^ (n.toNat + 1) = 0 then (sum e).bits else 0)).raise
      (orFlags (firsts.map sum)))).countSkip (firsts.any fun e => skipsCheck f s.cur.plainMode.daz (group e) (sum e))) := by
  intro input group firsts sum
  refine completes_of_countSkip (i := .vseg t p d x n) (all := firsts.all fun e => skipsCheck f s.cur.plainMode.daz (group e) (sum e))
    (f := fun c => (c.setV d _).raise (orFlags (firsts.map fun e => segFloat f c.plainMode (n.toNat + 1) (group e)))) h
    (rfl : execVseg t p d x n s = _) ?_
  simp only [ht]
  rfl

end

/-- Settles O31: the fold by levels has the root of the tree, and in an integer type every level keeps the sum. -/
theorem segmentedSums : Obligations.SegmentedSums := by
  intro s t p d x n h hn w size input group
  refine ⟨fun ht => ⟨_, fun e he => ?_, vseg_int h ht⟩, fun f hf => ?_⟩
  · rw [elemOf_ofElems _ he]
    split
    · rw [segInt_range, Nat.mod_mod]
    · exact Nat.zero_mod _
  · intro sum firsts
    have hsum : sum = fun e => segFloat f s.cur.plainMode (n.toNat + 1) (group (f.signBit true) e) :=
      funext fun e => (segFloat_range ..).symm
    rw [hsum]
    refine ⟨_, fun e he => ?_, vseg_float h hf⟩
    rw [elemOf_ofElems _ he]
    split
    · rfl
    · exact Nat.zero_mod _

end Sys2Proof.Machine
end

section
/-! # Conversions (R71, R78, R81, R185, R186) -/

namespace Sys2Proof.Machine

theorem lfsrSteps_add (m n : Nat) (s : Word) : lfsrSteps (m + n) s = lfsrSteps n (lfsrSteps m s) := by
  induction m generalizing s with
  | zero => rw [Nat.zero_add]; rfl
  | succ m ih => rw [Nat.succ_add]; exact ih (lfsrStep s)

/-- The mode in which an element is converted: stochastic whatever RM is where `sto` says so (R186). -/
def convertMode (sto : Bool) (amode seed : Word) : ArithMode :=
  { arithMode amode seed with rm := if sto then .sr (seed.toNat % 65536) else (arithMode amode seed).rm }

/-- The conversion of element `e` advances the generator. -/
def convertSteps (src dst : EType) (sto : Bool) (amode : Word) (x : VWord) (e : Nat) : Bool :=
  (sto || amode.setWidth 3 == 4#3) && convertTakes src dst (amode.getLsbD 3) (elemOf src.width x e)

/-- RM 4 names the stochastic mode, and no other code does. -/
theorem rmOf_cases (amode seed : Word) :
    (amode.setWidth 3 = 4#3 ∧ rmOf amode seed = .sr (lfsrBits seed)) ∨ (amode.setWidth 3 ≠ 4#3 ∧ ∀ r, rmOf amode seed ≠ .sr r) := by
  have hlt := (amode.setWidth 3).isLt
  unfold rmOf
  rw [← BitVec.toNat_inj, Ne, ← BitVec.toNat_inj]
  generalize (amode.setWidth 3).toNat = k at *
  interval_cases k <;> simp

section
variable {src dst : EType} {amode : Word} {sto : Bool} {x : VWord}

theorem convertAll_cons (e : Nat) (es : List Nat) (seed : Word) :
    let rest := convertAll src dst amode sto x es (if convertSteps src dst sto amode x e then lfsrSteps 16 seed else seed)
    convertAll src dst amode sto x (e :: es) seed =
      ((e, convertElem src dst (convertMode sto amode seed) (elemOf src.width x e)) :: rest.1, rest.2) := by
  cases sto with
  | true => simp [convertAll, convertMode, convertSteps, arithMode, lfsrBits]
  | false =>
    obtain ⟨h4, hrm⟩ | ⟨h4, hrm⟩ := rmOf_cases amode seed
    · simp [convertAll, convertMode, convertSteps, arithMode, hrm, h4]
    · simp [convertAll, convertMode, convertSteps, arithMode, h4]

/-- The generator after all the conversions. -/
theorem convertAll_seed (es : List Nat) (seed : Word) :
    (convertAll src dst amode sto x es seed).2 = lfsrSteps (16 * (es.filter (convertSteps src dst sto amode x)).length) seed := by
  induction es generalizing seed with
  | nil => rfl
  | cons e es ih =>
    rw [convertAll_cons]
    dsimp only
    rw [ih]
    cases he : convertSteps src dst sto amode x e with
    | true => rw [List.filter_cons_of_pos he, List.length_cons, Nat.mul_succ, Nat.add_comm, lfsrSteps_add, if_pos rfl]
    | false => rw [List.filter_cons_of_neg (by simp [he]), if_neg Bool.false_ne_true]

/-- The generator as a later element finds it. -/
def seedBefore (src dst : EType) (sto : Bool) (amode : Word) (x : VWord) (es : List Nat) (seed : Word) (e : Nat) : Word :=
  lfsrSteps (16 * (es.filter fun f => decide (f < e) && convertSteps src dst sto amode x f).length) seed

/-- The results of elements in rising order, each under the seed that the ones before it have left. -/
theorem convertAll_results (es : List Nat) (hes : es.Pairwise (· < ·)) (seed : Word) :
    (convertAll src dst amode sto x es seed).1 = es.map fun e =>
      (e, convertElem src dst (convertMode sto amode (seedBefore src dst sto amode x es seed e)) (elemOf src.width x e)) := by
  induction es generalizing seed with
  | nil => rfl
  | cons e es ih =>
    obtain ⟨hlt, hes⟩ := List.pairwise_cons.1 hes
    have hfirst : seedBefore src dst sto amode x (e :: es) seed e = seed := by
      have hnone : (e :: es).filter (fun f => decide (f < e) && convertSteps src dst sto amode x f) = [] :=
        List.filter_eq_nil_iff.2 fun f hf => by
          obtain rfl | hf := List.mem_cons.1 hf
          · simp
          · simp [Nat.lt_asymm (hlt f hf)]
      rw [seedBefore, hnone]
      rfl
    have hlater {f : Nat} (hf : f ∈ es) : seedBefore src dst sto amode x es
        (if convertSteps src dst sto amode x e then lfsrSteps 16 seed else seed) f = seedBefore src dst sto amode x (e :: es) seed f := by
      unfold seedBefore
      have hd : decide (e < f) = true := decide_eq_true (hlt f hf)
      cases he : convertSteps src dst sto amode x e with
      | true => rw [List.filter_cons_of_pos (by simp [he, hlt f hf]), List.length_cons, Nat.mul_succ, Nat.add_comm, lfsrSteps_add, if_pos rfl]
      | false => rw [List.filter_cons_of_neg (by simp [he]), if_neg Bool.false_ne_true]
    rw [convertAll_cons, List.map_cons, hfirst]
    dsimp only
    rw [ih hes]
    exact congrArg _ (List.map_congr_left fun f hf => by rw [hlater hf])

end

/-- The result that is found for an element among those of a list. -/
theorem find?_map_pair {α : Type} (es : List Nat) (g : Nat → α) (e : Nat) :
    (es.map fun k => (k, g k)).find? (fun r => r.1 == e) = if e ∈ es then some (e, g e) else none := by
  induction es with
  | nil => rfl
  | cons k es ih =>
    by_cases hk : k = e
    · subst hk; simp
    · simp [hk, Ne.symm hk, ih]

/-- What a conversion of a register does. -/
theorem convertOp_yields {s : State} {i : Instr} {src dst : EType} {p : PReg} {d x : VReg} {sto : Bool} (h : Ready .all false s)
    (hi : exec i s = convertOp src dst p d x sto s) :
    let w := dst.width
    let n := min src.count dst.count
    let raw (e : Nat) := elemOf src.width (s.cur.getV x) e
    let on := (List.range n).filter (elemOn (s.cur.getP p) w)
    let takes := convertSteps src dst sto s.cur.amode (s.cur.getV x)
    let result (e : Nat) :=
      convertElem src dst (convertMode sto s.cur.amode (seedBefore src dst sto s.cur.amode (s.cur.getV x) on s.cur.srseed e)) (raw e)
    ∃ v : VWord,
      (∀ e, e < dst.count → n ≤ e → elemOf w v e = 0) ∧
      (∀ e, e < n → elemOf w v e = if elemOn (s.cur.getP p) w e then (result e).bits % 2 ^ w else elemOf w (s.cur.getV d) e) ∧
      Yields i s { (s.cur.setV d v).raise (orFlags (on.map result)) with
        srseed := lfsrSteps (16 * (on.filter takes).length) s.cur.srseed } := by
  intro w n raw on takes result
  have hon : on.Pairwise (· < ·) := List.pairwise_lt_range.filter _
  have hall : (convertAll src dst s.cur.amode sto (s.cur.getV x) on s.cur.srseed).1 = on.map fun e => (e, result e) :=
    convertAll_results on hon _
  refine ⟨ofElems w fun e => if n ≤ e then 0 else (((convertAll src dst s.cur.amode sto (s.cur.getV x) on s.cur.srseed).1.find? fun r =>
    r.1 == e).map fun r => r.2.bits).getD (elemOf w (s.cur.getV d) e), fun e he hn => ?_, fun e hn => ?_, ?_⟩
  · rw [elemOf_ofElems _ he, if_pos hn, Nat.zero_mod]
  · rw [elemOf_ofElems _ (Nat.lt_of_lt_of_le hn (Nat.min_le_right _ _)), if_neg (Nat.not_le.2 hn), hall, find?_map_pair]
    have hmem : e ∈ on ↔ elemOn (s.cur.getP p) w e = true := by simp [on, hn]
    by_cases he : elemOn (s.cur.getP p) w e = true
    · rw [if_pos (hmem.2 he), if_pos he]
      rfl
    · rw [if_neg (mt hmem.1 he), if_neg he]
      exact Nat.mod_eq_of_lt (elemOf_lt ..)
  · have hflags : on.map result = (convertAll src dst s.cur.amode sto (s.cur.getV x) on s.cur.srseed).1.map (·.2) := by
      rw [hall, List.map_map]
      rfl
    rw [hflags, ← convertAll_seed]
    exact completes_of_modCur (f := fun c => { (c.setV d _).raise _ with srseed := _ }) h hi rfl

/-- Settles O32: the conversions run over the active elements in rising order, and each hands the generator on. -/
theorem vectorConversions : Obligations.VectorConversions := by
  intro s src dst p d x h conv
  exact ⟨convertOp_yields (i := .vcvt src dst p d x) h (rfl : execVcvt src dst p d x s = _),
    convertOp_yields (i := .vsrb p d x) h (rfl : execVsrb p d x s = _)⟩

end Sys2Proof.Machine
end

section
/-! # Scalar floating point (R113 to R116) -/

namespace Sys2Proof.Machine

/-! ## The sign bit and the magnitude of a word -/

theorem getLsbD_magnitudeMask : ∀ j, j < 32 → (0x7FFFFFFF : Word).getLsbD j = decide (j < 31) := by decide

theorem getLsbD_signMask : ∀ j, j < 32 → (0x80000000 : Word).getLsbD j = decide (j = 31) := by decide

/-- A word of a sign bit and the 31 bits below it. -/
theorem getLsbD_signed (b : Bool) (w : Word) {j : Nat} (hj : j < 32) :
    (BitVec.ofBool b ++ w.setWidth 31 : Word).getLsbD j = if j = 31 then b else w.getLsbD j := by
  rw [BitVec.getLsbD_append]
  by_cases h : j = 31
  · subst h; simp
  · have hlt : j < 31 := by omega
    simp [h, hlt]

theorem fsgn_bits (a b : Word) : (a &&& 0x7FFFFFFF) ||| (b &&& 0x80000000) = BitVec.ofBool (b.getLsbD 31) ++ a.setWidth 31 := by
  refine BitVec.eq_of_getLsbD_eq fun j hj => ?_
  rw [getLsbD_signed _ _ hj, BitVec.getLsbD_or, BitVec.getLsbD_and, BitVec.getLsbD_and, getLsbD_magnitudeMask j hj, getLsbD_signMask j hj]
  by_cases h : j = 31
  · subst h; simp
  · simp [h, show j < 31 by omega]

theorem fabs_bits (a : Word) : a &&& 0x7FFFFFFF = BitVec.ofBool false ++ a.setWidth 31 := by
  refine BitVec.eq_of_getLsbD_eq fun j hj => ?_
  rw [getLsbD_signed _ _ hj, BitVec.getLsbD_and, getLsbD_magnitudeMask j hj]
  by_cases h : j = 31
  · subst h; simp
  · simp [h, show j < 31 by omega]

theorem fneg_bits (a : Word) : a ^^^ 0x80000000 = BitVec.ofBool (!a.getLsbD 31) ++ a.setWidth 31 := by
  refine BitVec.eq_of_getLsbD_eq fun j hj => ?_
  rw [getLsbD_signed _ _ hj, BitVec.getLsbD_xor, getLsbD_signMask j hj]
  by_cases h : j = 31
  · subst h; simp
  · simp [h]

/-! ## Classes (R116) -/

/-- The number of the class of an FP32 pattern, by sign, exponent and fraction. -/
def classOf (a : Nat) : Nat :=
  let neg := decide (2 ^ 31 ≤ a)
  let e := a / 2 ^ 23 % 256
  let f := a % 2 ^ 23
  if e = 255 then (if f = 0 then (if neg then 0 else 7) else if f < 2 ^ 22 then 8 else 9)
  else if e = 0 then (if f = 0 then (if neg then 3 else 4) else if neg then 2 else 5)
  else if neg then 1 else 6

/-- The fields of an FP32 pattern. -/
theorem f32_decode (a : Nat) : FFmt.f32.decode a =
    (let neg := a / 2 ^ 31 % 2 == 1
     let e : Nat := a / 2 ^ 23 % 256
     let f : Nat := a % 2 ^ 23
     if e = 255 then (if f = 0 then .inf neg else .nan neg (f * 2 ^ 0) (decide (f < 2 ^ 22)))
     else if e = 0 then .fin ⟨neg, f, 1, -126 - 23⟩ else .fin ⟨neg, f + 2 ^ 23, 1, (e : Int) - 127 - 23⟩) := rfl

theorem fclass_eq (w : Word) : fclass w = BitVec.ofNat 32 (2 ^ classOf w.toNat) := by
  have hlt := w.isLt
  have hneg : w.getLsbD 31 = decide (2 ^ 31 ≤ w.toNat) := by
    rw [← BitVec.testBit_toNat, Nat.testBit_eq_decide_div_mod_eq]
    exact decide_eq_decide.2 (by omega)
  have hsub : FFmt.f32.isSubnormal w.toNat = decide (w.toNat / 2 ^ 23 % 256 = 0 ∧ w.toNat % 2 ^ 23 ≠ 0) := by
    have hmag : FFmt.f32.isSubnormal w.toNat = decide (w.toNat % 2 ^ 31 ≠ 0 ∧ w.toNat % 2 ^ 31 < 2 ^ 23) := by
      rw [Bool.decide_and, decide_not]
      rfl
    rw [hmag]
    exact decide_eq_decide.2 (by omega)
  unfold fclass classOf
  rw [hneg, hsub, f32_decode]
  generalize w.toNat / 2 ^ 23 % 256 = e
  generalize w.toNat % 2 ^ 23 = f
  generalize decide (2 ^ 31 ≤ w.toNat) = neg at *
  by_cases he : e = 255
  · by_cases hf : f = 0
    · cases neg <;> simp [he, hf]
    · by_cases hq : f < 4194304 <;> simp [he, hf, hq]
  · by_cases h0 : e = 0
    · by_cases hf : f = 0 <;> cases neg <;> simp [h0, hf, Ex.isZero]
    · cases neg <;> simp [he, h0, Ex.isZero]

/-! ## Groups -/

theorem floatOp_completes {s : State} {i : Instr} {d : GReg} {f : Ctx → FRes} {skip : Ctx → Bool} (h : Ready .all false s)
    (hi : exec i s = floatOp d f skip s) :
    Completes i s ((s.setCur ((s.cur.setG d (BitVec.ofNat 32 (f s.cur).bits)).raise (f s.cur).flags)).countSkip (skip s.cur)) :=
  completes_of_countSkip h hi rfl

section
variable {s : State} {i : Instr} {d x y : GReg}

theorem float2_completes {f : ArithMode → Nat → Nat → FRes} (h : Ready .all false s) (hi : exec i s = float2 d x y f s) :
    let a := (s.cur.getG x).toNat
    let b := (s.cur.getG y).toNat
    let r := f s.cur.plainMode a b
    Completes i s ((s.setCur ((s.cur.setG d (BitVec.ofNat 32 r.bits)).raise r.flags)).countSkip
      (skipsCheck .f32 s.cur.plainMode.daz [a, b] r)) := by
  rw [float2] at hi
  have hc := floatOp_completes h hi
  exact hc

theorem floatCompare_completes {k : FCmp} (h : Ready .all false s) (hi : exec i s = floatCompare d x y k s) :
    let a := (s.cur.getG x).toNat
    let b := (s.cur.getG y).toNat
    let r := FFmt.f32.compare k s.cur.plainMode.daz a b
    Completes i s ((s.setCur ((s.cur.setG d (BitVec.ofNat 32 r.1.toNat)).raise r.2)).countSkip
      (skipsCompare .f32 s.cur.plainMode.daz [a, b])) := by
  rw [floatCompare] at hi
  have hc := floatOp_completes h hi
  exact hc

theorem float1_completes {f : ArithMode → Nat → FRes} (h : Ready .all false s) (hi : exec i s = float1 d x f s) :
    let r := f s.cur.plainMode (s.cur.getG x).toNat
    Completes i s ((s.setCur ((s.cur.setG d (BitVec.ofNat 32 r.bits)).raise r.flags)).countSkip false) := by
  rw [float1] at hi
  have hc := floatOp_completes h hi
  exact hc

end

theorem plain_yields {s : State} {i : Instr} {f : Ctx → Ctx} (h : Ready .all false s) (hi : exec i s = plain f s) : Yields i s (f s.cur) :=
  completes_of_modCur h hi rfl

/-- Settles O24: each operation is one of the shared float groups, or a function of bits. -/
theorem scalarFloat : Obligations.ScalarFloat := by
  intro s d x y h c m a b z gives checked compared
  refine ⟨?_, ?_, ?_, ?_, ?_, ?_, ?_, ?_, ?_, ?_, ?_, ?_, ?_, ?_, ?_, ?_, ?_, ?_, ?_, ?_, ?_, ?_, ?_, ?_, ?_, ?_⟩
  · exact (float2_completes (i := .fadd d x y) h (rfl : execFadd d x y s = _) :)
  · exact (float2_completes (i := .fsub d x y) h (rfl : execFsub d x y s = _) :)
  · exact (float2_completes (i := .fmul d x y) h (rfl : execFmul d x y s = _) :)
  · exact (floatOp_completes (i := .ffma d x y) h (rfl : execFfma d x y s = _) :)
  · exact (float2_completes (i := .fmin d x y) h (rfl : execFmin d x y s = _) :)
  · exact (float2_completes (i := .fmax d x y) h (rfl : execFmax d x y s = _) :)
  · exact (float2_completes (i := .fdiv d x y) h (rfl : execFdiv d x y s = _) :)
  · exact (floatCompare_completes (i := .feq d x y) h (rfl : execFeq d x y s = _) :)
  · exact (floatCompare_completes (i := .flt d x y) h (rfl : execFlt d x y s = _) :)
  · exact (floatCompare_completes (i := .fle d x y) h (rfl : execFle d x y s = _) :)
  · exact (floatCompare_completes (i := .fun d x y) h (rfl : execFun d x y s = _) :)
  · exact (float1_completes (i := .fsqrt d x) h (rfl : execFsqrt d x s = _) :)
  · exact (float1_completes (i := .fcvtws d x) h (rfl : execFcvtws d x s = _) :)
  · exact (float1_completes (i := .fcvtus d x) h (rfl : execFcvtus d x s = _) :)
  · have hw := float1_completes (i := .fcvtsw d x) h (rfl : execFcvtsw d x s = _)
    simp only [BitVec.ofNat_toNat, BitVec.setWidth_eq] at hw
    exact hw
  · exact (float1_completes (i := .fcvtsu d x) h (rfl : execFcvtsu d x s = _) :)
  · exact (float1_completes (i := .fcvtsb d x) h (rfl : execFcvtsb d x s = _) :)
  · exact (float1_completes (i := .fexp2 d x) h (rfl : execFexp2 d x s = _) :)
  · exact (float1_completes (i := .flog2 d x) h (rfl : execFlog2 d x s = _) :)
  · exact (float1_completes (i := .frcp d x) h (rfl : execFrcp d x s = _) :)
  · exact (float1_completes (i := .frsq d x) h (rfl : execFrsq d x s = _) :)
  · intro v r
    exact completes_of_modCur (i := .fcvtbs d x) (f := fun c => { (c.setG d _).raise _ with srseed := _ }) h
      (rfl : execFcvtbs d x s = _) rfl
  · rw [← fsgn_bits]
    exact (plain_yields (i := .fsgn d x y) h (rfl : execFsgn d x y s = _) :)
  · rw [← fabs_bits]
    exact (plain_yields (i := .fabs d x) h (rfl : execFabs d x s = _) :)
  · rw [← fneg_bits]
    exact (plain_yields (i := .fneg d x) h (rfl : execFneg d x s = _) :)
  · have hc := plain_yields (i := .fclass d x) h (rfl : execFclass d x s = _)
    simp only [fclass_eq, classOf, decide_eq_true_eq] at hc
    exact hc

end Sys2Proof.Machine
end

section
/-! # The products of a matrix command (R85, R197, R206, R208, R209) -/

namespace Sys2Proof.Machine

/-! ## Cells of the accumulators (R197) -/

theorem Mem.read_write_other {v w : Nat} (m : Mem) {k n j l : Nat} (b : BitVec v) (h : j + l ≤ k ∨ k + n ≤ j) :
    (m.write k n b).read w j l = m.read w j l :=
  congrArg (BitVec.ofNat w) (Mem.readNat_congr fun i h1 h2 => Mem.get_write_other m k n b (by omega))

theorem Tile.cell_setCell_same (t : Tile) (r c : Nat) (w : Word) : (t.setCell r c w).cell r c = w :=
  Mem.read_write t.z (cellKey r c) 4 w (Nat.le_refl _)

theorem Tile.cell_setCell_other (t : Tile) {r c i j : Nat} (w : Word) (hc : c < 32) (hj : j < 32) (h : ¬(i = r ∧ j = c)) :
    (t.setCell r c w).cell i j = t.cell i j :=
  Mem.read_write_other t.z w (by unfold cellKey; omega)

theorem mem_cellsOf {m n : Nat} {e : Nat × Nat} : e ∈ cellsOf m n ↔ e.1 < m ∧ e.2 < n := by
  obtain ⟨i, j⟩ := e
  simp [cellsOf]

/-- A cell after cells of a region have been written, each with what `f` gives for its place. -/
theorem Tile.cell_foldl_setCell (r c : Nat) (f : Nat → Nat → Word) (l : List (Nat × Nat)) (hl : ∀ e ∈ l, c + e.2 < 32) (t : Tile) {i j : Nat}
    (hj : c + j < 32) : (l.foldl (fun t e => t.setCell (r + e.1) (c + e.2) (f e.1 e.2)) t).cell (r + i) (c + j) =
      if (i, j) ∈ l then f i j else t.cell (r + i) (c + j) := by
  induction l generalizing t with
  | nil => rfl
  | cons e l ih =>
    rw [List.foldl_cons, ih fun e he => hl e (List.mem_cons_of_mem _ he)]
    by_cases he : (i, j) = e
    · subst he
      simp [Tile.cell_setCell_same]
    · have hne : ¬(r + i = r + e.1 ∧ c + j = c + e.2) := fun h => he (Prod.ext (by omega) (by omega))
      rw [Tile.cell_setCell_other _ _ (hl e List.mem_cons_self) hj hne]
      simp [he]

theorem Tile.cell_fillCells (t : Tile) {o : BitVec 2} {m n i j : Nat} (f : Nat → Nat → Word) (hc : originCol o + n ≤ 32) (hi : i < m)
    (hj : j < n) : (t.fillCells o m n f).cell (originRow o + i) (originCol o + j) = f i j := by
  rw [Tile.fillCells, Tile.cell_foldl_setCell _ _ _ _ (fun e he => by have := (mem_cellsOf.1 he).2; omega) _ (by omega),
    if_pos (mem_cellsOf.2 ⟨hi, hj⟩)]

theorem Tile.cell_fillCells_outside (t : Tile) {o : BitVec 2} {m n i j : Nat} (f : Nat → Nat → Word) (hc : originCol o + n ≤ 32) (hj : j < 32)
    (h : ¬(originRow o ≤ i ∧ i < originRow o + m ∧ originCol o ≤ j ∧ j < originCol o + n)) :
    (t.fillCells o m n f).cell i j = t.cell i j := by
  refine List.foldlRecOn (motive := fun u : Tile => u.cell i j = t.cell i j) _ _ rfl fun u hu e he => ?_
  obtain ⟨h1, h2⟩ := mem_cellsOf.1 he
  rw [Tile.cell_setCell_other _ _ (by omega) hj (by omega), hu]

/-! ## Reading the operands (R209, R369, R371) -/

/-- Bytes of flies that are whole cross the pole unchanged, and meet nothing. -/
theorem State.keysSeen_sound {s : State} {keys : List Nat} (h : ∀ k ∈ keys, k < flyEnd → (s.tile (k / 2 ^ 25)).fly.sound = true) :
    s.keysSeen keys = (s, s.mem) := by
  refine List.foldlRecOn (motive := fun e => e = (s, s.mem)) _ _ rfl fun e he l hl => ?_
  subst he
  obtain ⟨k, hk, rfl⟩ := List.mem_map.1 (List.mem_eraseDups.1 hl)
  obtain ⟨hk, hlt⟩ := List.mem_filter.1 hk
  have hs : (s.tile (lineOf k / 2 ^ 25)).fly.sound = true := by
    rw [show lineOf k / 2 ^ 25 = k / 2 ^ 25 by unfold lineOf; omega]
    exact h k hk (of_decide_eq_true hlt)
  simp only [readSeen_sound (.inr hs), hs, if_true]

theorem State.readings_ne_nil (s : State) (reads : List (Nat × List Byte)) (key : Nat) : s.readings reads key ≠ [] := by
  unfold State.readings
  split
  · exact List.cons_ne_nil _ _
  · next h => exact h

/-- Every byte of the rows for a chunk is a reading of its key. -/
theorem State.rowsRead_reads (s : State) (reads : List (Nat × List Byte)) (keys : List (List Nat)) (m n j : Nat) {i k key : Nat} {row : List Nat}
    (hr : keys[i]? = some row) (hk : row[k]? = some key) :
    ∃ v ∈ s.readings reads key, ((s.rowsRead reads keys m n j).getD i [])[k]? = some v := by
  unfold State.rowsRead
  by_cases he : reads.isEmpty = true
  · obtain rfl := List.isEmpty_iff.1 he
    refine ⟨s.mem.get key, List.mem_singleton_self _, ?_⟩
    simp [State.rowBytes, List.getD_eq_getElem?_getD, hr, hk]
  · have hpos : 0 < (s.readings reads key).length := List.length_pos_iff.2 (s.readings_ne_nil reads key)
    have hlt := Nat.mod_lt (Config.pieceChoice s.free (key / 16) (m * 32 + n) j) hpos
    refine ⟨(s.readings reads key)[_], List.getElem_mem hlt, ?_⟩
    simp [he, List.getD_eq_getElem?_getD, hr, hk, List.getElem?_eq_getElem hlt]

theorem State.badKey_append {s : State} {xs ys : List (List Nat)} (h : s.badKey (xs ++ ys) = none) : s.badKey xs = none ∧ s.badKey ys = none := by
  unfold State.badKey at *
  rw [List.flatMap_append, List.find?_append, Option.or_eq_none_iff] at h
  exact h

/-! ## What the logical times leave of a tile (R284) -/

/-- Memory, and what a tile's matrix unit holds but for its logical time, are the same. -/
def SameUnit (r : Nat) (s t : State) : Prop :=
  t.mem = s.mem ∧ (t.tile r).z = (s.tile r).z ∧ (t.tile r).matrix.queue = (s.tile r).matrix.queue ∧
    (t.tile r).matrix.done = (s.tile r).matrix.done

theorem SameUnit.trans {r : Nat} {s t u : State} (h : SameUnit r s t) (k : SameUnit r t u) : SameUnit r s u := by
  obtain ⟨h1, h2, h3, h4⟩ := h
  obtain ⟨k1, k2, k3, k4⟩ := k
  exact ⟨k1.trans h1, k2.trans h2, k3.trans h3, k4.trans h4⟩

theorem SameUnit.setLease (r : Nat) (s : State) (l : Lease) : SameUnit r s (s.modTile r fun t => t.setLease l) := by
  refine ⟨rfl, ?_, ?_, ?_⟩ <;> rw [State.tile_modTile] <;> rfl

theorem SameUnit.stampRead (r : Nat) (s : State) (key : Nat) (pts len : DWord) : SameUnit r s (s.stampRead r key pts len).1 := by
  unfold State.stampRead
  split
  · split
    · exact ⟨rfl, rfl, rfl, rfl⟩
    · exact .setLease r s _
  · exact .setLease r s _

theorem SameUnit.matStamp (r : Nat) (s : State) (keys : List (List Nat)) : SameUnit r s (s.matStamp r keys) := by
  refine List.foldlRecOn (motive := fun t => SameUnit r s t) _ _ ⟨rfl, rfl, rfl, rfl⟩ fun t ht l _ => ?_
  extract_lets st
  refine (ht.trans (.stampRead r t l (t.tile r).matrix.pts 0)).trans ?_
  refine ⟨rfl, ?_, ?_, ?_⟩ <;> rw [State.tile_modTile]

/-! ## The arithmetic of an integer cell (R206) -/

theorem foldl_add_ofInt {α : Type} (l : List α) (g : α → Word) (f : α → Int) (hg : ∀ a ∈ l, g a = BitVec.ofInt 32 (f a)) (t : Word) :
    l.foldl (fun t a => t + g a) t = t + BitVec.ofInt 32 (l.map f).sum := by
  induction l generalizing t with
  | nil => simp
  | cons a l ih =>
    rw [List.foldl_cons, ih (fun b hb => hg b (List.mem_cons_of_mem _ hb)), hg a List.mem_cons_self, List.map_cons, List.sum_cons,
      BitVec.ofInt_add, BitVec.add_assoc]

theorem cellInt_eq (f w : Word) (a b : Rows) (start : Word) (m n : Nat) :
    cellInt f w a b start m n = start + BitVec.ofInt 32 (((List.range (shapeK w)).map fun k =>
      (((a m n (k / chunkOf f)).getD m []).getD k 0).toInt * (((b m n (k / chunkOf f)).getD k []).getD n 0).toInt).sum) := by
  refine foldl_add_ofInt _ _ _ (fun k _ => ?_) start
  rw [BitVec.ofInt_mul]
  rfl

/-! ## The completion (R206, R208) -/

section
variable {s : State} {r : Nat} {c : MatCmd}

/-- The state in which a multiply of one tile computes its cells. -/
def State.stamped (s : State) (r : Nat) (c : MatCmd) : State :=
  { s.matStamp r c.bKeys with free := (s.matStamp r c.bKeys).free + 1 }

/-- A multiply of one tile on good data: its cells, the count of a skipped check, and its completion. -/
theorem State.runMma_single (hg : c.gang = []) (hlost : c.lost = none) (hb : c.bdata = none) (ha : ∀ k, c.a ≠ .bad k)
    (hheld : s.heldKeys c.bKeys = false) (hbad : s.badKey (c.aKeys ++ c.bKeys) = none)
    (hsound : ∀ row ∈ c.aKeys ++ c.bKeys, ∀ k ∈ row, k < flyEnd → (s.tile (k / 2 ^ 25)).fly.sound = true) :
    let a := s.rowsRead c.reads c.aKeys
    let b := s.rowsRead c.reads c.bKeys
    s.runMma r c = ((s.stamped r c).modTile r fun t => { t.multiply c a b with
      chkskip := if c.skips a b then (t.multiply c a b).chkskip + 1 else (t.multiply c a b).chkskip }).matDone r c := by
  intro a b
  obtain ⟨hbadA, hbadB⟩ := State.badKey_append hbad
  have hread : s.bToRead r c = (r, c.bKeys) := by simp [State.bToRead, hb, hg]
  have hseen : s.keysSeen ((c.aKeys ++ c.bKeys).flatMap fun row => row) = (s, s.mem) := State.keysSeen_sound fun k hk => by
    obtain ⟨row, hrow, hk⟩ := List.mem_flatMap.1 hk
    exact hsound row hrow k hk
  have hdata : s.bData c = some (b 0 0 0) := by simp [State.bData, hb, hg, b]
  have hgang (u : State) (f : MatCmd → MatCmd) : u.modGang r c f = u := by rw [State.modGang, hg]; rfl
  have hrows : c.rowsOf s (b 0 0 0) = (a, b) := by simp [MatCmd.rowsOf, hb, hg, a, b]
  unfold State.runMma
  split
  · next h => rw [hlost] at h; contradiction
  · next h => exact absurd h (ha _)
  · simp only [hread, hheld, hseen, hbadA, hbadB, hdata, hgang, hrows, Bool.false_eq_true, if_false]
    rw [State.stamped]

theorem State.matDone_single (hg : c.gang = []) : s.matDone r c = s.modTile r fun t =>
    { t with matrix := { t.matrix with queue := t.matrix.queue.tail, done := t.matrix.done + 1, chunk := 0, replays := 0 } } := by
  rw [State.matDone, State.gangArrive, hg]
  rfl

theorem SameUnit.stamped (s : State) (r : Nat) (c : MatCmd) : SameUnit r s (s.stamped r c) := by
  have ht : (s.stamped r c).tile r = (s.matStamp r c.bKeys).tile r := State.tile_congr rfl r
  rw [SameUnit, ht]
  exact  SameUnit.matStamp r s c.bKeys

@[simp] theorem Tile.multiply_matrix (t : Tile) (c : MatCmd) (a b : Rows) : (t.multiply c a b).matrix = t.matrix :=
  List.foldlRecOn (motive := fun u : Tile => u.matrix = t.matrix) _ _ rfl fun _ hu _ _ => hu

end

/-- Settles O40: the rows are those that `rowsRead` gives; what a multiply does before and after it writes its cells leaves them alone. -/
theorem matrixProducts : Obligations.MatrixProducts := by
  intro s r c l hq hop hg hlost hb ha hheld hbad hclk hsound hrow hcol old read
  obtain ⟨hmem, hz, hqueue, hdone⟩ := SameUnit.stamped s r c
  have hcell (i j : Nat) : ((s.stamped r c).tile r).cell i j = (s.tile r).cell i j := by rw [Tile.cell, hz]; rfl
  refine ⟨s.runMma r c, s.rowsRead c.reads c.aKeys, s.rowsRead c.reads c.bKeys, ?_,
    fun m n j i k key row => s.rowsRead_reads _ _ m n j, fun m n j i k key row => s.rowsRead_reads _ _ m n j, ?_⟩
  · show execMatrixCommandComplete r s = _
    simp only [execMatrixCommandComplete, hq, event, hclk, hop, if_true]
  rw [State.runMma_single hg hlost hb ha hheld hbad hsound, State.matDone_single hg]
  generalize s.rowsRead c.reads c.aKeys = a
  generalize s.rowsRead c.reads c.bKeys = b
  have hfinal (i j : Nat) : (((((s.stamped r c).modTile r fun t => { t.multiply c a b with
      chkskip := if c.skips a b then (t.multiply c a b).chkskip + 1 else (t.multiply c a b).chkskip }).modTile r fun t =>
      { t with matrix := { t.matrix with queue := t.matrix.queue.tail, done := t.matrix.done + 1, chunk := 0, replays := 0 } }).tile r).cell i j) =
      (((s.stamped r c).tile r).multiply c a b).cell i j := by
    rw [State.tile_modTile, State.tile_modTile]
    rfl
  refine ⟨?_, ?_, by rw [State.modTile_mem, State.modTile_mem, hmem], ?_, ?_⟩
  · rw [State.tile_modTile, State.tile_modTile]
    simp [hqueue, hq]
  · rw [State.tile_modTile, State.tile_modTile]
    simp [hdone]
  · intro i j hi hj hout
    rw [hfinal, Tile.multiply, Tile.cell_fillCells_outside _ _ hcol hj hout, hcell]
  · intro m n hm hn i j
    have hval : (((s.stamped r c).tile r).multiply c a b).cell i j =
        if fmtAct c.fmt then cellInt c.fmt c.mshape a b (old i j) m n else cellFloat c.fmt c.mshape a b (old i j) m n := by
      rw [Tile.multiply, Tile.cell_fillCells _ _ hcol hm hn]
      simp only [hcell]
      rfl
    rw [hfinal, hval]
    exact ⟨fun hf => by rw [if_pos hf, cellInt_eq], fun hf => by rw [if_neg (by simp [hf])]; rfl⟩

end Sys2Proof.Machine
end

section
/-! # Magnitudes of exact values as rational numbers (R66, R76) -/

namespace Sys2Proof.Machine

/-- The magnitude that an exact value stands for. -/
def Ex.mag (v : Ex) : ℚ := v.num / v.den * 2 ^ v.exp

theorem scaleUp_div_scaleDown (k : Int) : (scaleUp k : ℚ) / scaleDown k = 2 ^ k := by
  unfold scaleUp scaleDown
  obtain hk | hk := Int.le_total 0 k
  · obtain ⟨n, rfl⟩ := Int.eq_ofNat_of_zero_le hk
    simp
  · obtain ⟨n, hn⟩ := Int.eq_ofNat_of_zero_le (Int.neg_nonneg.2 hk)
    obtain rfl : k = -(n : Int) := by omega
    simp

theorem scaleUp_eq (k : Int) : (scaleUp k : ℚ) = 2 ^ k * scaleDown k := by
  rw [← scaleUp_div_scaleDown, div_mul_cancel₀ _ (Nat.cast_ne_zero.2 (scaleDown_pos k).ne')]

theorem Ex.mag_nonneg (v : Ex) : 0 ≤ v.mag := by
  unfold Ex.mag
  positivity

@[simp] theorem Ex.mag_abs (v : Ex) : v.abs.mag = v.mag := rfl

theorem Ex.mag_eq_zero {v : Ex} (h : 0 < v.den) : v.mag = 0 ↔ v.isZero = true := by
  simp [Ex.mag, Ex.isZero, h.ne', zpow_ne_zero]

@[simp] theorem Ex.mag_two_pow (neg : Bool) (g : Int) : Ex.mag ⟨neg, 1, 1, g⟩ = 2 ^ g := by simp [Ex.mag]

/-- The magnitude over the denominators of both and a common scale. -/
theorem Ex.mag_scaled (a : Ex) {e : Int} (he : e ≤ a.exp) (ha : 0 < a.den) (n : Nat) :
    ((a.num * 2 ^ (a.exp - e).toNat * n : Nat) : ℚ) = a.mag * (a.den * n * 2 ^ (-e)) := by
  have hd : (a.den : ℚ) ≠ 0 := Nat.cast_ne_zero.2 ha.ne'
  have hp : ((2 : ℚ) ^ (a.exp - e).toNat) = 2 ^ a.exp * 2 ^ (-e) := by
    rw [← zpow_natCast, Int.toNat_of_nonneg (by omega), ← zpow_add₀ two_ne_zero, Int.sub_eq_add_neg]
  push_cast
  rw [hp, Ex.mag]
  field_simp

/-- The exact comparison of magnitudes compares them as numbers. -/
theorem Ex.absLt_iff {a b : Ex} (ha : 0 < a.den) (hb : 0 < b.den) : a.absLt b = true ↔ a.mag < b.mag := by
  have hpos : (0 : ℚ) < a.den * b.den * 2 ^ (-(min a.exp b.exp)) := by positivity
  simp only [Ex.absLt, decide_eq_true_eq]
  rw [← Nat.cast_lt (α := ℚ), Ex.mag_scaled a (min_le_left _ _) ha, Ex.mag_scaled b (min_le_right _ _) hb, mul_comm (b.den : ℚ) a.den]
  exact mul_lt_mul_iff_left₀ hpos

theorem Ex.absLt_eq_false {a b : Ex} (ha : 0 < a.den) (hb : 0 < b.den) : a.absLt b = false ↔ b.mag ≤ a.mag := by
  rw [← Bool.not_eq_true, Ex.absLt_iff ha hb, not_lt]

/-- A natural number as a rational lies between two powers of two. -/
theorem two_pow_log2_le {n : Nat} (h : n ≠ 0) : (2 : ℚ) ^ (Nat.log2 n : Int) ≤ n ∧ (n : ℚ) < 2 ^ ((Nat.log2 n : Int) + 1) := by
  have h1 : 2 ^ Nat.log2 n ≤ n := Nat.log2_self_le h
  have h2 : n < 2 ^ (Nat.log2 n + 1) := Nat.lt_log2_self
  constructor
  · rw [zpow_natCast]
    exact_mod_cast h1
  · rw [show (Nat.log2 n : Int) + 1 = ((Nat.log2 n + 1 : Nat) : Int) by push_cast; rfl, zpow_natCast]
    exact_mod_cast h2

theorem div_between_two_pow {n d : Nat} (hn : n ≠ 0) (hd : d ≠ 0) :
    let l : Int := (Nat.log2 n : Int) - Nat.log2 d
    (2 : ℚ) ^ (l - 1) ≤ n / d ∧ (n : ℚ) / d < 2 ^ (l + 1) := by
  intro l
  obtain ⟨hn1, hn2⟩ := two_pow_log2_le hn
  obtain ⟨hd1, hd2⟩ := two_pow_log2_le hd
  have hpos : (0 : ℚ) < d := Nat.cast_pos.2 (Nat.pos_of_ne_zero hd)
  constructor
  · rw [le_div_iff₀ hpos]
    calc (2 : ℚ) ^ (l - 1) * d ≤ 2 ^ (l - 1) * 2 ^ ((Nat.log2 d : Int) + 1) := by gcongr
      _ = 2 ^ (Nat.log2 n : Int) := by rw [← zpow_add₀ two_ne_zero]; congr 1; omega
      _ ≤ n := hn1
  · rw [div_lt_iff₀ hpos]
    calc (n : ℚ) < 2 ^ ((Nat.log2 n : Int) + 1) := hn2
      _ = 2 ^ (l + 1) * 2 ^ (Nat.log2 d : Int) := by rw [← zpow_add₀ two_ne_zero]; congr 1; omega
      _ ≤ 2 ^ (l + 1) * d := by gcongr

/-- The test of `Ex.log2` asks whether the fraction reaches a power of two. -/
theorem scaled_le_iff {n d : Nat} (hd : 0 < d) (l : Int) : d * scaleUp l ≤ n * scaleDown l ↔ (2 : ℚ) ^ l ≤ n / d := by
  have hs : (0 : ℚ) < scaleDown l := Nat.cast_pos.2 (scaleDown_pos l)
  rw [le_div_iff₀ (Nat.cast_pos.2 hd), ← Nat.cast_le (α := ℚ), Nat.cast_mul, Nat.cast_mul, scaleUp_eq, ← mul_assoc,
    mul_le_mul_iff_left₀ hs, mul_comm]

/-- The exponent of a nonzero value is that of the greatest power of two not above it. -/
theorem Ex.log2_spec {v : Ex} (hd : 0 < v.den) (hn : v.num ≠ 0) : (2 : ℚ) ^ v.log2 ≤ v.mag ∧ v.mag < 2 ^ (v.log2 + 1) := by
  obtain ⟨hlo, hhi⟩ := div_between_two_pow hn hd.ne'
  have hpos : (0 : ℚ) < 2 ^ v.exp := by positivity
  have key {k : Int} (h1 : (2 : ℚ) ^ k ≤ v.num / v.den) (h2 : (v.num : ℚ) / v.den < 2 ^ (k + 1)) :
      (2 : ℚ) ^ (k + v.exp) ≤ v.mag ∧ v.mag < 2 ^ (k + v.exp + 1) := by
    rw [show k + v.exp + 1 = k + 1 + v.exp by omega, zpow_add₀ two_ne_zero, zpow_add₀ two_ne_zero (k + 1)]
    exact ⟨mul_le_mul_of_nonneg_right h1 hpos.le, mul_lt_mul_of_pos_right h2 hpos⟩
  simp only [Ex.log2]
  split
  · next h => exact key ((scaled_le_iff hd _).1 h) hhi
  · next h =>
    refine key hlo ?_
    rw [Int.sub_add_cancel]
    exact not_le.1 (mt (scaled_le_iff hd _).2 h)

/-- What a rounding divides is the magnitude in units of its last place. -/
theorem Ex.units_eq (v : Ex) (hd : 0 < v.den) (q : Int) :
    ((v.num * scaleUp (v.exp - q) : Nat) : ℚ) = v.mag / 2 ^ q * (v.den * scaleDown (v.exp - q) : Nat) := by
  have hd : (v.den : ℚ) ≠ 0 := Nat.cast_ne_zero.2 hd.ne'
  push_cast
  rw [scaleUp_eq, zpow_sub₀ two_ne_zero, Ex.mag]
  field_simp

/-- A value below 2^p units rounds to at most 2^p units. -/
theorem Ex.roundAt_le {v : Ex} (hd : 0 < v.den) {q : Int} {p : Nat} (h : v.mag < 2 ^ (q + p)) (m : RMode) : (v.roundAt m q).1 ≤ 2 ^ p := by
  rw [Ex.roundAt_fst]
  have hpos : 0 < v.den * scaleDown (v.exp - q) := Nat.mul_pos hd (scaleDown_pos _)
  have hlt : v.num * scaleUp (v.exp - q) / (v.den * scaleDown (v.exp - q)) < 2 ^ p := by
    rw [Nat.div_lt_iff_lt_mul hpos, ← Nat.cast_lt (α := ℚ), Ex.units_eq v hd, Nat.cast_mul (2 ^ p), Nat.cast_pow, Nat.cast_ofNat]
    refine mul_lt_mul_of_pos_right ?_ (Nat.cast_pos.2 hpos)
    rwa [div_lt_iff₀ (by positivity), ← zpow_natCast, ← zpow_add₀ two_ne_zero, add_comm]
  have := Bool.toNat_le (m.up v.neg (v.num * scaleUp (v.exp - q) / (v.den * scaleDown (v.exp - q)))
    (v.num * scaleUp (v.exp - q) % (v.den * scaleDown (v.exp - q))) (v.den * scaleDown (v.exp - q)))
  omega

end Sys2Proof.Machine
end

section
/-! # Scales and elements of the block formats (R67, R68, R188) -/

namespace Sys2Proof.Machine

/-! ## The greatest magnitude of a block -/

/-- Every finite value of a list has a positive denominator. -/
def Proper (l : List FVal) : Prop := ∀ y, FVal.fin y ∈ l → 0 < y.den

theorem mem_finites {l : List FVal} {y : Ex} : y ∈ finites l ↔ FVal.fin y ∈ l := by
  simp only [finites, List.mem_filterMap]
  constructor
  · rintro ⟨v, hv, h⟩
    split at h <;> cases h
    exact hv
  · exact fun h => ⟨.fin y, h, rfl⟩

/-- What the search for the greatest magnitude finds, from a value `m`. -/
theorem foldl_amax (xs : List Ex) (hx : ∀ x ∈ xs, 0 < x.den) (m : Ex) (hm : 0 < m.den) :
    let r := xs.foldl (fun m x => if m.absLt x then x.abs else m) m
    0 < r.den ∧ m.mag ≤ r.mag ∧ (∀ x ∈ xs, x.mag ≤ r.mag) ∧ (r = m ∨ ∃ x ∈ xs, r = x.abs) := by
  induction xs generalizing m with
  | nil => exact ⟨hm, le_refl _, fun x h => absurd h List.not_mem_nil, .inl rfl⟩
  | cons x xs ih =>
    have hx0 : 0 < x.den := hx x List.mem_cons_self
    have hxs : ∀ y ∈ xs, 0 < y.den := fun y hy => hx y (List.mem_cons_of_mem _ hy)
    rw [List.foldl_cons]
    cases hlt : m.absLt x with
    | true =>
      obtain ⟨h1, h2, h3, h4⟩ := ih hxs x.abs hx0
      rw [Ex.mag_abs] at h2
      refine ⟨h1, ((Ex.absLt_iff hm hx0).1 hlt).le.trans h2, List.forall_mem_cons.2 ⟨h2, h3⟩, .inr ?_⟩
      obtain h4 | ⟨y, hy, h4⟩ := h4
      · exact ⟨x, List.mem_cons_self, h4⟩
      · exact ⟨y, List.mem_cons_of_mem _ hy, h4⟩
    | false =>
      obtain ⟨h1, h2, h3, h4⟩ := ih hxs m hm
      refine ⟨h1, h2, List.forall_mem_cons.2 ⟨((Ex.absLt_eq_false hm hx0).1 hlt).trans h2, h3⟩, h4.imp_right ?_⟩
      exact fun ⟨y, hy, h⟩ => ⟨y, List.mem_cons_of_mem _ hy, h⟩

section
variable {l : List FVal}

theorem amaxOf_den (h : Proper l) : 0 < (amaxOf (finites l)).den :=
  (foldl_amax _ (fun x hx => h x (mem_finites.1 hx)) (Ex.zero false) Nat.one_pos).1

/-- No finite value is above the greatest magnitude. -/
theorem mag_le_amaxOf (h : Proper l) {y : Ex} (hy : FVal.fin y ∈ l) : y.mag ≤ (amaxOf (finites l)).mag :=
  (foldl_amax _ (fun x hx => h x (mem_finites.1 hx)) (Ex.zero false) Nat.one_pos).2.2.1 y (mem_finites.2 hy)

/-- A greatest magnitude that is not zero is that of a value. -/
theorem amaxOf_attained (h : Proper l) (hz : ¬(amaxOf (finites l)).isZero = true) :
    ∃ y, FVal.fin y ∈ l ∧ (amaxOf (finites l)).mag = y.mag := by
  obtain ⟨-, -, -, h0 | ⟨y, hy, hm⟩⟩ := foldl_amax _ (fun x hx => h x (mem_finites.1 hx)) (Ex.zero false) Nat.one_pos
  · rw [amaxOf, h0] at hz
    exact absurd rfl hz
  · exact ⟨y, mem_finites.1 hy, by rw [amaxOf, hm, Ex.mag_abs]⟩

/-- The greatest magnitude is zero just where every finite value is. -/
theorem amaxOf_isZero (h : Proper l) : (amaxOf (finites l)).isZero = true ↔ ∀ y, FVal.fin y ∈ l → y.isZero = true := by
  constructor
  · intro hz y hy
    have hle := mag_le_amaxOf h hy
    rw [(Ex.mag_eq_zero (amaxOf_den h)).2 hz] at hle
    exact (Ex.mag_eq_zero (h y hy)).1 (le_antisymm hle y.mag_nonneg)
  · intro hall
    by_contra hz
    obtain ⟨y, hy, hm⟩ := amaxOf_attained h hz
    exact hz ((Ex.mag_eq_zero (amaxOf_den h)).1 (hm.trans ((Ex.mag_eq_zero (h y hy)).2 (hall y hy))))

end

/-! ## Elements -/

/-- What a rounding answers: a zero, an overflow, or a significand of P(F) bits whose exponent is within the format. -/
theorem FFmt.roundFin_bits (f : FFmt) {v : Ex} (hd : 0 < v.den) (m : RMode) (nsat : Bool) :
    (f.roundFin v m nsat).bits = f.signBit v.neg ∨ (f.roundFin v m nsat).bits = (f.overflow v.neg m nsat).bits ∨
    ∃ (sig : Nat) (q : Int), (f.roundFin v m nsat).bits = f.encodeFin v.neg sig q ∧ sig < 2 ^ f.prec ∧
      (2 ^ (f.prec - 1) ≤ sig → q + f.prec - 1 ≤ f.emax) := by
  by_cases hz : v.isZero = true
  · exact .inl (by rw [FFmt.roundFin, if_pos hz])
  have hnum : v.num ≠ 0 := fun h => hz (by simp [Ex.isZero, h])
  have hp := f.prec_pos
  have hlt : 2 ^ (f.prec - 1) < 2 ^ f.prec := Nat.pow_lt_pow_right (by decide) (by omega)
  have hle : (v.roundAt m (max v.log2 f.emin - f.prec + 1)).1 ≤ 2 ^ f.prec := by
    refine Ex.roundAt_le hd ((Ex.log2_spec hd hnum).2.trans_le (zpow_le_zpow_right₀ one_le_two ?_)) m
    omega
  simp only [FFmt.roundFin, hz, Bool.false_eq_true, if_false]
  generalize v.roundAt m (max v.log2 f.emin - f.prec + 1) = sr at hle ⊢
  obtain ⟨sig, inexact⟩ := sr
  dsimp only at hle ⊢
  by_cases hs : sig = 2 ^ f.prec
  · simp only [hs, if_true]
    split
    · exact .inr (.inl rfl)
    · next h => exact .inr (.inr ⟨_, _, rfl, hlt, fun h1 => by_contra fun h2 => h ⟨h1, .inl (not_le.1 h2)⟩⟩)
  · simp only [hs, if_false]
    split
    · exact .inr (.inl rfl)
    · next h => exact .inr (.inr ⟨_, _, rfl, lt_of_le_of_ne hle hs, fun h1 => by_contra fun h2 => h ⟨h1, .inl (not_le.1 h2)⟩⟩)

/-- Every rounding to E2M1 gives a nibble. -/
theorem e2m1_roundFin_lt {v : Ex} (hd : 0 < v.den) (m : RMode) (nsat : Bool) : (FFmt.e2m1.roundFin v m nsat).bits < 16 := by
  obtain h | h | ⟨sig, q, h, hsig, hq⟩ := FFmt.e2m1.roundFin_bits hd m nsat
  · rw [h]
    cases v.neg <;> decide
  · have ho : (FFmt.e2m1.overflow v.neg m nsat).bits = FFmt.e2m1.maxBits v.neg := by simp [FFmt.overflow]
    rw [h, ho]
    cases v.neg <;> decide
  · have hsign : FFmt.e2m1.signBit v.neg ≤ 8 := by cases v.neg <;> decide
    have henc : FFmt.e2m1.encodeFin v.neg sig q =
        FFmt.e2m1.signBit v.neg + (if sig < 2 then sig else (q + 1 + 1).toNat * 2 + (sig - 2)) := rfl
    simp only [FFmt.prec, FFmt.emax] at hsig hq
    rw [h, henc]
    split <;> omega

theorem e3m5_den (b : Nat) : (e3m5 b).den = 1 := by
  unfold e3m5
  dsimp only
  split <;> rfl

theorem e3m5_num_pos {b : Nat} (h : b ≠ 0) : 0 < (e3m5 b).num := by
  unfold e3m5
  dsimp only
  split
  · show 0 < b % 32
    omega
  · show 0 < 32 + b % 32
    omega

theorem dx4Elem_lt {v : FVal} (hv : ∀ y, v = .fin y → 0 < y.den) (m : ArithMode) (s : Nat) : (dx4Elem m s v).bits < 16 := by
  unfold dx4Elem
  split
  · exact Nat.succ_pos 15
  · next n => cases n <;> decide
  · next x =>
    split
    · cases x.neg <;> decide
    · next hs => exact e2m1_roundFin_lt (Nat.mul_pos (hv x rfl) (e3m5_num_pos hs)) _ _

/-! ## DX4 -/

/-- Sixfold of an E3M5 value. -/
def sixfold (c : Nat) : Ex := (Ex.ofNat 6).mul (e3m5 c)

theorem sixfold_den (c : Nat) : 0 < (sixfold c).den := by
  rw [sixfold, Ex.mul, e3m5_den]
  exact Nat.one_pos

/-- The scale is the smallest whose sixfold reaches the magnitude, or the last. -/
theorem dx4Scale_spec {a : Ex} (hz : ¬a.isZero = true) :
    dx4Scale a < 256 ∧ (∀ c, c < dx4Scale a → (sixfold c).absLt a = true) ∧
      (dx4Scale a = 255 ∨ (sixfold (dx4Scale a)).absLt a = false) := by
  rw [dx4Scale, if_neg hz]
  cases hf : (List.range 256).find? fun b => !((Ex.mul (Ex.ofNat 6) (e3m5 b)).absLt a) with
  | none =>
    refine ⟨by decide, fun c hc => ?_, .inl rfl⟩
    have := List.find?_eq_none.1 hf c (List.mem_range.2 (Nat.lt_trans hc (by decide)))
    simpa [sixfold] using this
  | some b =>
    obtain ⟨hb, hlt, hmin⟩ := List.find?_range_eq_some.1 hf
    rw [Option.getD_some]
    exact ⟨List.mem_range.1 hlt, fun c hc => by simpa [sixfold] using hmin c hc, .inr (by simpa [sixfold] using hb)⟩

theorem packDx4_scale {l : List FVal} (h : Proper l) (m : ArithMode) :
    ((∀ y, FVal.fin y ∈ l → y.isZero = true) → (packDx4 m l).scale = 0) ∧
    (¬(∀ y, FVal.fin y ∈ l → y.isZero = true) → (packDx4 m l).scale < 256 ∧
      (∀ c, c < (packDx4 m l).scale → ∃ y, FVal.fin y ∈ l ∧ (sixfold c).absLt y = true) ∧
      ((packDx4 m l).scale = 255 ∨ ∀ y, FVal.fin y ∈ l → (sixfold (packDx4 m l).scale).absLt y = false)) := by
  have hs : (packDx4 m l).scale = dx4Scale (amaxOf (finites l)) := rfl
  rw [← amaxOf_isZero h, hs]
  refine ⟨fun hz => by rw [dx4Scale, if_pos hz], fun hz => ?_⟩
  obtain ⟨hlt, hbelow, hreach⟩ := dx4Scale_spec hz
  obtain ⟨y, hy, hmag⟩ := amaxOf_attained h hz
  have hden := amaxOf_den h
  refine ⟨hlt, fun c hc => ⟨y, hy, ?_⟩, hreach.imp_right fun hr z hz' => ?_⟩
  · rw [Ex.absLt_iff (sixfold_den c) (h y hy), ← hmag]
    exact (Ex.absLt_iff (sixfold_den c) hden).1 (hbelow c hc)
  · rw [Ex.absLt_eq_false (sixfold_den _) (h z hz')]
    exact (mag_le_amaxOf h hz').trans ((Ex.absLt_eq_false (sixfold_den _) hden).1 hr)

/-! ## MXFP4 -/

/-- A list of finite values alone is that of its finite values. -/
theorem eq_map_finites {l : List FVal} (h : ∀ v ∈ l, ∃ y, v = .fin y) : l = (finites l).map .fin := by
  induction l with
  | nil => rfl
  | cons v l ih =>
    obtain ⟨y, rfl⟩ := h v List.mem_cons_self
    exact congrArg _ (ih fun w hw => h w (List.mem_cons_of_mem _ hw))

theorem length_finites_lt {l : List FVal} {v : FVal} (hv : v ∈ l) (hf : ∀ y, v ≠ .fin y) : (finites l).length < l.length := by
  refine List.length_filterMap_lt_length_iff_exists.2 ⟨v, hv, ?_⟩
  split
  · next y => exact absurd rfl (hf y)
  · rfl

theorem packMx_nan {l : List FVal} {v : FVal} (hv : v ∈ l) (hf : ∀ y, v ≠ .fin y) (m : ArithMode) :
    packMx m l = ⟨l.map fun _ => 0, 255, fNV⟩ := if_pos (Nat.ne_of_lt (length_finites_lt hv hf))

/-- An element of an MXFP4 block with the scale byte `s`. -/
def mxElem (m : ArithMode) (s : Nat) (x : Ex) : FRes := FFmt.e2m1.roundFin { x with exp := x.exp - ((s : Int) - 127) } m.rm false

@[simp] theorem finites_map_fin (xs : List Ex) : finites (xs.map .fin) = xs := by
  simp [finites]

/-- The scale byte of an MXFP4 block. -/
def mxScale (a : Ex) : Nat := (clampInt 0 254 (a.log2 - 2 + 127)).toNat

theorem packMx_fin (m : ArithMode) (xs : List Ex) : packMx m (xs.map .fin) =
    if (amaxOf xs).isZero then ⟨xs.map fun x => FFmt.e2m1.signBit x.neg, 127, 0⟩
    else ⟨(xs.map (mxElem m (mxScale (amaxOf xs)))).map (·.bits), mxScale (amaxOf xs), orFlags (xs.map (mxElem m (mxScale (amaxOf xs))))⟩ := by
  simp only [packMx, finites_map_fin, List.length_map, ne_eq, not_true_eq_false, if_false]
  rfl

end Sys2Proof.Machine
end

section
/-! # Packing and unpacking of registers (R187, R188) -/

namespace Sys2Proof.Machine

/-! ## What the packing of a block keeps -/

theorem packDx4_length (m : ArithMode) (l : List FVal) : (packDx4 m l).nibbles.length = l.length := by simp [packDx4]

theorem packMx_length (m : ArithMode) (l : List FVal) : (packMx m l).nibbles.length = l.length := by
  by_cases hl : (finites l).length = l.length
  · simp only [packMx, hl, ne_eq, not_true_eq_false, if_false]
    split <;> simp [hl]
  · simp [packMx, hl]

theorem packDx4_lt {l : List FVal} (h : Proper l) (m : ArithMode) : ∀ a ∈ (packDx4 m l).nibbles, a < 16 := by
  intro a ha
  simp only [packDx4, List.map_map, List.mem_map] at ha
  obtain ⟨v, hv, rfl⟩ := ha
  exact dx4Elem_lt (fun y hy => h y (hy ▸ hv)) m _

theorem mxElem_lt {y : Ex} (hd : 0 < y.den) (m : ArithMode) (s : Nat) : (mxElem m s y).bits < 16 :=
  e2m1_roundFin_lt (v := { y with exp := y.exp - ((s : Int) - 127) }) hd m.rm false

theorem packMx_lt {l : List FVal} (h : Proper l) (m : ArithMode) : ∀ a ∈ (packMx m l).nibbles, a < 16 := by
  intro a ha
  by_cases hf : ∀ v ∈ l, ∃ y, v = FVal.fin y
  · rw [eq_map_finites hf, packMx_fin] at ha
    split at ha
    · obtain ⟨y, -, rfl⟩ := List.mem_map.1 ha
      cases y.neg <;> decide
    · simp only [List.map_map, List.mem_map] at ha
      obtain ⟨y, hy, rfl⟩ := ha
      exact mxElem_lt (h y (mem_finites.1 hy)) m _
  · push Not at hf
    obtain ⟨v, hv, hf⟩ := hf
    rw [packMx_nan hv hf] at ha
    obtain ⟨-, -, rfl⟩ := List.mem_map.1 ha
    decide

/-! ## The rule of MXFP4 (R68, R188) -/

theorem packMx_zero {xs : List Ex} (hz : (amaxOf xs).isZero = true) (m : ArithMode) {j : Nat} {y : Ex}
    (hj : (xs.map FVal.fin)[j]? = some (.fin y)) : (packMx m (xs.map .fin)).nibbles[j]? = some (if y.neg then 8 else 0) := by
  rw [List.getElem?_map, Option.map_eq_some_iff] at hj
  obtain ⟨x, hx, h⟩ := hj
  cases h
  rw [packMx_fin, if_pos hz]
  rw [List.getElem?_map, hx]
  rfl

/-- The scale is the exponent of the greatest magnitude less 2, within the bytes. -/
theorem mxScale_eq (a : Ex) : (mxScale a : Int) = max 0 (min 254 (a.log2 - 2 + 127)) := by
  unfold mxScale clampInt
  split
  · omega
  · split <;> omega

/-- The exponent of the greatest magnitude of a block that is not all zeros. -/
theorem amaxOf_log2 {l : List FVal} (h : Proper l) (hz : ¬(amaxOf (finites l)).isZero = true) :
    (∃ y, FVal.fin y ∈ l ∧ y.absLt ⟨false, 1, 1, (amaxOf (finites l)).log2⟩ = false) ∧
    ∀ y, FVal.fin y ∈ l → y.absLt ⟨false, 1, 1, (amaxOf (finites l)).log2 + 1⟩ = true := by
  obtain ⟨y, hy, hmag⟩ := amaxOf_attained h hz
  obtain ⟨hlo, hhi⟩ := Ex.log2_spec (amaxOf_den h) (by simpa [Ex.isZero] using hz)
  refine ⟨⟨y, hy, ?_⟩, fun z hz' => ?_⟩
  · rw [Ex.absLt_eq_false (h y hy) Nat.one_pos, Ex.mag_two_pow, ← hmag]
    exact hlo
  · rw [Ex.absLt_iff (h z hz') Nat.one_pos, Ex.mag_two_pow]
    exact (mag_le_amaxOf h hz').trans_lt hhi

/-! ## The register (R187) -/

theorem blocksOf_eq {α : Type} (n k : Nat) (l : List α) : blocksOf n k l = (List.range k).map fun j => (l.drop (n * j)).take n := by
  induction k generalizing l with
  | zero => rfl
  | succ k ih =>
    rw [blocksOf, ih, List.range_succ_eq_map, List.map_cons, List.map_map, Nat.mul_zero, List.drop_zero]
    refine congrArg _ (List.map_congr_left fun j _ => ?_)
    rw [Function.comp, List.drop_drop, Nat.mul_succ, Nat.add_comm]

/-- An entry of lists of one length, one after another. -/
theorem getD_flatMap_range {n : Nat} (g : Nat → List Nat) {k i : Nat} (hg : ∀ j, j < k → (g j).length = n) (hi : i < k * n) :
    ((List.range k).flatMap g).getD i 0 = (g (i / n)).getD (i % n) 0 := by
  induction k with
  | zero => simp at hi
  | succ k ih =>
    have hlen : ((List.range k).flatMap g).length = k * n := by
      rw [List.length_flatMap, List.map_congr_left fun j hj => hg j (Nat.lt_succ_of_lt (List.mem_range.1 hj))]
      simp
    rw [List.range_succ, List.flatMap_append, List.flatMap_singleton, List.getD_eq_getElem?_getD]
    by_cases hlt : i < k * n
    · rw [List.getElem?_append_left (by rwa [hlen]), ← List.getD_eq_getElem?_getD]
      exact ih (fun j hj => hg j (Nat.lt_succ_of_lt hj)) hlt
    · have hrest : i - k * n < n := by rw [Nat.succ_mul] at hi; omega
      obtain ⟨r, rfl⟩ := Nat.exists_eq_add_of_le (Nat.not_lt.1 hlt)
      rw [Nat.add_sub_cancel_left] at hrest
      rw [List.getElem?_append_right (by omega), hlen, Nat.add_sub_cancel_left, ← List.getD_eq_getElem?_getD, Nat.mul_comm,
        Nat.mul_add_div (by omega), Nat.mul_add_mod, Nat.div_eq_of_lt hrest, Nat.mod_eq_of_lt hrest, Nat.add_zero]

/-- Byte `j` of a register that packs `n` elements: two nibbles from byte 0 on, the scales from byte 32 on, zeros elsewhere. -/
def packedByte (n : Nat) (bs : List Block) (j : Nat) : Nat :=
  if j < n / 2 then (bs.flatMap (·.nibbles)).getD (2 * j) 0 + 16 * (bs.flatMap (·.nibbles)).getD (2 * j + 1) 0
  else if 32 ≤ j then ((bs[j - 32]?).map (·.scale)).getD 0 else 0

section
variable {n j : Nat} {bs : List Block}

theorem elemOf_packed (hj : j < 128) : elemOf 8 (ofElems 8 (packedByte n bs)) j = packedByte n bs j % 256 := elemOf_ofElems _ hj

theorem getD_lt_of_forall {l : List Nat} (h : ∀ a ∈ l, a < 16) (i : Nat) : l.getD i 0 < 16 := by
  rw [List.getD_eq_getElem?_getD]
  cases hi : l[i]? with
  | none => exact Nat.succ_pos 15
  | some a => exact h a (List.mem_of_getElem? hi)

theorem packed_nibble (hn : n ≤ 64) (heven : n % 2 = 0) (hlt : ∀ a ∈ bs.flatMap (·.nibbles), a < 16) {e : Nat} (he : e < n) :
    elemOf 4 (ofElems 8 (packedByte n bs)) e = (bs.flatMap (·.nibbles)).getD e 0 := by
  have hlo := getD_lt_of_forall hlt (2 * (e / 2))
  have hhi := getD_lt_of_forall hlt (2 * (e / 2) + 1)
  rw [elemOf_nibble, elemOf_packed (by omega), packedByte, if_pos (by omega)]
  obtain ⟨q, rfl | rfl⟩ := Nat.even_or_odd' e
  · rw [show 2 * q / 2 = q by omega] at *
    rw [show 2 * q % 2 = 0 by omega]
    omega
  · rw [show (2 * q + 1) / 2 = q by omega] at *
    rw [show (2 * q + 1) % 2 = 1 by omega]
    omega

theorem packed_scale (hn : n ≤ 64) {k : Nat} (hk : k < 96) :
    elemOf 8 (ofElems 8 (packedByte n bs)) (32 + k) = ((bs[k]?).map (·.scale)).getD 0 % 256 := by
  rw [elemOf_packed (by omega), packedByte, if_neg (by omega), if_pos (by omega), Nat.add_sub_cancel_left]

theorem packed_between (h1 : n / 2 ≤ j) (h2 : j < 32) : elemOf 8 (ofElems 8 (packedByte n bs)) j = 0 := by
  rw [elemOf_packed (by omega), packedByte, if_neg (by omega), if_neg (by omega)]

end

section
variable {s : State} {i : Instr} {t : EType} {f : FFmt} {d x : VReg} {size : Nat}

/-- The values that a packing reads. -/
def packInputs (s : State) (t : EType) (f : FFmt) (x : VReg) : List FVal :=
  (List.range t.count).map fun e => f.input s.cur.plainMode.daz (elemOf t.width (s.cur.getV x) e)

theorem packInputs_proper (s : State) (t : EType) (f : FFmt) (x : VReg) : Proper (packInputs s t f x) := by
  intro y hy
  obtain ⟨e, -, he⟩ := List.mem_map.1 hy
  have hone {b : Nat} (hb : f.decode b = .fin y) : 0 < y.den := (FFmt.decode_fin hb).2.1 ▸ Nat.one_pos
  unfold FFmt.input at he
  split at he
  · exact hone he
  · exact hone he

/-- The inputs of block `k`. -/
def blockInputs (s : State) (t : EType) (f : FFmt) (x : VReg) (size k : Nat) : List FVal := ((packInputs s t f x).drop (size * k)).take size

theorem blockInputs_proper (k : Nat) : Proper (blockInputs s t f x size k) := fun y hy =>
  packInputs_proper s t f x y (List.mem_of_mem_drop (List.mem_of_mem_take hy))

theorem blockInputs_length (hsize : t.count / size * size = t.count) {k : Nat} (hk : k < t.count / size) :
    (blockInputs s t f x size k).length = size := by
  have hle := Nat.mul_le_mul_right size (Nat.succ_le_of_lt hk)
  rw [hsize, Nat.succ_mul, Nat.mul_comm k] at hle
  rw [blockInputs, packInputs, List.length_take, List.length_drop, List.length_map, List.length_range]
  omega

theorem packOp_yields {pack : ArithMode → List FVal → Block} (h : Ready .all false s) (hf : t.float? = some f)
    (hi : exec i s = packOp t d x size pack s) :
    let bs := (List.range (t.count / size)).map fun k => pack s.cur.plainMode (blockInputs s t f x size k)
    Yields i s ((s.cur.setV d (ofElems 8 (packedByte t.count bs))).raise (bs.foldl (fun fl b => fl ||| b.flags) 0)) := by
  intro bs
  have hbs : (blocksOf size (t.count / size) (packInputs s t f x)).map (pack s.cur.plainMode) = bs := by
    rw [blocksOf_eq, List.map_map]
    rfl
  rw [← hbs]
  refine completes_of_modCur (f := fun c => (c.setV d _).raise _) h hi ?_
  simp only [hf]
  rfl

theorem packOp_packs {pack : ArithMode → List FVal → Block} {rule : List FVal → Block → Prop} (h : Ready .all false s)
    (hf : t.float? = some f) (hi : exec i s = packOp t d x size pack s) (hsize : t.count / size * size = t.count) (hcount : t.count ≤ 64) (heven : t.count % 2 = 0)
    (hlen : ∀ l, (pack s.cur.plainMode l).nibbles.length = l.length)
    (hnib : ∀ l, Proper l → ∀ a ∈ (pack s.cur.plainMode l).nibbles, a < 16)
    (hrule : ∀ l, Proper l → rule l (pack s.cur.plainMode l)) :
    ∃ (block : Nat → Block) (v : VWord),
      (∀ k, k < t.count / size → rule (blockInputs s t f x size k) (block k)) ∧
      (∀ e, e < t.count → elemOf 4 v e = ((block (e / size)).nibbles.getD (e % size) 0) % 16) ∧
      (∀ k, k < t.count / size → elemOf 8 v (32 + k) = (block k).scale % 256) ∧
      (∀ k, t.count / 2 ≤ k → k < 32 → elemOf 8 v k = 0) ∧
      (∀ k, 32 + t.count / size ≤ k → k < 128 → elemOf 8 v k = 0) ∧
      Yields i s ((s.cur.setV d v).raise (((List.range (t.count / size)).map block).foldl (fun fl b => fl ||| b.flags) 0)) := by
  have hle : t.count / size ≤ 64 := (Nat.div_le_self _ _).trans hcount
  refine ⟨fun k => pack s.cur.plainMode (blockInputs s t f x size k), _, fun k _ => hrule _ (blockInputs_proper k), fun e he => ?_,
    fun k hk => ?_, fun k => packed_between, fun k h1 h2 => ?_, packOp_yields h hf hi⟩
  · have hlt : ∀ a ∈ ((List.range (t.count / size)).map fun k => pack s.cur.plainMode (blockInputs s t f x size k)).flatMap (·.nibbles),
        a < 16 := by
      intro a ha
      obtain ⟨b, hb, ha⟩ := List.mem_flatMap.1 ha
      obtain ⟨k, -, rfl⟩ := List.mem_map.1 hb
      exact hnib _ (blockInputs_proper k) a ha
    have hget := getD_flatMap_range (fun k => (pack s.cur.plainMode (blockInputs s t f x size k)).nibbles)
      (fun j hj => (hlen _).trans (blockInputs_length hsize hj)) (i := e) (by rwa [hsize])
    rw [packed_nibble hcount heven hlt he, ← Nat.mod_eq_of_lt (getD_lt_of_forall hlt e), List.flatMap_map, hget]
  · rw [packed_scale hcount (by omega)]
    simp [hk]
  · obtain ⟨j, rfl⟩ := Nat.exists_eq_add_of_le (Nat.le_of_add_right_le h1)
    rw [packed_scale hcount (by omega)]
    simp [show t.count / size ≤ j by omega]

theorem unpackOp_unpacks {scale : Nat → Option Ex} (h : Ready .all false s) (hf : t.float? = some f)
    (hi : exec i s = unpackOp t d x size scale s) :
    let r (e : Nat) := unpackElem f s.cur.plainMode (elemOf 4 (s.cur.getV x) e) (scale (elemOf 8 (s.cur.getV x) (32 + e / size)))
    ∃ v : VWord, (∀ e, e < t.count → elemOf t.width v e = (r e).bits % 2 ^ t.width) ∧
      Yields i s ((s.cur.setV d v).raise (orFlags ((List.range t.count).map r))) := by
  intro r
  refine ⟨ofElems t.width fun e => (r e).bits, fun e he => elemOf_ofElems _ he, ?_⟩
  refine completes_of_modCur (f := fun c => (c.setV d _).raise _) h hi ?_
  simp only [hf]
  rfl

end

/-- Settles O33: the blocks are those of `packDx4` and `packMx`, whose scales rest on the greatest magnitude of a block. -/
theorem blockFormats : Obligations.BlockFormats := by
  intro s t f d x h hf ht m vs zero dx4 mx packs unpacks
  have hdx (l : List FVal) (hl : Proper l) : dx4 l (packDx4 m l) := by
    obtain ⟨h0, hs⟩ := packDx4_scale hl m
    have helem : dx4Elem m (packDx4 m l).scale = fun v => match v with
        | .nan _ _ _ => ⟨0, fNV⟩
        | .inf neg => ⟨if neg then 15 else 7, fNV⟩
        | .fin y => if (packDx4 m l).scale = 0 then ⟨if y.neg then 8 else 0, 0⟩
          else FFmt.e2m1.roundFin (y.div (e3m5 (packDx4 m l).scale)) m.rm false := by
      funext v
      cases v with
      | nan => rfl
      | inf n => cases n <;> rfl
      | fin y => rfl
    refine ⟨h0, hs, ?_, ?_⟩
    · exact congrArg (fun g => (l.map g).map (·.bits)) helem
    · exact congrArg (fun g => orFlags (l.map g)) helem
  have hmx (l : List FVal) (hl : Proper l) : mx l (packMx m l) := by
    refine ⟨fun ⟨v, hv, hfin⟩ => ?_, fun hfin => ?_⟩
    · rw [packMx_nan hv hfin]
      exact ⟨rfl, rfl, rfl⟩
    · have hz : (amaxOf (finites l)).isZero = true ↔ zero l := amaxOf_isZero hl
      have hlog := amaxOf_log2 hl
      obtain ⟨xs, rfl⟩ : ∃ xs : List Ex, l = xs.map .fin := ⟨_, eq_map_finites hfin⟩
      rw [finites_map_fin] at hz hlog
      refine ⟨fun h0 => ?_, fun h0 => ?_⟩
      · have hpack := packMx_fin m xs
        rw [if_pos (hz.2 h0)] at hpack
        exact ⟨by rw [hpack], by rw [hpack], fun j y hj => packMx_zero (hz.2 h0) m hj⟩
      · obtain ⟨hlo, hhi⟩ := hlog (mt hz.1 h0)
        rw [packMx_fin, if_neg (mt hz.1 h0)]
        refine ⟨_, hlo, hhi, mxScale_eq _, congrArg (List.map FRes.bits) (Eq.symm ?_), congrArg orFlags (Eq.symm ?_)⟩
        · rw [List.map_map]
          rfl
        · rw [List.map_map]
          rfl
  have hsize (k : Nat) (hk : k = 8 ∨ k = 32) : t.count / k * k = t.count ∧ t.count ≤ 64 ∧ t.count % 2 = 0 := by
    obtain rfl | rfl := ht <;> obtain rfl | rfl := hk <;> decide
  refine ⟨?_, ?_, ?_, ?_⟩
  · obtain ⟨h1, h2, h3⟩ := hsize 8 (.inl rfl)
    exact packOp_packs (i := .vpk4 t d x) h hf (rfl : execVpk4 t d x s = _) h1 h2 h3 (packDx4_length m) (fun l hl => packDx4_lt hl m) hdx
  · obtain ⟨h1, h2, h3⟩ := hsize 32 (.inr rfl)
    exact packOp_packs (i := .vpkm t d x) h hf (rfl : execVpkm t d x s = _) h1 h2 h3 (packMx_length m) (fun l hl => packMx_lt hl m) hmx
  · exact unpackOp_unpacks (i := .vup4 t d x) h hf (rfl : execVup4 t d x s = _)
  · exact unpackOp_unpacks (i := .vupm t d x) h hf (rfl : execVupm t d x s = _)

end Sys2Proof.Machine
end

section
/-! # Integer registers: what each operation gives as a number (R89 to R93) -/

namespace Sys2Proof.Machine

variable {s : State} {i : Instr} {d x y : GReg}

/-! ## Bit counts and the reversal (R89) -/

theorem getLsbD_foldr_bits (f : Nat → Bool) (n k : Nat) {j : Nat} (hj : j < 32) (hn : j < n) :
    ((List.range' k n).foldr (fun j (acc : Word) => acc <<< 1 ||| boolWord (f j)) 0).getLsbD j = f (k + j) := by
  induction n generalizing k j with
  | zero => omega
  | succ n ih =>
    have hb (b : Bool) : (boolWord b).getLsbD j = (decide (j = 0) && b) := by cases b <;> simp [boolWord]
    rw [List.range'_succ, List.foldr_cons, BitVec.getLsbD_or, BitVec.getLsbD_shiftLeft, hb]
    cases j with
    | zero => simp
    | succ j =>
      have hj' := ih (k + 1) (j := j) (by omega) (by omega)
      rw [Nat.add_right_comm, Nat.add_assoc] at hj'
      simpa [hj] using hj'

theorem getLsbD_ofBits (f : Nat → Bool) {j : Nat} (hj : j < 32) : (ofBits f).getLsbD j = f j := by
  rw [ofBits, List.range_eq_range', getLsbD_foldr_bits f 32 0 hj hj, Nat.zero_add]

/-- The leading zeros end at the highest bit that is set. -/
theorem clz32_spec (v : Word) : ∃ n, n ≤ 32 ∧ (∀ j, j < n → v.getLsbD (31 - j) = false) ∧
    (n < 32 → v.getLsbD (31 - n) = true) ∧ clz32 v = BitVec.ofNat 32 n := by
  by_cases h : v = 0
  · exact ⟨32, le_rfl, fun j _ => by simp [h], by omega, by simp [clz32, h]⟩
  · have h0 : v.toNat ≠ 0 := fun e => h (BitVec.eq_of_toNat_eq e)
    have hlog : v.toNat.log2 < 32 := (Nat.log2_lt h0).2 v.isLt
    refine ⟨31 - v.toNat.log2, by omega, fun j hj => ?_, fun _ => ?_, by rw [clz32, if_neg h]⟩
    · rw [← BitVec.testBit_toNat]
      exact Nat.testBit_lt_two_pow (Nat.lt_of_lt_of_le Nat.lt_log2_self (Nat.pow_le_pow_right (by decide) (by omega)))
    · rw [← BitVec.testBit_toNat, show 31 - (31 - v.toNat.log2) = v.toNat.log2 by omega]
      exact Nat.testBit_log2 h0

/-- The trailing zeros end at the lowest bit that is set. -/
theorem ctz32_spec (v : Word) : ∃ n, n ≤ 32 ∧ (∀ j, j < n → v.getLsbD j = false) ∧ (n < 32 → v.getLsbD n = true) ∧
    ctz32 v = BitVec.ofNat 32 n := by
  unfold ctz32
  cases h : (List.range 32).find? fun j => v.getLsbD j with
  | none =>
    rw [List.find?_range_eq_none] at h
    exact ⟨32, le_rfl, fun j hj => by simpa using h j hj, by omega, rfl⟩
  | some n =>
    rw [List.find?_range_eq_some] at h
    obtain ⟨hn, hmem, hlow⟩ := h
    exact ⟨n, (List.mem_range.1 hmem).le, fun j hj => by simpa using hlow j hj, fun _ => hn, rfl⟩

/-! ## Shifts and rotations (R90, R93) -/

theorem shiftLeft_eq_ofNat (a : Word) (n : Nat) : a <<< n = BitVec.ofNat 32 (a.toNat * 2 ^ n) :=
  BitVec.eq_of_toNat_eq (by rw [BitVec.toNat_shiftLeft, Nat.shiftLeft_eq, BitVec.toNat_ofNat])

theorem ushiftRight_eq_ofNat (a : Word) (n : Nat) : a >>> n = BitVec.ofNat 32 (a.toNat / 2 ^ n) :=
  BitVec.eq_of_toNat_eq (by
    rw [BitVec.toNat_ushiftRight, Nat.shiftRight_eq_div_pow, BitVec.toNat_ofNat, Nat.mod_eq_of_lt]
    exact Nat.lt_of_le_of_lt (Nat.div_le_self _ _) a.isLt)

theorem sshiftRight_eq_ofInt (a : Word) (n : Nat) : a.sshiftRight n = BitVec.ofInt 32 (a.toInt / 2 ^ n) := by
  rw [BitVec.sshiftRight, Int.shiftRight_eq_div_pow]
  norm_cast

/-- The two parts of a rotated word share no bit, so that they add up. -/
theorem rotateRight_eq_ofNat (a : Word) {n : Nat} (hn : n < 32) :
    a.rotateRight n = BitVec.ofNat 32 (a.toNat / 2 ^ n + a.toNat * 2 ^ (32 - n)) := by
  have hd : a >>> n &&& a <<< (32 - n) = 0#32 := by
    refine BitVec.eq_of_getLsbD_eq fun j hj => ?_
    by_cases h : j < 32 - n
    · simp [h]
    · simp [BitVec.getLsbD_of_ge a (n + j) (by omega)]
  rw [BitVec.rotateRight_def, Nat.mod_eq_of_lt hn, ← BitVec.add_eq_or_of_and_eq_zero _ _ hd, shiftLeft_eq_ofNat, ushiftRight_eq_ofNat,
    BitVec.ofNat_add]

/-! ## Products, quotients, comparisons (R90, R91) -/

theorem abs_eq (a : Word) : (if a.msb then -a else a) = if a.toInt < 0 then 0 - a else a := by
  rw [BitVec.msb_eq_toInt]
  simp only [decide_eq_true_eq]
  exact if_congr Iff.rfl (BitVec.zero_sub a).symm rfl

theorem mul_eq_ofInt (a b : Word) : a * b = BitVec.ofInt 32 (a.toInt * b.toInt) := by
  rw [BitVec.ofInt_mul, BitVec.ofInt_toInt, BitVec.ofInt_toInt]

theorem sub_eq_ofInt (a b : Word) : a - b = BitVec.ofInt 32 (a.toInt - b.toInt) := by
  rw [Int.sub_eq_add_neg, BitVec.ofInt_add, BitVec.ofInt_neg, BitVec.ofInt_toInt, BitVec.ofInt_toInt, BitVec.sub_eq_add_neg]

theorem add_eq_ofNat (a b : Word) : a + b = BitVec.ofNat 32 (a.toNat + b.toNat) := by
  rw [BitVec.ofNat_add, BitVec.ofNat_toNat, BitVec.ofNat_toNat, BitVec.setWidth_eq, BitVec.setWidth_eq]

/-- The high half of a 64-bit pattern of a whole number. -/
theorem highHalf_ofInt (p : Int) : ((BitVec.ofInt 64 p) >>> 32).setWidth 32 = BitVec.ofInt 32 (p / 2 ^ 32) := by
  refine BitVec.eq_of_toNat_eq ?_
  rw [BitVec.toNat_setWidth, BitVec.toNat_ushiftRight, Nat.shiftRight_eq_div_pow, BitVec.toNat_ofInt, BitVec.toNat_ofInt]
  omega

theorem mulh_eq_ofInt (a b : Word) :
    ((a.signExtend 64 * b.signExtend 64) >>> 32).setWidth 32 = BitVec.ofInt 32 (a.toInt * b.toInt / 2 ^ 32) := by
  rw [BitVec.signExtend, BitVec.signExtend, ← BitVec.ofInt_mul, highHalf_ofInt]

theorem mulhu_eq_ofNat (a b : Word) :
    ((a.setWidth 64 * b.setWidth 64) >>> 32).setWidth 32 = BitVec.ofNat 32 (a.toNat * b.toNat / 2 ^ 32) := by
  have h : a.toNat * b.toNat < 2 ^ 32 * 2 ^ 32 := Nat.mul_lt_mul'' a.isLt b.isLt
  refine BitVec.eq_of_toNat_eq ?_
  rw [BitVec.toNat_setWidth, BitVec.toNat_ushiftRight, BitVec.toNat_mul, BitVec.toNat_setWidth, BitVec.toNat_setWidth,
    Nat.mod_eq_of_lt (by omega : a.toNat < 2 ^ 64), Nat.mod_eq_of_lt (by omega : b.toNat < 2 ^ 64), Nat.shiftRight_eq_div_pow,
    BitVec.toNat_ofNat]
  omega

theorem rem32_eq_ofInt {a b : Word} (h : b ≠ 0) : rem32 a b = BitVec.ofInt 32 (a.toInt.tmod b.toInt) := by
  rw [rem32, if_neg h, Int.tmod_def]

theorem div32_overflow : div32 0x80000000 0xFFFFFFFF = 0x80000000 := by decide

theorem rem32_overflow : rem32 0x80000000 0xFFFFFFFF = 0 := by decide

theorem boolWord_slt (a b : Word) : boolWord (a.slt b) = if a.toInt < b.toInt then 1 else 0 := by
  simp [boolWord, BitVec.slt]

theorem boolWord_ult (a b : Word) : boolWord (a.ult b) = if a.toNat < b.toNat then 1 else 0 := by
  simp [boolWord, BitVec.ult]

theorem boolWord_decide (p : Prop) [Decidable p] : boolWord (decide p) = if p then 1 else 0 := by
  simp [boolWord]

theorem smin_eq_ofInt (a b : Word) : (if a.slt b then a else b) = BitVec.ofInt 32 (min a.toInt b.toInt) := by
  by_cases h : a.toInt < b.toInt
  · simp [BitVec.slt, h, Int.min_eq_left h.le]
  · simp [BitVec.slt, h, Int.min_eq_right (not_lt.1 h)]

theorem smax_eq_ofInt (a b : Word) : (if a.slt b then b else a) = BitVec.ofInt 32 (max a.toInt b.toInt) := by
  by_cases h : a.toInt < b.toInt
  · simp [BitVec.slt, h, Int.max_eq_right h.le]
  · simp [BitVec.slt, h, Int.max_eq_left (not_lt.1 h)]

theorem umin_eq_ofNat (a b : Word) : (if a.ult b then a else b) = BitVec.ofNat 32 (min a.toNat b.toNat) := by
  by_cases h : a.toNat < b.toNat
  · simp [BitVec.ult, h, Nat.min_eq_left h.le]
  · simp [BitVec.ult, h, Nat.min_eq_right (not_lt.1 h)]

theorem umax_eq_ofNat (a b : Word) : (if a.ult b then b else a) = BitVec.ofNat 32 (max a.toNat b.toNat) := by
  by_cases h : a.toNat < b.toNat
  · simp [BitVec.ult, h, Nat.max_eq_right h.le]
  · simp [BitVec.ult, h, Nat.max_eq_left (not_lt.1 h)]

/-! ## Groups -/

theorem unary_yields {f : Word → Word} {w : Word} (h : Ready .all false s) (hi : exec i s = unary d x f s) (hw : f (s.cur.getG x) = w) :
    Yields i s (s.cur.setG d w) := by
  subst hw
  exact plain_yields h hi

theorem binary_yields {f : Word → Word → Word} {w : Word} (h : Ready .all false s) (hi : exec i s = binary d x y f s)
    (hw : f (s.cur.getG x) (s.cur.getG y) = w) : Yields i s (s.cur.setG d w) := by
  subst hw
  exact plain_yields h hi

theorem update_yields {f : Word → Word} {w : Word} (h : Ready .all false s) (hi : exec i s = update d f s) (hw : f (s.cur.getG d) = w) :
    Yields i s (s.cur.setG d w) := unary_yields h hi hw

/-- Settles O10: each instruction is a function of one or two registers, whose value is one of the equations above. -/
theorem integerOperations : Obligations.IntegerOperations := by
  refine ⟨?_, ?_, ?_, ?_⟩
  · intro s d x h v
    obtain ⟨lead, hlead, hhigh, hset, hclz⟩ := clz32_spec v
    obtain ⟨trail, htrail, hlow, hset', hctz⟩ := ctz32_spec v
    refine ⟨?_, ?_, ?_, ?_, ⟨lead, hlead, hhigh, hset, ?_⟩, ⟨trail, htrail, hlow, hset', ?_⟩, ?_,
      ⟨brev32 v, fun j hj => getLsbD_ofBits _ hj, ?_⟩, ?_, ?_, ?_, ?_⟩
    · exact unary_yields h (rfl : _ = execMov d x s) rfl
    · exact unary_yields h (rfl : _ = execNot d x s) (BitVec.xor_allOnes (x := v)).symm
    · exact unary_yields h (rfl : _ = execNeg d x s) (BitVec.zero_sub v).symm
    · exact unary_yields h (rfl : _ = execAbs d x s) (abs_eq v)
    · exact unary_yields h (rfl : _ = execClz d x s) hclz
    · exact unary_yields h (rfl : _ = execCtz d x s) hctz
    · exact unary_yields h (rfl : _ = execPopc d x s) (congrArg (BitVec.ofNat 32) List.countP_eq_length_filter)
    · exact unary_yields h (rfl : _ = execBrev d x s) rfl
    · exact unary_yields h (rfl : _ = execSexb d x s) rfl
    · exact unary_yields h (rfl : _ = execSexh d x s) rfl
    · exact unary_yields h (rfl : _ = execZexb d x s) (by rw [← BitVec.ofNat_toNat, BitVec.toNat_setWidth])
    · exact unary_yields h (rfl : _ = execZexh d x s) (by rw [← BitVec.ofNat_toNat, BitVec.toNat_setWidth])
  · intro s d x y h a b n gives
    have hn : n < 32 := Nat.mod_lt _ (by decide)
    refine ⟨?_, ?_, ?_, ?_, ?_, ?_, ?_, ?_, ?_, ?_, ?_, ?_, ?_, ?_, ?_, ?_, ?_, ?_, ?_, ?_⟩
    · exact binary_yields h (rfl : _ = execAdd d x y s) (add_eq_ofNat a b)
    · exact binary_yields h (rfl : _ = execSub d x y s) (sub_eq_ofInt a b)
    · exact binary_yields h (rfl : _ = execAnd d x y s) rfl
    · exact binary_yields h (rfl : _ = execOr d x y s) rfl
    · exact binary_yields h (rfl : _ = execXor d x y s) rfl
    · exact binary_yields h (rfl : _ = execSll d x y s) (shiftLeft_eq_ofNat a n)
    · exact binary_yields h (rfl : _ = execSrl d x y s) (ushiftRight_eq_ofNat a n)
    · exact binary_yields h (rfl : _ = execSra d x y s) (sshiftRight_eq_ofInt a n)
    · exact binary_yields h (rfl : _ = execRor d x y s) (rotateRight_eq_ofNat a hn)
    · exact binary_yields h (rfl : _ = execMul d x y s) (mul_eq_ofInt a b)
    · exact binary_yields h (rfl : _ = execMulh d x y s) (mulh_eq_ofInt a b)
    · exact binary_yields h (rfl : _ = execMulhu d x y s) (mulhu_eq_ofNat a b)
    · exact binary_yields h (rfl : _ = execSlt d x y s) (boolWord_slt a b)
    · exact binary_yields h (rfl : _ = execSltu d x y s) (boolWord_ult a b)
    · exact binary_yields h (rfl : _ = execSeq d x y s) (boolWord_decide _)
    · exact binary_yields h (rfl : _ = execSne d x y s) ((boolWord_decide _).trans (ite_not _ _ _))
    · exact binary_yields h (rfl : _ = execMin d x y s) (smin_eq_ofInt a b)
    · exact binary_yields h (rfl : _ = execMax d x y s) (smax_eq_ofInt a b)
    · exact binary_yields h (rfl : _ = execMinu d x y s) (umin_eq_ofNat a b)
    · exact binary_yields h (rfl : _ = execMaxu d x y s) (umax_eq_ofNat a b)
  · intro s d x y h a b gives
    have hdiv {w : Word} := binary_yields (i := .div d x y) (w := w) h (rfl : _ = execDiv d x y s)
    have hrem {w : Word} := binary_yields (i := .rem d x y) (w := w) h (rfl : _ = execRem d x y s)
    have hdivu {w : Word} := binary_yields (i := .divu d x y) (w := w) h (rfl : _ = execDivu d x y s)
    have hremu {w : Word} := binary_yields (i := .remu d x y) (w := w) h (rfl : _ = execRemu d x y s)
    refine ⟨fun hb => ⟨?_, ?_, ?_, ?_⟩, fun hb => ⟨?_, ?_, ?_, ?_⟩, fun ha hb => ⟨?_, ?_⟩⟩
    · exact hdiv (if_pos hb)
    · exact hdivu (if_pos hb)
    · exact hrem (if_pos hb)
    · exact hremu (if_pos hb)
    · exact hdiv (if_neg hb)
    · exact hrem (rem32_eq_ofInt hb)
    · exact hdivu (if_neg hb)
    · exact hremu (if_neg hb)
    · exact hdiv ((congrArg₂ div32 ha hb).trans div32_overflow)
    · exact hrem ((congrArg₂ rem32 ha hb).trans rem32_overflow)
  · intro s d imm n h a k gives
    refine ⟨?_, ?_, ?_, ?_, ?_, ?_, ?_, ?_, ?_⟩
    · exact update_yields h (rfl : _ = execAddi d imm s) rfl
    · exact (plain_yields (i := .li d imm) h (rfl : _ = execLi d imm s) :)
    · exact update_yields h (rfl : _ = execAndi d imm s) rfl
    · exact update_yields h (rfl : _ = execOri d imm s) rfl
    · exact update_yields h (rfl : _ = execXori d imm s) rfl
    · exact update_yields h (rfl : _ = execSlli d n s) (shiftLeft_eq_ofNat a n.toNat)
    · exact update_yields h (rfl : _ = execSrli d n s) (ushiftRight_eq_ofNat a n.toNat)
    · exact update_yields h (rfl : _ = execSrai d n s) (sshiftRight_eq_ofInt a n.toNat)
    · exact update_yields h (rfl : _ = execRori d n s) (rotateRight_eq_ofNat a n.isLt)

end Sys2Proof.Machine
end

section
/-! # Pointer registers (R89, R106 to R111) -/

namespace Sys2Proof.Machine

variable {s : State} {i : Instr} {d x : AReg}

/-! ## Halves, sums and differences (R89, R106) -/

theorem loWord_eq (a : DWord) : a.setWidth 32 = BitVec.ofNat 32 (a.toNat % 2 ^ 32) :=
  BitVec.eq_of_toNat_eq (by simp)

theorem hiWord_eq (a : DWord) : (a >>> 32).setWidth 32 = BitVec.ofNat 32 (a.toNat / 2 ^ 32) :=
  BitVec.eq_of_toNat_eq (by simp [Nat.shiftRight_eq_div_pow])

theorem append_eq_ofNat (a b : Word) : (a ++ b : DWord) = BitVec.ofNat 64 (a.toNat * 2 ^ 32 + b.toNat) := by
  refine BitVec.eq_of_toNat_eq ?_
  have ha := a.isLt
  have hb := b.isLt
  rw [BitVec.toNat_append, BitVec.toNat_ofNat, Nat.shiftLeft_eq, Nat.mul_comm, ← Nat.two_pow_add_eq_or_of_lt hb, Nat.mod_eq_of_lt (by omega)]

theorem setHi_eq (a : DWord) (g : Word) : (g ++ a.extractLsb' 0 32 : DWord) = BitVec.ofNat 64 (g.toNat * 2 ^ 32 + a.toNat % 2 ^ 32) := by
  rw [append_eq_ofNat, BitVec.extractLsb'_toNat, Nat.shiftRight_zero]

theorem setLo_eq (a : DWord) (g : Word) :
    (a.extractLsb' 32 32 ++ g : DWord) = BitVec.ofNat 64 (a.toNat / 2 ^ 32 * 2 ^ 32 + g.toNat) := by
  have ha := a.isLt
  rw [append_eq_ofNat, BitVec.extractLsb'_toNat, Nat.shiftRight_eq_div_pow, Nat.mod_eq_of_lt (by omega)]

theorem clamp32_eq (v : DWord) : clamp32 v = BitVec.ofInt 32 (max (-(2 ^ 31)) (min (2 ^ 31 - 1) v.toInt)) := by
  refine congrArg (BitVec.ofInt 32) ?_
  unfold clampInt
  split
  · omega
  · split <;> omega

/-- The window of a pointer is in its upper ten bits (R109). -/
theorem window_ne_iff (t a : DWord) : t >>> 54 ≠ a >>> 54 ↔ t.toNat / 2 ^ 54 ≠ a.toNat / 2 ^ 54 := by
  rw [ne_eq, ← BitVec.toNat_inj, BitVec.toNat_ushiftRight, BitVec.toNat_ushiftRight, Nat.shiftRight_eq_div_pow, Nat.shiftRight_eq_div_pow]

/-- The checks of AADDS (R106). -/
theorem aadds_checks (t a : DWord) :
    (spaceOf t = none ∨ t >>> 54 ≠ a >>> 54) ↔ ¬((spaceOf t).isSome = true ∧ t.toNat / 2 ^ 54 = a.toNat / 2 ^ 54) := by
  rw [window_ne_iff, not_and_or, Option.not_isSome_iff_eq_none]

/-- Settles O11: AADDS alone looks at its result; the others are functions of registers. -/
theorem pointerArithmetic : Obligations.PointerArithmetic := by
  refine ⟨?_, ?_⟩
  · intro s d x y e z imm h a g
    refine ⟨?_, ?_, ?_, ?_, ?_, ?_, ?_, ?_, ?_, ?_⟩
    · rw [← loWord_eq]
      exact (plain_yields (i := .glo e x) h (rfl : execGlo e x s = _) :)
    · rw [← hiWord_eq]
      exact (plain_yields (i := .ghi e x) h (rfl : execGhi e x s = _) :)
    · rw [← setLo_eq]
      exact (plain_yields (i := .alo d z) h (rfl : execAlo d z s = _) :)
    · rw [← setHi_eq]
      exact (plain_yields (i := .ahi d z) h (rfl : execAhi d z s = _) :)
    · exact (plain_yields (i := .aadd d x z) h (rfl : execAadd d x z s = _) :)
    · exact (plain_yields (i := .aaddi d imm) h (rfl : execAaddi d imm s = _) :)
    · rw [← clamp32_eq]
      exact (plain_yields (i := .asub e x y) h (rfl : execAsub e x y s = _) :)
    · have hc := plain_yields (i := .aeq e x y) h (rfl : execAeq e x y s = _)
      simp only [boolWord, decide_eq_true_eq] at hc
      exact hc
    · exact (plain_yields (i := .amov d x) h (rfl : execAmov d x s = _) :)
    · exact (plain_yields (i := .azero d) h (rfl : execAzero d s = _) :)
  · intro s d x y h a t
    refine ⟨fun hp => ?_, fun hp hu => ?_⟩
    · exact completes_of_modCur (i := .aadds d x y) (f := fun c => c.setA d t) h (rfl : execAadds d x y s = _)
        (if_neg (mt (aadds_checks t a).1 (not_not.2 hp)))
    · exact takesTrap_of_body (i := .aadds d x y) (rfl : execAadds d x y s = _) h hu (if_pos ((aadds_checks t a).2 hp))

/-! ## Casts and made pointers (R108 to R111) -/

theorem cast_yields {f : State → Space → Option DWord} {p : DWord} (h : Ready .all false s) (hi : exec i s = cast d x f s)
    (hp : ((spaceOf (s.cur.getA x)).bind (f s)).getD invPtr = p) : Yields i s (s.cur.setA d p) := by
  subst hp
  exact plain_yields h hi

theorem makePtr_yields {z : GReg} {base p : DWord} {bound : Nat} (h : Ready .all false s) (hi : exec i s = makePtr d z base bound s)
    (hp : (s.cur.getG z).toNat < bound → base ||| (s.cur.getG z).setWidth 64 = p) :
    Yields i s (s.cur.setA d (if (s.cur.getG z).toNat < bound then p else invPtr)) := by
  rw [← ite_congr rfl hp fun _ => rfl]
  exact plain_yields h hi

/-- An offset below a window's base does not touch it. -/
theorem window_or_offset {base : DWord} {k m n : Nat} {w : Word} (hb : base = BitVec.ofNat 64 n) (hn : n = 2 ^ k * m)
    (h : w.toNat < 2 ^ k) : base ||| w.setWidth 64 = BitVec.ofNat 64 (n + w.toNat) := by
  rw [hb, hn, Nat.two_pow_add_eq_or_of_lt h, BitVec.ofNat_or, BitVec.ofNat_toNat]

theorem scratchPtr_zero (r : Nat) : scratchPtr r 0 = BitVec.ofNat 64 (0x3FD * 2 ^ 54 + r * 2 ^ 36) := by
  rw [scratchPtr, Nat.add_zero]

theorem spaceCode_word (p : DWord) : BitVec.ofNat 32 (spaceCode p) = match spaceOf p with
    | some (.global _) => 0 | some (.buffer _ _) => 1 | some (.cluster _) => 2 | some (.scratch _ _) => 3
    | some (.lane _) => 4 | none => 7 := by
  unfold spaceCode
  obtain _ | sp := spaceOf p
  · rfl
  · cases sp <;> rfl

/-- The backing of a buffer byte that the pitch declares (R110). -/
theorem State.bufferVa_declared {p : Pitch} {hd : Handle} {b off : Nat} (hp : s.pitchHere = some p) (hh : p.handles[b]? = some hd) :
    s.bufferVa b off =
      if off < hd.buffer.size then some ((if hd.cur then hd.buffer.va1 else hd.buffer.va0) + off) else none := by
  simp [State.bufferVa, hp, hh, Handle.va]

theorem State.bufferVa_undeclared {b off : Nat} (h : s.pitchHere = none ∨ ∃ p, s.pitchHere = some p ∧ p.handles[b]? = none) :
    s.bufferVa b off = none := by
  obtain h | ⟨p, hp, hh⟩ := h
  · simp [State.bufferVa, h]
  · simp [State.bufferVa, hp, hh]

/-- Settles O12: a cast gives what it keeps of the decoded pointer, and the invalid pointer otherwise. -/
theorem pointerWindows : Obligations.PointerWindows := by
  intro s d x e z h a n gives inv
  have hspcg {p} := cast_yields (i := .spcg d x) (p := p) h (rfl : execSpcg d x s = _)
  refine ⟨?_, ?_, ?_, ?_, ?_, ?_, ?_, ?_, ?_, ?_, ?_, ?_, ?_, ?_⟩
  · have hc := plain_yields (i := .spt e x) h (rfl : execSpt e x s = _)
    rw [spaceCode_word] at hc
    exact hc
  · intro va ha
    exact hspcg (by rw [ha]; rfl)
  · intro b off ha
    refine ⟨fun p hd hp hh => hspcg ?_, fun hn => hspcg ?_⟩
    · rw [ha]
      simp only [Option.bind_some, State.bufferVa_declared hp hh]
      split <;> rfl
    · rw [ha]
      simp only [Option.bind_some, State.bufferVa_undeclared hn]
      rfl
  · intro off ha
    exact hspcg (by rw [ha]; rfl)
  · intro o off ha
    exact hspcg (by rw [ha]; rfl)
  · intro off ha
    exact hspcg (by rw [ha]; rfl)
  · intro ha
    exact hspcg (by rw [ha]; rfl)
  · refine cast_yields h (rfl : _ = execSpcb d x s) ?_
    obtain _ | sp := spaceOf (s.cur.getA x)
    · rfl
    · cases sp <;> rfl
  · refine cast_yields h (rfl : _ = execSpcc d x s) ?_
    obtain _ | sp := spaceOf (s.cur.getA x)
    · rfl
    · cases sp <;> rfl
  · refine cast_yields h (rfl : _ = execSpcs d x s) ?_
    obtain _ | sp := spaceOf (s.cur.getA x)
    · rfl
    · cases sp
      case scratch => dsimp only [Option.bind_some]; split <;> rfl
      all_goals rfl
  · refine cast_yields h (rfl : _ = execSpcl d x s) ?_
    obtain _ | sp := spaceOf (s.cur.getA x)
    · rfl
    · cases sp
      case lane => dsimp only [Option.bind_some]; split <;> rfl
      all_goals rfl
  · exact makePtr_yields h (rfl : _ = execMks d z s) fun _ => by rw [scratchPtr_zero, BitVec.ofNat_toNat]
  · exact makePtr_yields h (rfl : _ = execMkc d z s) (window_or_offset (m := 0x3FC * 2 ^ 32) (by decide) (by decide))
  · exact makePtr_yields h (rfl : _ = execMkl d z s) (window_or_offset (m := 0x3FE * 2 ^ 39) (by decide) (by decide))

end Sys2Proof.Machine
end

section
/-! # Transfers through registers (R97) -/

namespace Sys2Proof.Machine

variable {s u : State} {i : Instr} {t : Word}

theorem registerTarget_even (h : t.toNat % 2 = 0) (h' : t.toNat ≤ 0xFFFE) : registerTarget t u = .ok (.jump u (t.setWidth 16)) := by
  refine if_neg ?_
  simp only [BitVec.getLsbD, Nat.testBit_zero, decide_eq_true_eq]
  omega

theorem registerTarget_faults (h : t.toNat % 2 = 1 ∨ 0xFFFE < t.toNat) :
    registerTarget t u = .error (.trap 0x03 0 (t.setWidth 64)) := by
  refine if_pos ?_
  simpa only [BitVec.getLsbD, Nat.testBit_zero, decide_eq_true_eq] using h

/-- A group that goes to a register's value with the effect `u`. -/
theorem transfer_acts {body : Body} (h : Ready .all false s) (hi : exec i s = runGroup .all false body s)
    (hb : body s = registerTarget t u) (hf : u.focus = s.focus) :
    (t.toNat % 2 = 0 → t.toNat ≤ 0xFFFE → ∃ q, exec i s = .next q ∧ JumpsTo s u q (t.setWidth 16)) ∧
    (t.toNat % 2 = 1 ∨ 0xFFFE < t.toNat → s.cur.sup = false → TakesTrap i s 0x03 0 (t.setWidth 64)) := by
  refine ⟨fun h0 hle => ?_, fun hd hu => takesTrap_of_body hi h hu (hb.trans (registerTarget_faults hd))⟩
  rw [hi]
  exact runGroup_jumps h (hb.trans (registerTarget_even h0 hle)) hf

theorem State.modCtx_modCtx (s : State) (r : Nat) (j : CtxId) (f g : Ctx → Ctx) :
    (s.modCtx r j f).modCtx r j g = s.modCtx r j fun c => g (f c) := by
  unfold State.modCtx
  rw [State.modTile_modTile]
  simp only [Tile.ctx_setCtx, Tile.setCtx_setCtx]

/-- A group that leaves its context as it is. -/
theorem completes_of_same {f : Ctx → Ctx} (h : Ready .all false s) (hi : exec i s = plain f s) (hf : f s.cur = s.cur) :
    Completes i s s := by
  obtain ⟨q, hq, hc⟩ := plain_yields h hi
  refine ⟨q, hq, ?_⟩
  rw [Commits, State.setCur, State.modCur, State.modCtx_modCtx, hf] at hc
  exact hc

/-- Settles O14: the three jumps are one transfer, and NOP changes its context by the identity. -/
theorem registerTransfers : Obligations.RegisterTransfers := by
  intro s d x h next linked acts
  refine ⟨?_, ?_, ?_, ?_⟩
  · exact transfer_acts (i := .jr x) h (rfl : execJr x s = _) rfl rfl
  · refine transfer_acts (i := .jalr d x) h (rfl : execJalr d x s = _) ?_ rfl
    exact congrArg (registerTarget (s.cur.getG x)) (State.modCur_eq_setCur s fun c => c.setG d s.link)
  · exact transfer_acts (i := .ret) h (rfl : execRet s = _) rfl rfl
  · exact completes_of_same h (rfl : _ = execNop s) rfl

end Sys2Proof.Machine
end

section
/-! # The checks of an access (R104, R109) -/

namespace Sys2Proof.Machine

variable {s : State} {r n : Nat} {isC : Bool} {u : Purpose} {ea : DWord} {sp : Space}

theorem checkAccess_noncanonical (h : spaceOf ea = none) : s.checkAccess r isC u ea n = .error 0x05 := by
  simp only [State.checkAccess, h]

theorem checkAccess_misaligned (h : spaceOf ea ≠ none) (hn : ea.toNat % n ≠ 0) : s.checkAccess r isC u ea n = .error 0x04 := by
  obtain ⟨sp, h⟩ := Option.ne_none_iff_exists'.1 h
  simp only [State.checkAccess, h, if_pos hn]

theorem checkAccess_refused (h : spaceOf ea = some sp) (hn : ea.toNat % n = 0) (hr : u.refuses isC sp = true) :
    s.checkAccess r isC u ea n = .error 0x06 := by
  simp only [State.checkAccess, h, hn, hr, ne_eq, not_true_eq_false, if_false, if_true]

theorem checkAccess_scratch {o off : Nat} (h : spaceOf ea = some (.scratch o off)) (hn : ea.toNat % n = 0) :
    s.checkAccess r isC u ea n = if o = r then s.spaceTarget r u n (.scratch o off) else .error 0x07 := by
  simp [State.checkAccess, h, hn, Purpose.refuses]

theorem checkAccess_lane {j : Nat} (h : spaceOf ea = some (.lane j)) (hn : ea.toNat % n = 0) (hr : u.refuses isC (.lane j) = false) :
    s.checkAccess r isC u ea n = s.spaceTarget r u n (.lane j) := by
  simp [State.checkAccess, h, hn, hr]

theorem checkAccess_global {va : Nat} (h : spaceOf ea = some (.global va)) (hn : ea.toNat % n = 0)
    (hr : u.refuses isC (.global va) = false) : s.checkAccess r isC u ea n = s.spaceTarget r u n (.global va) := by
  simp [State.checkAccess, h, hn, hr]

theorem checkAccess_buffer_write {b off : Nat} (h : spaceOf ea = some (.buffer b off)) (hn : ea.toNat % n = 0)
    (hu : u = .store ∨ u = .atomic) : s.checkAccess r isC u ea n = .error 0x0A := by
  obtain rfl | rfl := hu <;> simp [State.checkAccess, h, hn, Purpose.refuses]

theorem refuses_global (hu : u = .load ∨ u = .store ∨ u = .atomic) (va : Nat) : u.refuses isC (.global va) = false := by
  obtain rfl | rfl | rfl := hu <;> rfl

/-- Settles O22: each check is one branch of `State.checkAccess` or of `State.spaceTarget`. -/
theorem accessChecks : Obligations.AccessChecks := by
  intro s r isC u ea n hu c
  refine ⟨checkAccess_noncanonical, checkAccess_misaligned, ?_, ?_, ?_, ?_, ?_, ?_⟩
  · intro j h hn hr
    refine checkAccess_refused h hn ?_
    obtain rfl | rfl := hr
    · rfl
    · obtain rfl | rfl | rfl := hu <;> rfl
  · intro j h hn ha hc
    have hr : u.refuses isC (.lane j) = false := by
      obtain rfl | rfl | rfl := hu
      · rw [hc]; rfl
      · rw [hc]; rfl
      · contradiction
    exact ⟨_, checkAccess_lane h hn hr, rfl, rfl⟩
  · intro o off h hn ho
    exact (checkAccess_scratch h hn).trans (if_neg ho)
  · intro off h hn
    have hc : c = s.spaceTarget r u n (.scratch r off) := (checkAccess_scratch h hn).trans (if_pos rfl)
    refine ⟨fun hs => hc.trans (if_neg (Nat.not_le.2 hs)), fun hs => ⟨_, hc.trans (if_pos hs), rfl, rfl⟩⟩
  · intro b off h hn hl
    exact checkAccess_buffer_write h hn (hu.resolve_left hl)
  · intro va h hn hp
    refine (checkAccess_global h hn (refuses_global hu va)).trans ?_
    simp [State.spaceTarget, State.globalTarget, hp]

end Sys2Proof.Machine
end

section
/-! # The end of a firing (R98, R99, R126) -/

namespace Sys2Proof.Machine

variable {s t u : State} {k : CoreId} {run : Run}

/-! ## What passes after a group has set its context's state -/

theorem Leaves.cur (h : Leaves s u t) (hf : u.focus = s.focus) : t.cur = { u.cur with
    waiting := false, replays := 0, hstep := 0, hreplays := 0, dueHeld := false, wd := t.cur.wd } := by
  have hc := AfterCycles.ctx h
  rw [← hf] at hc
  rw [show (u.modCtx u.focus.rank u.focus.ctx _).cur = _ from u.cur_modCur _] at hc
  exact hc

theorem Leaves.here (h : Leaves s u t) (hf : u.focus = s.focus) :
    t.here = { u.here.setCtx u.focus.ctx t.cur with cyc := t.here.cyc } := by
  have hh := AfterCycles.tile h
  rw [← hf] at hh
  rw [show (u.modCtx u.focus.rank u.focus.ctx _).here = _ from u.here_modCur _] at hh
  rw [hh]
  exact congrArg (fun x : Tile => ({ x with cyc := t.here.cyc } : Tile)) (Tile.setCtx_setCtx _ _ _ _)

theorem Leaves.mem (h : Leaves s u t) : t.mem = u.mem := by rw [AfterCycles.rest h]; rfl

theorem Leaves.copy (h : Leaves s u t) (hf : u.focus = s.focus) : t.here.copy = u.here.copy := by
  rw [h.here hf]
  exact Tile.setCtx_copy _ _ _

theorem Leaves.matrix (h : Leaves s u t) (hf : u.focus = s.focus) : t.here.matrix = u.here.matrix := by
  rw [h.here hf]
  exact Tile.setCtx_matrix _ _ _

theorem Leaves.current (h : Leaves s u t) (hf : u.focus = s.focus) : t.here.current = u.here.current := by
  rw [h.here hf]
  exact Tile.setCtx_current _ _ _

theorem Tile.core_setCtx (t : Tile) (i : CtxId) (c : Ctx) : (t.setCtx i c).core k = t.core k := by
  cases k <;> cases i <;> rfl

theorem Leaves.core (h : Leaves s u t) (hf : u.focus = s.focus) : t.here.core k = u.here.core k := by
  rw [h.here hf]
  exact Eq.trans (by cases k <;> rfl) (u.here.core_setCtx u.focus.ctx t.cur)

/-! ## The core's slots and its context -/

@[simp] theorem Tile.core_setCore (t : Tile) (c : Core) : (t.setCore k c).core k = c := by cases k <;> rfl

theorem Tile.ctx_setCore (t : Tile) (i : CtxId) (c : Core) : (t.setCore k c).ctx i = t.ctx i := by
  cases k <;> cases i <;> rfl

theorem Tile.ctx_settle (t : Tile) (i : CtxId) (now : Nat) : (t.settle k now).ctx i = t.ctx i := t.ctx_setCore i _

theorem Tile.ctx_endFiring (t : Tile) : (t.endFiring k run).ctx k.ctx = { t.ctx k.ctx with run := run, loops := [] } :=
  Tile.ctx_setCtx _ _ _

/-- The state that the end of a firing leaves a slot in. -/
def SlotState.ended (run : Run) (st : SlotState) : SlotState :=
  match run, st with
  | .halted, _ => .idle
  | _, .running => .idle
  | _, st => st

theorem Tile.core_endFiring (t : Tile) :
    (t.endFiring k run).core k = { t.core k with states := (t.core k).states.map (SlotState.ended run) } := by
  unfold Tile.endFiring
  rw [Tile.core_setCtx, Tile.core_setCore]
  rfl

theorem Tile.states_settle (t : Tile) {now j : Nat} (h : (t.ctx k.ctx).run ≠ .halted) :
    ((t.settle k now).core k).states[j]? = (t.core k).states[j]?.map ((t.core k).settle false now j) := by
  unfold Tile.settle
  rw [Tile.core_setCore, Vector.getElem?_mapIdx]
  split
  · contradiction
  · rfl

/-- The state of a slot whose conditions hold (R126): ready since it was, or else from `now` on. -/
def SlotState.readyBy (now : Nat) : SlotState → SlotState
  | .ready since pass => .ready since pass
  | _ => .ready now 0

/-- The slots of a core after its firing has ended and they have been examined again. -/
theorem Tile.states_ended (t : Tile) {now j : Nat} {st : SlotState} {sl : Slot} (hst : (t.core k).states[j]? = some st)
    (hsl : (t.core k).slots[j]? = some sl) : (((t.endFiring k .dispatch).settle k now).core k).states[j]? = some (
      if j ≠ 0 ∧ (t.core k).conditions false sl = true then st.readyBy now else .idle) := by
  rw [Tile.states_settle _ (by rw [Tile.ctx_endFiring]; exact Run.noConfusion), Tile.core_endFiring]
  have hc : ({ t.core k with states := (t.core k).states.map (SlotState.ended .dispatch) } : Core).conditions false sl =
    (t.core k).conditions false sl := rfl
  simp only [Vector.getElem?_map, hst, Option.map_some, Core.settle, hsl, hc]
  cases st <;> simp [SlotState.ended, SlotState.readyBy]

theorem Tile.states_halted (t : Tile) {j : Nat} (hj : j < 32) : ((t.endFiring k .halted).core k).states[j]? = some .idle := by
  rw [Tile.core_endFiring]
  simp [hj, SlotState.ended]

theorem Tile.queues_endFiring (t : Tile) : (t.endFiring k run).copy = t.copy ∧ (t.endFiring k run).matrix = t.matrix := by
  cases k <;> exact ⟨rfl, rfl⟩

theorem Tile.queues_settle (t : Tile) (now : Nat) : (t.settle k now).copy = t.copy ∧ (t.settle k now).matrix = t.matrix := by
  cases k <;> exact ⟨rfl, rfl⟩

/-! ## HEND and HALT of a core -/

theorem CoreId.ctx_ne_m (k : CoreId) : k.ctx ≠ .m := by cases k <;> decide

/-- The state after a core's firing has ended and its slots have been examined again. -/
def State.fired (s : State) (k : CoreId) : State := (s.modHere fun t => t.endFiring k .dispatch).settle s.focus.rank k

theorem State.here_fired (s : State) (k : CoreId) : (s.fired k).here = (s.here.endFiring k .dispatch).settle k s.free :=
  (State.tile_modTile _ _ _).trans (congrArg (Tile.settle · k s.free) (s.here_modHere _))

theorem State.cur_fired (hk : s.focus.ctx = k.ctx) : (s.fired k).cur = { s.cur with run := .dispatch, loops := [] } := by
  rw [State.cur, State.here_fired, show (s.fired k).focus.ctx = k.ctx from hk, Tile.ctx_settle, Tile.ctx_endFiring, ← hk]
  rfl

theorem hend_fires (h : Ready .all false s) (hk : s.focus.ctx = k.ctx) (hu : s.cur.sup = false) :
    ∃ t, exec .hend s = .next t ∧ Leaves s (s.fired k) t := by
  have hi : exec .hend s = execHend s := rfl
  rw [hi]
  refine runGroup_leaves h ?_ rfl
  simp only [hu, hk]
  cases k <;> rfl

/-- The command queue that HALT waits for (R99). -/
def Tile.engineIdle (t : Tile) : CoreId → Prop
  | .s => t.copy.queue = []
  | .c => t.matrix.queue = []

/-- The state after a core has halted. -/
def State.haltedAt (s : State) (k : CoreId) : State := s.modHere fun t => t.endFiring k .halted

theorem State.cur_haltedAt (hk : s.focus.ctx = k.ctx) : (s.haltedAt k).cur = { s.cur with run := .halted, loops := [] } := by
  rw [State.cur, State.haltedAt, State.here_modHere, show (s.modHere _).focus.ctx = k.ctx from hk, Tile.ctx_endFiring, ← hk]
  rfl

theorem halt_halts (h : Ready .all false s) (hk : s.focus.ctx = k.ctx) (hu : s.cur.sup = false) (hq : s.here.engineIdle k) :
    ∃ t, exec .halt s = .next t ∧ Leaves s (s.haltedAt k) t := by
  have hi : exec .halt s = execHalt s := rfl
  rw [hi]
  refine runGroup_leaves h ?_ rfl
  simp only [hu, hk]
  cases k <;> exact if_pos (List.isEmpty_iff.2 hq)

/-- Cycles that the watchdog does not count leave the context as it is. -/
theorem State.cur_elapse_unwatched (s : State) : (s.elapse s.focus.rank s.focus.ctx false).cur = s.cur := by
  rw [State.cur, State.here, State.elapse_focus, State.elapse, State.tile_modTile]
  exact (Tile.ctx_with_cyc _ _ _).trans (Tile.ctx_setCtx _ _ _)

/-- A ready group whose body waits with nothing done, in cycles that the watchdog does not count. -/
theorem runGroup_idles {tie : Tie} {priv : Bool} {body : Body} (h : Ready tie priv s) (hb : body s = .error (.idle s)) :
    ∃ t, runGroup tie priv body s = .next t ∧ Waits s t ∧ t.cur.wd = s.cur.wd := by
  refine ⟨s.leaveGroup (.idle s), by rw [runGroup_ready h, hb], afterCycles_elapse _ false, ?_⟩
  refine (congrArg Ctx.wd (State.cur_elapse_unwatched (s.modCur fun c => { c with waiting := true }))).trans ?_
  rw [State.cur_modCur]

theorem halt_waits (h : Ready .all false s) (hk : s.focus.ctx = k.ctx) (hu : s.cur.sup = false) (hq : ¬s.here.engineIdle k) :
    ∃ t, exec .halt s = .next t ∧ Waits s t ∧ t.cur.wd = s.cur.wd := by
  have hi : exec .halt s = execHalt s := rfl
  rw [hi]
  refine runGroup_idles h ?_
  simp only [hu, hk]
  cases k <;> exact if_neg (mt List.isEmpty_iff.1 hq)

/-! ## The message thread (R98, R350) -/

@[simp] theorem State.answerMsg_focus (s : State) (m : UserMsg) (w : Word) (p : Time) : (s.answerMsg m w p).focus = s.focus := by
  unfold State.answerMsg
  split
  · split <;> rfl
  · exact s.sendPacket_focus _ _

/-- The end of a message leaves the thread in dispatch, with no message. -/
theorem State.endMessage_ends (hm : s.focus.ctx = .m) (w : Word) :
    let u := s.endMessage s.focus.rank w
    u.focus = s.focus ∧ u.cur.run = .dispatch ∧ u.cur.loops = [] ∧ u.here.current = none := by
  have hend {v : State} (f : Tile → Tile) (hf : v.focus = s.focus) (hg : ∀ t, (f t).m.run = .dispatch ∧ (f t).m.loops = [])
      (hc : (f (v.tile s.focus.rank)).current = none) :
      let u := v.modTile s.focus.rank f
      u.focus = s.focus ∧ u.cur.run = .dispatch ∧ u.cur.loops = [] ∧ u.here.current = none := by
    have hh : (v.modTile s.focus.rank f).here = f (v.tile s.focus.rank) := by
      rw [State.here, State.modTile_focus, hf, State.tile_modTile]
    have hcur : (v.modTile s.focus.rank f).cur = (f (v.tile s.focus.rank)).m := by
      rw [State.cur, hh, State.modTile_focus, hf, hm]
      rfl
    exact ⟨hf, hcur ▸ (hg _).1, hcur ▸ (hg _).2, hh ▸ hc⟩
  unfold State.endMessage
  dsimp only
  split
  · next hc => exact hend _ rfl (fun _ => ⟨rfl, rfl⟩) hc
  · refine hend _ ?_ (fun _ => ⟨rfl, rfl⟩) rfl
    rw [State.countDone_focus]
    split
    · rfl
    · exact s.answerMsg_focus _ _ _

theorem hend_ends (h : Ready .all false s) (hm : s.focus.ctx = .m) (hu : s.cur.sup = false) (hs : s.cur.storing = []) :
    ∃ t, exec .hend s = .next t ∧ Leaves s (s.endMessage s.focus.rank 0) t := by
  have hi : exec .hend s = execHend s := rfl
  rw [hi]
  refine runGroup_leaves h ?_ (State.endMessage_ends hm 0).1
  simp only [hu, hm]
  exact if_pos (State.released_of_stored hs)

theorem hend_waits (h : Ready .all false s) (hm : s.focus.ctx = .m) (hu : s.cur.sup = false) (hs : s.cur.storing ≠ []) :
    ∃ t, exec .hend s = .next t ∧ Waits s t := by
  have hi : exec .hend s = execHend s := rfl
  rw [hi]
  refine runGroup_waits h ?_
  simp only [hu, hm]
  exact if_neg (mt List.isEmpty_iff.1 hs)

/-! ## The claim -/

theorem refuses_of_body {i : Instr} {body : Body} (h : Ready .all false s) (hi : exec i s = runGroup .all false body s)
    (hu : s.cur.sup = false) (hb : body s = .error s.refuse) : Refuses i s := takesTrap_of_body hi h hu hb

/-- Settles O16: a firing ends by `Tile.endFiring`, a message by `State.endMessage`. -/
theorem endOfFiring : Obligations.EndOfFiring := by
  intro s h
  refine ⟨?_, ?_, ?_⟩
  · intro k hk hu empty
    refine ⟨?_, fun hq => ?_, fun hq => halt_waits h hk hu (by cases k <;> exact hq)⟩
    · obtain ⟨t, ht, hl⟩ := hend_fires h hk hu
      have hf : (s.fired k).focus = s.focus := rfl
      obtain ⟨hcopy, hmat⟩ := (s.here.endFiring k .dispatch).queues_settle (k := k) s.free
      obtain ⟨hcopy', hmat'⟩ := s.here.queues_endFiring (k := k) (run := .dispatch)
      have hc := hl.cur hf
      rw [State.cur_fired hk] at hc
      refine ⟨t, ht, hl, ?_, ?_, ?_, ?_, ?_, ?_, hl.mem, ?_, ?_, fun j st sl hst hsl => ?_⟩
      iterate 6 rw [hc]
      · rw [hl.copy hf, State.here_fired, hcopy, hcopy']
      · rw [hl.matrix hf, State.here_fired, hmat, hmat']
      · rw [hl.core hf, State.here_fired]
        refine (Tile.states_ended _ hst hsl).trans ?_
        cases st <;> rfl
    · obtain ⟨t, ht, hl⟩ := halt_halts h hk hu (by cases k <;> exact hq)
      have hf : (s.haltedAt k).focus = s.focus := rfl
      have hc := hl.cur hf
      rw [State.cur_haltedAt hk] at hc
      refine ⟨t, ht, hl, by rw [hc], by rw [hc], fun j hj => ?_⟩
      rw [hl.core hf, State.haltedAt, State.here_modHere]
      exact Tile.states_halted _ hj
  · intro hm hu
    refine ⟨fun hs => ?_, fun hs => hend_waits h hm hu hs, ?_⟩
    · obtain ⟨t, ht, hl⟩ := hend_ends h hm hu hs
      obtain ⟨hf, hrun, hloops, hcur⟩ := State.endMessage_ends hm 0
      have hc := hl.cur hf
      exact ⟨t, ht, hl, by rw [hc]; exact hrun, by rw [hc]; exact hloops, (hl.current hf).trans hcur⟩
    · refine refuses_of_body h (rfl : _ = execHalt s) hu ?_
      simp only [hu, hm]
      rfl
  · intro hu i hi
    have hr {body : Body} (he : exec i s = runGroup .all false body s) (hb : body s = .error s.refuse) :
        ∃ t, exec i s = .next t ∧ t.cur = s.cur.doubleTrap :=
      ⟨s.leaveGroup s.refuse, by rw [he, runGroup_ready h, hb], State.leaveGroup_trap_sup hu⟩
    obtain rfl | rfl := hi
    · exact hr (rfl : _ = execHend s) (if_pos hu)
    · exact hr (rfl : _ = execHalt s) (if_pos hu)

end Sys2Proof.Machine
end

section
/-! # Scalar loads and stores of bytes of the tile's own (R102 to R105) -/

namespace Sys2Proof.Machine

variable {s : State} {i : Instr} {x : AReg} {imm : BitVec 64} {n : Nat}

/-! ## What an access of the group brings it to -/

theorem Ctx.setG_later (d : GReg) (w : Word) (c : Ctx) (p : Time) : ({ c with pts := p } : Ctx).setG d w = { c.setG d w with pts := p } := by
  unfold Ctx.setG
  split
  · rfl
  · split <;> rfl

theorem Ctx.setA_later (a : AReg) (w : DWord) (c : Ctx) (p : Time) : ({ c with pts := p } : Ctx).setA a w = { c.setA a w with pts := p } := by
  unfold Ctx.setA
  split <;> rfl

/-- A delayed access leaves its group waiting. -/
theorem delayed_waits {tie : Tie} {priv : Bool} {u : Purpose} {ea : DWord} {body : Body} (h : Ready tie priv s)
    (hi : exec i s = runGroup tie priv body s) (hd : Delayed s u ea n)
    (hb : ∀ e, s.target u ea n = .error e → body s = .error e) : ∃ t, exec i s = .next t ∧ Waits s t := by
  rw [hi]
  exact runGroup_waits h (hb _ hd.target)

/-- A denied access traps with the effective address. -/
theorem denied_traps {tie : Tie} {priv : Bool} {u : Purpose} {ea : DWord} {code : Byte} {body : Body} (h : Ready tie priv s)
    (hu : s.cur.sup = false) (hi : exec i s = runGroup tie priv body s) (hd : Denied s u ea n code)
    (hb : ∀ e, s.target u ea n = .error e → body s = .error e) : TakesTrap i s code 0 ea :=
  takesTrap_of_body hi h hu (hb _ hd.target)

/-! ## Loads -/

/-- The body of a load. -/
def loadBody (x : AReg) (imm : BitVec 64) (n : Nat) (put : Ctx → BitVec 128 → Ctx) : Body := fun s => do
  let r ← s.load (s.cur.ea x imm n) n
  return .on (r.1.modCur fun c => put c r.2)

variable {put : Ctx → BitVec 128 → Ctx}

theorem loadBody_error {e : Exit} (he : s.load (s.cur.ea x imm n) n = .error e) : loadBody x imm n put s = .error e := by
  simp only [loadBody, he, bind, Except.bind]

theorem loadBody_checked {e : Exit} (he : s.target .load (s.cur.ea x imm n) n = .error e) : loadBody x imm n put s = .error e :=
  loadBody_error (load_checked he)

theorem loadBody_ok {r : State × BitVec 128} (he : s.load (s.cur.ea x imm n) n = .ok r) :
    loadBody x imm n put s = .ok (.on (r.1.modCur fun c => put c r.2)) := by
  simp only [loadBody, he, bind, Except.bind]
  rfl

/-- What O20 says of the load `i` of `n` bytes: `c` is the context that a value gives. -/
def LoadsBytes (s : State) (x : AReg) (imm : BitVec 64) (i : Instr) (n : Nat) (c : Nat → Ctx) : Prop :=
  let ea := s.cur.getA x + imm * BitVec.ofNat 64 n
  (∀ g, Allowed s .load ea n g → AtOnce s [g.piece n] →
    (Good s [g.piece n] → CompletesAccess i s (s.setCur (c (s.mem.readNat g.key n)))) ∧
    (s.poisoned g.key n = true → s.portFails s.focus.rank g.key = false → s.cur.sup = false →
      TakesTrap i s (if g.key < 2 ^ 52 then 0x21 else 0x20) 0 ea)) ∧
  (∀ code, Denied s .load ea n code → s.cur.sup = false → TakesTrap i s code 0 ea) ∧
  (Delayed s .load ea n → ∃ t, exec i s = .next t ∧ Waits s t)

theorem loads_of_put {c : Nat → Ctx} (h : Ready .all false s) (hi : exec i s = loadOp x imm n put s)
    (hput : ∀ w c p, put { c with pts := p } w = { put c w with pts := p })
    (hc : ∀ v, put s.cur (BitVec.ofNat 128 v) = c v) : LoadsBytes s x imm i n c := by
  have hi' : exec i s = runGroup .all false (loadBody x imm n put) s := hi
  refine ⟨fun g hal hao => ⟨fun hg => ?_, fun hp hf hu => ?_⟩, fun code hd hu => ?_, fun hd => ?_⟩
  · obtain ⟨v, hv, hm⟩ := load_own hal.target hao hg
    refine runGroup_accesses h hi' (loadBody_ok hv) rfl ?_
    rw [← hc]
    exact hm.modCur (fun c => put c _) (hput _)
  · exact takesTrap_of_body hi' h hu (loadBody_error (load_bad hal.target hao hp hf))
  · exact denied_traps h hu hi' hd fun _ => loadBody_checked
  · exact delayed_waits h hi' hd fun _ => loadBody_checked

/-- The low bits of a number written as a longer word. -/
theorem setWidth_ofNat_128 {w : Nat} (hw : w ≤ 128) (v : Nat) : (BitVec.ofNat 128 v).setWidth w = BitVec.ofNat w v := by
  apply BitVec.eq_of_toNat_eq
  simp only [BitVec.toNat_setWidth, BitVec.toNat_ofNat]
  exact Nat.mod_mod_of_dvd v (Nat.pow_dvd_pow 2 hw)

/-- Settles O20: every load is `loadOp` with its own way to write the value. -/
theorem scalarLoads : Obligations.ScalarLoads := by
  intro s d a x imm h
  have hg (i : Instr) (n : Nat) (f : BitVec 128 → Word) {c : Nat → Ctx} (hi : exec i s = loadOp x imm n (fun c w => c.setG d (f w)) s)
      (hf : ∀ v, s.cur.setG d (f (BitVec.ofNat 128 v)) = c v) : LoadsBytes s x imm i n c :=
    loads_of_put h hi (fun w c p => c.setG_later d (f w) p) hf
  have ha {i : Instr} (hi : exec i s = loadOp x imm 8 (fun c w => c.setA a (w.setWidth 64)) s) :
      LoadsBytes s x imm i 8 fun v => s.cur.setA a (BitVec.ofNat 64 v) :=
    loads_of_put h hi (fun w c p => c.setA_later a _ p) fun v => by rw [setWidth_ofNat_128 (by decide)]
  refine ⟨?_, ?_, ?_, ?_, ?_, ?_⟩
  · exact hg (.ldb d x imm) 1 (fun w => (w.setWidth 8).signExtend 32) rfl fun v => by
      rw [setWidth_ofNat_128 (by decide)]
  · exact hg (.ldbu d x imm) 1 (fun w => w.setWidth 32) rfl fun v => by rw [setWidth_ofNat_128 (by decide)]
  · exact hg (.ldh d x imm) 2 (fun w => (w.setWidth 16).signExtend 32) rfl fun v => by
      rw [setWidth_ofNat_128 (by decide)]
  · exact hg (.ldhu d x imm) 2 (fun w => w.setWidth 32) rfl fun v => by
      rw [setWidth_ofNat_128 (by decide)]
  · exact hg (.ldw d x imm) 4 (fun w => w.setWidth 32) rfl fun v => by rw [setWidth_ofNat_128 (by decide)]
  · exact ha (rfl : execLda a x imm s = _)

/-! ## Stores -/

/-- The body of a store. -/
def storeBody (x : AReg) (imm : BitVec 64) (n : Nat) (value : Ctx → BitVec 128) : Body := fun s => do
  let s' ← s.storeTo (s.cur.ea x imm n) n (value s.cur)
  return .on s'

variable {value : Ctx → BitVec 128}

theorem storeBody_checked {e : Exit} (he : s.target .store (s.cur.ea x imm n) n = .error e) :
    storeBody x imm n value s = .error e := by
  simp only [storeBody, storeTo_checked _ he, bind, Except.bind]

theorem storeBody_ok {v : State} (he : s.storeTo (s.cur.ea x imm n) n (value s.cur) = .ok v) :
    storeBody x imm n value s = .ok (.on v) := by
  simp only [storeBody, he, bind, Except.bind]
  rfl

/-- What O21 says of the store `i` of the low `n` bytes of `v`. -/
def StoresLow (s : State) (x : AReg) (imm : BitVec 64) (i : Instr) (n v : Nat) : Prop :=
  let ea := s.cur.getA x + imm * BitVec.ofNat 64 n
  (∀ g, Allowed s .store ea n g → AtOnce s [g.piece n] → Writable s [g.piece n] →
    let u := s.store g.key n (BitVec.ofNat 128 v) s.cur.pts.known
    CompletesAccess i s u ∧ SameMemoryBut s u g.key n ∧ u.mem.readNat g.key n = v % 256 ^ n) ∧
  (∀ code, Denied s .store ea n code → s.cur.sup = false → TakesTrap i s code 0 ea) ∧
  (Delayed s .store ea n → ∃ t, exec i s = .next t ∧ Waits s t)

/-- A store's memory: the other bytes are as they were, and its own are the low bytes of the word. -/
theorem State.store_spec {w : Nat} (s : State) (k n : Nat) (v : BitVec w) (known : List Nat) :
    SameMemoryBut s (s.store k n v known) k n ∧ (s.store k n v known).mem.readNat k n = v.toNat % 256 ^ n :=
  ⟨fun _ hj => s.mem.get_write_other k n v hj, s.mem.readNat_writeNat k n v.toNat⟩

theorem stores_of_value {v : Nat} (h : Ready .all false s) (hi : exec i s = storeOp x imm n value s) (hn : n ≤ 16)
    (hv : value s.cur = BitVec.ofNat 128 v) (hlt : v < 2 ^ 128) : StoresLow s x imm i n v := by
  have hi' : exec i s = runGroup .all false (storeBody x imm n value) s := hi
  refine ⟨fun g hal hao hw => ?_, fun code hd hu => ?_, fun hd => ?_⟩
  · obtain ⟨t, ht, hm⟩ := storeTo_own (value s.cur) hn hal.target hao hw
    rw [hv] at hm
    obtain ⟨hbut, hread⟩ := s.store_spec g.key n (BitVec.ofNat 128 v) s.cur.pts.known
    rw [BitVec.toNat_ofNat, Nat.mod_eq_of_lt hlt] at hread
    exact ⟨runGroup_accesses h hi' (storeBody_ok ht) rfl hm, hbut, hread⟩
  · exact denied_traps h hu hi' hd fun _ => storeBody_checked
  · exact delayed_waits h hi' hd fun _ => storeBody_checked

theorem setWidth_128_eq {w : Nat} (b : BitVec w) : b.setWidth 128 = BitVec.ofNat 128 b.toNat :=
  BitVec.eq_of_toNat_eq (by simp)

theorem toNat_lt_of_le {w n : Nat} (b : BitVec w) (h : w ≤ n) : b.toNat < 2 ^ n :=
  Nat.lt_of_lt_of_le b.isLt (Nat.pow_le_pow_right (by decide) h)

/-- Settles O21: every store is `storeOp` with its own register. -/
theorem scalarStores : Obligations.ScalarStores := by
  intro s d a x imm h
  have hg {i : Instr} {n : Nat} (hi : exec i s = storeOp x imm n (fun c => (c.getG d).setWidth 128) s) (hn : n ≤ 16) :
      StoresLow s x imm i n (s.cur.getG d).toNat :=
    stores_of_value h hi hn (setWidth_128_eq _) (toNat_lt_of_le _ (by decide))
  refine ⟨?_, ?_, ?_, ?_⟩
  · exact hg (rfl : _ = execStb d x imm s) (by decide)
  · exact hg (rfl : _ = execSth d x imm s) (by decide)
  · exact hg (rfl : _ = execStw d x imm s) (by decide)
  · exact stores_of_value h (rfl : _ = execSta a x imm s) (by decide) (setWidth_128_eq _) (toNat_lt_of_le _ (by decide))

end Sys2Proof.Machine
end

section
/-! # Accesses to bytes of another tile (R105, R282, R303, R325) -/

namespace Sys2Proof.Machine

variable {s t u w : State} {i : Instr} {h : Nat} {q : Req} {tie : Tie} {priv : Bool} {body : Body} {p : Piece} {ps : List Piece}

/-! ## A request on its way: what it leaves and what it changes -/

/-- `w` is `s` with the request `q` sent to the home `h`, and with other accounts of the focused context's accesses. -/
structure Queues (s w : State) (h : Nat) (q : Req) : Prop where
  focus : w.focus = s.focus
  mem : w.mem = s.mem
  messages : (w.tile h).messages = (s.tile h).messages ++ [.builtin q]
  cur : w.cur = { s.cur with xact := w.cur.xact, storing := w.cur.storing, posted := w.cur.posted }

theorem Tile.messages_arrive (t : Tile) (m : Msg) : (t.arrive m).messages = t.messages ++ [m] := by
  unfold Tile.arrive Tile.messages
  split
  · next hr => simp [List.isEmpty_iff.1 hr.1]
  · simp

theorem State.cur_sendReq (hh : h ≠ s.focus.rank) (hq : q.src.rank = s.focus.rank) : (s.sendReq h q).cur = s.cur := by
  have hhere : (s.sendReq h q).here = { s.here with msgSent := s.here.msgSent + 1 } := by
    unfold State.sendReq State.here
    rw [State.modTile_focus, State.modTile_focus, hq, State.tile_modTile, State.tile_modTile_other _ (Ne.symm hh)]
    rfl
  rw [State.cur, hhere]
  rfl

/-- A request of the focused context stands last among the messages at a home that is another tile. -/
theorem State.sendReq_queues (hh : h ≠ s.focus.rank) (hq : q.src.rank = s.focus.rank) : Queues s (s.sendReq h q) h q := by
  refine ⟨rfl, rfl, ?_, by rw [State.cur_sendReq hh hq]⟩
  rw [State.sendReq, State.tile_modTile_other _ (by rw [hq]; exact hh), State.tile_modTile]
  exact Tile.messages_arrive _ _

/-- The accounts of the context's accesses change, and nothing else that `Queues` speaks of. -/
theorem Queues.modCur (hq : Queues s w h q) (hh : h ≠ s.focus.rank) {f : Ctx → Ctx}
    (hf : f w.cur = { w.cur with xact := (f w.cur).xact, storing := (f w.cur).storing, posted := (f w.cur).posted }) :
    Queues s (w.modCur f) h q := by
  refine ⟨hq.focus, hq.mem, ?_, ?_⟩
  · rw [State.modCur, State.tile_modCtx_other _ (by rw [hq.focus]; exact hh)]
    exact hq.messages
  · rw [State.cur_modCur, hf, hq.cur]

/-- The request stands last among the messages at its home. -/
def Stands (s : State) (h : Nat) (q : Req) (t : State) : Prop := (t.tile h).messages = (s.tile h).messages ++ [.builtin q]

/-- The group stays, marked as waiting, with no register changed. -/
def Stays (s t : State) : Prop := t.cur.waiting = true ∧ t.cur.pc = s.cur.pc ∧ t.cur.g = s.cur.g ∧ t.cur.a = s.cur.a ∧
  t.cur.v = s.cur.v ∧ t.mem = s.mem

/-- The group commits with no register changed. -/
def Passes (s t : State) : Prop := t.cur.pc = (s.cur.fall s.after).pc ∧ t.cur.g = s.cur.g ∧ t.cur.a = s.cur.a ∧
  t.cur.v = s.cur.v ∧ t.mem = s.mem

/-- The cycles of a group leave the messages at another tile. -/
theorem Queues.stands {f : Ctx → Ctx} (hq : Queues s w h q) (hh : h ≠ s.focus.rank) (ac : AfterCycles (w.modCur f) t) :
    Stands s h q t := by
  have hr : h ≠ w.focus.rank := by rw [hq.focus]; exact hh
  unfold Stands
  rw [ac.others h hr, State.modCur, State.tile_modCtx_other _ hr]
  exact hq.messages

theorem AfterCycles.cur_modCur {f : Ctx → Ctx} (ac : AfterCycles (w.modCur f) t) : t.cur = { f w.cur with wd := t.cur.wd } := by
  have hc := ac.ctx
  rw [State.cur_modCur] at hc
  exact hc

theorem AfterCycles.mem (ac : AfterCycles u t) : t.mem = u.mem := by rw [ac.rest]

/-- A group that waits for its request. -/
theorem Queues.stays (hr : Ready tie priv s) (hi : exec i s = runGroup tie priv body s) (hb : body s = .error (.wait w))
    (hq : Queues s w h q) (hh : h ≠ s.focus.rank) : ∃ t, exec i s = .next t ∧ Stays s t ∧ Stands s h q t := by
  have ac : AfterCycles (w.modCur fun c => { c with waiting := true }) (s.leaveGroup (.wait w)) := by
    have ha := afterCycles_elapse (w.modCur fun c => { c with waiting := true }) true
    rwa [show (w.modCur fun c => { c with waiting := true }).focus = s.focus from hq.focus] at ha
  refine ⟨s.leaveGroup (.wait w), by rw [hi, runGroup_ready hr, hb], ?_, hq.stands hh ac⟩
  have hc := ac.cur_modCur
  rw [hq.cur] at hc
  have hm : (s.leaveGroup (.wait w)).mem = s.mem := ac.mem.trans hq.mem
  refine ⟨?_, ?_, ?_, ?_, ?_, hm⟩ <;> rw [hc]

/-- A group that commits with its request sent. -/
theorem Queues.passes (hr : Ready tie priv s) (hi : exec i s = runGroup tie priv body s) (hb : body s = .ok (.on w))
    (hq : Queues s w h q) (hh : h ≠ s.focus.rank) :
    ∃ t, exec i s = .next t ∧ Passes s t ∧ Stands s h q t ∧ t.cur.posted = w.cur.posted := by
  obtain ⟨t, ht, hc⟩ := runGroup_commits hr hb hq.focus
  have ac : AfterCycles (w.modCur fun c => c.fall s.after) t := by
    unfold Commits at hc
    rwa [← hq.focus] at hc
  have hcur := ac.cur_modCur
  have hpost : t.cur.posted = w.cur.posted := by rw [hcur]; rfl
  rw [hq.cur] at hcur
  have hm : t.mem = s.mem := ac.mem.trans hq.mem
  refine ⟨t, hi.trans ht, ⟨?_, ?_, ?_, ?_, hm⟩, hq.stands hh ac, hpost⟩ <;> rw [hcur] <;> rfl

/-! ## When an access may begin -/

/-- No matrix command of the C core holds the bytes. -/
def Unheld (s : State) (k n : Nat) : Prop := s.focus.ctx = .c → s.here.matrix.touches k n = false

theorem mayAccess_of_idle (hi : Idle s) {keys : List (Nat × Nat)} (hk : ∀ e ∈ keys, Unheld s e.1 e.2) : s.mayAccess keys = true := by
  obtain ⟨-, hst, hpo⟩ := hi
  rw [State.mayAccess, hst, hpo, List.isEmpty_nil, Bool.true_and, List.all_eq_true]
  intro e he
  cases hc : s.focus.ctx
  case c => simp [hk e he hc]
  all_goals rfl

/-! ## Reads -/

/-- The request of a read of a piece. -/
def State.readReq (s : State) (p : Piece) : Req :=
  { kind := if p.key < 2 ^ 52 then (if s.here.caches then .line else .read) else .cread
    key := p.key, size := p.size, src := s.sender s.focus.rank s.focus.ctx, pts := s.cur.pts, tag := s.reqs
    window := p.window.bind fun h => (s.handleAt s.focus.rank h).map fun d => (h, d.cur) }

theorem advanceRead_remote (x : Xact) (hp : p.home = some h) (hl : s.here.lines = []) :
    s.advanceRead s.focus.rank s.focus.ctx x (p :: ps) =
      (s.sendReq h (s.readReq p), { x with todo := p :: ps, sent := true, tag := s.reqs }) := by
  have hlease : (s.tile s.focus.rank).leasedLine ((s.tile s.focus.rank).ctx s.focus.ctx).pts.time p.key = none := by
    unfold Tile.leasedLine
    rw [show (s.tile s.focus.rank).lines = [] from hl]
    rfl
  have hkind : (if p.key < 2 ^ 52 ∧ (s.tile s.focus.rank).caches = true then
      (if (s.tile s.focus.rank).lines.any (·.key = lineOf p.key) then ReqKind.renew else .line) else readKind p.key) =
      (s.readReq p).kind := by
    rw [show (s.tile s.focus.rank).lines = [] from hl]
    unfold State.readReq readKind State.here
    cases (s.tile s.focus.rank).caches <;> simp only [List.any_nil, Bool.false_eq_true, if_false, if_true, and_false, and_true]
    split_ifs <;> rfl
  unfold State.advanceRead
  simp only [hp, hlease, hkind]
  rfl

/-- The first piece of a read is another tile's: the group waits for it. -/
theorem readEach_remote (hi : Idle s) (hf : ∀ e ∈ p :: ps, Unheld s e.key e.size) (hp : p.home = some h) (hl : s.here.lines = [])
    (blame : Nat → Byte → Exit) : ∃ x, s.readEach blame (p :: ps) =
      .error (.wait ((s.sendReq h (s.readReq p)).modCur fun c => { c with xact := some x })) := by
  have hx := hi.1
  have hmay : s.mayAccess ((p :: ps).map fun p => (p.key, p.size)) = true :=
    mayAccess_of_idle hi (by simpa only [List.forall_mem_map] using hf)
  refine ⟨{ todo := p :: ps, sent := true, tag := s.reqs }, ?_⟩
  simp only [State.readEach, hx, hmay, advanceRead_remote _ hp hl]
  rfl

theorem readReq_queues (hh : h ≠ s.focus.rank) (p : Piece) (x : Xact) :
    Queues s ((s.sendReq h (s.readReq p)).modCur fun c => { c with xact := some x }) h (s.readReq p) :=
  (State.sendReq_queues hh rfl).modCur hh rfl

/-- What O23 says of a group that reads: it stays, and its request stands at the home. -/
def Asks (s : State) (h : Nat) (i : Instr) (k n : Nat) : Prop :=
  ∃ t q, exec i s = .next t ∧ Stays s t ∧ Stands s h q t ∧ q.key = k ∧ q.size = n ∧ q.src = s.sender s.focus.rank s.focus.ctx ∧
    q.posted = false ∧ q.kind = (if k < 2 ^ 52 then (if s.here.caches then .line else .read) else .cread)

/-- A group whose body is left by a read of pieces of which the first is another tile's. -/
theorem asks_of_readEach (hr : Ready tie priv s) (hid : Idle s) (hh : h ≠ s.focus.rank) (hi : exec i s = runGroup tie priv body s)
    (hf : ∀ e ∈ p :: ps, Unheld s e.key e.size) (hp : p.home = some h) (hl : s.here.lines = []) (blame : Nat → Byte → Exit)
    (hb : ∀ e, s.readEach blame (p :: ps) = .error e → body s = .error e) : Asks s h i p.key p.size := by
  obtain ⟨x, hx⟩ := readEach_remote hid hf hp hl blame
  obtain ⟨t, ht, hs, hst⟩ := Queues.stays hr hi (hb _ hx) (readReq_queues hh p x) hh
  exact ⟨t, s.readReq p, ht, hs, hst, rfl, rfl, rfl, rfl, rfl⟩

/-! ### The groups that read -/

theorem load_of_read {ea : DWord} {n : Nat} {g : Target} {e : Exit} (ht : s.target .load ea n = .ok g)
    (he : s.readPieces ea [g.piece n] = .error e) : s.load ea n = .error e := by
  simp only [State.load, ht, he, bind, Except.bind]

theorem load_asks {x : AReg} {imm : BitVec 64} {n : Nat} {put : Ctx → BitVec 128 → Ctx} {g : Target} (hr : Ready .all false s)
    (hid : Idle s) (hh : h ≠ s.focus.rank) (hi : exec i s = loadOp x imm n put s) (hg : g.home = some h) (hf : Unheld s g.key n)
    (hl : s.here.lines = []) (ha : Allowed s .load (s.cur.getA x + imm * BitVec.ofNat 64 n) n g) : Asks s h i g.key n := by
  have hi' : exec i s = runGroup .all false (loadBody x imm n put) s := hi
  have hf' : ∀ e ∈ [g.piece n], Unheld s e.key e.size := List.forall_mem_singleton.2 hf
  exact asks_of_readEach hr hid hh hi' hf' hg hl _ fun _ he => loadBody_error (load_of_read ha.target he)

/-- The body of VLD and VLDH. -/
def rowLoadBody (p : PReg) (d : VReg) (x : AReg) (imm : BitVec 64) (n : Nat) : Body := fun s => do
  let c := s.cur
  let m := c.getP p
  if m = 0 then return .on s
  let ea := c.ea x imm (16 * n)
  let t ← s.target .load ea (16 * n)
  let spans := s.readSpans t m n
  let r ← s.readPieces ea (spans.map (·.2))
  let v := gather ((spans.map (·.1)).zip r.2)
  return .on (r.1.modCur fun c => c.setV d (merge m (c.getV d) fun j => lane v j))

theorem rowLoadBody_error {pr : PReg} {d : VReg} {x : AReg} {imm : BitVec 64} {n : Nat} {g : Target} {e : Exit}
    (hm : s.cur.getP pr ≠ 0) (ht : s.target .load (s.cur.ea x imm (16 * n)) (16 * n) = .ok g)
    (he : s.readPieces (s.cur.ea x imm (16 * n)) ((s.readSpans g (s.cur.getP pr) n).map (·.2)) = .error e) :
    rowLoadBody pr d x imm n s = .error e := by
  simp only [rowLoadBody, if_neg hm, ht, he, bind, Except.bind]

theorem rowLoad_asks {pr : PReg} {d : VReg} {x : AReg} {imm : BitVec 64} {n : Nat} {g : Target} (hr : Ready .all false s)
    (hid : Idle s) (hh : h ≠ s.focus.rank) (hi : exec i s = loadLanes pr d x imm n s) (hm : s.cur.getP pr ≠ 0)
    (hl : s.here.lines = []) (ha : Allowed s .load (s.cur.getA x + imm * BitVec.ofNat 64 (16 * n)) (16 * n) g)
    (hs : (s.readSpans g (s.cur.getP pr) n).map (·.2) = p :: ps) (hf : ∀ e ∈ p :: ps, Unheld s e.key e.size)
    (hp : p.home = some h) : Asks s h i p.key p.size := by
  have hi' : exec i s = runGroup .all false (rowLoadBody pr d x imm n) s := hi
  exact asks_of_readEach hr hid hh hi' hf hp hl _ fun e he => rowLoadBody_error hm ha.target (by rw [hs]; exact he)

/-- The body of VLDB. -/
def vldbBody (t : EType) (p : PReg) (d : VReg) (x : AReg) (imm : BitVec 64) : Body := fun s => do
  let c := s.cur
  let m := c.getP p
  let n := t.width / 8
  if m = 0 then return .on s
  let ea := c.ea x imm n
  let g ← s.target .load ea n
  let r ← s.readPieces ea [g.piece n]
  return .on (r.1.modCur fun c => c.setV d (mergeElems t.width m (c.getV d) fun _ => (r.2.headD 0).toNat))

theorem vldbBody_error {ty : EType} {pr : PReg} {d : VReg} {x : AReg} {imm : BitVec 64} {g : Target} {e : Exit}
    (hm : s.cur.getP pr ≠ 0) (ht : s.target .load (s.cur.ea x imm (ty.width / 8)) (ty.width / 8) = .ok g)
    (he : s.readPieces (s.cur.ea x imm (ty.width / 8)) [g.piece (ty.width / 8)] = .error e) :
    vldbBody ty pr d x imm s = .error e := by
  simp only [vldbBody, if_neg hm, ht, he, bind, Except.bind]

theorem vldb_asks {ty : EType} {pr : PReg} {d : VReg} {x : AReg} {imm : BitVec 64} {g : Target} (hr : Ready .all false s)
    (hid : Idle s) (hh : h ≠ s.focus.rank) (hg : g.home = some h) (hf : Unheld s g.key (ty.width / 8)) (hl : s.here.lines = [])
    (hm : s.cur.getP pr ≠ 0)
    (ha : Allowed s .load (s.cur.getA x + imm * BitVec.ofNat 64 (ty.width / 8)) (ty.width / 8) g) :
    Asks s h (.vldb ty pr d x imm) g.key (ty.width / 8) := by
  have hi : exec (.vldb ty pr d x imm) s = runGroup .all false (vldbBody ty pr d x imm) s := rfl
  have hf' : ∀ e ∈ [g.piece (ty.width / 8)], Unheld s e.key e.size := List.forall_mem_singleton.2 hf
  exact asks_of_readEach hr hid hh hi hf' hg hl _ fun _ he => vldbBody_error hm ha.target he

/-! ### Element forms -/

/-- What an element form finds when every check passes. -/
theorem elemTargets_allowed {u : Purpose} {n : Nat} {skew : Nat → Bool} {addr : Nat → DWord} {f : Nat → Target} {es : List Nat}
    (ha : ∀ j ∈ es, Allowed s u (addr j) n (f j) ∧ skew j = false) :
    s.elemTargets u n skew (es.map fun e => (e, addr e)) = (es.map fun e => (e, addr e, f e), none) := by
  induction es with
  | nil => rfl
  | cons e es ih =>
    obtain ⟨he, hs⟩ := ha e (.head _)
    have ht : s.elemTarget u n (skew e) e (addr e) = .ok (f e) := by simp [State.elemTarget, hs, he.target]
    simp only [List.map_cons, State.elemTargets, ht, ih fun j hj => ha j (.tail _ hj)]

/-- The body of the element loads. -/
def elemLoadBody (w : Nat) (p : PReg) (d : VReg) (addr : Ctx → Nat → DWord) (skew : Ctx → Nat → Bool) : Body := fun s => do
  let c := s.cur
  let es := activeElems (c.getP p) w
  if es.isEmpty then return .on s
  let r ← s.loadElems (w / 8) (skew c) (es.map fun e => (e, addr c e))
  return .on (r.1.modCur fun c => c.putElems w d r.2)

/-- What ends an element load that meets bad data at its `k`-th element. -/
def blameElem (ts : List (Nat × DWord × Target)) (k : Nat) (code : Byte) : Exit :=
  match ts[k]? with
  | some e => .trap code (BitVec.ofNat 8 e.1) e.2.1
  | none => .trap code 0 0

theorem loadElems_error {n : Nat} {skew : Nat → Bool} {addrs : List (Nat × DWord)} {ts : List (Nat × DWord × Target)} {e : Exit}
    (ht : s.elemTargets .load n skew addrs = (ts, none))
    (he : s.readEach (blameElem ts) (ts.map fun e => e.2.2.piece n) = .error e) : s.loadElems n skew addrs = .error e := by
  unfold State.loadElems
  rw [ht]
  exact congrArg (· >>= _) he

theorem elemLoadBody_error {wd : Nat} {pr : PReg} {d : VReg} {addr : Ctx → Nat → DWord} {skew : Ctx → Nat → Bool} {e0 : Nat}
    {es : List Nat} {e : Exit} (hes : activeElems (s.cur.getP pr) wd = e0 :: es)
    (he : s.loadElems (wd / 8) (skew s.cur) ((e0 :: es).map fun e => (e, addr s.cur e)) = .error e) :
    elemLoadBody wd pr d addr skew s = .error e := by
  simp only [elemLoadBody, hes, he, bind, Except.bind]
  rfl

theorem elemLoad_asks {wd : Nat} {pr : PReg} {d : VReg} {addr : Ctx → Nat → DWord} {skew : Ctx → Nat → Bool} {f : Nat → Target}
    {e : Nat} {es : List Nat} (hr : Ready .all false s) (hid : Idle s) (hh : h ≠ s.focus.rank)
    (hi : exec i s = elemLoad wd pr d addr skew s) (hes : activeElems (s.cur.getP pr) wd = e :: es)
    (ha : ∀ j ∈ e :: es, Allowed s .load (addr s.cur j) (wd / 8) (f j) ∧ skew s.cur j = false ∧ Unheld s (f j).key (wd / 8))
    (hl : s.here.lines = []) (hg : (f e).home = some h) : Asks s h i (f e).key (wd / 8) := by
  have hi' : exec i s = runGroup .all false (elemLoadBody wd pr d addr skew) s := hi
  have ht := elemTargets_allowed (es := e :: es) fun j hj => ⟨(ha j hj).1, (ha j hj).2.1⟩
  refine asks_of_readEach (p := (f e).piece (wd / 8)) (ps := es.map fun j => (f j).piece (wd / 8)) hr hid hh hi' ?_ hg hl
    (blameElem ((e :: es).map fun j => (j, addr s.cur j, f j))) fun x hx => elemLoadBody_error hes (loadElems_error ht ?_)
  · exact (List.forall_mem_map (l := e :: es) (f := fun j => (f j).piece (wd / 8))).2 fun j hj => (ha j hj).2.2
  · rw [List.map_map]
    exact hx

end Sys2Proof.Machine
end

section
/-! # Stores and atomics at another tile (R105, R282, R303, R325) -/

namespace Sys2Proof.Machine

variable {s t u w : State} {i : Instr} {h : Nat} {q : Req} {tie : Tie} {priv : Bool} {body : Body} {p : StorePiece} {ps : List StorePiece}

/-! ## Stores -/

/-- The request of a store of a piece. -/
def State.writeReq (s : State) (p : StorePiece) : Req :=
  { kind := writeKind p.piece.key, key := p.piece.key, size := p.piece.size, data := p.data, cmp := BitVec.ofNat 64 p.mask
    src := s.sender s.focus.rank s.focus.ctx, pts := s.cur.pts, tag := s.reqs }

/-- The pieces may be written: no matrix command holds their bytes, no remap the banks of the tile's own. -/
def Open (s : State) (ps : List Piece) : Prop :=
  ∀ e ∈ ps, Unheld s e.key e.size ∧ (e.home = none → s.bankHeld e.key = false)

/-- The first piece of a store is another tile's: its request is sent, and the store goes on when it is answered. -/
theorem writePieces_remote (hi : Idle s) (ho : Open s ((p :: ps).map (·.piece))) (hp : p.piece.home = some h) :
    s.writePieces (p :: ps) =
      .ok ((s.sendReq h (s.writeReq p)).modCur fun c => { c with storing := { p with tag := s.reqs } :: ps }) := by
  have ho' : ∀ e ∈ p :: ps, Unheld s e.piece.key e.piece.size ∧ (e.piece.home = none → s.bankHeld e.piece.key = false) :=
    fun e he => ho _ (List.mem_map_of_mem he)
  have hmay : s.mayAccess ((p :: ps).map fun p => (p.piece.key, p.piece.size)) = true :=
    mayAccess_of_idle hi ((List.forall_mem_map (l := p :: ps) (f := fun p => (p.piece.key, p.piece.size))).2 fun e he => (ho' e he).1)
  have hheld : (p :: ps).any (fun p => p.piece.home.isNone && s.bankHeld p.piece.key) = false := by
    rw [List.any_eq_false]
    intro e he
    cases hn : e.piece.home with
    | none => simp [(ho' e he).2 hn]
    | some _ => simp
  simp only [State.writePieces, hmay, hheld, State.advanceStore, hp]
  rfl

theorem writeReq_queues (hh : h ≠ s.focus.rank) (p : StorePiece) (l : List StorePiece) :
    Queues s ((s.sendReq h (s.writeReq p)).modCur fun c => { c with storing := l }) h (s.writeReq p) :=
  (State.sendReq_queues hh rfl).modCur hh rfl

/-- What O23 says of a group that stores: it commits, and its request stands at the home. -/
def Sends (s : State) (h : Nat) (i : Instr) (k n data : Nat) (on : Nat → Bool) : Prop :=
  ∃ t q, exec i s = .next t ∧ Passes s t ∧ Stands s h q t ∧ q.key = k ∧ q.size = n ∧ q.src = s.sender s.focus.rank s.focus.ctx ∧
    q.data.toNat % 256 ^ n = data % 256 ^ n ∧ (∀ b, b < n → q.cmp.getLsbD b = on b) ∧
    q.kind = (if k < 2 ^ 52 then .write else .cwrite)

/-- A group whose body ends with a write of pieces of which the first is another tile's. -/
theorem sends_of_writePieces {data : Nat} {on : Nat → Bool} (hr : Ready tie priv s) (hid : Idle s) (hh : h ≠ s.focus.rank)
    (hi : exec i s = runGroup tie priv body s) (ho : Open s ((p :: ps).map (·.piece))) (hp : p.piece.home = some h)
    (hn : p.piece.size ≤ 16) (hd : p.data.toNat % 256 ^ p.piece.size = data % 256 ^ p.piece.size)
    (hm : ∀ b, b < p.piece.size → p.mask.testBit b = on b) (hb : ∀ v, s.writePieces (p :: ps) = .ok v → body s = .ok (.on v)) :
    Sends s h i p.piece.key p.piece.size data on := by
  obtain ⟨t, ht, hs, hst, -⟩ := Queues.passes hr hi (hb _ (writePieces_remote hid ho hp)) (writeReq_queues hh p _) hh
  refine ⟨t, s.writeReq p, ht, hs, hst, rfl, rfl, rfl, hd, fun b hbn => ?_, rfl⟩
  refine (BitVec.getLsbD_ofNat 64 p.mask b).trans ?_
  rw [decide_eq_true (show b < 64 by omega), Bool.true_and]
  exact hm b hbn

/-- A write of whole bytes has every bit of its mask set. -/
theorem testBit_whole {b : Nat} (hb : b < 16) : (0xFFFF : Nat).testBit b = true := by
  have hs : (0xFFFF : Nat) = 2 ^ 16 - 1 := by decide
  rw [hs, Nat.testBit_two_pow_sub_one]
  exact decide_eq_true hb

/-- The low bytes of a number written as a word of 16 bytes. -/
theorem toNat_ofNat_mod_bytes (v : Nat) {n : Nat} (hn : n ≤ 16) : (BitVec.ofNat 128 v).toNat % 256 ^ n = v % 256 ^ n := by
  rw [BitVec.toNat_ofNat]
  refine Nat.mod_mod_of_dvd v ?_
  rw [show (256 : Nat) = 2 ^ 8 by rfl, ← Nat.pow_mul]
  exact Nat.pow_dvd_pow 2 (by omega)

/-! ### The groups that store -/

theorem storeTo_of_write {ea : DWord} {n : Nat} {g : Target} {data : BitVec 128} {v : State} (ht : s.target .store ea n = .ok g)
    (hv : s.writePieces [{ piece := g.piece n, data := data }] = .ok v) : s.storeTo ea n data = .ok v := by
  simp only [State.storeTo, ht, hv, bind, Except.bind]

theorem store_sends {x : AReg} {imm : BitVec 64} {n v : Nat} {value : Ctx → BitVec 128} {g : Target} (hr : Ready .all false s)
    (hid : Idle s) (hh : h ≠ s.focus.rank) (hi : exec i s = storeOp x imm n value s) (hn : n ≤ 16)
    (hv : value s.cur = BitVec.ofNat 128 v) (hg : g.home = some h) (hf : Unheld s g.key n)
    (ha : Allowed s .store (s.cur.getA x + imm * BitVec.ofNat 64 n) n g) : Sends s h i g.key n v fun _ => true := by
  have hi' : exec i s = runGroup .all false (storeBody x imm n value) s := hi
  refine sends_of_writePieces (p := { piece := g.piece n, data := value s.cur }) (ps := []) hr hid hh hi' ?_ hg hn ?_ ?_
    fun _ hw => storeBody_ok (storeTo_of_write ha.target hw)
  · exact List.forall_mem_singleton.2 ⟨hf, fun hnone => absurd (hnone.symm.trans hg) (Option.some_ne_none h).symm⟩
  · rw [hv]
    exact toNat_ofNat_mod_bytes v hn
  · exact fun b hb => testBit_whole (Nat.lt_of_lt_of_le hb hn)

/-! ### Element forms -/

/-- The body of the element stores. -/
def elemStoreBody (w : Nat) (p : PReg) (d : VReg) (addr : Ctx → Nat → DWord) (skew : Ctx → Nat → Bool) : Body := fun s => do
  let c := s.cur
  let es := activeElems (c.getP p) w
  if es.isEmpty then return .on s
  let ts := s.elemTargets .store (w / 8) (skew c) (es.map fun e => (e, addr c e))
  match ts.2 with
  | some e => throw e
  | none => pure ()
  let s' ← s.writePieces (ts.1.map fun e =>
    ({ piece := e.2.2.piece (w / 8), data := BitVec.ofNat 128 (elemOf w (c.getV d) e.1) } : StorePiece))
  return .on s'

/-- The piece of element `e` at its target. -/
def elemPiece (w : Nat) (v : VWord) (f : Nat → Target) (e : Nat) : StorePiece :=
  { piece := (f e).piece (w / 8), data := BitVec.ofNat 128 (elemOf w v e) }

theorem elemStoreBody_ok {wd : Nat} {pr : PReg} {d : VReg} {addr : Ctx → Nat → DWord} {skew : Ctx → Nat → Bool} {e0 : Nat}
    {es : List Nat} {f : Nat → Target} {v : State} (hes : activeElems (s.cur.getP pr) wd = e0 :: es)
    (ht : s.elemTargets .store (wd / 8) (skew s.cur) ((e0 :: es).map fun e => (e, addr s.cur e)) =
      ((e0 :: es).map fun e => (e, addr s.cur e, f e), none))
    (hv : s.writePieces ((e0 :: es).map (elemPiece wd (s.cur.getV d) f)) = .ok v) : elemStoreBody wd pr d addr skew s = .ok (.on v) := by
  simp only [elemStoreBody, hes, ht, List.map_map]
  exact congrArg (· >>= fun v => (pure (.on v) : Except Exit Flow)) hv

theorem elemStore_sends {wd : Nat} {pr : PReg} {d : VReg} {addr : Ctx → Nat → DWord} {skew : Ctx → Nat → Bool} {f : Nat → Target}
    {e : Nat} {es : List Nat} (hr : Ready .all false s) (hid : Idle s) (hh : h ≠ s.focus.rank) (hw : wd / 8 ≤ 16)
    (hi : exec i s = elemStore wd pr d addr skew s) (hes : activeElems (s.cur.getP pr) wd = e :: es)
    (ha : ∀ j ∈ e :: es, Allowed s .store (addr s.cur j) (wd / 8) (f j) ∧ skew s.cur j = false ∧ Unheld s (f j).key (wd / 8) ∧
      ((f j).home = none → s.bankHeld (f j).key = false))
    (hg : (f e).home = some h) : Sends s h i (f e).key (wd / 8) (elemOf wd (s.cur.getV d) e) fun _ => true := by
  have hi' : exec i s = runGroup .all false (elemStoreBody wd pr d addr skew) s := hi
  have ht := elemTargets_allowed (es := e :: es) fun j hj => ⟨(ha j hj).1, (ha j hj).2.1⟩
  refine sends_of_writePieces (p := elemPiece wd (s.cur.getV d) f e) (ps := es.map (elemPiece wd (s.cur.getV d) f)) hr hid hh hi' ?_
    hg hw (toNat_ofNat_mod_bytes _ hw) (fun b hb => testBit_whole (Nat.lt_of_lt_of_le hb hw)) fun _ hv => elemStoreBody_ok hes ht hv
  rw [← List.map_cons, List.map_map]
  exact (List.forall_mem_map (l := e :: es) (f := fun j => (f j).piece (wd / 8))).2 fun j hj => (ha j hj).2.2

/-! ### Rows -/

/-- The bits of four nibbles, each all set or all clear. -/
theorem testBit_nibbles : ∀ (f : Fin 4 → Bool) (b : Fin 16),
    ((List.finRange 4).foldl (fun m k => if f k then m + 15 * 16 ^ k.val else m) 0).testBit b = f (b.divNat (m := 4) (n := 4)) := by
  decide

theorem testBit_pieceMask (m : Word) (j : Nat) {b : Nat} (hb : b < 16) : (pieceMask m j).testBit b = m.getLsbD (4 * j + b / 4) :=
  testBit_nibbles (fun k => m.getLsbD (4 * j + k)) ⟨b, hb⟩

theorem pieceMask_eq_zero {m : Word} {j : Nat} : pieceMask m j = 0 ↔ ∀ l, l < 4 → m.getLsbD (4 * j + l) = false := by
  constructor
  · intro h0 l hl
    have hb := testBit_pieceMask m j (b := 4 * l) (by omega)
    rw [h0, Nat.zero_testBit, Nat.mul_div_cancel_left l (by decide)] at hb
    exact hb.symm
  · intro hl
    have h0 := hl 0 (by decide)
    have h1 := hl 1 (by decide)
    have h2 := hl 2 (by decide)
    have h3 := hl 3 (by decide)
    rw [pieceMask, show List.range 4 = [0, 1, 2, 3] by rfl]
    simp only [List.foldl_cons, List.foldl_nil, h0, h1, h2, h3]
    rfl

/-- The first number below `k` that a test holds of leads the numbers that it holds of. -/
theorem filter_range_eq_cons {f : Nat → Bool} {j k : Nat} (hj : j < k) (hf : f j = true) (hl : ∀ l, l < j → f l = false) :
    ∃ es, (List.range k).filter f = j :: es := by
  have hk : k = j + ((k - j - 1) + 1) := by omega
  have hnil : (List.range j).filter f = [] := List.filter_eq_nil_iff.2 fun l h => by simp [hl l (List.mem_range.1 h)]
  rw [hk, List.range_add, List.filter_append, hnil, List.range_succ_eq_map, List.map_cons, List.nil_append, Nat.add_zero,
    List.filter_cons_of_pos hf]
  exact ⟨_, rfl⟩

/-- The body of VST and VSTH. -/
def rowStoreBody (p : PReg) (d : VReg) (x : AReg) (imm : BitVec 64) (n : Nat) : Body := fun s => do
  let c := s.cur
  let m := c.getP p
  if m = 0 then return .on s
  let ea := c.ea x imm (16 * n)
  let t ← s.target .store ea (16 * n)
  let ps := ((List.range n).filter fun j => pieceMask m j != 0).map fun j =>
    ({ piece := s.pieceAt s.focus.rank t (16 * j) 16, data := (c.getV d).extractLsb' (128 * j) 128, mask := pieceMask m j } : StorePiece)
  let s' ← s.writePieces ps
  return .on s'

/-- Piece `j` of a row at its target. -/
def State.rowPiece (s : State) (g : Target) (m : Word) (v : VWord) (j : Nat) : StorePiece :=
  { piece := s.pieceAt s.focus.rank g (16 * j) 16, data := v.extractLsb' (128 * j) 128, mask := pieceMask m j }

theorem rowStoreBody_ok {pr : PReg} {d : VReg} {x : AReg} {imm : BitVec 64} {n : Nat} {g : Target} {v : State} {es : List Nat}
    (hm : s.cur.getP pr ≠ 0) (ht : s.target .store (s.cur.ea x imm (16 * n)) (16 * n) = .ok g)
    (hes : ((List.range n).filter fun j => pieceMask (s.cur.getP pr) j != 0) = es)
    (hv : s.writePieces (es.map (s.rowPiece g (s.cur.getP pr) (s.cur.getV d))) = .ok v) :
    rowStoreBody pr d x imm n s = .ok (.on v) := by
  simp only [rowStoreBody, if_neg hm, ht, hes]
  exact congrArg (· >>= fun v => (pure (.on v) : Except Exit Flow)) hv

theorem rowStore_sends {pr : PReg} {d : VReg} {x : AReg} {imm : BitVec 64} {n j : Nat} {g : Target} (hr : Ready .all false s)
    (hid : Idle s) (hh : h ≠ s.focus.rank) (hi : exec i s = storeLanes pr d x imm n s) (hj : j < n)
    (hz : ∀ l, l < 4 * j → (s.cur.getP pr).getLsbD l = false) (hon : ∃ l, l < 4 ∧ (s.cur.getP pr).getLsbD (4 * j + l) = true)
    (ha : Allowed s .store (s.cur.getA x + imm * BitVec.ofNat 64 (16 * n)) (16 * n) g)
    (hf : ∀ e, e < n → Unheld s (s.pieceAt s.focus.rank g (16 * e) 16).key 16 ∧
      ((s.pieceAt s.focus.rank g (16 * e) 16).home = none → s.bankHeld (s.pieceAt s.focus.rank g (16 * e) 16).key = false))
    (hp : (s.pieceAt s.focus.rank g (16 * j) 16).home = some h) :
    Sends s h i (g.key + 16 * j) 16 ((s.cur.getV d).extractLsb' (128 * j) 128).toNat
      fun b => (s.cur.getP pr).getLsbD (4 * j + b / 4) := by
  have hi' : exec i s = runGroup .all false (rowStoreBody pr d x imm n) s := hi
  obtain ⟨l, hl, hbit⟩ := hon
  have hm : s.cur.getP pr ≠ 0 := fun h0 => by simp [h0] at hbit
  have hmask : (pieceMask (s.cur.getP pr) j != 0) = true :=
    bne_iff_ne.2 fun h0 => by simp [pieceMask_eq_zero.1 h0 l hl] at hbit
  have hlow : ∀ e, e < j → (pieceMask (s.cur.getP pr) e != 0) = false := fun e he => by
    rw [bne_eq_false_iff_eq, pieceMask_eq_zero]
    exact fun l hl => hz _ (by omega)
  obtain ⟨es, hes⟩ := filter_range_eq_cons (f := fun j => pieceMask (s.cur.getP pr) j != 0) hj hmask hlow
  refine sends_of_writePieces (p := s.rowPiece g (s.cur.getP pr) (s.cur.getV d) j)
    (ps := es.map (s.rowPiece g (s.cur.getP pr) (s.cur.getV d))) hr hid hh hi' ?_ hp (Nat.le_refl 16) rfl
    (fun b hb => testBit_pieceMask _ j hb) fun v hv => rowStoreBody_ok hm ha.target hes hv
  rw [← List.map_cons, List.map_map, ← hes]
  refine (List.forall_mem_map (l := (List.range n).filter _) (f := fun j => s.pieceAt s.focus.rank g (16 * j) 16)).2 fun e he => ?_
  exact hf e (List.mem_range.1 (List.mem_filter.1 he).1)

/-! ## Atomics -/

/-- The request of an atomic of the running context on `size` bytes at a key. -/
def State.amoReq (s : State) (k : ReqKind) (key size : Nat) (v cmp : DWord) (posted : Bool) : Req :=
  { kind := k, key := key, size := size, data := v.setWidth 128, cmp := cmp
    src := s.sender s.focus.rank s.focus.ctx, posted := posted, pts := s.cur.pts, tag := s.reqs }

section
variable {ea : DWord} {g : Target} {n : Nat} {k : ReqKind} {v cmp : DWord} {put : Ctx → DWord → Ctx}

theorem atomicIssue_posted (hi : Idle s) (hf : Unheld s g.key n) (hg : g.home = some h) :
    atomicIssue ea g n k v cmp true put s = .ok (.on ((s.sendReq h (s.amoReq k g.key n v cmp true)).modCur fun c =>
      { c with posted := c.posted ++ [(g.key / 8, h)] })) := by
  have hmay : s.mayAccess [(g.key, n)] = true := mayAccess_of_idle hi (List.forall_mem_singleton.2 hf)
  have hpo := hi.2.2
  simp only [atomicIssue, hmay, hg, hpo]
  rfl

theorem atomicIssue_returning (hi : Idle s) (hf : Unheld s g.key n) (hg : g.home = some h) :
    atomicIssue ea g n k v cmp false put s = .error (.wait ((s.sendReq h (s.amoReq k g.key n v cmp false)).modCur fun c =>
      { c with xact := some { todo := [g.piece n], sent := true, tag := s.reqs, effect := true } })) := by
  have hmay : s.mayAccess [(g.key, n)] = true := mayAccess_of_idle hi (List.forall_mem_singleton.2 hf)
  simp only [atomicIssue, hmay, hg]
  rfl

theorem amoReq_queues (hh : h ≠ s.focus.rank) {posted : Bool} {f : Ctx → Ctx}
    (hf : ∀ c, f c = { c with xact := (f c).xact, storing := (f c).storing, posted := (f c).posted }) :
    Queues s ((s.sendReq h (s.amoReq k g.key n v cmp posted)).modCur f) h (s.amoReq k g.key n v cmp posted) :=
  (State.sendReq_queues hh rfl).modCur hh (hf _)

/-- An atomic that has not been issued and whose checks pass is issued. -/
theorem atomicOn_issue {sc : Scope} {kind : Nat → ReqKind} {posted : Bool} (hi : Idle s) (ht : s.target .atomic ea n = .ok g)
    (hg : g.home = some h) (hw : s.within sc s.focus.rank h = true) :
    atomicOn sc ea n kind v cmp posted put s = atomicIssue ea g n (kind g.key) v cmp posted put s := by
  have hx := hi.1
  have hw' : s.within sc s.focus.rank (g.homeFrom s.focus.rank) = true := by
    rw [Target.homeFrom, hg]
    exact hw
  simp only [atomicOn, hx, ht, hw', bind, Except.bind]
  rfl
end

/-- What O23 says of an atomic on 4 bytes. -/
theorem amo_travels {op : Nat} {sc : Scope} {d y : GReg} {x : AReg} {g : Target} (hr : Ready .all false s) (hid : Idle s)
    (hh : h ≠ s.focus.rank) (hi : exec i s = amo op sc d x y s) (hg : g.home = some h) (hf : Unheld s g.key 4)
    (ha : Allowed s .atomic (s.cur.getA x) 4 g) (hw : s.within sc s.focus.rank h = true) :
    ∃ t q, exec i s = .next t ∧ Stands s h q t ∧ q.key = g.key ∧ q.size = 4 ∧ q.src = s.sender s.focus.rank s.focus.ctx ∧
      q.data = BitVec.ofNat 128 (s.cur.getG y).toNat ∧ q.cmp = BitVec.ofNat 64 (s.cur.getG d).toNat ∧ q.posted = (d == 0) ∧
      q.kind = (if g.key < 2 ^ 52 then .amo op else .camo op) ∧ (d ≠ 0 → Stays s t) ∧
      (d = 0 → Passes s t ∧ t.cur.posted = [(g.key / 8, h)]) := by
  have hdata : (((s.cur.getG y).setWidth 64).setWidth 128 : BitVec 128) = BitVec.ofNat 128 (s.cur.getG y).toNat := by
    have hlt := (s.cur.getG y).isLt
    apply BitVec.eq_of_toNat_eq
    simp only [BitVec.toNat_setWidth, BitVec.toNat_ofNat]
    omega
  have hcmp : (s.cur.getG d).setWidth 64 = BitVec.ofNat 64 (s.cur.getG d).toNat := BitVec.eq_of_toNat_eq (by simp)
  have hissue := atomicOn_issue (kind := fun key => amoKind key op) (v := (s.cur.getG y).setWidth 64) (cmp := (s.cur.getG d).setWidth 64)
    (posted := d == 0) (put := fun c old => c.setG d (old.setWidth 32)) hid ha.target hg hw
  by_cases hd : d = 0
  · have hz : (d == 0) = true := beq_iff_eq.2 hd
    rw [hz, atomicIssue_posted hid hf hg] at hissue
    obtain ⟨t, ht, hp, hst, hpost⟩ := Queues.passes hr hi (by rw [← hissue, hz]) (amoReq_queues hh fun _ => rfl) hh
    refine ⟨t, _, ht, hst, rfl, rfl, rfl, hdata, hcmp, hz.symm, rfl, fun h0 => absurd hd h0, fun _ => ⟨hp, ?_⟩⟩
    rw [hpost, State.cur_modCur, State.cur_sendReq hh rfl, hid.2.2]
    rfl
  · have hz : (d == 0) = false := beq_eq_false_iff_ne.2 hd
    rw [hz, atomicIssue_returning hid hf hg] at hissue
    obtain ⟨t, ht, hs, hst⟩ := Queues.stays hr hi (by rw [← hissue, hz]) (amoReq_queues hh fun _ => rfl) hh
    exact ⟨t, _, ht, hst, rfl, rfl, rfl, hdata, hcmp, hz.symm, rfl, fun _ => hs, fun h0 => absurd h0 hd⟩

end Sys2Proof.Machine
end

section
/-! # What travels (R105, R195, R282, R303, R325) -/

namespace Sys2Proof.Machine

variable {s : State}

theorem width_bytes_le (ty : EType) : ty.width / 8 ≤ 16 := by cases ty <;> decide

theorem strideSkew_eq_false {wd e : Nat} {c : Ctx} (h : ¬(e ≠ 0 ∧ c.vstride.toNat % (wd / 8) ≠ 0)) : strideSkew wd c e = false := by
  rw [strideSkew, Bool.and_eq_false_iff, bne_eq_false_iff_eq, bne_eq_false_iff_eq]
  exact not_and_or.1 h |>.imp not_not.1 not_not.1

/-- Settles O23: a body that meets a piece of another tile sends its request and changes the accounts of its context's accesses. -/
theorem remoteAccessesTravel : Obligations.RemoteAccessesTravel := by
  intro s d y a x v pr ty sc imm g h hr hid hh
  have hload {i : Instr} {n : Nat} {put : Ctx → BitVec 128 → Ctx} (hi : exec i s = loadOp x imm n put s) (hg : g.home = some h) :=
    load_asks hr hid hh hi hg
  have hstore {i : Instr} {n b : Nat} {value : Ctx → BitVec 128} (hi : exec i s = storeOp x imm n value s) (hn : n ≤ 16)
      (hv : value s.cur = BitVec.ofNat 128 b) (hg : g.home = some h) := store_sends hr hid hh hi hn hv hg
  have hatomic {i : Instr} {op : Nat} (hi : exec i s = amo op sc d x y s) (hg : g.home = some h) := amo_travels hr hid hh hi hg
  refine ⟨?_, ?_, ?_, ?_, ?_, ?_, ?_, ?_, ?_, ?_, ?_, ?_, ?_, ?_, ?_, ?_, ?_, ?_, ?_, ?_, ?_, ?_, ?_, ?_, ?_, ?_, ?_, ?_, ?_, ?_, ?_⟩
  · exact hload (rfl : execLdb d x imm s = _)
  · exact hload (rfl : execLdbu d x imm s = _)
  · exact hload (rfl : execLdh d x imm s = _)
  · exact hload (rfl : execLdhu d x imm s = _)
  · exact hload (rfl : execLdw d x imm s = _)
  · exact hload (rfl : execLda a x imm s = _)
  · exact hstore (rfl : execStb d x imm s = _) (by decide) (setWidth_128_eq _)
  · exact hstore (rfl : execSth d x imm s = _) (by decide) (setWidth_128_eq _)
  · exact hstore (rfl : execStw d x imm s = _) (by decide) (setWidth_128_eq _)
  · exact hstore (rfl : execSta a x imm s = _) (by decide) (setWidth_128_eq _)
  · exact hatomic (rfl : execAmoadd sc d x y s = _)
  · exact hatomic (rfl : execAmoand sc d x y s = _)
  · exact hatomic (rfl : execAmoor sc d x y s = _)
  · exact hatomic (rfl : execAmoxor sc d x y s = _)
  · exact hatomic (rfl : execAmomin sc d x y s = _)
  · exact hatomic (rfl : execAmomax sc d x y s = _)
  · exact hatomic (rfl : execAmominu sc d x y s = _)
  · exact hatomic (rfl : execAmomaxu sc d x y s = _)
  · exact hatomic (rfl : execAmoswp sc d x y s = _)
  · exact hatomic (rfl : execAmocas sc d x y s = _)
  · exact hatomic (rfl : execAmofadd sc d x y s = _)
  · exact hatomic (rfl : execAmofmax sc d x y s = _)
  · exact fun p ps hm hl ha hs hf hp => rowLoad_asks hr hid hh (rfl : execVld pr v x imm s = _) hm hl ha hs hf hp
  · exact fun p ps hm hl ha hs hf hp => rowLoad_asks hr hid hh (rfl : execVldh pr v x imm s = _) hm hl ha hs hf hp
  · exact fun hg hf hl hm ha => vldb_asks hr hid hh hg hf hl hm ha
  · exact fun f e es hes ha hl hg => elemLoad_asks hr hid hh (rfl : execVlds ty pr v x imm s = _) hes
      (fun j hj => ⟨(ha j hj).1, strideSkew_eq_false (ha j hj).2.1, (ha j hj).2.2.1⟩) (hl rfl) hg
  · exact fun _ f e es hes ha hl hg => elemLoad_asks hr hid hh (rfl : execVgat ty pr v x imm s = _) hes
      (fun j hj => ⟨(ha j hj).1, rfl, (ha j hj).2.2.1⟩) (hl rfl) hg
  · exact fun j hj hz hon ha hf hp => rowStore_sends hr hid hh (rfl : execVst pr v x imm s = _) hj hz hon ha hf hp
  · exact fun j hj hz hon ha hf hp => rowStore_sends hr hid hh (rfl : execVsth pr v x imm s = _) hj hz hon ha hf hp
  · exact fun f e es hes ha _ hg => elemStore_sends hr hid hh (width_bytes_le ty) (rfl : execVsts ty pr v x imm s = _) hes
      (fun j hj => ⟨(ha j hj).1, strideSkew_eq_false (ha j hj).2.1, (ha j hj).2.2⟩) hg
  · exact fun _ f e es hes ha _ hg => elemStore_sends hr hid hh (width_bytes_le ty) (rfl : execVsct ty pr v x imm s = _) hes
      (fun j hj => ⟨(ha j hj).1, rfl, (ha j hj).2.2⟩) hg

end Sys2Proof.Machine
end

section
/-! # Merging summaries: what `Summ.merge` computes is a merge (R229 to R232, R234, R237, R238) -/

namespace Sys2Proof.Machine

/-! ## Numbers in images -/

theorem natOfBytes_lt (l : List Byte) : natOfBytes l < 256 ^ l.length := by
  induction l with
  | nil => exact Nat.one_pos
  | cons b l ih =>
    have hb := b.isLt
    rw [natOfBytes, List.length_cons, Nat.pow_succ]
    omega

theorem imgNat_lt (b : List Byte) (off n : Nat) : imgNat b off n < 256 ^ n :=
  Nat.lt_of_lt_of_le (natOfBytes_lt _) (Nat.pow_le_pow_right (by decide) (List.length_take_le _ _))

/-! ## Bodies of a kind -/

/-- No level holds more than 255 keys. -/
def Short (ls : List (List Nat)) : Prop := ∀ l, (ls.getD l []).length ≤ 255

/-- The body is one of the kind, with levels and registers as its image has them. -/
inductive SummBody.OfKind : Nat → SummBody → Prop
  | moment (x y : Word) : OfKind 1 (.moment x y)
  | extreme (x y : DWord) : OfKind 2 (.extreme x y)
  | lse2 (x y : Word) : OfKind 3 (.lse2 x y)
  | cairn (ls : List (List Nat)) (cc : List Word) : Short ls → OfKind 4 (.cairn ls cc)
  | heavy (es : List (Nat × Nat × Nat)) : OfKind 5 (.heavy es)
  | distinct (rs : List Nat) : rs.length = 4096 → OfKind 6 (.distinct rs)

/-- Every image of a kind has a body of that kind. -/
theorem readImage_ofKind {b : List Byte} (h1 : 1 ≤ (readImage b).kind) (h6 : (readImage b).kind ≤ 6) :
    (readImage b).body.OfKind (readImage b).kind := by
  change 1 ≤ imgNat b 0 1 at h1
  change imgNat b 0 1 ≤ 6 at h6
  unfold readImage
  dsimp only
  generalize imgNat b 0 1 = k at h1 h6
  interval_cases k
  · exact .moment _ _
  · exact .extreme _ _
  · exact .lse2 _ _
  · refine .cairn _ _ fun l => ?_
    by_cases hl : l < 8
    · have hb := imgNat_lt b (64 + l) 1
      simp only [List.getD_eq_getElem?_getD, List.getElem?_map, List.getElem?_range hl, Option.map_some, Option.getD_some,
        List.length_map, List.length_range]
      omega
    · simp [List.getD_eq_getElem?_getD, hl]
  · exact .heavy _
  · refine .distinct _ ?_
    rw [List.length_map, List.length_range]

/-! ## HEAVY (R237) -/

theorem heavyFind_eq (es : List (Nat × Nat × Nat)) (k : Nat) : heavyFind es k = (heavyCnt es k, heavyErr es k) := by
  have hp : (fun e : Nat × Nat × Nat => decide (e.1 = k)) = fun e => e.1 == k := rfl
  unfold heavyFind heavyCnt heavyErr
  rw [hp]
  cases es.find? fun e => e.1 == k <;> rfl

/-- Two entries stand in canonical order (R226). -/
def HeavyLe (a b : Nat × Nat × Nat) : Prop := b.2.1 < a.2.1 ∨ b.2.1 = a.2.1 ∧ a.1 ≤ b.1

theorem HeavyLe.trans {a b c : Nat × Nat × Nat} (h : HeavyLe a b) (k : HeavyLe b c) : HeavyLe a c := by
  unfold HeavyLe at *
  omega

theorem heavyLe_of_sorted {a b : Nat × Nat × Nat} (h : heavyBefore a b = true ∨ a = b) : HeavyLe a b := by
  obtain h | rfl := h
  · simp only [heavyBefore, Bool.or_eq_true, Bool.and_eq_true, decide_eq_true_eq, beq_iff_eq] at h
    unfold HeavyLe
    omega
  · exact .inr ⟨rfl, Nat.le_refl _⟩

theorem heavyLe_of_not_sorted {a b : Nat × Nat × Nat} (h : ¬(heavyBefore a b = true ∨ a = b)) : HeavyLe b a := by
  have hb : ¬(heavyBefore a b = true) := fun hb => h (.inl hb)
  simp only [heavyBefore, Bool.or_eq_true, Bool.and_eq_true, decide_eq_true_eq, beq_iff_eq] at hb
  unfold HeavyLe
  omega

theorem canonical_orderedInsert (a : Nat × Nat × Nat) {l : List (Nat × Nat × Nat)} (hl : Canonical l) :
    Canonical (l.orderedInsert (fun a b => heavyBefore a b = true ∨ a = b) a) := by
  induction l with
  | nil => exact List.pairwise_singleton _ a
  | cons b l ih =>
    obtain ⟨hb, hl'⟩ := List.pairwise_cons.1 hl
    by_cases h : heavyBefore a b = true ∨ a = b
    · rw [List.orderedInsert_cons_of_le (fun a b => heavyBefore a b = true ∨ a = b) l h]
      exact List.pairwise_cons.2 ⟨List.forall_mem_cons.2 ⟨heavyLe_of_sorted h, fun e he => (heavyLe_of_sorted h).trans (hb e he)⟩, hl⟩
    · rw [List.orderedInsert_of_not_le (fun a b => heavyBefore a b = true ∨ a = b) l h]
      refine List.pairwise_cons.2 ⟨fun e he => ?_, ih hl'⟩
      obtain rfl | he := (List.mem_orderedInsert _).1 he
      · exact heavyLe_of_not_sorted h
      · exact hb e he

theorem canonical_heavySort (l : List (Nat × Nat × Nat)) : Canonical (heavySort l) := by
  induction l with
  | nil => exact List.Pairwise.nil
  | cons a l ih => exact canonical_orderedInsert a ih

/-- The keys of a merge: those of A, then those that B alone has. -/
def mergedKeys (a b : List (Nat × Nat × Nat)) : List Nat := a.map (·.1) ++ (b.map (·.1)).filter fun k => !(a.any fun e => e.1 == k)

theorem any_key {a : List (Nat × Nat × Nat)} {k : Nat} : (a.any fun e => e.1 == k) = true ↔ k ∈ a.map (·.1) := by
  simp [List.any_eq_true]

theorem mem_mergedKeys {a b : List (Nat × Nat × Nat)} {k : Nat} : k ∈ mergedKeys a b ↔ k ∈ a.map (·.1) ∨ k ∈ b.map (·.1) := by
  rw [mergedKeys, List.mem_append, List.mem_filter, Bool.not_eq_true', ← Bool.not_eq_true, any_key]
  tauto

theorem nodup_mergedKeys {a b : List (Nat × Nat × Nat)} (ha : (a.map (·.1)).Nodup) (hb : (b.map (·.1)).Nodup) :
    (mergedKeys a b).Nodup := by
  refine List.Nodup.append ha (hb.filter _) fun k hk hk' => ?_
  have hn := (List.mem_filter.1 hk').2
  rw [any_key.2 hk] at hn
  cases hn

/-- The entry of a key after the counts of both are added. -/
def mergedEntry (a b : List (Nat × Nat × Nat)) (k : Nat) : Nat × Nat × Nat :=
  (k, min (heavyCnt a k + heavyCnt b k) 0xFFFFFFFF, min (heavyErr a k + heavyErr b k) 0xFFFFFFFF)

/-- The entries of a merge, before what is subtracted. -/
def mergedTable (a b : List (Nat × Nat × Nat)) : List (Nat × Nat × Nat) := heavySort ((mergedKeys a b).map (mergedEntry a b))

theorem mergeHeavy_eq (a b : List (Nat × Nat × Nat)) : mergeHeavy a b =
    if (mergedTable a b).length ≤ 320 then (mergedTable a b, 0)
    else
      let c := (((mergedTable a b)[320]?).map (·.2.1)).getD 0
      (heavySub c (mergedTable a b), c) := by
  have hentry : (fun k => (k, sat32 ((heavyFind a k).1 + (heavyFind b k).1), sat32 ((heavyFind a k).2 + (heavyFind b k).2))) =
      mergedEntry a b := by
    funext k
    rw [heavyFind_eq, heavyFind_eq]
    rfl
  unfold mergeHeavy
  dsimp only
  rw [hentry]
  rfl

theorem mergedTable_perm (a b : List (Nat × Nat × Nat)) : (mergedTable a b).Perm ((mergedKeys a b).map (mergedEntry a b)) :=
  List.perm_insertionSort _ _

theorem mergedTable_keys (a b : List (Nat × Nat × Nat)) : ((mergedTable a b).map (·.1)).Perm (mergedKeys a b) := by
  have h := (mergedTable_perm a b).map (·.1)
  rwa [List.map_map, show (fun e : Nat × Nat × Nat => e.1) ∘ mergedEntry a b = id from rfl, List.map_id] at h

theorem heavyMerged_mergeHeavy {a b : List (Nat × Nat × Nat)} (ha : (a.map (·.1)).Nodup) (hb : (b.map (·.1)).Nodup) :
    HeavyMerged a b (mergeHeavy a b).1 (mergeHeavy a b).2 := by
  have hkeys := mergedTable_keys a b
  refine ⟨mergedTable a b, hkeys.nodup_iff.2 (nodup_mergedKeys ha hb), canonical_heavySort _,
    fun k => hkeys.mem_iff.trans mem_mergedKeys, fun e he => ?_, fun hl => ?_, fun e he => ?_⟩
  · obtain ⟨k, -, rfl⟩ := List.mem_map.1 ((mergedTable_perm a b).mem_iff.1 he)
    exact ⟨rfl, rfl⟩
  · rw [mergeHeavy_eq, if_pos hl]
    exact ⟨rfl, rfl⟩
  · have hl : ¬(mergedTable a b).length ≤ 320 := fun hl => by
      rw [List.getElem?_eq_none hl] at he
      cases he
    rw [mergeHeavy_eq, if_neg hl, he]
    exact ⟨rfl, rfl⟩

/-! ## CAIRN (R233, R234) -/

theorem ascending_sortKeys (a b : List Nat) : Ascending (sortKeys (a ++ b)) a b :=
  ⟨List.perm_insertionSort _ _, List.pairwise_insertionSort _ _⟩

theorem Ascending.length {s a b : List Nat} (h : Ascending s a b) : s.length = a.length + b.length := by
  rw [h.1.length_eq, List.length_append]

theorem halve_eq (b : Nat) (s : List Nat) : halve b s = (upper b s, left s) := by
  have hc : s.length - s.length % 2 = s.length / 2 * 2 := by omega
  unfold halve upper left
  dsimp only
  rw [hc, Nat.mul_div_cancel _ (by decide)]

theorem length_upper (b : Nat) (s : List Nat) : (upper b s).length = s.length / 2 := by simp [upper]

theorem length_left (s : List Nat) : (left s).length = s.length % 2 := by
  rw [left, List.length_drop]
  omega

theorem length_getD_set_self (ls : List (List Nat)) (l : Nat) (ks : List Nat) : ((ls.set l ks).getD l []).length ≤ ks.length := by
  rw [List.getD_eq_getElem?_getD, List.getElem?_set_self']
  cases ls[l]? <;> simp

theorem Short.set {ls : List (List Nat)} (h : Short ls) (l : Nat) {ks : List Nat} (hk : ks.length ≤ 255) : Short (ls.set l ks) := by
  intro j
  by_cases hj : l = j
  · subst hj
    exact (length_getD_set_self ls l ks).trans hk
  · rw [List.getD_eq_getElem?_getD, List.getElem?_set_ne hj, ← List.getD_eq_getElem?_getD]
    exact h j

/-- Keys that enter a short level are at most 510, and half of them, or half with what is left over, at most 255. -/
theorem Short.length_le {ls : List (List Nat)} {l : Nat} {keys s : List Nat} (h : Short ls) (hk : keys.length ≤ 255)
    (hs : Ascending s (ls.getD l []) keys) : s.length ≤ 510 := by
  have := h l
  rw [hs.length]
  omega

theorem Ascending.length_halves {s s' : List Nat} {b : Nat} (h : Ascending s' (upper b s) (left s)) :
    s'.length = s.length / 2 + s.length % 2 := by
  rw [h.length, length_upper, length_left]

/-- Level 7 fits after as many compactions as `pushTop` has left. -/
theorem pushed_pushTop (n : Nat) (c : Cairn) (keys : List Nat) (h : (sortKeys (c.levels.getD 7 [] ++ keys)).length ≤ 124 * 2 ^ n) :
    Pushed 7 c keys (Cairn.pushTop (n + 1) c keys) := by
  induction n generalizing c keys with
  | zero =>
    rw [Cairn.pushTop]
    rw [Nat.pow_zero, Nat.mul_one] at h
    rw [if_pos h]
    exact .fits 7 c keys _ (ascending_sortKeys _ _) h
  | succ n ih =>
    rw [Cairn.pushTop]
    by_cases hl : (sortKeys (c.levels.getD 7 [] ++ keys)).length ≤ 124
    · rw [if_pos hl]
      exact .fits 7 c keys _ (ascending_sortKeys _ _) hl
    · rw [if_neg hl]
      refine .top c _ keys _ _ (ascending_sortKeys _ _) (by omega) (ascending_sortKeys _ _) ?_
      dsimp only
      rw [halve_eq]
      refine ih _ [] ?_
      have hs := (ascending_sortKeys (upper (takeCoin c.seed).1 (sortKeys (c.levels.getD 7 [] ++ keys)))
        (left (sortKeys (c.levels.getD 7 [] ++ keys)))).length_halves
      have hset := length_getD_set_self c.levels 7 (sortKeys (upper (takeCoin c.seed).1 (sortKeys (c.levels.getD 7 [] ++ keys)) ++
        left (sortKeys (c.levels.getD 7 [] ++ keys))))
      rw [List.append_nil, sortKeys, List.length_insertionSort]
      refine hset.trans ?_
      rw [Nat.pow_succ] at h
      omega

theorem pushed_push {n : Nat} {c : Cairn} {keys : List Nat} (hn : n ≤ 7) (hc : Short c.levels) (hk : keys.length ≤ 255) :
    Pushed (7 - n) c keys (Cairn.push n c keys) := by
  induction n generalizing c keys with
  | zero =>
    have := hc.length_le hk (ascending_sortKeys (c.levels.getD 7 []) keys)
    exact pushed_pushTop 3 c keys (by omega)
  | succ n ih =>
    have hlen := hc.length_le hk (ascending_sortKeys (c.levels.getD (7 - (n + 1)) []) keys)
    rw [Cairn.push]
    by_cases hl : (sortKeys (c.levels.getD (7 - (n + 1)) [] ++ keys)).length ≤ 124
    · rw [if_pos hl]
      exact .fits _ c keys _ (ascending_sortKeys _ _) hl
    · rw [if_neg hl]
      dsimp only
      rw [halve_eq]
      refine .up _ c _ keys _ (ascending_sortKeys _ _) (by omega) (by omega) ?_
      rw [show 7 - (n + 1) + 1 = 7 - n by omega]
      refine ih (by omega) (hc.set _ ?_) ?_
      · rw [length_left]
        omega
      · rw [length_upper]
        omega

theorem Pushed.short {l : Nat} {c d : Cairn} {keys : List Nat} (h : Pushed l c keys d) (hc : Short c.levels) (hk : keys.length ≤ 255) :
    Short d.levels := by
  induction h with
  | fits l c keys s _ hs => exact hc.set l (by omega)
  | up l c d keys s ha _ _ _ ih =>
    have := hc.length_le hk ha
    refine ih (hc.set l ?_) ?_
    · rw [length_left]
      omega
    · rw [length_upper]
      omega
  | top c d keys s s' ha _ ha' _ ih =>
    have := hc.length_le hk ha
    refine ih (hc.set 7 ?_) (Nat.zero_le _)
    rw [ha'.length_halves]
    omega

/-- A coin leaves the high half of SEED (R228). -/
theorem high_stepped (seed : DWord) : (stepped seed).extractLsb' 32 32 = seed.extractLsb' 32 32 := by
  unfold stepped
  ext j hj
  rw [BitVec.getElem_extractLsb', BitVec.getElem_extractLsb', BitVec.getLsbD_append]
  simp [hj]

theorem Pushed.high_seed {l : Nat} {c d : Cairn} {keys : List Nat} (h : Pushed l c keys d) :
    d.seed.extractLsb' 32 32 = c.seed.extractLsb' 32 32 := by
  induction h with
  | fits => rfl
  | up l c d keys s _ _ _ _ ih => exact ih.trans (high_stepped c.seed)
  | top c d keys s s' _ _ _ _ ih => exact ih.trans (high_stepped c.seed)

theorem Thinned.high_seed {n : Nat} {seed seed' : DWord} {c d : Cairn} (h : Thinned n seed c seed' d) :
    seed'.extractLsb' 32 32 = seed.extractLsb' 32 32 := by
  induction h with
  | none => rfl
  | more n seed seed' c d s s' _ _ _ ih => exact ih.trans (high_stepped seed)

theorem Thinned.short {n : Nat} {seed seed' : DWord} {c d : Cairn} (h : Thinned n seed c seed' d) (hc : Short c.levels) :
    Short d.levels := by
  induction h with
  | none => exact hc
  | more n seed seed' c d s s' ha ha' _ ih =>
    refine ih (hc.set 7 ?_)
    have := hc 7
    have hs := ha.length
    rw [List.length_nil] at hs
    rw [ha'.length_halves]
    omega

/-- Thinning does not look at the cairn's own SEED. -/
theorem Thinned.withSeed {n : Nat} {seed seed' : DWord} {c d : Cairn} (h : Thinned n seed c seed' d) (z : DWord) :
    Thinned n seed { c with seed := z } seed' { d with seed := z } := by
  induction h with
  | none => exact .none _ _
  | more n seed seed' c d s s' ha ha' _ ih => exact .more n seed seed' _ _ s s' ha ha' ih

theorem thinned_thin {n : Nat} {seed seed' : DWord} {c d : Cairn} (h : Thinned n (stepped seed) (c.thin seed).1 seed' d) :
    Thinned (n + 1) seed c seed' d := by
  refine .more n seed seed' c d _ _ (ascending_sortKeys _ _) (ascending_sortKeys _ _) ?_
  rw [Cairn.thin, halve_eq] at h
  rw [List.append_nil]
  exact h

theorem thinSelf_thinned (n : Nat) (a : Cairn) :
    ∃ a' seed, Thinned n a.seed a seed a' ∧ Cairn.thinSelf n a = { a' with seed := seed } := by
  induction n generalizing a with
  | zero => exact ⟨a, a.seed, .none _ _, rfl⟩
  | succ n ih =>
    obtain ⟨a', seed, ht, he⟩ := ih { (a.thin a.seed).1 with seed := (a.thin a.seed).2 }
    exact ⟨{ a' with seed := a.seed }, seed, thinned_thin (ht.withSeed a.seed), he⟩

theorem thinOther_thinned (n : Nat) (a b : Cairn) :
    ∃ b' seed, Thinned n a.seed b seed b' ∧ Cairn.thinOther n a b = ({ a with seed := seed }, b') := by
  induction n generalizing a b with
  | zero => exact ⟨b, a.seed, .none _ _, rfl⟩
  | succ n ih =>
    obtain ⟨b', seed, ht, he⟩ := ih { a with seed := (b.thin a.seed).2 } (b.thin a.seed).1
    exact ⟨b', seed, thinned_thin ht, he⟩

/-- A cairn after the keys of another's first `n` levels have entered it. -/
def Cairn.entered (a b : Cairn) (n : Nat) : Cairn := (List.range n).foldl (fun a l => Cairn.push (7 - l) a (b.levels.getD l [])) a

theorem Cairn.entered_succ (a b : Cairn) (n : Nat) :
    a.entered b (n + 1) = Cairn.push (7 - n) (a.entered b n) (b.levels.getD n []) := by
  rw [Cairn.entered, List.range_succ, List.foldl_append]
  rfl

theorem Cairn.entered_pushed {a b : Cairn} {n : Nat} (hs : Short (a.entered b n).levels) (hb : Short b.levels) (hn : n < 8) :
    Pushed n (a.entered b n) (b.levels.getD n []) (a.entered b (n + 1)) := by
  have h := pushed_push (n := 7 - n) (by omega) hs (hb n)
  rw [show 7 - (7 - n) = n by omega] at h
  rw [entered_succ]
  exact h

theorem Cairn.entered_keeps {a b : Cairn} (ha : Short a.levels) (hb : Short b.levels) {n : Nat} (hn : n ≤ 8) :
    Short (a.entered b n).levels ∧ (a.entered b n).seed.extractLsb' 32 32 = a.seed.extractLsb' 32 32 := by
  induction n with
  | zero => exact ⟨ha, rfl⟩
  | succ n ih =>
    obtain ⟨hs, hseed⟩ := ih (by omega)
    have hp := Cairn.entered_pushed hs hb hn
    exact ⟨hp.short hs (hb n), hp.high_seed.trans hseed⟩

/-- A cairn that another's keys have entered, with the counts of both. -/
def Cairn.joined (e b : Cairn) : Cairn :=
  { e with
    cc := (List.range 8).map fun l => e.cc.getD l 0 + b.cc.getD l 0
    cmp := e.cmp + b.cmp
    exact := e.exact && b.exact }

theorem Cairn.seed_joined (e b : Cairn) : (e.joined b).seed = e.seed := rfl

theorem cairnMerged_merge {a b : Cairn} (ha : Short a.levels) (hb : Short b.levels) :
    CairnMerged a b (a.merge b) ∧ (a.merge b).seed.extractLsb' 32 32 = a.seed.extractLsb' 32 32 := by
  obtain ⟨a', seed, hta, hea⟩ := thinSelf_thinned (b.tws - a.tws) a
  obtain ⟨b', seed', htb, heb⟩ := thinOther_thinned (a'.tws - b.tws) { a' with seed := seed } b
  have hm : a.merge b = (({ a' with seed := seed' } : Cairn).entered b' 8).joined b' := by
    unfold Cairn.merge
    dsimp only
    rw [hea, heb]
    rfl
  have hkeeps {n : Nat} (hn : n ≤ 8) := Cairn.entered_keeps (a := { a' with seed := seed' }) (b := b') (hta.short ha) (htb.short hb) hn
  refine ⟨⟨a', b', seed, seed', fun n => ({ a' with seed := seed' } : Cairn).entered b' n, hta, htb, rfl, fun l hl => ?_, hm⟩, ?_⟩
  · exact Cairn.entered_pushed (hkeeps (by omega)).1 (htb.short hb) hl
  · rw [hm, Cairn.seed_joined]
    exact (hkeeps (Nat.le_refl 8)).2.trans (htb.high_seed.trans hta.high_seed)

/-! ## Every kind -/

variable {a b : Summ}

theorem merge_moment {x y x' y' : Word} (ha : a.body = .moment x y) (hb : b.body = .moment x' y') : a.merge b =
    { a.mergeHead b with
      body := .moment (mergeMoment a.count b.count (x, y) (x', y')).1 (mergeMoment a.count b.count (x, y) (x', y')).2 } := by
  simp only [Summ.merge, ha, hb]

theorem merge_extreme {x y x' y' : DWord} (ha : a.body = .extreme x y) (hb : b.body = .extreme x' y') : a.merge b =
    { a.mergeHead b with
      body :=
        if b.count = 0 then .extreme x y else if a.count = 0 then .extreme (a.aidx + x') (a.aidx + y')
        else .extreme (if b.minKey < a.minKey then a.aidx + x' else x) (if a.maxKey < b.maxKey then a.aidx + y' else y) } := by
  simp only [Summ.merge, ha, hb]

theorem merge_lse2 {x y x' y' : Word} (ha : a.body = .lse2 x y) (hb : b.body = .lse2 x' y') : a.merge b =
    { a.mergeHead b with body := .lse2 (mergeLse a.count b.count (x, y) (x', y')).1 (mergeLse a.count b.count (x, y) (x', y')).2 } := by
  simp only [Summ.merge, ha, hb]

theorem merge_cairn {l l' : List (List Nat)} {cc cc' : List Word} (ha : a.body = .cairn l cc) (hb : b.body = .cairn l' cc') :
    a.merge b = (a.mergeHead b).ofCairn ((a.toCairn l cc).merge (b.toCairn l' cc')) := by
  simp only [Summ.merge, ha, hb]

theorem merge_heavy {es es' : List (Nat × Nat × Nat)} (ha : a.body = .heavy es) (hb : b.body = .heavy es') : a.merge b =
    { a.mergeHead b with
      body := .heavy (mergeHeavy es es').1, cmp := a.cmp + b.cmp + BitVec.ofNat 64 (mergeHeavy es es').2
      exact := a.exact && b.exact && ((mergeHeavy es es').2 == 0) } := by
  simp only [Summ.merge, ha, hb]

theorem merge_distinct {rs rs' : List Nat} (ha : a.body = .distinct rs) (hb : b.body = .distinct rs') :
    a.merge b = { a.mergeHead b with body := .distinct (rs.zipWith max rs') } := by
  simp only [Summ.merge, ha, hb]

theorem momentMerged_mergeMoment (ca cb : DWord) (p q : Word × Word) : MomentMerged ca p cb q (mergeMoment ca cb p q) := by
  refine ⟨fun h => if_pos h, fun h h0 => ?_, fun h h0 => ?_⟩
  · rw [mergeMoment, if_neg h, if_pos h0]
  · rw [mergeMoment, if_neg h, if_neg h0]

theorem lseMerged_mergeLse (ca cb : DWord) (p q : Word × Word) : LseMerged ca p cb q (mergeLse ca cb p q) := by
  refine ⟨fun h => if_pos h, fun h h0 => ?_, fun h h0 => ?_⟩
  · rw [mergeLse, if_neg h, if_pos h0]
  · rw [mergeLse, if_neg h, if_neg h0]
    unfold lseCombine
    dsimp only
    split_ifs
    · exact ⟨rfl, rfl⟩
    · exact ⟨rfl, rfl⟩
    · exact ⟨rfl, rfl⟩

theorem getD_zipWith_max {rs rs' : List Nat} (h : rs.length = 4096) (h' : rs'.length = 4096) :
    (rs.zipWith max rs').length = 4096 ∧ ∀ j, j < 4096 → (rs.zipWith max rs').getD j 0 = max (rs.getD j 0) (rs'.getD j 0) := by
  refine ⟨by rw [List.length_zipWith, h, h', Nat.min_self], fun j hj => ?_⟩
  have h1 : j < rs.length := h ▸ hj
  have h2 : j < rs'.length := h' ▸ hj
  rw [List.getD_eq_getElem _ _ (by rw [List.length_zipWith, h, h', Nat.min_self]; exact hj), List.getElem_zipWith,
    List.getD_eq_getElem _ _ h1, List.getD_eq_getElem _ _ h2]

/-- The rule of a kind for the body after a merge, and for what the kind keeps in the header (R229 to R232, R234, R237, R238). -/
def BodyMerged (a b m : Summ) : SummBody → SummBody → Prop
  | .moment x y, .moment x' y' => ∃ r, m.body = .moment r.1 r.2 ∧ MomentMerged a.count (x, y) b.count (x', y') r
  | .extreme x y, .extreme x' y' => m.body =
    if b.count = 0 then .extreme x y else if a.count = 0 then .extreme (a.aidx + x') (a.aidx + y')
    else .extreme (if b.minKey < a.minKey then a.aidx + x' else x) (if a.maxKey < b.maxKey then a.aidx + y' else y)
  | .lse2 x y, .lse2 x' y' => ∃ r, m.body = .lse2 r.1 r.2 ∧ LseMerged a.count (x, y) b.count (x', y') r
  | .cairn l cc, .cairn l' cc' =>
    ∃ c, CairnMerged ⟨l, cc, a.tws, a.cmp, a.exact, a.seed⟩ ⟨l', cc', b.tws, b.cmp, b.exact, b.seed⟩ c ∧
      m.body = .cairn c.levels c.cc ∧ m.tws = c.tws ∧ m.cmp = c.cmp ∧ m.exact = c.exact ∧ m.seed = c.seed
  | .heavy es, .heavy es' => (es.map (·.1)).Nodup → (es'.map (·.1)).Nodup →
    ∃ r c, HeavyMerged es es' r c ∧ m.body = .heavy r ∧ m.cmp = a.cmp + b.cmp + BitVec.ofNat 64 c ∧
      m.exact = (a.exact && b.exact && (c == 0))
  | .distinct rs, .distinct rs' =>
    ∃ r, m.body = .distinct r ∧ r.length = 4096 ∧ ∀ j, j < 4096 → r.getD j 0 = max (rs.getD j 0) (rs'.getD j 0)
  | _, _ => True

/-- The header after a merge, whatever the kind. -/
def HeadMerged (a b m : Summ) : Prop :=
  (m.kind = a.kind ∧ m.ktype = a.ktype ∧ m.seed.extractLsb' 32 32 = a.seed.extractLsb' 32 32) ∧
  (m.count = a.count + b.count ∧ m.nan = a.nan + b.nan ∧ m.aidx = a.aidx + b.aidx) ∧
  (m.minKey = min a.minKey b.minKey ∧ m.maxKey = max a.maxKey b.maxKey)

theorem Merged.of_body {m : Summ} (hh : HeadMerged a b m)
    (hs : a.kind ≠ 4 → m.tws = a.tws ∧ m.seed = a.seed ∧ (a.kind ≠ 5 → m.cmp = a.cmp ∧ m.exact = (a.exact && b.exact)))
    (h : BodyMerged a b m a.body b.body) : Merged a b m where
  kind := hh.1
  counts := hh.2.1
  keys := hh.2.2
  small := hs
  moment _ _ _ _ hx hy := by rwa [hx, hy] at h
  extreme _ _ _ _ hx hy := by rwa [hx, hy] at h
  lse2 _ _ _ _ hx hy := by rwa [hx, hy] at h
  cairn _ _ _ _ hx hy := by rwa [hx, hy] at h
  heavy _ _ hx hy := by rwa [hx, hy] at h
  distinct _ _ hx hy := by rwa [hx, hy] at h

/-- A merge that changes the body alone beside the header's part. -/
theorem merged_of_head {body : SummBody} (h : BodyMerged a b { a.mergeHead b with body := body } a.body b.body) :
    Merged a b { a.mergeHead b with body := body } :=
  .of_body ⟨⟨rfl, rfl, rfl⟩, ⟨rfl, rfl, rfl⟩, ⟨rfl, rfl⟩⟩ (fun _ => ⟨rfl, rfl, fun _ => ⟨rfl, rfl⟩⟩) h

/-- The merge of two summaries of one kind is a merge. -/
theorem merged_merge {k : Nat} (hk : a.kind = k) (ha : a.body.OfKind k) (hb : b.body.OfKind k) : Merged a b (a.merge b) := by
  generalize hx : a.body = x at ha
  generalize hy : b.body = y at hb
  cases ha with
  | moment p q =>
    obtain ⟨p', q'⟩ := hb
    rw [merge_moment hx hy]
    refine merged_of_head ?_
    rw [hx, hy]
    exact ⟨_, rfl, momentMerged_mergeMoment _ _ _ _⟩
  | extreme p q =>
    obtain ⟨p', q'⟩ := hb
    rw [merge_extreme hx hy]
    refine merged_of_head ?_
    rw [hx, hy]
    rfl
  | lse2 p q =>
    obtain ⟨p', q'⟩ := hb
    rw [merge_lse2 hx hy]
    refine merged_of_head ?_
    rw [hx, hy]
    exact ⟨_, rfl, lseMerged_mergeLse _ _ _ _⟩
  | cairn l cc hl =>
    cases hb with | cairn l' cc' hl' => ?_
    obtain ⟨hm, hseed⟩ := cairnMerged_merge (a := a.toCairn l cc) (b := b.toCairn l' cc') hl hl'
    rw [merge_cairn hx hy]
    generalize (a.toCairn l cc).merge (b.toCairn l' cc') = c at hm hseed
    refine .of_body ⟨⟨rfl, rfl, hseed⟩, ⟨rfl, rfl, rfl⟩, ⟨rfl, rfl⟩⟩ (fun h4 => absurd hk h4) ?_
    rw [hx, hy]
    exact ⟨c, hm, rfl, rfl, rfl, rfl, rfl⟩
  | heavy es =>
    cases hb with | heavy es' => ?_
    have hm := heavyMerged_mergeHeavy (a := es) (b := es')
    rw [merge_heavy hx hy]
    generalize mergeHeavy es es' = r at hm
    refine .of_body ⟨⟨rfl, rfl, rfl⟩, ⟨rfl, rfl, rfl⟩, ⟨rfl, rfl⟩⟩ (fun _ => ⟨rfl, rfl, fun h5 => absurd hk h5⟩) ?_
    rw [hx, hy]
    exact fun hn hn' => ⟨r.1, r.2, hm hn hn', rfl, rfl, rfl⟩
  | distinct rs hr =>
    cases hb with | distinct rs' hr' => ?_
    rw [merge_distinct hx hy]
    refine merged_of_head ?_
    rw [hx, hy]
    exact ⟨_, rfl, getD_zipWith_max hr hr'⟩

end Sys2Proof.Machine
end

section
/-! # Summary images: their bytes in registers and in memory (R226, R248) -/

namespace Sys2Proof.Machine

/-! ## Bytes -/

theorem length_bytesOfNat (n v : Nat) : (bytesOfNat n v).length = n := by
  induction n generalizing v with
  | zero => rfl
  | succ n ih => rw [bytesOfNat, List.length_cons, ih]

theorem length_padTo (n : Nat) (b : List Byte) : (padTo n b).length = n := by
  rw [padTo, List.length_take, List.length_append, List.length_replicate]
  omega

/-- What stands before the zeros. -/
theorem take_padTo {n k : Nat} {b : List Byte} (hk : k ≤ b.length) (hn : k ≤ n) : (padTo n b).take k = b.take k := by
  rw [padTo, List.take_take, Nat.min_eq_left hn, List.take_append_of_le_length hk]

/-- A field of the low bytes does not see the bytes after it. -/
theorem imgNat_take (b : List Byte) {n off k : Nat} (h : off + k ≤ n) : imgNat (b.take n) off k = imgNat b off k := by
  rw [imgNat, imgNat, List.drop_take, List.take_take, Nat.min_eq_left (by omega)]

theorem imageSize_cases (k : Nat) : imageSize k = 128 ∨ imageSize k = 4096 := by
  unfold imageSize
  split
  · exact .inr rfl
  · exact .inl rfl

/-! ## Registers -/

theorem Mem.get_putBytes_below (m : Mem) (bs : List Byte) {j k : Nat} (h : j < k) : (m.putBytes k bs).get j = m.get j := by
  induction bs generalizing m k with
  | nil => rfl
  | cons b bs ih => rw [Mem.putBytes, ih _ (by omega), Mem.get_put_other _ (by omega)]

theorem Mem.get_putBytes (m : Mem) (k : Nat) (bs : List Byte) {j : Nat} (h : j < bs.length) : (m.putBytes k bs).get (k + j) = bs[j] := by
  induction bs generalizing m k j with
  | nil => exact absurd h (Nat.not_lt_zero j)
  | cons b bs ih =>
    rw [Mem.putBytes]
    cases j with
    | zero => exact (Mem.get_putBytes_below _ _ (Nat.lt_succ_self k)).trans (Mem.get_put_same m k b)
    | succ j =>
      rw [List.length_cons, Nat.succ_lt_succ_iff] at h
      rw [show k + (j + 1) = k + 1 + j by omega, ih _ _ h, List.getElem_cons_succ]

theorem Mem.bytes_putBytes (m : Mem) (k : Nat) (bs : List Byte) : (m.putBytes k bs).bytes k bs.length = bs := by
  refine List.ext_getElem (by simp [Mem.bytes]) fun j _ h => ?_
  simp only [Mem.bytes, List.getElem_map, List.getElem_range]
  exact Mem.get_putBytes m k bs h

theorem Tile.summBytes_setSumm (t : Tile) (d : HReg) (x : Summ) : (t.setSumm d x).summBytes d = padTo 4096 (writeImage x) := by
  have h := t.h.bytes_putBytes (4096 * d.toNat) (padTo 4096 (writeImage x))
  rwa [length_padTo] at h

/-- An image is of the size of the kind that it shows. -/
def Whole (img : List Byte) : Prop := img.length = imageSize (imgNat img 0 1)

theorem Whole.length_pos {img : List Byte} (h : Whole img) : 1 ≤ img.length ∧ img.length ≤ 4096 := by
  obtain hn | hn := imageSize_cases (imgNat img 0 1) <;> rw [h, hn] <;> decide

theorem imageOk_iff {img : List Byte} (h : imageOk img = true) :
    (1 ≤ (readImage img).kind ∧ (readImage img).kind ≤ 6) ∧ img = writeImage (readImage img) := by
  simp only [imageOk, Bool.and_eq_true, decide_eq_true_eq, beq_iff_eq] at h
  obtain ⟨⟨⟨⟨⟨⟨⟨h1, h6⟩, -⟩, -⟩, -⟩, -⟩, -⟩, hw⟩ := h
  exact ⟨⟨h1, h6⟩, hw⟩

/-- A register holds the valid image that is written into it. -/
theorem Tile.summ_setSumm {img : List Byte} (t : Tile) (d : HReg) (hw : Whole img) (hok : imageOk img = true) :
    (t.setSumm d (readImage img)).summ d = readImage img := by
  obtain ⟨h1, hn⟩ := hw.length_pos
  have hbytes := t.summBytes_setSumm d (readImage img)
  rw [← (imageOk_iff hok).2] at hbytes
  have hkind : imgNat (padTo 4096 img) 0 1 = imgNat img 0 1 := by
    have hb (b : List Byte) : imgNat (b.take 1) 0 1 = imgNat b 0 1 := imgNat_take b (Nat.le_refl (0 + 1))
    rw [← hb, take_padTo h1 (by decide), hb]
  rw [Tile.summ, Tile.summImage, hbytes, hkind, ← hw, take_padTo (Nat.le_refl _) hn, List.take_length]

theorem State.summ_setSumm {img : List Byte} (s : State) (d : HReg) (hw : Whole img) (hok : imageOk img = true) :
    (s.setSumm d (readImage img)).here.summ d = readImage img := by
  rw [State.setSumm, State.here_modHere]
  exact s.here.summ_setSumm d hw hok

/-! ## The 16-byte pieces of an image -/

theorem mapM_ok {α β : Type} {f : α → Except Exit β} {l : List α} {r : List β} (h : l.mapM f = .ok r) :
    List.Forall₂ (fun a b => f a = .ok b) l r := by
  induction l generalizing r with
  | nil =>
    cases h
    exact .nil
  | cons a l ih =>
    rw [List.mapM_cons] at h
    cases hf : f a with
    | error e =>
      rw [hf] at h
      cases h
    | ok b =>
      rw [hf] at h
      cases hl : l.mapM f with
      | error e =>
        rw [hl] at h
        cases h
      | ok bs =>
        rw [hl] at h
        cases h
        exact .cons hf (ih hl)

theorem mem_mapM {α β : Type} {f : α → Except Exit β} {l : List α} {r : List β} (h : l.mapM f = .ok r) {b : β} (hb : b ∈ r) :
    ∃ a, f a = .ok b := by
  have hf := mapM_ok h
  clear h
  induction hf with
  | nil => cases hb
  | @cons a c l r hac _ ih =>
    obtain rfl | hb := List.mem_cons.1 hb
    · exact ⟨a, hac⟩
    · exact ih hb

/-- A failure at the first of a list. -/
theorem mapM_head_error {α β : Type} {f : α → Except Exit β} {a : α} {l : List α} {e : Exit} (h : f a = .error e) :
    (a :: l).mapM f = .error e := by
  rw [List.mapM_cons, h]
  rfl

theorem mapM_append_ok {α β : Type} {f : α → Except Exit β} {l l' : List α} {r : List β} (h : (l ++ l').mapM f = .ok r) :
    l.mapM f = .ok (r.take l.length) ∧ l'.mapM f = .ok (r.drop l.length) := by
  rw [List.mapM_append] at h
  cases hl : l.mapM f with
  | error e =>
    rw [hl] at h
    cases h
  | ok bs =>
    rw [hl] at h
    have hn := (mapM_ok hl).length_eq
    cases hl' : l'.mapM f with
    | error e =>
      rw [hl'] at h
      cases h
    | ok bs' =>
      rw [hl'] at h
      cases h
      rw [hn, List.take_left, List.drop_left]
      exact ⟨rfl, rfl⟩

variable {s : State} {u : Purpose} {ea : DWord} {n : Nat} {ps : List Piece}

/-- The piece of an image at its place. -/
def State.imagePiece (s : State) (u : Purpose) (ea : DWord) (j : Nat) : Except Exit Piece :=
  (s.targetAt u ea (ea + BitVec.ofNat 64 (16 * j)) 16).map fun t => t.piece 16

theorem imagePieces_eq (k : Nat) : s.imagePieces u ea k n = ((List.range (n / 16)).drop (k / 16)).mapM (s.imagePiece u ea) := rfl

theorem imagePieces_length (h : s.imagePieces u ea 0 n = .ok ps) : ps.length = n / 16 := by
  have hl := (mapM_ok h).length_eq
  rw [List.length_drop, List.length_range] at hl
  exact hl.symm

theorem imagePieces_size (h : s.imagePieces u ea 0 n = .ok ps) {p : Piece} (hp : p ∈ ps) : p.size = 16 := by
  obtain ⟨j, hj⟩ := mem_mapM h hp
  cases ht : s.targetAt u ea (ea + BitVec.ofNat 64 (16 * j)) 16 with
  | error e =>
    rw [ht] at hj
    cases hj
  | ok t =>
    rw [ht] at hj
    cases hj
    rfl

/-- The first 128 bytes and the rest of a long image. -/
theorem imagePieces_split (h : s.imagePieces u ea 0 4096 = .ok ps) :
    s.imagePieces u ea 0 128 = .ok (ps.take 8) ∧ s.imagePieces u ea 128 4096 = .ok (ps.drop 8) := by
  rw [imagePieces_eq] at h ⊢
  have hr : (List.range (4096 / 16)).drop (0 / 16) = List.range 8 ++ (List.range (4096 / 16)).drop (128 / 16) := by
    have ht : (List.range (4096 / 16)).take 8 = List.range 8 := List.take_range
    rw [← ht]
    exact (List.take_append_drop 8 _).symm
  rw [hr] at h
  exact mapM_append_ok h

/-- The first piece's fault is the image's. -/
theorem imagePieces_error {e : Exit} (hn : 16 ≤ n) (h : s.target u ea 16 = .error e) : s.imagePieces u ea 0 n = .error e := by
  have hr : (List.range (n / 16)).drop (0 / 16) = 0 :: (List.range (n / 16 - 1)).map Nat.succ := by
    rw [show n / 16 = n / 16 - 1 + 1 by omega, List.range_succ_eq_map]
    rfl
  rw [imagePieces_eq, hr]
  refine mapM_head_error ?_
  rw [State.imagePiece, Nat.mul_zero, BitVec.add_zero]
  exact congrArg (Except.map _) h

/-- The bytes of pieces in memory, in order. -/
def State.imageBytes (s : State) (ps : List Piece) : List Byte := ps.flatMap fun p => bytesOfNat 16 (s.mem.readNat p.key p.size)

theorem imageBytes_cons (s : State) (p : Piece) (ps : List Piece) :
    s.imageBytes (p :: ps) = bytesOfNat 16 (s.mem.readNat p.key p.size) ++ s.imageBytes ps := List.flatMap_cons

theorem imageBytes_length (s : State) (ps : List Piece) : (s.imageBytes ps).length = 16 * ps.length := by
  induction ps with
  | nil => rfl
  | cons p ps ih =>
    rw [imageBytes_cons, List.length_append, length_bytesOfNat, ih, List.length_cons]
    omega

theorem imageBytes_take (s : State) (ps : List Piece) (k : Nat) : s.imageBytes (ps.take k) = (s.imageBytes ps).take (16 * k) := by
  have h : s.imageBytes ps = s.imageBytes (ps.take k) ++ s.imageBytes (ps.drop k) := by
    rw [State.imageBytes, State.imageBytes, State.imageBytes, ← List.flatMap_append, List.take_append_drop]
  have hl := imageBytes_length s (ps.take k)
  rw [List.length_take] at hl
  by_cases hk : k ≤ ps.length
  · rw [Nat.min_eq_left hk] at hl
    rw [h, ← hl, List.take_left]
  · rw [List.take_of_length_le (show ps.length ≤ k by omega), List.take_of_length_le]
    rw [imageBytes_length]
    omega

end Sys2Proof.Machine
end

section
/-! # Summary images read and written at once (R105, R226, R248) -/

namespace Sys2Proof.Machine

variable {s t u v : State} {p : Piece} {ps : List Piece} {ea : DWord} {n : Nat} {d : HReg}

/-! ## Reads that go on with an access under way -/

/-- The pieces are the tile's own, free, whole and good: what a read of them looks at, whatever access the context has under way. -/
structure Readable (s : State) (ps : List Piece) : Prop where
  own : ∀ p ∈ ps, p.home = none ∧ s.bankHeld p.key = false
  sound : ∀ p ∈ ps, flyEnd ≤ p.key ∨ (s.tile (p.key / 2 ^ 25)).fly.sound = true
  good : Good s ps

theorem AtOnce.readable (ha : AtOnce s ps) (hg : Good s ps) : Readable s ps := ⟨ha.own, ha.sound.2, hg⟩

theorem Readable.tail (h : Readable s (p :: ps)) : Readable s ps :=
  ⟨fun q hq => h.own q (.tail _ hq), fun q hq => h.sound q (.tail _ hq), fun q hq => h.good q (.tail _ hq)⟩

theorem AfterMeeting.readable (h : AfterMeeting u t) (hr : Readable u ps) : Readable t ps :=
  ⟨fun p hp => by rw [h.bankHeld]; exact hr.own p hp, fun p hp => by rw [h.fly]; exact hr.sound p hp, h.good hr.good⟩

theorem State.fly_modCur (s : State) (f : Ctx → Ctx) (r : Nat) : ((s.modCur f).tile r).fly = (s.tile r).fly := by
  by_cases hr : r = s.focus.rank
  · rw [hr, State.modCur, State.tile_modCtx, Tile.setCtx_fly]
  · rw [State.modCur, State.tile_modCtx_other _ hr]

theorem State.late_modCur (s : State) (f : Ctx → Ctx) (r : Nat) : ((s.modCur f).tile r).late = (s.tile r).late := by
  by_cases hr : r = s.focus.rank
  · rw [hr, State.modCur, State.tile_modCtx, Tile.setCtx_late]
  · rw [State.modCur, State.tile_modCtx_other _ hr]

/-- A change of the context leaves what a read looks at. -/
theorem Readable.modCur (h : Readable s ps) (f : Ctx → Ctx) : Readable (s.modCur f) ps := by
  refine ⟨fun p hp => ?_, fun p hp => ?_, fun p hp => ⟨?_, ?_⟩⟩
  · have := h.own p hp
    rwa [State.bankHeld, ← s.fly_modCur f] at this
  · rw [s.fly_modCur f]
    exact h.sound p hp
  · have := (h.good p hp).1
    rwa [State.poisoned, ← s.fly_modCur f] at this
  · have := (h.good p hp).2
    rwa [State.portFails, ← s.late_modCur f] at this

/-- A readable piece is read, and the context meets its logical times. -/
theorem advanceRead_cons (h : Readable s (p :: ps)) (x : Xact) : ∃ u, AfterMeeting s u ∧
    s.advanceRead s.focus.rank s.focus.ctx x (p :: ps) =
      u.advanceRead u.focus.rank u.focus.ctx { x with done := x.done ++ [s.mem.read 128 p.key p.size] } ps := by
  obtain ⟨ho, hk⟩ := h.own p (.head _)
  obtain ⟨hp, hf⟩ := h.good p (.head _)
  have hs := readSeen_sound (n := p.size) (h.sound p (.head _))
  have hst := afterMeeting_stampRead s p.key s.cur.pts.time 0
  let w := s.stampRead s.focus.rank p.key s.cur.pts.time 0
  let m : Time := Time.join (s.published s.focus.rank p.window) ⟨w.2.1, s.knownAt p.key p.size⟩
  refine ⟨w.1.modCur (·.meet m), hst.trans (afterMeeting_meet w.1 m), ?_⟩
  have hw : w.1.focus = s.focus := hst.focus
  have hfocus : (w.1.modCur (·.meet m)).focus = s.focus := hw
  simp only [State.advanceRead, ho, hk, hs, hp, hf, Bool.false_eq_true, if_false]
  rw [hfocus, State.modCur, hw]
  rfl

theorem advanceRead_readable (h : Readable s ps) (x : Xact) : ∃ v, AfterMeeting s v ∧
    s.advanceRead s.focus.rank s.focus.ctx x ps =
      (v, { x with todo := [], sent := false, done := x.done ++ ps.map fun p => s.mem.read 128 p.key p.size }) := by
  induction ps generalizing s x with
  | nil => exact ⟨s, .refl s, by simp [State.advanceRead]⟩
  | cons p ps ih =>
    obtain ⟨u, hu, he⟩ := advanceRead_cons h x
    obtain ⟨v, hv, hev⟩ := ih (hu.readable h.tail) { x with done := x.done ++ [s.mem.read 128 p.key p.size] }
    refine ⟨v, hu.trans hv, ?_⟩
    rw [he, hev, hu.mem, List.append_assoc]
    rfl

/-- An access that is cleared is as if it had not been under way. -/
theorem AfterMeeting.clear (hx : s.cur.xact = none) (x : Option Xact)
    (h : AfterMeeting (s.setCur { s.cur with xact := x }) v) : AfterMeeting s (v.modCur fun c => { c with xact := none }) := by
  have hm := h.modCur (fun c => { c with xact := none }) fun _ _ => rfl
  have hs : (s.setCur { s.cur with xact := x }).setCur { (s.setCur { s.cur with xact := x }).cur with xact := none } = s.modCur id := by
    have hc : ({ s.cur with xact := none } : Ctx) = s.cur := by rw [← hx]
    rw [State.setCur, State.setCur, State.cur_modCur, State.modCur_eq_setCur s id, id, ← hc]
    exact State.modCtx_modCtx s _ _ _ _
  rw [hs] at hm
  exact (AfterMeeting.of_modHere _ s.here.leases s.cur.pts ((Tile.setCtx_ctx _ _).trans (Tile.eq_setCtx_pts _ _ _))).trans hm

/-- A read under way whose pieces are all there after this step ends it. -/
theorem readEach_resumed {x y : Xact} (hx : s.cur.xact = some x) (hs : x.sent = false)
    (hps : ps.drop x.done.length = x.todo) (he : s.advanceRead s.focus.rank s.focus.ctx x x.todo = (v, y)) (hy : y.bad = none)
    (hd : y.todo = []) (blame : Nat → Byte → Exit) :
    s.readEach blame ps = .ok (v.modCtx s.focus.rank s.focus.ctx fun c => { c with xact := none }, y.done) := by
  have hsame : (if x.sent || x.bad.isSome || ps.all (fun p => p.window.isNone) then x else { x with todo := ps.drop x.done.length }) = x := by
    rw [hps]
    exact ite_self x
  unfold State.readEach
  simp only [hx, hsame]
  simp only [hs, he, hy, hd, Bool.false_eq_true, if_false]
  rfl

/-- The rest of a read whose first pieces are done. -/
theorem readPieces_resumed {todo : List Piece} {done : List (BitVec 128)} (ha : AtOnce s todo) (hg : Good s todo) (hu : AfterMeeting s u)
    (hps : ps.drop done.length = todo) (ea : DWord) :
    ∃ v, (u.modCur fun c => { c with xact := some { todo := todo, done := done } }).readPieces ea ps =
      .ok (v, done ++ todo.map fun p => s.mem.read 128 p.key p.size) ∧ AfterMeeting s v := by
  have hr : Readable (u.modCur fun c => { c with xact := some { todo := todo, done := done } }) todo :=
    (hu.readable (ha.readable hg)).modCur _
  have hmem : (u.modCur fun c => { c with xact := some { todo := todo, done := done } }).mem = s.mem := hu.mem
  obtain ⟨v, hv, he⟩ := advanceRead_readable hr { todo := todo, done := done }
  rw [hmem] at he
  have hv' := (hu.modCur (fun c => { c with xact := some { todo := todo, done := done } }) fun _ _ => rfl).trans hv
  have hread := readEach_resumed (State.cur_modCur u _ ▸ rfl) rfl hps he rfl rfl fun _ code => .trap code 0 ea
  rw [← hv.focus] at hread
  exact ⟨v.modCur fun c => { c with xact := none }, hread, hv'.clear ha.idle.1⟩

/-! ## The image at a pointer -/

theorem AtOnce.sub {qs : List Piece} (ha : AtOnce s ps) (h : ∀ p ∈ qs, p ∈ ps) : AtOnce s qs :=
  ⟨ha.idle, fun p hp => ha.own p (h p hp), ⟨ha.sound.1, fun p hp => ha.sound.2 p (h p hp)⟩, fun hc p hp => ha.matrix hc p (h p hp)⟩

theorem imageAligned_ok (hs : (spaceOf ea).isSome = true) (h : ea.toNat % n = 0) : imageAligned ea n = .ok () := by
  rw [imageAligned, if_neg (by rw [Option.isNone_iff_eq_none]; exact Option.isSome_iff_ne_none.1 hs), if_neg (not_not.2 h)]

theorem imageAligned_space (hs : spaceOf ea = none) : imageAligned ea n = .error (.trap 0x05 0 ea) := by
  rw [imageAligned, if_pos (by rw [hs]; rfl)]

theorem imageAligned_offset (hs : spaceOf ea ≠ none) (h : ea.toNat % n ≠ 0) : imageAligned ea n = .error (.trap 0x04 0 ea) := by
  rw [imageAligned, if_neg (by rwa [Option.isNone_iff_eq_none]), if_pos h]

theorem Mem.readNat_lt (m : Mem) (k n : Nat) : m.readNat k n < 256 ^ n := by
  induction n generalizing k with
  | zero => exact Nat.one_pos
  | succ n ih =>
    have hb := (m.get k).isLt
    have hn := ih (k + 1)
    rw [Mem.readNat, Nat.pow_succ]
    omega

/-- The words that are read of pieces of 16 bytes are the image's bytes. -/
theorem flatMap_read (s : State) {ps : List Piece} (h : ∀ p ∈ ps, p.size = 16) :
    ((ps.map fun p => s.mem.read 128 p.key p.size).flatMap fun w => bytesOfNat 16 w.toNat) = s.imageBytes ps := by
  rw [List.flatMap_map, State.imageBytes]
  refine List.flatMap_congr fun p hp => ?_
  rw [Mem.read, BitVec.toNat_ofNat, Nat.mod_eq_of_lt]
  rw [h p hp]
  exact Mem.readNat_lt _ _ _

theorem loadImage_unaligned {e : Exit} (h : imageAligned ea 128 = .error e) : s.loadImage ea = .error e := by
  simp only [State.loadImage, h, bind, Except.bind]

theorem loadImage_faults {e : Exit} (ha : imageAligned ea 128 = .ok ()) (h : s.imagePieces .load ea 0 128 = .error e) :
    s.loadImage ea = .error e := by
  simp only [State.loadImage, ha, h, bind, Except.bind]

/-- How a load of an image goes on after its first 128 bytes, which show its kind. -/
def State.loadRest (s : State) (ea : DWord) (first : List Piece) (r : State × List (BitVec 128)) : Except Exit (State × List Byte) := do
  let b := r.2.flatMap fun w => bytesOfNat 16 w.toNat
  if imageSize (imgNat b 0 1) = 128 then return (r.1, b)
  else
    imageAligned ea 4096
    let rest ← s.imagePieces .load ea 128 4096
    if !s.mayAccess (rest.map fun p => (p.key, p.size)) then throw (.wait s)
    let s' := r.1.modCur fun c => { c with xact := some { todo := rest, done := r.2 } }
    let q ← s'.readPieces ea (first ++ rest)
    return (q.1, q.2.flatMap fun w => bytesOfNat 16 w.toNat)

theorem loadImage_first {r : State × List (BitVec 128)} (hx : s.cur.xact = none) (ha : imageAligned ea 128 = .ok ())
    (hp : s.imagePieces .load ea 0 128 = .ok ps) (hr : s.readPieces ea ps = .ok r) : s.loadImage ea = s.loadRest ea ps r := by
  simp only [State.loadImage, ha, hp, hx, hr, bind, Except.bind, Option.map_none]
  rfl

/-- The first 128 bytes of an image are read. -/
theorem loadImage_begins (ha : AtOnce s ps) (hg : Good s ps) (hal : imageAligned ea 128 = .ok ())
    (hp : s.imagePieces .load ea 0 128 = .ok ps) :
    ∃ v, s.loadImage ea = s.loadRest ea ps (v, ps.map fun p => s.mem.read 128 p.key p.size) ∧ AfterMeeting s v := by
  obtain ⟨v, hr, hv⟩ := readPieces_own ha hg ea
  exact ⟨v, loadImage_first ha.idle.1 hal hp hr, hv⟩

theorem loadRest_short (hp : s.imagePieces .load ea 0 128 = .ok ps) (hn : imageSize (imgNat (s.imageBytes ps) 0 1) = 128) (v : State) :
    s.loadRest ea ps (v, ps.map fun p => s.mem.read 128 p.key p.size) = .ok (v, s.imageBytes ps) := by
  have hb := flatMap_read s fun p h => imagePieces_size hp h
  simp only [State.loadRest, hb, if_pos hn]
  rfl

theorem loadRest_unaligned {e : Exit} (hp : s.imagePieces .load ea 0 128 = .ok ps)
    (hn : imageSize (imgNat (s.imageBytes ps) 0 1) = 4096) (he : imageAligned ea 4096 = .error e) (v : State) :
    s.loadRest ea ps (v, ps.map fun p => s.mem.read 128 p.key p.size) = .error e := by
  have hb := flatMap_read s fun p h => imagePieces_size hp h
  simp only [State.loadRest, hb, hn, he]
  rfl

/-- The kind that an image shows stands in its first pieces. -/
theorem kind_of_first (s : State) (ps : List Piece) : imgNat (s.imageBytes (ps.take 8)) 0 1 = imgNat (s.imageBytes ps) 0 1 := by
  rw [imageBytes_take]
  exact imgNat_take _ (by decide)

theorem loadRest_long (ha : AtOnce s ps) (hg : Good s ps) (hp : s.imagePieces .load ea 0 4096 = .ok ps)
    (hn : imageSize (imgNat (s.imageBytes ps) 0 1) = 4096) (hal : imageAligned ea 4096 = .ok ()) {v : State} (hv : AfterMeeting s v) :
    ∃ w, s.loadRest ea (ps.take 8) (v, (ps.take 8).map fun p => s.mem.read 128 p.key p.size) = .ok (w, s.imageBytes ps) ∧
      AfterMeeting s w := by
  obtain ⟨hp1, hp2⟩ := imagePieces_split hp
  have hsub : ∀ p ∈ ps.drop 8, p ∈ ps := fun p h => List.mem_of_mem_drop h
  have hb := flatMap_read s fun p h => imagePieces_size hp1 h
  have hmay := (ha.sub hsub).mayAccess
  have hdone : ps.drop ((ps.take 8).map fun p => s.mem.read 128 p.key p.size).length = ps.drop 8 := by
    rw [List.length_map, List.length_take, imagePieces_length hp]
    rfl
  obtain ⟨w, hw, hm⟩ := readPieces_resumed (ha.sub hsub) (fun p h => hg p (hsub p h)) hv hdone ea
  refine ⟨w, ?_, hm⟩
  rw [← List.map_append, List.take_append_drop] at hw
  have hall := flatMap_read s fun p h => imagePieces_size hp h
  simp only [State.loadRest, hb, kind_of_first, hn, hal, hp2, hmay, List.take_append_drop, hw, bind, Except.bind, hall]
  rfl

/-- An image that can be read at once. -/
theorem loadImage_own (ha : AtOnce s ps) (hg : Good s ps) (hs : (spaceOf ea).isSome = true)
    (hn : ea.toNat % imageSize (imgNat (s.imageBytes ps) 0 1) = 0)
    (hp : s.imagePieces .load ea 0 (imageSize (imgNat (s.imageBytes ps) 0 1)) = .ok ps) :
    ∃ v, s.loadImage ea = .ok (v, s.imageBytes ps) ∧ AfterMeeting s v := by
  obtain h | h := imageSize_cases (imgNat (s.imageBytes ps) 0 1)
  · rw [h] at hn hp
    obtain ⟨v, hl, hv⟩ := loadImage_begins ha hg (imageAligned_ok hs hn) hp
    exact ⟨v, hl.trans (loadRest_short hp h v), hv⟩
  · rw [h] at hn hp
    have hsub : ∀ p ∈ ps.take 8, p ∈ ps := fun p h => List.mem_of_mem_take h
    obtain ⟨v, hl, hv⟩ := loadImage_begins (ha.sub hsub) (fun p h => hg p (hsub p h)) (imageAligned_ok hs (by omega))
      (imagePieces_split hp).1
    obtain ⟨w, hw, hm⟩ := loadRest_long ha hg hp h (imageAligned_ok hs hn) hv
    exact ⟨w, hl.trans hw, hm⟩

/-- The image has the size of the kind that it shows. -/
theorem whole_imageBytes {u' : Purpose} (hp : s.imagePieces u' ea 0 (imageSize (imgNat (s.imageBytes ps) 0 1)) = .ok ps) : Whole (s.imageBytes ps) := by
  rw [Whole, imageBytes_length, imagePieces_length hp]
  obtain h | h := imageSize_cases (imgNat (s.imageBytes ps) 0 1) <;> rw [h]

end Sys2Proof.Machine
end

section
/-! # SKST, SKLD and SKLDH (R226, R242, R248) -/

namespace Sys2Proof.Machine

variable {s t u v : State} {ps : List Piece} {ea : DWord} {n : Nat} {d : HReg} {x : AReg} {imm : BitVec 64} {i : Instr}

/-! ## Registers after a meeting of logical times -/

/-- A change of the tile that looks neither at a context nor at the leases, after the meeting. -/
theorem AfterMeeting.modHere (h : AfterMeeting u t) (f : Tile → Tile)
    (hf : ∀ (x : Tile) (i : CtxId) (c : Ctx) (l : List Lease), f { x.setCtx i c with leases := l } = { (f x).setCtx i c with leases := l })
    (hc : ∀ (x : Tile) (i : CtxId), (f x).ctx i = x.ctx i) : AfterMeeting (u.modHere f) (t.modHere f) := by
  have hfo := h.focus
  have hcur (w : State) : (w.modHere f).cur = w.cur := by
    unfold State.cur
    rw [State.here_modHere]
    exact hc _ _
  refine ⟨?_, fun r hr => ?_, ?_, ?_⟩
  · have hr : ∀ l, ({ t with tiles := l } : State) = { u with tiles := l } := fun l => by rw [h.rest]
    exact hr (t.modHere f).tiles
  · have hr' : r ≠ u.focus.rank := hr
    rw [State.modHere, State.tile_modTile_other _ (by rw [hfo]; exact hr'), State.modHere, State.tile_modTile_other _ hr']
    exact h.others r hr'
  · rw [hcur, State.here_modHere, State.here_modHere, h.tile, hf]
    rfl
  · rw [hcur, hcur]
    exact h.ctx

theorem AfterMeeting.setSumm (h : AfterMeeting u t) (d : HReg) (x : Summ) : AfterMeeting (u.setSumm d x) (t.setSumm d x) :=
  h.modHere _ (fun _ i _ _ => by cases i <;> rfl) fun _ i => by cases i <;> rfl

/-! ## The register's kind -/

theorem anyKind_iff {k : Nat} : anyKind k = true ↔ 1 ≤ k ∧ k ≤ 6 := by
  rw [anyKind, Bool.and_eq_true, decide_eq_true_eq, decide_eq_true_eq]

theorem summRead_good (h : s.here.hbad = []) (d : HReg) (n : Nat) : s.summRead d n = .ok () := by
  rw [State.summRead, h]
  rfl

theorem summOf_valid (h : s.here.hbad = []) (hv : 1 ≤ (s.here.summ d).kind ∧ (s.here.summ d).kind ≤ 6) :
    s.summOf d anyKind = .ok (s.here.summ d) := by
  simp only [State.summOf, summRead_good h, anyKind_iff.2 hv, if_true]

theorem zero_append_word (w : Word) : (0#32 ++ w : BitVec 64) = w.setWidth 64 := by
  apply BitVec.eq_of_toNat_eq
  have hw := w.isLt
  refine (BitVec.toNat_append 0#32 w).trans ?_
  rw [BitVec.toNat_setWidth, Nat.mod_eq_of_lt (by omega)]
  exact Nat.zero_or _

theorem summOf_invalid (h : s.here.hbad = []) (hv : ¬(1 ≤ (s.here.summ d).kind ∧ (s.here.summ d).kind ≤ 6)) :
    s.summOf d anyKind = .error (.trap 0x10 0x01 ((s.summHead d).setWidth 64)) := by
  have hk : anyKind (s.here.summ d).kind = false := by
    rw [← Bool.not_eq_true, anyKind_iff]
    exact hv
  simp only [State.summOf, summRead_good h, hk, summTrap, Option.getD_none]
  exact congrArg (fun b => Except.error (Exit.trap 0x10 0x01 b)) (zero_append_word _)

/-! ## Stores of an image -/

/-- Pieces of 16 bytes written whole. -/
def WholePieces (l : List StorePiece) : Prop := ∀ p ∈ l, p.mask = 0xFFFF ∧ p.piece.size = 16

theorem State.storePieces_rest (s : State) (l : List StorePiece) (known : List Nat) : s.storePieces l known =
    { s with mem := (s.storePieces l known).mem, poison := (s.storePieces l known).poison, marks := (s.storePieces l known).marks } := by
  induction l generalizing s with
  | nil => rfl
  | cons p l ih =>
    have hone (m : Mem) (po : List Nat) (ma : List (Nat × List Nat)) :
        ({ s.storeMasked p.piece.key p.piece.size p.data p.mask known with mem := m, poison := po, marks := ma } : State) =
          { s with mem := m, poison := po, marks := ma } := by
      unfold State.storeMasked
      split <;> rfl
    exact (ih (s.storeMasked p.piece.key p.piece.size p.data p.mask known)).trans (hone _ _ _)

theorem State.storePieces_cons {p : StorePiece} {l : List StorePiece} (h : WholePieces (p :: l)) (s : State) (known : List Nat) :
    s.storePieces (p :: l) known = (s.store p.piece.key 16 p.data known).storePieces l known := by
  obtain ⟨hm, hs⟩ := h p (.head _)
  rw [State.storePieces, List.foldl_cons, hm, hs, State.storeMasked_whole _ _ _ (Nat.le_refl 16)]
  rfl

theorem WholePieces.tail {p : StorePiece} {l : List StorePiece} (h : WholePieces (p :: l)) : WholePieces l := fun q hq => h q (.tail _ hq)

theorem State.get_storePieces {l : List StorePiece} (h : WholePieces l) (s : State) (known : List Nat) {b : Nat}
    (hb : ∀ p ∈ l, b < p.piece.key ∨ p.piece.key + 16 ≤ b) : (s.storePieces l known).mem.get b = s.mem.get b := by
  induction l generalizing s with
  | nil => rfl
  | cons p l ih =>
    rw [State.storePieces_cons h, ih h.tail _ fun q hq => hb q (.tail _ hq)]
    exact Mem.get_write_other _ _ _ _ (hb p (.head _))

/-- A piece that no later one overlaps holds its data. -/
theorem State.readNat_storePieces {l : List StorePiece} (h : WholePieces l) (s : State) (known : List Nat) {j : Nat} {p : StorePiece}
    (hp : l[j]? = some p)
    (hl : ∀ k q, j < k → l[k]? = some q → q.piece.key + 16 ≤ p.piece.key ∨ p.piece.key + 16 ≤ q.piece.key) :
    (s.storePieces l known).mem.readNat p.piece.key 16 = p.data.toNat := by
  induction l generalizing s j with
  | nil => cases hp
  | cons q l ih =>
    rw [State.storePieces_cons h]
    cases j with
    | succ j => exact ih h.tail _ hp fun k r hk hr => hl (k + 1) r (Nat.succ_lt_succ hk) hr
    | zero =>
      obtain rfl : q = p := Option.some.inj hp
      have hread : ((s.store q.piece.key 16 q.data known).storePieces l known).mem.readNat q.piece.key 16 =
          (s.store q.piece.key 16 q.data known).mem.readNat q.piece.key 16 := by
        refine Mem.readNat_congr fun b h1 h2 => State.get_storePieces h.tail _ _ fun r hr => ?_
        obtain ⟨k, hk⟩ := List.mem_iff_getElem?.1 hr
        have := hl (k + 1) r (Nat.succ_pos k) hk
        omega
      rw [hread, (s.store_spec q.piece.key 16 q.data known).2]
      exact Nat.mod_eq_of_lt q.data.isLt

/-- The pieces of a store of an image. -/
def imageStores (img : List Byte) (ps : List Piece) : List StorePiece :=
  ps.zipIdx.map fun e => { piece := e.1, data := BitVec.ofNat 128 (imgNat img (16 * e.2) 16) }

theorem piece_imageStores (img : List Byte) (ps : List Piece) : (imageStores img ps).map (·.piece) = ps := by
  rw [imageStores, List.map_map]
  exact List.zipIdx_map_fst 0 ps

theorem getElem?_imageStores (img : List Byte) (ps : List Piece) (j : Nat) : (imageStores img ps)[j]? =
    ps[j]?.map fun p => { piece := p, data := BitVec.ofNat 128 (imgNat img (16 * j) 16) } := by
  rw [imageStores, List.getElem?_map, List.getElem?_zipIdx, Option.map_map, Nat.zero_add]
  rfl

theorem wholePieces_imageStores (img : List Byte) (h : ∀ p ∈ ps, p.size = 16) : WholePieces (imageStores img ps) := by
  intro p hp
  obtain ⟨e, he, rfl⟩ := List.mem_map.1 hp
  exact ⟨rfl, h _ (List.fst_mem_of_mem_zipIdx he)⟩

/-! ## The groups -/

theorem Ready.compute (h : Ready .all false s) (hc : s.focus.ctx = .c) : Ready .compute false s :=
  ⟨h.1, by rw [hc]; rfl, h.2.2⟩

/-- The body of SKST. -/
def skstBody (d : HReg) (x : AReg) (imm : BitVec 64) : Body := fun s => do
  let a ← s.summOf d anyKind
  let ea := s.cur.ea x imm 128
  let n := imageSize a.kind
  imageAligned ea n
  let ps ← s.imagePieces .store ea 0 n
  let img := s.here.summImage d
  let s' ← s.writePieces (ps.zipIdx.map fun e =>
    ({ piece := e.1, data := BitVec.ofNat 128 (imgNat img (16 * e.2) 16) } : StorePiece))
  return .on s'

/-- The body of SKLD. -/
def skldBody (d : HReg) (x : AReg) (imm : BitVec 64) : Body := fun s => do
  let r ← s.loadImage (s.cur.ea x imm 128)
  if !imageOk r.2 then throw (summTrap 0x06 (s.summHead d) (headWordOf r.2))
  return .on (r.1.setSumm d (readImage r.2))

/-- The body of SKLDH. -/
def skldhBody (d : HReg) (x : AReg) (imm : BitVec 64) : Body := fun s => do
  let a ← s.summOf d anyKind
  let r ← s.loadImage (s.cur.ea x imm 128)
  let second := headWordOf r.2
  if !imageOk r.2 then throw (summTrap 0x06 (s.summHead d) second)
  match mergeDefect a (readImage r.2) with
  | some k => throw (summTrap k (s.summHead d) second)
  | none => return .on (r.1.setSumm d (a.merge (readImage r.2)))

theorem exec_skst : exec (.skst d x imm) s = runGroup .compute false (skstBody d x imm) s := rfl
theorem exec_skld : exec (.skld d x imm) s = runGroup .compute false (skldBody d x imm) s := rfl
theorem exec_skldh : exec (.skldh d x imm) s = runGroup .compute false (skldhBody d x imm) s := rfl

/-- The register holds a summary of one of the kinds, and no word that is bad data. -/
structure Holds (s : State) (d : HReg) : Prop where
  good : s.here.hbad = []
  kind : 1 ≤ (s.here.summ d).kind ∧ (s.here.summ d).kind ≤ 6

theorem Holds.summOf (h : Holds s d) : s.summOf d anyKind = .ok (s.here.summ d) := summOf_valid h.good h.kind

theorem skstBody_unaligned {e : Exit} (h : Holds s d) (he : imageAligned (s.cur.ea x imm 128) (imageSize (s.here.summ d).kind) = .error e) :
    skstBody d x imm s = .error e := by
  simp only [skstBody, h.summOf, he, bind, Except.bind]

theorem skstBody_faults {e : Exit} (h : Holds s d) (ha : imageAligned (s.cur.ea x imm 128) (imageSize (s.here.summ d).kind) = .ok ())
    (he : s.imagePieces .store (s.cur.ea x imm 128) 0 (imageSize (s.here.summ d).kind) = .error e) :
    skstBody d x imm s = .error e := by
  simp only [skstBody, h.summOf, ha, he, bind, Except.bind]

theorem skstBody_ok (h : Holds s d) (ha : imageAligned (s.cur.ea x imm 128) (imageSize (s.here.summ d).kind) = .ok ())
    (hp : s.imagePieces .store (s.cur.ea x imm 128) 0 (imageSize (s.here.summ d).kind) = .ok ps)
    (hw : s.writePieces (imageStores (s.here.summImage d) ps) = .ok v) : skstBody d x imm s = .ok (.on v) := by
  simp only [skstBody, h.summOf, ha, hp, bind, Except.bind]
  exact congrArg (· >>= fun v => (pure (.on v) : Except Exit Flow)) hw

theorem skldBody_error {e : Exit} (he : s.loadImage (s.cur.ea x imm 128) = .error e) : skldBody d x imm s = .error e := by
  simp only [skldBody, he, bind, Except.bind]

theorem skldBody_ok {img : List Byte} (hl : s.loadImage (s.cur.ea x imm 128) = .ok (v, img)) (hok : imageOk img = true) :
    skldBody d x imm s = .ok (.on (v.setSumm d (readImage img))) := by
  simp only [skldBody, hl, hok, bind, Except.bind]
  rfl

theorem skldBody_broken {img : List Byte} (hl : s.loadImage (s.cur.ea x imm 128) = .ok (v, img)) (hok : imageOk img = false) :
    skldBody d x imm s = .error (summTrap 0x06 (s.summHead d) (headWordOf img)) := by
  simp only [skldBody, hl, hok, bind, Except.bind]
  rfl

theorem skldhBody_error {e : Exit} (h : Holds s d) (he : s.loadImage (s.cur.ea x imm 128) = .error e) :
    skldhBody d x imm s = .error e := by
  simp only [skldhBody, h.summOf, he, bind, Except.bind]

theorem skldhBody_broken {img : List Byte} (h : Holds s d) (hl : s.loadImage (s.cur.ea x imm 128) = .ok (v, img))
    (hok : imageOk img = false) : skldhBody d x imm s = .error (summTrap 0x06 (s.summHead d) (headWordOf img)) := by
  simp only [skldhBody, h.summOf, hl, hok, bind, Except.bind]
  rfl

theorem skldhBody_defect {img : List Byte} {k : Byte} (h : Holds s d) (hl : s.loadImage (s.cur.ea x imm 128) = .ok (v, img))
    (hok : imageOk img = true) (hd : mergeDefect (s.here.summ d) (readImage img) = some k) :
    skldhBody d x imm s = .error (summTrap k (s.summHead d) (headWordOf img)) := by
  simp only [skldhBody, h.summOf, hl, hok, hd, bind, Except.bind]
  rfl

theorem skldhBody_ok {img : List Byte} (h : Holds s d) (hl : s.loadImage (s.cur.ea x imm 128) = .ok (v, img))
    (hok : imageOk img = true) (hd : mergeDefect (s.here.summ d) (readImage img) = none) :
    skldhBody d x imm s = .ok (.on (v.setSumm d ((s.here.summ d).merge (readImage img)))) := by
  simp only [skldhBody, h.summOf, hl, hok, hd, bind, Except.bind]
  rfl

theorem mergeDefect_kind {a b : Summ} (h : a.kind ≠ b.kind ∨ a.ktype ≠ b.ktype) : mergeDefect a b = some 0x02 := if_pos h

theorem mergeDefect_seed {a b : Summ} (hk : a.kind = b.kind) (ht : a.ktype = b.ktype) (h6 : a.kind = 6) (hs : a.seed ≠ b.seed) :
    mergeDefect a b = some 0x05 := by
  rw [mergeDefect, if_neg (by simp [hk, ht]), if_pos ⟨h6, hs⟩]

theorem mergeDefect_none {a b : Summ} (hk : a.kind = b.kind) (ht : a.ktype = b.ktype) (hs : a.kind = 6 → a.seed = b.seed) :
    mergeDefect a b = none := by
  rw [mergeDefect, if_neg (by simp [hk, ht]), if_neg fun h => h.2 (hs h.1)]

end Sys2Proof.Machine
end

section
/-! # The claim about summary images -/

namespace Sys2Proof.Machine

variable {s : State} {ps : List Piece} {n : Nat} {d : HReg} {x : AReg} {imm : BitVec 64} {i : Instr}

/-! ## SKST -/

theorem skst_stores (hr : Ready .compute false s) (h : Holds s d) (ha : AtOnce s ps)
    (hs : (spaceOf (s.cur.ea x imm 128)).isSome = true) (hn : (s.cur.ea x imm 128).toNat % imageSize (s.here.summ d).kind = 0)
    (hw : Writable s ps) (hp : s.imagePieces .store (s.cur.ea x imm 128) 0 (imageSize (s.here.summ d).kind) = .ok ps) :
    ∃ u : State, u = { s with mem := u.mem, poison := u.poison, marks := u.marks } ∧ CompletesAccess (.skst d x imm) s u ∧
      (∀ b, (∀ p ∈ ps, b < p.key ∨ p.key + p.size ≤ b) → u.mem.get b = s.mem.get b) ∧
      ∀ j p, ps[j]? = some p → (∀ k q, j < k → ps[k]? = some q → q.key + 16 ≤ p.key ∨ p.key + 16 ≤ q.key) →
        u.mem.readNat p.key 16 = imgNat (s.here.summImage d) (16 * j) 16 := by
  let img := s.here.summImage d
  have hsize : ∀ p ∈ ps, p.size = 16 := fun p hp' => imagePieces_size hp hp'
  have hwhole : WholePieces (imageStores img ps) := wholePieces_imageStores img hsize
  have hpieces := piece_imageStores img ps
  obtain ⟨v, hv, hm⟩ := writePieces_own (ps := imageStores img ps) (by rw [hpieces]; exact ha) (by rw [hpieces]; exact hw)
  refine ⟨s.storePieces (imageStores img ps) s.cur.pts.known, s.storePieces_rest _ _,
    runGroup_accesses hr exec_skst (skstBody_ok h (imageAligned_ok hs hn) hp hv) ?_ hm, fun b hb => ?_, fun j p hj hl => ?_⟩
  · rw [s.storePieces_rest]
  · refine State.get_storePieces hwhole s _ fun q hq => ?_
    have hmem : q.piece ∈ ps := hpieces ▸ List.mem_map_of_mem hq
    have := hb _ hmem
    rwa [hsize _ hmem] at this
  · have hq := getElem?_imageStores img ps j
    rw [hj] at hq
    have hread := State.readNat_storePieces hwhole s s.cur.pts.known hq fun k q hk hq => ?_
    · rw [hread]
      exact (BitVec.toNat_ofNat _ _).trans (Nat.mod_eq_of_lt (imgNat_lt _ _ _))
    · rw [getElem?_imageStores] at hq
      obtain ⟨r, hr, rfl⟩ := Option.map_eq_some_iff.1 hq
      exact hl k r hk hr

/-- The traps of SKST and SKLDH for the register. -/
theorem summ_kind_traps (hr : Ready .compute false s) (hg : s.here.hbad = []) (hu : s.cur.sup = false)
    (hv : ¬(1 ≤ (s.here.summ d).kind ∧ (s.here.summ d).kind ≤ 6)) :
    TakesTrap (.skst d x imm) s 0x10 0x01 ((s.summHead d).setWidth 64) ∧
    TakesTrap (.skldh d x imm) s 0x10 0x01 ((s.summHead d).setWidth 64) := by
  have hof := summOf_invalid hg hv
  refine ⟨takesTrap_of_body exec_skst hr hu ?_, takesTrap_of_body exec_skldh hr hu ?_⟩
  · simp only [skstBody, hof, bind, Except.bind]
  · simp only [skldhBody, hof, bind, Except.bind]

/-! ## SKLD and SKLDH -/

/-- The group is SKLD, or SKLDH on a register of one of the kinds. -/
def LoadsImage (s : State) (d : HReg) (x : AReg) (imm : BitVec 64) (i : Instr) : Prop :=
  i = .skld d x imm ∨ i = .skldh d x imm ∧ (1 ≤ (s.here.summ d).kind ∧ (s.here.summ d).kind ≤ 6)

/-- A load of the image that fails traps in both groups. -/
theorem LoadsImage.traps (hi : LoadsImage s d x imm i) (hr : Ready .compute false s) (hg : s.here.hbad = []) (hu : s.cur.sup = false)
    {code detail : Byte} {value : DWord} (he : s.loadImage (s.cur.ea x imm 128) = .error (.trap code detail value)) :
    TakesTrap i s code detail value := by
  obtain rfl | ⟨rfl, hv⟩ := hi
  · exact takesTrap_of_body exec_skld hr hu (skldBody_error he)
  · exact takesTrap_of_body exec_skldh hr hu (skldhBody_error ⟨hg, hv⟩ he)

/-- An image that breaks R226 traps in both groups. -/
theorem LoadsImage.traps_broken (hi : LoadsImage s d x imm i) (hr : Ready .compute false s) (hg : s.here.hbad = [])
    (hu : s.cur.sup = false) {v : State} {img : List Byte} (hl : s.loadImage (s.cur.ea x imm 128) = .ok (v, img))
    (hok : imageOk img = false) : TakesTrap i s 0x10 0x06 (headWordOf img ++ s.summHead d : BitVec 64) := by
  obtain rfl | ⟨rfl, hv⟩ := hi
  · exact takesTrap_of_body exec_skld hr hu (skldBody_broken hl hok)
  · exact takesTrap_of_body exec_skldh hr hu (skldhBody_broken ⟨hg, hv⟩ hl hok)

/-- A valid image of the register's kind is merged into it. -/
theorem skldh_merges (hr : Ready .compute false s) (h : Holds s d) {v : State} {img : List Byte} (hv : AfterMeeting s v)
    (hl : s.loadImage (s.cur.ea x imm 128) = .ok (v, img)) (hok : imageOk img = true)
    (hk : (s.here.summ d).kind = (readImage img).kind) (ht : (s.here.summ d).ktype = (readImage img).ktype)
    (hs : (s.here.summ d).kind = 6 → (s.here.summ d).seed = (readImage img).seed) :
    ∃ m, Merged (s.here.summ d) (readImage img) m ∧ CompletesAccess (.skldh d x imm) s (s.setSumm d m) := by
  obtain ⟨⟨h1, h6⟩, -⟩ := imageOk_iff hok
  have hb := readImage_ofKind h1 h6
  rw [← hk] at hb
  exact ⟨_, merged_merge rfl (readImage_ofKind h.kind.1 h.kind.2) hb,
    runGroup_accesses hr exec_skldh (skldhBody_ok h hl hok (mergeDefect_none hk ht hs)) rfl (hv.setSumm d _)⟩

/-- Settles O43: an image is read at once or in two parts, and what is merged is a merge by `merged_merge`. -/
theorem summaryImages : Obligations.SummaryImages := by
  intro s d x imm ps hready hc ha hg
  have hr := hready.compute hc
  refine ⟨fun hv hs hn hw hp => skst_stores hr ⟨hg, hv⟩ ha hs hn hw hp, fun hu => ⟨fun hv => summ_kind_traps hr hg hu hv, ?_, ?_, ?_⟩,
    fun hs hn hgood hp => ?_, fun i hu hi => ⟨?_, ?_, ?_, ?_⟩⟩
  · exact fun hv hs => takesTrap_of_body exec_skst hr hu (skstBody_unaligned ⟨hg, hv⟩ (imageAligned_space hs))
  · exact fun hv hs hn => takesTrap_of_body exec_skst hr hu (skstBody_unaligned ⟨hg, hv⟩ (imageAligned_offset hs hn))
  · intro code hv hs hn hd
    have hal := imageAligned_ok (Option.isSome_iff_ne_none.2 hs) hn
    have h16 : 16 ≤ imageSize (s.here.summ d).kind := by
      obtain h | h := imageSize_cases (s.here.summ d).kind <;> rw [h] <;> decide
    exact takesTrap_of_body exec_skst hr hu (skstBody_faults ⟨hg, hv⟩ hal (imagePieces_error h16 hd.target))
  · obtain ⟨v, hl, hv⟩ := loadImage_own ha hgood hs hn hp
    refine ⟨fun hok => ⟨?_, s.summ_setSumm d (whole_imageBytes hp) hok⟩, fun i hu hi hok => LoadsImage.traps_broken hi hr hg hu hl hok,
      fun hvalid hok => ⟨fun hk ht hs => skldh_merges hr ⟨hg, hvalid⟩ hv hl hok hk ht hs, fun hu hk => ?_, fun hu hk ht h6 hs => ?_⟩⟩
    · exact runGroup_accesses hr exec_skld (skldBody_ok hl hok) rfl (hv.setSumm d _)
    · exact takesTrap_of_body exec_skldh hr hu (skldhBody_defect ⟨hg, hvalid⟩ hl hok (mergeDefect_kind hk))
    · exact takesTrap_of_body exec_skldh hr hu (skldhBody_defect ⟨hg, hvalid⟩ hl hok (mergeDefect_seed hk ht h6 hs))
  · exact fun hs => LoadsImage.traps hi hr hg hu (loadImage_unaligned (imageAligned_space hs))
  · exact fun hs hn => LoadsImage.traps hi hr hg hu (loadImage_unaligned (imageAligned_offset hs hn))
  · intro code hs hn hd
    have hal := imageAligned_ok (Option.isSome_iff_ne_none.2 hs) hn
    exact LoadsImage.traps hi hr hg hu (loadImage_faults hal (imagePieces_error (by decide) hd.target))
  · intro hs hn hn4 hp hgood hsize
    obtain ⟨v, hl, -⟩ := loadImage_begins ha hgood (imageAligned_ok (Option.isSome_iff_ne_none.2 hs) hn) hp
    exact LoadsImage.traps hi hr hg hu (hl.trans (loadRest_unaligned hp hsize (imageAligned_offset hs hn4) v))

end Sys2Proof.Machine
end
